-- ==== Sys2Proof/Word.lean ====
section
/-! DEFINITION. The word types of the PX71440 and their plainest arithmetic (03_numbers.md R50, 00_scope.md R6, R10). -/
namespace Sys2Proof

/-- A byte of memory. -/
abbrev Byte := BitVec 8

/-- The contents of one v register (R1: 32 bits). -/
abbrev Word := BitVec 32

/-- A 64-bit quantity: a generic address, a d operand, a GTIME (R221, R89, R33). -/
abbrev DWord := BitVec 64

/-- A program counter: a 56-bit global virtual address (R80). -/
abbrev Pc := BitVec 56

/-- The index of a v register, v0 to v127 (R87). -/
abbrev VReg := BitVec 7

/-- A predicate field: p0 to p14, and 15 for pt (R87). -/
abbrev PReg := BitVec 4

end Sys2Proof
end

