-- ==== Sys2Proof/Operand.lean ====
section
/-! DEFINITION. The operands and modifiers of instruction words (04_encoding.md R84 to R106), and the names of the machine's
objects that the steps of other agents take as arguments. -/
namespace Sys2Proof

/-- The fields every word has (R84): cache hint, windows to drop, give-way hint, issue gap, negated guard, guard predicate. -/
structure Hints where
  ch    : BitVec 2
  wdrop : BitVec 8
  yld   : Bool
  gap   : BitVec 3
  gn    : Bool
  gp    : PReg
  deriving DecidableEq, Repr

/-- Guard pt and no hint. -/
def Hints.none : Hints := { ch := 0, wdrop := 0, yld := false, gap := 0, gn := false, gp := 15 }

/-- A source of class v or i9 (R89). -/
inductive Src where
  | reg (r : VReg)
  | imm (v : BitVec 9)
  deriving DecidableEq, Repr

/-- A destination of class v or p (R89). -/
inductive DstVP where
  | v (r : VReg)
  | p (r : PReg)
  deriving DecidableEq, Repr

/-- The source of MOV: class v, p or i9 (R104). -/
inductive SrcVP where
  | v (r : VReg)
  | p (r : PReg)
  | imm (v : BitVec 9)
  deriving DecidableEq, Repr

/-- A barrier operand: a named barrier or a gang barrier (R88). -/
inductive Bar where
  | nb (n : BitVec 4)
  | gb (n : BitVec 2)
  deriving DecidableEq, Repr

/-- A structured register that XGET and XSET name (R408). -/
inductive SReg where
  | cv (n : BitVec 3)
  | jb (n : BitVec 4)
  | nb (n : BitVec 4)
  | gb (n : BitVec 2)
  deriving DecidableEq, Repr

/-- Comparison codes 0 to 5 (R104). -/
inductive Cmp where
  | eq | ne | lt | le | gt | ge
  deriving DecidableEq, Repr

/-- FSET's codes (R104). -/
inductive Fn where
  | eq | ne | lt | le | gt | ge | num | nan
  deriving DecidableEq, Repr

/-- Rounding modes (R52). -/
inductive Rm where
  | rn | rz | rd | ru
  deriving DecidableEq, Repr

/-- The IEEE formats (R51). -/
inductive Fmt where
  | f32 | f16 | bf16
  deriving DecidableEq, Repr

/-- The element format of a packed row: SUB[0] (R104). -/
inductive Half where
  | bf16 | f16
  deriving DecidableEq, Repr

/-- Integer types of conversions (R104). -/
inductive ITy where
  | i32 | n32 | i16 | n16 | i8 | n8 | i64 | n64
  deriving DecidableEq, Repr

/-- Types of the cross-lane rows (R104). -/
inductive LTy where
  | b32 | n32 | f32 | sli
  deriving DecidableEq, Repr

inductive ShflOp where
  | idx | up | down | xor
  deriving DecidableEq, Repr

inductive VoteOp where
  | all | any | uni
  deriving DecidableEq, Repr

inductive MatchOp where
  | any | all
  deriving DecidableEq, Repr

/-- SUB of REDUX and SCAN (R104). -/
inductive RedOp where
  | add | min | max | and | or | xor
  deriving DecidableEq, Repr

/-- SZ of LD and ST (R105); ST reserves i8 and i16. -/
inductive Sz where
  | n8 | i8 | n16 | i16 | b32 | b64 | b128
  deriving DecidableEq, Repr

/-- Memory scopes (R231). -/
inductive Scope where
  | core | quad | die | pkg | pod
  deriving DecidableEq, Repr

/-- The order of an atomic: SUB[3:2] (R106). -/
inductive AOrd where
  | relaxed | acq | rel | acqrel
  deriving DecidableEq, Repr

/-- Atomic operations (R106). -/
inductive Aop where
  | add | min | max | and | or | xor | exch | inc | dec
  deriving DecidableEq, Repr

/-- Atomic types (R106). -/
inductive ATy where
  | n32 | i32 | n64 | i64 | f32 | bf16x2 | f16x2
  deriving DecidableEq, Repr

/-- SUB of BARINIT (R104, R338). -/
inductive BScope where
  | grp | quad | die | pkg | pod
  deriving DecidableEq, Repr

/-- SUB of MMA (R324). -/
inductive MmaKind where
  | n | w | i
  deriving DecidableEq, Repr

/-- SUB of MSTORE (R331). MLOAD takes f32 and i32 only. -/
inductive MCell where
  | f32 | bf16 | sli | i32
  deriving DecidableEq, Repr

/-- Roles of a group (R113). -/
inductive Role where
  | general | copy | matrix | vector
  deriving DecidableEq, Repr

/-- The operations a PAIR slot can name (R100). -/
inductive PairOp where
  | iadd | isub | imul | iminS | iminU | imaxS | imaxU | and | or | xor | andn | shl | shr | sar | mov
  | fadd | fmul | ffma | fmin | fmax
  | hadd2 (f : Half) | hmul2 (f : Half) | hfma2 (f : Half) | hmin2 (f : Half) | hmax2 (f : Half)
  deriving DecidableEq, Repr

/-- An 8-bit operand of a PAIR slot (R98). -/
inductive PSrc where
  | reg (r : VReg)
  | imm (v : BitVec 7)
  deriving DecidableEq, Repr

/-- One slot of a PAIR (R98). -/
structure PSlot where
  op : PairOp
  d  : VReg
  a  : PSrc
  b  : PSrc
  deriving DecidableEq, Repr

/-! ### Names of the machine's objects -/

/-- A core of a partition: the partition and the logical core, die times 36 plus core within die (R14). -/
structure CoreRef where
  part : Nat
  core : Nat
  deriving DecidableEq, Repr

/-- A context of a partition (R411). -/
structure CtxRef where
  part : Nat
  ctx  : Nat
  deriving DecidableEq, Repr

/-- What a context holds on one core. -/
structure CCRef where
  part : Nat
  ctx  : Nat
  core : Nat
  deriving DecidableEq, Repr

/-- A group: its place in the group table of a context on a core (R423). -/
structure GRef where
  part : Nat
  ctx  : Nat
  core : Nat
  grp  : Nat
  deriving DecidableEq, Repr

/-- A thread: its group and its rank (R113). -/
structure TRef where
  part : Nat
  ctx  : Nat
  core : Nat
  grp  : Nat
  rank : Nat
  deriving DecidableEq, Repr

/-- A kernel: its index in the context's kernel table (R415). -/
structure KRef where
  part : Nat
  ctx  : Nat
  kidx : Nat
  deriving DecidableEq, Repr

/-- A gang of a kernel (R353). -/
structure GangRef where
  part : Nat
  ctx  : Nat
  kidx : Nat
  gang : Nat
  deriving DecidableEq, Repr

/-- A queue of a partition (R370). -/
structure QRef where
  part : Nat
  q    : Nat
  deriving DecidableEq, Repr

/-- A fabric port of a physical die, or one of the four die-to-die links L01, L02, L13, L23 in that order (R12, R437). -/
inductive LinkRef where
  | port (die : Nat) (p : Nat)
  | d2d  (l : Nat)
  deriving DecidableEq, Repr

/-- The mailbox a request comes through (R482). -/
inductive Mailbox where
  | part (p : Nat)
  | operator
  deriving DecidableEq, Repr

/-- Which place table a request names (R18). -/
inductive PlaceTable where
  | cpt | dpt | ppt
  deriving DecidableEq, Repr

/-- Who writes a register (R9, R389). -/
inductive Writer where
  | ladle (part : Nat)
  | host (part : Nat)
  | pestle
  deriving DecidableEq, Repr

/-- The registers that have no write row of their own in the table (R371, R390, R26, R438, and the PW and RO ones, R9). -/
inductive RegName where
  | qbase (q : Nat) | qctl (q : Nat) | qctx (q : Nat) | qhead (q : Nat)
  | tracecfg | tbase | tcount
  | fwlink (l : Nat) | portstat (l : LinkRef)
  | cpt (die i : Nat) | dpt (i : Nat) | ppt (die i : Nat) | diepart (die : Nat)
  | memcfg | keymask (ctx : Nat) | keylive | ctxsa (ctx : Nat) | ctxstat (ctx : Nat)
  | poolwin (i : Nat) | hwin (i : Nat) | hwstat | lidaddr | affctl
  | gtime | epsilon | timestat | pwrstat (core : Nat) | slclk (core s : Nat)
  deriving DecidableEq, Repr

/-- What a patrol read meets (R494). -/
inductive ScrubTarget where
  | mem (pa : Nat)
  | scratch (c : CCRef) (off : Nat)
  | l1 (c : CoreRef) (line word : Nat)
  | acc (c : CCRef) (word : Nat)
  | reg (t : TRef) (r : VReg)
  | pred (t : TRef) (p : PReg)
  deriving DecidableEq, Repr

/-! ### From one name to another -/

def TRef.group (t : TRef) : GRef := { part := t.part, ctx := t.ctx, core := t.core, grp := t.grp }
def TRef.ctxRef (t : TRef) : CtxRef := { part := t.part, ctx := t.ctx }
def TRef.coreRef (t : TRef) : CoreRef := { part := t.part, core := t.core }
def TRef.ccRef (t : TRef) : CCRef := { part := t.part, ctx := t.ctx, core := t.core }
def GRef.thread (g : GRef) (rank : Nat) : TRef := { part := g.part, ctx := g.ctx, core := g.core, grp := g.grp, rank := rank }
def GRef.ctxRef (g : GRef) : CtxRef := { part := g.part, ctx := g.ctx }
def GRef.coreRef (g : GRef) : CoreRef := { part := g.part, core := g.core }
def GRef.ccRef (g : GRef) : CCRef := { part := g.part, ctx := g.ctx, core := g.core }
def CCRef.coreRef (c : CCRef) : CoreRef := { part := c.part, core := c.core }
def CCRef.ctxRef (c : CCRef) : CtxRef := { part := c.part, ctx := c.ctx }
def CCRef.group (c : CCRef) (g : Nat) : GRef := { part := c.part, ctx := c.ctx, core := c.core, grp := g }

end Sys2Proof
end

