-- ==== Sys2Proof/Syntax.lean ====
section
/-! DEFINITION. The instructions and the steps of the PX71440: one constructor for each row of the opcode table.
A thread instruction carries its hints and operands (04_encoding.md R84 to R106). A step of another agent carries the
object it concerns and what arrives from outside the package with it (95_what_each_step_holds.md). -/
namespace Sys2Proof

inductive Instr where
  | nop (h : Hints)  -- NOP, R143
  | bra (h : Hints) (off : Word)  -- BRA, R139
  | brx (h : Hints) (a : VReg) (off : Word)  -- BRX, R139
  | call (h : Hints) (d : VReg) (off : Word)  -- CALL, R139
  | callx (h : Hints) (d a : VReg) (off : Word)  -- CALLX, R139
  | ret (h : Hints) (a : VReg)  -- RET, R139
  | exitThread (h : Hints)  -- EXIT, R142
  | jenrol (h : Hints) (jb : BitVec 4)  -- JENROL, R146
  | jwait (h : Hints) (jb : BitVec 4)  -- JWAIT, R146
  | jdrop (h : Hints) (jb : BitVec 4)  -- JDROP, R146
  | jstat (h : Hints) (d : VReg) (jb : BitVec 4)  -- JSTAT, R148
  | sleep (h : Hints) (a : Option VReg) (imm : Word)  -- SLEEP, R144
  | bkptN (h : Hints) (imm : Word)  -- BKPT, R145
  | trapN (h : Hints) (imm : Word)  -- TRAP, R145
  | enter (h : Hints) (imm : Word)  -- ENTER, R141
  | shfl (h : Hints) (op : ShflOp) (vp : Option PReg) (d : VReg) (a b : Src) (c : Option VReg)  -- SHFL, R153
  | vote (h : Hints) (op : VoteOp) (d a : PReg) (c : Option VReg)  -- VOTE, R153
  | ballot (h : Hints) (d : VReg) (a : PReg) (c : Option VReg)  -- BALLOT, R153
  | matchLanes (h : Hints) (op : MatchOp) (f32 : Bool) (d a : VReg) (c : Option VReg)  -- MATCH, R153
  | redux (h : Hints) (op : RedOp) (ty : LTy) (d a : VReg) (c : Option VReg)  -- REDUX, R155
  | scan (h : Hints) (op : RedOp) (ty : LTy) (exc : Bool) (d a : VReg) (c : Option VReg)  -- SCAN, R155
  | elect (h : Hints) (d : PReg) (c : Option VReg)  -- ELECT, R153
  | present (h : Hints) (d : VReg) (c : Option VReg)  -- PRESENT, R157
  | iadd (h : Hints) (u sat : Bool) (d : VReg) (a b : Src)  -- IADD, R163
  | iaddImm (h : Hints) (u sat : Bool) (d : VReg) (a : Src) (imm : Word)  -- IADD_IMM, R163
  | isub (h : Hints) (u sat : Bool) (d : VReg) (a b : Src)  -- ISUB, R163
  | isubImm (h : Hints) (u sat : Bool) (d : VReg) (a : Src) (imm : Word)  -- ISUB_IMM, R163
  | imul (h : Hints) (u : Bool) (d : VReg) (a b : Src)  -- IMUL, R163
  | imulImm (h : Hints) (u : Bool) (d : VReg) (a : Src) (imm : Word)  -- IMUL_IMM, R163
  | imulh (h : Hints) (u : Bool) (d : VReg) (a b : Src)  -- IMULH, R163
  | imulhImm (h : Hints) (u : Bool) (d : VReg) (a : Src) (imm : Word)  -- IMULH_IMM, R163
  | imad (h : Hints) (u sat : Bool) (d a : VReg) (b c : Src)  -- IMAD, R163
  | imin (h : Hints) (u : Bool) (d : VReg) (a b : Src)  -- IMIN, R164
  | iminImm (h : Hints) (u : Bool) (d : VReg) (a : Src) (imm : Word)  -- IMIN_IMM, R164
  | imax (h : Hints) (u : Bool) (d : VReg) (a b : Src)  -- IMAX, R164
  | imaxImm (h : Hints) (u : Bool) (d : VReg) (a : Src) (imm : Word)  -- IMAX_IMM, R164
  | iabs (h : Hints) (sat : Bool) (d a : VReg)  -- IABS, R164
  | ineg (h : Hints) (sat : Bool) (d a : VReg)  -- INEG, R164
  | andW (h : Hints) (d : VReg) (a b : Src)  -- AND, R168
  | andWImm (h : Hints) (d : VReg) (a : Src) (imm : Word)  -- AND_IMM, R168
  | orW (h : Hints) (d : VReg) (a b : Src)  -- OR, R168
  | orWImm (h : Hints) (d : VReg) (a : Src) (imm : Word)  -- OR_IMM, R168
  | xorW (h : Hints) (d : VReg) (a b : Src)  -- XOR, R168
  | xorWImm (h : Hints) (d : VReg) (a : Src) (imm : Word)  -- XOR_IMM, R168
  | andnW (h : Hints) (d : VReg) (a b : Src)  -- ANDN, R168
  | andnWImm (h : Hints) (d : VReg) (a : Src) (imm : Word)  -- ANDN_IMM, R168
  | notW (h : Hints) (d a : VReg)  -- NOT, R168
  | popc (h : Hints) (d a : VReg)  -- POPC, R171
  | clz (h : Hints) (d a : VReg)  -- CLZ, R171
  | brev (h : Hints) (d a : VReg)  -- BREV, R171
  | shl (h : Hints) (d : VReg) (a b : Src)  -- SHL, R169
  | shlImm (h : Hints) (d : VReg) (a : Src) (imm : Word)  -- SHL_IMM, R169
  | shr (h : Hints) (d : VReg) (a b : Src)  -- SHR, R169
  | shrImm (h : Hints) (d : VReg) (a : Src) (imm : Word)  -- SHR_IMM, R169
  | sar (h : Hints) (d : VReg) (a b : Src)  -- SAR, R169
  | sarImm (h : Hints) (d : VReg) (a : Src) (imm : Word)  -- SAR_IMM, R169
  | rot (h : Hints) (d : VReg) (a b : Src)  -- ROT, R169
  | rotImm (h : Hints) (d : VReg) (a : Src) (imm : Word)  -- ROT_IMM, R169
  | funnel (h : Hints) (right : Bool) (d a b : VReg) (c : Src)  -- FUNNEL, R170
  | bfe (h : Hints) (u : Bool) (d a b : VReg)  -- BFE, R172
  | bfeImm (h : Hints) (u : Bool) (d a : VReg) (imm : Word)  -- BFE_IMM, R172
  | bfi (h : Hints) (d a b : VReg) (c : Src)  -- BFI, R173
  | perm (h : Hints) (d a b c : VReg)  -- PERM, R174
  | sel (h : Hints) (d : VReg) (a b : Src) (c : PReg)  -- SEL, R175
  | iset (h : Hints) (u : Bool) (cmp : Cmp) (d : DstVP) (a : VReg) (b : Src)  -- ISET, R176
  | isetImm (h : Hints) (u : Bool) (cmp : Cmp) (d : DstVP) (a : VReg) (imm : Word)  -- ISET_IMM, R176
  | plop (h : Hints) (lut : BitVec 8) (d a b c : PReg)  -- PLOP, R177
  | mov (h : Hints) (d : DstVP) (a : SrcVP)  -- MOV, R178
  | movi (h : Hints) (d : VReg) (imm : Word)  -- MOVI, R178
  | lea (h : Hints) (u : Bool) (sh : BitVec 3) (d a b : VReg)  -- LEA, R167
  | iadd64 (h : Hints) (d a b : VReg)  -- IADD64, R167
  | iadd64Imm (h : Hints) (d a : VReg) (imm : Word)  -- IADD64_IMM, R167
  | idiv (h : Hints) (u rem : Bool) (d a b : VReg)  -- IDIV, R165
  | dot4 (h : Hints) (sat ua ub : Bool) (d a b c : VReg)  -- DOT4, R166
  | fadd (h : Hints) (rm : Rm) (ftz : Bool) (d : VReg) (a b : Src)  -- FADD, R185
  | faddImm (h : Hints) (rm : Rm) (ftz : Bool) (d : VReg) (a : Src) (imm : Word)  -- FADD_IMM, R185
  | fsub (h : Hints) (rm : Rm) (ftz : Bool) (d : VReg) (a b : Src)  -- FSUB, R185
  | fsubImm (h : Hints) (rm : Rm) (ftz : Bool) (d : VReg) (a : Src) (imm : Word)  -- FSUB_IMM, R185
  | fmul (h : Hints) (rm : Rm) (ftz : Bool) (d : VReg) (a b : Src)  -- FMUL, R185
  | fmulImm (h : Hints) (rm : Rm) (ftz : Bool) (d : VReg) (a : Src) (imm : Word)  -- FMUL_IMM, R185
  | fdiv (h : Hints) (rm : Rm) (ftz : Bool) (d : VReg) (a b : Src)  -- FDIV, R185
  | fdivImm (h : Hints) (rm : Rm) (ftz : Bool) (d : VReg) (a : Src) (imm : Word)  -- FDIV_IMM, R185
  | ffma (h : Hints) (rm : Rm) (ftz : Bool) (d a : VReg) (b c : Src)  -- FFMA, R185
  | fmin (h : Hints) (ftz : Bool) (d : VReg) (a b : Src)  -- FMIN, R187
  | fminImm (h : Hints) (ftz : Bool) (d : VReg) (a : Src) (imm : Word)  -- FMIN_IMM, R187
  | fmax (h : Hints) (ftz : Bool) (d : VReg) (a b : Src)  -- FMAX, R187
  | fmaxImm (h : Hints) (ftz : Bool) (d : VReg) (a : Src) (imm : Word)  -- FMAX_IMM, R187
  | fset (h : Hints) (ftz : Bool) (fn : Fn) (d : DstVP) (a : VReg) (b : Src)  -- FSET, R188
  | fsetImm (h : Hints) (ftz : Bool) (fn : Fn) (d : DstVP) (a : VReg) (imm : Word)  -- FSET_IMM, R188
  | fclass (h : Hints) (d a : VReg)  -- FCLASS, R189
  | frnd (h : Hints) (rm : Rm) (ftz : Bool) (d a : VReg)  -- FRND, R190
  | fsqrt (h : Hints) (rm : Rm) (ftz : Bool) (d a : VReg)  -- FSQRT, R185
  | frcp (h : Hints) (ftz : Bool) (d a : VReg)  -- FRCP, R191
  | frsq (h : Hints) (ftz : Bool) (d a : VReg)  -- FRSQ, R191
  | fex2 (h : Hints) (ftz : Bool) (d a : VReg)  -- FEX2, R191
  | flg2 (h : Hints) (ftz : Bool) (d a : VReg)  -- FLG2, R191
  | fsin (h : Hints) (ftz : Bool) (d a : VReg)  -- FSIN, R191
  | fcos (h : Hints) (ftz : Bool) (d a : VReg)  -- FCOS, R191
  | ftanh (h : Hints) (ftz : Bool) (d a : VReg)  -- FTANH, R191
  | hadd2 (h : Hints) (f : Half) (rm : Rm) (ftz : Bool) (d : VReg) (a b : Src)  -- HADD2, R192
  | hadd2Imm (h : Hints) (f : Half) (rm : Rm) (ftz : Bool) (d : VReg) (a : Src) (imm : Word)  -- HADD2_IMM, R192
  | hmul2 (h : Hints) (f : Half) (rm : Rm) (ftz : Bool) (d : VReg) (a b : Src)  -- HMUL2, R192
  | hmul2Imm (h : Hints) (f : Half) (rm : Rm) (ftz : Bool) (d : VReg) (a : Src) (imm : Word)  -- HMUL2_IMM, R192
  | hfma2 (h : Hints) (f : Half) (rm : Rm) (ftz : Bool) (d a : VReg) (b c : Src)  -- HFMA2, R192
  | hmnx2 (h : Hints) (f : Half) (max ftz : Bool) (d : VReg) (a b : Src)  -- HMNX2, R187
  | hmnx2Imm (h : Hints) (f : Half) (max ftz : Bool) (d : VReg) (a : Src) (imm : Word)  -- HMNX2_IMM, R187
  | f2i (h : Hints) (rm : Rm) (ft : Fmt) (it : ITy) (d a : VReg)  -- F2I, R193
  | i2f (h : Hints) (rm : Rm) (ft : Fmt) (it : ITy) (d a : VReg)  -- I2F, R194
  | f2f (h : Hints) (rm : Rm) (ftz : Bool) (fd fs : Fmt) (d a : VReg)  -- F2F, R195
  | qcvt (h : Hints) (rm : Rm) (sf : BitVec 6) (d a : VReg) (b : PReg)  -- QCVT, R197
  | dqcvt (h : Hints) (sf : BitVec 6) (d a : VReg)  -- DQCVT, R200
  | qpack (h : Hints) (sf : BitVec 6) (d a b : VReg)  -- QPACK, R201
  | fdot2 (h : Hints) (rm : Rm) (ftz : Bool) (d a b c : VReg)  -- FDOT2, R186
  | fscale (h : Hints) (rm : Rm) (ftz : Bool) (d a : VReg) (b : Src)  -- FSCALE, R185
  | fscaleImm (h : Hints) (rm : Rm) (ftz : Bool) (d a : VReg) (imm : Word)  -- FSCALE_IMM, R185
  | sadd (h : Hints) (d a b : VReg)  -- SADD, R208
  | ssub (h : Hints) (d a b : VReg)  -- SSUB, R208
  | smul (h : Hints) (d a b : VReg)  -- SMUL, R208
  | sdiv (h : Hints) (d a b : VReg)  -- SDIV, R208
  | ssq (h : Hints) (d a : VReg)  -- SSQ, R208
  | sexp (h : Hints) (d a : VReg)  -- SEXP, R209
  | sln (h : Hints) (d a : VReg)  -- SLN, R209
  | scmp (h : Hints) (cmp : Cmp) (d : DstVP) (a b : VReg)  -- SCMP, R212
  | sclass (h : Hints) (d a : VReg)  -- SCLASS, R213
  | scvtSliF32 (h : Hints) (d a : VReg)  -- SCVT_SLI_F32, R211
  | scvtF32Sli (h : Hints) (d a : VReg)  -- SCVT_F32_SLI, R211
  | srecip (h : Hints) (d a : VReg)  -- SRECIP, R210
  | ld (h : Hints) (sz : Sz) (ord : Option Scope) (d a : VReg) (b : Option VReg) (off : BitVec 24)  -- LD, R250
  | ldSp (h : Hints) (sz : Sz) (ordCore : Bool) (d a : VReg) (b : Option VReg) (off : BitVec 24)  -- LD_SP, R250
  | st (h : Hints) (sz : Sz) (ord : Option Scope) (d a : VReg) (b : Option VReg) (off : BitVec 24)  -- ST, R250
  | stSp (h : Hints) (sz : Sz) (ordCore : Bool) (d a : VReg) (b : Option VReg) (off : BitVec 24)  -- ST_SP, R250
  | atom (h : Hints) (op : Aop) (ty : ATy) (ord : AOrd) (sc : Scope) (d a : VReg) (off : BitVec 16) (b : VReg)  -- ATOM, R259
  | cas (h : Hints) (ty : ATy) (ord : AOrd) (sc : Scope) (d a : VReg) (off : BitVec 16) (b : VReg)  -- CAS, R261
  | red (h : Hints) (op : Aop) (ty : ATy) (ord : AOrd) (sc : Scope) (a : VReg) (off : BitVec 16) (b : VReg)  -- RED, R259
  | fence (h : Hints) (sc : Scope)  -- FENCE, R263
  | waitaddr (h : Hints) (a : VReg) (off : BitVec 24) (b : Option VReg)  -- WAITADDR, R265
  | sptest (h : Hints) (d a : VReg)  -- SPTEST, R267
  | spcastGen (h : Hints) (d a : VReg)  -- SPCAST_GEN, R268
  | spcastSp (h : Hints) (d a : VReg)  -- SPCAST_SP, R268
  | pref (h : Hints) (l2 : Bool) (a : VReg) (b : Option VReg) (off : BitVec 24)  -- PREF, R269
  | cctlInv (h : Hints) (a : VReg) (off : BitVec 24)  -- CCTL_INV, R270
  | cctlWb (h : Hints) (a : VReg) (off : BitVec 24)  -- CCTL_WB, R270
  | cctlInvall (h : Hints)  -- CCTL_INVALL, R270
  | wcflush (h : Hints)  -- WCFLUSH, R264
  | sdrop (h : Hints) (first count : BitVec 7)  -- SDROP, R256
  | swake (h : Hints) (first count : BitVec 7)  -- SWAKE, R258
  | gwmax (h : Hints) (d : VReg)  -- GWMAX, R264
  | tcopy (h : Hints) (ch : BitVec 3) (a : VReg)  -- TCOPY, R299
  | tstore (h : Hints) (ch : BitVec 3) (a : VReg)  -- TSTORE, R299
  | tcopys (h : Hints) (ch : BitVec 3) (a : VReg)  -- TCOPYS, R299
  | chptr (h : Hints) (d : VReg) (ch : BitVec 3) (b : Src)  -- CHPTR, R307
  | chwait (h : Hints) (ch : BitVec 3) (b : VReg)  -- CHWAIT, R307
  | chdrain (h : Hints) (ch : BitVec 3)  -- CHDRAIN, R307
  | chstat (h : Hints) (d : VReg) (ch : BitVec 3)  -- CHSTAT, R307
  | ringinit (h : Hints) (rg : BitVec 3) (b : VReg) (c : Src)  -- RINGINIT, R313
  | ringacqProd (h : Hints) (d : VReg) (rg : BitVec 3)  -- RINGACQ_PROD, R313
  | ringacqCons (h : Hints) (d : VReg) (rg : BitVec 3)  -- RINGACQ_CONS, R313
  | ringrelProd (h : Hints) (rg : BitVec 3)  -- RINGREL_PROD, R313
  | ringrelCons (h : Hints) (rg : BitVec 3)  -- RINGREL_CONS, R313
  | ringwaitProd (h : Hints) (rg : BitVec 3) (b : Src)  -- RINGWAIT_PROD, R313
  | ringwaitCons (h : Hints) (rg : BitVec 3) (b : Src)  -- RINGWAIT_CONS, R313
  | mma (h : Hints) (kind : MmaKind) (k : BitVec 4) (cv : BitVec 3) (a b c : VReg)  -- MMA, R323
  | mdecl (h : Hints) (cv : BitVec 3) (a b : Src)  -- MDECL, R322
  | mwait (h : Hints) (cv : BitVec 3)  -- MWAIT, R328
  | mfence (h : Hints) (cv : BitVec 3)  -- MFENCE, R326
  | mzero (h : Hints) (a : VReg)  -- MZERO, R331
  | mload (h : Hints) (i32 : Bool) (a b : VReg)  -- MLOAD, R331
  | mstore (h : Hints) (cell : MCell) (a b : VReg)  -- MSTORE, R331
  | mlive (h : Hints) (mask : BitVec 8)  -- MLIVE, R332
  | mstat (h : Hints) (d : VReg)  -- MSTAT, R333
  | mmaIssueOnRoom (c : CoreRef)  -- MMA_ISSUE_ON_ROOM, R325
  | mmaComplete (c : CoreRef)  -- MMA_COMPLETE, R325
  | matrixOpComplete (t : TRef)  -- MATRIX_OP_COMPLETE, R331
  | barinit (h : Hints) (sc : BScope) (bar : Bar) (a : Src)  -- BARINIT, R344
  | bararv (h : Hints) (bar : Bar)  -- BARARV, R344
  | barwait (h : Hints) (bar : Bar)  -- BARWAIT, R344
  | barsync (h : Hints) (bar : Bar)  -- BARSYNC, R344
  | barstat (h : Hints) (d : VReg) (bar : Bar)  -- BARSTAT, R345
  | barset (h : Hints) (bar : Bar) (b : Src)  -- BARSET, R344
  | gbar (h : Hints) (gb : BitVec 2)  -- GBAR, R344
  | barrierArrivalCounted (t : TRef)  -- BARRIER_ARRIVAL_COUNTED, R342
  | barrierDelivery (g : GangRef) (gb : BitVec 2) (core : Nat)  -- BARRIER_DELIVERY, R341
  | wpop (h : Hints) (d : VReg)  -- WPOP, R360
  | wpush (h : Hints) (a : VReg) (b : Option VReg)  -- WPUSH, R359
  | launch (h : Hints) (a : VReg)  -- LAUNCH, R362
  | signalSet (h : Hints) (a : VReg) (b : Src)  -- SIGNAL_SET, R364
  | signalAdd (h : Hints) (a : VReg) (b : Src)  -- SIGNAL_ADD, R364
  | sigwait (h : Hints) (cmp : Cmp) (a : VReg) (b : Src)  -- SIGWAIT, R365
  | gswap (h : Hints) (cmp : Cmp) (a : VReg) (b : Src)  -- GSWAP, R366
  | qroom (h : Hints) (d a : VReg)  -- QROOM, R361
  | pair (h : Hints) (x y : PSlot)  -- PAIR, R101
  | sysr (h : Hints) (d : VReg) (n : BitVec 12)  -- SYSR, R405
  | sysw (h : Hints) (a : VReg) (n : BitVec 12)  -- SYSW, R405
  | tret (h : Hints)  -- TRET, R398
  | tswr (h : Hints) (d a : VReg)  -- TSWR, R405
  | tsww (h : Hints) (a b : VReg)  -- TSWW, R405
  | ologr (h : Hints) (d a : VReg) (b : Src)  -- OLOGR, R406
  | xgetPred (h : Hints) (d : VReg)  -- XGET_PRED, R407
  | xgetStruct (h : Hints) (d : VReg) (a : SReg)  -- XGET_STRUCT, R408
  | xsetPred (h : Hints) (b : VReg)  -- XSET_PRED, R407
  | xsetStruct (h : Hints) (a : SReg) (b : VReg)  -- XSET_STRUCT, R408
  | placeCore (h : Hints) (d : VReg) (a : Src)  -- PLACE_CORE, R409
  | placeDie (h : Hints) (d : VReg) (a : Src)  -- PLACE_DIE, R409
  | placePort (h : Hints) (d : VReg) (a : Src)  -- PLACE_PORT, R409
  | issueRound (c : CoreRef) (slice : Nat)  -- ISSUE_ROUND, R124
  | kickTaken (t : TRef)  -- KICK_TAKEN, R401
  | deferredTrapDelivery (t : TRef)  -- DEFERRED_TRAP_DELIVERY, R399
  | walkComplete (c : CoreRef) (vpn : Nat)  -- WALK_COMPLETE, R279
  | parkedReplay (c : CoreRef) (entry : Nat)  -- PARKED_REPLAY, R288
  | fltackReplay (c : CoreRef) (all : Bool) (entry : Nat)  -- FLTACK_REPLAY, R287
  | fltackDeliver (c : CoreRef) (all : Bool) (entry : Nat)  -- FLTACK_DELIVER, R287
  | fltackFault (c : CoreRef) (all : Bool) (entry : Nat)  -- FLTACK_FAULT, R287
  | fltackIgnored (c : CoreRef) (all : Bool) (entry : Nat)  -- FLTACK_IGNORED, R287
  | invalComplete (q : QRef)  -- INVAL_COMPLETE, R290
  | storePerformedAtHome (c : CoreRef) (seq : Nat) (evicted : Bool)  -- STORE_PERFORMED_AT_HOME, R229
  | storeAnswer (c : CoreRef) (seq : Nat)  -- STORE_ANSWER, R230
  | atomicAnswer (c : CoreRef) (seq : Nat)  -- ATOMIC_ANSWER, R238
  | loadResponse (c : CoreRef) (seq : Nat)  -- LOAD_RESPONSE, R235
  | leaseExpiry (c : CoreRef) (line : Nat)  -- LEASE_EXPIRY, R228
  | wcEntryTimeout (c : CoreRef) (id : Nat)  -- WC_ENTRY_TIMEOUT, R240
  | fenceComplete (t : TRef)  -- FENCE_COMPLETE, R231
  | waitaddrWake (t : TRef)  -- WAITADDR_WAKE, R266
  | waitaddrDeadline (t : TRef)  -- WAITADDR_DEADLINE, R265
  | sleepDeadline (t : TRef)  -- SLEEP_DEADLINE, R144
  | signalWaitWake (t : TRef)  -- SIGNAL_WAIT_WAKE, R365
  | copyStart (c : CoreRef) (ch : BitVec 3)  -- COPY_START, R300
  | copyGranuleDelivered (c : CoreRef) (ch : BitVec 3)  -- COPY_GRANULE_DELIVERED, R305
  | launchDecision (c : CoreRef)  -- LAUNCH_DECISION, R362
  | groupPlace (k : KRef)  -- GROUP_PLACE, R115
  | groupDrained (g : GRef)  -- GROUP_DRAINED, R118
  | gswapSwapOut (g : GRef)  -- GSWAP_SWAP_OUT, R366
  | gswapSwapIn (g : GRef)  -- GSWAP_SWAP_IN, R366
  | regBankRetention (c : CoreRef) (slice row lane : Nat)  -- REG_BANK_RETENTION, R133
  | regBankWakeDone (c : CoreRef) (slice row lane : Nat)  -- REG_BANK_WAKE_DONE, R135
  | scrBankRetention (c : CoreRef) (bank : Nat)  -- SCR_BANK_RETENTION, R254
  | scrBankWakeDone (c : CoreRef) (bank : Nat)  -- SCR_BANK_WAKE_DONE, R254
  | tileWakeDone (c : CoreRef) (tile : Nat)  -- TILE_WAKE_DONE, R318
  | ptpMeasurement (port : Nat) (offset : Int)  -- PTP_MEASUREMENT, R38
  | syncTimeout (next : Nat)  -- SYNC_TIMEOUT, R38
  | holdoverLimit  -- HOLDOVER_LIMIT, R38
  | heartbeatSend  -- HEARTBEAT_SEND, R41
  | heartbeatReceive (pkg : BitVec 18) (verified : Bool)  -- HEARTBEAT_RECEIVE, R41
  | schedulerTakeover  -- SCHEDULER_TAKEOVER, R41
  | timetableEntry (m : BitVec 256)  -- TIMETABLE_ENTRY, R43
  | maskMessage (m : BitVec 256)  -- MASK_MESSAGE, R47
  | maskEffect  -- MASK_EFFECT, R46
  | preemptionRequest (m : BitVec 256)  -- PREEMPTION_REQUEST, R430
  | stagingStart (x : CtxRef)  -- STAGING_START, R428
  | stagingComplete (x : CtxRef)  -- STAGING_COMPLETE, R428
  | entryStart (part : Nat)  -- ENTRY_START, R48
  | entryEnd (part : Nat)  -- ENTRY_END, R43
  | preemptionStart (part : Nat)  -- PREEMPTION_START, R430
  | preemptionEnd (part : Nat)  -- PREEMPTION_END, R430
  | haltIssueStopped (x : CtxRef)  -- HALT_ISSUE_STOPPED, R424
  | drainComplete (x : CtxRef)  -- DRAIN_COMPLETE, R425
  | imageSealed (x : CtxRef)  -- IMAGE_SEALED, R429
  | loadComplete (x : CtxRef)  -- LOAD_COMPLETE, R427
  | placeRequest (mb : Mailbox) (tag : Word) (part : Nat) (tab : PlaceTable) (die : Nat) (vals : List (Nat × Word))  -- PLACE_REQUEST, R20
  | partopForm (mb : Mailbox) (tag : Word) (part : Nat) (dpt : List Word) (cpt ppt : List (Nat × List Word))  -- PARTOP_FORM, R30
  | partopReset (mb : Mailbox) (tag : Word) (part : Nat)  -- PARTOP_RESET, R30
  | partopDissolve (mb : Mailbox) (tag : Word) (part : Nat)  -- PARTOP_DISSOLVE, R30
  | partopCoreRemap (mb : Mailbox) (tag : Word) (part core : Nat) (val : Word)  -- PARTOP_CORE_REMAP, R30
  | partopLaneDegrade (mb : Mailbox) (tag : Word) (part die port : Nat) (lanes : BitVec 4)  -- PARTOP_LANE_DEGRADE, R30
  | kgen (mb : Mailbox) (tag : Word) (part : Nat) (slot : BitVec 6)  -- KGEN, R486
  | krevoke (mb : Mailbox) (tag : Word) (part : Nat) (slot : BitVec 6)  -- KREVOKE, R487
  | kexport (mb : Mailbox) (tag : Word) (part : Nat) (slot : BitVec 6)  -- KEXPORT, R486
  | kimport (mb : Mailbox) (tag : Word) (part : Nat) (slot : BitVec 6) (wrapped : BitVec 576)  -- KIMPORT, R486
  | kmask (mb : Mailbox) (tag : Word) (part ctx : Nat) (mask : DWord)  -- KMASK, R482
  | ctxsetInstall (mb : Mailbox) (tag : Word) (part ctx : Nat) (ctxsa : DWord)  -- CTXSET_INSTALL, R413
  | ctxsetDiscard (mb : Mailbox) (tag : Word) (part ctx : Nat)  -- CTXSET_DISCARD, R413
  | attest (mb : Mailbox) (tag : Word) (part : Nat) (nonce : BitVec 256)  -- ATTEST, R481
  | hwinRequest (mb : Mailbox) (tag : Word) (part : Nat) (idx : BitVec 4) (val : DWord)  -- HWIN_REQUEST, R489
  | poolwinRequest (mb : Mailbox) (tag : Word) (part : Nat) (idx : BitVec 4) (val : DWord)  -- POOLWIN_REQUEST, R447
  | lidaddrRequest (mb : Mailbox) (tag : Word) (part : Nat) (val : DWord)  -- LIDADDR_REQUEST, R474
  | configMemcfg (mb : Mailbox) (tag : Word) (part : Nat) (idx : BitVec 8) (val : DWord)  -- CONFIG_MEMCFG, R484
  | configGtepoch (mb : Mailbox) (tag : Word) (part : Nat) (idx : BitVec 8) (val : DWord)  -- CONFIG_GTEPOCH, R484
  | configPtpDomain (mb : Mailbox) (tag : Word) (part : Nat) (idx : BitVec 8) (val : DWord)  -- CONFIG_PTP_DOMAIN, R484
  | configAsymmetry (mb : Mailbox) (tag : Word) (part : Nat) (idx : BitVec 8) (val : DWord)  -- CONFIG_ASYMMETRY, R484
  | mailboxBadRequest (mb : Mailbox) (req : BitVec 512)  -- MAILBOX_BAD_REQUEST, R482
  | svnRaise (bank : Nat) (svn : Word)  -- SVN_RAISE, R478
  | coldReset  -- COLD_RESET, R477
  | qtailDoorbell (q : QRef) (tail : Word)  -- QTAIL_DOORBELL, R374
  | queueEnable (q : QRef)  -- QUEUE_ENABLE, R372
  | queueDisable (q : QRef)  -- QUEUE_DISABLE, R373
  | packetStart (q : QRef)  -- PACKET_START, R378
  | packetFeed (q : QRef)  -- PACKET_FEED, R378
  | packetSignal (q : QRef)  -- PACKET_SIGNAL, R379
  | packetWaitall (q : QRef)  -- PACKET_WAITALL, R381
  | packetWaitany (q : QRef)  -- PACKET_WAITANY, R381
  | packetTimemark (q : QRef)  -- PACKET_TIMEMARK, R380
  | packetInval (q : QRef)  -- PACKET_INVAL, R380
  | packetNop (q : QRef)  -- PACKET_NOP, R380
  | queueWake (q : QRef)  -- QUEUE_WAKE, R385
  | waitPeriodicEvaluation (q : QRef)  -- WAIT_PERIODIC_EVALUATION, R381
  | eventDispatch (part ladle : Nat)  -- EVENT_DISPATCH, R386
  | handlerComplete (part ladle : Nat)  -- HANDLER_COMPLETE, R386
  | ladleWatchdog (part ladle : Nat)  -- LADLE_WATCHDOG, R387
  | linkEnable (l : LinkRef)  -- LINK_ENABLE, R437
  | linkTrained (l : LinkRef) (lanes : BitVec 4)  -- LINK_TRAINED, R437
  | linkTrainFail (l : LinkRef)  -- LINK_TRAIN_FAIL, R437
  | linkRetrainTimer (l : LinkRef)  -- LINK_RETRAIN_TIMER, R437
  | flitCrcReplay (l : LinkRef) (good : Bool)  -- FLIT_CRC_REPLAY, R436
  | fabricPacketReceive (die port : Nat) (hdr : BitVec 256) (payload : List Byte)  -- FABRIC_PACKET_RECEIVE, R442
  | closedLinkDiscard (l : Nat)  -- CLOSED_LINK_DISCARD, R27
  | fabricRequestTimeout (die : Nat) (tag : BitVec 16)  -- FABRIC_REQUEST_TIMEOUT, R446
  | fabricResendTimeout (die : Nat) (tag : BitVec 16)  -- FABRIC_RESEND_TIMEOUT, R446
  | affswWrite (part : Nat) (swt : DWord)  -- AFFSW_WRITE, R450
  | affinityEntryWrite (part : Nat) (bank : Bool) (idx : BitVec 6) (val : Byte)  -- AFFINITY_ENTRY_WRITE, R450
  | affinityFlip (part : Nat)  -- AFFINITY_FLIP, R450
  | governorSample (c : CoreRef)  -- GOVERNOR_SAMPLE, R463
  | voltageRampDone (c : CoreRef)  -- VOLTAGE_RAMP_DONE, R455
  | sliceHoldEnd (c : CoreRef) (slice : Nat)  -- SLICE_HOLD_END, R457
  | budgetInterval (c : CoreRef) (energy : Nat)  -- BUDGET_INTERVAL, R464
  | pwrctlWrite (c : CoreRef) (val : DWord)  -- PWRCTL_WRITE, R462
  | timingErrorDetect (t : TRef)  -- TIMING_ERROR_DETECT, R469
  | supplyWarn  -- SUPPLY_WARN, R472
  | lidAckDeadline  -- LID_ACK_DEADLINE, R473
  | patrolScrub (x : ScrubTarget) (uncorrectable : Bool)  -- PATROL_SCRUB, R494
  | hostWindowAccess (part : Nat) (pa : Nat) (write : Option (List Byte)) (len : Nat)  -- HOST_WINDOW_ACCESS, R489
  | registerWrite (w : Writer) (part : Nat) (r : RegName) (val : DWord)  -- REGISTER_WRITE, R9
  | delayReq  -- DELAY_REQ, R36
  deriving DecidableEq, Repr

end Sys2Proof
end

