-- ==== Sys2Proof/WellFormed.lean ====
section
/-! DEFINITION. Which terms of Instr stand for a word that is an instruction: the conditions of 04_encoding.md R88, R89, R95 to
R100, R104 to R106 that the types of the operands do not already carry. -/
namespace Sys2Proof

/-- Class d: an even index (R89). -/
def VReg.even (r : VReg) : Bool := r.toNat % 2 == 0

/-- Class q: an index that is a multiple of 4 (R89). -/
def VReg.quad (r : VReg) : Bool := r.toNat % 4 == 0

/-- How many v registers the data of an access of this size takes (R105, R248). -/
def Sz.regs : Sz → Nat
  | .b64 => 2
  | .b128 => 4
  | _ => 1

/-- The class an operand of n registers needs: v, d or q. -/
def VReg.fits (r : VReg) (n : Nat) : Bool := r.toNat % n == 0

/-- A 64-bit atomic type (R106). -/
def ATy.wide : ATy → Bool
  | .n64 | .i64 => true
  | _ => false

def ATy.isFloat : ATy → Bool
  | .f32 | .bf16x2 | .f16x2 => true
  | _ => false

/-- Float types allow only add, min, max and exch (R106). -/
def Aop.allows (op : Aop) (ty : ATy) : Bool :=
  match op with
  | .add | .min | .max | .exch => true
  | _ => !ty.isFloat

/-- The registers an atomic type takes: v or d. -/
def ATy.regs (ty : ATy) : Nat := if ty.wide then 2 else 1

/-- REDUX and SCAN: the bitwise operators take b32 and n32 only (R104). -/
def RedOp.allows (op : RedOp) (ty : LTy) : Bool :=
  match op, ty with
  | .and, .f32 | .and, .sli | .or, .f32 | .or, .sli | .xor, .f32 | .xor, .sli => false
  | _, _ => true

/-- A storage format code that QCVT, DQCVT and QPACK take (R104). -/
def sfOk (sf : BitVec 6) : Bool :=
  let c := sf.toNat
  c == 3 || c == 4 || (0x11 ≤ c && c ≤ 0x17) || (0x19 ≤ c && c ≤ 0x1F) || (0x21 ≤ c && c ≤ 0x27) || (0x29 ≤ c && c ≤ 0x2F)

/-- The width of the system register of a number: `some true` for 64 bits, `none` for a number not in the table (R404). -/
def sysWide (n : BitVec 12) : Option Bool :=
  let k := n.toNat
  if k ≤ 0x0C then some false
  else if k = 0x10 ∨ k = 0x11 ∨ k = 0x14 ∨ k = 0x21 ∨ k = 0x22 ∨ k = 0x24 then some true
  else if k = 0x12 ∨ k = 0x13 ∨ k = 0x20 ∨ k = 0x23 ∨ k = 0x25 ∨ k = 0x26 ∨ k = 0x27 ∨ k = 0x30 ∨ k = 0x31
      ∨ (0x40 ≤ k ∧ k ≤ 0x48) then some false
  else none

def sysOk (n : BitVec 12) (r : VReg) : Bool :=
  match sysWide n with
  | some true => r.even
  | some false => true
  | none => false

/-- The window of a register: index div 16 (R128). -/
def VReg.window (r : VReg) : Nat := r.toNat / 16

/-- A fused multiply-add slot also reads its destination (R99). -/
def PairOp.readsD : PairOp → Bool
  | .ffma | .hfma2 _ => true
  | _ => false

def PSrc.regs : PSrc → List VReg
  | .reg r => [r]
  | .imm _ => []

/-- The registers a slot reads. MOV reads only its a operand. -/
def PSlot.reads (s : PSlot) : List VReg :=
  s.a.regs ++ (match s.op with | .mov => [] | _ => s.b.regs) ++ (if s.op.readsD then [s.d] else [])

/-- MOV requires b8 = 0x80 (R98). -/
def PSlot.ok (s : PSlot) : Bool :=
  match s.op with
  | .mov => s.b == .imm 0
  | _ => true

/-- R98 and R99. -/
def pairOk (x y : PSlot) : Bool :=
  x.ok && y.ok && x.d != y.d && x.d.window != y.d.window && !(y.reads.contains x.d)
    && (x.reads ++ y.reads).eraseDups.length ≤ 4

/-- The conditions on a term's operands, by its row (R89, R96, R104 to R106). -/
def Instr.operandsOk : Instr → Bool
  | .brx _ a _ => a.even
  | .call _ d _ => d.even
  | .callx _ d a _ => d.even && a.even
  | .ret _ a => a.even
  | .enter _ imm => 1 ≤ imm.toNat && imm.toNat ≤ 8
  | .redux _ op ty _ _ _ => op.allows ty
  | .scan _ op ty _ _ _ _ => op.allows ty
  | .lea _ _ _ d a _ => d.even && a.even
  | .iadd64 _ d a b => d.even && a.even && b.even
  | .iadd64Imm _ d a _ => d.even && a.even
  | .f2i _ _ _ it d _ => match it with | .i64 | .n64 => d.even | _ => true
  | .i2f _ _ _ it _ a => match it with | .i64 | .n64 => a.even | _ => true
  | .f2f _ _ _ fd fs _ _ => fd != fs
  | .qcvt _ _ sf _ a b => sfOk sf && a.quad && b.toNat ≤ 11
  | .dqcvt _ sf d _ => sfOk sf && d.quad
  | .qpack _ sf _ _ _ => sfOk sf
  | .ld _ sz _ d a _ _ => d.fits sz.regs && a.even
  | .ldSp _ sz _ d _ _ _ => d.fits sz.regs
  | .st _ sz _ d a _ _ => d.fits sz.regs && a.even && sz != .i8 && sz != .i16
  | .stSp _ sz _ d _ _ _ => d.fits sz.regs && sz != .i8 && sz != .i16
  | .atom _ op ty _ _ d a _ b => op.allows ty && d.fits ty.regs && a.even && b.fits ty.regs
  | .cas _ ty _ _ d a _ b => d.fits ty.regs && a.even && b.fits (2 * ty.regs)
  | .red _ op ty ord _ a _ b => op.allows ty && a.even && b.fits ty.regs && ord != .acq && ord != .acqrel
  | .waitaddr _ a _ _ => a.even
  | .sptest _ _ a => a.even
  | .spcastGen _ d _ => d.even
  | .spcastSp _ _ a => a.even
  | .pref _ _ a _ _ => a.even
  | .cctlInv _ a _ => a.even
  | .cctlWb _ a _ => a.even
  | .sdrop _ f c => 1 ≤ c.toNat && f.toNat + c.toNat ≤ 96
  | .swake _ f c => 1 ≤ c.toNat && f.toNat + c.toNat ≤ 96
  | .gwmax _ d => d.even
  | .tcopy _ _ a => a.even
  | .tstore _ _ a => a.even
  | .tcopys _ _ a => a.even
  | .barinit _ sc bar _ => match bar with | .nb _ => sc == .grp | .gb _ => sc != .grp
  | .wpop _ d => d.quad
  | .wpush _ a b => a.quad && (match b with | some r => r.even | none => true)
  | .launch _ a => a.even
  | .signalSet _ a _ => a.even
  | .signalAdd _ a _ => a.even
  | .sigwait _ _ a _ => a.even
  | .gswap _ _ a _ => a.even
  | .qroom _ _ a => a.even
  | .pair _ x y => pairOk x y
  | .sysr _ d n => sysOk n d
  | .sysw _ a n => sysOk n a
  | _ => true

/-- The rows whose words may carry a cache hint (R95). -/
def Instr.takesCh : Instr → Bool
  | .ld .. | .ldSp .. | .st .. | .stSp .. | .atom .. | .cas .. | .red .. | .pref .. | .tcopy .. | .tstore .. => true
  | _ => false

/-- The hints of a thread instruction; a step of another agent has none. -/
def Instr.hints? : Instr → Option Hints
  | .nop h => some h
  | .bra h .. => some h
  | .brx h .. => some h
  | .call h .. => some h
  | .callx h .. => some h
  | .ret h .. => some h
  | .exitThread h => some h
  | .jenrol h .. => some h
  | .jwait h .. => some h
  | .jdrop h .. => some h
  | .jstat h .. => some h
  | .sleep h .. => some h
  | .bkptN h .. => some h
  | .trapN h .. => some h
  | .enter h .. => some h
  | .shfl h .. => some h
  | .vote h .. => some h
  | .ballot h .. => some h
  | .matchLanes h .. => some h
  | .redux h .. => some h
  | .scan h .. => some h
  | .elect h .. => some h
  | .present h .. => some h
  | .iadd h .. => some h
  | .iaddImm h .. => some h
  | .isub h .. => some h
  | .isubImm h .. => some h
  | .imul h .. => some h
  | .imulImm h .. => some h
  | .imulh h .. => some h
  | .imulhImm h .. => some h
  | .imad h .. => some h
  | .imin h .. => some h
  | .iminImm h .. => some h
  | .imax h .. => some h
  | .imaxImm h .. => some h
  | .iabs h .. => some h
  | .ineg h .. => some h
  | .andW h .. => some h
  | .andWImm h .. => some h
  | .orW h .. => some h
  | .orWImm h .. => some h
  | .xorW h .. => some h
  | .xorWImm h .. => some h
  | .andnW h .. => some h
  | .andnWImm h .. => some h
  | .notW h .. => some h
  | .popc h .. => some h
  | .clz h .. => some h
  | .brev h .. => some h
  | .shl h .. => some h
  | .shlImm h .. => some h
  | .shr h .. => some h
  | .shrImm h .. => some h
  | .sar h .. => some h
  | .sarImm h .. => some h
  | .rot h .. => some h
  | .rotImm h .. => some h
  | .funnel h .. => some h
  | .bfe h .. => some h
  | .bfeImm h .. => some h
  | .bfi h .. => some h
  | .perm h .. => some h
  | .sel h .. => some h
  | .iset h .. => some h
  | .isetImm h .. => some h
  | .plop h .. => some h
  | .mov h .. => some h
  | .movi h .. => some h
  | .lea h .. => some h
  | .iadd64 h .. => some h
  | .iadd64Imm h .. => some h
  | .idiv h .. => some h
  | .dot4 h .. => some h
  | .fadd h .. => some h
  | .faddImm h .. => some h
  | .fsub h .. => some h
  | .fsubImm h .. => some h
  | .fmul h .. => some h
  | .fmulImm h .. => some h
  | .fdiv h .. => some h
  | .fdivImm h .. => some h
  | .ffma h .. => some h
  | .fmin h .. => some h
  | .fminImm h .. => some h
  | .fmax h .. => some h
  | .fmaxImm h .. => some h
  | .fset h .. => some h
  | .fsetImm h .. => some h
  | .fclass h .. => some h
  | .frnd h .. => some h
  | .fsqrt h .. => some h
  | .frcp h .. => some h
  | .frsq h .. => some h
  | .fex2 h .. => some h
  | .flg2 h .. => some h
  | .fsin h .. => some h
  | .fcos h .. => some h
  | .ftanh h .. => some h
  | .hadd2 h .. => some h
  | .hadd2Imm h .. => some h
  | .hmul2 h .. => some h
  | .hmul2Imm h .. => some h
  | .hfma2 h .. => some h
  | .hmnx2 h .. => some h
  | .hmnx2Imm h .. => some h
  | .f2i h .. => some h
  | .i2f h .. => some h
  | .f2f h .. => some h
  | .qcvt h .. => some h
  | .dqcvt h .. => some h
  | .qpack h .. => some h
  | .fdot2 h .. => some h
  | .fscale h .. => some h
  | .fscaleImm h .. => some h
  | .sadd h .. => some h
  | .ssub h .. => some h
  | .smul h .. => some h
  | .sdiv h .. => some h
  | .ssq h .. => some h
  | .sexp h .. => some h
  | .sln h .. => some h
  | .scmp h .. => some h
  | .sclass h .. => some h
  | .scvtSliF32 h .. => some h
  | .scvtF32Sli h .. => some h
  | .srecip h .. => some h
  | .ld h .. => some h
  | .ldSp h .. => some h
  | .st h .. => some h
  | .stSp h .. => some h
  | .atom h .. => some h
  | .cas h .. => some h
  | .red h .. => some h
  | .fence h .. => some h
  | .waitaddr h .. => some h
  | .sptest h .. => some h
  | .spcastGen h .. => some h
  | .spcastSp h .. => some h
  | .pref h .. => some h
  | .cctlInv h .. => some h
  | .cctlWb h .. => some h
  | .cctlInvall h => some h
  | .wcflush h => some h
  | .sdrop h .. => some h
  | .swake h .. => some h
  | .gwmax h .. => some h
  | .tcopy h .. => some h
  | .tstore h .. => some h
  | .tcopys h .. => some h
  | .chptr h .. => some h
  | .chwait h .. => some h
  | .chdrain h .. => some h
  | .chstat h .. => some h
  | .ringinit h .. => some h
  | .ringacqProd h .. => some h
  | .ringacqCons h .. => some h
  | .ringrelProd h .. => some h
  | .ringrelCons h .. => some h
  | .ringwaitProd h .. => some h
  | .ringwaitCons h .. => some h
  | .mma h .. => some h
  | .mdecl h .. => some h
  | .mwait h .. => some h
  | .mfence h .. => some h
  | .mzero h .. => some h
  | .mload h .. => some h
  | .mstore h .. => some h
  | .mlive h .. => some h
  | .mstat h .. => some h
  | .barinit h .. => some h
  | .bararv h .. => some h
  | .barwait h .. => some h
  | .barsync h .. => some h
  | .barstat h .. => some h
  | .barset h .. => some h
  | .gbar h .. => some h
  | .wpop h .. => some h
  | .wpush h .. => some h
  | .launch h .. => some h
  | .signalSet h .. => some h
  | .signalAdd h .. => some h
  | .sigwait h .. => some h
  | .gswap h .. => some h
  | .qroom h .. => some h
  | .pair h .. => some h
  | .sysr h .. => some h
  | .sysw h .. => some h
  | .tret h => some h
  | .tswr h .. => some h
  | .tsww h .. => some h
  | .ologr h .. => some h
  | .xgetPred h .. => some h
  | .xgetStruct h .. => some h
  | .xsetPred h .. => some h
  | .xsetStruct h .. => some h
  | .placeCore h .. => some h
  | .placeDie h .. => some h
  | .placePort h .. => some h
  | _ => none

/-- A thread instruction, which has a word; the other rows are steps of other agents. -/
def Instr.isThread (i : Instr) : Bool := i.hints?.isSome

/-- Every check of R96 that a term can still break. -/
def Instr.wf (i : Instr) : Bool :=
  i.operandsOk && (match i.hints? with | some h => i.takesCh || h.ch == 0 | none => true)

end Sys2Proof
end

