-- ==== Sys2Proof/Decode.lean ====
section
/-! DEFINITION. The decoder of instruction words and, after it, the encoder (04_encoding.md R80 to R106). The decoder is
total: a word that is no instruction is rejected by the name of what is wrong with it. -/
namespace Sys2Proof

/-- Why a word is no instruction (R96). -/
inductive DecodeError where
  | reservedBits     -- bits [95:94] are nonzero
  | unassignedMajor  -- MAJ 0x00 or a MAJ not in the opcode map
  | fields           -- a SUB, operand class, reserved field or modifier value the row does not list
  | illFormed        -- an operand index, a format code, a cache hint or a PAIR that breaks its rule
  deriving DecidableEq, Repr

inductive Decoded where
  | ok (i : Instr)
  | error (e : DecodeError)
  deriving DecidableEq, Repr

/-! ### Code tables (R52, R59, R104 to R106) -/

def ShflOp.code : ShflOp → BitVec 4
  | .idx => 0
  | .up => 1
  | .down => 2
  | .xor => 3

def ShflOp.ofCode (c : BitVec 4) : Option ShflOp :=
  match c.toNat with
  | 0 => some .idx
  | 1 => some .up
  | 2 => some .down
  | 3 => some .xor
  | _ => none

def VoteOp.code : VoteOp → BitVec 4
  | .all => 0
  | .any => 1
  | .uni => 2

def VoteOp.ofCode (c : BitVec 4) : Option VoteOp :=
  match c.toNat with
  | 0 => some .all
  | 1 => some .any
  | 2 => some .uni
  | _ => none

def MatchOp.code : MatchOp → BitVec 4
  | .any => 0
  | .all => 1

def MatchOp.ofCode (c : BitVec 4) : Option MatchOp :=
  match c.toNat with
  | 0 => some .any
  | 1 => some .all
  | _ => none

def RedOp.code : RedOp → BitVec 4
  | .add => 0
  | .min => 1
  | .max => 2
  | .and => 3
  | .or => 4
  | .xor => 5

def RedOp.ofCode (c : BitVec 4) : Option RedOp :=
  match c.toNat with
  | 0 => some .add
  | 1 => some .min
  | 2 => some .max
  | 3 => some .and
  | 4 => some .or
  | 5 => some .xor
  | _ => none

def LTy.code : LTy → BitVec 3
  | .b32 => 0
  | .n32 => 1
  | .f32 => 2
  | .sli => 3

def LTy.ofCode (c : BitVec 3) : Option LTy :=
  match c.toNat with
  | 0 => some .b32
  | 1 => some .n32
  | 2 => some .f32
  | 3 => some .sli
  | _ => none

def Cmp.code : Cmp → BitVec 3
  | .eq => 0
  | .ne => 1
  | .lt => 2
  | .le => 3
  | .gt => 4
  | .ge => 5

def Cmp.ofCode (c : BitVec 3) : Option Cmp :=
  match c.toNat with
  | 0 => some .eq
  | 1 => some .ne
  | 2 => some .lt
  | 3 => some .le
  | 4 => some .gt
  | 5 => some .ge
  | _ => none

def Fn.code : Fn → BitVec 4
  | .eq => 0
  | .ne => 1
  | .lt => 2
  | .le => 3
  | .gt => 4
  | .ge => 5
  | .num => 6
  | .nan => 7

def Fn.ofCode (c : BitVec 4) : Option Fn :=
  match c.toNat with
  | 0 => some .eq
  | 1 => some .ne
  | 2 => some .lt
  | 3 => some .le
  | 4 => some .gt
  | 5 => some .ge
  | 6 => some .num
  | 7 => some .nan
  | _ => none

def Rm.code : Rm → BitVec 2
  | .rn => 0
  | .rz => 1
  | .rd => 2
  | .ru => 3

def Rm.ofCode (c : BitVec 2) : Option Rm :=
  match c.toNat with
  | 0 => some .rn
  | 1 => some .rz
  | 2 => some .rd
  | 3 => some .ru
  | _ => none

def Fmt.code : Fmt → BitVec 2
  | .f32 => 0
  | .f16 => 1
  | .bf16 => 2

def Fmt.ofCode (c : BitVec 2) : Option Fmt :=
  match c.toNat with
  | 0 => some .f32
  | 1 => some .f16
  | 2 => some .bf16
  | _ => none

def ITy.code : ITy → BitVec 3
  | .i32 => 0
  | .n32 => 1
  | .i16 => 2
  | .n16 => 3
  | .i8 => 4
  | .n8 => 5
  | .i64 => 6
  | .n64 => 7

def ITy.ofCode (c : BitVec 3) : Option ITy :=
  match c.toNat with
  | 0 => some .i32
  | 1 => some .n32
  | 2 => some .i16
  | 3 => some .n16
  | 4 => some .i8
  | 5 => some .n8
  | 6 => some .i64
  | 7 => some .n64
  | _ => none

def Half.code : Half → BitVec 1
  | .bf16 => 0
  | .f16 => 1

def Half.ofCode (c : BitVec 1) : Option Half :=
  match c.toNat with
  | 0 => some .bf16
  | 1 => some .f16
  | _ => none

def Sz.code : Sz → BitVec 3
  | .n8 => 0
  | .i8 => 1
  | .n16 => 2
  | .i16 => 3
  | .b32 => 4
  | .b64 => 5
  | .b128 => 6

def Sz.ofCode (c : BitVec 3) : Option Sz :=
  match c.toNat with
  | 0 => some .n8
  | 1 => some .i8
  | 2 => some .n16
  | 3 => some .i16
  | 4 => some .b32
  | 5 => some .b64
  | 6 => some .b128
  | _ => none

def Aop.code : Aop → BitVec 4
  | .add => 0
  | .min => 1
  | .max => 2
  | .and => 3
  | .or => 4
  | .xor => 5
  | .exch => 6
  | .inc => 7
  | .dec => 8

def Aop.ofCode (c : BitVec 4) : Option Aop :=
  match c.toNat with
  | 0 => some .add
  | 1 => some .min
  | 2 => some .max
  | 3 => some .and
  | 4 => some .or
  | 5 => some .xor
  | 6 => some .exch
  | 7 => some .inc
  | 8 => some .dec
  | _ => none

def ATy.code : ATy → BitVec 3
  | .n32 => 0
  | .i32 => 1
  | .n64 => 2
  | .i64 => 3
  | .f32 => 4
  | .bf16x2 => 5
  | .f16x2 => 6

def ATy.ofCode (c : BitVec 3) : Option ATy :=
  match c.toNat with
  | 0 => some .n32
  | 1 => some .i32
  | 2 => some .n64
  | 3 => some .i64
  | 4 => some .f32
  | 5 => some .bf16x2
  | 6 => some .f16x2
  | _ => none

def Scope.code : Scope → BitVec 3
  | .core => 0
  | .quad => 1
  | .die => 2
  | .pkg => 3
  | .pod => 4

def Scope.ofCode (c : BitVec 3) : Option Scope :=
  match c.toNat with
  | 0 => some .core
  | 1 => some .quad
  | 2 => some .die
  | 3 => some .pkg
  | 4 => some .pod
  | _ => none

def AOrd.code : AOrd → BitVec 2
  | .relaxed => 0
  | .acq => 1
  | .rel => 2
  | .acqrel => 3

def AOrd.ofCode (c : BitVec 2) : Option AOrd :=
  match c.toNat with
  | 0 => some .relaxed
  | 1 => some .acq
  | 2 => some .rel
  | 3 => some .acqrel
  | _ => none

def MmaKind.code : MmaKind → BitVec 4
  | .n => 0
  | .w => 1
  | .i => 2

def MmaKind.ofCode (c : BitVec 4) : Option MmaKind :=
  match c.toNat with
  | 0 => some .n
  | 1 => some .w
  | 2 => some .i
  | _ => none

def MCell.code : MCell → BitVec 4
  | .f32 => 0
  | .bf16 => 1
  | .sli => 2
  | .i32 => 3

def MCell.ofCode (c : BitVec 4) : Option MCell :=
  match c.toNat with
  | 0 => some .f32
  | 1 => some .bf16
  | 2 => some .sli
  | 3 => some .i32
  | _ => none

def BScope.code : BScope → BitVec 4
  | .grp => 0
  | .quad => 1
  | .die => 2
  | .pkg => 3
  | .pod => 4

def BScope.ofCode (c : BitVec 4) : Option BScope :=
  match c.toNat with
  | 0 => some .grp
  | 1 => some .quad
  | 2 => some .die
  | 3 => some .pkg
  | 4 => some .pod
  | _ => none

/-- op7 of a PAIR slot (R100). -/
def PairOp.code : PairOp → BitVec 7
  | .iadd => 0x01
  | .isub => 0x02
  | .imul => 0x03
  | .iminS => 0x04
  | .iminU => 0x05
  | .imaxS => 0x06
  | .imaxU => 0x07
  | .and => 0x08
  | .or => 0x09
  | .xor => 0x0a
  | .andn => 0x0b
  | .shl => 0x0c
  | .shr => 0x0d
  | .sar => 0x0e
  | .mov => 0x0f
  | .fadd => 0x20
  | .fmul => 0x21
  | .ffma => 0x22
  | .fmin => 0x23
  | .fmax => 0x24
  | .hadd2 .f16 => 0x28
  | .hadd2 .bf16 => 0x30
  | .hmul2 .f16 => 0x29
  | .hmul2 .bf16 => 0x31
  | .hfma2 .f16 => 0x2a
  | .hfma2 .bf16 => 0x32
  | .hmin2 .f16 => 0x2b
  | .hmin2 .bf16 => 0x33
  | .hmax2 .f16 => 0x2c
  | .hmax2 .bf16 => 0x34

def PairOp.ofCode (c : BitVec 7) : Option PairOp :=
  match c.toNat with
  | 0x01 => some .iadd
  | 0x02 => some .isub
  | 0x03 => some .imul
  | 0x04 => some .iminS
  | 0x05 => some .iminU
  | 0x06 => some .imaxS
  | 0x07 => some .imaxU
  | 0x08 => some .and
  | 0x09 => some .or
  | 0x0a => some .xor
  | 0x0b => some .andn
  | 0x0c => some .shl
  | 0x0d => some .shr
  | 0x0e => some .sar
  | 0x0f => some .mov
  | 0x20 => some .fadd
  | 0x21 => some .fmul
  | 0x22 => some .ffma
  | 0x23 => some .fmin
  | 0x24 => some .fmax
  | 0x28 => some (.hadd2 .f16)
  | 0x30 => some (.hadd2 .bf16)
  | 0x29 => some (.hmul2 .f16)
  | 0x31 => some (.hmul2 .bf16)
  | 0x2a => some (.hfma2 .f16)
  | 0x32 => some (.hfma2 .bf16)
  | 0x2b => some (.hmin2 .f16)
  | 0x33 => some (.hmin2 .bf16)
  | 0x2c => some (.hmax2 .f16)
  | 0x34 => some (.hmax2 .bf16)
  | _ => none

/-! ### Operand fields (R87, R88) -/

/-- The field of an absent operand. -/
def absent : BitVec 12 := 0xFFF

def isAbsent (f : BitVec 12) : Option Unit := if f = absent then some () else none

def isZero {n : Nat} (x : BitVec n) : Option Unit := if x = 0#n then some () else none

def bit (x : Bool) : BitVec 1 := if x then 1 else 0

def eV (r : VReg) : BitVec 12 := 0#5 ++ r

def dV (f : BitVec 12) : Option VReg :=
  if f.extractLsb' 7 5 = 0#5 then some (f.extractLsb' 0 7) else none

def eP (r : PReg) : BitVec 12 := 0x20#8 ++ r

def dP (f : BitVec 12) : Option PReg :=
  if f.extractLsb' 4 8 = 0x20#8 then some (f.extractLsb' 0 4) else none

def eImm (v : BitVec 9) : BitVec 12 := 3#3 ++ v

def dImm (f : BitVec 12) : Option (BitVec 9) :=
  if f.extractLsb' 9 3 = 3#3 then some (f.extractLsb' 0 9) else none

def eSrc : Src → BitVec 12
  | .reg r => eV r
  | .imm v => eImm v

def dSrc (f : BitVec 12) : Option Src :=
  match dV f with
  | some r => some (.reg r)
  | none => match dImm f with
    | some v => some (.imm v)
    | none => none

def eOV : Option VReg → BitVec 12
  | some r => eV r
  | none => absent

def dOV (f : BitVec 12) : Option (Option VReg) :=
  if f = absent then some none
  else match dV f with
    | some r => some (some r)
    | none => none

def eVP : DstVP → BitVec 12
  | .v r => eV r
  | .p r => eP r

def dVP (f : BitVec 12) : Option DstVP :=
  match dV f with
  | some r => some (.v r)
  | none => match dP f with
    | some r => some (.p r)
    | none => none

def eSVP : SrcVP → BitVec 12
  | .v r => eV r
  | .p r => eP r
  | .imm v => eImm v

def dSVP (f : BitVec 12) : Option SrcVP :=
  match dV f with
  | some r => some (.v r)
  | none => match dP f with
    | some r => some (.p r)
    | none => match dImm f with
      | some v => some (.imm v)
      | none => none

/-- A structured field: class 100, the kind, two zero bits, the index (R87). -/
def eStr (kind : BitVec 3) (idx : BitVec 4) : BitVec 12 := 4#3 ++ kind ++ 0#2 ++ idx

def dStr (kind : BitVec 3) (f : BitVec 12) : Option (BitVec 4) :=
  if f.extractLsb' 4 8 = 4#3 ++ kind ++ 0#2 then some (f.extractLsb' 0 4) else none

def dStr3 (kind : BitVec 3) (f : BitVec 12) : Option (BitVec 3) :=
  if f.extractLsb' 3 9 = 4#3 ++ kind ++ 0#3 then some (f.extractLsb' 0 3) else none

def dStr2 (kind : BitVec 3) (f : BitVec 12) : Option (BitVec 2) :=
  if f.extractLsb' 2 10 = 4#3 ++ kind ++ 0#4 then some (f.extractLsb' 0 2) else none

def eCv (n : BitVec 3) : BitVec 12 := eStr 0 (0#1 ++ n)
def dCv (f : BitVec 12) : Option (BitVec 3) := dStr3 0 f
def eJb (n : BitVec 4) : BitVec 12 := eStr 1 n
def dJb (f : BitVec 12) : Option (BitVec 4) := dStr 1 f
def eNb (n : BitVec 4) : BitVec 12 := eStr 2 n
def dNb (f : BitVec 12) : Option (BitVec 4) := dStr 2 f
def eGb (n : BitVec 2) : BitVec 12 := eStr 3 (0#2 ++ n)
def dGb (f : BitVec 12) : Option (BitVec 2) := dStr2 3 f
def eCh (n : BitVec 3) : BitVec 12 := eStr 4 (0#1 ++ n)
def dCh (f : BitVec 12) : Option (BitVec 3) := dStr3 4 f
def eRg (n : BitVec 3) : BitVec 12 := eStr 5 (0#1 ++ n)
def dRg (f : BitVec 12) : Option (BitVec 3) := dStr3 5 f

def eBar : Bar → BitVec 12
  | .nb n => eNb n
  | .gb n => eGb n

def dBar (f : BitVec 12) : Option Bar :=
  match dNb f with
  | some n => some (.nb n)
  | none => match dGb f with
    | some n => some (.gb n)
    | none => none

def eSReg : SReg → BitVec 12
  | .cv n => eCv n
  | .jb n => eJb n
  | .nb n => eNb n
  | .gb n => eGb n

def dSReg (f : BitVec 12) : Option SReg :=
  match dCv f with
  | some n => some (.cv n)
  | none => match dJb f with
    | some n => some (.jb n)
    | none => match dNb f with
      | some n => some (.nb n)
      | none => match dGb f with
        | some n => some (.gb n)
        | none => none

/-- SHFL's VP and VPI (R153): with VP = 0, VPI must be 0. -/
def vpBits : Option PReg → BitVec 5
  | some p => 1#1 ++ p
  | none => 0#5

def vpOf (x : BitVec 8) : Option (Option PReg) :=
  if x.extractLsb' 5 3 = 0#3 then
    if x.getLsbD 4 then some (some (x.extractLsb' 0 4))
    else if x.extractLsb' 0 4 = 0#4 then some none else none
  else none

/-- MATCH's type: b32 or f32 (R104). -/
def matchTy (x : BitVec 3) : Option Bool :=
  if x = 0#3 then some false else if x = 2#3 then some true else none

/-- ORD of LD and ST: 000 for none, else the scope plus 1 (R105). -/
def ordBits : Option Scope → BitVec 3
  | none => 0
  | some .core => 1
  | some .quad => 2
  | some .die => 3
  | some .pkg => 4
  | some .pod => 5

def ordOf (x : BitVec 3) : Option (Option Scope) :=
  match x.toNat with
  | 0 => some none
  | 1 => some (some .core)
  | 2 => some (some .quad)
  | 3 => some (some .die)
  | 4 => some (some .pkg)
  | 5 => some (some .pod)
  | _ => none

/-- FENCE's ORD: 001 to 101 (R104). -/
def fenceScope (x : BitVec 3) : Option Scope :=
  match ordOf x with
  | some (some s) => some s
  | _ => none

/-- MLOAD's SUB: 0 or 3 (R331). -/
def mloadSub (s : BitVec 4) : Option Bool :=
  if s = 0#4 then some false else if s = 3#4 then some true else none

def ePSrc : PSrc → BitVec 8
  | .reg r => 0#1 ++ r
  | .imm v => 1#1 ++ v

def dPSrc (x : BitVec 8) : PSrc :=
  if x.getLsbD 7 then .imm (x.extractLsb' 0 7) else .reg (x.extractLsb' 0 7)

/-- A slot of format P: op7, d8, a8, b8 (R98). -/
def eSlot (s : PSlot) : BitVec 31 := s.op.code ++ (0#1 ++ s.d) ++ ePSrc s.a ++ ePSrc s.b

def slotOf (x : BitVec 31) : Option PSlot := do
  let op ← PairOp.ofCode (x.extractLsb' 24 7)
  isZero (x.extractLsb' 23 1)
  some { op := op, d := x.extractLsb' 16 7, a := dPSrc (x.extractLsb' 8 8), b := dPSrc (x.extractLsb' 0 8) }

/-! ### Formats of BODY (R85) -/

def fD (b : BitVec 63) : BitVec 12 := b.extractLsb' 0 12
def fA (b : BitVec 63) : BitVec 12 := b.extractLsb' 12 12
def fB (b : BitVec 63) : BitVec 12 := b.extractLsb' 24 12
def fC (b : BitVec 63) : BitVec 12 := b.extractLsb' 36 12
def fX8 (b : BitVec 63) : BitVec 8 := b.extractLsb' 48 8
def fM7 (b : BitVec 63) : BitVec 7 := b.extractLsb' 56 7
def fImm (b : BitVec 63) : BitVec 32 := b.extractLsb' 24 32
def fOff (b : BitVec 63) : BitVec 24 := b.extractLsb' 36 24
def fOrd (b : BitVec 63) : BitVec 3 := b.extractLsb' 60 3

def bodyR (m7 : BitVec 7) (x8 : BitVec 8) (c b a d : BitVec 12) : BitVec 63 := m7 ++ x8 ++ c ++ b ++ a ++ d
def bodyI (m7 : BitVec 7) (imm : BitVec 32) (a d : BitVec 12) : BitVec 63 := m7 ++ imm ++ a ++ d
def bodyM (ord : BitVec 3) (off : BitVec 24) (b a d : BitVec 12) : BitVec 63 := ord ++ off ++ b ++ a ++ d
def bodyP (y x : BitVec 31) : BitVec 63 := 0#1 ++ y ++ x

/-- The whole word from its hints, body, SUB and MAJ (R84). -/
def packWord (h : Hints) (body : BitVec 63) (sub : BitVec 4) (maj : BitVec 8) : BitVec 96 :=
  0#2 ++ h.ch ++ h.wdrop ++ bit h.yld ++ h.gap ++ body ++ bit h.gn ++ h.gp ++ sub ++ maj

def hintsOf (w : BitVec 96) : Hints :=
  { ch := w.extractLsb' 92 2, wdrop := w.extractLsb' 84 8, yld := w.getLsbD 83, gap := w.extractLsb' 80 3,
    gn := w.getLsbD 16, gp := w.extractLsb' 12 4 }

/-! ### The rows of the opcode map (R103 to R106) -/

/-- MAJ 0x01: NOP (R103 to R106). -/
def row01 (h : Hints) (sub : BitVec 4) (bd : BitVec 63) : Option Instr :=
  if sub = 0#4 then
    do
      isAbsent (fD bd)
      isAbsent (fA bd)
      isAbsent (fB bd)
      isAbsent (fC bd)
      isZero (fX8 bd)
      isZero (fM7 bd)
      some (.nop h)
  else none

/-- MAJ 0x02: BRA (R103 to R106). -/
def row02 (h : Hints) (sub : BitVec 4) (bd : BitVec 63) : Option Instr :=
  if sub = 0#4 then
    do
      isAbsent (fD bd)
      isAbsent (fA bd)
      let off := (fImm bd)
      isZero (fM7 bd)
      some (.bra h off)
  else none

/-- MAJ 0x03: BRX (R103 to R106). -/
def row03 (h : Hints) (sub : BitVec 4) (bd : BitVec 63) : Option Instr :=
  if sub = 0#4 then
    do
      isAbsent (fD bd)
      let a ← dV (fA bd)
      let off := (fImm bd)
      isZero (fM7 bd)
      some (.brx h a off)
  else none

/-- MAJ 0x04: CALL (R103 to R106). -/
def row04 (h : Hints) (sub : BitVec 4) (bd : BitVec 63) : Option Instr :=
  if sub = 0#4 then
    do
      let d ← dV (fD bd)
      isAbsent (fA bd)
      let off := (fImm bd)
      isZero (fM7 bd)
      some (.call h d off)
  else none

/-- MAJ 0x05: CALLX (R103 to R106). -/
def row05 (h : Hints) (sub : BitVec 4) (bd : BitVec 63) : Option Instr :=
  if sub = 0#4 then
    do
      let d ← dV (fD bd)
      let a ← dV (fA bd)
      let off := (fImm bd)
      isZero (fM7 bd)
      some (.callx h d a off)
  else none

/-- MAJ 0x06: RET (R103 to R106). -/
def row06 (h : Hints) (sub : BitVec 4) (bd : BitVec 63) : Option Instr :=
  if sub = 0#4 then
    do
      isAbsent (fD bd)
      let a ← dV (fA bd)
      isZero (fImm bd)
      isZero (fM7 bd)
      some (.ret h a)
  else none

/-- MAJ 0x07: EXIT (R103 to R106). -/
def row07 (h : Hints) (sub : BitVec 4) (bd : BitVec 63) : Option Instr :=
  if sub = 0#4 then
    do
      isAbsent (fD bd)
      isAbsent (fA bd)
      isAbsent (fB bd)
      isAbsent (fC bd)
      isZero (fX8 bd)
      isZero (fM7 bd)
      some (.exitThread h)
  else none

/-- MAJ 0x08: JENROL (R103 to R106). -/
def row08 (h : Hints) (sub : BitVec 4) (bd : BitVec 63) : Option Instr :=
  if sub = 0#4 then
    do
      isAbsent (fD bd)
      let jb ← dJb (fA bd)
      isAbsent (fB bd)
      isAbsent (fC bd)
      isZero (fX8 bd)
      isZero (fM7 bd)
      some (.jenrol h jb)
  else none

/-- MAJ 0x09: JWAIT (R103 to R106). -/
def row09 (h : Hints) (sub : BitVec 4) (bd : BitVec 63) : Option Instr :=
  if sub = 0#4 then
    do
      isAbsent (fD bd)
      let jb ← dJb (fA bd)
      isAbsent (fB bd)
      isAbsent (fC bd)
      isZero (fX8 bd)
      isZero (fM7 bd)
      some (.jwait h jb)
  else none

/-- MAJ 0x0a: JDROP (R103 to R106). -/
def row0A (h : Hints) (sub : BitVec 4) (bd : BitVec 63) : Option Instr :=
  if sub = 0#4 then
    do
      isAbsent (fD bd)
      let jb ← dJb (fA bd)
      isAbsent (fB bd)
      isAbsent (fC bd)
      isZero (fX8 bd)
      isZero (fM7 bd)
      some (.jdrop h jb)
  else none

/-- MAJ 0x0b: JSTAT (R103 to R106). -/
def row0B (h : Hints) (sub : BitVec 4) (bd : BitVec 63) : Option Instr :=
  if sub = 0#4 then
    do
      let d ← dV (fD bd)
      let jb ← dJb (fA bd)
      isAbsent (fB bd)
      isAbsent (fC bd)
      isZero (fX8 bd)
      isZero (fM7 bd)
      some (.jstat h d jb)
  else none

/-- MAJ 0x0c: SLEEP (R103 to R106). -/
def row0C (h : Hints) (sub : BitVec 4) (bd : BitVec 63) : Option Instr :=
  if sub = 0#4 then
    do
      isAbsent (fD bd)
      let a ← dOV (fA bd)
      let imm := (fImm bd)
      isZero (fM7 bd)
      some (.sleep h a imm)
  else none

/-- MAJ 0x0d: BKPT (R103 to R106). -/
def row0D (h : Hints) (sub : BitVec 4) (bd : BitVec 63) : Option Instr :=
  if sub = 0#4 then
    do
      isAbsent (fD bd)
      isAbsent (fA bd)
      let imm := (fImm bd)
      isZero (fM7 bd)
      some (.bkptN h imm)
  else none

/-- MAJ 0x0e: TRAP (R103 to R106). -/
def row0E (h : Hints) (sub : BitVec 4) (bd : BitVec 63) : Option Instr :=
  if sub = 0#4 then
    do
      isAbsent (fD bd)
      isAbsent (fA bd)
      let imm := (fImm bd)
      isZero (fM7 bd)
      some (.trapN h imm)
  else none

/-- MAJ 0x0f: ENTER (R103 to R106). -/
def row0F (h : Hints) (sub : BitVec 4) (bd : BitVec 63) : Option Instr :=
  if sub = 0#4 then
    do
      isAbsent (fD bd)
      isAbsent (fA bd)
      let imm := (fImm bd)
      isZero (fM7 bd)
      some (.enter h imm)
  else none

/-- MAJ 0x20: SHFL (R103 to R106). -/
def row20 (h : Hints) (sub : BitVec 4) (bd : BitVec 63) : Option Instr :=
  do
    let op ← ShflOp.ofCode sub
    let d ← dV (fD bd)
    let a ← dSrc (fA bd)
    let b ← dSrc (fB bd)
    let c ← dOV (fC bd)
    let vp ← vpOf (fX8 bd)
    isZero ((fM7 bd).extractLsb' 6 1)
    isZero ((fM7 bd).extractLsb' 0 6)
    some (.shfl h op vp d a b c)

/-- MAJ 0x21: VOTE (R103 to R106). -/
def row21 (h : Hints) (sub : BitVec 4) (bd : BitVec 63) : Option Instr :=
  do
    let op ← VoteOp.ofCode sub
    let d ← dP (fD bd)
    let a ← dP (fA bd)
    isAbsent (fB bd)
    let c ← dOV (fC bd)
    isZero ((fX8 bd).extractLsb' 5 3)
    isZero ((fX8 bd).extractLsb' 0 5)
    isZero ((fM7 bd).extractLsb' 6 1)
    isZero ((fM7 bd).extractLsb' 0 6)
    some (.vote h op d a c)

/-- MAJ 0x22: BALLOT (R103 to R106). -/
def row22 (h : Hints) (sub : BitVec 4) (bd : BitVec 63) : Option Instr :=
  if sub = 0#4 then
    do
      let d ← dV (fD bd)
      let a ← dP (fA bd)
      isAbsent (fB bd)
      let c ← dOV (fC bd)
      isZero ((fX8 bd).extractLsb' 5 3)
      isZero ((fX8 bd).extractLsb' 0 5)
      isZero ((fM7 bd).extractLsb' 6 1)
      isZero ((fM7 bd).extractLsb' 0 6)
      some (.ballot h d a c)
  else none

/-- MAJ 0x23: MATCH (R103 to R106). -/
def row23 (h : Hints) (sub : BitVec 4) (bd : BitVec 63) : Option Instr :=
  do
    let op ← MatchOp.ofCode sub
    let d ← dV (fD bd)
    let a ← dV (fA bd)
    isAbsent (fB bd)
    let c ← dOV (fC bd)
    let f32 ← matchTy ((fX8 bd).extractLsb' 5 3)
    isZero ((fX8 bd).extractLsb' 0 5)
    isZero ((fM7 bd).extractLsb' 6 1)
    isZero ((fM7 bd).extractLsb' 0 6)
    some (.matchLanes h op f32 d a c)

/-- MAJ 0x24: REDUX (R103 to R106). -/
def row24 (h : Hints) (sub : BitVec 4) (bd : BitVec 63) : Option Instr :=
  do
    let op ← RedOp.ofCode sub
    let d ← dV (fD bd)
    let a ← dV (fA bd)
    isAbsent (fB bd)
    let c ← dOV (fC bd)
    let ty ← LTy.ofCode ((fX8 bd).extractLsb' 5 3)
    isZero ((fX8 bd).extractLsb' 0 5)
    isZero ((fM7 bd).extractLsb' 6 1)
    isZero ((fM7 bd).extractLsb' 0 6)
    some (.redux h op ty d a c)

/-- MAJ 0x25: SCAN (R103 to R106). -/
def row25 (h : Hints) (sub : BitVec 4) (bd : BitVec 63) : Option Instr :=
  do
    let op ← RedOp.ofCode sub
    let d ← dV (fD bd)
    let a ← dV (fA bd)
    isAbsent (fB bd)
    let c ← dOV (fC bd)
    let ty ← LTy.ofCode ((fX8 bd).extractLsb' 5 3)
    isZero ((fX8 bd).extractLsb' 0 5)
    let exc := (fM7 bd).getLsbD 6
    isZero ((fM7 bd).extractLsb' 0 6)
    some (.scan h op ty exc d a c)

/-- MAJ 0x26: ELECT (R103 to R106). -/
def row26 (h : Hints) (sub : BitVec 4) (bd : BitVec 63) : Option Instr :=
  if sub = 0#4 then
    do
      let d ← dP (fD bd)
      isAbsent (fA bd)
      isAbsent (fB bd)
      let c ← dOV (fC bd)
      isZero ((fX8 bd).extractLsb' 5 3)
      isZero ((fX8 bd).extractLsb' 0 5)
      isZero ((fM7 bd).extractLsb' 6 1)
      isZero ((fM7 bd).extractLsb' 0 6)
      some (.elect h d c)
  else none

/-- MAJ 0x27: PRESENT (R103 to R106). -/
def row27 (h : Hints) (sub : BitVec 4) (bd : BitVec 63) : Option Instr :=
  if sub = 0#4 then
    do
      let d ← dV (fD bd)
      isAbsent (fA bd)
      isAbsent (fB bd)
      let c ← dOV (fC bd)
      isZero ((fX8 bd).extractLsb' 5 3)
      isZero ((fX8 bd).extractLsb' 0 5)
      isZero ((fM7 bd).extractLsb' 6 1)
      isZero ((fM7 bd).extractLsb' 0 6)
      some (.present h d c)
  else none

/-- MAJ 0x30: IADD, IADD_IMM (R103 to R106). -/
def row30 (h : Hints) (sub : BitVec 4) (bd : BitVec 63) : Option Instr :=
  if sub = 0#4 then
    do
      let d ← dV (fD bd)
      let a ← dSrc (fA bd)
      let b ← dSrc (fB bd)
      isAbsent (fC bd)
      isZero (fX8 bd)
      let u := (fM7 bd).getLsbD 6
      let sat := (fM7 bd).getLsbD 5
      isZero ((fM7 bd).extractLsb' 0 5)
      some (.iadd h u sat d a b)
  else if sub = 8#4 then
    do
      let d ← dV (fD bd)
      let a ← dSrc (fA bd)
      let imm := (fImm bd)
      let u := (fM7 bd).getLsbD 6
      let sat := (fM7 bd).getLsbD 5
      isZero ((fM7 bd).extractLsb' 0 5)
      some (.iaddImm h u sat d a imm)
  else none

/-- MAJ 0x31: ISUB, ISUB_IMM (R103 to R106). -/
def row31 (h : Hints) (sub : BitVec 4) (bd : BitVec 63) : Option Instr :=
  if sub = 0#4 then
    do
      let d ← dV (fD bd)
      let a ← dSrc (fA bd)
      let b ← dSrc (fB bd)
      isAbsent (fC bd)
      isZero (fX8 bd)
      let u := (fM7 bd).getLsbD 6
      let sat := (fM7 bd).getLsbD 5
      isZero ((fM7 bd).extractLsb' 0 5)
      some (.isub h u sat d a b)
  else if sub = 8#4 then
    do
      let d ← dV (fD bd)
      let a ← dSrc (fA bd)
      let imm := (fImm bd)
      let u := (fM7 bd).getLsbD 6
      let sat := (fM7 bd).getLsbD 5
      isZero ((fM7 bd).extractLsb' 0 5)
      some (.isubImm h u sat d a imm)
  else none

/-- MAJ 0x32: IMUL, IMUL_IMM (R103 to R106). -/
def row32 (h : Hints) (sub : BitVec 4) (bd : BitVec 63) : Option Instr :=
  if sub = 0#4 then
    do
      let d ← dV (fD bd)
      let a ← dSrc (fA bd)
      let b ← dSrc (fB bd)
      isAbsent (fC bd)
      isZero (fX8 bd)
      let u := (fM7 bd).getLsbD 6
      isZero ((fM7 bd).extractLsb' 0 6)
      some (.imul h u d a b)
  else if sub = 8#4 then
    do
      let d ← dV (fD bd)
      let a ← dSrc (fA bd)
      let imm := (fImm bd)
      let u := (fM7 bd).getLsbD 6
      isZero ((fM7 bd).extractLsb' 0 6)
      some (.imulImm h u d a imm)
  else none

/-- MAJ 0x33: IMULH, IMULH_IMM (R103 to R106). -/
def row33 (h : Hints) (sub : BitVec 4) (bd : BitVec 63) : Option Instr :=
  if sub = 0#4 then
    do
      let d ← dV (fD bd)
      let a ← dSrc (fA bd)
      let b ← dSrc (fB bd)
      isAbsent (fC bd)
      isZero (fX8 bd)
      let u := (fM7 bd).getLsbD 6
      isZero ((fM7 bd).extractLsb' 0 6)
      some (.imulh h u d a b)
  else if sub = 8#4 then
    do
      let d ← dV (fD bd)
      let a ← dSrc (fA bd)
      let imm := (fImm bd)
      let u := (fM7 bd).getLsbD 6
      isZero ((fM7 bd).extractLsb' 0 6)
      some (.imulhImm h u d a imm)
  else none

/-- MAJ 0x34: IMAD (R103 to R106). -/
def row34 (h : Hints) (sub : BitVec 4) (bd : BitVec 63) : Option Instr :=
  if sub = 0#4 then
    do
      let d ← dV (fD bd)
      let a ← dV (fA bd)
      let b ← dSrc (fB bd)
      let c ← dSrc (fC bd)
      isZero (fX8 bd)
      let u := (fM7 bd).getLsbD 6
      let sat := (fM7 bd).getLsbD 5
      isZero ((fM7 bd).extractLsb' 0 5)
      some (.imad h u sat d a b c)
  else none

/-- MAJ 0x35: IMIN, IMIN_IMM (R103 to R106). -/
def row35 (h : Hints) (sub : BitVec 4) (bd : BitVec 63) : Option Instr :=
  if sub = 0#4 then
    do
      let d ← dV (fD bd)
      let a ← dSrc (fA bd)
      let b ← dSrc (fB bd)
      isAbsent (fC bd)
      isZero (fX8 bd)
      let u := (fM7 bd).getLsbD 6
      isZero ((fM7 bd).extractLsb' 0 6)
      some (.imin h u d a b)
  else if sub = 8#4 then
    do
      let d ← dV (fD bd)
      let a ← dSrc (fA bd)
      let imm := (fImm bd)
      let u := (fM7 bd).getLsbD 6
      isZero ((fM7 bd).extractLsb' 0 6)
      some (.iminImm h u d a imm)
  else none

/-- MAJ 0x36: IMAX, IMAX_IMM (R103 to R106). -/
def row36 (h : Hints) (sub : BitVec 4) (bd : BitVec 63) : Option Instr :=
  if sub = 0#4 then
    do
      let d ← dV (fD bd)
      let a ← dSrc (fA bd)
      let b ← dSrc (fB bd)
      isAbsent (fC bd)
      isZero (fX8 bd)
      let u := (fM7 bd).getLsbD 6
      isZero ((fM7 bd).extractLsb' 0 6)
      some (.imax h u d a b)
  else if sub = 8#4 then
    do
      let d ← dV (fD bd)
      let a ← dSrc (fA bd)
      let imm := (fImm bd)
      let u := (fM7 bd).getLsbD 6
      isZero ((fM7 bd).extractLsb' 0 6)
      some (.imaxImm h u d a imm)
  else none

/-- MAJ 0x37: IABS (R103 to R106). -/
def row37 (h : Hints) (sub : BitVec 4) (bd : BitVec 63) : Option Instr :=
  if sub = 0#4 then
    do
      let d ← dV (fD bd)
      let a ← dV (fA bd)
      isAbsent (fB bd)
      isAbsent (fC bd)
      isZero (fX8 bd)
      isZero ((fM7 bd).extractLsb' 6 1)
      let sat := (fM7 bd).getLsbD 5
      isZero ((fM7 bd).extractLsb' 0 5)
      some (.iabs h sat d a)
  else none

/-- MAJ 0x38: INEG (R103 to R106). -/
def row38 (h : Hints) (sub : BitVec 4) (bd : BitVec 63) : Option Instr :=
  if sub = 0#4 then
    do
      let d ← dV (fD bd)
      let a ← dV (fA bd)
      isAbsent (fB bd)
      isAbsent (fC bd)
      isZero (fX8 bd)
      isZero ((fM7 bd).extractLsb' 6 1)
      let sat := (fM7 bd).getLsbD 5
      isZero ((fM7 bd).extractLsb' 0 5)
      some (.ineg h sat d a)
  else none

/-- MAJ 0x39: AND, AND_IMM (R103 to R106). -/
def row39 (h : Hints) (sub : BitVec 4) (bd : BitVec 63) : Option Instr :=
  if sub = 0#4 then
    do
      let d ← dV (fD bd)
      let a ← dSrc (fA bd)
      let b ← dSrc (fB bd)
      isAbsent (fC bd)
      isZero (fX8 bd)
      isZero (fM7 bd)
      some (.andW h d a b)
  else if sub = 8#4 then
    do
      let d ← dV (fD bd)
      let a ← dSrc (fA bd)
      let imm := (fImm bd)
      isZero (fM7 bd)
      some (.andWImm h d a imm)
  else none

/-- MAJ 0x3a: OR, OR_IMM (R103 to R106). -/
def row3A (h : Hints) (sub : BitVec 4) (bd : BitVec 63) : Option Instr :=
  if sub = 0#4 then
    do
      let d ← dV (fD bd)
      let a ← dSrc (fA bd)
      let b ← dSrc (fB bd)
      isAbsent (fC bd)
      isZero (fX8 bd)
      isZero (fM7 bd)
      some (.orW h d a b)
  else if sub = 8#4 then
    do
      let d ← dV (fD bd)
      let a ← dSrc (fA bd)
      let imm := (fImm bd)
      isZero (fM7 bd)
      some (.orWImm h d a imm)
  else none

/-- MAJ 0x3b: XOR, XOR_IMM (R103 to R106). -/
def row3B (h : Hints) (sub : BitVec 4) (bd : BitVec 63) : Option Instr :=
  if sub = 0#4 then
    do
      let d ← dV (fD bd)
      let a ← dSrc (fA bd)
      let b ← dSrc (fB bd)
      isAbsent (fC bd)
      isZero (fX8 bd)
      isZero (fM7 bd)
      some (.xorW h d a b)
  else if sub = 8#4 then
    do
      let d ← dV (fD bd)
      let a ← dSrc (fA bd)
      let imm := (fImm bd)
      isZero (fM7 bd)
      some (.xorWImm h d a imm)
  else none

/-- MAJ 0x3d: ANDN, ANDN_IMM (R103 to R106). -/
def row3D (h : Hints) (sub : BitVec 4) (bd : BitVec 63) : Option Instr :=
  if sub = 0#4 then
    do
      let d ← dV (fD bd)
      let a ← dSrc (fA bd)
      let b ← dSrc (fB bd)
      isAbsent (fC bd)
      isZero (fX8 bd)
      isZero (fM7 bd)
      some (.andnW h d a b)
  else if sub = 8#4 then
    do
      let d ← dV (fD bd)
      let a ← dSrc (fA bd)
      let imm := (fImm bd)
      isZero (fM7 bd)
      some (.andnWImm h d a imm)
  else none

/-- MAJ 0x3c: NOT (R103 to R106). -/
def row3C (h : Hints) (sub : BitVec 4) (bd : BitVec 63) : Option Instr :=
  if sub = 0#4 then
    do
      let d ← dV (fD bd)
      let a ← dV (fA bd)
      isAbsent (fB bd)
      isAbsent (fC bd)
      isZero (fX8 bd)
      isZero (fM7 bd)
      some (.notW h d a)
  else none

/-- MAJ 0x43: POPC (R103 to R106). -/
def row43 (h : Hints) (sub : BitVec 4) (bd : BitVec 63) : Option Instr :=
  if sub = 0#4 then
    do
      let d ← dV (fD bd)
      let a ← dV (fA bd)
      isAbsent (fB bd)
      isAbsent (fC bd)
      isZero (fX8 bd)
      isZero (fM7 bd)
      some (.popc h d a)
  else none

/-- MAJ 0x44: CLZ (R103 to R106). -/
def row44 (h : Hints) (sub : BitVec 4) (bd : BitVec 63) : Option Instr :=
  if sub = 0#4 then
    do
      let d ← dV (fD bd)
      let a ← dV (fA bd)
      isAbsent (fB bd)
      isAbsent (fC bd)
      isZero (fX8 bd)
      isZero (fM7 bd)
      some (.clz h d a)
  else none

/-- MAJ 0x45: BREV (R103 to R106). -/
def row45 (h : Hints) (sub : BitVec 4) (bd : BitVec 63) : Option Instr :=
  if sub = 0#4 then
    do
      let d ← dV (fD bd)
      let a ← dV (fA bd)
      isAbsent (fB bd)
      isAbsent (fC bd)
      isZero (fX8 bd)
      isZero (fM7 bd)
      some (.brev h d a)
  else none

/-- MAJ 0x3e: SHL, SHL_IMM (R103 to R106). -/
def row3E (h : Hints) (sub : BitVec 4) (bd : BitVec 63) : Option Instr :=
  if sub = 0#4 then
    do
      let d ← dV (fD bd)
      let a ← dSrc (fA bd)
      let b ← dSrc (fB bd)
      isAbsent (fC bd)
      isZero (fX8 bd)
      isZero (fM7 bd)
      some (.shl h d a b)
  else if sub = 8#4 then
    do
      let d ← dV (fD bd)
      let a ← dSrc (fA bd)
      let imm := (fImm bd)
      isZero (fM7 bd)
      some (.shlImm h d a imm)
  else none

/-- MAJ 0x3f: SHR, SHR_IMM (R103 to R106). -/
def row3F (h : Hints) (sub : BitVec 4) (bd : BitVec 63) : Option Instr :=
  if sub = 0#4 then
    do
      let d ← dV (fD bd)
      let a ← dSrc (fA bd)
      let b ← dSrc (fB bd)
      isAbsent (fC bd)
      isZero (fX8 bd)
      isZero (fM7 bd)
      some (.shr h d a b)
  else if sub = 8#4 then
    do
      let d ← dV (fD bd)
      let a ← dSrc (fA bd)
      let imm := (fImm bd)
      isZero (fM7 bd)
      some (.shrImm h d a imm)
  else none

/-- MAJ 0x40: SAR, SAR_IMM (R103 to R106). -/
def row40 (h : Hints) (sub : BitVec 4) (bd : BitVec 63) : Option Instr :=
  if sub = 0#4 then
    do
      let d ← dV (fD bd)
      let a ← dSrc (fA bd)
      let b ← dSrc (fB bd)
      isAbsent (fC bd)
      isZero (fX8 bd)
      isZero (fM7 bd)
      some (.sar h d a b)
  else if sub = 8#4 then
    do
      let d ← dV (fD bd)
      let a ← dSrc (fA bd)
      let imm := (fImm bd)
      isZero (fM7 bd)
      some (.sarImm h d a imm)
  else none

/-- MAJ 0x41: ROT, ROT_IMM (R103 to R106). -/
def row41 (h : Hints) (sub : BitVec 4) (bd : BitVec 63) : Option Instr :=
  if sub = 0#4 then
    do
      let d ← dV (fD bd)
      let a ← dSrc (fA bd)
      let b ← dSrc (fB bd)
      isAbsent (fC bd)
      isZero (fX8 bd)
      isZero (fM7 bd)
      some (.rot h d a b)
  else if sub = 8#4 then
    do
      let d ← dV (fD bd)
      let a ← dSrc (fA bd)
      let imm := (fImm bd)
      isZero (fM7 bd)
      some (.rotImm h d a imm)
  else none

/-- MAJ 0x42: FUNNEL (R103 to R106). -/
def row42 (h : Hints) (sub : BitVec 4) (bd : BitVec 63) : Option Instr :=
  do
    isZero (sub.extractLsb' 1 3)
    let right := sub.getLsbD 0
    let d ← dV (fD bd)
    let a ← dV (fA bd)
    let b ← dV (fB bd)
    let c ← dSrc (fC bd)
    isZero (fX8 bd)
    isZero (fM7 bd)
    some (.funnel h right d a b c)

/-- MAJ 0x46: BFE, BFE_IMM (R103 to R106). -/
def row46 (h : Hints) (sub : BitVec 4) (bd : BitVec 63) : Option Instr :=
  if sub = 0#4 then
    do
      let d ← dV (fD bd)
      let a ← dV (fA bd)
      let b ← dV (fB bd)
      isAbsent (fC bd)
      isZero (fX8 bd)
      let u := (fM7 bd).getLsbD 6
      isZero ((fM7 bd).extractLsb' 0 6)
      some (.bfe h u d a b)
  else if sub = 8#4 then
    do
      let d ← dV (fD bd)
      let a ← dV (fA bd)
      let imm := (fImm bd)
      let u := (fM7 bd).getLsbD 6
      isZero ((fM7 bd).extractLsb' 0 6)
      some (.bfeImm h u d a imm)
  else none

/-- MAJ 0x47: BFI (R103 to R106). -/
def row47 (h : Hints) (sub : BitVec 4) (bd : BitVec 63) : Option Instr :=
  if sub = 0#4 then
    do
      let d ← dV (fD bd)
      let a ← dV (fA bd)
      let b ← dV (fB bd)
      let c ← dSrc (fC bd)
      isZero (fX8 bd)
      isZero (fM7 bd)
      some (.bfi h d a b c)
  else none

/-- MAJ 0x48: PERM (R103 to R106). -/
def row48 (h : Hints) (sub : BitVec 4) (bd : BitVec 63) : Option Instr :=
  if sub = 0#4 then
    do
      let d ← dV (fD bd)
      let a ← dV (fA bd)
      let b ← dV (fB bd)
      let c ← dV (fC bd)
      isZero (fX8 bd)
      isZero (fM7 bd)
      some (.perm h d a b c)
  else none

/-- MAJ 0x49: SEL (R103 to R106). -/
def row49 (h : Hints) (sub : BitVec 4) (bd : BitVec 63) : Option Instr :=
  if sub = 0#4 then
    do
      let d ← dV (fD bd)
      let a ← dSrc (fA bd)
      let b ← dSrc (fB bd)
      let c ← dP (fC bd)
      isZero (fX8 bd)
      isZero (fM7 bd)
      some (.sel h d a b c)
  else none

/-- MAJ 0x4a: ISET, ISET_IMM (R103 to R106). -/
def row4A (h : Hints) (sub : BitVec 4) (bd : BitVec 63) : Option Instr :=
  if sub = 0#4 then
    do
      let d ← dVP (fD bd)
      let a ← dV (fA bd)
      let b ← dSrc (fB bd)
      isAbsent (fC bd)
      isZero (fX8 bd)
      let u := (fM7 bd).getLsbD 6
      isZero ((fM7 bd).extractLsb' 5 1)
      let cmp ← Cmp.ofCode ((fM7 bd).extractLsb' 2 3)
      isZero ((fM7 bd).extractLsb' 0 2)
      some (.iset h u cmp d a b)
  else if sub = 8#4 then
    do
      let d ← dVP (fD bd)
      let a ← dV (fA bd)
      let imm := (fImm bd)
      let u := (fM7 bd).getLsbD 6
      isZero ((fM7 bd).extractLsb' 5 1)
      let cmp ← Cmp.ofCode ((fM7 bd).extractLsb' 2 3)
      isZero ((fM7 bd).extractLsb' 0 2)
      some (.isetImm h u cmp d a imm)
  else none

/-- MAJ 0x4b: PLOP (R103 to R106). -/
def row4B (h : Hints) (sub : BitVec 4) (bd : BitVec 63) : Option Instr :=
  if sub = 0#4 then
    do
      let d ← dP (fD bd)
      let a ← dP (fA bd)
      let b ← dP (fB bd)
      let c ← dP (fC bd)
      let lut := (fX8 bd)
      isZero (fM7 bd)
      some (.plop h lut d a b c)
  else none

/-- MAJ 0x4c: MOV (R103 to R106). -/
def row4C (h : Hints) (sub : BitVec 4) (bd : BitVec 63) : Option Instr :=
  if sub = 0#4 then
    do
      let d ← dVP (fD bd)
      let a ← dSVP (fA bd)
      isAbsent (fB bd)
      isAbsent (fC bd)
      isZero (fX8 bd)
      isZero (fM7 bd)
      some (.mov h d a)
  else none

/-- MAJ 0x4d: MOVI (R103 to R106). -/
def row4D (h : Hints) (sub : BitVec 4) (bd : BitVec 63) : Option Instr :=
  if sub = 0#4 then
    do
      let d ← dV (fD bd)
      isAbsent (fA bd)
      let imm := (fImm bd)
      isZero (fM7 bd)
      some (.movi h d imm)
  else none

/-- MAJ 0x4e: LEA (R103 to R106). -/
def row4E (h : Hints) (sub : BitVec 4) (bd : BitVec 63) : Option Instr :=
  if sub = 0#4 then
    do
      let d ← dV (fD bd)
      let a ← dV (fA bd)
      let b ← dV (fB bd)
      isAbsent (fC bd)
      isZero ((fX8 bd).extractLsb' 3 5)
      let sh := ((fX8 bd).extractLsb' 0 3)
      let u := (fM7 bd).getLsbD 6
      isZero ((fM7 bd).extractLsb' 0 6)
      some (.lea h u sh d a b)
  else none

/-- MAJ 0x4f: IADD64, IADD64_IMM (R103 to R106). -/
def row4F (h : Hints) (sub : BitVec 4) (bd : BitVec 63) : Option Instr :=
  if sub = 0#4 then
    do
      let d ← dV (fD bd)
      let a ← dV (fA bd)
      let b ← dV (fB bd)
      isAbsent (fC bd)
      isZero (fX8 bd)
      isZero (fM7 bd)
      some (.iadd64 h d a b)
  else if sub = 8#4 then
    do
      let d ← dV (fD bd)
      let a ← dV (fA bd)
      let imm := (fImm bd)
      isZero (fM7 bd)
      some (.iadd64Imm h d a imm)
  else none

/-- MAJ 0x50: IDIV (R103 to R106). -/
def row50 (h : Hints) (sub : BitVec 4) (bd : BitVec 63) : Option Instr :=
  do
    isZero (sub.extractLsb' 1 3)
    let rem := sub.getLsbD 0
    let d ← dV (fD bd)
    let a ← dV (fA bd)
    let b ← dV (fB bd)
    isAbsent (fC bd)
    isZero (fX8 bd)
    let u := (fM7 bd).getLsbD 6
    isZero ((fM7 bd).extractLsb' 0 6)
    some (.idiv h u rem d a b)

/-- MAJ 0x51: DOT4 (R103 to R106). -/
def row51 (h : Hints) (sub : BitVec 4) (bd : BitVec 63) : Option Instr :=
  if sub = 0#4 then
    do
      let d ← dV (fD bd)
      let a ← dV (fA bd)
      let b ← dV (fB bd)
      let c ← dV (fC bd)
      isZero ((fX8 bd).extractLsb' 2 6)
      let ua := (fX8 bd).getLsbD 1
      let ub := (fX8 bd).getLsbD 0
      isZero ((fM7 bd).extractLsb' 6 1)
      let sat := (fM7 bd).getLsbD 5
      isZero ((fM7 bd).extractLsb' 0 5)
      some (.dot4 h sat ua ub d a b c)
  else none

/-- MAJ 0x60: FADD, FADD_IMM (R103 to R106). -/
def row60 (h : Hints) (sub : BitVec 4) (bd : BitVec 63) : Option Instr :=
  if sub = 0#4 then
    do
      let d ← dV (fD bd)
      let a ← dSrc (fA bd)
      let b ← dSrc (fB bd)
      isAbsent (fC bd)
      isZero (fX8 bd)
      let rm ← Rm.ofCode ((fM7 bd).extractLsb' 5 2)
      let ftz := (fM7 bd).getLsbD 4
      isZero ((fM7 bd).extractLsb' 0 4)
      some (.fadd h rm ftz d a b)
  else if sub = 8#4 then
    do
      let d ← dV (fD bd)
      let a ← dSrc (fA bd)
      let imm := (fImm bd)
      let rm ← Rm.ofCode ((fM7 bd).extractLsb' 5 2)
      let ftz := (fM7 bd).getLsbD 4
      isZero ((fM7 bd).extractLsb' 0 4)
      some (.faddImm h rm ftz d a imm)
  else none

/-- MAJ 0x61: FSUB, FSUB_IMM (R103 to R106). -/
def row61 (h : Hints) (sub : BitVec 4) (bd : BitVec 63) : Option Instr :=
  if sub = 0#4 then
    do
      let d ← dV (fD bd)
      let a ← dSrc (fA bd)
      let b ← dSrc (fB bd)
      isAbsent (fC bd)
      isZero (fX8 bd)
      let rm ← Rm.ofCode ((fM7 bd).extractLsb' 5 2)
      let ftz := (fM7 bd).getLsbD 4
      isZero ((fM7 bd).extractLsb' 0 4)
      some (.fsub h rm ftz d a b)
  else if sub = 8#4 then
    do
      let d ← dV (fD bd)
      let a ← dSrc (fA bd)
      let imm := (fImm bd)
      let rm ← Rm.ofCode ((fM7 bd).extractLsb' 5 2)
      let ftz := (fM7 bd).getLsbD 4
      isZero ((fM7 bd).extractLsb' 0 4)
      some (.fsubImm h rm ftz d a imm)
  else none

/-- MAJ 0x62: FMUL, FMUL_IMM (R103 to R106). -/
def row62 (h : Hints) (sub : BitVec 4) (bd : BitVec 63) : Option Instr :=
  if sub = 0#4 then
    do
      let d ← dV (fD bd)
      let a ← dSrc (fA bd)
      let b ← dSrc (fB bd)
      isAbsent (fC bd)
      isZero (fX8 bd)
      let rm ← Rm.ofCode ((fM7 bd).extractLsb' 5 2)
      let ftz := (fM7 bd).getLsbD 4
      isZero ((fM7 bd).extractLsb' 0 4)
      some (.fmul h rm ftz d a b)
  else if sub = 8#4 then
    do
      let d ← dV (fD bd)
      let a ← dSrc (fA bd)
      let imm := (fImm bd)
      let rm ← Rm.ofCode ((fM7 bd).extractLsb' 5 2)
      let ftz := (fM7 bd).getLsbD 4
      isZero ((fM7 bd).extractLsb' 0 4)
      some (.fmulImm h rm ftz d a imm)
  else none

/-- MAJ 0x71: FDIV, FDIV_IMM (R103 to R106). -/
def row71 (h : Hints) (sub : BitVec 4) (bd : BitVec 63) : Option Instr :=
  if sub = 0#4 then
    do
      let d ← dV (fD bd)
      let a ← dSrc (fA bd)
      let b ← dSrc (fB bd)
      isAbsent (fC bd)
      isZero (fX8 bd)
      let rm ← Rm.ofCode ((fM7 bd).extractLsb' 5 2)
      let ftz := (fM7 bd).getLsbD 4
      isZero ((fM7 bd).extractLsb' 0 4)
      some (.fdiv h rm ftz d a b)
  else if sub = 8#4 then
    do
      let d ← dV (fD bd)
      let a ← dSrc (fA bd)
      let imm := (fImm bd)
      let rm ← Rm.ofCode ((fM7 bd).extractLsb' 5 2)
      let ftz := (fM7 bd).getLsbD 4
      isZero ((fM7 bd).extractLsb' 0 4)
      some (.fdivImm h rm ftz d a imm)
  else none

/-- MAJ 0x63: FFMA (R103 to R106). -/
def row63 (h : Hints) (sub : BitVec 4) (bd : BitVec 63) : Option Instr :=
  if sub = 0#4 then
    do
      let d ← dV (fD bd)
      let a ← dV (fA bd)
      let b ← dSrc (fB bd)
      let c ← dSrc (fC bd)
      isZero (fX8 bd)
      let rm ← Rm.ofCode ((fM7 bd).extractLsb' 5 2)
      let ftz := (fM7 bd).getLsbD 4
      isZero ((fM7 bd).extractLsb' 0 4)
      some (.ffma h rm ftz d a b c)
  else none

/-- MAJ 0x64: FMIN, FMIN_IMM (R103 to R106). -/
def row64 (h : Hints) (sub : BitVec 4) (bd : BitVec 63) : Option Instr :=
  if sub = 0#4 then
    do
      let d ← dV (fD bd)
      let a ← dSrc (fA bd)
      let b ← dSrc (fB bd)
      isAbsent (fC bd)
      isZero (fX8 bd)
      isZero ((fM7 bd).extractLsb' 5 2)
      let ftz := (fM7 bd).getLsbD 4
      isZero ((fM7 bd).extractLsb' 0 4)
      some (.fmin h ftz d a b)
  else if sub = 8#4 then
    do
      let d ← dV (fD bd)
      let a ← dSrc (fA bd)
      let imm := (fImm bd)
      isZero ((fM7 bd).extractLsb' 5 2)
      let ftz := (fM7 bd).getLsbD 4
      isZero ((fM7 bd).extractLsb' 0 4)
      some (.fminImm h ftz d a imm)
  else none

/-- MAJ 0x65: FMAX, FMAX_IMM (R103 to R106). -/
def row65 (h : Hints) (sub : BitVec 4) (bd : BitVec 63) : Option Instr :=
  if sub = 0#4 then
    do
      let d ← dV (fD bd)
      let a ← dSrc (fA bd)
      let b ← dSrc (fB bd)
      isAbsent (fC bd)
      isZero (fX8 bd)
      isZero ((fM7 bd).extractLsb' 5 2)
      let ftz := (fM7 bd).getLsbD 4
      isZero ((fM7 bd).extractLsb' 0 4)
      some (.fmax h ftz d a b)
  else if sub = 8#4 then
    do
      let d ← dV (fD bd)
      let a ← dSrc (fA bd)
      let imm := (fImm bd)
      isZero ((fM7 bd).extractLsb' 5 2)
      let ftz := (fM7 bd).getLsbD 4
      isZero ((fM7 bd).extractLsb' 0 4)
      some (.fmaxImm h ftz d a imm)
  else none

/-- MAJ 0x66: FSET, FSET_IMM (R103 to R106). -/
def row66 (h : Hints) (sub : BitVec 4) (bd : BitVec 63) : Option Instr :=
  if sub = 0#4 then
    do
      let d ← dVP (fD bd)
      let a ← dV (fA bd)
      let b ← dSrc (fB bd)
      isAbsent (fC bd)
      isZero (fX8 bd)
      isZero ((fM7 bd).extractLsb' 5 2)
      let ftz := (fM7 bd).getLsbD 4
      let fn ← Fn.ofCode ((fM7 bd).extractLsb' 0 4)
      some (.fset h ftz fn d a b)
  else if sub = 8#4 then
    do
      let d ← dVP (fD bd)
      let a ← dV (fA bd)
      let imm := (fImm bd)
      isZero ((fM7 bd).extractLsb' 5 2)
      let ftz := (fM7 bd).getLsbD 4
      let fn ← Fn.ofCode ((fM7 bd).extractLsb' 0 4)
      some (.fsetImm h ftz fn d a imm)
  else none

/-- MAJ 0x67: FCLASS (R103 to R106). -/
def row67 (h : Hints) (sub : BitVec 4) (bd : BitVec 63) : Option Instr :=
  if sub = 0#4 then
    do
      let d ← dV (fD bd)
      let a ← dV (fA bd)
      isAbsent (fB bd)
      isAbsent (fC bd)
      isZero (fX8 bd)
      isZero (fM7 bd)
      some (.fclass h d a)
  else none

/-- MAJ 0x68: FRND (R103 to R106). -/
def row68 (h : Hints) (sub : BitVec 4) (bd : BitVec 63) : Option Instr :=
  if sub = 0#4 then
    do
      let d ← dV (fD bd)
      let a ← dV (fA bd)
      isAbsent (fB bd)
      isAbsent (fC bd)
      isZero (fX8 bd)
      let rm ← Rm.ofCode ((fM7 bd).extractLsb' 5 2)
      let ftz := (fM7 bd).getLsbD 4
      isZero ((fM7 bd).extractLsb' 0 4)
      some (.frnd h rm ftz d a)
  else none

/-- MAJ 0x6b: FSQRT (R103 to R106). -/
def row6B (h : Hints) (sub : BitVec 4) (bd : BitVec 63) : Option Instr :=
  if sub = 0#4 then
    do
      let d ← dV (fD bd)
      let a ← dV (fA bd)
      isAbsent (fB bd)
      isAbsent (fC bd)
      isZero (fX8 bd)
      let rm ← Rm.ofCode ((fM7 bd).extractLsb' 5 2)
      let ftz := (fM7 bd).getLsbD 4
      isZero ((fM7 bd).extractLsb' 0 4)
      some (.fsqrt h rm ftz d a)
  else none

/-- MAJ 0x69: FRCP (R103 to R106). -/
def row69 (h : Hints) (sub : BitVec 4) (bd : BitVec 63) : Option Instr :=
  if sub = 0#4 then
    do
      let d ← dV (fD bd)
      let a ← dV (fA bd)
      isAbsent (fB bd)
      isAbsent (fC bd)
      isZero (fX8 bd)
      isZero ((fM7 bd).extractLsb' 5 2)
      let ftz := (fM7 bd).getLsbD 4
      isZero ((fM7 bd).extractLsb' 0 4)
      some (.frcp h ftz d a)
  else none

/-- MAJ 0x6a: FRSQ (R103 to R106). -/
def row6A (h : Hints) (sub : BitVec 4) (bd : BitVec 63) : Option Instr :=
  if sub = 0#4 then
    do
      let d ← dV (fD bd)
      let a ← dV (fA bd)
      isAbsent (fB bd)
      isAbsent (fC bd)
      isZero (fX8 bd)
      isZero ((fM7 bd).extractLsb' 5 2)
      let ftz := (fM7 bd).getLsbD 4
      isZero ((fM7 bd).extractLsb' 0 4)
      some (.frsq h ftz d a)
  else none

/-- MAJ 0x6c: FEX2 (R103 to R106). -/
def row6C (h : Hints) (sub : BitVec 4) (bd : BitVec 63) : Option Instr :=
  if sub = 0#4 then
    do
      let d ← dV (fD bd)
      let a ← dV (fA bd)
      isAbsent (fB bd)
      isAbsent (fC bd)
      isZero (fX8 bd)
      isZero ((fM7 bd).extractLsb' 5 2)
      let ftz := (fM7 bd).getLsbD 4
      isZero ((fM7 bd).extractLsb' 0 4)
      some (.fex2 h ftz d a)
  else none

/-- MAJ 0x6d: FLG2 (R103 to R106). -/
def row6D (h : Hints) (sub : BitVec 4) (bd : BitVec 63) : Option Instr :=
  if sub = 0#4 then
    do
      let d ← dV (fD bd)
      let a ← dV (fA bd)
      isAbsent (fB bd)
      isAbsent (fC bd)
      isZero (fX8 bd)
      isZero ((fM7 bd).extractLsb' 5 2)
      let ftz := (fM7 bd).getLsbD 4
      isZero ((fM7 bd).extractLsb' 0 4)
      some (.flg2 h ftz d a)
  else none

/-- MAJ 0x6e: FSIN (R103 to R106). -/
def row6E (h : Hints) (sub : BitVec 4) (bd : BitVec 63) : Option Instr :=
  if sub = 0#4 then
    do
      let d ← dV (fD bd)
      let a ← dV (fA bd)
      isAbsent (fB bd)
      isAbsent (fC bd)
      isZero (fX8 bd)
      isZero ((fM7 bd).extractLsb' 5 2)
      let ftz := (fM7 bd).getLsbD 4
      isZero ((fM7 bd).extractLsb' 0 4)
      some (.fsin h ftz d a)
  else none

/-- MAJ 0x6f: FCOS (R103 to R106). -/
def row6F (h : Hints) (sub : BitVec 4) (bd : BitVec 63) : Option Instr :=
  if sub = 0#4 then
    do
      let d ← dV (fD bd)
      let a ← dV (fA bd)
      isAbsent (fB bd)
      isAbsent (fC bd)
      isZero (fX8 bd)
      isZero ((fM7 bd).extractLsb' 5 2)
      let ftz := (fM7 bd).getLsbD 4
      isZero ((fM7 bd).extractLsb' 0 4)
      some (.fcos h ftz d a)
  else none

/-- MAJ 0x70: FTANH (R103 to R106). -/
def row70 (h : Hints) (sub : BitVec 4) (bd : BitVec 63) : Option Instr :=
  if sub = 0#4 then
    do
      let d ← dV (fD bd)
      let a ← dV (fA bd)
      isAbsent (fB bd)
      isAbsent (fC bd)
      isZero (fX8 bd)
      isZero ((fM7 bd).extractLsb' 5 2)
      let ftz := (fM7 bd).getLsbD 4
      isZero ((fM7 bd).extractLsb' 0 4)
      some (.ftanh h ftz d a)
  else none

/-- MAJ 0x72: HADD2, HADD2_IMM (R103 to R106). -/
def row72 (h : Hints) (sub : BitVec 4) (bd : BitVec 63) : Option Instr :=
  if sub.getLsbD 3 = false then
    do
      isZero (sub.extractLsb' 1 2)
      let f ← Half.ofCode (sub.extractLsb' 0 1)
      let d ← dV (fD bd)
      let a ← dSrc (fA bd)
      let b ← dSrc (fB bd)
      isAbsent (fC bd)
      isZero (fX8 bd)
      let rm ← Rm.ofCode ((fM7 bd).extractLsb' 5 2)
      let ftz := (fM7 bd).getLsbD 4
      isZero ((fM7 bd).extractLsb' 0 4)
      some (.hadd2 h f rm ftz d a b)
  else
    do
      isZero (sub.extractLsb' 1 2)
      let f ← Half.ofCode (sub.extractLsb' 0 1)
      let d ← dV (fD bd)
      let a ← dSrc (fA bd)
      let imm := (fImm bd)
      let rm ← Rm.ofCode ((fM7 bd).extractLsb' 5 2)
      let ftz := (fM7 bd).getLsbD 4
      isZero ((fM7 bd).extractLsb' 0 4)
      some (.hadd2Imm h f rm ftz d a imm)

/-- MAJ 0x73: HMUL2, HMUL2_IMM (R103 to R106). -/
def row73 (h : Hints) (sub : BitVec 4) (bd : BitVec 63) : Option Instr :=
  if sub.getLsbD 3 = false then
    do
      isZero (sub.extractLsb' 1 2)
      let f ← Half.ofCode (sub.extractLsb' 0 1)
      let d ← dV (fD bd)
      let a ← dSrc (fA bd)
      let b ← dSrc (fB bd)
      isAbsent (fC bd)
      isZero (fX8 bd)
      let rm ← Rm.ofCode ((fM7 bd).extractLsb' 5 2)
      let ftz := (fM7 bd).getLsbD 4
      isZero ((fM7 bd).extractLsb' 0 4)
      some (.hmul2 h f rm ftz d a b)
  else
    do
      isZero (sub.extractLsb' 1 2)
      let f ← Half.ofCode (sub.extractLsb' 0 1)
      let d ← dV (fD bd)
      let a ← dSrc (fA bd)
      let imm := (fImm bd)
      let rm ← Rm.ofCode ((fM7 bd).extractLsb' 5 2)
      let ftz := (fM7 bd).getLsbD 4
      isZero ((fM7 bd).extractLsb' 0 4)
      some (.hmul2Imm h f rm ftz d a imm)

/-- MAJ 0x74: HFMA2 (R103 to R106). -/
def row74 (h : Hints) (sub : BitVec 4) (bd : BitVec 63) : Option Instr :=
  do
    isZero (sub.extractLsb' 1 3)
    let f ← Half.ofCode (sub.extractLsb' 0 1)
    let d ← dV (fD bd)
    let a ← dV (fA bd)
    let b ← dSrc (fB bd)
    let c ← dSrc (fC bd)
    isZero (fX8 bd)
    let rm ← Rm.ofCode ((fM7 bd).extractLsb' 5 2)
    let ftz := (fM7 bd).getLsbD 4
    isZero ((fM7 bd).extractLsb' 0 4)
    some (.hfma2 h f rm ftz d a b c)

/-- MAJ 0x75: HMNX2, HMNX2_IMM (R103 to R106). -/
def row75 (h : Hints) (sub : BitVec 4) (bd : BitVec 63) : Option Instr :=
  if sub.getLsbD 3 = false then
    do
      isZero (sub.extractLsb' 2 1)
      let max := sub.getLsbD 1
      let f ← Half.ofCode (sub.extractLsb' 0 1)
      let d ← dV (fD bd)
      let a ← dSrc (fA bd)
      let b ← dSrc (fB bd)
      isAbsent (fC bd)
      isZero (fX8 bd)
      isZero ((fM7 bd).extractLsb' 5 2)
      let ftz := (fM7 bd).getLsbD 4
      isZero ((fM7 bd).extractLsb' 0 4)
      some (.hmnx2 h f max ftz d a b)
  else
    do
      isZero (sub.extractLsb' 2 1)
      let max := sub.getLsbD 1
      let f ← Half.ofCode (sub.extractLsb' 0 1)
      let d ← dV (fD bd)
      let a ← dSrc (fA bd)
      let imm := (fImm bd)
      isZero ((fM7 bd).extractLsb' 5 2)
      let ftz := (fM7 bd).getLsbD 4
      isZero ((fM7 bd).extractLsb' 0 4)
      some (.hmnx2Imm h f max ftz d a imm)

/-- MAJ 0x76: F2I (R103 to R106). -/
def row76 (h : Hints) (sub : BitVec 4) (bd : BitVec 63) : Option Instr :=
  if sub = 0#4 then
    do
      let d ← dV (fD bd)
      let a ← dV (fA bd)
      isAbsent (fB bd)
      isAbsent (fC bd)
      let ft ← Fmt.ofCode ((fX8 bd).extractLsb' 6 2)
      isZero ((fX8 bd).extractLsb' 3 3)
      let it ← ITy.ofCode ((fX8 bd).extractLsb' 0 3)
      let rm ← Rm.ofCode ((fM7 bd).extractLsb' 5 2)
      isZero ((fM7 bd).extractLsb' 0 5)
      some (.f2i h rm ft it d a)
  else none

/-- MAJ 0x77: I2F (R103 to R106). -/
def row77 (h : Hints) (sub : BitVec 4) (bd : BitVec 63) : Option Instr :=
  if sub = 0#4 then
    do
      let d ← dV (fD bd)
      let a ← dV (fA bd)
      isAbsent (fB bd)
      isAbsent (fC bd)
      let ft ← Fmt.ofCode ((fX8 bd).extractLsb' 6 2)
      isZero ((fX8 bd).extractLsb' 3 3)
      let it ← ITy.ofCode ((fX8 bd).extractLsb' 0 3)
      let rm ← Rm.ofCode ((fM7 bd).extractLsb' 5 2)
      isZero ((fM7 bd).extractLsb' 0 5)
      some (.i2f h rm ft it d a)
  else none

/-- MAJ 0x78: F2F (R103 to R106). -/
def row78 (h : Hints) (sub : BitVec 4) (bd : BitVec 63) : Option Instr :=
  if sub = 0#4 then
    do
      let d ← dV (fD bd)
      let a ← dV (fA bd)
      isAbsent (fB bd)
      isAbsent (fC bd)
      let fd ← Fmt.ofCode ((fX8 bd).extractLsb' 6 2)
      let fs ← Fmt.ofCode ((fX8 bd).extractLsb' 4 2)
      isZero ((fX8 bd).extractLsb' 0 4)
      let rm ← Rm.ofCode ((fM7 bd).extractLsb' 5 2)
      let ftz := (fM7 bd).getLsbD 4
      isZero ((fM7 bd).extractLsb' 0 4)
      some (.f2f h rm ftz fd fs d a)
  else none

/-- MAJ 0x79: QCVT (R103 to R106). -/
def row79 (h : Hints) (sub : BitVec 4) (bd : BitVec 63) : Option Instr :=
  if sub = 0#4 then
    do
      let d ← dV (fD bd)
      let a ← dV (fA bd)
      let b ← dP (fB bd)
      isAbsent (fC bd)
      isZero ((fX8 bd).extractLsb' 6 2)
      let sf := ((fX8 bd).extractLsb' 0 6)
      let rm ← Rm.ofCode ((fM7 bd).extractLsb' 5 2)
      isZero ((fM7 bd).extractLsb' 0 5)
      some (.qcvt h rm sf d a b)
  else none

/-- MAJ 0x7a: DQCVT (R103 to R106). -/
def row7A (h : Hints) (sub : BitVec 4) (bd : BitVec 63) : Option Instr :=
  if sub = 0#4 then
    do
      let d ← dV (fD bd)
      let a ← dV (fA bd)
      isAbsent (fB bd)
      isAbsent (fC bd)
      isZero ((fX8 bd).extractLsb' 6 2)
      let sf := ((fX8 bd).extractLsb' 0 6)
      isZero (fM7 bd)
      some (.dqcvt h sf d a)
  else none

/-- MAJ 0x7b: QPACK (R103 to R106). -/
def row7B (h : Hints) (sub : BitVec 4) (bd : BitVec 63) : Option Instr :=
  if sub = 0#4 then
    do
      let d ← dV (fD bd)
      let a ← dV (fA bd)
      let b ← dV (fB bd)
      isAbsent (fC bd)
      isZero ((fX8 bd).extractLsb' 6 2)
      let sf := ((fX8 bd).extractLsb' 0 6)
      isZero (fM7 bd)
      some (.qpack h sf d a b)
  else none

/-- MAJ 0x7c: FDOT2 (R103 to R106). -/
def row7C (h : Hints) (sub : BitVec 4) (bd : BitVec 63) : Option Instr :=
  if sub = 0#4 then
    do
      let d ← dV (fD bd)
      let a ← dV (fA bd)
      let b ← dV (fB bd)
      let c ← dV (fC bd)
      isZero (fX8 bd)
      let rm ← Rm.ofCode ((fM7 bd).extractLsb' 5 2)
      let ftz := (fM7 bd).getLsbD 4
      isZero ((fM7 bd).extractLsb' 0 4)
      some (.fdot2 h rm ftz d a b c)
  else none

/-- MAJ 0x7d: FSCALE, FSCALE_IMM (R103 to R106). -/
def row7D (h : Hints) (sub : BitVec 4) (bd : BitVec 63) : Option Instr :=
  if sub = 0#4 then
    do
      let d ← dV (fD bd)
      let a ← dV (fA bd)
      let b ← dSrc (fB bd)
      isAbsent (fC bd)
      isZero (fX8 bd)
      let rm ← Rm.ofCode ((fM7 bd).extractLsb' 5 2)
      let ftz := (fM7 bd).getLsbD 4
      isZero ((fM7 bd).extractLsb' 0 4)
      some (.fscale h rm ftz d a b)
  else if sub = 8#4 then
    do
      let d ← dV (fD bd)
      let a ← dV (fA bd)
      let imm := (fImm bd)
      let rm ← Rm.ofCode ((fM7 bd).extractLsb' 5 2)
      let ftz := (fM7 bd).getLsbD 4
      isZero ((fM7 bd).extractLsb' 0 4)
      some (.fscaleImm h rm ftz d a imm)
  else none

/-- MAJ 0x80: SADD (R103 to R106). -/
def row80 (h : Hints) (sub : BitVec 4) (bd : BitVec 63) : Option Instr :=
  if sub = 0#4 then
    do
      let d ← dV (fD bd)
      let a ← dV (fA bd)
      let b ← dV (fB bd)
      isAbsent (fC bd)
      isZero (fX8 bd)
      isZero (fM7 bd)
      some (.sadd h d a b)
  else none

/-- MAJ 0x81: SSUB (R103 to R106). -/
def row81 (h : Hints) (sub : BitVec 4) (bd : BitVec 63) : Option Instr :=
  if sub = 0#4 then
    do
      let d ← dV (fD bd)
      let a ← dV (fA bd)
      let b ← dV (fB bd)
      isAbsent (fC bd)
      isZero (fX8 bd)
      isZero (fM7 bd)
      some (.ssub h d a b)
  else none

/-- MAJ 0x82: SMUL (R103 to R106). -/
def row82 (h : Hints) (sub : BitVec 4) (bd : BitVec 63) : Option Instr :=
  if sub = 0#4 then
    do
      let d ← dV (fD bd)
      let a ← dV (fA bd)
      let b ← dV (fB bd)
      isAbsent (fC bd)
      isZero (fX8 bd)
      isZero (fM7 bd)
      some (.smul h d a b)
  else none

/-- MAJ 0x83: SDIV (R103 to R106). -/
def row83 (h : Hints) (sub : BitVec 4) (bd : BitVec 63) : Option Instr :=
  if sub = 0#4 then
    do
      let d ← dV (fD bd)
      let a ← dV (fA bd)
      let b ← dV (fB bd)
      isAbsent (fC bd)
      isZero (fX8 bd)
      isZero (fM7 bd)
      some (.sdiv h d a b)
  else none

/-- MAJ 0x84: SSQ (R103 to R106). -/
def row84 (h : Hints) (sub : BitVec 4) (bd : BitVec 63) : Option Instr :=
  if sub = 0#4 then
    do
      let d ← dV (fD bd)
      let a ← dV (fA bd)
      isAbsent (fB bd)
      isAbsent (fC bd)
      isZero (fX8 bd)
      isZero (fM7 bd)
      some (.ssq h d a)
  else none

/-- MAJ 0x85: SEXP (R103 to R106). -/
def row85 (h : Hints) (sub : BitVec 4) (bd : BitVec 63) : Option Instr :=
  if sub = 0#4 then
    do
      let d ← dV (fD bd)
      let a ← dV (fA bd)
      isAbsent (fB bd)
      isAbsent (fC bd)
      isZero (fX8 bd)
      isZero (fM7 bd)
      some (.sexp h d a)
  else none

/-- MAJ 0x86: SLN (R103 to R106). -/
def row86 (h : Hints) (sub : BitVec 4) (bd : BitVec 63) : Option Instr :=
  if sub = 0#4 then
    do
      let d ← dV (fD bd)
      let a ← dV (fA bd)
      isAbsent (fB bd)
      isAbsent (fC bd)
      isZero (fX8 bd)
      isZero (fM7 bd)
      some (.sln h d a)
  else none

/-- MAJ 0x87: SCMP (R103 to R106). -/
def row87 (h : Hints) (sub : BitVec 4) (bd : BitVec 63) : Option Instr :=
  if sub = 0#4 then
    do
      let d ← dVP (fD bd)
      let a ← dV (fA bd)
      let b ← dV (fB bd)
      isAbsent (fC bd)
      isZero (fX8 bd)
      isZero ((fM7 bd).extractLsb' 5 2)
      let cmp ← Cmp.ofCode ((fM7 bd).extractLsb' 2 3)
      isZero ((fM7 bd).extractLsb' 0 2)
      some (.scmp h cmp d a b)
  else none

/-- MAJ 0x88: SCLASS (R103 to R106). -/
def row88 (h : Hints) (sub : BitVec 4) (bd : BitVec 63) : Option Instr :=
  if sub = 0#4 then
    do
      let d ← dV (fD bd)
      let a ← dV (fA bd)
      isAbsent (fB bd)
      isAbsent (fC bd)
      isZero (fX8 bd)
      isZero (fM7 bd)
      some (.sclass h d a)
  else none

/-- MAJ 0x89: SCVT_SLI_F32, SCVT_F32_SLI (R103 to R106). -/
def row89 (h : Hints) (sub : BitVec 4) (bd : BitVec 63) : Option Instr :=
  if sub = 0#4 then
    do
      let d ← dV (fD bd)
      let a ← dV (fA bd)
      isAbsent (fB bd)
      isAbsent (fC bd)
      isZero (fX8 bd)
      isZero (fM7 bd)
      some (.scvtSliF32 h d a)
  else if sub = 1#4 then
    do
      let d ← dV (fD bd)
      let a ← dV (fA bd)
      isAbsent (fB bd)
      isAbsent (fC bd)
      isZero (fX8 bd)
      isZero (fM7 bd)
      some (.scvtF32Sli h d a)
  else none

/-- MAJ 0x8a: SRECIP (R103 to R106). -/
def row8A (h : Hints) (sub : BitVec 4) (bd : BitVec 63) : Option Instr :=
  if sub = 0#4 then
    do
      let d ← dV (fD bd)
      let a ← dV (fA bd)
      isAbsent (fB bd)
      isAbsent (fC bd)
      isZero (fX8 bd)
      isZero (fM7 bd)
      some (.srecip h d a)
  else none

/-- MAJ 0x90: LD, LD_SP (R103 to R106). -/
def row90 (h : Hints) (sub : BitVec 4) (bd : BitVec 63) : Option Instr :=
  if sub.getLsbD 3 = false then
    do
      let sz ← Sz.ofCode (sub.extractLsb' 0 3)
      let d ← dV (fD bd)
      let a ← dV (fA bd)
      let b ← dOV (fB bd)
      let off := (fOff bd)
      let ord ← ordOf (fOrd bd)
      some (.ld h sz ord d a b off)
  else
    do
      let sz ← Sz.ofCode (sub.extractLsb' 0 3)
      let d ← dV (fD bd)
      let a ← dV (fA bd)
      let b ← dOV (fB bd)
      let off := (fOff bd)
      isZero ((fOrd bd).extractLsb' 1 2)
      let ordCore := (fOrd bd).getLsbD 0
      some (.ldSp h sz ordCore d a b off)

/-- MAJ 0x91: ST, ST_SP (R103 to R106). -/
def row91 (h : Hints) (sub : BitVec 4) (bd : BitVec 63) : Option Instr :=
  if sub.getLsbD 3 = false then
    do
      let sz ← Sz.ofCode (sub.extractLsb' 0 3)
      let d ← dV (fD bd)
      let a ← dV (fA bd)
      let b ← dOV (fB bd)
      let off := (fOff bd)
      let ord ← ordOf (fOrd bd)
      some (.st h sz ord d a b off)
  else
    do
      let sz ← Sz.ofCode (sub.extractLsb' 0 3)
      let d ← dV (fD bd)
      let a ← dV (fA bd)
      let b ← dOV (fB bd)
      let off := (fOff bd)
      isZero ((fOrd bd).extractLsb' 1 2)
      let ordCore := (fOrd bd).getLsbD 0
      some (.stSp h sz ordCore d a b off)

/-- MAJ 0x92: ATOM (R103 to R106). -/
def row92 (h : Hints) (sub : BitVec 4) (bd : BitVec 63) : Option Instr :=
  do
    isZero (sub.extractLsb' 0 2)
    let ord ← AOrd.ofCode (sub.extractLsb' 2 2)
    let d ← dV (fD bd)
    let a ← dV (fA bd)
    let b ← dV (fB bd)
    let op ← Aop.ofCode ((fOff bd).extractLsb' 20 4)
    let ty ← ATy.ofCode ((fOff bd).extractLsb' 17 3)
    isZero ((fOff bd).extractLsb' 16 1)
    let off := ((fOff bd).extractLsb' 0 16)
    let sc ← Scope.ofCode (fOrd bd)
    some (.atom h op ty ord sc d a off b)

/-- MAJ 0x93: CAS (R103 to R106). -/
def row93 (h : Hints) (sub : BitVec 4) (bd : BitVec 63) : Option Instr :=
  do
    isZero (sub.extractLsb' 0 2)
    let ord ← AOrd.ofCode (sub.extractLsb' 2 2)
    let d ← dV (fD bd)
    let a ← dV (fA bd)
    let b ← dV (fB bd)
    isZero ((fOff bd).extractLsb' 20 4)
    let ty ← ATy.ofCode ((fOff bd).extractLsb' 17 3)
    isZero ((fOff bd).extractLsb' 16 1)
    let off := ((fOff bd).extractLsb' 0 16)
    let sc ← Scope.ofCode (fOrd bd)
    some (.cas h ty ord sc d a off b)

/-- MAJ 0x94: RED (R103 to R106). -/
def row94 (h : Hints) (sub : BitVec 4) (bd : BitVec 63) : Option Instr :=
  do
    isZero (sub.extractLsb' 0 2)
    let ord ← AOrd.ofCode (sub.extractLsb' 2 2)
    isAbsent (fD bd)
    let a ← dV (fA bd)
    let b ← dV (fB bd)
    let op ← Aop.ofCode ((fOff bd).extractLsb' 20 4)
    let ty ← ATy.ofCode ((fOff bd).extractLsb' 17 3)
    isZero ((fOff bd).extractLsb' 16 1)
    let off := ((fOff bd).extractLsb' 0 16)
    let sc ← Scope.ofCode (fOrd bd)
    some (.red h op ty ord sc a off b)

/-- MAJ 0x95: FENCE (R103 to R106). -/
def row95 (h : Hints) (sub : BitVec 4) (bd : BitVec 63) : Option Instr :=
  if sub = 0#4 then
    do
      isAbsent (fD bd)
      isAbsent (fA bd)
      isAbsent (fB bd)
      isZero (fOff bd)
      let sc ← fenceScope (fOrd bd)
      some (.fence h sc)
  else none

/-- MAJ 0x96: WAITADDR (R103 to R106). -/
def row96 (h : Hints) (sub : BitVec 4) (bd : BitVec 63) : Option Instr :=
  if sub = 0#4 then
    do
      isAbsent (fD bd)
      let a ← dV (fA bd)
      let b ← dOV (fB bd)
      let off := (fOff bd)
      isZero (fOrd bd)
      some (.waitaddr h a off b)
  else none

/-- MAJ 0x97: SPTEST (R103 to R106). -/
def row97 (h : Hints) (sub : BitVec 4) (bd : BitVec 63) : Option Instr :=
  if sub = 0#4 then
    do
      let d ← dV (fD bd)
      let a ← dV (fA bd)
      isAbsent (fB bd)
      isAbsent (fC bd)
      isZero (fX8 bd)
      isZero (fM7 bd)
      some (.sptest h d a)
  else none

/-- MAJ 0x98: SPCAST_GEN, SPCAST_SP (R103 to R106). -/
def row98 (h : Hints) (sub : BitVec 4) (bd : BitVec 63) : Option Instr :=
  if sub = 0#4 then
    do
      let d ← dV (fD bd)
      let a ← dV (fA bd)
      isAbsent (fB bd)
      isAbsent (fC bd)
      isZero (fX8 bd)
      isZero (fM7 bd)
      some (.spcastGen h d a)
  else if sub = 1#4 then
    do
      let d ← dV (fD bd)
      let a ← dV (fA bd)
      isAbsent (fB bd)
      isAbsent (fC bd)
      isZero (fX8 bd)
      isZero (fM7 bd)
      some (.spcastSp h d a)
  else none

/-- MAJ 0x99: PREF (R103 to R106). -/
def row99 (h : Hints) (sub : BitVec 4) (bd : BitVec 63) : Option Instr :=
  do
    isZero (sub.extractLsb' 1 3)
    let l2 := sub.getLsbD 0
    isAbsent (fD bd)
    let a ← dV (fA bd)
    let b ← dOV (fB bd)
    let off := (fOff bd)
    isZero (fOrd bd)
    some (.pref h l2 a b off)

/-- MAJ 0x9a: CCTL_INV, CCTL_WB, CCTL_INVALL (R103 to R106). -/
def row9A (h : Hints) (sub : BitVec 4) (bd : BitVec 63) : Option Instr :=
  if sub = 0#4 then
    do
      isAbsent (fD bd)
      let a ← dV (fA bd)
      isAbsent (fB bd)
      let off := (fOff bd)
      isZero (fOrd bd)
      some (.cctlInv h a off)
  else if sub = 1#4 then
    do
      isAbsent (fD bd)
      let a ← dV (fA bd)
      isAbsent (fB bd)
      let off := (fOff bd)
      isZero (fOrd bd)
      some (.cctlWb h a off)
  else if sub = 2#4 then
    do
      isAbsent (fD bd)
      isAbsent (fA bd)
      isAbsent (fB bd)
      isZero (fOrd bd)
      some (.cctlInvall h)
  else none

/-- MAJ 0x9b: WCFLUSH (R103 to R106). -/
def row9B (h : Hints) (sub : BitVec 4) (bd : BitVec 63) : Option Instr :=
  if sub = 0#4 then
    do
      isAbsent (fD bd)
      isAbsent (fA bd)
      isAbsent (fB bd)
      isAbsent (fC bd)
      isZero (fX8 bd)
      isZero (fM7 bd)
      some (.wcflush h)
  else none

/-- MAJ 0x9c: SDROP (R103 to R106). -/
def row9C (h : Hints) (sub : BitVec 4) (bd : BitVec 63) : Option Instr :=
  if sub = 0#4 then
    do
      isAbsent (fD bd)
      isAbsent (fA bd)
      isZero ((fImm bd).extractLsb' 15 17)
      let count := ((fImm bd).extractLsb' 8 7)
      isZero ((fImm bd).extractLsb' 7 1)
      let first := ((fImm bd).extractLsb' 0 7)
      isZero (fM7 bd)
      some (.sdrop h first count)
  else none

/-- MAJ 0x9d: SWAKE (R103 to R106). -/
def row9D (h : Hints) (sub : BitVec 4) (bd : BitVec 63) : Option Instr :=
  if sub = 0#4 then
    do
      isAbsent (fD bd)
      isAbsent (fA bd)
      isZero ((fImm bd).extractLsb' 15 17)
      let count := ((fImm bd).extractLsb' 8 7)
      isZero ((fImm bd).extractLsb' 7 1)
      let first := ((fImm bd).extractLsb' 0 7)
      isZero (fM7 bd)
      some (.swake h first count)
  else none

/-- MAJ 0x9e: GWMAX (R103 to R106). -/
def row9E (h : Hints) (sub : BitVec 4) (bd : BitVec 63) : Option Instr :=
  if sub = 0#4 then
    do
      let d ← dV (fD bd)
      isAbsent (fA bd)
      isAbsent (fB bd)
      isAbsent (fC bd)
      isZero (fX8 bd)
      isZero (fM7 bd)
      some (.gwmax h d)
  else none

/-- MAJ 0xa0: TCOPY (R103 to R106). -/
def rowA0 (h : Hints) (sub : BitVec 4) (bd : BitVec 63) : Option Instr :=
  if sub = 0#4 then
    do
      let ch ← dCh (fD bd)
      let a ← dV (fA bd)
      isAbsent (fB bd)
      isAbsent (fC bd)
      isZero (fX8 bd)
      isZero (fM7 bd)
      some (.tcopy h ch a)
  else none

/-- MAJ 0xa1: TSTORE (R103 to R106). -/
def rowA1 (h : Hints) (sub : BitVec 4) (bd : BitVec 63) : Option Instr :=
  if sub = 0#4 then
    do
      let ch ← dCh (fD bd)
      let a ← dV (fA bd)
      isAbsent (fB bd)
      isAbsent (fC bd)
      isZero (fX8 bd)
      isZero (fM7 bd)
      some (.tstore h ch a)
  else none

/-- MAJ 0xa2: TCOPYS (R103 to R106). -/
def rowA2 (h : Hints) (sub : BitVec 4) (bd : BitVec 63) : Option Instr :=
  if sub = 0#4 then
    do
      let ch ← dCh (fD bd)
      let a ← dV (fA bd)
      isAbsent (fB bd)
      isAbsent (fC bd)
      isZero (fX8 bd)
      isZero (fM7 bd)
      some (.tcopys h ch a)
  else none

/-- MAJ 0xa3: CHPTR (R103 to R106). -/
def rowA3 (h : Hints) (sub : BitVec 4) (bd : BitVec 63) : Option Instr :=
  if sub = 0#4 then
    do
      let d ← dV (fD bd)
      let ch ← dCh (fA bd)
      let b ← dSrc (fB bd)
      isAbsent (fC bd)
      isZero (fX8 bd)
      isZero (fM7 bd)
      some (.chptr h d ch b)
  else none

/-- MAJ 0xa4: CHWAIT (R103 to R106). -/
def rowA4 (h : Hints) (sub : BitVec 4) (bd : BitVec 63) : Option Instr :=
  if sub = 0#4 then
    do
      isAbsent (fD bd)
      let ch ← dCh (fA bd)
      let b ← dV (fB bd)
      isAbsent (fC bd)
      isZero (fX8 bd)
      isZero (fM7 bd)
      some (.chwait h ch b)
  else none

/-- MAJ 0xa5: CHDRAIN (R103 to R106). -/
def rowA5 (h : Hints) (sub : BitVec 4) (bd : BitVec 63) : Option Instr :=
  if sub = 0#4 then
    do
      isAbsent (fD bd)
      let ch ← dCh (fA bd)
      isAbsent (fB bd)
      isAbsent (fC bd)
      isZero (fX8 bd)
      isZero (fM7 bd)
      some (.chdrain h ch)
  else none

/-- MAJ 0xaa: CHSTAT (R103 to R106). -/
def rowAA (h : Hints) (sub : BitVec 4) (bd : BitVec 63) : Option Instr :=
  if sub = 0#4 then
    do
      let d ← dV (fD bd)
      let ch ← dCh (fA bd)
      isAbsent (fB bd)
      isAbsent (fC bd)
      isZero (fX8 bd)
      isZero (fM7 bd)
      some (.chstat h d ch)
  else none

/-- MAJ 0xa6: RINGINIT (R103 to R106). -/
def rowA6 (h : Hints) (sub : BitVec 4) (bd : BitVec 63) : Option Instr :=
  if sub = 0#4 then
    do
      isAbsent (fD bd)
      let rg ← dRg (fA bd)
      let b ← dV (fB bd)
      let c ← dSrc (fC bd)
      isZero (fX8 bd)
      isZero (fM7 bd)
      some (.ringinit h rg b c)
  else none

/-- MAJ 0xa7: RINGACQ_PROD, RINGACQ_CONS (R103 to R106). -/
def rowA7 (h : Hints) (sub : BitVec 4) (bd : BitVec 63) : Option Instr :=
  if sub = 0#4 then
    do
      let d ← dV (fD bd)
      let rg ← dRg (fA bd)
      isAbsent (fB bd)
      isAbsent (fC bd)
      isZero (fX8 bd)
      isZero (fM7 bd)
      some (.ringacqProd h d rg)
  else if sub = 1#4 then
    do
      let d ← dV (fD bd)
      let rg ← dRg (fA bd)
      isAbsent (fB bd)
      isAbsent (fC bd)
      isZero (fX8 bd)
      isZero (fM7 bd)
      some (.ringacqCons h d rg)
  else none

/-- MAJ 0xa8: RINGREL_PROD, RINGREL_CONS (R103 to R106). -/
def rowA8 (h : Hints) (sub : BitVec 4) (bd : BitVec 63) : Option Instr :=
  if sub = 0#4 then
    do
      isAbsent (fD bd)
      let rg ← dRg (fA bd)
      isAbsent (fB bd)
      isAbsent (fC bd)
      isZero (fX8 bd)
      isZero (fM7 bd)
      some (.ringrelProd h rg)
  else if sub = 1#4 then
    do
      isAbsent (fD bd)
      let rg ← dRg (fA bd)
      isAbsent (fB bd)
      isAbsent (fC bd)
      isZero (fX8 bd)
      isZero (fM7 bd)
      some (.ringrelCons h rg)
  else none

/-- MAJ 0xa9: RINGWAIT_PROD, RINGWAIT_CONS (R103 to R106). -/
def rowA9 (h : Hints) (sub : BitVec 4) (bd : BitVec 63) : Option Instr :=
  if sub = 0#4 then
    do
      isAbsent (fD bd)
      let rg ← dRg (fA bd)
      let b ← dSrc (fB bd)
      isAbsent (fC bd)
      isZero (fX8 bd)
      isZero (fM7 bd)
      some (.ringwaitProd h rg b)
  else if sub = 1#4 then
    do
      isAbsent (fD bd)
      let rg ← dRg (fA bd)
      let b ← dSrc (fB bd)
      isAbsent (fC bd)
      isZero (fX8 bd)
      isZero (fM7 bd)
      some (.ringwaitCons h rg b)
  else none

/-- MAJ 0xb0: MMA (R103 to R106). -/
def rowB0 (h : Hints) (sub : BitVec 4) (bd : BitVec 63) : Option Instr :=
  do
    let kind ← MmaKind.ofCode sub
    let cv ← dCv (fD bd)
    let a ← dV (fA bd)
    let b ← dV (fB bd)
    let c ← dV (fC bd)
    isZero (fX8 bd)
    let k := ((fM7 bd).extractLsb' 3 4)
    isZero ((fM7 bd).extractLsb' 0 3)
    some (.mma h kind k cv a b c)

/-- MAJ 0xb1: MDECL (R103 to R106). -/
def rowB1 (h : Hints) (sub : BitVec 4) (bd : BitVec 63) : Option Instr :=
  if sub = 0#4 then
    do
      let cv ← dCv (fD bd)
      let a ← dSrc (fA bd)
      let b ← dSrc (fB bd)
      isAbsent (fC bd)
      isZero (fX8 bd)
      isZero (fM7 bd)
      some (.mdecl h cv a b)
  else none

/-- MAJ 0xb2: MWAIT (R103 to R106). -/
def rowB2 (h : Hints) (sub : BitVec 4) (bd : BitVec 63) : Option Instr :=
  if sub = 0#4 then
    do
      isAbsent (fD bd)
      let cv ← dCv (fA bd)
      isAbsent (fB bd)
      isAbsent (fC bd)
      isZero (fX8 bd)
      isZero (fM7 bd)
      some (.mwait h cv)
  else none

/-- MAJ 0xb3: MFENCE (R103 to R106). -/
def rowB3 (h : Hints) (sub : BitVec 4) (bd : BitVec 63) : Option Instr :=
  if sub = 0#4 then
    do
      isAbsent (fD bd)
      let cv ← dCv (fA bd)
      isAbsent (fB bd)
      isAbsent (fC bd)
      isZero (fX8 bd)
      isZero (fM7 bd)
      some (.mfence h cv)
  else none

/-- MAJ 0xb4: MZERO (R103 to R106). -/
def rowB4 (h : Hints) (sub : BitVec 4) (bd : BitVec 63) : Option Instr :=
  if sub = 0#4 then
    do
      isAbsent (fD bd)
      let a ← dV (fA bd)
      isAbsent (fB bd)
      isAbsent (fC bd)
      isZero (fX8 bd)
      isZero (fM7 bd)
      some (.mzero h a)
  else none

/-- MAJ 0xb5: MLOAD (R103 to R106). -/
def rowB5 (h : Hints) (sub : BitVec 4) (bd : BitVec 63) : Option Instr :=
  do
    let i32 ← mloadSub sub
    isAbsent (fD bd)
    let a ← dV (fA bd)
    let b ← dV (fB bd)
    isAbsent (fC bd)
    isZero (fX8 bd)
    isZero (fM7 bd)
    some (.mload h i32 a b)

/-- MAJ 0xb6: MSTORE (R103 to R106). -/
def rowB6 (h : Hints) (sub : BitVec 4) (bd : BitVec 63) : Option Instr :=
  do
    let cell ← MCell.ofCode sub
    isAbsent (fD bd)
    let a ← dV (fA bd)
    let b ← dV (fB bd)
    isAbsent (fC bd)
    isZero (fX8 bd)
    isZero (fM7 bd)
    some (.mstore h cell a b)

/-- MAJ 0xb7: MLIVE (R103 to R106). -/
def rowB7 (h : Hints) (sub : BitVec 4) (bd : BitVec 63) : Option Instr :=
  if sub = 0#4 then
    do
      isAbsent (fD bd)
      isAbsent (fA bd)
      isZero ((fImm bd).extractLsb' 8 24)
      let mask := ((fImm bd).extractLsb' 0 8)
      isZero (fM7 bd)
      some (.mlive h mask)
  else none

/-- MAJ 0xb8: MSTAT (R103 to R106). -/
def rowB8 (h : Hints) (sub : BitVec 4) (bd : BitVec 63) : Option Instr :=
  if sub = 0#4 then
    do
      let d ← dV (fD bd)
      isAbsent (fA bd)
      isAbsent (fB bd)
      isAbsent (fC bd)
      isZero (fX8 bd)
      isZero (fM7 bd)
      some (.mstat h d)
  else none

/-- MAJ 0xc0: BARINIT (R103 to R106). -/
def rowC0 (h : Hints) (sub : BitVec 4) (bd : BitVec 63) : Option Instr :=
  do
    let sc ← BScope.ofCode sub
    let bar ← dBar (fD bd)
    let a ← dSrc (fA bd)
    isAbsent (fB bd)
    isAbsent (fC bd)
    isZero (fX8 bd)
    isZero (fM7 bd)
    some (.barinit h sc bar a)

/-- MAJ 0xc1: BARARV (R103 to R106). -/
def rowC1 (h : Hints) (sub : BitVec 4) (bd : BitVec 63) : Option Instr :=
  if sub = 0#4 then
    do
      isAbsent (fD bd)
      let bar ← dBar (fA bd)
      isAbsent (fB bd)
      isAbsent (fC bd)
      isZero (fX8 bd)
      isZero (fM7 bd)
      some (.bararv h bar)
  else none

/-- MAJ 0xc2: BARWAIT (R103 to R106). -/
def rowC2 (h : Hints) (sub : BitVec 4) (bd : BitVec 63) : Option Instr :=
  if sub = 0#4 then
    do
      isAbsent (fD bd)
      let bar ← dBar (fA bd)
      isAbsent (fB bd)
      isAbsent (fC bd)
      isZero (fX8 bd)
      isZero (fM7 bd)
      some (.barwait h bar)
  else none

/-- MAJ 0xc3: BARSYNC (R103 to R106). -/
def rowC3 (h : Hints) (sub : BitVec 4) (bd : BitVec 63) : Option Instr :=
  if sub = 0#4 then
    do
      isAbsent (fD bd)
      let bar ← dBar (fA bd)
      isAbsent (fB bd)
      isAbsent (fC bd)
      isZero (fX8 bd)
      isZero (fM7 bd)
      some (.barsync h bar)
  else none

/-- MAJ 0xc4: BARSTAT (R103 to R106). -/
def rowC4 (h : Hints) (sub : BitVec 4) (bd : BitVec 63) : Option Instr :=
  if sub = 0#4 then
    do
      let d ← dV (fD bd)
      let bar ← dBar (fA bd)
      isAbsent (fB bd)
      isAbsent (fC bd)
      isZero (fX8 bd)
      isZero (fM7 bd)
      some (.barstat h d bar)
  else none

/-- MAJ 0xc5: BARSET (R103 to R106). -/
def rowC5 (h : Hints) (sub : BitVec 4) (bd : BitVec 63) : Option Instr :=
  if sub = 0#4 then
    do
      isAbsent (fD bd)
      let bar ← dBar (fA bd)
      let b ← dSrc (fB bd)
      isAbsent (fC bd)
      isZero (fX8 bd)
      isZero (fM7 bd)
      some (.barset h bar b)
  else none

/-- MAJ 0xc6: GBAR (R103 to R106). -/
def rowC6 (h : Hints) (sub : BitVec 4) (bd : BitVec 63) : Option Instr :=
  if sub = 0#4 then
    do
      isAbsent (fD bd)
      let gb ← dGb (fA bd)
      isAbsent (fB bd)
      isAbsent (fC bd)
      isZero (fX8 bd)
      isZero (fM7 bd)
      some (.gbar h gb)
  else none

/-- MAJ 0xd0: WPOP (R103 to R106). -/
def rowD0 (h : Hints) (sub : BitVec 4) (bd : BitVec 63) : Option Instr :=
  if sub = 0#4 then
    do
      let d ← dV (fD bd)
      isAbsent (fA bd)
      isAbsent (fB bd)
      isAbsent (fC bd)
      isZero (fX8 bd)
      isZero (fM7 bd)
      some (.wpop h d)
  else none

/-- MAJ 0xd1: WPUSH (R103 to R106). -/
def rowD1 (h : Hints) (sub : BitVec 4) (bd : BitVec 63) : Option Instr :=
  if sub = 0#4 then
    do
      isAbsent (fD bd)
      let a ← dV (fA bd)
      let b ← dOV (fB bd)
      isAbsent (fC bd)
      isZero (fX8 bd)
      isZero (fM7 bd)
      some (.wpush h a b)
  else none

/-- MAJ 0xd2: LAUNCH (R103 to R106). -/
def rowD2 (h : Hints) (sub : BitVec 4) (bd : BitVec 63) : Option Instr :=
  if sub = 0#4 then
    do
      isAbsent (fD bd)
      let a ← dV (fA bd)
      isAbsent (fB bd)
      isAbsent (fC bd)
      isZero (fX8 bd)
      isZero (fM7 bd)
      some (.launch h a)
  else none

/-- MAJ 0xd3: SIGNAL_SET, SIGNAL_ADD (R103 to R106). -/
def rowD3 (h : Hints) (sub : BitVec 4) (bd : BitVec 63) : Option Instr :=
  if sub = 0#4 then
    do
      isAbsent (fD bd)
      let a ← dV (fA bd)
      let b ← dSrc (fB bd)
      isAbsent (fC bd)
      isZero (fX8 bd)
      isZero (fM7 bd)
      some (.signalSet h a b)
  else if sub = 1#4 then
    do
      isAbsent (fD bd)
      let a ← dV (fA bd)
      let b ← dSrc (fB bd)
      isAbsent (fC bd)
      isZero (fX8 bd)
      isZero (fM7 bd)
      some (.signalAdd h a b)
  else none

/-- MAJ 0xd4: SIGWAIT (R103 to R106). -/
def rowD4 (h : Hints) (sub : BitVec 4) (bd : BitVec 63) : Option Instr :=
  if sub = 0#4 then
    do
      isAbsent (fD bd)
      let a ← dV (fA bd)
      let b ← dSrc (fB bd)
      isAbsent (fC bd)
      isZero (fX8 bd)
      isZero ((fM7 bd).extractLsb' 5 2)
      let cmp ← Cmp.ofCode ((fM7 bd).extractLsb' 2 3)
      isZero ((fM7 bd).extractLsb' 0 2)
      some (.sigwait h cmp a b)
  else none

/-- MAJ 0xd5: GSWAP (R103 to R106). -/
def rowD5 (h : Hints) (sub : BitVec 4) (bd : BitVec 63) : Option Instr :=
  if sub = 0#4 then
    do
      isAbsent (fD bd)
      let a ← dV (fA bd)
      let b ← dSrc (fB bd)
      isAbsent (fC bd)
      isZero (fX8 bd)
      isZero ((fM7 bd).extractLsb' 5 2)
      let cmp ← Cmp.ofCode ((fM7 bd).extractLsb' 2 3)
      isZero ((fM7 bd).extractLsb' 0 2)
      some (.gswap h cmp a b)
  else none

/-- MAJ 0xd6: QROOM (R103 to R106). -/
def rowD6 (h : Hints) (sub : BitVec 4) (bd : BitVec 63) : Option Instr :=
  if sub = 0#4 then
    do
      let d ← dV (fD bd)
      let a ← dV (fA bd)
      isAbsent (fB bd)
      isAbsent (fC bd)
      isZero (fX8 bd)
      isZero (fM7 bd)
      some (.qroom h d a)
  else none

/-- MAJ 0xe0: PAIR (R103 to R106). -/
def rowE0 (h : Hints) (sub : BitVec 4) (bd : BitVec 63) : Option Instr :=
  if sub = 0#4 then
    do
      isZero (bd.extractLsb' 62 1)
      let y ← slotOf (bd.extractLsb' 31 31)
      let x ← slotOf (bd.extractLsb' 0 31)
      some (.pair h x y)
  else none

/-- MAJ 0xe1: SYSR (R103 to R106). -/
def rowE1 (h : Hints) (sub : BitVec 4) (bd : BitVec 63) : Option Instr :=
  if sub = 0#4 then
    do
      let d ← dV (fD bd)
      isAbsent (fA bd)
      isZero ((fImm bd).extractLsb' 12 20)
      let n := ((fImm bd).extractLsb' 0 12)
      isZero (fM7 bd)
      some (.sysr h d n)
  else none

/-- MAJ 0xe2: SYSW (R103 to R106). -/
def rowE2 (h : Hints) (sub : BitVec 4) (bd : BitVec 63) : Option Instr :=
  if sub = 0#4 then
    do
      isAbsent (fD bd)
      let a ← dV (fA bd)
      isZero ((fImm bd).extractLsb' 12 20)
      let n := ((fImm bd).extractLsb' 0 12)
      isZero (fM7 bd)
      some (.sysw h a n)
  else none

/-- MAJ 0xe3: TRET (R103 to R106). -/
def rowE3 (h : Hints) (sub : BitVec 4) (bd : BitVec 63) : Option Instr :=
  if sub = 0#4 then
    do
      isAbsent (fD bd)
      isAbsent (fA bd)
      isAbsent (fB bd)
      isAbsent (fC bd)
      isZero (fX8 bd)
      isZero (fM7 bd)
      some (.tret h)
  else none

/-- MAJ 0xe4: TSWR (R103 to R106). -/
def rowE4 (h : Hints) (sub : BitVec 4) (bd : BitVec 63) : Option Instr :=
  if sub = 0#4 then
    do
      let d ← dV (fD bd)
      let a ← dV (fA bd)
      isAbsent (fB bd)
      isAbsent (fC bd)
      isZero (fX8 bd)
      isZero (fM7 bd)
      some (.tswr h d a)
  else none

/-- MAJ 0xe5: TSWW (R103 to R106). -/
def rowE5 (h : Hints) (sub : BitVec 4) (bd : BitVec 63) : Option Instr :=
  if sub = 0#4 then
    do
      isAbsent (fD bd)
      let a ← dV (fA bd)
      let b ← dV (fB bd)
      isAbsent (fC bd)
      isZero (fX8 bd)
      isZero (fM7 bd)
      some (.tsww h a b)
  else none

/-- MAJ 0xe6: OLOGR (R103 to R106). -/
def rowE6 (h : Hints) (sub : BitVec 4) (bd : BitVec 63) : Option Instr :=
  if sub = 0#4 then
    do
      let d ← dV (fD bd)
      let a ← dV (fA bd)
      let b ← dSrc (fB bd)
      isAbsent (fC bd)
      isZero (fX8 bd)
      isZero (fM7 bd)
      some (.ologr h d a b)
  else none

/-- MAJ 0xe7: XGET_PRED, XGET_STRUCT (R103 to R106). -/
def rowE7 (h : Hints) (sub : BitVec 4) (bd : BitVec 63) : Option Instr :=
  if sub = 0#4 then
    do
      let d ← dV (fD bd)
      isAbsent (fA bd)
      isAbsent (fB bd)
      isAbsent (fC bd)
      isZero (fX8 bd)
      isZero (fM7 bd)
      some (.xgetPred h d)
  else if sub = 1#4 then
    do
      let d ← dV (fD bd)
      let a ← dSReg (fA bd)
      isAbsent (fB bd)
      isAbsent (fC bd)
      isZero (fX8 bd)
      isZero (fM7 bd)
      some (.xgetStruct h d a)
  else none

/-- MAJ 0xe8: XSET_PRED, XSET_STRUCT (R103 to R106). -/
def rowE8 (h : Hints) (sub : BitVec 4) (bd : BitVec 63) : Option Instr :=
  if sub = 0#4 then
    do
      isAbsent (fD bd)
      isAbsent (fA bd)
      let b ← dV (fB bd)
      isAbsent (fC bd)
      isZero (fX8 bd)
      isZero (fM7 bd)
      some (.xsetPred h b)
  else if sub = 1#4 then
    do
      isAbsent (fD bd)
      let a ← dSReg (fA bd)
      let b ← dV (fB bd)
      isAbsent (fC bd)
      isZero (fX8 bd)
      isZero (fM7 bd)
      some (.xsetStruct h a b)
  else none

/-- MAJ 0xe9: PLACE_CORE, PLACE_DIE, PLACE_PORT (R103 to R106). -/
def rowE9 (h : Hints) (sub : BitVec 4) (bd : BitVec 63) : Option Instr :=
  if sub = 0#4 then
    do
      let d ← dV (fD bd)
      let a ← dSrc (fA bd)
      isAbsent (fB bd)
      isAbsent (fC bd)
      isZero (fX8 bd)
      isZero (fM7 bd)
      some (.placeCore h d a)
  else if sub = 1#4 then
    do
      let d ← dV (fD bd)
      let a ← dSrc (fA bd)
      isAbsent (fB bd)
      isAbsent (fC bd)
      isZero (fX8 bd)
      isZero (fM7 bd)
      some (.placeDie h d a)
  else if sub = 2#4 then
    do
      let d ← dV (fD bd)
      let a ← dSrc (fA bd)
      isAbsent (fB bd)
      isAbsent (fC bd)
      isZero (fX8 bd)
      isZero (fM7 bd)
      some (.placePort h d a)
  else none

/-- The row of a major opcode (R103); `none` for MAJ 0x00 and the unassigned ones (R96). -/
def decodeMajor (maj : BitVec 8) (sub : BitVec 4) (h : Hints) (bd : BitVec 63) : Option (Option Instr) :=
  match maj.toNat with
  | 0x01 => some (row01 h sub bd)
  | 0x02 => some (row02 h sub bd)
  | 0x03 => some (row03 h sub bd)
  | 0x04 => some (row04 h sub bd)
  | 0x05 => some (row05 h sub bd)
  | 0x06 => some (row06 h sub bd)
  | 0x07 => some (row07 h sub bd)
  | 0x08 => some (row08 h sub bd)
  | 0x09 => some (row09 h sub bd)
  | 0x0a => some (row0A h sub bd)
  | 0x0b => some (row0B h sub bd)
  | 0x0c => some (row0C h sub bd)
  | 0x0d => some (row0D h sub bd)
  | 0x0e => some (row0E h sub bd)
  | 0x0f => some (row0F h sub bd)
  | 0x20 => some (row20 h sub bd)
  | 0x21 => some (row21 h sub bd)
  | 0x22 => some (row22 h sub bd)
  | 0x23 => some (row23 h sub bd)
  | 0x24 => some (row24 h sub bd)
  | 0x25 => some (row25 h sub bd)
  | 0x26 => some (row26 h sub bd)
  | 0x27 => some (row27 h sub bd)
  | 0x30 => some (row30 h sub bd)
  | 0x31 => some (row31 h sub bd)
  | 0x32 => some (row32 h sub bd)
  | 0x33 => some (row33 h sub bd)
  | 0x34 => some (row34 h sub bd)
  | 0x35 => some (row35 h sub bd)
  | 0x36 => some (row36 h sub bd)
  | 0x37 => some (row37 h sub bd)
  | 0x38 => some (row38 h sub bd)
  | 0x39 => some (row39 h sub bd)
  | 0x3a => some (row3A h sub bd)
  | 0x3b => some (row3B h sub bd)
  | 0x3d => some (row3D h sub bd)
  | 0x3c => some (row3C h sub bd)
  | 0x43 => some (row43 h sub bd)
  | 0x44 => some (row44 h sub bd)
  | 0x45 => some (row45 h sub bd)
  | 0x3e => some (row3E h sub bd)
  | 0x3f => some (row3F h sub bd)
  | 0x40 => some (row40 h sub bd)
  | 0x41 => some (row41 h sub bd)
  | 0x42 => some (row42 h sub bd)
  | 0x46 => some (row46 h sub bd)
  | 0x47 => some (row47 h sub bd)
  | 0x48 => some (row48 h sub bd)
  | 0x49 => some (row49 h sub bd)
  | 0x4a => some (row4A h sub bd)
  | 0x4b => some (row4B h sub bd)
  | 0x4c => some (row4C h sub bd)
  | 0x4d => some (row4D h sub bd)
  | 0x4e => some (row4E h sub bd)
  | 0x4f => some (row4F h sub bd)
  | 0x50 => some (row50 h sub bd)
  | 0x51 => some (row51 h sub bd)
  | 0x60 => some (row60 h sub bd)
  | 0x61 => some (row61 h sub bd)
  | 0x62 => some (row62 h sub bd)
  | 0x71 => some (row71 h sub bd)
  | 0x63 => some (row63 h sub bd)
  | 0x64 => some (row64 h sub bd)
  | 0x65 => some (row65 h sub bd)
  | 0x66 => some (row66 h sub bd)
  | 0x67 => some (row67 h sub bd)
  | 0x68 => some (row68 h sub bd)
  | 0x6b => some (row6B h sub bd)
  | 0x69 => some (row69 h sub bd)
  | 0x6a => some (row6A h sub bd)
  | 0x6c => some (row6C h sub bd)
  | 0x6d => some (row6D h sub bd)
  | 0x6e => some (row6E h sub bd)
  | 0x6f => some (row6F h sub bd)
  | 0x70 => some (row70 h sub bd)
  | 0x72 => some (row72 h sub bd)
  | 0x73 => some (row73 h sub bd)
  | 0x74 => some (row74 h sub bd)
  | 0x75 => some (row75 h sub bd)
  | 0x76 => some (row76 h sub bd)
  | 0x77 => some (row77 h sub bd)
  | 0x78 => some (row78 h sub bd)
  | 0x79 => some (row79 h sub bd)
  | 0x7a => some (row7A h sub bd)
  | 0x7b => some (row7B h sub bd)
  | 0x7c => some (row7C h sub bd)
  | 0x7d => some (row7D h sub bd)
  | 0x80 => some (row80 h sub bd)
  | 0x81 => some (row81 h sub bd)
  | 0x82 => some (row82 h sub bd)
  | 0x83 => some (row83 h sub bd)
  | 0x84 => some (row84 h sub bd)
  | 0x85 => some (row85 h sub bd)
  | 0x86 => some (row86 h sub bd)
  | 0x87 => some (row87 h sub bd)
  | 0x88 => some (row88 h sub bd)
  | 0x89 => some (row89 h sub bd)
  | 0x8a => some (row8A h sub bd)
  | 0x90 => some (row90 h sub bd)
  | 0x91 => some (row91 h sub bd)
  | 0x92 => some (row92 h sub bd)
  | 0x93 => some (row93 h sub bd)
  | 0x94 => some (row94 h sub bd)
  | 0x95 => some (row95 h sub bd)
  | 0x96 => some (row96 h sub bd)
  | 0x97 => some (row97 h sub bd)
  | 0x98 => some (row98 h sub bd)
  | 0x99 => some (row99 h sub bd)
  | 0x9a => some (row9A h sub bd)
  | 0x9b => some (row9B h sub bd)
  | 0x9c => some (row9C h sub bd)
  | 0x9d => some (row9D h sub bd)
  | 0x9e => some (row9E h sub bd)
  | 0xa0 => some (rowA0 h sub bd)
  | 0xa1 => some (rowA1 h sub bd)
  | 0xa2 => some (rowA2 h sub bd)
  | 0xa3 => some (rowA3 h sub bd)
  | 0xa4 => some (rowA4 h sub bd)
  | 0xa5 => some (rowA5 h sub bd)
  | 0xaa => some (rowAA h sub bd)
  | 0xa6 => some (rowA6 h sub bd)
  | 0xa7 => some (rowA7 h sub bd)
  | 0xa8 => some (rowA8 h sub bd)
  | 0xa9 => some (rowA9 h sub bd)
  | 0xb0 => some (rowB0 h sub bd)
  | 0xb1 => some (rowB1 h sub bd)
  | 0xb2 => some (rowB2 h sub bd)
  | 0xb3 => some (rowB3 h sub bd)
  | 0xb4 => some (rowB4 h sub bd)
  | 0xb5 => some (rowB5 h sub bd)
  | 0xb6 => some (rowB6 h sub bd)
  | 0xb7 => some (rowB7 h sub bd)
  | 0xb8 => some (rowB8 h sub bd)
  | 0xc0 => some (rowC0 h sub bd)
  | 0xc1 => some (rowC1 h sub bd)
  | 0xc2 => some (rowC2 h sub bd)
  | 0xc3 => some (rowC3 h sub bd)
  | 0xc4 => some (rowC4 h sub bd)
  | 0xc5 => some (rowC5 h sub bd)
  | 0xc6 => some (rowC6 h sub bd)
  | 0xd0 => some (rowD0 h sub bd)
  | 0xd1 => some (rowD1 h sub bd)
  | 0xd2 => some (rowD2 h sub bd)
  | 0xd3 => some (rowD3 h sub bd)
  | 0xd4 => some (rowD4 h sub bd)
  | 0xd5 => some (rowD5 h sub bd)
  | 0xd6 => some (rowD6 h sub bd)
  | 0xe0 => some (rowE0 h sub bd)
  | 0xe1 => some (rowE1 h sub bd)
  | 0xe2 => some (rowE2 h sub bd)
  | 0xe3 => some (rowE3 h sub bd)
  | 0xe4 => some (rowE4 h sub bd)
  | 0xe5 => some (rowE5 h sub bd)
  | 0xe6 => some (rowE6 h sub bd)
  | 0xe7 => some (rowE7 h sub bd)
  | 0xe8 => some (rowE8 h sub bd)
  | 0xe9 => some (rowE9 h sub bd)
  | _ => none

/-- What the 96-bit word is (R96). -/
def decode (w : BitVec 96) : Decoded :=
  if w.extractLsb' 94 2 = 0#2 then
    match decodeMajor (w.extractLsb' 0 8) (w.extractLsb' 8 4) (hintsOf w) (w.extractLsb' 17 63) with
    | none => .error .unassignedMajor
    | some none => .error .fields
    | some (some i) => if i.wf then .ok i else .error .illFormed
  else .error .reservedBits

/-- The word whose bytes these are, the first at the lowest address (R6, R80). -/
def wordOfBytes (bs : List Byte) : Nat := bs.foldr (fun b acc => b.toNat + 256 * acc) 0

/-- The first n bytes of a number, least significant first (R6). -/
def bytesOfNat : Nat → Nat → List Byte
  | 0, _ => []
  | n + 1, x => BitVec.ofNat 8 x :: bytesOfNat n (x / 256)

/-- Decode twelve bytes of memory (R80). -/
def decodeBytes (bs : List Byte) : Decoded := decode (BitVec.ofNat 96 (wordOfBytes bs))

/-- The instruction the decoder reads from a word whose bits are `w`, numbered as the opcode table numbers them: parcel 0
holds bits [31:0] and is stored first (R80), so the bit numbers are those of the word. -/
def decodeTableWord (nbits w : Nat) : Option Instr :=
  match decodeBytes (bytesOfNat 12 (w % 2 ^ nbits)) with
  | .ok i => some i
  | .error _ => none

/-! ### The encoder -/

/-- The word of an instruction (R84, R85, R103 to R106); a step of another agent has no word and gives the word of all
zeros, which is no instruction (R96). -/
def encode : Instr → BitVec 96
  | .nop h => packWord h (bodyR 0#7 0#8 absent absent absent absent) 0#4 0x01#8
  | .bra h off => packWord h (bodyI 0#7 (off) absent absent) 0#4 0x02#8
  | .brx h a off => packWord h (bodyI 0#7 (off) (eV a) absent) 0#4 0x03#8
  | .call h d off => packWord h (bodyI 0#7 (off) absent (eV d)) 0#4 0x04#8
  | .callx h d a off => packWord h (bodyI 0#7 (off) (eV a) (eV d)) 0#4 0x05#8
  | .ret h a => packWord h (bodyI 0#7 0#32 (eV a) absent) 0#4 0x06#8
  | .exitThread h => packWord h (bodyR 0#7 0#8 absent absent absent absent) 0#4 0x07#8
  | .jenrol h jb => packWord h (bodyR 0#7 0#8 absent absent (eJb jb) absent) 0#4 0x08#8
  | .jwait h jb => packWord h (bodyR 0#7 0#8 absent absent (eJb jb) absent) 0#4 0x09#8
  | .jdrop h jb => packWord h (bodyR 0#7 0#8 absent absent (eJb jb) absent) 0#4 0x0a#8
  | .jstat h d jb => packWord h (bodyR 0#7 0#8 absent absent (eJb jb) (eV d)) 0#4 0x0b#8
  | .sleep h a imm => packWord h (bodyI 0#7 (imm) (eOV a) absent) 0#4 0x0c#8
  | .bkptN h imm => packWord h (bodyI 0#7 (imm) absent absent) 0#4 0x0d#8
  | .trapN h imm => packWord h (bodyI 0#7 (imm) absent absent) 0#4 0x0e#8
  | .enter h imm => packWord h (bodyI 0#7 (imm) absent absent) 0#4 0x0f#8
  | .shfl h op vp d a b c => packWord h (bodyR 0#7 (0#3 ++ vpBits vp) (eOV c) (eSrc b) (eSrc a) (eV d)) (op.code : BitVec 4) 0x20#8
  | .vote h op d a c => packWord h (bodyR 0#7 0#8 (eOV c) absent (eP a) (eP d)) (op.code : BitVec 4) 0x21#8
  | .ballot h d a c => packWord h (bodyR 0#7 0#8 (eOV c) absent (eP a) (eV d)) 0#4 0x22#8
  | .matchLanes h op f32 d a c => packWord h (bodyR 0#7 (bif f32 then 0x40#8 else 0#8) (eOV c) absent (eV a) (eV d)) (op.code : BitVec 4) 0x23#8
  | .redux h op ty d a c => packWord h (bodyR 0#7 (ty.code ++ 0#5) (eOV c) absent (eV a) (eV d)) (op.code : BitVec 4) 0x24#8
  | .scan h op ty exc d a c => packWord h (bodyR (bit exc ++ 0#6) (ty.code ++ 0#5) (eOV c) absent (eV a) (eV d)) (op.code : BitVec 4) 0x25#8
  | .elect h d c => packWord h (bodyR 0#7 0#8 (eOV c) absent absent (eP d)) 0#4 0x26#8
  | .present h d c => packWord h (bodyR 0#7 0#8 (eOV c) absent absent (eV d)) 0#4 0x27#8
  | .iadd h u sat d a b => packWord h (bodyR (bit u ++ bit sat ++ 0#5) 0#8 absent (eSrc b) (eSrc a) (eV d)) 0#4 0x30#8
  | .iaddImm h u sat d a imm => packWord h (bodyI (bit u ++ bit sat ++ 0#5) (imm) (eSrc a) (eV d)) 8#4 0x30#8
  | .isub h u sat d a b => packWord h (bodyR (bit u ++ bit sat ++ 0#5) 0#8 absent (eSrc b) (eSrc a) (eV d)) 0#4 0x31#8
  | .isubImm h u sat d a imm => packWord h (bodyI (bit u ++ bit sat ++ 0#5) (imm) (eSrc a) (eV d)) 8#4 0x31#8
  | .imul h u d a b => packWord h (bodyR (bit u ++ 0#6) 0#8 absent (eSrc b) (eSrc a) (eV d)) 0#4 0x32#8
  | .imulImm h u d a imm => packWord h (bodyI (bit u ++ 0#6) (imm) (eSrc a) (eV d)) 8#4 0x32#8
  | .imulh h u d a b => packWord h (bodyR (bit u ++ 0#6) 0#8 absent (eSrc b) (eSrc a) (eV d)) 0#4 0x33#8
  | .imulhImm h u d a imm => packWord h (bodyI (bit u ++ 0#6) (imm) (eSrc a) (eV d)) 8#4 0x33#8
  | .imad h u sat d a b c => packWord h (bodyR (bit u ++ bit sat ++ 0#5) 0#8 (eSrc c) (eSrc b) (eV a) (eV d)) 0#4 0x34#8
  | .imin h u d a b => packWord h (bodyR (bit u ++ 0#6) 0#8 absent (eSrc b) (eSrc a) (eV d)) 0#4 0x35#8
  | .iminImm h u d a imm => packWord h (bodyI (bit u ++ 0#6) (imm) (eSrc a) (eV d)) 8#4 0x35#8
  | .imax h u d a b => packWord h (bodyR (bit u ++ 0#6) 0#8 absent (eSrc b) (eSrc a) (eV d)) 0#4 0x36#8
  | .imaxImm h u d a imm => packWord h (bodyI (bit u ++ 0#6) (imm) (eSrc a) (eV d)) 8#4 0x36#8
  | .iabs h sat d a => packWord h (bodyR (0#1 ++ bit sat ++ 0#5) 0#8 absent absent (eV a) (eV d)) 0#4 0x37#8
  | .ineg h sat d a => packWord h (bodyR (0#1 ++ bit sat ++ 0#5) 0#8 absent absent (eV a) (eV d)) 0#4 0x38#8
  | .andW h d a b => packWord h (bodyR 0#7 0#8 absent (eSrc b) (eSrc a) (eV d)) 0#4 0x39#8
  | .andWImm h d a imm => packWord h (bodyI 0#7 (imm) (eSrc a) (eV d)) 8#4 0x39#8
  | .orW h d a b => packWord h (bodyR 0#7 0#8 absent (eSrc b) (eSrc a) (eV d)) 0#4 0x3a#8
  | .orWImm h d a imm => packWord h (bodyI 0#7 (imm) (eSrc a) (eV d)) 8#4 0x3a#8
  | .xorW h d a b => packWord h (bodyR 0#7 0#8 absent (eSrc b) (eSrc a) (eV d)) 0#4 0x3b#8
  | .xorWImm h d a imm => packWord h (bodyI 0#7 (imm) (eSrc a) (eV d)) 8#4 0x3b#8
  | .andnW h d a b => packWord h (bodyR 0#7 0#8 absent (eSrc b) (eSrc a) (eV d)) 0#4 0x3d#8
  | .andnWImm h d a imm => packWord h (bodyI 0#7 (imm) (eSrc a) (eV d)) 8#4 0x3d#8
  | .notW h d a => packWord h (bodyR 0#7 0#8 absent absent (eV a) (eV d)) 0#4 0x3c#8
  | .popc h d a => packWord h (bodyR 0#7 0#8 absent absent (eV a) (eV d)) 0#4 0x43#8
  | .clz h d a => packWord h (bodyR 0#7 0#8 absent absent (eV a) (eV d)) 0#4 0x44#8
  | .brev h d a => packWord h (bodyR 0#7 0#8 absent absent (eV a) (eV d)) 0#4 0x45#8
  | .shl h d a b => packWord h (bodyR 0#7 0#8 absent (eSrc b) (eSrc a) (eV d)) 0#4 0x3e#8
  | .shlImm h d a imm => packWord h (bodyI 0#7 (imm) (eSrc a) (eV d)) 8#4 0x3e#8
  | .shr h d a b => packWord h (bodyR 0#7 0#8 absent (eSrc b) (eSrc a) (eV d)) 0#4 0x3f#8
  | .shrImm h d a imm => packWord h (bodyI 0#7 (imm) (eSrc a) (eV d)) 8#4 0x3f#8
  | .sar h d a b => packWord h (bodyR 0#7 0#8 absent (eSrc b) (eSrc a) (eV d)) 0#4 0x40#8
  | .sarImm h d a imm => packWord h (bodyI 0#7 (imm) (eSrc a) (eV d)) 8#4 0x40#8
  | .rot h d a b => packWord h (bodyR 0#7 0#8 absent (eSrc b) (eSrc a) (eV d)) 0#4 0x41#8
  | .rotImm h d a imm => packWord h (bodyI 0#7 (imm) (eSrc a) (eV d)) 8#4 0x41#8
  | .funnel h right d a b c => packWord h (bodyR 0#7 0#8 (eSrc c) (eV b) (eV a) (eV d)) (0#3 ++ bit right) 0x42#8
  | .bfe h u d a b => packWord h (bodyR (bit u ++ 0#6) 0#8 absent (eV b) (eV a) (eV d)) 0#4 0x46#8
  | .bfeImm h u d a imm => packWord h (bodyI (bit u ++ 0#6) (imm) (eV a) (eV d)) 8#4 0x46#8
  | .bfi h d a b c => packWord h (bodyR 0#7 0#8 (eSrc c) (eV b) (eV a) (eV d)) 0#4 0x47#8
  | .perm h d a b c => packWord h (bodyR 0#7 0#8 (eV c) (eV b) (eV a) (eV d)) 0#4 0x48#8
  | .sel h d a b c => packWord h (bodyR 0#7 0#8 (eP c) (eSrc b) (eSrc a) (eV d)) 0#4 0x49#8
  | .iset h u cmp d a b => packWord h (bodyR (bit u ++ 0#1 ++ cmp.code ++ 0#2) 0#8 absent (eSrc b) (eV a) (eVP d)) 0#4 0x4a#8
  | .isetImm h u cmp d a imm => packWord h (bodyI (bit u ++ 0#1 ++ cmp.code ++ 0#2) (imm) (eV a) (eVP d)) 8#4 0x4a#8
  | .plop h lut d a b c => packWord h (bodyR 0#7 (lut) (eP c) (eP b) (eP a) (eP d)) 0#4 0x4b#8
  | .mov h d a => packWord h (bodyR 0#7 0#8 absent absent (eSVP a) (eVP d)) 0#4 0x4c#8
  | .movi h d imm => packWord h (bodyI 0#7 (imm) absent (eV d)) 0#4 0x4d#8
  | .lea h u sh d a b => packWord h (bodyR (bit u ++ 0#6) (0#5 ++ sh) absent (eV b) (eV a) (eV d)) 0#4 0x4e#8
  | .iadd64 h d a b => packWord h (bodyR 0#7 0#8 absent (eV b) (eV a) (eV d)) 0#4 0x4f#8
  | .iadd64Imm h d a imm => packWord h (bodyI 0#7 (imm) (eV a) (eV d)) 8#4 0x4f#8
  | .idiv h u rem d a b => packWord h (bodyR (bit u ++ 0#6) 0#8 absent (eV b) (eV a) (eV d)) (0#3 ++ bit rem) 0x50#8
  | .dot4 h sat ua ub d a b c => packWord h (bodyR (0#1 ++ bit sat ++ 0#5) (0#6 ++ bit ua ++ bit ub) (eV c) (eV b) (eV a) (eV d)) 0#4 0x51#8
  | .fadd h rm ftz d a b => packWord h (bodyR (rm.code ++ bit ftz ++ 0#4) 0#8 absent (eSrc b) (eSrc a) (eV d)) 0#4 0x60#8
  | .faddImm h rm ftz d a imm => packWord h (bodyI (rm.code ++ bit ftz ++ 0#4) (imm) (eSrc a) (eV d)) 8#4 0x60#8
  | .fsub h rm ftz d a b => packWord h (bodyR (rm.code ++ bit ftz ++ 0#4) 0#8 absent (eSrc b) (eSrc a) (eV d)) 0#4 0x61#8
  | .fsubImm h rm ftz d a imm => packWord h (bodyI (rm.code ++ bit ftz ++ 0#4) (imm) (eSrc a) (eV d)) 8#4 0x61#8
  | .fmul h rm ftz d a b => packWord h (bodyR (rm.code ++ bit ftz ++ 0#4) 0#8 absent (eSrc b) (eSrc a) (eV d)) 0#4 0x62#8
  | .fmulImm h rm ftz d a imm => packWord h (bodyI (rm.code ++ bit ftz ++ 0#4) (imm) (eSrc a) (eV d)) 8#4 0x62#8
  | .fdiv h rm ftz d a b => packWord h (bodyR (rm.code ++ bit ftz ++ 0#4) 0#8 absent (eSrc b) (eSrc a) (eV d)) 0#4 0x71#8
  | .fdivImm h rm ftz d a imm => packWord h (bodyI (rm.code ++ bit ftz ++ 0#4) (imm) (eSrc a) (eV d)) 8#4 0x71#8
  | .ffma h rm ftz d a b c => packWord h (bodyR (rm.code ++ bit ftz ++ 0#4) 0#8 (eSrc c) (eSrc b) (eV a) (eV d)) 0#4 0x63#8
  | .fmin h ftz d a b => packWord h (bodyR (0#2 ++ bit ftz ++ 0#4) 0#8 absent (eSrc b) (eSrc a) (eV d)) 0#4 0x64#8
  | .fminImm h ftz d a imm => packWord h (bodyI (0#2 ++ bit ftz ++ 0#4) (imm) (eSrc a) (eV d)) 8#4 0x64#8
  | .fmax h ftz d a b => packWord h (bodyR (0#2 ++ bit ftz ++ 0#4) 0#8 absent (eSrc b) (eSrc a) (eV d)) 0#4 0x65#8
  | .fmaxImm h ftz d a imm => packWord h (bodyI (0#2 ++ bit ftz ++ 0#4) (imm) (eSrc a) (eV d)) 8#4 0x65#8
  | .fset h ftz fn d a b => packWord h (bodyR (0#2 ++ bit ftz ++ fn.code) 0#8 absent (eSrc b) (eV a) (eVP d)) 0#4 0x66#8
  | .fsetImm h ftz fn d a imm => packWord h (bodyI (0#2 ++ bit ftz ++ fn.code) (imm) (eV a) (eVP d)) 8#4 0x66#8
  | .fclass h d a => packWord h (bodyR 0#7 0#8 absent absent (eV a) (eV d)) 0#4 0x67#8
  | .frnd h rm ftz d a => packWord h (bodyR (rm.code ++ bit ftz ++ 0#4) 0#8 absent absent (eV a) (eV d)) 0#4 0x68#8
  | .fsqrt h rm ftz d a => packWord h (bodyR (rm.code ++ bit ftz ++ 0#4) 0#8 absent absent (eV a) (eV d)) 0#4 0x6b#8
  | .frcp h ftz d a => packWord h (bodyR (0#2 ++ bit ftz ++ 0#4) 0#8 absent absent (eV a) (eV d)) 0#4 0x69#8
  | .frsq h ftz d a => packWord h (bodyR (0#2 ++ bit ftz ++ 0#4) 0#8 absent absent (eV a) (eV d)) 0#4 0x6a#8
  | .fex2 h ftz d a => packWord h (bodyR (0#2 ++ bit ftz ++ 0#4) 0#8 absent absent (eV a) (eV d)) 0#4 0x6c#8
  | .flg2 h ftz d a => packWord h (bodyR (0#2 ++ bit ftz ++ 0#4) 0#8 absent absent (eV a) (eV d)) 0#4 0x6d#8
  | .fsin h ftz d a => packWord h (bodyR (0#2 ++ bit ftz ++ 0#4) 0#8 absent absent (eV a) (eV d)) 0#4 0x6e#8
  | .fcos h ftz d a => packWord h (bodyR (0#2 ++ bit ftz ++ 0#4) 0#8 absent absent (eV a) (eV d)) 0#4 0x6f#8
  | .ftanh h ftz d a => packWord h (bodyR (0#2 ++ bit ftz ++ 0#4) 0#8 absent absent (eV a) (eV d)) 0#4 0x70#8
  | .hadd2 h f rm ftz d a b => packWord h (bodyR (rm.code ++ bit ftz ++ 0#4) 0#8 absent (eSrc b) (eSrc a) (eV d)) (0#1 ++ 0#2 ++ f.code) 0x72#8
  | .hadd2Imm h f rm ftz d a imm => packWord h (bodyI (rm.code ++ bit ftz ++ 0#4) (imm) (eSrc a) (eV d)) (1#1 ++ 0#2 ++ f.code) 0x72#8
  | .hmul2 h f rm ftz d a b => packWord h (bodyR (rm.code ++ bit ftz ++ 0#4) 0#8 absent (eSrc b) (eSrc a) (eV d)) (0#1 ++ 0#2 ++ f.code) 0x73#8
  | .hmul2Imm h f rm ftz d a imm => packWord h (bodyI (rm.code ++ bit ftz ++ 0#4) (imm) (eSrc a) (eV d)) (1#1 ++ 0#2 ++ f.code) 0x73#8
  | .hfma2 h f rm ftz d a b c => packWord h (bodyR (rm.code ++ bit ftz ++ 0#4) 0#8 (eSrc c) (eSrc b) (eV a) (eV d)) (0#1 ++ 0#2 ++ f.code) 0x74#8
  | .hmnx2 h f max ftz d a b => packWord h (bodyR (0#2 ++ bit ftz ++ 0#4) 0#8 absent (eSrc b) (eSrc a) (eV d)) (0#1 ++ 0#1 ++ bit max ++ f.code) 0x75#8
  | .hmnx2Imm h f max ftz d a imm => packWord h (bodyI (0#2 ++ bit ftz ++ 0#4) (imm) (eSrc a) (eV d)) (1#1 ++ 0#1 ++ bit max ++ f.code) 0x75#8
  | .f2i h rm ft it d a => packWord h (bodyR (rm.code ++ 0#5) (ft.code ++ 0#3 ++ it.code) absent absent (eV a) (eV d)) 0#4 0x76#8
  | .i2f h rm ft it d a => packWord h (bodyR (rm.code ++ 0#5) (ft.code ++ 0#3 ++ it.code) absent absent (eV a) (eV d)) 0#4 0x77#8
  | .f2f h rm ftz fd fs d a => packWord h (bodyR (rm.code ++ bit ftz ++ 0#4) (fd.code ++ fs.code ++ 0#4) absent absent (eV a) (eV d)) 0#4 0x78#8
  | .qcvt h rm sf d a b => packWord h (bodyR (rm.code ++ 0#5) (0#2 ++ sf) absent (eP b) (eV a) (eV d)) 0#4 0x79#8
  | .dqcvt h sf d a => packWord h (bodyR 0#7 (0#2 ++ sf) absent absent (eV a) (eV d)) 0#4 0x7a#8
  | .qpack h sf d a b => packWord h (bodyR 0#7 (0#2 ++ sf) absent (eV b) (eV a) (eV d)) 0#4 0x7b#8
  | .fdot2 h rm ftz d a b c => packWord h (bodyR (rm.code ++ bit ftz ++ 0#4) 0#8 (eV c) (eV b) (eV a) (eV d)) 0#4 0x7c#8
  | .fscale h rm ftz d a b => packWord h (bodyR (rm.code ++ bit ftz ++ 0#4) 0#8 absent (eSrc b) (eV a) (eV d)) 0#4 0x7d#8
  | .fscaleImm h rm ftz d a imm => packWord h (bodyI (rm.code ++ bit ftz ++ 0#4) (imm) (eV a) (eV d)) 8#4 0x7d#8
  | .sadd h d a b => packWord h (bodyR 0#7 0#8 absent (eV b) (eV a) (eV d)) 0#4 0x80#8
  | .ssub h d a b => packWord h (bodyR 0#7 0#8 absent (eV b) (eV a) (eV d)) 0#4 0x81#8
  | .smul h d a b => packWord h (bodyR 0#7 0#8 absent (eV b) (eV a) (eV d)) 0#4 0x82#8
  | .sdiv h d a b => packWord h (bodyR 0#7 0#8 absent (eV b) (eV a) (eV d)) 0#4 0x83#8
  | .ssq h d a => packWord h (bodyR 0#7 0#8 absent absent (eV a) (eV d)) 0#4 0x84#8
  | .sexp h d a => packWord h (bodyR 0#7 0#8 absent absent (eV a) (eV d)) 0#4 0x85#8
  | .sln h d a => packWord h (bodyR 0#7 0#8 absent absent (eV a) (eV d)) 0#4 0x86#8
  | .scmp h cmp d a b => packWord h (bodyR (0#2 ++ cmp.code ++ 0#2) 0#8 absent (eV b) (eV a) (eVP d)) 0#4 0x87#8
  | .sclass h d a => packWord h (bodyR 0#7 0#8 absent absent (eV a) (eV d)) 0#4 0x88#8
  | .scvtSliF32 h d a => packWord h (bodyR 0#7 0#8 absent absent (eV a) (eV d)) 0#4 0x89#8
  | .scvtF32Sli h d a => packWord h (bodyR 0#7 0#8 absent absent (eV a) (eV d)) 1#4 0x89#8
  | .srecip h d a => packWord h (bodyR 0#7 0#8 absent absent (eV a) (eV d)) 0#4 0x8a#8
  | .ld h sz ord d a b off => packWord h (bodyM (ordBits ord) (off) (eOV b) (eV a) (eV d)) (0#1 ++ sz.code) 0x90#8
  | .ldSp h sz ordCore d a b off => packWord h (bodyM (0#2 ++ bit ordCore) (off) (eOV b) (eV a) (eV d)) (1#1 ++ sz.code) 0x90#8
  | .st h sz ord d a b off => packWord h (bodyM (ordBits ord) (off) (eOV b) (eV a) (eV d)) (0#1 ++ sz.code) 0x91#8
  | .stSp h sz ordCore d a b off => packWord h (bodyM (0#2 ++ bit ordCore) (off) (eOV b) (eV a) (eV d)) (1#1 ++ sz.code) 0x91#8
  | .atom h op ty ord sc d a off b => packWord h (bodyM (sc.code) (op.code ++ ty.code ++ 0#1 ++ off) (eV b) (eV a) (eV d)) (ord.code ++ 0#2) 0x92#8
  | .cas h ty ord sc d a off b => packWord h (bodyM (sc.code) (0#4 ++ ty.code ++ 0#1 ++ off) (eV b) (eV a) (eV d)) (ord.code ++ 0#2) 0x93#8
  | .red h op ty ord sc a off b => packWord h (bodyM (sc.code) (op.code ++ ty.code ++ 0#1 ++ off) (eV b) (eV a) absent) (ord.code ++ 0#2) 0x94#8
  | .fence h sc => packWord h (bodyM (ordBits (some sc)) 0#24 absent absent absent) 0#4 0x95#8
  | .waitaddr h a off b => packWord h (bodyM 0#3 (off) (eOV b) (eV a) absent) 0#4 0x96#8
  | .sptest h d a => packWord h (bodyR 0#7 0#8 absent absent (eV a) (eV d)) 0#4 0x97#8
  | .spcastGen h d a => packWord h (bodyR 0#7 0#8 absent absent (eV a) (eV d)) 0#4 0x98#8
  | .spcastSp h d a => packWord h (bodyR 0#7 0#8 absent absent (eV a) (eV d)) 1#4 0x98#8
  | .pref h l2 a b off => packWord h (bodyM 0#3 (off) (eOV b) (eV a) absent) (0#3 ++ bit l2) 0x99#8
  | .cctlInv h a off => packWord h (bodyM 0#3 (off) absent (eV a) absent) 0#4 0x9a#8
  | .cctlWb h a off => packWord h (bodyM 0#3 (off) absent (eV a) absent) 1#4 0x9a#8
  | .cctlInvall h => packWord h (bodyM 0#3 0#24 absent absent absent) 2#4 0x9a#8
  | .wcflush h => packWord h (bodyR 0#7 0#8 absent absent absent absent) 0#4 0x9b#8
  | .sdrop h first count => packWord h (bodyI 0#7 (0#17 ++ count ++ 0#1 ++ first) absent absent) 0#4 0x9c#8
  | .swake h first count => packWord h (bodyI 0#7 (0#17 ++ count ++ 0#1 ++ first) absent absent) 0#4 0x9d#8
  | .gwmax h d => packWord h (bodyR 0#7 0#8 absent absent absent (eV d)) 0#4 0x9e#8
  | .tcopy h ch a => packWord h (bodyR 0#7 0#8 absent absent (eV a) (eCh ch)) 0#4 0xa0#8
  | .tstore h ch a => packWord h (bodyR 0#7 0#8 absent absent (eV a) (eCh ch)) 0#4 0xa1#8
  | .tcopys h ch a => packWord h (bodyR 0#7 0#8 absent absent (eV a) (eCh ch)) 0#4 0xa2#8
  | .chptr h d ch b => packWord h (bodyR 0#7 0#8 absent (eSrc b) (eCh ch) (eV d)) 0#4 0xa3#8
  | .chwait h ch b => packWord h (bodyR 0#7 0#8 absent (eV b) (eCh ch) absent) 0#4 0xa4#8
  | .chdrain h ch => packWord h (bodyR 0#7 0#8 absent absent (eCh ch) absent) 0#4 0xa5#8
  | .chstat h d ch => packWord h (bodyR 0#7 0#8 absent absent (eCh ch) (eV d)) 0#4 0xaa#8
  | .ringinit h rg b c => packWord h (bodyR 0#7 0#8 (eSrc c) (eV b) (eRg rg) absent) 0#4 0xa6#8
  | .ringacqProd h d rg => packWord h (bodyR 0#7 0#8 absent absent (eRg rg) (eV d)) 0#4 0xa7#8
  | .ringacqCons h d rg => packWord h (bodyR 0#7 0#8 absent absent (eRg rg) (eV d)) 1#4 0xa7#8
  | .ringrelProd h rg => packWord h (bodyR 0#7 0#8 absent absent (eRg rg) absent) 0#4 0xa8#8
  | .ringrelCons h rg => packWord h (bodyR 0#7 0#8 absent absent (eRg rg) absent) 1#4 0xa8#8
  | .ringwaitProd h rg b => packWord h (bodyR 0#7 0#8 absent (eSrc b) (eRg rg) absent) 0#4 0xa9#8
  | .ringwaitCons h rg b => packWord h (bodyR 0#7 0#8 absent (eSrc b) (eRg rg) absent) 1#4 0xa9#8
  | .mma h kind k cv a b c => packWord h (bodyR (k ++ 0#3) 0#8 (eV c) (eV b) (eV a) (eCv cv)) (kind.code : BitVec 4) 0xb0#8
  | .mdecl h cv a b => packWord h (bodyR 0#7 0#8 absent (eSrc b) (eSrc a) (eCv cv)) 0#4 0xb1#8
  | .mwait h cv => packWord h (bodyR 0#7 0#8 absent absent (eCv cv) absent) 0#4 0xb2#8
  | .mfence h cv => packWord h (bodyR 0#7 0#8 absent absent (eCv cv) absent) 0#4 0xb3#8
  | .mzero h a => packWord h (bodyR 0#7 0#8 absent absent (eV a) absent) 0#4 0xb4#8
  | .mload h i32 a b => packWord h (bodyR 0#7 0#8 absent (eV b) (eV a) absent) (0#2 ++ bit i32 ++ bit i32) 0xb5#8
  | .mstore h cell a b => packWord h (bodyR 0#7 0#8 absent (eV b) (eV a) absent) (cell.code : BitVec 4) 0xb6#8
  | .mlive h mask => packWord h (bodyI 0#7 (0#24 ++ mask) absent absent) 0#4 0xb7#8
  | .mstat h d => packWord h (bodyR 0#7 0#8 absent absent absent (eV d)) 0#4 0xb8#8
  | .barinit h sc bar a => packWord h (bodyR 0#7 0#8 absent absent (eSrc a) (eBar bar)) (sc.code : BitVec 4) 0xc0#8
  | .bararv h bar => packWord h (bodyR 0#7 0#8 absent absent (eBar bar) absent) 0#4 0xc1#8
  | .barwait h bar => packWord h (bodyR 0#7 0#8 absent absent (eBar bar) absent) 0#4 0xc2#8
  | .barsync h bar => packWord h (bodyR 0#7 0#8 absent absent (eBar bar) absent) 0#4 0xc3#8
  | .barstat h d bar => packWord h (bodyR 0#7 0#8 absent absent (eBar bar) (eV d)) 0#4 0xc4#8
  | .barset h bar b => packWord h (bodyR 0#7 0#8 absent (eSrc b) (eBar bar) absent) 0#4 0xc5#8
  | .gbar h gb => packWord h (bodyR 0#7 0#8 absent absent (eGb gb) absent) 0#4 0xc6#8
  | .wpop h d => packWord h (bodyR 0#7 0#8 absent absent absent (eV d)) 0#4 0xd0#8
  | .wpush h a b => packWord h (bodyR 0#7 0#8 absent (eOV b) (eV a) absent) 0#4 0xd1#8
  | .launch h a => packWord h (bodyR 0#7 0#8 absent absent (eV a) absent) 0#4 0xd2#8
  | .signalSet h a b => packWord h (bodyR 0#7 0#8 absent (eSrc b) (eV a) absent) 0#4 0xd3#8
  | .signalAdd h a b => packWord h (bodyR 0#7 0#8 absent (eSrc b) (eV a) absent) 1#4 0xd3#8
  | .sigwait h cmp a b => packWord h (bodyR (0#2 ++ cmp.code ++ 0#2) 0#8 absent (eSrc b) (eV a) absent) 0#4 0xd4#8
  | .gswap h cmp a b => packWord h (bodyR (0#2 ++ cmp.code ++ 0#2) 0#8 absent (eSrc b) (eV a) absent) 0#4 0xd5#8
  | .qroom h d a => packWord h (bodyR 0#7 0#8 absent absent (eV a) (eV d)) 0#4 0xd6#8
  | .pair h x y => packWord h (bodyP (eSlot y) (eSlot x)) 0#4 0xe0#8
  | .sysr h d n => packWord h (bodyI 0#7 (0#20 ++ n) absent (eV d)) 0#4 0xe1#8
  | .sysw h a n => packWord h (bodyI 0#7 (0#20 ++ n) (eV a) absent) 0#4 0xe2#8
  | .tret h => packWord h (bodyR 0#7 0#8 absent absent absent absent) 0#4 0xe3#8
  | .tswr h d a => packWord h (bodyR 0#7 0#8 absent absent (eV a) (eV d)) 0#4 0xe4#8
  | .tsww h a b => packWord h (bodyR 0#7 0#8 absent (eV b) (eV a) absent) 0#4 0xe5#8
  | .ologr h d a b => packWord h (bodyR 0#7 0#8 absent (eSrc b) (eV a) (eV d)) 0#4 0xe6#8
  | .xgetPred h d => packWord h (bodyR 0#7 0#8 absent absent absent (eV d)) 0#4 0xe7#8
  | .xgetStruct h d a => packWord h (bodyR 0#7 0#8 absent absent (eSReg a) (eV d)) 1#4 0xe7#8
  | .xsetPred h b => packWord h (bodyR 0#7 0#8 absent (eV b) absent absent) 0#4 0xe8#8
  | .xsetStruct h a b => packWord h (bodyR 0#7 0#8 absent (eV b) (eSReg a) absent) 1#4 0xe8#8
  | .placeCore h d a => packWord h (bodyR 0#7 0#8 absent absent (eSrc a) (eV d)) 0#4 0xe9#8
  | .placeDie h d a => packWord h (bodyR 0#7 0#8 absent absent (eSrc a) (eV d)) 1#4 0xe9#8
  | .placePort h d a => packWord h (bodyR 0#7 0#8 absent absent (eSrc a) (eV d)) 2#4 0xe9#8
  | _ => 0

end Sys2Proof
end

