-- ==== Sys2Proof/Config.lean ====
section
/-! DEFINITION. What the spec leaves to an implementation or leaves open, as constants with no value (R3, R10 of 00_scope.md), and
the figures of the package the spec fixes (R1). -/
namespace Sys2Proof

/-- What happens next when no issue group is under way and nothing is due at this instant: the die clocks advance by one
tick, or one agent performs its step (R384, R498: the device fixes no order). -/
inductive Move where
  | tick
  | event (i : Instr)
  deriving DecidableEq, Repr, Inhabited

namespace Config

/-- The agents' free choice of the next move (DESIGN CHOICE, log 1). Nothing is known of it. -/
opaque nextMove : Nat → Move

/-- Free 32-bit values: unpredictable registers and cells (R3; DESIGN CHOICE, log 6). -/
opaque freeWord : Nat → Word

/-- Free bytes: unpredictable memory and scratchpad bytes (R3; DESIGN CHOICE, log 6). -/
opaque freeByte : Nat → Byte

/-- Credits that the far side of a fabric port returns at an instant, by port and class (R441; DESIGN CHOICE, log 71). DESIGN CHOICE: log 6. -/
opaque credit : Nat → Nat → Nat → Nat

/-- How many sectors the fetch of a word brings over from the L2 slices (R464: the spec has fetches counted and says of no fetch that it leaves the
core). DESIGN CHOICE: log 6. -/
opaque fetchFill : Nat → Fin 3

/-- Whether the contents of a line compress to 64 bytes or less (R226: the spec does not give the code). DESIGN CHOICE: log 6. -/
opaque compresses : List Byte → Bool

/-- The package identifier, which the Pestle sets at boot (R17). DESIGN CHOICE: log 6. -/
opaque pkgId : BitVec 18

/-- The key pairs the Pestle's DRBG draws (R486). DESIGN CHOICE: log 6. -/
opaque drbgKey : Nat → BitVec 512

/-- The pod transport key (R486). DESIGN CHOICE: log 6. -/
opaque transportKey : BitVec 256

/-- The HSS signature of a report body with the one-time key of a counter value, 5,076 bytes (R480, R481). DESIGN CHOICE: log 6. -/
opaque hssSign : Nat → List Byte → BitVec 40608

/-- The boot images, by fuse bank: Pestle firmware, host-core boot image, Ladle image; each with the HSS public key and the signature that come with it
(R477). DESIGN CHOICE: log 6. -/
opaque image : Nat → List Byte
/-- The HSS public key that comes with an image (R477). DESIGN CHOICE: log 6. -/
opaque imageKey : Nat → List Byte
/-- The HSS signature that comes with an image (R477). DESIGN CHOICE: log 6. -/
opaque imageSig : Nat → List Byte

/-- The two public-key hashes of a fuse bank (R477). DESIGN CHOICE: log 6. -/
opaque fuseHash : Nat → BitVec 256 × BitVec 256

/-- The SVN in an image's header, whose layout the spec does not give (R478). DESIGN CHOICE: log 6. -/
opaque imageSvn : List Byte → Word

end Config

/-! ### Figures (R1, R8, R22) -/

/-- Ticks in one core cycle are 64/9 (R144); this is the ceiling of d core cycles. -/
def ceilCycles (d : Nat) : Nat := (d * 64 + 8) / 9

def hbmPerDie : Nat := 0x3000000000
def hostLo : Nat := 0x2C00000000
def hostHi : Nat := 0x3000000000
def scratchSize : Nat := 0x300000
def bankSize : Nat := 0x8000
def lineSize : Nat := 128
def sectorSize : Nat := 64
def granuleSize : Nat := 0x10000

end Sys2Proof
end

