-- ==== Sys2Proof/Machine/Tab.lean ====
section
/-! DEFINITION. Tables as plain data: numbered tables in one canonical form (memory, scratchpads, register files) and
keyed tables (the machine's objects). -/
namespace Sys2Proof.Machine

/-- A numbered table: entries in strictly rising order, none equal to what an unlisted number reads as. -/
abbrev Tab (α : Type) := List (Nat × α)

/-- Read entry k; d is what an unlisted number reads as. -/
def Tab.get {α : Type} (d : α) : Tab α → Nat → α
  | [], _ => d
  | (j, v) :: t, k => if j = k then v else Tab.get d t k

/-- Insert an entry before the first larger number. -/
def Tab.ins {α : Type} : Tab α → Nat → α → Tab α
  | [], k, v => [(k, v)]
  | (j, w) :: t, k, v => if k < j then (k, v) :: (j, w) :: t else (j, w) :: Tab.ins t k v

/-- The table without entry k. -/
def Tab.drop {α : Type} : Tab α → Nat → Tab α
  | [], _ => []
  | (j, w) :: t, k => if j = k then Tab.drop t k else (j, w) :: Tab.drop t k

/-- The table with entry k set to v; the canonical form is kept. -/
def Tab.put {α : Type} [DecidableEq α] (d : α) (t : Tab α) (k : Nat) (v : α) : Tab α :=
  if v = d then Tab.drop t k else Tab.ins (Tab.drop t k) k v

/-- The canonical form, for a table whose entries must lie at or above `lo`. -/
def Tab.wfFrom {α : Type} [DecidableEq α] (d : α) : Nat → Tab α → Bool
  | _, [] => true
  | lo, (j, v) :: t => decide (lo ≤ j) && !decide (v = d) && Tab.wfFrom d (j + 1) t

/-- The canonical form of a numbered table. -/
def Tab.wf {α : Type} [DecidableEq α] (d : α) (t : Tab α) : Bool := Tab.wfFrom d 0 t

/-- Drop the entries whose numbers lie in [lo, hi). -/
def Tab.clear {α : Type} (t : Tab α) (lo hi : Nat) : Tab α := t.filter fun e => e.1 < lo || hi ≤ e.1

/-- A keyed table: the objects of one kind that exist. -/
abbrev Dict (κ α : Type) := List (κ × α)

def Dict.get? {κ α : Type} [DecidableEq κ] : Dict κ α → κ → Option α
  | [], _ => none
  | (j, v) :: t, k => if j = k then some v else Dict.get? t k

/-- The object under a key, or a given one where there is none. -/
def Dict.getD {κ α : Type} [DecidableEq κ] (t : Dict κ α) (k : κ) (d : α) : α := (t.get? k).getD d

def Dict.set {κ α : Type} [DecidableEq κ] : Dict κ α → κ → α → Dict κ α
  | [], k, v => [(k, v)]
  | (j, w) :: t, k, v => if j = k then (j, v) :: t else (j, w) :: Dict.set t k v

def Dict.erase {κ α : Type} [DecidableEq κ] (t : Dict κ α) (k : κ) : Dict κ α := t.filter fun e => e.1 ≠ k

end Sys2Proof.Machine
end

