-- ==== Sys2Proof/Machine/State.lean ====
section
/-! DEFINITION. The state of the package, as plain data: every piece of state the spec names (INVENTORY.md, State), and
the machine right after cold reset. -/
namespace Sys2Proof.Machine
open Sys2Proof

/-- Why the machine stops. -/
inductive Fault where
  /-- Raised by a thread instruction run while no thread is named as its issuer. No step of the machine does so: `step` names
  the thread first. Safe. -/
  | noIssuingThread
  /-- Raised by a thread instruction whose named thread, group or core record does not exist. Safe. -/
  | danglingRef
  deriving DecidableEq, Repr

/-- Why an instruction has no meaning here. -/
inductive Refusal where
  /-- Raised by an arm of `exec` that has no meaning yet. Safe. -/
  | notModelled (mnemonic : String)
  deriving DecidableEq, Repr

/-- What one step answers. -/
abbrev Out := Host.Outcome

/-! ### Causes, states, waits (R119, R393) -/

/-- Trap and park causes (R393). -/
inductive Cause where
  | undef | deadreg | deadscr | role | budget | badtarget | badwin | spforeign | align | page | perm | keygone | scope
  | mismatch | ringphase | step | bkpt | trap | mcheck | timelost
  deriving DecidableEq, Repr

/-- Wait reasons (R119). -/
inductive Reason where
  | rejoin | barrier | rendezvous | address | sleep | matrix | channel | ring | launch | signal
  deriving DecidableEq, Repr

/-- The state a thread record holds; HALTED is read from the context's state (R119, R424). -/
inductive TSt where
  | ready | wait | parked | trapped | swapped | exited
  deriving DecidableEq, Repr

/-- A translation failure: cause, subcode and the level the walk stopped at (R283, R286). -/
structure Miss where
  cause : Cause
  sub   : Nat
  level : Nat
  deriving DecidableEq, Repr

/-- Where an access goes once translated (R221, R222, R224). -/
inductive Place where
  | mem (pa key pri : Nat) (pooled : Bool)
  | scr (core : Nat) (off : Nat)
  deriving DecidableEq, Repr

/-- What goes on after a fence part completes (R234, R342, R359, R362). -/
inductive After where
  | retire        -- FENCE, WCFLUSH
  | gwmax         -- GWMAX writes its destination
  | send (loc : Place)   -- a release is sent to its home
  | push          -- WPUSH goes to the queue unit
  | launch        -- LAUNCH enters the pending-launch queue
  | arrive        -- a barrier arrival may be counted
  deriving DecidableEq, Repr

/-- What the thread's oldest unfinished instruction is doing when it stops the thread (R11, R500). -/
inductive Phase where
  | none
  -- holds that name no wait reason (R500)
  | fence (sc : Option Scope) (seqs : List Nat) (wbs : List (Nat × Bool)) (next : After)
  | arrive
  | answer (seq : Nat)
  | walk (vpn : Nat)
  -- its own granule is resolved, with what its walk failed with; another lane of its instruction still walks (R279)
  | walked (vpn : Nat) (failed : Option Miss)
  -- waits (R119)
  | rejoin (jb : Nat)
  | barrier (bar : Bar)
  | rendezvous (mask a b : Word)
  | address (ea : DWord) (line : Nat) (l0 : DWord) (n : Nat)   -- n: the writes the line's home had performed (R266)
  | sleep
  | sign (cv : Nat) (kind : MmaKind) (k : BitVec 4) (a b c : Word)
  | matOp
  | mwait (cv : Nat) (seqs : List Nat)
  | cvIdle (cv : Nat)
  | mlive (mask : BitVec 8)
  | chanRoom (ch : Nat) (desc : List Byte)
  | chanPtr (ch : Nat) (target : Word)
  | chanDrain (ch : Nat)
  | ring (rg c : Nat)          -- c: the counter a RINGWAIT fixed at its issue (R313)
  | pushRoom (k : KRef) (rec : List Word)
  | launchRoom (addr : DWord)
  | pop (ord : Nat)
  | signal (ea : DWord) (cmp : Cmp) (b : Word)
  | swapArr (ea : DWord) (cmp : Cmp) (b : Word)
  -- a wait restored without a latch: its instruction is taken again (R427)
  | rewait (r : Reason)
  deriving DecidableEq, Repr

/-- A trap that waits to be delivered (R399, R495, R496). -/
structure Deferred where
  cause : Cause
  taddr : DWord
  entry : Option Nat
  deriving DecidableEq, Repr

/-- A fetch or CALL-target park (R82, R140): no log entry. -/
structure FetchPark where
  miss : Miss
  va   : Nat
  call : Bool
  deriving DecidableEq, Repr

structure Thread where
  htid     : Nat
  pc       : Pc
  regs     : Tab Word
  preds    : BitVec 15
  live     : BitVec 8
  st       : TSt
  ph       : Phase
  cur      : Option Instr      -- the instruction a phase other than none belongs to
  deadline : Option DWord
  h        : Bool
  step     : Bool
  kick     : Bool
  cause    : BitVec 8
  epc      : DWord
  taddr    : DWord
  tinfo    : Word
  fflags   : BitVec 5
  lxflags  : BitVec 5
  wctmax   : DWord
  wline    : DWord
  wseen    : DWord
  lastVt   : DWord
  jbE      : BitVec 16
  jbA      : BitVec 16
  nbPend   : BitVec 16
  gbPend   : BitVec 4
  elatch   : Option Word
  fpark    : Option FetchPark
  deferred : List Deferred
  gap      : Nat
  yld      : Bool
  waitFrom : DWord             -- GTIME at which the thread entered WAIT (R133)
  deriving DecidableEq, Repr

/-! ### Groups, gangs, kernels -/

inductive BarSt where
  | idle | counting | released
  deriving DecidableEq, Repr

/-- A named or gang barrier (R338). `deliver` lists the cores a decided release has still to reach (R341). -/
structure BarRec where
  init    : Bool
  cnt     : Nat
  arr     : Nat
  ph      : Bool
  st      : BarSt
  scope   : BScope
  deliver : List Nat
  deriving DecidableEq, Repr

def BarRec.clear : BarRec := { init := false, cnt := 0, arr := 0, ph := false, st := .idle, scope := .grp, deliver := [] }

/-- A convergence register (R322). The signers are the threads in phase `sign`. -/
structure CvRec where
  decl  : Bool
  count : Nat
  base  : Nat
  ready : Bool
  fence : Nat                  -- write number up to which the last MFENCE covers scratchpad writes (R326)
  deriving DecidableEq, Repr

def CvRec.clear : CvRec := { decl := false, count := 0, base := 0, ready := false, fence := 0 }

/-- A GSWAP latch (R366). -/
structure SwapLatch where
  ea  : DWord
  cmp : Cmp
  b   : Word
  deriving DecidableEq, Repr

/-- Group states but FREE, which is having no record; HALTED is read from the context's state (R118). -/
inductive GSt where
  | allocated | resident | swapped | retiring
  deriving DecidableEq, Repr

/-- A region of accumulator cells of a logical tile (R319). -/
structure Region where
  row0 : Nat
  col0 : Nat
  m    : Nat
  n    : Nat
  deriving DecidableEq, Repr

/-- An MMA issued and not covered by an MWAIT (R327). -/
structure Uncov where
  seq  : Nat
  cv   : Nat
  reg  : Region
  kind : MmaKind               -- and its operands: a write to their tiles until the MWAIT makes its cells free values
  k    : Nat
  rows : List Word
  b    : Word
  lost : Bool                  -- its tile has died since it completed: its cells are lost (R318)
  deriving DecidableEq, Repr

structure Group where
  kidx    : Nat
  gnum    : Nat
  gang    : Nat
  grank   : Nat
  gangN   : Nat
  role    : Role
  w       : Nat
  gsz     : Nat                -- threads
  st      : GSt
  handler : Pc
  sidethr : Word
  sideptr : Word
  banks   : BitVec 96
  first   : Nat
  count   : Nat
  chans   : BitVec 8
  rings   : BitVec 8
  tiles   : List Nat           -- physical tile of each logical tile (R317)
  mlive   : BitVec 8
  mexc    : BitVec 5           -- NOFEN, NV, OF, LXS, DEAD from bit 0 (R333)
  cvs     : List CvRec
  nbs     : List BarRec
  uncov   : List Uncov
  latch   : Option SwapLatch
  slots   : List (Nat × Nat)   -- slice and slot index of each lane set (R113)
  pbase   : DWord
  psize   : Nat
  deriving DecidableEq, Repr

structure Gang where
  lat   : Nat                  -- 0 none, 1 near, 2 far, 3 cross (R137)
  cores : List Nat             -- logical core of each gang rank (R136)
  grps  : List Nat             -- group-table index of each gang rank's group
  gbs   : List BarRec
  latch : Option SwapLatch     -- first group's latched values (R367)
  deriving DecidableEq, Repr

/-- A ring declaration of a kernel descriptor (R351). -/
structure RingDecl where
  slots : Nat
  bytes : Nat
  deriving DecidableEq, Repr

inductive KSt where
  | loaded | resident | fed | draining | retired
  deriving DecidableEq, Repr

/-- A kernel: its launch record and descriptor as decided, and its work queue (R351, R352, R356, R358). -/
structure Kernel where
  handle  : DWord
  st      : KSt
  entry   : Pc
  role    : Role
  lat     : Nat
  w       : Nat
  gsz     : Nat
  scrb    : Nat
  fbank   : Nat
  tiles   : Nat
  chans   : Nat
  gangN   : Nat
  psize   : Nat
  rings   : List (Option RingDecl)
  ngrp    : Nat
  cbase   : Nat
  cspan   : Nat
  priv    : DWord
  args    : List Word
  donesig : DWord
  doneadd : Word
  qaddr   : DWord
  qlog    : Nat
  head    : Nat
  tail    : Nat
  closed  : Bool
  nplaced : Nat
  nfree   : Nat
  popNext : Nat                -- order numbers of waiting WPOPs (R360)
  wct     : DWord              -- completion time of what its FREE groups wrote or read, for the release of DONEADD (R357)
  deriving DecidableEq, Repr

/-! ### What a context holds on a core -/

inductive ChSt where
  | idle | busy | parked | error
  deriving DecidableEq, Repr

/-- Which copy instruction queued a copy (R299). -/
inductive CopyKind where
  | tcopy | tstore | tcopys
  deriving DecidableEq, Repr

structure Copy where
  kind : CopyKind
  desc : Nat                   -- the 512 descriptor bits (R296)
  rank : Nat                   -- issuing thread's group and rank, for the fault event (R308)
  grp  : Nat
  ch   : BitVec 2              -- hint of its instruction (R95)
  since : Nat                  -- when it was queued, in the numbering of the notes (R310)
  deriving DecidableEq, Repr

/-- A byte written while a copy was unfinished: of a core's scratchpad, or of memory; when; and the channel that wrote it, if one did (R310).
DESIGN CHOICE: log 35. -/
structure Note where
  core : Option CCRef
  part : Nat
  byte : Nat
  at'  : Nat
  chan : Option (CCRef × Nat)
  deriving DecidableEq, Repr

/-- A copy channel (R295, R305, R306); whether its head copy has begun. -/
structure Chan where
  grp     : Nat
  q       : List Copy
  st      : ChSt
  err     : Nat
  sat     : Bool
  miss    : Option (Miss × Nat)
  wp      : List Nat
  start   : Nat
  started : Bool
  ct      : DWord
  deriving DecidableEq, Repr

/-- A stage ring (R312). -/
structure Ring where
  base  : Nat
  m     : Nat
  slots : Nat
  k     : Nat
  pcnt  : Nat
  ccnt  : Nat
  ph    : BitVec 64
  phold : Bool
  chold : Bool
  init  : Bool
  deriving DecidableEq, Repr

inductive OStat where
  | waiting | released | delivering
  deriving DecidableEq, Repr

/-- An operand-log entry that is not free (R285), with the decoded instruction of WORD. -/
structure OEntry where
  ptime : DWord
  data  : List Word
  ea    : DWord
  instr : Instr
  word  : BitVec 96
  pc    : Pc
  sub   : Nat
  ccls  : Cause
  stat  : OStat
  grp   : Nat
  rank  : Nat
  htid  : Nat
  arm   : Option (Nat × Option DWord)     -- writes of its line and deadline of a WAITADDR that replays (R265, R266)
  deriving DecidableEq, Repr

/-- A load of the replay list (R419). -/
structure Replay where
  ea    : DWord
  instr : Instr
  word  : BitVec 96
  grp   : Nat
  rank  : Nat
  htid  : Nat
  deriving DecidableEq, Repr

/-- Owner and state of a scratchpad bank (R254). -/
structure Bank where
  grp  : Nat
  live : Bool
  deriving DecidableEq, Repr

structure Holding where
  scratch : Tab Byte           -- scratchpad bytes (R222)
  wseq    : Tab Nat            -- stamp of the last write of each byte (R326, R327)
  banks   : Dict Nat Bank      -- banks granted
  acc     : Tab Word           -- accumulator cells: physical tile × 16384 + row × 128 + column (R317)
  tiles   : Dict Nat Nat       -- owner group of each granted physical tile
  rows    : List (List Nat)    -- window map of each slice: physical row of window w (R131)
  chans   : Dict Nat Chan
  rings   : Dict Nat Ring
  olog    : Dict Nat OEntry
  plq     : List DWord
  plqAt   : DWord              -- GTIME at which the head of the pending-launch queue arrived (R362)
  replay  : List Replay
  deriving DecidableEq, Repr

/-- What the records of a saved core do not hold of its matrix operands: the stamps of its scratchpad bytes; and by group its old number,
its kernel and number, its MMAs that no MWAIT has covered, and what the last MFENCE on each convergence register covers (DESIGN CHOICE, log
19). -/
structure MatKept where
  wseq : Tab Nat
  grps : List (Nat × (Nat × Nat) × List Uncov × List Nat)
  deriving DecidableEq, Repr

/-- A context's holding on a core that holds nothing. -/
def Holding.empty : Holding :=
  { scratch := [], wseq := [], banks := [], acc := [], tiles := [], rows := [], chans := [], rings := [],
    olog := [], plq := [], plqAt := 0, replay := [] }

/-! ### Core hardware -/

/-- A line held by an L1 (R228, R229, R241, R485). -/
structure L1Line where
  line  : Nat
  bytes : List Byte
  lexp  : DWord
  lwct  : DWord
  pwct  : DWord                -- the pool home's completion time, at the fill
  key   : Nat                  -- the slot under which the L2, or else the page, had the line (R485)
  prio  : Nat
  used  : Nat
  pois  : List Nat             -- its poisoned 8-byte words (R494)
  deriving DecidableEq, Repr

/-- A leaf translation in a TLB (R281). -/
structure TlbEntry where
  ctx   : Nat
  vpn   : Nat                  -- virtual address of the page div its size
  level : Nat
  leaf  : BitVec 64
  deriving DecidableEq, Repr

/-- A table pointer in a walk cache (R281). -/
structure WalkPtr where
  ctx   : Nat
  level : Nat
  vpn   : Nat
  table : Nat
  deriving DecidableEq, Repr

/-- What kind of access a memory operation is. -/
inductive MKind where
  | load | acquire | store | release | atomic | wc | pref
  deriving DecidableEq, Repr

/-- What a home has answered (R229, R236, R237). -/
inductive Ans where
  | pending
  | sent (tag : Nat)           -- a pool-home atomic under way on the fabric
  | done (wct : DWord) (old : List Byte)
  | refused                    -- the scope checker (R237)
  | failed                     -- an uncorrectable error (R446)
  | dead                       -- a dead scratchpad bank (R255)
  deriving DecidableEq, Repr

/-- A memory operation a core has sent or accepted and that has not been answered. -/
structure MOp where
  seq   : Nat
  born  : Nat                  -- its number, or that of the write-combining entry it was (R290)
  thr   : TRef
  entry : Option Nat           -- the log entry of a replay (R288)
  kind  : MKind
  instr : Instr
  pc    : Pc
  gen   : BitVec 8
  ea    : DWord
  loc   : Place
  size  : Nat
  data  : List Byte
  mask  : List Bool
  contrib : List TRef          -- threads whose stores a drained entry holds (R240)
  cov   : List Bool            -- bytes a fence of their thread has covered (R242)
  ans   : Ans
  deriving DecidableEq, Repr

/-- A write-combining entry (R239): a line of memory, or 128 bytes of another core's scratchpad. -/
structure WcEntry where
  id    : Nat
  loc   : Place                -- of its first byte
  bytes : List Byte
  mask  : List Bool
  cov   : List Bool            -- bytes a fence of a writing thread has covered (R242)
  thrs  : List TRef
  first : DWord
  ch    : BitVec 2             -- the strongest hint of its writes (R241)
  deriving DecidableEq, Repr

/-- An accepted MMA (R325). -/
structure Mma where
  seq   : Nat
  ctx   : Nat
  grp   : Nat
  cv    : Nat
  kind  : MmaKind
  k     : Nat
  rows  : List Word
  b     : Word
  reg   : Region
  ready : Bool
  cover : Nat
  since : Nat                  -- write number at issue (R327)
  spoil : List Region
  deriving DecidableEq, Repr

/-- An entry of a slice's PC table: a group's index and a PC, the round in which it was made, and the HTIDs of the threads that stand there since before
they last issued from there (R123, R125). DEDUCED: log 83. -/
structure PcEntry where
  grp   : Nat
  pc    : Pc
  age   : Nat
  htids : List Nat
  deriving DecidableEq, Repr

/-- An issue slice's clock and counters (R454 to R463). DEDUCED: log 51. -/
structure Slice where
  n     : Nat
  tgt   : Nat
  hold  : Option DWord         -- the end of the clock's hold for a switch, which begins 228 ticks before (R457)
  repl  : Nat
  xiq   : Nat
  xrq   : Nat
  stall : Word
  cIss  : Nat
  cMem  : Nat
  cEng  : Nat
  cAll  : Nat
  round : Nat
  det   : Nat                  -- timing-error detections in this sample (R470)
  err   : Option Pc            -- where the last detection stood, until an issue group forms (R470)
  stop  : Nat                  -- slice cycles in which a replay lets no issue group form (R469)
  again : List TRef            -- the issue group that a detection has re-execute (R469)
  div   : Nat                  -- slice cycles for which the divider, the special-function unit and the SLI units are still held (R181, R204, R217)
  sfu   : Nat
  sli   : Nat
  table : List PcEntry         -- the PC table (R123)
  issued : List Nat            -- HTIDs of the last issue group (R125)
  deriving DecidableEq, Repr

inductive Power where
  | off | retention | waking (fromOff : Bool) (due : DWord) | full
  deriving DecidableEq, Repr

structure Core where
  slices  : List Slice
  l1      : List L1Line
  l1Clock : Nat
  tlb     : List TlbEntry
  walkc   : List WalkPtr
  walks   : List Nat           -- granules being walked (R279)
  mops    : List MOp
  wc      : List WcEntry
  mmas    : List Mma
  seq     : Nat                -- next operation number
  evKeys  : List (Nat × Nat × Cause × Nat × Bool)  -- fault-event keys already sent (R286)
  regPow  : Dict (Nat × Nat × Nat) Power           -- slice, row, lane; a bank not listed is full or off by R133
  scrPow  : Dict Nat (Power × DWord)               -- bank: state, last access; a bank not listed is full or off by R254
  tilePow : Dict Nat Power
  pwrctl  : DWord
  vcur    : Nat                -- VCUR, or where a ramp under way began (R455)
  vtgt    : Nat
  deny    : Nat
  raises  : List (Nat × Nat)   -- slices waiting for VOK and their ratio (R456)
  lower   : Option Nat         -- a fall in voltage waiting for the falling slices (R456)
  bytes   : Nat                -- C of R464
  energy  : BitVec 63
  wrap    : Bool
  erem    : Nat
  sampleAt : Nat               -- the last sample boundary acted on (R461)
  budgetAt : Nat               -- the last interval boundary acted on (R464)
  rampAt  : Option DWord       -- when the ramp under way began (R455)
  deriving DecidableEq, Repr

/-- A slice at cold reset (R462). DESIGN CHOICE: log 4. -/
def Slice.reset : Slice :=
  { n := 12, tgt := 12, hold := none, repl := 0, xiq := 0, xrq := 0, stall := 0x0C, cIss := 0, cMem := 0, cEng := 0,
    cAll := 0, round := 0, det := 0, err := none, stop := 0, again := [], div := 0, sfu := 0, sli := 0, table := [], issued := [] }

/-- A core at cold reset (R454, R462). DESIGN CHOICE: log 4. -/
def Core.reset : Core :=
  { slices := List.replicate 6 Slice.reset, l1 := [], l1Clock := 0, tlb := [], walkc := [], walks := [], mops := [], wc := [],
    mmas := [], seq := 0, evKeys := [], regPow := [], scrPow := [], tilePow := [], pwrctl := 0x0D059004000C,
    vcur := 0x2EE, vtgt := 0x2EE, deny := 0, raises := [], lower := none, bytes := 0, energy := 0, wrap := false, erem := 0,
    sampleAt := 0, budgetAt := 0, rampAt := none }

/-! ### Contexts and partitions -/

inductive CSt where
  | empty | staging | staged | active | halting | saving | saved | loading | revoked | faulted
  deriving DecidableEq, Repr

structure Ctx where
  ctxsa    : DWord
  st       : CSt
  gen      : BitVec 8
  keymask  : DWord
  ptroot   : DWord
  handler  : DWord
  swapbase : DWord
  pauseoff : DWord
  vhalt    : DWord
  paused   : Bool
  sealt    : DWord
  memcfg   : Word
  issueOff : Bool              -- issue has stopped for a halt (R424)
  invals   : List (Nat × Nat)  -- ranges of the INVALs completed while the context is in memory (R290)
  since    : DWord             -- GTIME of its last step in a switch: halt instant, issue stopped, drained, staging or load begun, activation (R431)
  shadow   : List (Nat × List Byte)  -- what staging has read of its image, by offset (R428)
  deriving DecidableEq, Repr

/-- A context that nothing has installed (R411). DESIGN CHOICE: log 4. -/
def Ctx.reset : Ctx :=
  { ctxsa := 0, st := .empty, gen := 0, keymask := 0, ptroot := 0, handler := 0, swapbase := 0, pauseoff := 0, vhalt := 0,
    paused := false, sealt := 0, memcfg := 0x0000FA00, issueOff := false, invals := [], since := 0, shadow := [] }

inductive QSt where
  | disabled | idle | running | blocked | error
  deriving DecidableEq, Repr

/-- A queue's registers (R371); an INVAL that has begun, with the operation number each core had reached (R290, R380); the lines a held packet
watches, with the writes their homes had performed at its last evaluation, and the time of that (R381); whether the handler at work has still to look
at the packet (R386); the bytes of a packet that is held or whose INVAL runs (R374); and the completion time of what its packets wrote and read, and
of what was written before the last doorbell (R230, R383). -/
structure Queue where
  qbase : DWord
  en    : Bool
  st    : QSt
  err   : Nat
  hold  : Nat
  qlog  : Nat
  qctx  : Nat
  head  : Nat
  tail  : Nat
  inval : Option (List (Nat × Nat))
  watch : List (Nat × Nat)
  evalAt : DWord
  todo  : Bool
  held  : List Byte
  wct   : DWord
  deriving DecidableEq, Repr

/-- A queue at cold reset (R371). DESIGN CHOICE: log 4. -/
def Queue.reset : Queue :=
  { qbase := 0, en := false, st := .disabled, err := 0, hold := 0, qlog := 0, qctx := 0, head := 0, tail := 0, inval := none,
    watch := [], evalAt := 0, todo := false, held := [], wct := 0 }

/-- Events of the Ladle event queue with their keys (R385). -/
inductive LEvent where
  | doorbell (q : Nat)
  | wake (q : Nat)
  | fault (ev : BitVec 256)
  | launch (core : Nat)
  | retire (ctx kidx : Nat)
  | table
  deriving DecidableEq, Repr

/-- A machine-check record (R492). -/
abbrev McRecord := BitVec 512

/-- A timetable entry that has been accepted (R42); `begun` once its START has been acted on. -/
structure TEntry where
  bits  : BitVec 256
  begun : Bool
  deriving DecidableEq, Repr

/-- An accepted pre-emption (R430). -/
structure Preempt where
  bits  : BitVec 256
  begun : Bool
  deriving DecidableEq, Repr

structure Part where
  dpt      : List Word
  memcfg   : Word
  keylive  : DWord
  keys     : List (Option (BitVec 512))
  keyDrain : List (Nat × Mailbox × Word)  -- slots whose revocation waits for older accesses, with the request to answer (R487)
  hwin     : List DWord
  hwDrops  : Nat
  hwLast   : List (Option DWord)
  poolwin  : List DWord
  lidaddr  : DWord
  affPend  : Bool
  affAct   : Bool
  affsw    : DWord
  aff      : List (List Byte)
  queues   : List Queue
  events   : List (LEvent × Option Nat)   -- pending in order; the Ladle core that handles it (R385, R386)
  heldEv   : List LEvent
  ladles   : List (Option DWord)          -- start of the handler each Ladle core runs (R387)
  ladleMem : List (List Byte)             -- instruction memory of each Ladle core (R479)
  traceEn  : Bool
  traceOvf : Bool
  tlog     : Nat
  tbase    : DWord
  tcount   : Nat
  mc       : List McRecord
  mcSeq    : Nat
  table    : List TEntry
  preempt  : Option Preempt
  running  : Option Nat        -- the context that holds the cores
  next     : Option Nat        -- the context the switch under way brings in
  flip     : Bool              -- at START it was STAGED and still fitted: the switch is a flip (R428)
  drained  : Bool              -- between Drained and Activate (R437)
  mcCorr   : Dict Nat (DWord × Nat)  -- of each unit: GTIME of its last record of a corrected memory error, and errors since (R493)
  last     : Option Nat        -- the context that was last active (R474)
  deriving DecidableEq, Repr

/-- A partition at cold reset (R226, R278, R371, R390, R450, R474, R489). DESIGN CHOICE: log 4. -/
def Part.reset : Part :=
  { dpt := List.replicate 4 0, memcfg := 0x0000FA00, keylive := 0, keys := List.replicate 64 none, keyDrain := [],
    hwin := List.replicate 16 0, hwDrops := 0, hwLast := List.replicate 17 none, poolwin := List.replicate 16 0, lidaddr := 0,
    affPend := false, affAct := false, affsw := 0, aff := [List.replicate 64 0, List.replicate 64 0],
    queues := List.replicate 64 Queue.reset, events := [], heldEv := [], ladles := [], ladleMem := [], traceEn := false, traceOvf := false,
    tlog := 0, tbase := 0, tcount := 0, mc := [], mcSeq := 0, table := [], preempt := none, running := none, next := none, flip := false,
    drained := false, mcCorr := [], last := none }

/-! ### Dies, links, homes -/

inductive LSt where
  | down | training | up | degraded | quiesced | fenced
  deriving DecidableEq, Repr

/-- A packet queued on a port: what it holds, and the flits it has still to send (R439, R441). -/
structure QPkt where
  hdr   : BitVec 256
  load  : List Byte
  left  : Nat
  deriving DecidableEq, Repr

/-- A fabric port or die-to-die link (R26, R437, R438), with a port's queued packets, its free credits of each class, whose turn it is among
the rotating classes, and the GTIME of its next flit boundary (R441). -/
structure Link where
  st       : LSt
  en       : Bool              -- its enable condition has held since its Enable (R437)
  lanes    : BitVec 4
  drops    : Nat
  retrains : Nat
  since    : DWord
  replays  : Nat
  fwOpen   : Bool
  fwDrops  : Nat
  queue    : List QPkt
  credits  : List Nat
  turn     : Nat
  wire     : DWord
  deriving DecidableEq, Repr

/-- A link or port at cold reset (R438). DESIGN CHOICE: log 4. DESIGN CHOICE: log 71. -/
def Link.reset : Link :=
  { st := .down, en := false, lanes := 0, drops := 0, retrains := 0, since := 0, replays := 0, fwOpen := false, fwDrops := 0,
    queue := [], credits := List.replicate 6 0, turn := 0, wire := 0 }

structure Die where
  diepart : Word
  cpt     : List Word
  ppt     : List Word
  ports   : List Link
  deriving DecidableEq, Repr

/-- DESIGN CHOICE: log 4. -/
def Die.reset : Die :=
  { diepart := 0, cpt := List.replicate 36 0, ppt := List.replicate 6 0, ports := List.replicate 6 Link.reset }

/-- What the home slice keeps of a line (R228, R229, R237, R241): `pwct` is the latest completion time the pool home has answered for a pooled
line, `writes` counts the writes performed at this home (R266), and `held`, `prio` and `used` say whether the L2 holds the line, at which
priority, when it was last used, and the key slot recorded at its fill (R485). -/
structure LineRec where
  llast : DWord
  lwct  : DWord
  pwct  : DWord
  writes : Nat
  scope : Option (Nat × Scope × Nat)   -- core, scope, context
  held  : Bool
  prio  : Nat
  used  : Nat
  key   : Nat
  deriving DecidableEq, Repr

def LineRec.none : LineRec := { llast := 0, lwct := 0, pwct := 0, writes := 0, scope := .none, held := false, prio := 1, used := 0, key := 0 }

/-- A pooled line in the package home (R224, R225, R448). -/
structure PoolLine where
  bytes : List Byte
  have' : List Bool            -- sectors held
  dirty : List Bool
  lease : DWord
  once  : Bool                 -- data of an RD that granted no lease, good for one load
  age   : List Nat             -- when each sector last became dirty (R225)
  req   : Option Nat           -- tag of the outstanding request (R444)
  want  : Option (List TRef)   -- a writeback asked for, and the threads whose store it is (R270)
  poison : List Bool           -- of each sector (R446)
  key    : Nat                 -- the key under which it was filled or written, plus 1; 0 for none (R485)
  deriving DecidableEq, Repr

def PoolLine.none : PoolLine :=
  { bytes := List.replicate 128 0, have' := [false, false], dirty := List.replicate 128 false, lease := 0, once := false,
    age := [0, 0], req := .none, want := .none, poison := [false, false], key := 0 }

/-- A fabric request that waits for its answer (R446): the die that sent it first, and whether its context held the cores then (R426). -/
structure FReq where
  die    : Nat
  held   : Bool
  tag    : Nat
  op     : Nat
  part   : Nat
  line   : Nat
  hdr    : BitVec 256
  load   : List Byte
  sent   : DWord
  resent : Option DWord
  via    : Nat × Nat           -- die and physical port it was queued on last
  mop    : Option (Nat × Nat)  -- core and number of the operation it serves
  thrs   : List TRef           -- threads whose WCTMAX its answer raises
  deriving DecidableEq, Repr

/-- A packet the package has sent (R439). DESIGN CHOICE: log 9. -/
structure Packet where
  die  : Nat
  port : Nat
  hdr  : BitVec 256
  load : List Byte
  deriving DecidableEq, Repr

/-! ### Time, Whisk, Pestle, Lid -/

inductive TimeSt where
  | unset | acquiring | disciplined | holdover | lost
  deriving DecidableEq, Repr

/-- The data set of the Announce message a port received last (R36). PRESUMED: log 72. -/
structure Master where
  prio    : Nat                -- grandmasterPriority1, clock quality and grandmasterPriority2, in the order of the comparison
  gm      : Nat                -- grandmasterIdentity
  steps   : Nat                -- stepsRemoved
  sender  : Nat                -- sourcePortIdentity
  deriving DecidableEq, Repr

/-- The Sync message a port received last: its sequence identifier, the GTIME of its arrival, its correction and, once it is known from the message
or from its Follow_Up, the reference's time when it left, in ticks; and whether a measurement has been made of it (R37, R451). PRESUMED: log 72. -/
structure SyncIn where
  seq  : BitVec 16
  t2   : DWord
  corr : Int
  t1   : Option Int
  used : Bool
  deriving DecidableEq, Repr

structure Time where
  gtime   : DWord
  skew    : List Nat
  st      : TimeSt
  lostcnt : Nat
  port    : Nat                -- reference: physical die × 6 + physical port
  lastOk  : DWord
  lastAny : DWord
  run     : Nat
  slew    : Int
  slewC   : Nat                -- ticks since the last tick of slew (R35)
  everAct : Bool
  epoch   : DWord              -- GTEPOCH
  domain  : Nat
  asym    : List (BitVec 16)
  seqId   : BitVec 16
  reqOut  : Bool
  masters : List (Option Master)   -- by physical die × 6 + physical port
  syncs   : List (Option SyncIn)   -- by port
  follows : List (Option (BitVec 16 × Int))  -- by port, a Follow_Up whose Sync has not come: its sequence identifier and time (R451)
  egress  : Option DWord           -- GTIME at which the Delay_Req sent last left (R451)
  delay   : Option Int             -- the path delay measured last, in ticks
  deriving DecidableEq, Repr

/-- The time unit at cold reset (R35). DESIGN CHOICE: log 4. DESIGN CHOICE: log 5. -/
def Time.reset : Time :=
  { gtime := 0, skew := [0, 0, 0, 0], st := .unset, lostcnt := 0, port := 0, lastOk := 0, lastAny := 0, run := 0, slew := 0, slewC := 0,
    everAct := false, epoch := 0, domain := 0, asym := List.replicate 24 0, seqId := 0, reqOut := false, masters := List.replicate 24 none,
    syncs := List.replicate 24 none, follows := List.replicate 24 none, egress := none, delay := none }

/-- A host die's heartbeat as last received (R41). -/
structure Peer where
  pkg  : BitVec 18
  last : DWord
  good : Bool
  deriving DecidableEq, Repr

/-- An accepted mask update (R47). -/
structure MaskUpd where
  effect : DWord
  base   : Nat
  bits   : BitVec 128
  deriving DecidableEq, Repr

/-- The Whisk: its timetable state, its mask updates and the packages it has heard of (R41, R43). DEDUCED: log 55. -/
structure Whisk where
  elig    : List Nat           -- eligible virtual devices, rising
  masks   : List MaskUpd
  newest  : Option (BitVec 16)
  peers   : List Peer
  sched   : Option (BitVec 18)
  epoch   : BitVec 16
  lastHb  : DWord
  heard   : DWord              -- GTIME since which no verified heartbeat of the scheduler has come (R41)
  statuses : List Nat          -- answers given, newest first (R43, R47, R430)
  skipped  : List (BitVec 256) -- entries and pre-emptions skipped and logged, newest first (R49, R432)
  deriving DecidableEq, Repr

/-- DESIGN CHOICE: log 4. -/
def Whisk.reset : Whisk :=
  { elig := [], masks := [], newest := none, peers := [], sched := none, epoch := 0, lastHb := 0, heard := 0, statuses := [], skipped := [] }

/-- An answer of the Pestle: the mailbox, the request's TAG, the status and the returned bytes (R482). -/
structure Answer where
  mb     : Mailbox
  tag    : Word
  status : Nat
  bytes  : List Byte
  deriving DecidableEq, Repr

structure Pestle where
  booted  : Bool
  boot    : Nat                -- failing step of the boot chain, 0 for none (R477)
  svnMin  : List Word
  svnImg  : List Word
  ladleImg : List Byte         -- its copy of the Ladle image (R479)
  sigcnt  : Nat
  report  : Option (List Byte)
  drbg    : Nat
  retired : List (Nat × Nat)   -- physical die and slot (R32)
  retPorts : List (Nat × Nat)  -- physical die and port (R20, R32)
  answers : List Answer
  mc      : List McRecord      -- operator ring
  mcSeq   : Nat
  mcCorr  : Dict Nat (DWord × Nat)  -- of each unit: GTIME of its last record of a corrected memory error, and errors since (R493)
  pkg     : BitVec 18
  deriving DecidableEq, Repr

/-- DESIGN CHOICE: log 4. -/
def Pestle.reset : Pestle :=
  { booted := false, boot := 0, svnMin := [0, 0, 0], svnImg := [0, 0, 0], ladleImg := [], sigcnt := 0, report := none, drbg := 0, retired := [], retPorts := [],
    answers := [], mc := [], mcSeq := 0, mcCorr := [], pkg := 0 }

/-- A line that the Lid has sent (R473): its partition, the logical die it is homed in, the tag of its WR and whether that has been acknowledged. -/
structure LidLine where
  part  : Nat
  die   : Nat
  line  : Nat
  tag   : Nat
  acked : Bool
  deriving DecidableEq, Repr

/-- The Lid sequence (R473): its start, the WRs sent before it and not yet acknowledged, the lines it has sent in order, and, once it comes to the
markers, the partitions whose marker has still to be sent. -/
structure Lid where
  t0     : DWord
  early  : List (Nat × Nat)         -- partition and tag
  sent   : List LidLine
  marked : Bool
  marks  : List Nat
  deriving DecidableEq, Repr

/-! ### The state -/

/-- An event of the opcode table whose instant is exact and has come (DESIGN CHOICE, log 1). -/
inductive Due where
  | holdoverLimit
  | syncTimeout
  | schedulerTakeover
  | heartbeatSend
  | maskEffect
  | waitPeriodicEvaluation (q : QRef)
  | queueWake (q : QRef)
  | entryEnd (part : Nat)
  | preemptionEnd (part : Nat)
  | preemptionStart (part : Nat)
  | entryStart (part : Nat)
  | affinityFlip (part : Nat)
  | stagingStart (x : CtxRef)
  | stagingComplete (x : CtxRef)
  | haltIssueStopped (x : CtxRef)
  | drainComplete (x : CtxRef)
  | imageSealed (x : CtxRef)
  | loadComplete (x : CtxRef)
  | issueRound (c : CoreRef) (slice : Nat)
  | storePerformedAtHome (c : CoreRef) (seq : Nat)
  | storeAnswer (c : CoreRef) (seq : Nat)
  | atomicAnswer (c : CoreRef) (seq : Nat)
  | mmaComplete (c : CoreRef)
  | matrixOpComplete (t : TRef)
  | barrierDelivery (g : GangRef) (gb : BitVec 2) (core : Nat)
  | ladleWatchdog (part ladle : Nat)
  | krevoke (mb : Mailbox) (tag : Word) (part : Nat) (slot : BitVec 6)
  | governorSample (c : CoreRef)
  | voltageRampDone (c : CoreRef)
  | sliceHoldEnd (c : CoreRef) (slice : Nat)
  | budgetInterval (c : CoreRef) (energy : Nat)
  | wcEntryTimeout (c : CoreRef) (id : Nat)
  | leaseExpiry (c : CoreRef) (line : Nat)
  | regBankWakeDone (c : CoreRef) (slice row lane : Nat)
  | regBankRetention (c : CoreRef) (slice row lane : Nat)
  | scrBankWakeDone (c : CoreRef) (bank : Nat)
  | scrBankRetention (c : CoreRef) (bank : Nat)
  | tileWakeDone (c : CoreRef) (tile : Nat)
  | kickTaken (t : TRef)
  | sleepDeadline (t : TRef)
  | waitaddrDeadline (t : TRef)
  | linkTrainFail (l : LinkRef)
  | linkRetrainTimer (l : LinkRef)
  | fabricRequestTimeout (die : Nat) (tag : BitVec 16)
  | fabricResendTimeout (die : Nat) (tag : BitVec 16)
  | lidAckDeadline
  deriving DecidableEq, Repr

/-- The comparison that a thread in SIGWAIT, or a swap arrival, waits for (R365, R366): `due` where it is to be made by a read, and, once a write at the
home has met it or has left an error there, that line's completion time. -/
structure SigWatch where
  thr : TRef
  va  : Nat
  loc : Option Place           -- none until its address is translated
  cmp : Cmp
  b   : Word
  due : Bool
  hit : Option (Bool × DWord)
  deriving DecidableEq, Repr

/-- What a thread record does not hold of a saved thread: its VTIME last read (R40), the instruction it waits at, the causes of the traps its
delivering log entries have still to deliver, and its traps without an entry (R399, R496). DESIGN CHOICE: log 19. -/
structure Kept where
  vt    : DWord
  cur   : Option Instr
  traps : Option (List (Option Cause))
  rest  : List Deferred
  deriving DecidableEq, Repr

/-- Of a thread that was not saved here nothing is kept. -/
def Kept.none : Kept := { vt := 0, cur := .none, traps := .none, rest := [] }

/-- All the state of the package, and what is kept beside saved images. DESIGN CHOICE: log 19. -/
structure State where
  time     : Time
  whisk    : Whisk
  pestle   : Pestle
  lid      : Option Lid
  inReset  : Bool                      -- the Lid has halted every die, which stays so until cold reset (R472, R473)
  dies     : List Die
  links    : List Link                 -- L01, L02, L13, L23, then H0 to H3 (R12)
  parts    : List Part
  ctxs     : Dict CtxRef Ctx
  kernels  : Dict KRef Kernel
  gangs    : Dict GangRef Gang
  groups   : Dict GRef Group
  threads  : Dict TRef Thread
  holds    : Dict CCRef Holding
  cores    : Dict CoreRef Core
  mem      : List Host.Cell            -- HBM by physical address
  keyTag   : Tab Nat                   -- key under which a sector was last written, plus 1; 0 for none (R485)
  poison   : Tab Bool                  -- poisoned sectors (R494)
  regPois  : List (TRef × Nat)         -- registers with an uncorrectable error (R394)
  scrPois  : List (CCRef × Nat)        -- poisoned 8-byte words of scratchpads (R494)
  accPois  : List (CCRef × Nat)        -- poisoned 8-byte words of accumulator stores, two cells each (R494)
  hostAns  : List (Nat × Nat × Option (List Byte))  -- completions of host-window accesses: partition, address, the bytes read, or none for a refusal (R489)
  lines    : Dict Nat LineRec          -- homes of local lines, by line number
  pool     : Dict (Nat × Nat) PoolLine -- package homes of pooled lines, by partition and line number
  poolAge  : Nat
  freqs    : List FReq
  nextTag  : Nat
  outbox   : List Packet
  cur      : Option TRef
  issueQ   : List TRef
  agenda   : List Due
  fresh    : Nat
  moves    : Nat
  matMeta  : Dict CCRef MatKept                           -- what a saved core's records leave out of its matrix operands (log 19)
  copyMeta : Dict (CCRef × Nat) (List Copy × Nat)         -- the copies a saved channel holds, and the line it is parked on (log 19)
  swapMeta : Dict GRef (List (Nat × Nat) × List Nat)      -- slots and live banks of swapped-out groups, by which their images lie (log 19)
  vtMeta   : Dict (KRef × Nat × Nat) Kept                 -- by kernel, group number and rank, of threads that have been saved (log 19)
  codeOld  : Dict (KRef × Nat) (Byte × Nat)               -- by kernel and byte: what memory held before stores while the kernel ran, and the number of
                                                          -- the last such store (R83)
  notes    : List Note                                    -- bytes written while a copy that may reach them was unfinished (R310)
  sigs     : List SigWatch                                -- comparisons awaited at their homes (R365, R366)
  deriving DecidableEq, Repr

/-- What an address of HBM that nothing has written reads as (DESIGN CHOICE, log 3). -/
def memDefault : Byte := 0

/-- The package right after cold reset, before the boot chain runs (R9, R477). DESIGN CHOICE: log 4. -/
def State.reset : State :=
  { time := Time.reset, whisk := Whisk.reset, pestle := Pestle.reset, lid := none, inReset := false,
    dies := List.replicate 4 Die.reset, links := List.replicate 8 Link.reset, parts := List.replicate 4 Part.reset,
    ctxs := [], kernels := [], gangs := [], groups := [], threads := [], holds := [], cores := [], mem := [], keyTag := [],
    poison := [], regPois := [], scrPois := [], accPois := [], hostAns := [], lines := [], pool := [], poolAge := 0, freqs := [], nextTag := 0, outbox := [],
    cur := none, issueQ := [], agenda := [], fresh := 0, moves := 0, matMeta := [], copyMeta := [], swapMeta := [], vtMeta := [], codeOld := [], notes := [], sigs := [] }

/-- The memory's canonical form: addresses strictly rising, no entry equal to what an unlisted address reads as. DESIGN CHOICE: log 3. -/
def Memory.wf (m : List Host.Cell) : Bool := Tab.wf memDefault m

end Sys2Proof.Machine
end

