-- ==== Sys2Proof/Machine/Ops.lean ====
section
/-! DEFINITION. Named operations over the state: access to the objects, time, place tables, machine-check records, Ladle
events, faulting a context, taking a trap and returning from one. -/
namespace Sys2Proof.Machine
open Sys2Proof

/-! ### Lists -/

/-- The list with element n changed by f; a list shorter than that is unchanged. -/
def modNth {α : Type} : List α → Nat → (α → α) → List α
  | [], _, _ => []
  | a :: l, 0, f => f a :: l
  | a :: l, n + 1, f => a :: modNth l n f

/-- Put a value into a list that rises by a key, after its equals. -/
def insertBy {α : Type} (f : α → Nat) (a : α) : List α → List α
  | [] => [a]
  | b :: l => if f a < f b then a :: b :: l else b :: insertBy f a l

/-- A list in rising order of a key. -/
def sortBy {α : Type} (f : α → Nat) (l : List α) : List α := l.foldl (fun l a => insertBy f a l) []

/-- Bits hi down to lo of a number (R11). -/
def bitsOf (x hi lo : Nat) : Nat := (x >>> lo) % 2 ^ (hi + 1 - lo)

/-- The low n bits of x read as two's complement (R11 SignExt). -/
def signExt (x n : Nat) : Int :=
  let y : Nat := x % 2 ^ n
  if 2 * y < 2 ^ n then (y : Int) else (y : Int) - (2 ^ n : Nat)

/-- R11 Sat. -/
def satInt (x lo hi : Int) : Int := if x < lo then lo else if hi < x then hi else x

/-! ### Access to the objects -/

def State.thread? (s : State) (t : TRef) : Option Thread := s.threads.get? t
def State.setThread (s : State) (t : TRef) (x : Thread) : State := { s with threads := s.threads.set t x }
def State.modThread (s : State) (t : TRef) (f : Thread → Thread) : State :=
  match s.thread? t with
  | some x => s.setThread t (f x)
  | none => s

def Group.kref (x : Group) (g : GRef) : KRef := { part := g.part, ctx := g.ctx, kidx := x.kidx }
def Group.gangRef (x : Group) (g : GRef) : GangRef := { part := g.part, ctx := g.ctx, kidx := x.kidx, gang := x.gang }

def State.group? (s : State) (g : GRef) : Option Group := s.groups.get? g
def State.setGroup (s : State) (g : GRef) (x : Group) : State := { s with groups := s.groups.set g x }
def State.modGroup (s : State) (g : GRef) (f : Group → Group) : State :=
  match s.group? g with
  | some x => s.setGroup g (f x)
  | none => s

def State.holding (s : State) (c : CCRef) : Holding := s.holds.getD c Holding.empty
def State.setHolding (s : State) (c : CCRef) (x : Holding) : State := { s with holds := s.holds.set c x }
def State.modHolding (s : State) (c : CCRef) (f : Holding → Holding) : State := s.setHolding c (f (s.holding c))

def State.core (s : State) (c : CoreRef) : Core := s.cores.getD c Core.reset
def State.setCore (s : State) (c : CoreRef) (x : Core) : State := { s with cores := s.cores.set c x }
def State.modCore (s : State) (c : CoreRef) (f : Core → Core) : State := s.setCore c (f (s.core c))

def State.ctx (s : State) (c : CtxRef) : Ctx := s.ctxs.getD c Ctx.reset
def State.setCtx (s : State) (c : CtxRef) (x : Ctx) : State := { s with ctxs := s.ctxs.set c x }
def State.modCtx (s : State) (c : CtxRef) (f : Ctx → Ctx) : State := s.setCtx c (f (s.ctx c))

def State.kernel? (s : State) (k : KRef) : Option Kernel := s.kernels.get? k
def State.setKernel (s : State) (k : KRef) (x : Kernel) : State := { s with kernels := s.kernels.set k x }
def State.modKernel (s : State) (k : KRef) (f : Kernel → Kernel) : State :=
  match s.kernel? k with
  | some x => s.setKernel k (f x)
  | none => s

def State.gang? (s : State) (g : GangRef) : Option Gang := s.gangs.get? g
def State.setGang (s : State) (g : GangRef) (x : Gang) : State := { s with gangs := s.gangs.set g x }
def State.modGang (s : State) (g : GangRef) (f : Gang → Gang) : State :=
  match s.gang? g with
  | some x => s.setGang g (f x)
  | none => s

def State.part (s : State) (p : Nat) : Part := s.parts.getD p Part.reset
def State.modPart (s : State) (p : Nat) (f : Part → Part) : State := { s with parts := modNth s.parts p f }
def State.die (s : State) (d : Nat) : Die := s.dies.getD d Die.reset
def State.modDie (s : State) (d : Nat) (f : Die → Die) : State := { s with dies := modNth s.dies d f }
def State.queue (s : State) (q : QRef) : Queue := (s.part q.part).queues.getD q.q Queue.reset
def State.modQueue (s : State) (q : QRef) (f : Queue → Queue) : State :=
  s.modPart q.part fun p => { p with queues := modNth p.queues q.q f }
def State.modTime (s : State) (f : Time → Time) : State := { s with time := f s.time }
def State.modWhisk (s : State) (f : Whisk → Whisk) : State := { s with whisk := f s.whisk }
def State.modPestle (s : State) (f : Pestle → Pestle) : State := { s with pestle := f s.pestle }

def State.link (s : State) : LinkRef → Link
  | .port d p => (s.die d).ports.getD p Link.reset
  | .d2d l => s.links.getD l Link.reset

def State.modLink (s : State) (l : LinkRef) (f : Link → Link) : State :=
  match l with
  | .port d p => s.modDie d fun x => { x with ports := modNth x.ports p f }
  | .d2d n => { s with links := modNth s.links n f }

/-- The next operation number of a core, and the state that has used it. -/
def State.takeSeq (s : State) (c : CoreRef) : Nat × State :=
  ((s.core c).seq, s.modCore c fun x => { x with seq := x.seq + 1 })

/-- A free word and the state that has used it (R3; DESIGN CHOICE, log 6). -/
def State.freeWord (s : State) : Word × State := (Config.freeWord s.fresh, { s with fresh := s.fresh + 1 })

/-- n free bytes (R3; DESIGN CHOICE, log 6). -/
def State.freeBytes (s : State) (n : Nat) : List Byte × State :=
  ((List.range n).map fun i => Config.freeByte (s.fresh + i), { s with fresh := s.fresh + n })

/-! ### Identities and place tables (R14, R17 to R19) -/

/-- A die that DIEPART gives to a partition (R25). -/
def Die.isOf (d : Die) (p : Nat) : Bool := d.diepart.getLsbD 31 && d.diepart.toNat % 4 == p

/-- The physical dies of a partition in logical order: the valid entries of its DPT that name a die of it. -/
def State.partDies (s : State) (p : Nat) : List Nat :=
  (s.part p).dpt.filterMap fun e => if e.getLsbD 31 && (s.die (e.toNat % 4)).isOf p then some (e.toNat % 4) else none

def coreDie (core : Nat) : Nat := core / 36

/-- The quad number in the package (R14). -/
def coreQuad (core : Nat) : Nat := (core / 36) * 9 + (core % 36) / 4

/-- The physical die of a logical core of a partition (R18). -/
def State.physDie (s : State) (p core : Nat) : Nat := (s.partDies p).getD (coreDie core) 0

/-- Whether a logical core exists: its die lies in the partition and its CPT entry is valid. -/
def State.coreValid (s : State) (p core : Nat) : Bool :=
  decide (coreDie core < (s.partDies p).length) &&
    ((s.die (s.physDie p core)).cpt.getD (core % 36) 0).getLsbD 31

/-- Slice, slot and lane of a hardware thread index (R16). -/
def htidOf (slice slot lane : Nat) : Nat := slice * 512 + slot * 32 + lane
def htidSlice (h : Nat) : Nat := h / 512
def htidSlot (h : Nat) : Nat := (h / 32) % 16
def htidLane (h : Nat) : Nat := h % 32

/-- The pairs of adjacent dies, L01, L02, L13, L23 (R12). -/
def linkEnds : List (Nat × Nat) := [(0, 1), (0, 2), (1, 3), (2, 3)]

def adjacentDies (a b : Nat) : Bool := linkEnds.contains (a, b) || linkEnds.contains (b, a)

/-- The number of the host link of a die, after the four between dies (R12). -/
def hostLink (d : Nat) : LinkRef := .d2d (4 + d)

/-- A link state in which every class of traffic passes (R437). -/
def LSt.carries : LSt → Bool
  | .up | .degraded => true
  | _ => false

/-- A class that a link state lets pass: a quiesced port carries no request of its partition (R437). -/
def LSt.passes (st : LSt) (cls : Nat) : Bool :=
  match st with
  | .up | .degraded => true
  | .quiesced => cls == 1 || cls == 2 || cls == 3
  | _ => false

/-- The link between two adjacent dies carries traffic (R12); within a die none is needed. -/
def State.dieLink (s : State) (a b : Nat) : Bool :=
  a == b || match linkEnds.findIdx? fun e => e == (a, b) || e == (b, a) with
    | some n => (s.link (.d2d n)).st.carries
    | none => false

/-- A Ladle core of a partition is wired to its die's host link, and reaches the partition while that link carries traffic (R28). DEDUCED: log 60. -/
def State.ladleLinked (s : State) (part ladle : Nat) : Bool :=
  match (s.partDies part)[ladle / 3]? with
  | some d => (s.link (hostLink d)).st.carries
  | none => false

/-- Traffic passes from one die of a partition to another: over their link, or through one intermediate die of the partition, never
through the host die (R13). -/
def State.reaches (s : State) (part a b : Nat) : Bool :=
  s.dieLink a b || (s.partDies part).any fun m => m != a && m != b && s.dieLink a m && s.dieLink m b

/-! ### Time (R33 to R40) -/

/-- GTIME as a physical die's copy reads it (R34). DESIGN CHOICE: log 5. -/
def State.dieTime (s : State) (d : Nat) : DWord := s.time.gtime + BitVec.ofNat 64 (s.time.skew.getD d 0)

/-- The timing state of another domain is none of a new one's (R36). -/
def Time.newDomain (t : Time) (d : Nat) : Time :=
  { t with domain := d, masters := List.replicate 24 none, syncs := List.replicate 24 none, follows := List.replicate 24 none, egress := none,
           delay := none, reqOut := false }

/-- GTIME as a core reads it. -/
def State.coreTime (s : State) (c : CoreRef) : DWord := s.dieTime (s.physDie c.part c.core)

/-- EPSILON (R38). -/
def State.epsilon (s : State) : Nat :=
  match s.time.st with
  | .disciplined => 640
  | .holdover => min (640 + (s.time.gtime - s.time.lastOk).toNat / 2 ^ 24) 4000
  | _ => 0xFFFFFFFF

/-- DISCIPLINED or HOLDOVER: pod-scope ordering is allowed (R39). -/
def State.podOk (s : State) : Bool := s.time.st == .disciplined || s.time.st == .holdover

def TimeSt.code : TimeSt → Nat
  | .unset => 0
  | .acquiring => 1
  | .disciplined => 2
  | .holdover => 3
  | .lost => 4

/-- VTIME of a context at a GTIME (R40). -/
def Ctx.vtime (x : Ctx) (g : DWord) : DWord := if x.paused then x.vhalt else g - x.pauseoff

def State.ctxVtime (s : State) (c : CtxRef) (g : DWord) : DWord := (s.ctx c).vtime g

/-! ### Machine-check records (R492, R493, R499) -/

inductive McClass where
  | memory | firewall | time | trap | context | power | fabric | firmware | hostWindow
  deriving DecidableEq, Repr

/-- DEDUCED: log 68. -/
def McClass.code : McClass → Nat
  | .memory => 1
  | .firewall => 2
  | .time => 3
  | .trap => 4
  | .context => 5
  | .power => 6
  | .fabric => 7
  | .firmware => 8
  | .hostWindow => 9

/-- The record's bits (R492). DEDUCED: log 68. -/
def mcBits (gtime addr synd ctx seq unit : Nat) (part : Option Nat) (sev : Nat) (cls : McClass) : McRecord :=
  BitVec.ofNat 512 (gtime % 2 ^ 64 * 2 ^ 448 + addr % 2 ^ 64 * 2 ^ 384 + synd % 2 ^ 64 * 2 ^ 320 + ctx % 2 ^ 16 * 2 ^ 240
    + seq % 2 ^ 16 * 2 ^ 224 + unit % 2 ^ 16 * 2 ^ 208
    + (match part with | some p => p % 4 * 2 ^ 206 + 2 ^ 205 | none => 0) + sev % 4 * 2 ^ 192 + cls.code * 2 ^ 184)

/-- A ring of at most 1,024 records: a record written to a full ring overwrites the oldest (R493). -/
def mcPush (ring : List McRecord) (r : McRecord) : List McRecord :=
  if ring.length < 1024 then ring ++ [r] else ring.drop 1 ++ [r]

/-- Write a machine-check record into the ring of its partition, or into the operator ring (R493). DEDUCED: log 68. -/
def State.mcRecord (s : State) (part : Option Nat) (cls : McClass) (sev : Nat) (addr synd ctx unit : Nat) : State :=
  match part with
  | some p => s.modPart p fun x =>
      { x with mc := mcPush x.mc (mcBits s.time.gtime.toNat addr synd ctx x.mcSeq unit (some p) sev cls),
               mcSeq := (x.mcSeq + 1) % 2 ^ 16 }
  | none => s.modPestle fun x =>
      { x with mc := mcPush x.mc (mcBits s.time.gtime.toNat addr synd ctx x.mcSeq unit none sev cls),
               mcSeq := (x.mcSeq + 1) % 2 ^ 16 }

/-! ### Ladle events (R385) -/

/-- Send an event: a source holds at most one pending event per key, and a full queue holds it back (R385). -/
def State.ladleEvent (s : State) (p : Nat) (e : LEvent) : State :=
  s.modPart p fun x =>
    if (x.events.any fun y => y.1 = e && y.2.isNone) || x.heldEv.contains e then x
    else if x.events.length < 65536 then { x with events := x.events ++ [(e, none)] }
    else { x with heldEv := x.heldEv ++ [e] }

/-! ### The objects of a context -/

def State.ctxThreads (s : State) (c : CtxRef) : List (TRef × Thread) := s.threads.filter fun e => e.1.ctxRef = c
def State.ctxGroups (s : State) (c : CtxRef) : List (GRef × Group) := s.groups.filter fun e => e.1.ctxRef = c
def State.groupThreads (s : State) (g : GRef) : List (TRef × Thread) := s.threads.filter fun e => e.1.group = g

/-- A context whose threads may issue: ACTIVE, with no halt under way (R413, R424). -/
def State.ctxRuns (s : State) (c : CtxRef) : Bool := (s.ctx c).st == .active && !(s.ctx c).issueOff && !s.inReset

/-- A context that holds cores (R414). -/
def CSt.holdsCores : CSt → Bool
  | .active | .halting | .saving => true
  | _ => false

/-- A context the Whisk knows (R411). -/
def State.ctxExists (s : State) (c : CtxRef) : Bool := (s.ctx c).ctxsa.getLsbD 63

/-- A queue's packet is over: nothing is held, watched or in progress. -/
def Queue.settled (q : Queue) : Queue := { q with hold := 0, inval := none, watch := [], todo := false, held := [] }

/-- A queue enters ERROR with a code (R373, R377). -/
def Queue.fail (q : Queue) (code : Nat) : Queue := { q.settled with st := .error, err := code }

/-- A queue takes Reset; one whose Disable waited for the packet in progress is then DISABLED, with the code (R373). -/
def Queue.reset' (q : Queue) : Queue :=
  match q.st with
  | .idle | .running | .blocked => if q.en then q.fail 0x08 else { q.fail 0x08 with st := .disabled }
  | _ => q

/-- The queues bound to a context take Reset (R373). -/
def State.resetQueues (s : State) (c : CtxRef) : State :=
  s.modPart c.part fun p => { p with queues := p.queues.map fun q => if q.qctx = c.ctx then q.reset' else q }

/-- The kernel handle of a FEED that a queue holds (R376, R378). -/
def Queue.heldFeed (q : Queue) : Option DWord :=
  if q.st = .blocked ∧ (q.held.getD 0 0).toNat = 2 then
    some ((List.range 8).foldr (fun i a => a * 256 + (q.held.getD (8 + i) 0).setWidth 64) 0)
  else none

/-- A FEED held for a kernel of a context is refused with KERNEL. -/
def Queue.refuseFeed (ctx : Nat) (handle : DWord) (q : Queue) : Queue := if q.qctx = ctx ∧ q.heldFeed = some handle then q.fail 0x05 else q

/-- A kernel's queue is closed, or it leaves LOADED, RESIDENT and FED: every held FEED that names it is refused with KERNEL (R378). -/
def State.refuseFeeds (s : State) (k : KRef) : State :=
  match s.kernel? k with
  | none => s
  | some y => s.modPart k.part fun p => { p with queues := p.queues.map (Queue.refuseFeed k.ctx y.handle) }

/-- The kernels of a context take Reset (R356). -/
def State.resetKernels (s : State) (c : CtxRef) : State :=
  { s with kernels := s.kernels.map fun e =>
      if e.1.part = c.part ∧ e.1.ctx = c.ctx then (e.1, { e.2 with st := .retired, head := e.2.tail, closed := true }) else e }

/-! ### Banks (R131, R133, R254) -/

/-- The physical row of a context's window in a slice (R131). -/
def Holding.rowOf (x : Holding) (sl w : Nat) : Nat := (x.rows.getD sl []).getD w w

/-- Whether a thread holds a live window in a register bank, named by slice, row and lane. -/
def Thread.liveAt (x : Thread) (h : Holding) (b : Nat × Nat × Nat) : Bool :=
  htidSlice x.htid == b.1 && htidLane x.htid == b.2.2 && (List.range 8).any fun w => x.live.getLsbD w && h.rowOf b.1 w == b.2.1

/-- Whether a group that has not started will hold a live window in a register bank (R117). -/
def Group.startsAt (y : Group) (h : Holding) (b : Nat × Nat × Nat) : Bool :=
  y.st == .allocated && (y.slots.any fun p => p.1 == b.1) && (List.range y.w).any fun w => h.rowOf b.1 w == b.2.1

/-- Whether a slot that a register bank serves has its window live (R133). -/
def State.bankHeld (s : State) (c : CoreRef) (b : Nat × Nat × Nat) : Bool :=
  (s.threads.any fun e => e.1.coreRef == c && e.2.liveAt (s.holding e.1.ccRef) b)
    || s.groups.any fun e => e.1.coreRef == c && e.2.startsAt (s.holding e.1.ccRef) b

/-- Whether a scratchpad bank of a core is granted. -/
def State.scrHeld (s : State) (c : CoreRef) (bank : Nat) : Bool :=
  s.holds.any fun e => e.1.coreRef == c && e.2.banks.any fun b => b.1 == bank

/-- Whether an accumulator tile of a core is granted. -/
def State.tileHeld (s : State) (c : CoreRef) (tile : Nat) : Bool :=
  s.holds.any fun e => e.1.coreRef == c && e.2.tiles.any fun b => b.1 == tile

/-- Whether a copy of a kind is unfinished in a context of some sort, queued on a core or in a saved image (R310). -/
def State.copyOpen (s : State) (of : CtxRef → Bool) (k : CopyKind → Bool) : Bool :=
  (s.holds.any fun e => of e.1.ctxRef && e.2.chans.any fun ch => ch.2.q.any fun cp => k cp.kind)
    || s.copyMeta.any fun e => of e.1.1.ctxRef && e.2.1.any fun cp => k cp.kind

/-- Log entries in use on a core, of whatever context (R121, R428). -/
def State.logUsed (s : State) (part core : Nat) : List Nat :=
  (s.holds.filter fun e => e.1.part == part && e.1.core == core).flatMap fun e => e.2.olog.map (·.1)

/-- Zeroise and free everything a context holds on the cores (R414). Stores and atomics that have left still reach their homes. -/
def State.freeCtx (s : State) (c : CtxRef) : State :=
  let s := { s with
    threads := s.threads.filter fun e => e.1.ctxRef ≠ c
    groups  := s.groups.filter fun e => e.1.ctxRef ≠ c
    gangs   := s.gangs.filter fun e => ¬ (e.1.part = c.part ∧ e.1.ctx = c.ctx)
    holds   := s.holds.filter fun e => e.1.ctxRef ≠ c
    issueQ  := s.issueQ.filter fun t => t.ctxRef ≠ c
    regPois := s.regPois.filter fun e => e.1.ctxRef ≠ c
    scrPois := s.scrPois.filter fun e => e.1.ctxRef ≠ c
    accPois := s.accPois.filter fun e => e.1.ctxRef ≠ c
    sigs    := s.sigs.filter fun w => w.thr.ctxRef ≠ c }
  { s with
    cores   := s.cores.map fun e =>
      if e.1.part = c.part then
        (e.1, { e.2 with
          mops := e.2.mops.filter fun m => ¬ (m.thr.ctxRef = c ∧ (m.kind = .load ∨ m.kind = .acquire ∨ m.kind = .pref))
          mmas := e.2.mmas.filter fun m => m.ctx ≠ c.ctx
          regPow := e.2.regPow.filter fun b => s.bankHeld e.1 b.1
          scrPow := e.2.scrPow.filter fun b => s.scrHeld e.1 b.1
          tilePow := e.2.tilePow.filter fun b => s.tileHeld e.1 b.1
          l1 := if (s.part c.part).running = some c.ctx then [] else e.2.l1
          slices := e.2.slices.map fun x => { x with table := if (s.part c.part).running = some c.ctx then [] else x.table } })
      else e }

/-- The context of a partition that is active, or was last. -/
def State.lastCtx (s : State) (part : Nat) : CtxRef := { part := part, ctx := (s.part part).last.getD 0 }

/-- What is kept beside a context's image goes (DESIGN CHOICE, log 19). -/
def State.dropMeta (s : State) (x : CtxRef) : State :=
  { s with
    vtMeta := s.vtMeta.filter fun e => ({ part := e.1.1.part, ctx := e.1.1.ctx } : CtxRef) != x
    copyMeta := s.copyMeta.filter fun e : (CCRef × Nat) × List Copy × Nat => e.1.1.ctxRef != x
    matMeta := s.matMeta.filter fun e : CCRef × MatKept => e.1.ctxRef != x
    swapMeta := s.swapMeta.filter fun e : GRef × (List (Nat × Nat) × List Nat) => e.1.ctxRef != x }

/-- What is kept beside an image goes from one owner to another, which has none (DESIGN CHOICE, log 19). -/
def State.rekey (s : State) (a b : CtxRef) : State :=
  let s := s.dropMeta b
  { s with
    vtMeta := s.vtMeta.map fun e => if e.1.1.part = a.part ∧ e.1.1.ctx = a.ctx then (({ e.1.1 with part := b.part, ctx := b.ctx }, e.1.2), e.2) else e
    copyMeta := s.copyMeta.map fun e : (CCRef × Nat) × List Copy × Nat =>
      if e.1.1.ctxRef = a then (({ e.1.1 with part := b.part, ctx := b.ctx }, e.1.2), e.2) else e
    matMeta := s.matMeta.map fun e : CCRef × MatKept => if e.1.ctxRef = a then ({ e.1 with part := b.part, ctx := b.ctx }, e.2) else e
    swapMeta := s.swapMeta.map fun e : GRef × (List (Nat × Nat) × List Nat) =>
      if e.1.ctxRef = a then ({ e.1 with part := b.part, ctx := b.ctx }, e.2) else e }

/-- The owner of what is kept beside the image in a save area while no context has it. -/
def areaOwner (part base : Nat) : CtxRef := { part := part + 4, ctx := base }

/-- Whether a context of a partition is being halted or saved. -/
def State.spilling (s : State) (p : Nat) : Bool := s.ctxs.any fun e => e.1.part == p && (e.2.st == .halting || e.2.st == .saving)

/-- No access of a partition is under way: a context comes in only then, so that no write of one that Fault or Revoke ended lands after it has
begun (R414, R425). DEDUCED: log 55. -/
def State.quiet (s : State) (p : Nat) : Bool := s.cores.all fun e => e.1.part != p || (e.2.mops.isEmpty && e.2.wc.isEmpty)

/-- The restore of the next context begins once no other holds the cores or is being saved (R413 Load); a STAGED one that passed the checks flips. -/
def State.startLoad (s : State) (p : Nat) : State :=
  match (s.part p).running, (s.part p).next with
  | none, some n =>
    let x : CtxRef := { part := p, ctx := n }
    if s.spilling p then s
    else match (s.ctx x).st with
      | .saved | .staging => s.modCtx x fun y => { y with st := .loading, since := s.time.gtime }
      | .staged => if (s.part p).flip then s else s.modCtx x fun y => { y with st := .loading, since := s.time.gtime, shadow := [] }
      | _ => s
  | _, _ => s

/-- The end that Fault and Revoke share (R414): resources freed, queues and kernels reset, the cores given up. -/
def State.endCtx (s : State) (c : CtxRef) (st : CSt) : State :=
  let s := ((((s.freeCtx c).resetQueues c).resetKernels c).modCtx c fun x => { x with st := st, issueOff := false, shadow := [] }).dropMeta c
  (s.modPart c.part fun p =>
    { p with running := if p.running = some c.ctx then none else p.running,
             next := if p.next = some c.ctx then none else p.next }).startLoad c.part

/-- Context states on which Fault acts (R413): EMPTY, REVOKED and FAULTED stay; SAVED has no such event. -/
def CSt.canFault : CSt → Bool
  | .staging | .staged | .active | .halting | .saving | .loading | .saved => true
  | _ => false

/-! ### Traps (R393 to R398) -/

def Cause.code : Cause → BitVec 8
  | .undef => 0x01
  | .deadreg => 0x02
  | .deadscr => 0x03
  | .role => 0x04
  | .budget => 0x05
  | .badtarget => 0x06
  | .badwin => 0x07
  | .spforeign => 0x08
  | .align => 0x09
  | .page => 0x0A
  | .perm => 0x0B
  | .keygone => 0x0C
  | .scope => 0x0D
  | .mismatch => 0x0E
  | .ringphase => 0x0F
  | .step => 0x10
  | .bkpt => 0x11
  | .trap => 0x12
  | .mcheck => 0x13
  | .timelost => 0x14

/-- The cause class of the log and the fault event (R285). -/
def Cause.ccls : Cause → Nat
  | .perm => 1
  | .keygone => 2
  | _ => 0

/-- The wait reason a phase reports (R119, R500). DEDUCED: log 69. -/
def Phase.reason : Phase → Option Reason
  | .rejoin _ => some .rejoin
  | .barrier _ => some .barrier
  | .rendezvous .. => some .rendezvous
  | .address .. => some .address
  | .sleep => some .sleep
  | .sign .. | .matOp | .mwait .. | .cvIdle _ | .mlive _ => some .matrix
  | .chanRoom .. | .chanPtr .. | .chanDrain _ => some .channel
  | .ring .. => some .ring
  | .pushRoom .. | .launchRoom _ => some .launch
  | .pop _ | .signal .. | .swapArr .. => some .signal
  | .rewait r => some r
  | _ => Option.none

/-- A thread whose instruction holds its slice's probe slot (R280). -/
def Phase.probing : Phase → Bool
  | .walk _ | .walked .. => true
  | _ => false

/-- The state a thread goes back to (R120). -/
def Thread.back (x : Thread) : TSt := if x.h then .trapped else .ready

/-- The record of a thread that has taken a trap: the handler's first instruction is eligible 8 slice cycles later (R396). -/
def Thread.trapped (x : Thread) (handler : Pc) (cause : Cause) (epc taddr : DWord) (tinfo : Word) : Thread :=
  { x with epc := epc, taddr := taddr, tinfo := tinfo, cause := cause.code, h := true, st := .trapped, pc := handler,
           ph := .none, cur := none, deadline := none, gap := 7 }

/-- PC as a 64-bit address. -/
def pcWord (pc : Pc) : DWord := pc.setWidth 64

/-- The operand-log entries a thread holds, but for those delivering a trap: NPARK (R395). DEDUCED: log 25. -/
def Holding.nparkOf (x : Holding) (grp rank : Nat) : Nat :=
  (x.olog.filter fun e => e.2.grp = grp ∧ e.2.rank = rank ∧ e.2.stat ≠ .delivering).length

/-- NPARK of a thread (R395). DEDUCED: log 25. -/
def State.npark (s : State) (t : TRef) : Nat := (s.holding t.ccRef).nparkOf t.grp t.rank

/-- Free the log entries that deliver a trap to a thread: at its next TRET or EXIT (R399). -/
def State.freeDelivered (s : State) (t : TRef) : State :=
  s.modHolding t.ccRef fun x => { x with olog := x.olog.filter fun e =>
    ¬ (e.2.grp = t.grp ∧ e.2.rank = t.rank ∧ e.2.stat = .delivering ∧
       ¬ ((s.thread? t).any fun y => y.deferred.any fun d => d.entry = some e.1)) }

end Sys2Proof.Machine
end

