-- ==== Sys2Proof/Machine/Operands.lean ====
section
/-! DEFINITION. Operand forms: which registers and predicates an instruction reads and writes (04_encoding.md R89, R90, R103 to
R106), which roles may issue it (R102), reading and writing registers and predicates with window death and revival
(05_group.md R128 to R130), and how an instruction's results are written. -/
namespace Sys2Proof
open Sys2Proof

/-- The registers an instruction reads and writes, as first register and count, and its predicates. The guard is apart. -/
structure Uses where
  rv : List (VReg × Nat)
  wv : List (VReg × Nat)
  rp : List PReg
  wp : List PReg
  deriving DecidableEq, Repr

def Src.regs : Src → List (VReg × Nat)
  | .reg r => [(r, 1)]
  | .imm _ => []

def DstVP.regs : DstVP → List (VReg × Nat)
  | .v r => [(r, 1)]
  | .p _ => []

def DstVP.preds : DstVP → List PReg
  | .v _ => []
  | .p r => [r]

def SrcVP.regs : SrcVP → List (VReg × Nat)
  | .v r => [(r, 1)]
  | _ => []

def SrcVP.preds : SrcVP → List PReg
  | .p r => [r]
  | _ => []

def optReg (r : Option VReg) (n : Nat) : List (VReg × Nat) :=
  match r with
  | some x => [(x, n)]
  | none => []

/-- Registers of an integer operand of a conversion: a pair for 64 bits (R104). -/
def ITy.regs : ITy → Nat
  | .i64 | .n64 => 2
  | _ => 1

def sysRegs (n : BitVec 12) : Nat := if sysWide n = some true then 2 else 1

def allPreds : List PReg := (List.range 15).map fun i => BitVec.ofNat 4 i

/-- The operands of an instruction by its row (R103 to R106). -/
def Instr.uses : Instr → Uses
  | .brx _ a _ => ⟨[(a, 2)], [], [], []⟩
  | .call _ d _ => ⟨[], [(d, 2)], [], []⟩
  | .callx _ d a _ => ⟨[(a, 2)], [(d, 2)], [], []⟩
  | .ret _ a => ⟨[(a, 2)], [], [], []⟩
  | .jstat _ d _ => ⟨[], [(d, 1)], [], []⟩
  | .sleep _ a _ => ⟨(optReg a 1), [], [], []⟩
  | .shfl _ _ vp d a b c => ⟨a.regs ++ b.regs ++ (optReg c 1), [(d, 1)], [], vp.toList⟩
  | .vote _ _ d a c => ⟨(optReg c 1), [], [a], [d]⟩
  | .ballot _ d a c => ⟨(optReg c 1), [(d, 1)], [a], []⟩
  | .matchLanes _ _ _ d a c => ⟨[(a, 1)] ++ (optReg c 1), [(d, 1)], [], []⟩
  | .redux _ _ _ d a c => ⟨[(a, 1)] ++ (optReg c 1), [(d, 1)], [], []⟩
  | .scan _ _ _ _ d a c => ⟨[(a, 1)] ++ (optReg c 1), [(d, 1)], [], []⟩
  | .elect _ d c => ⟨(optReg c 1), [], [], [d]⟩
  | .present _ d c => ⟨(optReg c 1), [(d, 1)], [], []⟩
  | .iadd _ _ _ d a b => ⟨a.regs ++ b.regs, [(d, 1)], [], []⟩
  | .iaddImm _ _ _ d a _ => ⟨a.regs, [(d, 1)], [], []⟩
  | .isub _ _ _ d a b => ⟨a.regs ++ b.regs, [(d, 1)], [], []⟩
  | .isubImm _ _ _ d a _ => ⟨a.regs, [(d, 1)], [], []⟩
  | .imul _ _ d a b => ⟨a.regs ++ b.regs, [(d, 1)], [], []⟩
  | .imulImm _ _ d a _ => ⟨a.regs, [(d, 1)], [], []⟩
  | .imulh _ _ d a b => ⟨a.regs ++ b.regs, [(d, 1)], [], []⟩
  | .imulhImm _ _ d a _ => ⟨a.regs, [(d, 1)], [], []⟩
  | .imad _ _ _ d a b c => ⟨[(a, 1)] ++ b.regs ++ c.regs, [(d, 1)], [], []⟩
  | .imin _ _ d a b => ⟨a.regs ++ b.regs, [(d, 1)], [], []⟩
  | .iminImm _ _ d a _ => ⟨a.regs, [(d, 1)], [], []⟩
  | .imax _ _ d a b => ⟨a.regs ++ b.regs, [(d, 1)], [], []⟩
  | .imaxImm _ _ d a _ => ⟨a.regs, [(d, 1)], [], []⟩
  | .iabs _ _ d a => ⟨[(a, 1)], [(d, 1)], [], []⟩
  | .ineg _ _ d a => ⟨[(a, 1)], [(d, 1)], [], []⟩
  | .andW _ d a b => ⟨a.regs ++ b.regs, [(d, 1)], [], []⟩
  | .andWImm _ d a _ => ⟨a.regs, [(d, 1)], [], []⟩
  | .orW _ d a b => ⟨a.regs ++ b.regs, [(d, 1)], [], []⟩
  | .orWImm _ d a _ => ⟨a.regs, [(d, 1)], [], []⟩
  | .xorW _ d a b => ⟨a.regs ++ b.regs, [(d, 1)], [], []⟩
  | .xorWImm _ d a _ => ⟨a.regs, [(d, 1)], [], []⟩
  | .andnW _ d a b => ⟨a.regs ++ b.regs, [(d, 1)], [], []⟩
  | .andnWImm _ d a _ => ⟨a.regs, [(d, 1)], [], []⟩
  | .notW _ d a => ⟨[(a, 1)], [(d, 1)], [], []⟩
  | .popc _ d a => ⟨[(a, 1)], [(d, 1)], [], []⟩
  | .clz _ d a => ⟨[(a, 1)], [(d, 1)], [], []⟩
  | .brev _ d a => ⟨[(a, 1)], [(d, 1)], [], []⟩
  | .shl _ d a b => ⟨a.regs ++ b.regs, [(d, 1)], [], []⟩
  | .shlImm _ d a _ => ⟨a.regs, [(d, 1)], [], []⟩
  | .shr _ d a b => ⟨a.regs ++ b.regs, [(d, 1)], [], []⟩
  | .shrImm _ d a _ => ⟨a.regs, [(d, 1)], [], []⟩
  | .sar _ d a b => ⟨a.regs ++ b.regs, [(d, 1)], [], []⟩
  | .sarImm _ d a _ => ⟨a.regs, [(d, 1)], [], []⟩
  | .rot _ d a b => ⟨a.regs ++ b.regs, [(d, 1)], [], []⟩
  | .rotImm _ d a _ => ⟨a.regs, [(d, 1)], [], []⟩
  | .funnel _ _ d a b c => ⟨[(a, 1)] ++ [(b, 1)] ++ c.regs, [(d, 1)], [], []⟩
  | .bfe _ _ d a b => ⟨[(a, 1), (b, 1)], [(d, 1)], [], []⟩
  | .bfeImm _ _ d a _ => ⟨[(a, 1)], [(d, 1)], [], []⟩
  | .bfi _ d a b c => ⟨[(a, 1)] ++ [(b, 1)] ++ c.regs, [(d, 1)], [], []⟩
  | .perm _ d a b c => ⟨[(a, 1)] ++ [(b, 1)] ++ [(c, 1)], [(d, 1)], [], []⟩
  | .sel _ d a b c => ⟨a.regs ++ b.regs, [(d, 1)], [c], []⟩
  | .iset _ _ _ d a b => ⟨[(a, 1)] ++ b.regs, d.regs, [], d.preds⟩
  | .isetImm _ _ _ d a _ => ⟨[(a, 1)], d.regs, [], d.preds⟩
  | .plop _ _ d a b c => ⟨[], [], [a] ++ [b] ++ [c], [d]⟩
  | .mov _ d a => ⟨a.regs, d.regs, a.preds, d.preds⟩
  | .movi _ d _ => ⟨[], [(d, 1)], [], []⟩
  | .lea _ _ _ d a b => ⟨[(a, 2)] ++ [(b, 1)], [(d, 2)], [], []⟩
  | .iadd64 _ d a b => ⟨[(a, 2)] ++ [(b, 2)], [(d, 2)], [], []⟩
  | .iadd64Imm _ d a _ => ⟨[(a, 2)], [(d, 2)], [], []⟩
  | .idiv _ _ _ d a b => ⟨[(a, 1)] ++ [(b, 1)], [(d, 1)], [], []⟩
  | .dot4 _ _ _ _ d a b c => ⟨[(a, 1)] ++ [(b, 1)] ++ [(c, 1)], [(d, 1)], [], []⟩
  | .fadd _ _ _ d a b => ⟨a.regs ++ b.regs, [(d, 1)], [], []⟩
  | .faddImm _ _ _ d a _ => ⟨a.regs, [(d, 1)], [], []⟩
  | .fsub _ _ _ d a b => ⟨a.regs ++ b.regs, [(d, 1)], [], []⟩
  | .fsubImm _ _ _ d a _ => ⟨a.regs, [(d, 1)], [], []⟩
  | .fmul _ _ _ d a b => ⟨a.regs ++ b.regs, [(d, 1)], [], []⟩
  | .fmulImm _ _ _ d a _ => ⟨a.regs, [(d, 1)], [], []⟩
  | .fdiv _ _ _ d a b => ⟨a.regs ++ b.regs, [(d, 1)], [], []⟩
  | .fdivImm _ _ _ d a _ => ⟨a.regs, [(d, 1)], [], []⟩
  | .ffma _ _ _ d a b c => ⟨[(a, 1)] ++ b.regs ++ c.regs, [(d, 1)], [], []⟩
  | .fmin _ _ d a b => ⟨a.regs ++ b.regs, [(d, 1)], [], []⟩
  | .fminImm _ _ d a _ => ⟨a.regs, [(d, 1)], [], []⟩
  | .fmax _ _ d a b => ⟨a.regs ++ b.regs, [(d, 1)], [], []⟩
  | .fmaxImm _ _ d a _ => ⟨a.regs, [(d, 1)], [], []⟩
  | .fset _ _ _ d a b => ⟨[(a, 1)] ++ b.regs, d.regs, [], d.preds⟩
  | .fsetImm _ _ _ d a _ => ⟨[(a, 1)], d.regs, [], d.preds⟩
  | .fclass _ d a => ⟨[(a, 1)], [(d, 1)], [], []⟩
  | .frnd _ _ _ d a => ⟨[(a, 1)], [(d, 1)], [], []⟩
  | .fsqrt _ _ _ d a => ⟨[(a, 1)], [(d, 1)], [], []⟩
  | .frcp _ _ d a => ⟨[(a, 1)], [(d, 1)], [], []⟩
  | .frsq _ _ d a => ⟨[(a, 1)], [(d, 1)], [], []⟩
  | .fex2 _ _ d a => ⟨[(a, 1)], [(d, 1)], [], []⟩
  | .flg2 _ _ d a => ⟨[(a, 1)], [(d, 1)], [], []⟩
  | .fsin _ _ d a => ⟨[(a, 1)], [(d, 1)], [], []⟩
  | .fcos _ _ d a => ⟨[(a, 1)], [(d, 1)], [], []⟩
  | .ftanh _ _ d a => ⟨[(a, 1)], [(d, 1)], [], []⟩
  | .hadd2 _ _ _ _ d a b => ⟨a.regs ++ b.regs, [(d, 1)], [], []⟩
  | .hadd2Imm _ _ _ _ d a _ => ⟨a.regs, [(d, 1)], [], []⟩
  | .hmul2 _ _ _ _ d a b => ⟨a.regs ++ b.regs, [(d, 1)], [], []⟩
  | .hmul2Imm _ _ _ _ d a _ => ⟨a.regs, [(d, 1)], [], []⟩
  | .hfma2 _ _ _ _ d a b c => ⟨[(a, 1)] ++ b.regs ++ c.regs, [(d, 1)], [], []⟩
  | .hmnx2 _ _ _ _ d a b => ⟨a.regs ++ b.regs, [(d, 1)], [], []⟩
  | .hmnx2Imm _ _ _ _ d a _ => ⟨a.regs, [(d, 1)], [], []⟩
  | .f2i _ _ _ it d a => ⟨[(a, 1)], [(d, it.regs)], [], []⟩
  | .i2f _ _ _ it d a => ⟨[(a, it.regs)], [(d, 1)], [], []⟩
  | .f2f _ _ _ _ _ d a => ⟨[(a, 1)], [(d, 1)], [], []⟩
  | .qcvt _ _ _ d a b => ⟨[(a, 4)], [(d, 1)], [], [b, b + 1, b + 2, b + 3]⟩
  | .dqcvt _ _ d a => ⟨[(a, 1)], [(d, 4)], [], []⟩
  | .qpack _ _ d a b => ⟨[(a, 1)] ++ [(b, 1)], [(d, 1)], [], []⟩
  | .fdot2 _ _ _ d a b c => ⟨[(a, 1)] ++ [(b, 1)] ++ [(c, 1)], [(d, 1)], [], []⟩
  | .fscale _ _ _ d a b => ⟨[(a, 1)] ++ b.regs, [(d, 1)], [], []⟩
  | .fscaleImm _ _ _ d a _ => ⟨[(a, 1)], [(d, 1)], [], []⟩
  | .sadd _ d a b => ⟨[(a, 1)] ++ [(b, 1)], [(d, 1)], [], []⟩
  | .ssub _ d a b => ⟨[(a, 1)] ++ [(b, 1)], [(d, 1)], [], []⟩
  | .smul _ d a b => ⟨[(a, 1)] ++ [(b, 1)], [(d, 1)], [], []⟩
  | .sdiv _ d a b => ⟨[(a, 1)] ++ [(b, 1)], [(d, 1)], [], []⟩
  | .ssq _ d a => ⟨[(a, 1)], [(d, 1)], [], []⟩
  | .sexp _ d a => ⟨[(a, 1)], [(d, 1)], [], []⟩
  | .sln _ d a => ⟨[(a, 1)], [(d, 1)], [], []⟩
  | .scmp _ _ d a b => ⟨[(a, 1)] ++ [(b, 1)], d.regs, [], d.preds⟩
  | .sclass _ d a => ⟨[(a, 1)], [(d, 1)], [], []⟩
  | .scvtSliF32 _ d a => ⟨[(a, 1)], [(d, 1)], [], []⟩
  | .scvtF32Sli _ d a => ⟨[(a, 1)], [(d, 1)], [], []⟩
  | .srecip _ d a => ⟨[(a, 1)], [(d, 1)], [], []⟩
  | .ld _ sz _ d a b _ => ⟨[(a, 2)] ++ (optReg b 1), [(d, sz.regs)], [], []⟩
  | .ldSp _ sz _ d a b _ => ⟨[(a, 1)] ++ (optReg b 1), [(d, sz.regs)], [], []⟩
  | .st _ sz _ d a b _ => ⟨[(d, sz.regs)] ++ [(a, 2)] ++ (optReg b 1), [], [], []⟩
  | .stSp _ sz _ d a b _ => ⟨[(d, sz.regs)] ++ [(a, 1)] ++ (optReg b 1), [], [], []⟩
  | .atom _ _ ty _ _ d a _ b => ⟨[(a, 2)] ++ [(b, ty.regs)], [(d, ty.regs)], [], []⟩
  | .cas _ ty _ _ d a _ b => ⟨[(a, 2)] ++ [(b, (2 * ty.regs))], [(d, ty.regs)], [], []⟩
  | .red _ _ ty _ _ a _ b => ⟨[(a, 2)] ++ [(b, ty.regs)], [], [], []⟩
  | .waitaddr _ a _ b => ⟨[(a, 2)] ++ (optReg b 1), [], [], []⟩
  | .sptest _ d a => ⟨[(a, 2)], [(d, 1)], [], []⟩
  | .spcastGen _ d a => ⟨[(a, 1)], [(d, 2)], [], []⟩
  | .spcastSp _ d a => ⟨[(a, 2)], [(d, 1)], [], []⟩
  | .pref _ _ a b _ => ⟨[(a, 2)] ++ (optReg b 1), [], [], []⟩
  | .cctlInv _ a _ => ⟨[(a, 2)], [], [], []⟩
  | .cctlWb _ a _ => ⟨[(a, 2)], [], [], []⟩
  | .gwmax _ d => ⟨[], [(d, 2)], [], []⟩
  | .tcopy _ _ a => ⟨[(a, 2)], [], [], []⟩
  | .tstore _ _ a => ⟨[(a, 2)], [], [], []⟩
  | .tcopys _ _ a => ⟨[(a, 2)], [], [], []⟩
  | .chptr _ d _ b => ⟨b.regs, [(d, 1)], [], []⟩
  | .chwait _ _ b => ⟨[(b, 1)], [], [], []⟩
  | .chstat _ d _ => ⟨[], [(d, 1)], [], []⟩
  | .ringinit _ _ b c => ⟨[(b, 1)] ++ c.regs, [], [], []⟩
  | .ringacqProd _ d _ => ⟨[], [(d, 1)], [], []⟩
  | .ringacqCons _ d _ => ⟨[], [(d, 1)], [], []⟩
  | .ringwaitProd _ _ b => ⟨b.regs, [], [], []⟩
  | .ringwaitCons _ _ b => ⟨b.regs, [], [], []⟩
  | .mma _ _ _ _ a b c => ⟨[(a, 1)] ++ [(b, 1)] ++ [(c, 1)], [], [], []⟩
  | .mdecl _ _ a b => ⟨a.regs ++ b.regs, [], [], []⟩
  | .mzero _ a => ⟨[(a, 1)], [], [], []⟩
  | .mload _ _ a b => ⟨[(a, 1)] ++ [(b, 1)], [], [], []⟩
  | .mstore _ _ a b => ⟨[(a, 1)] ++ [(b, 1)], [], [], []⟩
  | .mstat _ d => ⟨[], [(d, 1)], [], []⟩
  | .barinit _ _ _ a => ⟨a.regs, [], [], []⟩
  | .barstat _ d _ => ⟨[], [(d, 1)], [], []⟩
  | .barset _ _ b => ⟨b.regs, [], [], []⟩
  | .wpop _ d => ⟨[], [(d, 4)], [], []⟩
  | .wpush _ a b => ⟨[(a, 4)] ++ (optReg b 2), [], [], []⟩
  | .launch _ a => ⟨[(a, 2)], [], [], []⟩
  | .signalSet _ a b => ⟨[(a, 2)] ++ b.regs, [], [], []⟩
  | .signalAdd _ a b => ⟨[(a, 2)] ++ b.regs, [], [], []⟩
  | .sigwait _ _ a b => ⟨[(a, 2)] ++ b.regs, [], [], []⟩
  | .gswap _ _ a b => ⟨[(a, 2)] ++ b.regs, [], [], []⟩
  | .qroom _ d a => ⟨[(a, 2)], [(d, 1)], [], []⟩
  | .sysr _ d n => ⟨[], [(d, (sysRegs n))], [], []⟩
  | .sysw _ a n => ⟨[(a, (sysRegs n))], [], [], []⟩
  | .tswr _ d a => ⟨[(a, 1)], [(d, 1)], [], []⟩
  | .tsww _ a b => ⟨[(a, 1)] ++ [(b, 1)], [], [], []⟩
  | .ologr _ d a b => ⟨[(a, 1)] ++ b.regs, [(d, 1)], [], []⟩
  | .xgetPred _ d => ⟨[], [(d, 1)], allPreds, []⟩
  | .xgetStruct _ d _ => ⟨[], [(d, 1)], [], []⟩
  | .xsetPred _ b => ⟨[(b, 1)], [], [], allPreds⟩
  | .xsetStruct _ _ b => ⟨[(b, 1)], [], [], []⟩
  | .placeCore _ d a => ⟨a.regs, [(d, 1)], [], []⟩
  | .placeDie _ d a => ⟨a.regs, [(d, 1)], [], []⟩
  | .placePort _ d a => ⟨a.regs, [(d, 1)], [], []⟩
  | .pair _ x y => ⟨(x.reads ++ y.reads).map fun r => (r, 1), [(x.d, 1), (y.d, 1)], [], []⟩
  | _ => ⟨[], [], [], []⟩

/-- A PAIR operation whose op7 is 0x20 or above (R102). -/
def PairOp.isFloat : PairOp → Bool
  | .fadd | .fmul | .ffma | .fmin | .fmax | .hadd2 _ | .hmul2 _ | .hfma2 _ | .hmin2 _ | .hmax2 _ => true
  | _ => false

/-- R102. -/
def Instr.roleOk (i : Instr) (r : Role) : Bool :=
  match i with
  | .fadd .. | .faddImm .. | .fsub .. | .fsubImm .. | .fmul .. | .fmulImm .. | .fdiv .. | .fdivImm .. | .ffma ..
  | .fmin .. | .fminImm .. | .fmax .. | .fmaxImm .. | .fset .. | .fsetImm .. | .fclass .. | .frnd .. | .fsqrt ..
  | .frcp .. | .frsq .. | .fex2 .. | .flg2 .. | .fsin .. | .fcos .. | .ftanh .. | .hadd2 .. | .hadd2Imm ..
  | .hmul2 .. | .hmul2Imm .. | .hfma2 .. | .hmnx2 .. | .hmnx2Imm .. | .f2i .. | .i2f .. | .f2f .. | .qcvt ..
  | .dqcvt .. | .qpack .. | .fdot2 .. | .fscale .. | .fscaleImm .. | .sadd .. | .ssub .. | .smul .. | .sdiv ..
  | .ssq .. | .sexp .. | .sln .. | .scmp .. | .sclass .. | .scvtSliF32 .. | .scvtF32Sli .. | .srecip .. => r == .general || r == .vector
  | .pair _ x y => !(x.op.isFloat || y.op.isFloat) || r == .general || r == .vector
  | .tcopy .. | .tstore .. | .tcopys .. | .chptr .. | .chwait .. | .chdrain .. | .chstat .. => r == .copy
  | .mma .. | .mdecl .. | .mwait .. | .mfence .. | .mzero .. | .mload .. | .mstore .. | .mlive .. | .mstat .. => r == .matrix
  | _ => true

end Sys2Proof

namespace Sys2Proof.Machine
open Sys2Proof

/-! ### Registers and predicates (R87, R128 to R130) -/

/-- Register vN; a register nothing has written reads 0 (R117). -/
def Thread.rd (x : Thread) (r : VReg) : Word := Tab.get 0 x.regs r.toNat

/-- The pair vN:vN+1, vN holding bits [31:0] (R89). -/
def Thread.rdPair (x : Thread) (r : VReg) : DWord := x.rd (r + 1) ++ x.rd r

/-- n registers from r, low word first. -/
def Thread.rdMany (x : Thread) (r : VReg) (n : Nat) : List Word := (List.range n).map fun i => x.rd (r + BitVec.ofNat 7 i)

/-- Whether the window of a register is live (R129). -/
def Thread.liveWin (x : Thread) (w : Nat) : Bool := x.live.getLsbD w

/-- A write to a register revives its window: the other registers of a dead window read 0, which is what the table holds
for them since their window died (R130). -/
def Thread.wr (x : Thread) (r : VReg) (v : Word) : Thread :=
  { x with regs := Tab.put 0 x.regs r.toNat v, live := x.live ||| BitVec.ofNat 8 (2 ^ r.window) }

def Thread.wrPair (x : Thread) (r : VReg) (v : DWord) : Thread := (x.wr r (v.setWidth 32)).wr (r + 1) ((v >>> 32).setWidth 32)

def Thread.wrMany (x : Thread) (r : VReg) : List Word → Thread
  | [] => x
  | v :: vs => (x.wr r v).wrMany (r + 1) vs

/-- Predicate pN; pt reads true (R89). -/
def Thread.prd (x : Thread) (p : PReg) : Bool := p == 15 || x.preds.getLsbD p.toNat

/-- A write to pt is discarded (R89). -/
def Thread.prw (x : Thread) (p : PReg) (b : Bool) : Thread :=
  if p = 15 then x
  else { x with preds := if b then x.preds ||| BitVec.ofNat 15 (2 ^ p.toNat) else x.preds &&& ~~~(BitVec.ofNat 15 (2 ^ p.toNat)) }

/-- The guard (R92). -/
def Thread.guard (x : Thread) (h : Hints) : Bool := x.prd h.gp != h.gn

/-- Kill the windows of a mask (R94, R122): their registers are lost. -/
def Thread.killWindows (x : Thread) (mask : BitVec 8) : Thread :=
  { x with live := x.live &&& ~~~mask, regs := x.regs.filter fun e => !(mask.getLsbD (e.1 / 16)) }

/-! ### Sources (R91) -/

/-- An i9 as an integer (R91). -/
def immInt (v : BitVec 9) : Int := v.toInt

/-- A source in an integer position, as 32 bits: an i9 is sign-extended (R91). -/
def Thread.src (x : Thread) : Src → Word
  | .reg r => x.rd r
  | .imm v => v.signExtend 32

/-- A 32-bit source read as signed or unsigned (R160). -/
def intOf (u : Bool) (w : Word) : Int := if u then (w.toNat : Int) else w.toInt

/-! ### Results -/

/-- What an instruction that completes at once gives its thread: register and predicate writes, flags, and a PC where it
transfers control. -/
structure Res where
  vs : List (VReg × Word) := []
  ps : List (PReg × Bool) := []
  ff : BitVec 5 := 0
  lx : BitVec 5 := 0
  pc : Option Pc := none
  deriving DecidableEq, Repr

/-- The number under which a predicate's uncorrectable error is kept beside those of the registers (R394). -/
def poisPred (p : PReg) : Nat := 128 + p.toNat

/-- Whether a thread still has the register or predicate of a number: it goes with its window (R122). -/
def Thread.hasPois (x : Thread) (n : Nat) : Bool := decide (128 ≤ n) || x.live.getLsbD (n / 16)

/-- Whether results overwrite the register or predicate of a number. -/
def Res.covers (r : Res) (n : Nat) : Bool := (r.vs.any fun v => v.1.toNat == n) || r.ps.any fun p => poisPred p.1 == n

/-- A result in a v or p destination: a predicate takes bit 0 (R176). -/
def boolRes (d : DstVP) (b : Bool) : Res :=
  match d with
  | .v r => { vs := [(r, if b then 1 else 0)] }
  | .p p => { ps := [(p, b)] }

/-- Write an instruction's results; flags accrue by OR (R56). -/
def Thread.put (x : Thread) (r : Res) : Thread :=
  let x := r.vs.foldl (fun x e => x.wr e.1 e.2) x
  let x := r.ps.foldl (fun x e => x.prw e.1 e.2) x
  { x with fflags := x.fflags ||| r.ff, lxflags := x.lxflags ||| r.lx }

/-- The word after an instruction that does not transfer control (R80). -/
def Thread.nextPc (x : Thread) : Pc := x.pc + 12

/-- The GAP of an instruction: it runs from issue, so one that has waited or stood keeps what is left of it (R93). -/
def Thread.gapOf (x : Thread) (h : Hints) : Nat := if x.cur.isSome then x.gap else h.gap.toNat

/-- Retirement's effect on the thread itself: the PC, then the windows WDROP names, after the destination writes (R94), and
the issue hints (R93). -/
def Thread.advance (x : Thread) (h : Hints) (npc : Pc) : Thread :=
  { (x.killWindows h.wdrop) with pc := npc, gap := x.gapOf h, yld := h.yld, ph := .none, cur := none, deadline := none }

end Sys2Proof.Machine
end

