-- ==== Sys2Proof/Machine/Issue.lean ====
section
/-! DEFINITION. Issue and retirement of one thread's instruction: the checks of 04_encoding.md R97 in order, the holds of
05_group.md R121, R126, R127 and R500, retirement (R94, R130, R134, R400), and traps (18_traps.md R394 to R397). -/
namespace Sys2Proof
open Sys2Proof

/-- What a PARKED thread may issue (R121). -/
def Instr.parkedOk : Instr → Bool
  | .iadd .. | .iaddImm .. | .isub .. | .isubImm .. | .imul .. | .imulImm .. | .imulh .. | .imulhImm .. | .imad ..
  | .imin .. | .iminImm .. | .imax .. | .imaxImm .. | .iabs .. | .ineg .. | .andW .. | .andWImm .. | .orW ..
  | .orWImm .. | .xorW .. | .xorWImm .. | .andnW .. | .andnWImm .. | .notW .. | .popc .. | .clz .. | .brev ..
  | .shl .. | .shlImm .. | .shr .. | .shrImm .. | .sar .. | .sarImm .. | .rot .. | .rotImm .. | .funnel .. | .bfe ..
  | .bfeImm .. | .bfi .. | .perm .. | .sel .. | .iset .. | .isetImm .. | .plop .. | .mov .. | .movi .. | .lea ..
  | .iadd64 .. | .iadd64Imm .. | .idiv .. | .dot4 .. | .fadd .. | .faddImm .. | .fsub .. | .fsubImm .. | .fmul ..
  | .fmulImm .. | .fdiv .. | .fdivImm .. | .ffma .. | .fmin .. | .fminImm .. | .fmax .. | .fmaxImm .. | .fset ..
  | .fsetImm .. | .fclass .. | .frnd .. | .fsqrt .. | .frcp .. | .frsq .. | .fex2 .. | .flg2 .. | .fsin .. | .fcos ..
  | .ftanh .. | .hadd2 .. | .hadd2Imm .. | .hmul2 .. | .hmul2Imm .. | .hfma2 .. | .hmnx2 .. | .hmnx2Imm .. | .f2i ..
  | .i2f .. | .f2f .. | .qcvt .. | .dqcvt .. | .qpack .. | .fdot2 .. | .fscale .. | .fscaleImm .. | .sadd ..
  | .ssub .. | .smul .. | .sdiv .. | .ssq .. | .sexp .. | .sln .. | .scmp .. | .sclass .. | .scvtSliF32 ..
  | .scvtF32Sli .. | .srecip .. | .pref .. | .pair .. => true
  | .ld _ _ ord .. => ord.isNone
  | .st _ _ ord .. => ord.isNone
  | .ldSp _ _ o .. => !o
  | .stSp _ _ o .. => !o
  | _ => false

/-- The scope of an instruction's acquire (R233). -/
def Instr.acqScope : Instr → Option Scope
  | .ld _ _ ord .. => ord
  | .ldSp _ _ o .. => if o then some .core else none
  | .atom _ _ _ ord sc .. => if ord = .acq ∨ ord = .acqrel then some sc else none
  | .cas _ _ ord sc .. => if ord = .acq ∨ ord = .acqrel then some sc else none
  | _ => none

/-- The scope of an instruction's release (R234). -/
def Instr.relScope : Instr → Option Scope
  | .st _ _ ord .. => ord
  | .stSp _ _ o .. => if o then some .core else none
  | .atom _ _ _ ord sc .. => if ord = .rel ∨ ord = .acqrel then some sc else none
  | .cas _ _ ord sc .. => if ord = .rel ∨ ord = .acqrel then some sc else none
  | .red _ _ _ ord sc .. => if ord = .rel ∨ ord = .acqrel then some sc else none
  | .signalSet .. | .signalAdd .. => some .pkg
  | _ => none

/-- An atomic, a CAS or a RED: done where the line's home is, in one step (R236). -/
def Instr.isAtomic : Instr → Bool
  | .atom .. | .cas .. | .red .. | .signalSet .. | .signalAdd .. => true
  | _ => false

/-- Whether an access stops its thread until its home has answered, and so may trap late: it issues once the thread's older loads have
returned, which keeps the trap precise (R5, R238). DEDUCED: log 42. -/
def trapsLate (i : Instr) : Bool := i.acqScope.isSome || i.relScope.isSome || i.isAtomic

/-- Whether an instruction of a PARKED thread holds a younger one: a GSWAP, which arrives as at first issue, holds everything; an acquire, a release and an
atomic hold accesses (R233, R238, R365, R366). DEDUCED: log 18. -/
def Instr.holdsBack (j : Instr) (access : Bool) : Bool :=
  match j with
  | .gswap .. => true
  | .sigwait .. => access
  | _ => access && trapsLate j

/-- An access to memory or to a scratchpad, which none of its thread's older acquires, releases and atomics may still be behind (R233, R238). -/
def Instr.isAccess : Instr → Bool
  | .ld .. | .st .. | .ldSp .. | .stSp .. | .atom .. | .cas .. | .red .. | .signalSet .. | .signalAdd .. => true
  | _ => false

def Instr.hints (i : Instr) : Hints := i.hints?.getD Hints.none

/-- The windows an instruction writes. -/
def Instr.destMask (i : Instr) : BitVec 8 := i.uses.wv.foldl (fun a r => a ||| BitVec.ofNat 8 (2 ^ r.1.window)) 0

end Sys2Proof

namespace Sys2Proof.Machine
open Sys2Proof

/-- The instruction does not issue now: the thread is tried again in a later round (R123, R500; DEDUCED, log 8). -/
def State.hold (s : State) (t : TRef) : State := s.modThread t fun x => { x with gap := max x.gap 1 }

/-- An access does not issue now for a thread, nor for the lanes of its issue group that come after it: they keep their order (R249, R299). -/
def State.holdGroup (s : State) (t : TRef) : State :=
  let s' := (s.issueQ.filter fun u => u.group == t.group).foldl State.hold (s.hold t)
  { s' with issueQ := s.issueQ.filter fun u => u.group != t.group }

/-! ### Responses (R460) -/

def State.modSlice (s : State) (c : CoreRef) (sl : Nat) (f : Slice → Slice) : State :=
  s.modCore c fun k => { k with slices := modNth k.slices sl f }

/-- A response enters a slice's return FIFO. DEDUCED: log 85. -/
def Slice.respond (x : Slice) : Slice := { x with xrq := min 16 (x.xrq + 1) }

/-- A thread has its response: it went through its slice's return FIFO. -/
def State.respond (s : State) (t : TRef) : State :=
  match s.thread? t with
  | some x => s.modSlice t.coreRef (htidSlice x.htid) Slice.respond
  | none => s

/-- A full return FIFO: its producer holds the response. -/
def State.returnFull (s : State) (t : TRef) : Bool :=
  match s.thread? t with
  | some x => ((s.core t.coreRef).slices[htidSlice x.htid]?).any fun y => y.xrq == 16
  | none => false

/-! ### Bank power (R131, R133 to R135) -/

/-- The bank that holds a window of a thread: slice, row, lane (R131). -/
def State.bankOf (s : State) (t : TRef) (htid w : Nat) : Nat × Nat × Nat :=
  (htidSlice htid, (s.holding t.ccRef).rowOf (htidSlice htid) w, htidLane htid)

/-- The power of a register bank: listed while it wakes, is in retention or stays on for a transfer; else full or off (R133). -/
def State.bankPower (s : State) (c : CoreRef) (b : Nat × Nat × Nat) : Power :=
  match (s.core c).regPow.get? b with
  | some p => p
  | none => if s.bankHeld c b then .full else .off

def State.setBank (s : State) (c : CoreRef) (b : Nat × Nat × Nat) (p : Power) : State :=
  s.modCore c fun k => { k with regPow := k.regPow.set b p }

/-- Begin a bank's wake: 24 core cycles from off, 8 from retention; two demands share one wake (R135). -/
def State.wakeBank (s : State) (c : CoreRef) (b : Nat × Nat × Nat) : State :=
  match s.bankPower c b with
  | .off => s.setBank c b (.waking true (s.coreTime c + BitVec.ofNat 64 (ceilCycles 24)))
  | .retention => s.setBank c b (.waking false (s.coreTime c + BitVec.ofNat 64 (ceilCycles 8)))
  | _ => s

def MOp.isRead (m : MOp) : Bool := m.kind == .load || m.kind == .acquire || m.kind == .atomic

/-- Whether the instruction a phase belongs to has issued: a probe has not (R279, R280). -/
def Phase.issued : Phase → Bool
  | .none | .walk _ | .walked .. => false
  | _ => true

/-- The instructions of a thread that have issued and may still write their destinations. -/
def State.underWay (s : State) (t : TRef) (x : Thread) : List Instr :=
  ((s.core t.coreRef).mops.filter fun m => m.thr == t && m.isRead).map (·.instr) ++ (if x.ph.issued then x.cur.toList else [])

/-- Whether an instruction under way has a transfer to a bank (R134). -/
def State.transferIn (s : State) (c : CoreRef) (b : Nat × Nat × Nat) : Bool :=
  s.threads.any fun e => e.1.coreRef == c && htidSlice e.2.htid == b.1 && htidLane e.2.htid == b.2.2 &&
    (s.underWay e.1 e.2).any fun i => i.uses.wv.any fun r => (s.holding e.1.ccRef).rowOf b.1 r.1.window == b.2.1

/-- A bank none of whose windows is live goes off, once no transfer to it is in flight (R133, R134). -/
def State.settleBank (s : State) (c : CoreRef) (b : Nat × Nat × Nat) : State :=
  if s.bankHeld c b then s
  else if s.transferIn c b then (if ((s.core c).regPow.get? b).isSome then s else s.setBank c b .full)
  else s.modCore c fun k => { k with regPow := k.regPow.erase b }

/-- The banks of some windows of a thread that are about to be live, or to be written, wake (R134). -/
def State.wakeWindows (s : State) (t : TRef) (htid : Nat) (mask : BitVec 8) : State :=
  if mask = 0 then s
  else (List.range 8).foldl (fun s w => if mask.getLsbD w then s.wakeBank t.coreRef (s.bankOf t htid w) else s) s

/-- The banks of some windows of a thread that have died. -/
def State.settleWindows (s : State) (t : TRef) (htid : Nat) (mask : BitVec 8) : State :=
  if mask = 0 then s
  else (List.range 8).foldl (fun s w => if mask.getLsbD w then s.settleBank t.coreRef (s.bankOf t htid w) else s) s

/-- An instruction that will revive a window wakes the window's bank when it issues (R134). -/
def State.wakeDests (s : State) (t : TRef) (x : Thread) (i : Instr) : State := s.wakeWindows t x.htid (i.destMask &&& ~~~x.live)

/-- Its destinations are not written after all: banks that woke for them go off again. -/
def State.settleDests (s : State) (t : TRef) (x : Thread) (i : Instr) : State := s.settleWindows t x.htid (i.destMask &&& ~~~x.live)

/-- A thread that leaves WAIT takes its banks out of retention (R134). -/
def State.wakeThreadBanks (s : State) (t : TRef) : State :=
  match s.thread? t with
  | none => s
  | some x => (List.range 8).foldl (fun s w =>
      if x.live.getLsbD w && s.bankPower t.coreRef (s.bankOf t x.htid w) == .retention then s.wakeBank t.coreRef (s.bankOf t x.htid w) else s) s

/-! ### Traps (R394 to R397) -/

/-- UNIT of a record about a core (R492): logical die [15:14], core [7:0]. -/
def coreUnit (core : Nat) : Nat := coreDie core * 2 ^ 14 + core

/-- A context takes Fault: a record of class context with the CTXID and the cause, resources freed (R413, R414). -/
def State.faultCtx (s : State) (x : CtxRef) (cause : Nat) : State :=
  if (s.ctx x).st.canFault then
    (s.mcRecord (some x.part) .context 2 0 cause x.ctx 0).endCtx x .faulted
  else s

/-- A double trap (R397). -/
def State.doubleTrap (s : State) (t : TRef) (htid : Nat) (c : Cause) : State :=
  (s.mcRecord (some t.part) .trap 2 0 (c.code.toNat + htid * 2 ^ 16) t.ctx (coreUnit t.core)).faultCtx t.ctxRef c.code.toNat

/-- A trap delivered to the handler, in one step (R396, R397). -/
def State.takeTrap (s : State) (t : TRef) (c : Cause) (epc taddr : DWord) (tinfo : Word) : State :=
  match s.thread? t, s.group? t.group with
  | some x, some g =>
    if x.h || g.handler == 0 then s.doubleTrap t x.htid c
    else (s.setThread t (x.trapped g.handler c epc taddr tinfo)).wakeThreadBanks t
  | _, _ => s

/-! ### What is unfinished -/

/-- Loads of a thread that a restore has still to issue again (R271, R427). -/
def State.relisted (s : State) (t : TRef) : List Replay := (s.holding t.ccRef).replay.filter fun p => p.grp == t.grp && p.rank == t.rank

/-- A load the thread has issued and that has not returned. -/
def State.unretired (s : State) (t : TRef) : Bool :=
  ((s.core t.coreRef).mops.any fun m => m.thr == t && m.isRead && m.entry.isNone) || !(s.relisted t).isEmpty

/-- Log entries of a thread that stand for an unfinished instruction. -/
def State.parkedEntries (s : State) (t : TRef) : List (Nat × OEntry) :=
  (s.holding t.ccRef).olog.filter fun e => e.2.grp == t.grp && e.2.rank == t.rank && e.2.stat != .delivering

/-- The instructions of a thread that have issued and not retired: loads under way and parked instructions. -/
def State.pendingInstrs (s : State) (t : TRef) : List Instr :=
  ((s.core t.coreRef).mops.filter fun m => m.thr == t && m.isRead).map (·.instr) ++ (s.relisted t).map (·.instr)
    ++ (s.parkedEntries t).map fun e => e.2.instr

/-- Registers from lo to hi - 1. -/
def overlaps (a b : VReg × Nat) : Bool := decide (a.1.toNat < b.1.toNat + b.2) && decide (b.1.toNat < a.1.toNat + a.2)

/-- Whether an instruction reads or writes what an unfinished one holds busy, or a window it will drop, or drops a window that the unfinished one
will write (R94, R121, R126). -/
def conflicts (i j : Instr) : Bool :=
  let u := i.uses
  let v := j.uses
  let regs := u.rv ++ u.wv
  let preds := u.rp ++ u.wp ++ [i.hints.gp]
  (regs.any fun r => v.wv.any fun w => overlaps r w) || (preds.any fun p => p != 15 && v.wp.contains p)
    || (regs.any fun r => j.hints.wdrop.getLsbD r.1.window) || (v.wv.any fun w => i.hints.wdrop.getLsbD w.1.window)

/-- A live register in a bank that is not full is busy (R127). -/
def State.bankBusy (s : State) (t : TRef) (x : Thread) (i : Instr) : Bool :=
  (i.uses.rv ++ i.uses.wv).any fun r => x.live.getLsbD r.1.window &&
    (match (s.core t.coreRef).regPow.get? (s.bankOf t x.htid r.1.window) with
     | none | some .full => false
     | _ => true)

/-! ### The gate (R97) -/

/-- What the checks before issue decide. -/
inductive Gate where
  | hold                       -- not now
  | trap (c : Cause)
  | skip                       -- the guard is false (R92)
  | run
  deriving DecidableEq, Repr

/-- A context is HALTING and its issue has not stopped. -/
def State.halts (s : State) (x : CtxRef) : Bool := (s.ctx x).st == .halting && !(s.ctx x).issueOff && !s.inReset

/-- A thread of an issue group that a timing error has re-execute, while its context halts: the replay is under way and finishes (R219, R469). -/
def State.replaying (s : State) (t : TRef) (x : Thread) : Bool :=
  s.halts t.ctxRef && ((s.core t.coreRef).slices[htidSlice x.htid]?).any fun sl => sl.again.contains t

/-- Whether the thread may issue at all: its context runs, it is READY, PARKED or TRAPPED, no unfinished instruction or hold stops it,
and no trap or kick waits to be taken by it (R119, R120, R399, R401, R500). -/
def State.canIssue (s : State) (t : TRef) (x : Thread) : Bool :=
  (s.ctxRuns t.ctxRef || s.replaying t x) && (x.st == .ready || x.st == .parked || x.st == .trapped) && x.ph == .none && x.fpark.isNone
    && (x.h || (x.deferred.isEmpty && !(x.kick && x.st == .ready)))

/-- R90. -/
def overBudget (i : Instr) (w : Nat) : Bool := (i.uses.rv ++ i.uses.wv).any fun r => decide (16 * w < r.1.toNat + r.2)

/-- R130: an executing instruction that reads a register of a dead window. -/
def readsDead (i : Instr) (live : BitVec 8) : Bool := i.uses.rv.any fun r => !live.getLsbD r.1.window

/-- A register or predicate with an uncorrectable error (R394). -/
def State.readsPoison (s : State) (t : TRef) (i : Instr) : Bool :=
  s.regPois.any fun e => e.1 == t && ((i.uses.rv.any fun r => decide (r.1.toNat ≤ e.2) && decide (e.2 < r.1.toNat + r.2))
    || i.uses.rp.any fun p => poisPred p == e.2)

/-- A guard with an uncorrectable error: whether the instruction executes is not known (R394). DEDUCED: log 62. -/
def State.guardPoison (s : State) (t : TRef) (i : Instr) : Bool := i.hints.gp != 15 && s.regPois.contains (t, poisPred i.hints.gp)

/-- Errors in what results have overwritten, and in windows that have died, are gone. -/
def State.clearPois (s : State) (t : TRef) (y : Thread) (r : Res) : State :=
  if s.regPois.isEmpty then s else { s with regPois := s.regPois.filter fun e => ¬ (e.1 = t ∧ (r.covers e.2 || !y.hasPois e.2)) }

/-- What holds an instruction, or what it traps with, before it executes. DESIGN CHOICE: log 7. DEDUCED: log 8. -/
def State.gate (s : State) (t : TRef) (x : Thread) (g : Group) (i : Instr) : Gate :=
  if !s.canIssue t x then .hold
  else if !i.wf then .trap .undef
  else if !i.roleOk g.role then .trap .role
  else if overBudget i g.w then .trap .budget
  else if (s.parkedEntries t).any fun e => e.2.instr.holdsBack i.isAccess then .hold
  else if (x.st == .parked && !i.parkedOk) || (x.step && !x.h && !(s.pendingInstrs t).isEmpty) then .hold
  else if (s.pendingInstrs t).any fun j => conflicts i j then .hold
  else if s.bankBusy t x i then .hold
  else if s.guardPoison t i then .trap .mcheck
  else if !x.guard i.hints then .skip
  else if readsDead i x.live then .trap .deadreg
  else if s.readsPoison t i then .trap .mcheck
  else .run

/-- A precise trap: held while an older instruction of the thread has not retired (R5, R121). DEDUCED: log 42. -/
def State.precise (s : State) (t : TRef) (x : Thread) (c : Cause) (epc taddr : DWord) (tinfo : Word) : State :=
  if x.st == .parked || s.unretired t then s.hold t else s.takeTrap t c epc taddr tinfo

/-- A precise trap at the instruction itself with no address. -/
def State.trapHere (s : State) (t : TRef) (x : Thread) (c : Cause) : State := s.precise t x c (pcWord x.pc) 0 0

/-- Retirement of an instruction: its results, then the windows WDROP names, the PC, the banks, and the trap of a stepping thread
(R94, R130, R134, R400). DESIGN CHOICE: log 7. -/
def State.retire (s : State) (t : TRef) (x : Thread) (h : Hints) (r : Res) : State :=
  let y := (x.put r).advance h (r.pc.getD x.nextPc)
  let s := ((s.wakeWindows t x.htid (y.live &&& ~~~x.live)).setThread t y).settleWindows t x.htid (x.live &&& ~~~y.live)
  let s := s.clearPois t y r
  if y.step && !x.h then s.takeTrap t .step (pcWord y.pc) 0 0 else s

/-- Run an instruction of the issuing thread through the gate. -/
def issue (s : State) (i : Instr) (body : TRef → Thread → Group → Out State Fault Refusal) : Out State Fault Refusal :=
  match s.cur with
  | none => .fault .noIssuingThread
  | some t =>
    match s.thread? t, s.group? t.group with
    | some x, some g =>
      match s.gate t x g i with
      | .hold => .next (s.hold t)
      | .trap c => .next (s.trapHere t x c)
      | .skip => .next (s.retire t x i.hints {})
      | .run => body t x g
    | _, _ => .fault .danglingRef

/-- An instruction that only computes from its thread's registers and retires at once. DESIGN CHOICE: log 7. -/
def compute (s : State) (i : Instr) (f : Thread → Res) : Out State Fault Refusal :=
  issue s i fun t x _ => .next (s.retire t x i.hints (f x))

end Sys2Proof.Machine
end

