-- ==== Sys2Proof/Machine/Flags.lean ====
section
/-! DEFINITION. The flags (03_numbers.md R55, R77) and the one rounding of an exact value to a binary format, with the flags it
raises (R51 to R53). -/
namespace Sys2Proof.Machine
open Sys2Proof

/-- FFLAGS and LXFLAGS bits. -/
abbrev Flags := BitVec 5

def fNV : Flags := 16
def fDZ : Flags := 8
def fOF : Flags := 4
def fUF : Flags := 2
def fNX : Flags := 1

def lxN : Flags := 16
def lxS : Flags := 8
def lxR : Flags := 4
def lxD : Flags := 2
def lxU : Flags := 1

def flagIf (b : Bool) (f : Flags) : Flags := if b then f else 0

/-! ### Formats (R51) -/

/-- Exponent bits, fraction bits. -/
structure FFmt where
  eb : Nat
  fb : Nat
  deriving DecidableEq, Repr

def f32 : FFmt := { eb := 8, fb := 23 }
def f16 : FFmt := { eb := 5, fb := 10 }
def bf16 : FFmt := { eb := 8, fb := 7 }

def FFmt.bias (f : FFmt) : Nat := 2 ^ (f.eb - 1) - 1
def FFmt.width (f : FFmt) : Nat := 1 + f.eb + f.fb

/-- The magnitude code of infinity. -/
def FFmt.infCode (f : FFmt) : Nat := (2 ^ f.eb - 1) * 2 ^ f.fb

/-- The canonical quiet NaN (R54). -/
def FFmt.nan (f : FFmt) : Nat := f.infCode + 2 ^ (f.fb - 1)

/-- The exponent of the smallest spacing. -/
def FFmt.qmin (f : FFmt) : Int := 1 - (f.bias : Int) - (f.fb : Int)

def FFmt.signBit (f : FFmt) (s : Bool) : Nat := if s then 2 ^ (f.eb + f.fb) else 0

/-- The format of a code of R104. -/
def fmtOf : Fmt → FFmt
  | .f32 => f32
  | .f16 => f16
  | .bf16 => bf16

def halfFmt : Half → FFmt
  | .bf16 => bf16
  | .f16 => f16

/-! ### Rounding (R52) -/

/-- How many bits a number has; 0 for 0. -/
def bitLen (n : Nat) : Nat := if n = 0 then 0 else Nat.log2 n + 1

/-- m / 2^d to an integer in a mode, for a value of sign s whose magnitude is m, or strictly between m and m + 1 when `sticky`:
the integer and whether it is inexact. -/
def roundShift (rm : Rm) (s : Bool) (m d : Nat) (sticky : Bool) : Nat × Bool :=
  let d := min d (bitLen m + 2)
  let n := m >>> d
  let r := m % 2 ^ d
  let inexact := r != 0 || sticky
  let up :=
    match rm with
    | .rn => decide (2 ^ d < 2 * r) || (2 * r == 2 ^ d && d != 0 && (sticky || n % 2 == 1))
    | .rz => false
    | .rd => s && inexact
    | .ru => !s && inexact
  (if up then n + 1 else n, inexact)

/-- m × 2^e to a multiple of 2^q: the multiple and whether it is inexact. -/
def roundAt (rm : Rm) (s : Bool) (m : Nat) (e : Int) (sticky : Bool) (q : Int) : Nat × Bool :=
  if q ≤ e then roundShift rm s (m <<< (e - q).toNat) 0 sticky else roundShift rm s m (q - e).toNat sticky

/-- The spacing at which a value with leading bit 2^E rounds in a format of fraction width fb. -/
def spacing (fb : Nat) (qmin E : Int) : Int := max (E - (fb : Int)) qmin

/-- What an overflow delivers (R52). -/
def overflowCode (f : FFmt) (rm : Rm) (s : Bool) : Nat :=
  match rm with
  | .rn => f.infCode
  | .rz => f.infCode - 1
  | .rd => if s then f.infCode else f.infCode - 1
  | .ru => if s then f.infCode - 1 else f.infCode

/-- Tiny after rounding: rounded with the format's precision and an unbounded exponent, below the normal range (R52). -/
def tinyAfter (f : FFmt) (rm : Rm) (s : Bool) (m : Nat) (e : Int) (sticky : Bool) : Bool :=
  let E := e + (bitLen m : Int) - 1
  let emin : Int := 1 - (f.bias : Int)
  if emin ≤ E then false
  else if E + 1 < emin then true
  else (roundAt rm s m e sticky (E - (f.fb : Int))).1 != 2 ^ (f.fb + 1)

/-- Round a nonzero exact value, of magnitude m × 2^e (or just above, when `sticky`), to a format: the code and the flags
(R52, R53). -/
def roundTo (f : FFmt) (rm : Rm) (ftz : Bool) (s : Bool) (m : Nat) (e : Int) (sticky : Bool) : Nat × Flags :=
  let E := e + (bitLen m : Int) - 1
  let q := spacing f.fb f.qmin E
  let r := roundAt rm s m e sticky q
  let tiny := tinyAfter f rm s m e sticky
  if ftz && tiny then (f.signBit s, fUF ||| fNX)
  else
    let code := (q - f.qmin).toNat * 2 ^ f.fb + r.1
    if f.infCode ≤ code then (f.signBit s + overflowCode f rm s, fOF ||| fNX)
    else (f.signBit s + code, flagIf r.2 fNX ||| flagIf (tiny && r.2) fUF)

/-! ### LXFLAGS (R77) -/

/-- The level flags of a result, from its RCP and LVL, the levels of the operands that count and the RCP of the larger. DEDUCED: log 86. -/
def levelFlags (rcp : Bool) (lvl : Nat) (ops : List Nat) (bigRcp : Bool) : Flags :=
  if ops.isEmpty then 0
  else flagIf (ops.all fun l => decide (l < lvl)) lxU ||| flagIf (ops.all fun l => decide (lvl < l)) lxD ||| flagIf (rcp != bigRcp) lxR

end Sys2Proof.Machine
end

