-- ==== Sys2Proof/Machine/FloatOps.lean ====
section
/-! DEFINITION. Binary floating point on codes (03_numbers.md R51 to R54, 08_float.md R185 to R195): every operation decodes its
operands, forms the exact result and rounds once. Codes are numbers below 2^width. -/
namespace Sys2Proof.Machine
open Sys2Proof

/-- A decoded operand: a NaN, an infinity, or the exact value (-1)^neg × m × 2^e. -/
inductive FVal where
  | nan (signalling : Bool)
  | inf (neg : Bool)
  | fin (neg : Bool) (m : Nat) (e : Int)
  deriving DecidableEq, Repr

/-- A code and the flags of the operation that gave it. -/
structure FRes where
  code  : Nat
  flags : Flags
  deriving DecidableEq, Repr

def FFmt.neg (f : FFmt) (w : Nat) : Bool := w / 2 ^ (f.eb + f.fb) % 2 == 1
def FFmt.mag (f : FFmt) (w : Nat) : Nat := w % 2 ^ (f.eb + f.fb)
def FFmt.expo (f : FFmt) (w : Nat) : Nat := f.mag w / 2 ^ f.fb
def FFmt.frac (f : FFmt) (w : Nat) : Nat := w % 2 ^ f.fb
def FFmt.isNan (f : FFmt) (w : Nat) : Bool := decide (f.infCode < f.mag w)
def FFmt.isSnan (f : FFmt) (w : Nat) : Bool := f.isNan w && !(w / 2 ^ (f.fb - 1) % 2 == 1)
def FFmt.isSub (f : FFmt) (w : Nat) : Bool := f.expo w == 0 && f.frac w != 0

/-- A subnormal operand reads as zero of its sign under .ftz (R53). -/
def FFmt.flush (f : FFmt) (ftz : Bool) (w : Nat) : Nat := if ftz && f.isSub w then f.signBit (f.neg w) else w

/-- Decode a code. -/
def FFmt.val (f : FFmt) (w : Nat) : FVal :=
  if f.isNan w then .nan (f.isSnan w)
  else if f.mag w = f.infCode then .inf (f.neg w)
  else if f.expo w = 0 then .fin (f.neg w) (f.frac w) f.qmin
  else .fin (f.neg w) (2 ^ f.fb + f.frac w) (f.qmin + (f.expo w : Int) - 1)

def FFmt.read (f : FFmt) (ftz : Bool) (w : Nat) : FVal := f.val (f.flush ftz w)

def FVal.isSnan : FVal → Bool
  | .nan s => s
  | _ => false

def FVal.isNan : FVal → Bool
  | .nan _ => true
  | _ => false

def FVal.isZero : FVal → Bool
  | .fin _ m _ => m == 0
  | _ => false

def FVal.isInf : FVal → Bool
  | .inf _ => true
  | _ => false

def FVal.negate : FVal → FVal
  | .nan s => .nan s
  | .inf n => .inf (!n)
  | .fin n m e => .fin (!n) m e

/-- The canonical NaN, with NV where asked (R54). -/
def FFmt.nanRes (f : FFmt) (nv : Bool) : FRes := ⟨f.nan, flagIf nv fNV⟩
def FFmt.infRes (f : FFmt) (s : Bool) (fl : Flags) : FRes := ⟨f.signBit s + f.infCode, fl⟩
def FFmt.zeroRes (f : FFmt) (s : Bool) : FRes := ⟨f.signBit s, 0⟩

/-- Round an exact value that may be zero. -/
def FFmt.rnd (f : FFmt) (rm : Rm) (ftz s : Bool) (m : Nat) (e : Int) (sticky : Bool) : FRes :=
  if m = 0 && !sticky then f.zeroRes s
  else
    let r := roundTo f rm ftz s m e sticky
    ⟨r.1, r.2⟩

/-- Signed magnitude at a common exponent. -/
def alignTo (e0 : Int) (neg : Bool) (m : Nat) (e : Int) : Int :=
  let x : Int := ((m <<< (e - e0).toNat : Nat) : Int)
  if neg then -x else x

/-- The exact sum of finite terms, rounded once. A zero sum takes the terms' common sign, or -0 in .rd and +0 otherwise (R185). -/
def FFmt.sum (f : FFmt) (rm : Rm) (ftz : Bool) (ts : List (Bool × Nat × Int)) : FRes :=
  let nz := ts.filter fun t => t.2.1 != 0
  let e0 := nz.foldl (fun a t => min a t.2.2) (match nz with | t :: _ => t.2.2 | [] => 0)
  let x := nz.foldl (fun a t => a + alignTo e0 t.1 t.2.1 t.2.2) (0 : Int)
  if x = 0 then
    if ts.all fun t => t.1 then f.zeroRes true
    else if ts.all fun t => !t.1 then f.zeroRes false
    else f.zeroRes (rm == .rd)
  else f.rnd rm ftz (decide (x < 0)) x.natAbs e0 false

/-! ### Arithmetic (R185, R186) -/

def faddV (f : FFmt) (rm : Rm) (ftz : Bool) (a b : FVal) : FRes :=
  if a.isNan || b.isNan then f.nanRes (a.isSnan || b.isSnan)
  else
    match a, b with
    | .inf x, .inf y => if x = y then f.infRes x 0 else f.nanRes true
    | .inf x, _ => f.infRes x 0
    | _, .inf y => f.infRes y 0
    | .fin s m e, .fin t n g => f.sum rm ftz [(s, m, e), (t, n, g)]
    | _, _ => f.nanRes false

def fadd (f : FFmt) (rm : Rm) (ftz : Bool) (a b : Nat) : FRes := faddV f rm ftz (f.read ftz a) (f.read ftz b)
def fsub (f : FFmt) (rm : Rm) (ftz : Bool) (a b : Nat) : FRes := faddV f rm ftz (f.read ftz a) (f.read ftz b).negate

def fmul (f : FFmt) (rm : Rm) (ftz : Bool) (a b : Nat) : FRes :=
  let x := f.read ftz a
  let y := f.read ftz b
  if x.isNan || y.isNan then f.nanRes (x.isSnan || y.isSnan)
  else
    match x, y with
    | .inf s, .inf t => f.infRes (s != t) 0
    | .inf s, .fin t n _ => if n = 0 then f.nanRes true else f.infRes (s != t) 0
    | .fin s m _, .inf t => if m = 0 then f.nanRes true else f.infRes (s != t) 0
    | .fin s m e, .fin t n g => f.rnd rm ftz (s != t) (m * n) (e + g) false
    | _, _ => f.nanRes false

/-- The product of two operands: 0 × ∞, an infinity, or an exact value; `none` for a NaN operand. -/
inductive FProd where
  | nan | invalid | inf (neg : Bool) | fin (neg : Bool) (m : Nat) (e : Int)
  deriving DecidableEq, Repr

def fprod (x y : FVal) : FProd :=
  match x, y with
  | .nan _, _ => .nan
  | _, .nan _ => .nan
  | .inf s, .inf t => .inf (s != t)
  | .inf s, .fin t n _ => if n = 0 then .invalid else .inf (s != t)
  | .fin s m _, .inf t => if m = 0 then .invalid else .inf (s != t)
  | .fin s m e, .fin t n g => .fin (s != t) (m * n) (e + g)

/-- Products plus a value, exactly, rounded once: 0 × ∞ and a sum of opposite infinities set NV, as does a signalling operand. DEDUCED: log 87. -/
def fmaSum (f : FFmt) (rm : Rm) (ftz : Bool) (ps : List FProd) (c : FVal) (snan : Bool) : FRes :=
  let bad := ps.contains .invalid
  let terms := ps ++ [match c with | .nan _ => .nan | .inf s => .inf s | .fin s m e => .fin s m e]
  if bad || terms.contains .nan then f.nanRes (bad || snan)
  else if terms.contains (.inf true) then (if terms.contains (.inf false) then f.nanRes true else f.infRes true 0)
  else if terms.contains (.inf false) then f.infRes false 0
  else f.sum rm ftz (terms.filterMap fun t => match t with | .fin s m e => some (s, m, e) | _ => none)

/-- FFMA, one rounding of the exact sum (R185). DEDUCED: log 87. -/
def ffma (f : FFmt) (rm : Rm) (ftz : Bool) (a b c : Nat) : FRes :=
  let x := f.read ftz a
  let y := f.read ftz b
  let z := f.read ftz c
  fmaSum f rm ftz [fprod x y] z (x.isSnan || y.isSnan || z.isSnan)

/-- The low and high 16 bits of a packed operand (R182). -/
def half0 (w : Nat) : Nat := w % 2 ^ 16
def half1 (w : Nat) : Nat := w / 2 ^ 16 % 2 ^ 16

/-- FDOT2 (R186). DEDUCED: log 87. -/
def fdot2 (rm : Rm) (ftz : Bool) (a b c : Nat) : FRes :=
  let a0 := bf16.read ftz (half0 a)
  let a1 := bf16.read ftz (half1 a)
  let b0 := bf16.read ftz (half0 b)
  let b1 := bf16.read ftz (half1 b)
  let z := f32.read ftz c
  fmaSum f32 rm ftz [fprod a0 b0, fprod a1 b1] z (a0.isSnan || a1.isSnan || b0.isSnan || b1.isSnan || z.isSnan)

/-- m × 2^e divided by n × 2^g, with at least four bits below the last place: quotient, exponent, sticky. -/
def divExact (f : FFmt) (m : Nat) (e : Int) (n : Nat) (g : Int) : Nat × Int × Bool :=
  let k := f.fb + 5 + bitLen n - bitLen m
  ((m <<< k) / n, e - g - (k : Int), (m <<< k) % n != 0)

def fdiv (f : FFmt) (rm : Rm) (ftz : Bool) (a b : Nat) : FRes :=
  let x := f.read ftz a
  let y := f.read ftz b
  if x.isNan || y.isNan then f.nanRes (x.isSnan || y.isSnan)
  else
    match x, y with
    | .inf _, .inf _ => f.nanRes true
    | .inf s, .fin t _ _ => f.infRes (s != t) 0
    | .fin s _ _, .inf t => f.zeroRes (s != t)
    | .fin s m e, .fin t n g =>
      if n = 0 then (if m = 0 then f.nanRes true else f.infRes (s != t) fDZ)
      else if m = 0 then f.zeroRes (s != t)
      else
        let q := divExact f m e n g
        f.rnd rm ftz (s != t) q.1 q.2.1 q.2.2
    | _, _ => f.nanRes false

/-- The integer square root, bit by bit from bit k - 1. -/
def isqrtBits (n : Nat) : Nat → Nat → Nat
  | 0, r => r
  | k + 1, r =>
    let t := r + 2 ^ k
    isqrtBits n k (if t * t ≤ n then t else r)

def isqrt (n : Nat) : Nat := isqrtBits n (bitLen n / 2 + 1) 0

/-- The square root of m × 2^e with at least two bits below the last place: root, exponent, sticky. -/
def sqrtExact (f : FFmt) (m : Nat) (e : Int) : Nat × Int × Bool :=
  let k := 2 * (f.fb + 4)
  let k := if (e - (k : Int)) % 2 = 0 then k else k + 1
  let n := m <<< k
  let r := isqrt n
  (r, (e - (k : Int)) / 2, r * r != n)

def fsqrt (f : FFmt) (rm : Rm) (ftz : Bool) (a : Nat) : FRes :=
  match f.read ftz a with
  | .nan s => f.nanRes s
  | .inf s => if s then f.nanRes true else f.infRes false 0
  | .fin s m e =>
    if m = 0 then f.zeroRes s
    else if s then f.nanRes true
    else
      let r := sqrtExact f m e
      f.rnd rm ftz false r.1 r.2.1 r.2.2

def fscale (f : FFmt) (rm : Rm) (ftz : Bool) (a : Nat) (n : Int) : FRes :=
  match f.read ftz a with
  | .nan s => f.nanRes s
  | .inf s => f.infRes s 0
  | .fin s m e => f.rnd rm ftz s m (e + n) false

/-! ### Minimum, maximum, compare, classify, round (R187 to R190) -/

/-- A code as an integer in the order of values, with -0 just below +0. -/
def FFmt.key (f : FFmt) (w : Nat) : Int := if f.neg w then -(f.mag w : Int) - 1 else (f.mag w : Int)

def fminmax (f : FFmt) (max ftz : Bool) (a b : Nat) : FRes :=
  let a := f.flush ftz a
  let b := f.flush ftz b
  let fl := flagIf (f.isSnan a || f.isSnan b) fNV
  if f.isNan a then (if f.isNan b then ⟨f.nan, fl⟩ else ⟨b, fl⟩)
  else if f.isNan b then ⟨a, fl⟩
  else if (f.key a < f.key b) = !max then ⟨a, fl⟩ else ⟨b, fl⟩

/-- A code as an integer in the order of values, with -0 and +0 equal. -/
def FFmt.cmpKey (f : FFmt) (w : Nat) : Int := if f.neg w then -(f.mag w : Int) else (f.mag w : Int)

def fset (ftz : Bool) (fn : Fn) (a b : Nat) : Bool × Flags :=
  let a := f32.flush ftz a
  let b := f32.flush ftz b
  let sn := flagIf (f32.isSnan a || f32.isSnan b) fNV
  let x := f32.cmpKey a
  let y := f32.cmpKey b
  if f32.isNan a || f32.isNan b then
    match fn with
    | .eq => (false, sn)
    | .ne => (true, sn)
    | .lt | .le | .gt | .ge => (false, fNV)
    | .num => (false, sn)
    | .nan => (true, sn)
  else
    match fn with
    | .eq => (decide (x = y), 0)
    | .ne => (decide (x ≠ y), 0)
    | .lt => (decide (x < y), 0)
    | .le => (decide (x ≤ y), 0)
    | .gt => (decide (y < x), 0)
    | .ge => (decide (y ≤ x), 0)
    | .num => (true, 0)
    | .nan => (false, 0)

def fclass (a : Nat) : Nat :=
  if f32.isNan a then (if f32.isSnan a then 2 ^ 8 else 2 ^ 9)
  else
    let k := if f32.mag a = f32.infCode then 0 else if f32.mag a = 0 then 3 else if f32.isSub a then 2 else 1
    if f32.neg a then 2 ^ k else 2 ^ (7 - k)

def frnd (f : FFmt) (rm : Rm) (ftz : Bool) (a : Nat) : FRes :=
  let a := f.flush ftz a
  match f.val a with
  | .nan s => f.nanRes s
  | .inf _ => ⟨a, 0⟩
  | .fin s m e =>
    if m = 0 || 0 ≤ e then ⟨a, 0⟩
    else
      let r := roundAt rm s m e false 0
      ⟨(f.rnd .rn false s r.1 0 false).code, flagIf r.2 fNX⟩

/-! ### Conversions (R193 to R195) -/

/-- The range of an integer type, and its width. -/
def ityBits : ITy → Nat
  | .i32 | .n32 => 32
  | .i16 | .n16 => 16
  | .i8 | .n8 => 8
  | .i64 | .n64 => 64

def itySigned : ITy → Bool
  | .i32 | .i16 | .i8 | .i64 => true
  | _ => false

def ityMin (t : ITy) : Int := if itySigned t then -(2 ^ (ityBits t - 1) : Nat) else 0
def ityMax (t : ITy) : Int := if itySigned t then (2 ^ (ityBits t - 1) : Nat) - 1 else (2 ^ ityBits t : Nat) - 1

/-- Float to integer: the value and the flags (R193). -/
def f2i (f : FFmt) (t : ITy) (rm : Rm) (a : Nat) : Int × Flags :=
  match f.val a with
  | .nan _ => (0, fNV)
  | .inf s => (if s then ityMin t else ityMax t, fNV)
  | .fin s m e =>
    let r := roundAt rm s m e false 0
    let k : Int := if s then -(r.1 : Int) else (r.1 : Int)
    if k < ityMin t || ityMax t < k then (satInt k (ityMin t) (ityMax t), fNV) else (k, flagIf r.2 fNX)

def i2f (f : FFmt) (rm : Rm) (x : Int) : FRes := f.rnd rm false (decide (x < 0)) x.natAbs 0 false

def f2f (fd fs : FFmt) (rm : Rm) (ftz : Bool) (a : Nat) : FRes :=
  match fs.read ftz a with
  | .nan s => fd.nanRes s
  | .inf s => fd.infRes s 0
  | .fin s m e => fd.rnd rm ftz s m e false

/-! ### Packed operations (R182, R192) -/

/-- Apply an operation to both elements; the flags of both accrue. -/
def packed2 (g : Nat → Nat → FRes) (a b : Nat) : FRes :=
  let x := g (half0 a) (half0 b)
  let y := g (half1 a) (half1 b)
  ⟨x.code + y.code * 2 ^ 16, x.flags ||| y.flags⟩

def packed3 (g : Nat → Nat → Nat → FRes) (a b c : Nat) : FRes :=
  let x := g (half0 a) (half0 b) (half0 c)
  let y := g (half1 a) (half1 b) (half1 c)
  ⟨x.code + y.code * 2 ^ 16, x.flags ||| y.flags⟩

/-- An integer as a code, exactly: an i9 in a float position (R91). -/
def immCode (f : FFmt) (v : Int) : Nat := (i2f f .rn v).code

/-- A source in a float position (R91). -/
def Thread.fsrc (x : Thread) (f : FFmt) : Src → Nat
  | .reg r => (x.rd r).toNat
  | .imm v => immCode f (immInt v)

/-- A source in a packed position: an i9 goes to both halves (R91). -/
def Thread.hsrc (x : Thread) (f : FFmt) : Src → Nat
  | .reg r => (x.rd r).toNat
  | .imm v => immCode f (immInt v) * (2 ^ 16 + 1)

end Sys2Proof.Machine
end

