-- ==== Sys2Proof/Machine/Narrow.lean ====
section
/-! DEFINITION. Storage formats of eight bits and fewer, narrowing into a storage format and scaled expansion into a class format
(03_numbers.md R57 to R62), and the flags of Narrow (08_float.md R197). -/
namespace Sys2Proof.Machine
open Sys2Proof

/-- A storage format of R59. -/
inductive Store where
  | ieee (f : FFmt)
  | int (bits : Nat) (signed : Bool)
  | b8 (p : Nat) (finite unsigned : Bool)
  deriving DecidableEq, Repr

/-- The format of a code of R59; the output-only .i32 and the scale-only .e8 are apart. -/
def storeOf (c : Nat) : Option Store :=
  if c = 0x00 then some (.ieee f32)
  else if c = 0x01 then some (.ieee f16)
  else if c = 0x02 then some (.ieee bf16)
  else if c = 0x03 then some (.int 8 true)
  else if c = 0x04 then some (.int 8 false)
  else if c = 0x05 then some (.int 4 true)
  else if c = 0x06 then some (.int 4 false)
  else if 0x11 ≤ c ∧ c ≤ 0x17 then some (.b8 (c - 0x10) false false)
  else if 0x19 ≤ c ∧ c ≤ 0x1F then some (.b8 (c - 0x18) true false)
  else if 0x21 ≤ c ∧ c ≤ 0x27 then some (.b8 (c - 0x20) false true)
  else if 0x29 ≤ c ∧ c ≤ 0x2F then some (.b8 (c - 0x28) true true)
  else none

/-- Width of an element in bits. -/
def Store.bits : Store → Nat
  | .ieee f => f.width
  | .int n _ => n
  | .b8 .. => 8

def Store.isB8 : Store → Bool
  | .b8 .. => true
  | _ => false

/-- The exponent of the smallest spacing of a binary8 format: 1 - B - (P - 1) (R57, R58). -/
def b8Qmin (p : Nat) (unsigned : Bool) : Int := 1 - ((2 ^ (if unsigned then 8 - p else 7 - p) : Nat) : Int) - ((p : Int) - 1)

/-- The largest finite magnitude code. -/
def b8Max (finite unsigned : Bool) : Nat :=
  if unsigned then (if finite then 0xFE else 0xFD) else (if finite then 0x7F else 0x7E)

/-- The value of a code of a storage format (R57, R58). -/
def Store.val (t : Store) (c : Nat) : FVal :=
  match t with
  | .ieee f => f.val c
  | .int n sg =>
    let v : Int := if sg then signExt c n else ((c % 2 ^ n : Nat) : Int)
    .fin (decide (v < 0)) v.natAbs 0
  | .b8 p fin un =>
    if un && c == 0xFF then .nan false
    else if !un && c == 0x80 then .nan false
    else
      let neg := !un && decide (0x80 ≤ c)
      let mag := if un then c else c % 0x80
      if b8Max fin un < mag then .inf neg
      else
        let e := mag / 2 ^ (p - 1)
        let m := mag % 2 ^ (p - 1)
        if e = 0 then .fin neg m (b8Qmin p un) else .fin neg (2 ^ (p - 1) + m) (b8Qmin p un + (e : Int) - 1)

/-- What narrowing gives (R60): the code, SAT, and whether a finite result differs from the value. -/
structure NarrowRes where
  code    : Nat
  sat     : Bool
  inexact : Bool
  deriving DecidableEq, Repr

/-- A rounded magnitude code in a format that gets its largest finite value on overflow: `maxCode` and the sign bit.
DESIGN CHOICE: log 81. -/
def narrowMag (fb : Nat) (qmin : Int) (maxCode sign : Nat) (rm : Rm) (s : Bool) (m : Nat) (e : Int) : NarrowRes :=
  let E := e + (bitLen m : Int) - 1
  let q := spacing fb qmin E
  let r := roundAt rm s m e false q
  let code := (q - qmin).toNat * 2 ^ fb + r.1
  if maxCode < code then ⟨sign + maxCode, true, true⟩ else ⟨sign + code, false, r.2⟩

def intLo (bits : Nat) (sg : Bool) : Int := if sg then -(2 ^ (bits - 1) : Nat) else 0
def intHi (bits : Nat) (sg : Bool) : Int := if sg then (2 ^ (bits - 1) : Nat) - 1 else (2 ^ bits : Nat) - 1

/-- An integer as a code of some bits. -/
def intCode (bits : Nat) (v : Int) : Nat := (v % (2 ^ bits : Nat)).toNat

/-- R60. -/
def narrow (t : Store) (rm : Rm) (v : FVal) : NarrowRes :=
  match t with
  | .ieee f =>
    match v with
    | .nan _ => ⟨f.nan, false, false⟩
    | .inf s => ⟨f.signBit s + f.infCode, false, false⟩
    | .fin s m e => if m = 0 then ⟨f.signBit s, false, false⟩ else narrowMag f.fb f.qmin (f.infCode - 1) (f.signBit s) rm s m e
  | .int n sg =>
    match v with
    | .nan _ => ⟨0, true, true⟩
    | .inf s => ⟨intCode n (if s then intLo n sg else intHi n sg), true, true⟩
    | .fin s m e =>
      let r := roundAt rm s m e false 0
      let k : Int := if s then -(r.1 : Int) else (r.1 : Int)
      if k < intLo n sg then ⟨intCode n (intLo n sg), true, true⟩
      else if intHi n sg < k then ⟨intCode n (intHi n sg), true, true⟩
      else ⟨intCode n k, false, r.2⟩
  | .b8 p fin un =>
    match v with
    | .nan _ => ⟨if un then 0xFF else 0x80, false, false⟩
    | .inf s =>
      if un then (if s then ⟨0, true, true⟩ else if fin then ⟨0xFE, true, true⟩ else ⟨0xFE, false, false⟩)
      else if fin then ⟨(if s then 0x80 else 0) + 0x7F, true, true⟩
      else ⟨(if s then 0x80 else 0) + 0x7F, false, false⟩
    | .fin s m e =>
      if m = 0 then ⟨0, false, false⟩
      else
        let r := narrowMag (p - 1) (b8Qmin p un) (b8Max fin un) 0 rm s m e
        if s && un then (if r.code = 0 then r else ⟨0, true, true⟩)
        else if s && r.code != 0 then { r with code := r.code + 0x80 }
        else r

/-- Whether a binary8 code is zero or subnormal. DEDUCED: log 22. -/
def b8Tiny (p : Nat) (un : Bool) (c : Nat) : Bool := decide ((if un then c else c % 0x80) / 2 ^ (p - 1) = 0)

/-- Narrow with its flags (R197). DEDUCED: log 22. -/
def narrowFlags (t : Store) (rm : Rm) (v : FVal) : FRes :=
  let r := narrow t rm v
  match v with
  | .nan s => ⟨r.code, flagIf (r.sat || s) fNV⟩
  | .inf _ => ⟨r.code, flagIf r.sat fNV⟩
  | .fin _ m _ =>
    let tiny := match t with
      | .b8 p _ un => m != 0 && r.inexact && b8Tiny p un r.code
      | _ => false
    ⟨r.code, flagIf r.sat (fOF ||| fNX) ||| flagIf r.inexact fNX ||| flagIf tiny (fUF ||| fNX)⟩

/-- The exact binary32 code of a storage value (R200). -/
def storeToF32 (t : Store) (c : Nat) : Nat :=
  match t.val c with
  | .nan _ => f32.nan
  | .inf s => f32.signBit s + f32.infCode
  | .fin s m e => (f32.rnd .rn false s m e false).code

/-! ### Scales and expansion (R62) -/

/-- The value of an .e8 scale. -/
def e8Val (c : Nat) : FVal := if c = 0xFF then .nan false else .fin false 1 ((c : Int) - 127)

/-- Expansion of one element with a scale into a class format: the cell and SAT. -/
def expandScaled (k : FFmt) (v sc : FVal) : Nat × Bool :=
  match v, sc with
  | .nan _, _ => (k.nan, false)
  | _, .nan _ => (k.nan, false)
  | .fin s m _, .inf t => if m = 0 then (k.nan, false) else (k.signBit (s != t) + k.infCode, false)
  | .inf s, .inf t => (k.signBit (s != t) + k.infCode, false)
  | .inf s, .fin t n _ => if n = 0 then (k.nan, false) else (k.signBit (s != t) + k.infCode, false)
  | .fin s m e, .fin t n g =>
    if m * n = 0 then (k.signBit (s != t), false)
    else
      -- beyond the largest finite value before rounding
      let r := narrowMag k.fb k.qmin (k.infCode - 1) (k.signBit (s != t)) .rn (s != t) (m * n) (e + g)
      let tr := narrowMag k.fb k.qmin (k.infCode - 1) (k.signBit (s != t)) .ru false (m * n) (e + g)
      if tr.sat then (k.signBit (s != t) + (k.infCode - 1), true) else (r.code, false)

/-- Expansion without a scale: exact (R61). -/
def expandPlain (k : FFmt) (v : FVal) : Nat :=
  match v with
  | .nan _ => k.nan
  | .inf s => k.signBit s + k.infCode
  | .fin s m e => (k.rnd .rn false s m e false).code

end Sys2Proof.Machine
end

