-- ==== Sys2Proof/Machine/CopyGeom.lean ====
section
/-! DEFINITION. Copy descriptors, placement words and the sequence of a copy (13_copy.md R296 to R298, R304, R305). A descriptor is the
number of its 512 bits. -/
namespace Sys2Proof.Machine
open Sys2Proof

/-! ### Descriptor fields (R296) -/

def dFmt (d : Nat) : Nat := bitsOf d 319 314
def dSfmt (d : Nat) : Nat := bitsOf d 313 308
def dScm (d : Nat) : Nat := bitsOf d 307 306
def dCell (d : Nat) : Nat := bitsOf d 305 304
def dRm (d : Nat) : Nat := bitsOf d 303 302
def dTrn (d : Nat) : Bool := bitsOf d 301 301 == 1
def dRaw (d : Nat) : Bool := bitsOf d 300 300 == 1
def dMcn (d : Nat) : Nat := bitsOf d 299 298
def dTR (d : Nat) : Nat := 16 * (bitsOf d 295 292 + 1)
def dTC (d : Nat) : Nat := 16 * (bitsOf d 291 288 + 1)
def dMcr (d i : Nat) : Nat := bitsOf d (263 + 8 * i) (256 + 8 * i)
def dPlace1 (d : Nat) : Nat := bitsOf d 255 224
def dPlace0 (d : Nat) : Nat := bitsOf d 223 192
def dCols (d : Nat) : Nat := bitsOf d 191 176
def dRows (d : Nat) : Nat := bitsOf d 175 160
def dGstride (d : Nat) : Nat := bitsOf d 159 128
def dSaddr (d : Nat) : Nat := bitsOf d 127 64
def dGaddr (d : Nat) : Nat := bitsOf d 63 0

def rmOf (c : Nat) : Rm :=
  match c with
  | 0 => .rn
  | 1 => .rz
  | 2 => .rd
  | _ => .ru

/-! ### Placement (R297) -/

def pSlot (p : Nat) : Nat := bitsOf p 21 16
def pNB (p : Nat) : Nat := 2 ^ bitsOf p 9 8
def pBank (p : Nat) : Nat := bitsOf p 6 0
def pReserved (p : Nat) : Bool := bitsOf p 31 22 != 0 || bitsOf p 15 10 != 0 || bitsOf p 7 7 != 0

def pSpan (p tc : Nat) : Nat := (tc / 16 + pNB p - 1) / pNB p

/-- The scratchpad offset of element (i, j) of a tile with TC columns and CB cell bytes. -/
def placeAt (p tc cb i j : Nat) : Nat :=
  let ci := i / 16
  let cj := j / 16
  let bank := pBank p + Nat.xor (cj % pNB p) (ci % pNB p)
  let slot := pSlot p + (ci * pSpan p tc + cj / pNB p) * (cb / 512)
  bank * bankSize + slot * 512 + ((i % 16) * 16 + j % 16) * (cb / 256)

/-- The element and the byte within it at a logical offset. -/
def logicalElem (tc cb l : Nat) : Nat × Nat × Nat :=
  let cell := l / cb
  let e := l % cb / (cb / 256)
  (cell / (tc / 16) * 16 + e / 16, cell % (tc / 16) * 16 + e % 16, l % (cb / 256))

/-- The scratchpad offset of a logical offset. -/
def placeLogical (p tc cb l : Nat) : Nat :=
  let e := logicalElem tc cb l
  placeAt p tc cb e.1 e.2.1 + e.2.2

/-- The logical offset that a scratchpad offset holds, if the tile holds it. -/
def logicalOf (p tr tc cb off : Nat) : Option Nat :=
  let bank := off / bankSize
  let nb := pNB p
  if bank < pBank p ∨ pBank p + nb ≤ bank then none
  else
    let rel := off % bankSize
    if rel < pSlot p * 512 then none
    else
      let k := (rel - pSlot p * 512) / cb
      let ci := k / pSpan p tc
      let cj := k % pSpan p tc * nb + Nat.xor (bank - pBank p) (ci % nb)
      if tr / 16 ≤ ci ∨ tc / 16 ≤ cj then none
      else some ((ci * (tc / 16) + cj) * cb + (rel - pSlot p * 512) % cb)

/-- The banks a tile uses. -/
def tileBanks (p : Nat) : List Nat := (List.range (pNB p)).map (pBank p + ·)

/-- A placement is valid but for its grants (R297). -/
def placeValid (p tr tc cb : Nat) : Bool :=
  pBank p % pNB p == 0 && decide (pBank p + pNB p ≤ 96) && decide (pSlot p + tr / 16 * pSpan p tc * (cb / 512) ≤ 64)

/-! ### Cells -/

/-- Cell bytes of a CELL code: bf16 cells 512, f32 and i32 cells 1,024. -/
def cellBytes (cell : Nat) : Nat := if cell = 0 then 512 else 1024

/-- Whether a storage format expands into the wide class (R61). -/
def wideFmt (fmt : Nat) : Bool := fmt == 0x00 || fmt == 0x01

/-- Bits of an element of a format code of R59, .i32 included. -/
def fmtBits (fmt : Nat) : Nat := if fmt = 0x08 then 32 else match storeOf fmt with | some t => t.bits | none => 8

/-- Element size in bytes, 1 for 4-bit elements (R300 ALIGN). -/
def fmtAlign (fmt : Nat) : Nat := max 1 (fmtBits fmt / 8)

/-- The cell bytes of a copy's scratchpad tile. -/
def Copy.cb (c : Copy) : Nat :=
  match c.kind with
  | .tcopy => if wideFmt (dFmt c.desc) then 1024 else 512
  | _ => cellBytes (dCell c.desc)

/-- The hint a copy gives the lines of one of its arrays in memory: none on the private window (R95, R241). -/
def Copy.hint (c : Copy) (addr : Nat) : BitVec 2 := if bitsOf addr 63 56 = 0xFE then 0 else c.ch

/-- Bytes of a TSTORE row in memory (R302, R305): 4-bit elements are packed two to a byte. -/
def Copy.rowBytes (c : Copy) : Nat := (dCols c.desc * fmtBits (dFmt c.desc) + 7) / 8

/-- All sequence bytes of a copy (R305). -/
def Copy.total (c : Copy) : Nat :=
  if dRaw c.desc then dRows c.desc * dCols c.desc
  else
    match c.kind with
    | .tstore => dRows c.desc * c.rowBytes
    | _ => dTR c.desc * dTC c.desc * (c.cb / 256)

/-- Sequence bytes of the granule that begins at a sequence offset: 64, or the rest of a TSTORE row if that is shorter; a row of a raw
TSTORE is COLS bytes long (R298, R305). -/
def Copy.granule (c : Copy) (at' : Nat) : Nat :=
  if c.kind = .tstore then
    let row := if dRaw c.desc then dCols c.desc else c.rowBytes
    min 64 (row - at' % row)
  else min 64 (c.total - at')

/-- How many destinations a copy has: TSTORE has one, memory. -/
def Copy.dests (c : Copy) : Nat := if c.kind = .tstore then 1 else dMcn c.desc + 1

/-- The scratchpad offset of a sequence byte on a destination of TCOPY and TCOPYS. -/
def Copy.destOff (c : Copy) (l : Nat) : Nat :=
  if dRaw c.desc then bitsOf (dPlace0 c.desc) 21 0 + l else placeLogical (dPlace0 c.desc) (dTC c.desc) c.cb l

/-- The sequence byte a destination offset holds. -/
def Copy.seqOf (c : Copy) (off : Nat) : Option Nat :=
  if dRaw c.desc then
    (if bitsOf (dPlace0 c.desc) 21 0 ≤ off ∧ off < bitsOf (dPlace0 c.desc) 21 0 + c.total then some (off - bitsOf (dPlace0 c.desc) 21 0)
     else none)
  else logicalOf (dPlace0 c.desc) (dTR c.desc) (dTC c.desc) c.cb off

/-- The sequence byte a TCOPYS source offset holds. -/
def Copy.srcSeqOf (c : Copy) (off : Nat) : Option Nat :=
  if dRaw c.desc then
    (if bitsOf (dPlace1 c.desc) 21 0 ≤ off ∧ off < bitsOf (dPlace1 c.desc) 21 0 + c.total then some (off - bitsOf (dPlace1 c.desc) 21 0)
     else none)
  else logicalOf (dPlace1 c.desc) (dTR c.desc) (dTC c.desc) c.cb off

end Sys2Proof.Machine
end

