-- ==== Sys2Proof/Machine/Aes.lean ====
section
/-! DEFINITION. AES-256 (FIPS 197), its XTS mode on sectors (IEEE 1619) and the key wrap of RFC 3394, which 23_trust.md R485 and R486 apply to lines
and keys. Bytes are numbers below 256. -/
namespace Sys2Proof.Machine
open Sys2Proof

/-- Little-endian bytes as a number, and back. -/
def leNat : List Byte → Nat
  | [] => 0
  | b :: bs => b.toNat + 256 * leNat bs

def leBytes : Nat → Nat → List Byte
  | _, 0 => []
  | x, n + 1 => BitVec.ofNat 8 x :: leBytes (x / 256) n

/-- Big-endian bytes as a number. -/
def beNat (b : List Byte) : Nat := leNat b.reverse

/-! ### The field and the S-box (FIPS 197, 4 and 5.1.1) -/

def gfDouble (a : Nat) : Nat := if a < 128 then 2 * a else Nat.xor (2 * a) 0x11B

def gfMulAux : Nat → Nat → Nat → Nat
  | 0, _, _ => 0
  | n + 1, a, b => Nat.xor (if b % 2 = 1 then a else 0) (gfMulAux n (gfDouble a) (b / 2))

def gfMul (a b : Nat) : Nat := gfMulAux 8 a b

/-- The inverse, as the power 254; of 0 it is 0. -/
def gfInv (a : Nat) : Nat :=
  let a2 := gfMul a a
  let a4 := gfMul a2 a2
  let a8 := gfMul a4 a4
  let a16 := gfMul a8 a8
  let a32 := gfMul a16 a16
  let a64 := gfMul a32 a32
  gfMul (gfMul (gfMul a2 a4) (gfMul a8 a16)) (gfMul (gfMul a32 a64) (gfMul a64 a64))

/-- A byte rotated left by k bits. -/
def rotByte (b k : Nat) : Nat := (b * 2 ^ k) % 256 + b / 2 ^ (8 - k)

def subByte (b : Nat) : Nat :=
  let c := gfInv b
  Nat.xor 0x63 (Nat.xor c (Nat.xor (Nat.xor (rotByte c 1) (rotByte c 2)) (Nat.xor (rotByte c 3) (rotByte c 4))))

def subByteInv (b : Nat) : Nat := gfInv (Nat.xor 0x05 (Nat.xor (rotByte b 1) (Nat.xor (rotByte b 3) (rotByte b 6))))

/-! ### The cipher: 14 rounds on 16 bytes, column after column -/

def xorBytes (a b : List Nat) : List Nat := (a.zip b).map fun e => Nat.xor e.1 e.2

/-- Byte r of column c comes from column c + r. -/
def shiftRows (s : List Nat) : List Nat := (List.range 16).map fun i => s.getD ((i + 4 * (i % 4)) % 16) 0
def shiftRowsInv (s : List Nat) : List Nat := (List.range 16).map fun i => s.getD ((i + 12 * (i % 4)) % 16) 0

/-- Each column times a fixed polynomial, given by its first row. -/
def mixWith (m : List Nat) (s : List Nat) : List Nat :=
  (List.range 16).map fun i => (List.range 4).foldl (fun a k => Nat.xor a (gfMul (m.getD ((k + 4 - i % 4) % 4) 0) (s.getD (i / 4 * 4 + k) 0))) 0

def mixColumns : List Nat → List Nat := mixWith [2, 3, 1, 1]
def mixColumnsInv : List Nat → List Nat := mixWith [14, 11, 13, 9]

/-- The word that follows in the key schedule (5.2): `i` is its number, `prev` the word before it and `old` the eighth before it. -/
def nextKeyWord (i : Nat) (old prev : List Nat) : List Nat :=
  let t := if i % 8 = 0 then
      xorBytes ((prev.drop 1 ++ prev.take 1).map subByte) [(List.range (i / 8 - 1)).foldl (fun a _ => gfDouble a) 1, 0, 0, 0]
    else if i % 8 = 4 then prev.map subByte else prev
  xorBytes old t

/-- The 60 words of the key schedule of a key of 32 bytes. -/
def keyWords : Nat → List (List Nat) → List (List Nat)
  | 0, ws => ws
  | n + 1, ws => keyWords n (ws ++ [nextKeyWord ws.length (ws.getD (ws.length - 8) []) (ws.getD (ws.length - 1) [])])

def roundKeys (key : List Nat) : List (List Nat) :=
  let ws := keyWords 52 ((List.range 8).map fun i => (key.drop (4 * i)).take 4)
  (List.range 15).map fun r => ((ws.drop (4 * r)).take 4).flatMap id

def aesEnc (ks : List (List Nat)) (b : List Nat) : List Nat :=
  let s := (List.range 13).foldl (fun s r => xorBytes (mixColumns (shiftRows (s.map subByte))) (ks.getD (r + 1) [])) (xorBytes b (ks.getD 0 []))
  xorBytes (shiftRows (s.map subByte)) (ks.getD 14 [])

def aesDec (ks : List (List Nat)) (b : List Nat) : List Nat :=
  let s := (List.range 13).foldl (fun s r => mixColumnsInv (xorBytes ((shiftRowsInv s).map subByteInv) (ks.getD (13 - r) [])))
    (xorBytes b (ks.getD 14 []))
  xorBytes ((shiftRowsInv s).map subByteInv) (ks.getD 0 [])

/-! ### XTS (R485) -/

/-- A number's little-endian bytes, as numbers. -/
def numBytes (x n : Nat) : List Nat := (leBytes x n).map BitVec.toNat

/-- The tweak of the block after this one: times the primitive element of the field of 2^128 elements, bytes little-endian. -/
def nextTweak (t : List Nat) : List Nat :=
  let v := 2 * leNat (t.map (BitVec.ofNat 8))
  numBytes (if v < 2 ^ 128 then v else Nat.xor (v - 2 ^ 128) 0x87) 16

def xtsBlocks (f : List Nat → List Nat) : Nat → List Nat → List Nat → List Nat
  | 0, _, _ => []
  | n + 1, t, b => xorBytes (f (xorBytes (b.take 16) t)) t ++ xtsBlocks f n (nextTweak t) (b.drop 16)

/-- A data unit of 64 bytes under a key pair: the low half is the data key, the high half the tweak key; the number of the unit is physical address
bits [51:6] (R485). DESIGN CHOICE: log 9. -/
def xts (dec : Bool) (pair unit : Nat) (b : List Byte) : List Byte :=
  let k1 := roundKeys (numBytes pair 32)
  let t := aesEnc (roundKeys (numBytes (pair / 2 ^ 256) 32)) (numBytes (unit % 2 ^ 46) 16)
  (xtsBlocks (if dec then aesDec k1 else aesEnc k1) 4 t (b.map BitVec.toNat)).map (BitVec.ofNat 8)

/-! ### Key wrap (R486, RFC 3394) -/

/-- A number's big-endian bytes. -/
def beNums (x n : Nat) : List Nat := (numBytes x n).reverse

/-- Steps of the wrap: step t takes register A and the registers R, the next to be taken first. -/
def wrapSteps (ks : List (List Nat)) : Nat → Nat → List Nat × List (List Nat) → List Nat × List (List Nat)
  | 0, _, x => x
  | n + 1, t, (a, r :: rs) =>
    let b := aesEnc ks (a ++ r)
    wrapSteps ks n (t + 1) (xorBytes (b.take 8) (beNums t 8), rs ++ [b.drop 8])
  | _ + 1, _, (a, []) => (a, [])

/-- The steps undone, the register that was put back last taken first. -/
def unwrapSteps (ks : List (List Nat)) : Nat → List Nat × List (List Nat) → List Nat × List (List Nat)
  | 0, x => x
  | n + 1, (a, r :: rs) =>
    let b := aesDec ks (xorBytes a (beNums (n + 1) 8) ++ r)
    unwrapSteps ks n (b.take 8, rs ++ [b.drop 8])
  | _ + 1, (a, []) => (a, [])

def wrapIv : List Nat := List.replicate 8 0xA6

/-- Registers of eight bytes. -/
def octets : Nat → List Nat → List (List Nat)
  | 0, _ => []
  | n + 1, b => b.take 8 :: octets n (b.drop 8)

/-- A key of 8n bytes wrapped under a key-encryption key of 32 bytes. -/
def keyWrap (kek : List Nat) (n : Nat) (key : List Nat) : List Nat :=
  let r := wrapSteps (roundKeys kek) (6 * n) 1 (wrapIv, octets n key)
  r.1 ++ r.2.flatMap id

/-- The unwrap; `none` where the integrity check fails. -/
def keyUnwrap (kek : List Nat) (n : Nat) (w : List Nat) : Option (List Nat) :=
  let r := unwrapSteps (roundKeys kek) (6 * n) (w.take 8, (octets n (w.drop 8)).reverse)
  if r.1 = wrapIv then some (r.2.reverse.flatMap id) else none

end Sys2Proof.Machine
end

