-- ==== Sys2Proof/Machine/Phys.lean ====
section
/-! DEFINITION. Physical memory at the homes: bytes of HBM under the key they were written with, poison, the record a home keeps
of each line, and the scope checker (R224, R229, R237, R485, R495). -/
namespace Sys2Proof.Machine
open Sys2Proof

/-- The key in a slot, as the number the model tags sectors with; 0 where the slot holds none (R485). DESIGN CHOICE: log 9. -/
def State.keyOf (s : State) (part slot : Nat) : Nat :=
  match (s.part part).keys.getD slot none with
  | some k => k.toNat + 1
  | none => 0

/-- The byte HBM holds at a physical address. DESIGN CHOICE: log 3. -/
def State.memByte (s : State) (pa : Nat) : Byte := Tab.get memDefault s.mem pa

def State.line (s : State) (l : Nat) : LineRec := s.lines.getD l LineRec.none

/-- The key under which a home reads and writes a sector for an access under a slot: that of the slot under which the L2 holds its line, where it holds
it; it was filled under that, and is held in plain form (R485). DESIGN CHOICE: log 9. -/
def State.sectorKey (s : State) (part slot q : Nat) : Nat :=
  let r := s.line (q * sectorSize / lineSize)
  s.keyOf part (if r.held then r.key else slot)

/-- The key tag of a sector whose contents are lost: no key has it, so it reads as free values. DESIGN CHOICE: log 56. -/
def lostTag : Nat := 2 ^ 513

/-- Whether a sector reads in plain form under a key: nothing has been written there, or it was written under that key. -/
def State.sectorPlain (s : State) (key q : Nat) : Bool := Tab.get 0 s.keyTag q == 0 || Tab.get 0 s.keyTag q == key

/-- A sector's bytes as HBM gives them under a key: what was written under another comes out deciphered with the wrong key (R485); without a
key, or where the contents are lost, they are free values from an index on (DESIGN CHOICE, log 6). -/
def State.sectorUnder (s : State) (key q fresh : Nat) : List Byte :=
  let plain := (List.range sectorSize).map fun i => s.memByte (q * sectorSize + i)
  let t := Tab.get 0 s.keyTag q
  if s.sectorPlain key q then plain
  else if key = 0 ∨ t = lostTag then (List.range sectorSize).map fun i => Config.freeByte (fresh + i)
  else xts true (key - 1) q (xts false (t - 1) q plain)

/-- n bytes from a physical address as the home reads them under a key slot. DESIGN CHOICE: log 9. DESIGN CHOICE: log 6. -/
def State.homeRead (s : State) (part slot pa n : Nat) : State × List Byte :=
  let q := pa / sectorSize
  let qs := (List.range ((pa + n + sectorSize - 1) / sectorSize - q)).map (q + ·)
  if qs.all fun q => s.sectorPlain (s.sectorKey part slot q) q then (s, (List.range n).map fun i => s.memByte (pa + i))
  else ({ s with fresh := s.fresh + sectorSize * qs.length },
        let l := qs.flatMap fun k => s.sectorUnder (s.sectorKey part slot k) k (s.fresh + sectorSize * (k - q))
        (List.range n).map fun i => l.getD (pa % sectorSize + i) 0)

/-- Write bytes where the mask is true. -/
def memPut (m : List Host.Cell) (pa : Nat) : List Byte → List Bool → List Host.Cell
  | [], _ => m
  | _ :: _, [] => m
  | b :: bs, k :: ks => memPut (if k then Tab.put memDefault m pa b else m) (pa + 1) bs ks

/-- Whether a sector of number q has all its 64 bytes among those written at pa with a mask. -/
def wholeSector (q pa : Nat) (mask : List Bool) : Bool :=
  decide (pa ≤ q * sectorSize) && (List.range sectorSize).all fun i => mask.getD (q * sectorSize + i - pa) false

/-- Whether any byte of sector q is written. -/
def touchesSector (q pa : Nat) (mask : List Bool) : Bool :=
  (List.range sectorSize).any fun i => decide (pa ≤ q * sectorSize + i) && mask.getD (q * sectorSize + i - pa) false

/-- What a write under a key does to one sector before its bytes land: a partial write merges with what the sector reads as under
that key, and a whole write clears poison (R227, R485, R495). -/
def State.openSector (s : State) (key q pa : Nat) (mask : List Bool) : State :=
  if !touchesSector q pa mask then s
  else
    let whole := wholeSector q pa mask
    let s := if whole || s.sectorPlain key q then s
      else { s with
        mem := memPut s.mem (q * sectorSize) (s.sectorUnder key q s.fresh) (List.replicate sectorSize true)
        fresh := s.fresh + sectorSize }
    { s with keyTag := Tab.put 0 s.keyTag q key, poison := if whole then Tab.put false s.poison q false else s.poison }

/-- The bytes of a write land at the home under a key slot. -/
def State.homeWrite (s : State) (part slot pa : Nat) (bytes : List Byte) (mask : List Bool) : State :=
  let q := pa / sectorSize
  let s := (List.range ((pa + bytes.length + sectorSize - 1) / sectorSize - q)).foldl
    (fun s i => s.openSector (s.sectorKey part slot (q + i)) (q + i) pa mask) s
  { s with mem := memPut s.mem pa bytes mask }

/-- Write all of some bytes. -/
def State.homePut (s : State) (part slot pa : Nat) (bytes : List Byte) : State :=
  s.homeWrite part slot pa bytes (List.replicate bytes.length true)

/-- Whether any sector of [pa, pa + n) is poisoned (R494). -/
def State.poisoned (s : State) (pa n : Nat) : Bool :=
  (List.range ((pa + n - 1) / sectorSize + 1 - pa / sectorSize)).any fun i => Tab.get false s.poison (pa / sectorSize + i)

/-! ### The home's record of a line (R228, R229, R237) -/

def State.modLine (s : State) (l : Nat) (f : LineRec → LineRec) : State := { s with lines := s.lines.set l (f (s.line l)) }

def dmax (a b : DWord) : DWord := if a.toNat < b.toNat then b else a

/-- A write performed at the home completes at w (R229). -/
def LineRec.written (r : LineRec) (w : DWord) : LineRec := { r with lwct := w, writes := r.writes + 1 }

/-- The completion time a load of the line carries: of the last write performed here or, for a pooled line, at the pool home (R229, R230). -/
def LineRec.carried (r : LineRec) : DWord := dmax r.lwct r.pwct

/-! ### HBM stacks and L2 slices (R22, R224) -/

/-- The stack of the package that holds a physical address: die d owns stacks 3d to 3d + 2 (R22). -/
def hbmStack (pa : Nat) : Nat := 3 * (pa / hbmPerDie) + pa % hbmPerDie / 4096 % 3

/-- The offset within its stack (R22). -/
def hbmOffset (pa : Nat) : Nat := pa % hbmPerDie / 4096 / 3 * 4096 + pa % hbmPerDie % 4096

/-- The slice of a die's L2 that homes a line, from the line's number La (R224). -/
def l2Slice (la : Nat) : Nat := Nat.xor (Nat.xor (bitsOf la 4 0) (bitsOf la 9 5)) (Nat.xor (bitsOf la 14 10) (bitsOf la 19 15))

/-! ### Replacement hints (R95, R241) -/

/-- Strength of a hint of CH: evict-first, normal, evict-last (R241). -/
def hintPrio (ch : BitVec 2) : Nat :=
  match ch.toNat with
  | 0 => 1
  | 2 => 2
  | _ => 0

/-- The priority of a fill: normal, then the access's hint and the page's (R241). -/
def fillPrio (ch : BitVec 2) (pri : Nat) : Nat :=
  let page := match pri with | 0 => 1 | 1 => 0 | _ => 2
  if ch = 0 then page else if pri = 0 then hintPrio ch else max (hintPrio ch) page

/-- The stronger of two hints. -/
def strongCh (a b : BitVec 2) : BitVec 2 := if hintPrio a < hintPrio b then b else a

/-- GTIME at the home of a local line. -/
def State.homeTime (s : State) (pa : Nat) : DWord := s.dieTime (pa / hbmPerDie)

/-- The completion time of a write performed now at a line's home, and the state that has recorded it (R229). -/
def State.completeWrite (s : State) (pa : Nat) : State × DWord :=
  let l := pa / lineSize
  let w := dmax (s.homeTime pa) (s.line l).llast
  (s.modLine l fun r => r.written w, w)

/-- A comparison of integers (R104). -/
def cmpInt (c : Cmp) (a b : Int) : Bool :=
  match c with
  | .eq => decide (a = b)
  | .ne => decide (a ≠ b)
  | .lt => decide (a < b)
  | .le => decide (a ≤ b)
  | .gt => decide (b < a)
  | .ge => decide (b ≤ a)

/-- The comparison of a signal's value with an operand (R365). -/
def sigHolds (cmp : Cmp) (v : Nat) (b : Word) : Bool := cmpInt cmp (v : Int) (b.toNat : Int)

/-- Whether core a lies in the domain of a scope for core b of the same partition (R231). -/
def scopeCovers (sc : Scope) (a b : Nat) : Bool :=
  match sc with
  | .core => a == b
  | .quad => coreQuad a == coreQuad b
  | .die => coreDie a == coreDie b
  | .pkg | .pod => true

/-- The scope checker: whether a new access by core c at a scope is refused (R237). -/
def LineRec.refuses (r : LineRec) (ctx c : Nat) (sc : Scope) : Bool :=
  match r.scope with
  | .none => false
  | .some (c0, s0, x0) => x0 == ctx && !(scopeCovers sc c0 c && scopeCovers s0 c c0)

end Sys2Proof.Machine
end

