-- ==== Sys2Proof/Machine/Xlate.lean ====
section
/-! DEFINITION. Pages and translation (12_page.md R274 to R292): table entries, the walk, the TLB and the walk cache, the order of
the translation checks. -/
namespace Sys2Proof.Machine
open Sys2Proof

/-- What an access needs of a page (R283), and its KIND in a fault event (R286). -/
inductive Acc where
  | read | write | both | fetch | copyRead | copyWrite | hint
  deriving DecidableEq, Repr

def Acc.rd : Acc → Bool
  | .read | .both | .copyRead => true
  | _ => false

def Acc.wr : Acc → Bool
  | .write | .both | .copyWrite => true
  | _ => false

def Acc.ex : Acc → Bool
  | .fetch => true
  | _ => false

def Acc.kind : Acc → Nat
  | .read | .hint => 0
  | .write => 1
  | .both => 2
  | .fetch => 3
  | .copyRead => 4
  | .copyWrite => 5

/-! ### Entries (R274 to R276) -/

/-- The lowest VA bit a level indexes, and so the size of what an entry there maps. -/
def levelShift : Nat → Nat
  | 0 => 16
  | 1 => 21
  | 2 => 30
  | _ => 43

def levelEntries : Nat → Nat
  | 0 => 32
  | 1 => 512
  | _ => 8192

/-- The low address bits that are 0 in a table of a level. -/
def tableAlign : Nat → Nat
  | 0 => 8
  | 1 => 12
  | _ => 16

def vaIndex (lvl va : Nat) : Nat := (va >>> levelShift lvl) % levelEntries lvl

def entV (e : DWord) : Bool := e.getLsbD 63
def entLeaf (e : DWord) : Bool := e.getLsbD 62
def entPoison (e : DWord) : Bool := e.getLsbD 61
def entMwp (e : DWord) : Bool := e.getLsbD 60
def entPool (e : DWord) : Bool := e.getLsbD 59
def entFrame (e : DWord) : Nat := bitsOf e.toNat 51 16 * 0x10000
def entKey (e : DWord) : Nat := bitsOf e.toNat 15 10
def entPri (e : DWord) : Nat := bitsOf e.toNat 9 8
def entNext (e : DWord) : Nat := bitsOf e.toNat 51 8 * 0x100

/-- R276, for a valid entry at a level. -/
def malformed (e : DWord) (lvl : Nat) : Bool :=
  let x := e.toNat
  if entLeaf e then
    bitsOf x 58 52 != 0 || bitsOf x 7 5 != 0 || bitsOf x 1 0 != 0 || entPri e == 3 || lvl == 3
      || entFrame e % 2 ^ levelShift lvl != 0
  else bitsOf x 61 52 != 0 || bitsOf x 7 0 != 0 || lvl == 0 || entNext e % 2 ^ tableAlign (lvl - 1) != 0

/-- Whether a range lies in the host region, even in part (R276, R488). -/
def inHostRegion (pa size : Nat) : Bool := decide (pa < hostHi) && decide (hostLo < pa + size)

/-- A range that lies wholly in the HBM of one active die of the partition and not in the host region (R276, R488). -/
def State.localRange (s : State) (part pa size : Nat) : Bool :=
  let d := pa / hbmPerDie
  let dp := (s.die d).diepart
  decide (d < 4) && decide ((pa + size - 1) / hbmPerDie = d) && dp.getLsbD 31 && decide (dp.toNat % 4 = part)
    && !inHostRegion pa size

/-- The pool window that holds a range (R447). -/
def State.poolWindow (s : State) (part pa size : Nat) : Option DWord :=
  (s.part part).poolwin.find? fun w => w.getLsbD 63 && decide (bitsOf w.toNat 21 0 * 2 ^ 30 ≤ pa)
    && decide (pa + size ≤ bitsOf w.toNat 21 0 * 2 ^ 30 + bitsOf w.toNat 39 22 * 2 ^ 30)

/-- Whether a leaf's page is foreign (R276). -/
def State.foreignLeaf (s : State) (part : Nat) (e : DWord) (lvl : Nat) : Bool :=
  if entPool e then (s.poolWindow part (entFrame e) (2 ^ levelShift lvl)).isNone || inHostRegion (entFrame e) (2 ^ levelShift lvl)
  else !s.localRange part (entFrame e) (2 ^ levelShift lvl)

def State.foreignTable (s : State) (part table lvl : Nat) : Bool := !s.localRange part table (2 ^ tableAlign lvl)

/-! ### The walk (R277, R279, R283 orders 1 and 2) -/

/-- What a walk gives: the pointers it read, and the leaf with its level or the failure. -/
structure WalkRes where
  ptrs : List (Nat × Nat)        -- level of the table pointed to, its address
  leaf : Except Miss (DWord × Nat)

def miss (c : Cause) (sub lvl : Nat) : Miss := { cause := c, sub := sub, level := lvl }

/-- Read entries from the table of a level down. -/
def State.walkFrom (s : State) (part tkey va : Nat) : Nat → Nat → State × WalkRes
  | lvl, table =>
    if s.foreignTable part table lvl then (s, ⟨[], .error (miss .page 2 lvl)⟩)
    else
      let pa := table + 8 * vaIndex lvl va
      if s.poisoned pa 8 then (s, ⟨[], .error (miss .page 3 lvl)⟩)
      else
        let r := s.homeRead part tkey pa 8
        let e : DWord := BitVec.ofNat 64 (leNat r.2)
        if !entV e then (r.1, ⟨[], .error (miss .page 0 lvl)⟩)
        else if malformed e lvl then (r.1, ⟨[], .error (miss .page 1 lvl)⟩)
        else if entLeaf e then
          if s.foreignLeaf part e lvl then (r.1, ⟨[], .error (miss .page 2 lvl)⟩)
          else if entPoison e then (r.1, ⟨[], .error (miss .page 4 lvl)⟩)
          else (r.1, ⟨[], .ok (e, lvl)⟩)
        else
          match lvl with
          | 0 => (r.1, ⟨[], .error (miss .page 1 0)⟩)
          | l + 1 =>
            if s.foreignTable part (entNext e) l then (r.1, ⟨[], .error (miss .page 2 (l + 1))⟩)
            else
              let q := State.walkFrom r.1 part tkey va l (entNext e)
              (q.1, ⟨(l, entNext e) :: q.2.ptrs, q.2.leaf⟩)

/-- The bits of a VA that select a table of a level. -/
def tableTag (lvl va : Nat) : Nat := va >>> (levelShift lvl + (match lvl with | 0 => 5 | 1 => 9 | _ => 13))

/-- The deepest table pointer the walk cache holds for an address (R281). -/
def Core.walkStart (c : Core) (ctx va : Nat) : Option (Nat × Nat) :=
  let hit := fun lvl => (c.walkc.find? fun p => p.ctx == ctx && p.level == lvl && p.vpn == tableTag lvl va).map fun p => (lvl, p.table)
  (hit 0).orElse fun _ => (hit 1).orElse fun _ => hit 2

/-- Keep at most n entries, dropping the oldest. DESIGN CHOICE: log 23. -/
def keepNewest {α : Type} (n : Nat) (l : List α) : List α := l.drop (l.length - n)

/-- Put a walk's pointers and leaf into the walk cache and the TLB (R281); its reads count (R464). DESIGN CHOICE: log 23. -/
def Core.cacheWalk (c : Core) (ctx va : Nat) (w : WalkRes) : Core :=
  let new := (w.ptrs.map fun p => ({ ctx := ctx, level := p.1, vpn := tableTag p.1 va, table := p.2 } : WalkPtr)).filter
    fun p => !c.walkc.contains p
  let c := { c with walkc := keepNewest 64 (c.walkc ++ new), bytes := c.bytes + 8 * (w.ptrs.length + 1) }
  match w.leaf with
  | .ok (e, lvl) => { c with tlb := keepNewest 2048 (c.tlb ++ [{ ctx := ctx, vpn := va >>> levelShift lvl, level := lvl, leaf := e }]) }
  | .error _ => c

def Core.tlbFind (c : Core) (ctx va : Nat) : Option (DWord × Nat) :=
  (c.tlb.find? fun t => t.ctx == ctx && t.vpn == va >>> levelShift t.level).map fun t => (t.leaf, t.level)

/-! ### The checks (R283) -/

/-- Checks 3 to 6 of R283 on a leaf. -/
def State.leafCheck (s : State) (x : CtxRef) (a : Acc) (e : DWord) (lvl : Nat) : Option Miss :=
  if a = .hint then none
  else if !(s.ctx x).keymask.getLsbD (entKey e) then some (miss .perm 3 lvl)
  else if a.rd && !e.getLsbD 2 then some (miss .perm 0 lvl)
  else if a.wr && !e.getLsbD 3 then some (miss .perm 1 lvl)
  else if a.ex && !e.getLsbD 4 then some (miss .perm 2 lvl)
  else if !(s.part x.part).keylive.getLsbD (entKey e) then some (miss .keygone 0 lvl)
  else if a.wr && entMwp e then some (miss .page 5 lvl)
  else none

/-- A PREF or CCTL needs no right, and an address that fails a check of the walk or of its key is dropped (R269, R270, R283). -/
def State.hintCheck (s : State) (x : CtxRef) (e : DWord) (lvl : Nat) : Option Miss :=
  if !(s.ctx x).keymask.getLsbD (entKey e) then some (miss .perm 3 lvl)
  else if !(s.part x.part).keylive.getLsbD (entKey e) then some (miss .keygone 0 lvl)
  else none

/-- The physical place of a VA under a leaf. -/
def leafPlace (e : DWord) (lvl va : Nat) : Place :=
  .mem (entFrame e + va % 2 ^ levelShift lvl) (entKey e) (entPri e) (entPool e)

/-- The tables of the partition that a translation reads: none on a TLB hit, or where the root or its key lets no walk begin (R279, R281, R283). -/
def State.walkTables (s : State) (x : CtxRef) (core va : Nat) : List Nat :=
  let c := s.core { part := x.part, core := core }
  let root := (s.ctx x).ptroot
  let tkey := bitsOf root.toNat 57 52
  if (c.tlbFind x.ctx va).isSome || !root.getLsbD 63 || !(s.ctx x).keymask.getLsbD tkey || !(s.part x.part).keylive.getLsbD tkey then []
  else
    let start := (c.walkStart x.ctx va).getD (3, bitsOf root.toNat 51 16 * 0x10000)
    (start.2 :: (s.walkFrom x.part tkey va start.1 start.2).2.ptrs.map (·.2)).filter fun t => (s.partDies x.part).contains (t / hbmPerDie)

/-- A walk that cannot go on: a table that it reads lies on a die of the partition that the core's traffic does not reach (R13, R23). -/
def State.walkCut (s : State) (x : CtxRef) (core va : Nat) : Bool :=
  (s.walkTables x core va).any fun t => !s.reaches x.part (s.physDie x.part core) (t / hbmPerDie)

/-- The leaf of a VA: from the TLB, or by a walk (R279, R281, R283). -/
def State.findLeaf (s : State) (x : CtxRef) (core va : Nat) : State × Except Miss (DWord × Nat) :=
  let cr : CoreRef := { part := x.part, core := core }
  match (s.core cr).tlbFind x.ctx va with
  | some r => (s, .ok r)
  | none =>
    let root := (s.ctx x).ptroot
    let tkey := bitsOf root.toNat 57 52
    if !root.getLsbD 63 then (s, .error (miss .page 0 3))
    else if !(s.ctx x).keymask.getLsbD tkey then (s, .error (miss .perm 4 3))
    else if !(s.part x.part).keylive.getLsbD tkey then (s, .error (miss .keygone 1 3))
    else
      let start := ((s.core cr).walkStart x.ctx va).getD (3, bitsOf root.toNat 51 16 * 0x10000)
      let w := s.walkFrom x.part tkey va start.1 start.2
      (w.1.modCore cr fun c => c.cacheWalk x.ctx va w.2, w.2.leaf)

/-- Translate a global virtual address for a core of a context. -/
def State.translate (s : State) (x : CtxRef) (core va : Nat) (a : Acc) : State × Except Miss Place :=
  let r := s.findLeaf x core va
  match r.2 with
  | .error m => (r.1, .error m)
  | .ok (e, lvl) =>
    match (if a = .hint then r.1.hintCheck x e lvl else r.1.leafCheck x a e lvl) with
    | some m => (r.1, .error m)
    | none => (r.1, .ok (leafPlace e lvl va))

/-! ### Fault events (R286) -/

/-- The event's 256 bits. -/
def faultBits (ptime va ctx entry core htid : Nat) (nolog : Bool) (kind : Nat) (m : Miss) : BitVec 256 :=
  BitVec.ofNat 256 (ptime % 2 ^ 64 * 2 ^ 192 + va % 2 ^ 56 * 2 ^ 136 + ctx % 2 ^ 16 * 2 ^ 112 + entry % 2 ^ 8 * 2 ^ 104
    + core % 2 ^ 8 * 2 ^ 96 + htid % 2 ^ 12 * 2 ^ 80 + (if nolog then 2 ^ 79 else 0) + kind % 8 * 2 ^ 76 + m.sub % 16 * 2 ^ 72
    + m.cause.ccls * 2 ^ 70 + m.level % 4 * 2 ^ 68)

/-- Send a fault event unless one of its key has been sent and no FLTACK has named it since; PAGE MIGRATE sends none. -/
def State.faultEvent (s : State) (x : CtxRef) (core htid va entry : Nat) (nolog : Bool) (kind : Nat) (m : Miss) : State :=
  let cr : CoreRef := { part := x.part, core := core }
  if m.cause = .page ∧ m.sub = 5 then s
  else if (s.core cr).evKeys.any fun k => k.1 == x.ctx && k.2.1 == va / granuleSize && k.2.2.1 == m.cause && k.2.2.2.1 == m.sub then s
  else
    (s.modCore cr fun c => { c with evKeys := c.evKeys ++ [(x.ctx, va / granuleSize, m.cause, m.sub, nolog)] }).ladleEvent x.part
      (.fault (faultBits (s.coreTime cr).toNat va x.ctx entry core htid nolog kind m))

end Sys2Proof.Machine
end

