-- ==== Sys2Proof/Machine/Places.lean ====
section
/-! DEFINITION. Places: the home of each, the numbers homes know lines and bytes by, and the bytes of memory that TSTOREs have still to write
(R13, R223, R224, R242, R305). -/
namespace Sys2Proof.Machine
open Sys2Proof

/-! ### Places -/

/-- The physical die of a place's home (R224): the address's die, or for a pooled line logical die La mod n. -/
def State.placeDie (s : State) (part : Nat) : Place → Nat
  | .mem pa _ _ false => pa / hbmPerDie
  | .mem pa _ _ true => (s.partDies part).getD ((pa / lineSize) % max 1 (s.partDies part).length) 0
  | .scr core _ => s.physDie part core

def Place.pooled : Place → Bool
  | .mem _ _ _ p => p
  | .scr _ _ => false

def Place.addr : Place → Nat
  | .mem pa _ _ _ => pa
  | .scr _ off => off

/-- Whether a core's traffic reaches the home of a place: on its own die, or over the die-to-die links (R13, R23). -/
def State.homeReaches (s : State) (c : CoreRef) (loc : Place) : Bool := s.reaches c.part (s.physDie c.part c.core) (s.placeDie c.part loc)

/-- The number under which a home keeps the record of a place's line: pooled lines of a partition are numbered apart. -/
def Place.lineNo (part : Nat) : Place → Nat
  | .mem pa _ _ false => pa / lineSize
  | .mem pa _ _ true => (part + 1) * 2 ^ 60 + pa / lineSize
  | .scr _ _ => 0

/-- The key slot that a place's bytes are encrypted under. -/
def Place.keySlot : Place → Nat
  | .mem _ k _ _ => k
  | .scr _ _ => 0

/-- The priority hint of a place's page. -/
def Place.pri : Place → Nat
  | .mem _ _ q _ => q
  | .scr _ _ => 0

/-- Whether two places share a line of memory, or 128 bytes of one scratchpad. -/
def Place.sameLine : Place → Place → Bool
  | .mem a _ _ p, .mem b _ _ q => p == q && a / lineSize == b / lineSize
  | .scr c a, .scr d b => c == d && a / lineSize == b / lineSize
  | _, _ => false

/-- Whether n bytes at one place and m at another overlap. -/
def Place.overlap (x : Place) (n : Nat) (y : Place) (m : Nat) : Bool :=
  (match x, y with
   | .mem _ _ _ p, .mem _ _ _ q => p == q
   | .scr c _, .scr d _ => c == d
   | _, _ => false) && decide (x.addr < y.addr + m) && decide (y.addr < x.addr + n)

/-- The place i bytes further on. -/
def Place.plus (x : Place) (i : Nat) : Place :=
  match x with
  | .mem pa k q p => .mem (pa + i) k q p
  | .scr c off => .scr c (off + i)

/-- The number of a byte of memory: pooled lines of a partition are numbered apart. -/
def Place.byteNo (part : Nat) (loc : Place) : Nat := loc.lineNo part * lineSize + loc.addr % lineSize

/-! ### Addresses (R223) -/

/-- The global virtual address of a private offset (R223). -/
def privVa (g : Group) (rank off : Nat) : Nat := (g.pbase.toNat + rank * g.psize + off) % 2 ^ 56

/-- The virtual address that a logged effective address stands for. -/
def vaOf (g : Group) (rank : Nat) (ea : DWord) : Nat :=
  if bitsOf ea.toNat 63 56 = 0xFE then privVa g rank (bitsOf ea.toNat 39 0) else bitsOf ea.toNat 55 0

/-! ### What TSTOREs have still to write (R242, R305) -/

/-- The virtual address of a byte of a copy's arrays (R223): of an address in the global window, its low 56 bits. DEDUCED: log 34. -/
def State.copyVa (s : State) (c : CCRef) (cp : Copy) (ea : Nat) : Nat :=
  match s.group? (c.group cp.grp) with
  | some g => vaOf g cp.rank (BitVec.ofNat 64 ea)
  | none => 0

/-- Sequence byte l of a raw copy in memory (R298). -/
def rawEa (d l : Nat) : Nat := dGaddr d + l / dCols d * dGstride d + l % dCols d

/-- The address of a TSTORE sequence byte. -/
def storeEa (cp : Copy) (l : Nat) : Nat :=
  if dRaw cp.desc then rawEa cp.desc l
  else dGaddr cp.desc + l / cp.rowBytes * dGstride cp.desc + l % cp.rowBytes

/-- The place of a TSTORE's sequence byte, where its page translates. -/
def State.storePlace (s : State) (c : CCRef) (cp : Copy) (l : Nat) : Option Place :=
  match (s.translate c.ctxRef c.core (s.copyVa c cp (storeEa cp l)) .copyWrite).2 with
  | .ok loc => some loc
  | .error _ => none

/-- Positions of a copy from one on. -/
def Copy.from' (cp : Copy) (pos : Nat) : List Nat := (List.range (cp.total - pos)).map (pos + ·)

/-- How far destination d has come. -/
def Chan.pos (k : Chan) (d : Nat) : Nat := (k.wp.getD d 0 + 2 ^ 32 - k.start) % 2 ^ 32

/-- The numbers of the bytes of memory that a copy has still to write from a position on, where their pages translate. -/
def State.copyOwes (s : State) (c : CCRef) (cp : Copy) (pos : Nat) : List Nat :=
  if cp.kind = .tstore then (cp.from' pos).filterMap fun l => (s.storePlace c cp l).map (·.byteNo c.part) else []

/-- The same for the copies of a channel, running and queued. -/
def State.chanOwes (s : State) (c : CCRef) (k : Chan) : List Nat :=
  match k.q with
  | [] => []
  | cp :: cps => s.copyOwes c cp (if k.started then k.pos 0 else 0) ++ cps.flatMap fun cp => s.copyOwes c cp 0

/-- The numbers of the bytes of memory that the TSTOREs of a partition have still to write. -/
def State.owedMem (s : State) (part : Nat) : List Nat :=
  s.holds.flatMap fun e => if e.1.part = part then e.2.chans.flatMap fun ch => s.chanOwes e.1 ch.2 else []

/-- Bytes read at a place: those that a TSTORE has still to write are free values (DESIGN CHOICE, log 6). -/
def State.freeOwed (s : State) (part : Nat) (loc : Place) (bs : List Byte) : State × List Byte :=
  let owed := s.owedMem part
  let hit := fun i => owed.contains ((loc.plus i).byteNo part)
  if !owed.isEmpty && (List.range bs.length).any hit then
    ({ s with fresh := s.fresh + bs.length },
     (List.range bs.length).map fun i => if hit i then Config.freeByte (s.fresh + i) else bs.getD i 0)
  else (s, bs)

end Sys2Proof.Machine
end

