-- ==== Sys2Proof/Machine/Pool.lean ====
section
/-! DEFINITION. Pooled memory: the package home's write-back cache of pooled lines, fabric requests and their packets (R224, R225, R232,
R439 to R449), and the reads and writes of a home, local or pooled (R224, R229). -/
namespace Sys2Proof.Machine
open Sys2Proof

/-! ### Fabric packets (R439, R440) -/

def opRD : Nat := 0
def opWR : Nat := 1
def opATOM : Nat := 2
def opDATA : Nat := 3
def opACK : Nat := 4
def opNACK : Nat := 5
def opTIME : Nat := 6
def opMGMT : Nat := 7

/-- A packet header. -/
def mkHdr (tag addr dest src sdie sport dk op cls bank part ctx gen born : Nat) : BitVec 256 :=
  BitVec.ofNat 256 (tag % 2 ^ 16 * 2 ^ 224 + addr % 2 ^ 64 * 2 ^ 160 + dest % 2 ^ 18 * 2 ^ 142 + src % 2 ^ 18 * 2 ^ 124
    + sdie % 4 * 2 ^ 122 + sport % 8 * 2 ^ 119 + dk % 2 * 2 ^ 118 + op % 16 * 2 ^ 100 + cls % 8 * 2 ^ 97 + bank % 2 * 2 ^ 96
    + part % 4 * 2 ^ 94 + ctx % 2 ^ 16 * 2 ^ 72 + gen % 2 ^ 8 * 2 ^ 64 + born % 2 ^ 64)

/-! ### Ports (R449, R450) -/

/-- The physical port behind logical port i of a physical die, where its PPT entry is valid (R18, R19). -/
def State.physPort (s : State) (pdie i : Nat) : Option Nat :=
  let e := (s.die pdie).ppt.getD i 0
  if e.getLsbD 31 then some (e.toNat % 16) else none

/-- The ports of a physical die that are UP or DEGRADED, in logical order. -/
def State.livePorts (s : State) (pdie : Nat) : List (Nat × Nat) :=
  (List.range 6).filterMap fun i =>
    match s.physPort pdie i with
    | some q => if (s.link (.port pdie q)).st.carries then some (pdie, q) else none
    | none => none

/-- The candidate ports of a request or response from a die, in logical order: its own, or else those of the adjacent dies of the partition, over
the die-to-die link (R449). -/
def State.requestPorts (s : State) (part pdie : Nat) : List (Nat × Nat) :=
  let own := s.livePorts pdie
  if own.isEmpty then
    ((s.partDies part).filter fun d => d != pdie && s.dieLink pdie d).flatMap fun d => s.livePorts d
  else own

/-- Flits queued on a port. -/
def Link.queued (l : Link) : Nat := l.queue.foldl (fun n p => n + p.left) 0

/-- The first of some ports with the largest figure: ties go to the lowest logical port (R449). -/
def bestPort (f : Nat × Nat → Int) : List (Nat × Nat) → Option (Nat × Nat)
  | [] => none
  | p :: ps => some (ps.foldl (fun b q => if f b < f q then q else b) p)

/-- The candidate with the fewest queued flits (R449). -/
def State.fewestQueued (s : State) (ports : List (Nat × Nat)) : Option (Nat × Nat) :=
  bestPort (fun p => - ((s.link (.port p.1 p.2)).queued : Int)) ports

/-- The bank of a partition's affinity table that is active on a die: an armed flip takes place there as the die's GTIME reaches it (R450). -/
def State.affActive (s : State) (part die : Nat) : Bool :=
  (s.part part).affAct != ((s.part part).affPend && decide ((s.part part).affsw.toNat ≤ (s.dieTime die).toNat))

/-- The port of a collective packet of a die to a node, where the active bank's entry is valid and the port carries traffic (R450). -/
def State.affinityPort (s : State) (part die node : Nat) : Option (Nat × Nat) :=
  let e := ((s.part part).aff.getD (if s.affActive part die then 1 else 0) []).getD (node % 64) 0
  let lport := e.toNat % 32
  let d := (s.partDies part).getD (lport / 6) 4
  if e.getLsbD 7 && decide (d < 4) then
    match s.physPort d (lport % 6) with
    | some q => if (s.link (.port d q)).st.carries then some (d, q) else none
    | none => none
  else none

/-- The port a packet leaves on (R449). A die that no carrying link joins to the home's offers none (R13). DEDUCED: log 10. -/
def State.choosePort (s : State) (part pdie node cls : Nat) : Option (Nat × Nat) :=
  match (if cls = 4 then (s.affinityPort part pdie node).filter fun p => s.reaches part pdie p.1 else none) with
  | some p => some p
  | none =>
    if cls = 5 then
      bestPort (fun p => ((s.link (.port p.1 p.2)).credits.getD 5 0 : Int))
        (((s.partDies part).filter fun d => s.reaches part pdie d).flatMap fun d => s.livePorts d)
    else s.fewestQueued (s.requestPorts part pdie)

/-- Flits of a packet (R439). -/
def packetFlits (load : List Byte) : Nat := (32 + load.length + 63) / 64

/-- A packet joins the queue of a port (R441). -/
def State.enqueue (s : State) (die port : Nat) (hdr : BitVec 256) (load : List Byte) : State :=
  s.modLink (.port die port) fun l => { l with queue := l.queue ++ [{ hdr := hdr, load := load, left := packetFlits load }] }

/-- The class of requests to a pool window (R447). -/
def poolClass (w : DWord) : Nat :=
  match bitsOf w.toNat 62 61 with
  | 0 => 0
  | 1 => 4
  | _ => 5

def poolNode (w : DWord) : Nat := bitsOf w.toNat 57 40

/-- The pool window that holds an address (R447). -/
def State.poolWinOf (s : State) (part pa : Nat) : Option DWord :=
  (s.part part).poolwin.find? fun w => w.getLsbD 63 && decide (bitsOf w.toNat 21 0 * 2 ^ 30 ≤ pa)
    && decide (pa < bitsOf w.toNat 21 0 * 2 ^ 30 + bitsOf w.toNat 39 22 * 2 ^ 30)

/-- A tag that no outstanding request of the package uses: one may be sent again by another die under its tag (R439, R446). DEDUCED: log 58. -/
def State.freshTag (s : State) : Option Nat :=
  let used := fun t => s.freqs.any fun f => f.tag == t
  ((List.range (min 65536 (s.freqs.length + 1))).find? fun i => !used ((s.nextTag + i) % 2 ^ 16)).map fun i => (s.nextTag + i) % 2 ^ 16

/-- Send a request for a pooled line from its package home, in a class or in that of its window, for the byte at an offset in it (R439, R444, R447, R449); `none` where no
port can carry it or no tag is free. Its BORN and BANK are set at its first flit. DESIGN CHOICE: log 9. -/
def State.sendAs (s : State) (x : CtxRef) (cls : Option Nat) (line off op : Nat) (load : List Byte) (mop : Option (Nat × Nat)) (thrs : List TRef) :
    State × Option Nat :=
  let pa := line * lineSize
  match s.poolWinOf x.part pa with
  | none => (s, none)
  | some w =>
    let cls := cls.getD (poolClass w)
    let pdie := s.placeDie x.part (.mem pa 0 0 true)
    match s.choosePort x.part pdie (poolNode w) cls, s.freshTag with
    | some (d, port), some tag =>
      let hdr := mkHdr tag (pa + off) (poolNode w) s.pestle.pkg.toNat d port 0 op cls 0 x.part x.ctx (s.ctx x).gen.toNat 0
      ({ s.enqueue d port hdr load with
          nextTag := (tag + 1) % 2 ^ 16
          freqs := s.freqs ++ [{ die := d, held := (s.ctx x).st.holdsCores, tag := tag, op := op, part := x.part, line := line, hdr := hdr, load := load,
                                 sent := s.time.gtime, resent := none, via := (d, port), mop := mop, thrs := thrs }] }, some tag)
    | _, _ => (s, none)

/-- Send a request in the class of its window. -/
def State.sendRequest (s : State) (x : CtxRef) (line op : Nat) (load : List Byte) (mop : Option (Nat × Nat)) (thrs : List TRef) :
    State × Option Nat :=
  s.sendAs x Option.none line 0 op load mop thrs

/-! ### The package home's lines -/

def State.poolLine (s : State) (part line : Nat) : PoolLine := s.pool.getD (part, line) PoolLine.none
def State.modPool (s : State) (part line : Nat) (f : PoolLine → PoolLine) : State :=
  { s with pool := s.pool.set (part, line) (f (s.poolLine part line)) }

/-- Whether the package home may answer a read of byte i of a line from what it holds: its own dirty byte, or a sector under a
lease; while there is no EPSILON, what an RD has brought for it alone (R228, R448). -/
def PoolLine.usable (p : PoolLine) (eps : Nat) (now : DWord) (i : Nat) : Bool :=
  if eps = 0xFFFFFFFF then p.have'.getD (i / sectorSize) false && p.once
  else p.dirty.getD i false || (p.have'.getD (i / sectorSize) false && (decide (now.toNat < p.lease.toNat) || p.once))

def PoolLine.anyDirty (p : PoolLine) : Bool := p.dirty.any id

def PoolLine.sectorDirty (p : PoolLine) (q : Nat) : Bool := ((p.dirty.drop (q * sectorSize)).take sectorSize).any id

/-- A byte mask as the 16 bytes of a WR packet. -/
def maskBytes (m : List Bool) : List Byte :=
  (List.range 16).map fun i => BitVec.ofNat 8 ((List.range 8).foldl (fun a j => a + if m.getD (8 * i + j) false then 2 ^ j else 0) 0)

/-- A fence that waits for a line's writeback has it under way (R232). -/
def markWb (line : Nat) (x : Thread) : Thread :=
  match x.ph with
  | .fence sc seqs wbs nxt => { x with ph := .fence sc seqs (wbs.map fun w => if w.1 = line then (line, true) else w) nxt }
  | _ => x

/-- Once the Lid runs, every line that is written back is one that it sends (R473). -/
def State.noteLid (s : State) (part line tag : Nat) : State :=
  { s with lid := s.lid.map fun l => if l.marked then l else
      { l with sent := l.sent ++ [{ part := part, die := line % max 1 (s.partDies part).length, line := line, tag := tag, acked := false }] } }

/-- Write back the dirty bytes of some sectors of a pooled line (R224, R225, R232), for the Lid in class request (R473): only where no request for the
line is outstanding (R444). -/
def State.writeBack (s : State) (x : CtxRef) (line : Nat) (sectors : List Nat) : State :=
  let p := s.poolLine x.part line
  if p.req.isSome then s
  else
    let sel := fun i => p.dirty.getD i false && sectors.contains (i / sectorSize)
    let mask := (List.range lineSize).map sel
    if !mask.any id then s
    else
      let r := s.sendAs (if s.lid.isSome then s.lastCtx x.part else x) (if s.lid.isSome then some 0 else Option.none) line 0 opWR
        (maskBytes mask ++ p.bytes) none (p.want.getD [])
      match r.2 with
      | none => s
      | some tag =>
        let s := (r.1.noteLid x.part line tag).modPool x.part line fun p =>
          { p with req := some tag, want := none, dirty := (List.range lineSize).map fun i => p.dirty.getD i false && !sel i }
        if (s.poolLine x.part line).anyDirty then s
        else { s with threads := s.threads.map fun e => if e.1.part = x.part then (e.1, markWb line e.2) else e }

/-- Ask the pool home for a line (R448). -/
def State.readPool (s : State) (x : CtxRef) (line : Nat) (mop : Option (Nat × Nat)) : State × Option Nat :=
  if (s.poolLine x.part line).req.isSome then (s, none)
  else
    let r := s.sendRequest x line opRD [] mop []
    match r.2 with
    | none => (r.1, none)
    | some tag => (r.1.modPool x.part line fun p => { p with req := some tag }, some tag)

/-- Sectors of dirty pooled data a physical die holds (R225). -/
def State.dirtySectors (s : State) (pdie : Nat) : Nat :=
  (s.pool.filter fun e => s.placeDie e.1.1 (.mem (e.1.2 * lineSize) 0 0 true) == pdie).foldl
    (fun n e => n + (if e.2.sectorDirty 0 then 1 else 0) + (if e.2.sectorDirty 1 then 1 else 0)) 0

/-- The oldest dirty sector of a die (R225). -/
def State.oldestDirty (s : State) (pdie : Nat) : Option (Nat × Nat × Nat) :=
  let all := s.pool.flatMap fun e =>
    if s.placeDie e.1.1 (.mem (e.1.2 * lineSize) 0 0 true) = pdie then
      ([0, 1].filter fun q => e.2.sectorDirty q).map fun q => (e.2.age.getD q 0, e.1.1, e.1.2, q)
    else []
  match all.foldl (fun (b : Option (Nat × Nat × Nat × Nat)) a => match b with
      | some y => if a.1 < y.1 then some a else some y
      | none => some a) none with
  | some y => some y.2
  | none => none

/-- Make room for a store of pooled data: where the limit of 4 MiB a die would be exceeded, the oldest dirty sectors are written back first, a
store dirtying at most two; whether there is room now (R225). -/
def State.roomLoop (s : State) (x : CtxRef) (pdie new : Nat) : Nat → State × Bool
  | 0 => (s, decide (s.dirtySectors pdie + new ≤ 0x10000))
  | n + 1 =>
    if s.dirtySectors pdie + new ≤ 0x10000 then (s, true)
    else
      match s.oldestDirty pdie with
      | none => (s, false)
      | some (_, l, q) => (s.writeBack x l [q]).roomLoop x pdie new n

def State.poolRoom (s : State) (x : CtxRef) (pdie line : Nat) (sectors : List Nat) : State × Bool :=
  let new := (sectors.filter fun q => !(s.poolLine x.part line).sectorDirty q).length
  if new = 0 then (s, true) else s.roomLoop x pdie new 2

/-- A sector of a pooled line of which the package home holds nothing (R227). -/
def PoolLine.absent (p : PoolLine) (q : Nat) : Bool := !p.have'.getD q false && !p.sectorDirty q && !p.poison.getD q false

/-! ### Lines in an L2 (R227, R237, R241) -/

/-- The die, the slice and the set of an L2 that a line takes: 1,024 sets of 16 ways in each of 32 slices (R224). DESIGN CHOICE: log 76. -/
def State.l2Place (s : State) (l : Nat) : Nat × Nat × Nat :=
  let pooled := decide (2 ^ 60 ≤ l)
  let die := if pooled then s.placeDie (l / 2 ^ 60 - 1) (.mem (l % 2 ^ 60 * lineSize) 0 0 true) else l * lineSize / hbmPerDie
  let la := if pooled then l % 2 ^ 60 else l - die * (hbmPerDie / lineSize)
  (die, l2Slice la, la / 32 % 1024)

/-- Whether a line can leave its set now: a pooled line with a request under way, or with dirty bytes, cannot (R444). -/
def State.l2Stuck (s : State) (l : Nat) : Bool :=
  decide (2 ^ 60 ≤ l) && ((s.poolLine (l / 2 ^ 60 - 1) (l % 2 ^ 60)).req.isSome || (s.poolLine (l / 2 ^ 60 - 1) (l % 2 ^ 60)).anyDirty)

/-- A line leaves its L2: its scope record is dropped, and what it held of a pooled line (R237). -/
def State.l2Drop (s : State) (l : Nat) : State :=
  let s := s.modLine l fun r => { r with held := false, scope := .none }
  if 2 ^ 60 ≤ l then s.modPool (l / 2 ^ 60 - 1) (l % 2 ^ 60) fun p => { p with have' := [false, false], once := false } else s

/-- The victim of a full set: the least recently used way among the lowest priority (R241). -/
def l2Victim (ways : List (Nat × LineRec)) : Option Nat :=
  (ways.foldl (fun (b : Option (Nat × LineRec)) e => match b with
    | some y => if e.2.prio < y.2.prio ∨ (e.2.prio = y.2.prio ∧ e.2.used < y.2.used) then some e else some y
    | none => some e) none).map (·.1)

/-- Whether a line's contents compress to 64 bytes or less (R226). DESIGN CHOICE: log 6. -/
def State.l2Small (s : State) (l : Nat) : Bool :=
  if 2 ^ 60 ≤ l then Config.compresses (s.poolLine (l / 2 ^ 60 - 1) (l % 2 ^ 60)).bytes
  else Config.compresses (s.homeRead ((s.die (l * lineSize / hbmPerDie)).diepart.toNat % 4) (s.line l).key (l * lineSize) lineSize).2

/-- Data slots that some lines of a set take: with compression two small lines share one (R226). -/
def State.l2Slots (s : State) (part : Nat) (ls : List Nat) : Nat :=
  if (s.part part).memcfg.getLsbD 0 then
    let small := (ls.filter s.l2Small).length
    ls.length - small + (small + 1) / 2
  else ls.length

/-- The lines of a set but one. -/
def State.l2Ways (s : State) (l : Nat) : List (Nat × LineRec) := s.lines.filter fun e => e.2.held && e.1 != l && s.l2Place e.1 == s.l2Place l

/-- Whether a line fits its set beside the other lines there. -/
def State.l2Fits (s : State) (part l : Nat) : Bool := decide (s.l2Slots part (l :: (s.l2Ways l).map (·.1)) ≤ 16)

/-- Make room in a set for a line: victims leave, one after another. One with dirty pooled bytes is written back before it leaves, and one whose request is
under way holds the access up; whether there is room now. DESIGN CHOICE: log 76. -/
def State.l2Evict (s : State) (x : CtxRef) (l : Nat) : Nat → State × Bool
  | 0 => (s, false)
  | n + 1 =>
    if s.l2Fits x.part l then (s, true)
    else match l2Victim (s.l2Ways l) with
      | none => (s, true)
      | some v => if s.l2Stuck v then (s.writeBack x (v % 2 ^ 60) [0, 1], false) else (s.l2Drop v).l2Evict x l n

/-- Whether an access can have its line in the L2 now; a load that allocates nothing needs no room for a line it does not find (R241). -/
def State.l2Ready (s : State) (x : CtxRef) (loc : Place) (ch : BitVec 2) (load : Bool) : State × Bool :=
  match loc with
  | .scr .. => (s, true)
  | .mem .. =>
    let l := loc.lineNo x.part
    if load && ch == 3 && !(s.line l).held then (s, true) else s.l2Evict x l 33

/-- An access uses a line at its home: the L2 fills it where it is absent, recording the key slot, and keeps the strongest hint (R227, R241, R485). A load that allocates nothing
fills no line, and nor does one whose line has no room (`State.l2Ready`). DESIGN CHOICE: log 76. -/
def State.l2Use (s : State) (x : CtxRef) (loc : Place) (ch : BitVec 2) (load : Bool) : State :=
  match loc with
  | .scr .. => s
  | .mem _ k _ _ =>
    let l := loc.lineNo x.part
    if (s.line l).held then
      { (s.modLine l fun r => { r with used := s.poolAge, prio := max r.prio (hintPrio ch) }) with poolAge := s.poolAge + 1 }
    else if load && ch == 3 then s
    else
      if s.l2Fits x.part l then
        { (s.modLine l fun r => { r with held := true, used := s.poolAge, prio := fillPrio ch loc.pri, key := k }) with poolAge := s.poolAge + 1 }
      else s

/-- The scope record of an access stands in the record of a line that the L2 holds (R237). -/
def State.scopeNote (s : State) (l : Nat) (v : Nat × Scope × Nat) : State :=
  s.modLine l fun r => if r.held then { r with scope := some v } else r

/-- Whether a store can be performed at its home now: a pooled sector that it writes in part is filled first (R227), and there is room for its dirty
data (R225) and its line (R241). -/
def State.storeReady (s : State) (x : CtxRef) (loc : Place) (mask : List Bool) : State × Bool :=
  match loc with
  | .mem pa _ _ true =>
    let l := pa / lineSize
    let hit := fun q i => decide (pa % lineSize ≤ q * sectorSize + i) && mask.getD (q * sectorSize + i - pa % lineSize) false
    let qs := [0, 1].filter fun q => (List.range sectorSize).any (hit q)
    if qs.any fun q => (s.poolLine x.part l).absent q && !(List.range sectorSize).all (hit q) then ((s.readPool x l none).1, false)
    else
      let p := s.poolRoom x (s.placeDie x.part loc) l qs
      if p.2 then p.1.l2Ready x loc 0 false else p
  | .mem .. => s.l2Ready x loc 0 false
  | .scr .. => (s, true)

/-! ### Reads and writes at a home -/

/-- Whether a home can answer a read of n bytes now; a poisoned sector answers with its error (R446). -/
def State.homeReady (s : State) (part : Nat) (loc : Place) (n : Nat) : Bool :=
  match loc with
  | .mem pa _ _ true =>
    let now := s.dieTime (s.placeDie part loc)
    (List.range n).all fun i =>
      let p := s.poolLine part ((pa + i) / lineSize)
      p.usable s.epsilon now ((pa + i) % lineSize) || p.poison.getD ((pa + i) % lineSize / sectorSize) false
  | _ => true

/-- Whether n bytes at a home meet an uncorrectable error (R446, R494). -/
def State.homeBad (s : State) (part : Nat) (loc : Place) (n : Nat) : Bool :=
  match loc with
  | .mem pa _ _ true =>
    (List.range n).any fun i => (s.poolLine part ((pa + i) / lineSize)).poison.getD ((pa + i) % lineSize / sectorSize) false
  | .mem pa _ _ false => s.poisoned pa n
  | .scr _ _ => false

/-- The key under which a package home reads and writes a pooled line for an access under a slot (R485). DESIGN CHOICE: log 9. -/
def State.poolKey (s : State) (part slot line : Nat) : Nat :=
  let r := s.line ((part + 1) * 2 ^ 60 + line)
  s.keyOf part (if r.held then r.key else slot)

/-- The bytes of a pooled line under a key: what was written under another comes out deciphered with the wrong key (R485). DESIGN CHOICE: log 9. -/
def PoolLine.under (p : PoolLine) (key line : Nat) : List Byte :=
  if p.key = 0 ∨ key = 0 ∨ p.key = key then p.bytes
  else [0, 1].flatMap fun q => xts true (key - 1) (2 * line + q) (xts false (p.key - 1) (2 * line + q) ((p.bytes.drop (q * sectorSize)).take sectorSize))

/-- n bytes at a home of memory, as it holds them. -/
def State.homeHolds (s : State) (part : Nat) (loc : Place) (n : Nat) : State × List Byte :=
  match loc with
  | .mem pa k _ true =>
    (s, (List.range n).map fun i =>
      let l := (pa + i) / lineSize
      ((s.poolLine part l).under (s.poolKey part k l) l).getD ((pa + i) % lineSize) 0)
  | .mem pa k _ false => s.homeRead part k pa n
  | .scr _ _ => (s, [])

/-- A read of n bytes at a home of memory: those that a TSTORE has still to write are free values (R242, R305; DESIGN CHOICE, log 6). -/
def State.homeBytes (s : State) (part : Nat) (loc : Place) (n : Nat) : State × List Byte :=
  let q := s.homeHolds part loc n
  q.1.freeOwed part loc q.2

/-- Bytes stored into a pooled line at its package home, all within one line. -/
def PoolLine.store (p : PoolLine) (off age : Nat) (bytes : List Byte) (mask : List Bool) : PoolLine :=
  let hit := fun i => decide (off ≤ i) && mask.getD (i - off) false
  let whole := fun q => (List.range sectorSize).all fun i => hit (q * sectorSize + i)
  let some' := fun q => (List.range sectorSize).any fun i => hit (q * sectorSize + i)
  { p with
    bytes := (List.range lineSize).map fun i => if hit i then bytes.getD (i - off) 0 else p.bytes.getD i 0
    dirty := (List.range lineSize).map fun i => hit i || p.dirty.getD i false
    age := [0, 1].map fun q => if some' q && !p.sectorDirty q then age else p.age.getD q 0
    poison := [0, 1].map fun q => p.poison.getD q false && !whole q }

/-- The WCT of a write performed now at the home of a place, recorded for its line (R229). -/
def State.completeAt (s : State) (part : Nat) (loc : Place) : State × DWord :=
  let l := loc.lineNo part
  let w := dmax (s.dieTime (s.placeDie part loc)) (s.line l).llast
  (s.modLine l fun r => r.written w, w)

/-- The latest completion time of any write performed at the homes of a partition (R229). -/
def State.lastWct (s : State) (part : Nat) : DWord :=
  s.lines.foldl (fun a l =>
    let mine := if 2 ^ 60 ≤ l.1 then l.1 / 2 ^ 60 - 1 == part else
      let dp := (s.die (l.1 * lineSize / hbmPerDie)).diepart
      dp.getLsbD 31 && dp.toNat % 4 == part
    if mine then dmax a l.2.lwct else a) 0

/-- A kernel whose code must not be written (R83). -/
def KSt.runs : KSt → Bool
  | .resident | .fed | .draining => true
  | _ => false

/-- What the bytes of a store held before it, and the store's number, for every kernel of the partition that runs (R83); the stores of one copy have one
number. DESIGN CHOICE: log 75. -/
def State.noteCode (s : State) (part : Nat) (loc : Place) (mask : List Bool) (no : Nat) : State :=
  let ks := s.kernels.filter fun e => e.1.part == part && e.2.st.runs
  if ks.isEmpty then s
  else
    let old := (s.homeHolds part loc mask.length).2
    let at' := loc.byteNo part
    { s with
      fresh := s.fresh + 1
      codeOld := ks.foldl (fun d e => (List.range mask.length).foldl (fun d i =>
        if mask.getD i false then d.set (e.1, at' + i) (((d.get? (e.1, at' + i)).map (·.1)).getD (old.getD i 0), no + 1) else d) d) s.codeOld }

/-- Bytes of memory written while a TSTORE of the partition is unfinished (R310). DESIGN CHOICE: log 35. -/
def State.noteMem (s : State) (part : Nat) (loc : Place) (mask : List Bool) : State :=
  if s.copyOpen (fun x => x.part == part) (fun k => k == .tstore) then
    { s with
      fresh := s.fresh + 1
      notes := s.notes ++ ((List.range mask.length).filter fun i => mask.getD i false).map fun i =>
        { core := none, part := part, byte := loc.byteNo part + i, at' := s.fresh, chan := none } }
  else s

/-- Bytes change at the home of memory. -/
def State.homeBytesPut (s : State) (part : Nat) (loc : Place) (bytes : List Byte) (mask : List Bool) : State :=
  match loc with
  | .mem pa k _ true =>
    let l := pa / lineSize
    let key := s.poolKey part k l
    { (s.modPool part l fun p => { p with bytes := p.under key l, key := key }.store (pa % lineSize) s.poolAge bytes mask) with poolAge := s.poolAge + 1 }
  | .mem pa k _ false => s.homeWrite part k pa bytes mask
  | .scr _ _ => s

/-- An awaited comparison after a write at the home of a line: the first write that meets it, or leaves an error there, ends the wait (R365). -/
def State.seeSig (s : State) (part line : Nat) (w : SigWatch) : SigWatch :=
  match w.loc with
  | none => w
  | some loc =>
    if w.thr.part ≠ part ∨ loc.lineNo part ≠ line ∨ w.hit.isSome = true then w
    else if s.homeBad part loc 4 then { w with hit := some (true, (s.line line).carried) }
    else if !s.homeReady part loc 4 then { w with due := true }
    else if sigHolds w.cmp (leNat (s.homeBytes part loc 4).2) w.b then { w with hit := some (false, (s.line line).carried) }
    else w

/-- The comparisons awaited at a line are made again at every write performed at its home (R365). -/
def State.noteSigs (s : State) (part : Nat) (loc : Place) : State :=
  if s.sigs.isEmpty then s else { s with sigs := s.sigs.map (s.seeSig part (loc.lineNo part)), fresh := s.fresh + 4 }

/-- A write under a number lands at the home of memory and takes its WCT (R229). -/
def State.homeStoreNo (s : State) (part : Nat) (loc : Place) (bytes : List Byte) (mask : List Bool) (no : Nat) : State × DWord :=
  let w := (((s.noteCode part loc mask no).noteMem part loc mask).homeBytesPut part loc bytes mask).completeAt part loc
  (w.1.noteSigs part loc, w.2)

/-- A write with a number of its own. -/
def State.homeStore (s : State) (part : Nat) (loc : Place) (bytes : List Byte) (mask : List Bool) : State × DWord :=
  s.homeStoreNo part loc bytes mask s.fresh

/-- A leased read of a pooled line granted without a lease serves one read (R448). -/
def State.usedOnce (s : State) (part : Nat) (loc : Place) : State :=
  match loc with
  | .mem pa _ _ true =>
    if (s.poolLine part (pa / lineSize)).once then
      s.modPool part (pa / lineSize) fun p => { p with once := false, have' := [false, false] }
    else s
  | _ => s

/-- Bring what a read of n bytes at a pooled place needs, at most two lines (R224, R448). -/
def State.askPool (s : State) (x : CtxRef) (loc : Place) (n : Nat) : State :=
  match loc with
  | .mem pa k q true =>
    let one := fun (s : State) (pa n : Nat) =>
      if s.homeReady x.part (.mem pa k q true) n then s else (s.readPool x (pa / lineSize) none).1
    let a := min n (lineSize - pa % lineSize)
    one (one s pa a) (pa + a) (n - a)
  | _ => s

end Sys2Proof.Machine
end

