-- ==== Sys2Proof/Machine/Fetch.lean ====
section
/-! DEFINITION. Fetch of an instruction word through the page tables (04_encoding.md R80 to R83), and the park of a fetch or of a CALL
target (R82, R140). -/
namespace Sys2Proof.Machine
open Sys2Proof

/-- What a fetch gives. -/
inductive Fetched where
  | word (w : BitVec 96)
  | park (m : Miss) (va : Nat)
  | poison
  | wait                       -- a pooled line is on its way, or no link leads to the home (R13)
  deriving DecidableEq, Repr

/-- A byte of code as memory holds it; and what it was before stores while its kernel ran, with the mark of the last of them, or 0 where a TSTORE has still
to write it (R83). -/
abbrev CodeByte := Byte × Option (Byte × Nat)

/-- n bytes of code of one page, for a kernel; a fetch whose walk or line lies behind a link that does not carry waits (R13, R23). -/
def State.fetchPart (s : State) (k : KRef) (core va n : Nat) : State × Except Fetched (List CodeByte) :=
  let x : CtxRef := { part := k.part, ctx := k.ctx }
  if s.walkCut x core va then (s, .error .wait) else
  let r := s.translate x core va .fetch
  match r.2 with
  | .error m => (r.1, .error (.park m va))
  | .ok loc =>
    if !r.1.homeReaches { part := x.part, core := core } loc then (r.1, .error .wait)
    else if r.1.homeBad x.part loc n then (r.1, .error .poison)
    else if !r.1.homeReady x.part loc n then (r.1.askPool x loc n, .error .wait)
    else
      -- what a fetch brings from the L2 is not fixed (R464; DESIGN CHOICE, log 6)
      let f := (Config.fetchFill r.1.fresh).val
      let s := { r.1.modCore { part := x.part, core := core } fun k => { k with bytes := k.bytes + 64 * f } with fresh := r.1.fresh + 1 }
      let q := s.homeHolds x.part loc n
      let owed := q.1.owedMem x.part
      let old := fun i =>
        let b := q.1.codeOld.get? (k, loc.byteNo x.part + i)
        if owed.contains (loc.byteNo x.part + i) then some ((b.map (·.1)).getD (q.2.getD i 0), 0) else b
      (q.1, .ok (q.2.zip ((List.range n).map old)))

def wordNow (l : List CodeByte) : BitVec 96 := BitVec.ofNat 96 (wordOfBytes (l.map (·.1)))
def wordOld (l : List CodeByte) : BitVec 96 := BitVec.ofNat 96 (wordOfBytes (l.map fun c => (c.2.map (·.1)).getD c.1))

/-- Whether the new word is whole: one store made every change, or every byte has been stored to; and no TSTORE has still to write any of it. -/
def wordWhole (l : List CodeByte) : Bool :=
  let marks := l.filterMap fun c => c.2.map (·.2)
  !marks.contains 0 && (marks.length == l.length || marks.all fun n => n == marks.headD 0)

/-- The word a fetch returns: the whole old word or the whole new word, which of the two is free; a word that is not yet whole is the old one
(R83). DESIGN CHOICE: log 75. DESIGN CHOICE: log 6. -/
def State.pickWord (s : State) (l : List CodeByte) : State × BitVec 96 :=
  if wordOld l = wordNow l then (s, wordNow l)
  else if wordWhole l then (s.freeWord.2, if s.freeWord.1.getLsbD 0 then wordOld l else wordNow l)
  else (s, wordOld l)

/-- The bytes of a word that lie in the page granule of its first. -/
def firstPart (va : Nat) : Nat := min 12 (granuleSize - va % granuleSize)

/-- The kernel of a thread. -/
def State.ownKernel (s : State) (t : TRef) : KRef :=
  { part := t.part, ctx := t.ctx, kidx := ((s.group? t.group).map (·.kidx)).getD 0 }

/-- The 96-bit word at an address (R80, R82), for a thread. -/
def State.fetchWord (s : State) (t : TRef) (va : Nat) : State × Fetched :=
  let k := s.ownKernel t
  let n := firstPart va
  let a := s.fetchPart k t.core va n
  match a.2 with
  | .error f => (a.1, f)
  | .ok bs =>
    if n = 12 then ((a.1.pickWord bs).1, .word (a.1.pickWord bs).2)
    else
      let b := a.1.fetchPart k t.core ((va + n) % 2 ^ 56) (12 - n)
      match b.2 with
      | .error f => (b.1, f)
      | .ok cs => ((b.1.pickWord (bs ++ cs)).1, .word (b.1.pickWord (bs ++ cs)).2)

/-- The thread parks at its PC with no operand-log entry, and the event is sent (R82, R140, R286). -/
def State.fetchPark (s : State) (t : TRef) (m : Miss) (va : Nat) (call : Bool) : State :=
  match s.thread? t with
  | none => s
  | some x =>
    (s.setThread t { x with st := .parked, fpark := some { miss := m, va := va, call := call } }).faultEvent
      t.ctxRef t.core x.htid va 0 true Acc.fetch.kind m

/-- The word with guard pt and no hints. DEDUCED: log 11. -/
def plainWord (w : BitVec 96) : BitVec 96 :=
  BitVec.ofNat 96 (bitsOf w.toNat 95 94 * 2 ^ 94 + bitsOf w.toNat 79 17 * 2 ^ 17 + 15 * 2 ^ 12 + bitsOf w.toNat 11 0)

/-- IsEnter (R139): the window count of a word that would execute as ENTER; its guard and hint fields are not examined (DEDUCED, log 11). -/
def enterOf (w : BitVec 96) : Option Nat :=
  match decode (plainWord w) with
  | .ok (.enter _ n) => some n.toNat
  | _ => none

end Sys2Proof.Machine
end

