-- ==== Sys2Proof/Machine/Scratch.lean ====
section
/-! DEFINITION. Scratchpads: grants, live and dead banks and their power, reads and writes at the banks (R222, R242, R254, R255, R257,
R305, R497). -/
namespace Sys2Proof.Machine
open Sys2Proof

/-! ### Grants (R222, R497) -/

/-- Whether a group of a kernel holds a bank on a core. -/
def State.bankOfKernel (s : State) (c : CCRef) (kidx bank : Nat) : Bool :=
  match (s.holding c).banks.get? bank with
  | some b => match s.group? (c.group b.grp) with
    | some g => g.kidx == kidx
    | none => false
  | none => false

/-- The banks of n bytes. -/
def banksOf (off n : Nat) : List Nat :=
  if (off + n - 1) / bankSize = off / bankSize then [off / bankSize] else [off / bankSize, (off + n - 1) / bankSize]

/-- Whether a bank is granted to some group of the core that shares a ring (R497). -/
def State.ringBank (s : State) (c : CCRef) (rg bank : Nat) : Bool :=
  match (s.holding c).banks.get? bank with
  | some b => (s.group? (c.group b.grp)).any fun g => g.rings.getLsbD rg
  | none => false

/-- How far the slots go that hold a byte, of the initialised rings of the core that a set of ring numbers names, within its bank; the bank is still granted to
a group that shares the ring (R497). -/
def State.ringEnd (s : State) (c : CCRef) (rings : BitVec 8) (off : Nat) : Option Nat :=
  ((s.holding c).rings.find? fun r => rings.getLsbD r.1 && r.2.init && decide (r.2.base ≤ off) && decide (off < r.2.base + r.2.k * r.2.m)
    && s.ringBank c r.1 (off / bankSize)).map fun r => min (r.2.base + r.2.k * r.2.m) ((off / bankSize + 1) * bankSize)

/-- Whether the bytes of a range, from one on, all lie in banks of a set or in ring slots: at most a bank's end and a ring's end at a time. -/
def State.grantCovers (s : State) (c : CCRef) (own : Nat → Bool) (rings : BitVec 8) (hi : Nat) : Nat → Nat → Bool
  | 0, off => decide (hi ≤ off)
  | k + 1, off =>
    decide (hi ≤ off) || match (if own (off / bankSize) then some ((off / bankSize + 1) * bankSize) else s.ringEnd c rings off) with
      | some e => State.grantCovers s c own rings hi k e
      | none => false

/-- The ring numbers that groups of a kernel share on a core. -/
def State.ringsOfKernel (s : State) (c : CCRef) (kidx : Nat) : BitVec 8 :=
  s.groups.foldl (fun a e => if e.1.ccRef = c ∧ e.2.kidx = kidx then a ||| e.2.rings else a) 0

/-- R222: every byte of an access lies in a bank granted to the executing group's kernel on the target core, or in a shared ring. -/
def State.scrGranted (s : State) (c : CCRef) (kidx off n : Nat) : Bool :=
  s.grantCovers c (s.bankOfKernel c kidx) (s.ringsOfKernel c kidx) (off + n) 20 off

/-- Whether a bank is granted to a group itself. -/
def Holding.owns (x : Holding) (grp bank : Nat) : Bool :=
  match x.banks.get? bank with
  | some b => b.grp == grp
  | none => false

/-- Whether a range is granted to a group itself or lies in a ring it shares. -/
def State.grantedTo (s : State) (c : CCRef) (grp : Nat) (rings : BitVec 8) (off n : Nat) : Bool :=
  s.grantCovers c ((s.holding c).owns grp) rings (off + n) 20 off

/-- Whether a bank is live. -/
def Holding.bankLive (x : Holding) (bank : Nat) : Bool :=
  match x.banks.get? bank with
  | some b => b.live
  | none => false

def State.scrDead (s : State) (c : CCRef) (off n : Nat) : Bool :=
  !((s.holding c).bankLive (off / bankSize) && (s.holding c).bankLive ((off + n - 1) / bankSize))

/-! ### Running copies (R242, R305) -/

/-- Whether a core is destination d of a copy that core `own` runs. -/
def State.copyDestCore (s : State) (c : CCRef) (own : Nat) (cp : Copy) (d : Nat) : Bool :=
  let r := dMcr cp.desc d
  if r = 0xFF then own == c.core
  else
    match s.group? { part := c.part, ctx := c.ctx, core := own, grp := cp.grp } with
    | some g => match s.gang? { part := c.part, ctx := c.ctx, kidx := g.kidx, gang := g.gang } with
      | some k => k.cores.getD r 1000 == c.core
      | none => false
    | none => false

/-- Whether a byte of a core's scratchpad is a destination byte of a copy at or above a position. -/
def State.copyAbove (s : State) (c : CCRef) (own : Nat) (cp : Copy) (pos : Nat → Nat) (off : Nat) : Bool :=
  cp.kind != .tstore && (List.range cp.dests).any fun d => s.copyDestCore c own cp d &&
    (match cp.seqOf off with
     | some l => decide (pos d ≤ l)
     | none => false)

/-- Whether a scratchpad byte is one that a copy of a channel, running or queued, has still to write. -/
def State.chanShadows (s : State) (c : CCRef) (own : Nat) (ch : Chan) (off : Nat) : Bool :=
  match ch.q with
  | [] => false
  | cp :: cps =>
    s.copyAbove c own cp (fun d => if ch.started then (ch.wp.getD d 0 + 2 ^ 32 - ch.start) % 2 ^ 32 else 0) off
      || cps.any fun cp => s.copyAbove c own cp (fun _ => 0) off

/-- Whether a byte lies at or above the pointer of an unfinished copy: it reads as a free value (R242). -/
def State.shadowed (s : State) (c : CCRef) (off : Nat) : Bool :=
  s.holds.any fun e => e.1.part = c.part && e.1.ctx = c.ctx && e.2.chans.any fun ch => s.chanShadows c e.1.core ch.2 off

/-! ### Banks: power and revival (R254, R255) -/

/-- The power of a scratchpad bank: listed once it has been granted; else full where it is live, or off. -/
def State.scrPower (s : State) (c : CoreRef) (bank : Nat) : Power :=
  match (s.core c).scrPow.get? bank with
  | some p => p.1
  | none => if s.holds.any fun e => e.1.coreRef == c && e.2.bankLive bank then .full else .off

/-- Every access reaches the bank and resets its timer; a bank in retention, or off and revived, begins its wake. -/
def State.touchBank (s : State) (c : CCRef) (bank : Nat) : State :=
  let now := s.coreTime c.coreRef
  let p := match s.scrPower c.coreRef bank with
    | .off => .waking true (now + BitVec.ofNat 64 (ceilCycles 32))
    | .retention => .waking false (now + BitVec.ofNat 64 (ceilCycles 12))
    | x => x
  s.modCore c.coreRef fun k => { k with scrPow := k.scrPow.set bank (p, now) }

/-- Whether the banks of n bytes are full: those that are not begin their wake, and the access waits (R254). DEDUCED: log 77. -/
def State.bankAwake (s : State) (c : CCRef) (off n : Nat) : State × Bool :=
  if (banksOf off n).all fun b => s.scrPower c.coreRef b == .full then (s, true)
  else ((banksOf off n).foldl (fun s b => s.touchBank c b) s, false)

/-- A write to a dead bank revives it: every byte it does not write reads 0, which is what the table holds since the bank died. -/
def State.reviveBank (s : State) (c : CCRef) (bank : Nat) : State :=
  s.modHolding c fun x =>
    match x.banks.get? bank with
    | some b => if b.live then x else { x with banks := x.banks.set bank { b with live := true } }
    | none => x

/-- n bytes at the bank, as the table holds them. -/
def Holding.bytesAt (x : Holding) (off n : Nat) : List Byte := (List.range n).map fun i => Tab.get 0 x.scratch (off + i)

/-- A read of n bytes: those a running copy has still to write are free values (DESIGN CHOICE, log 6). -/
def State.scrRead (s : State) (c : CCRef) (off n : Nat) : State × List Byte :=
  let x := s.holding c
  let s' := s.touchBank c (off / bankSize)
  if (List.range n).any fun i => s.shadowed c (off + i) then
    ({ s' with fresh := s'.fresh + n },
     (List.range n).map fun i => if s.shadowed c (off + i) then Config.freeByte (s.fresh + i) else Tab.get 0 x.scratch (off + i))
  else (s', x.bytesAt off n)

/-- Put bytes into the table. -/
def scrPut (t : Tab Byte) (off : Nat) : List Byte → Tab Byte
  | [] => t
  | b :: bs => scrPut (Tab.put 0 t off b) (off + 1) bs

/-- The stamp of a write: its number; the pointer of its channel after it, for a copy; and who wrote. -/
def stampOf (seq ptr tag : Nat) : Nat := (seq * 2 ^ 33 + ptr % 2 ^ 32) * 2048 + tag

def stampSeq (w : Nat) : Nat := w / 2048 / 2 ^ 33
def stampPtr (w : Nat) : Nat := w / 2048 % 2 ^ 33
def stampTag (w : Nat) : Nat := w % 2048

/-- The mark of the writes of a copy channel of a core; and that of a group's own stores to its core, with the bytes of channels that its threads have
waited for (R326). A store from another core is marked 0. -/
def copyTag (core ch : Nat) : Nat := 1 + core * 8 + ch
def groupTag (grp : Nat) : Nat := 1200 + grp % 800

/-- The stamp of a byte once a thread of a group has waited for a channel's pointer. -/
def coverStamp (core grp ch p w : Nat) : Nat :=
  if stampTag w = copyTag core ch ∧ (p + 2 ^ 33 - stampPtr w) % 2 ^ 32 < 2 ^ 31 then w - copyTag core ch + groupTag grp else w

/-- A CHWAIT of a thread of a group makes the bytes of a channel below its pointer covered by the group's next MFENCE (R326). -/
def State.coverCopy (s : State) (c : CCRef) (grp ch p : Nat) : State :=
  s.modHolding c fun x => { x with wseq := x.wseq.map fun e => (e.1, coverStamp c.core grp ch p e.2) }

/-- Stamp the bytes of a range, each with the pointer after it. -/
def scrStamp (t : Tab Nat) (off seq : Nat) : Nat → Tab Nat
  | 0 => t
  | n + 1 => scrStamp (Tab.put 0 t off (seq + 2048)) (off + 1) (seq + 2048) n

/-- Bytes written to a core's scratchpad while a copy of the context is unfinished (R310). DESIGN CHOICE: log 35. -/
def State.noteScr (s : State) (c : CCRef) (off n : Nat) : State :=
  if s.copyOpen (fun x => x == c.ctxRef) (fun k => k != .tstore) then
    { s with
      fresh := s.fresh + 1
      notes := s.notes ++ (List.range n).map fun i => { core := some c, part := c.part, byte := off + i, at' := s.fresh, chan := none } }
  else s

/-- Bytes land at the banks under a stamp; dead banks revive. Poison of whole words written is cleared. -/
def State.scrLand (s : State) (c : CCRef) (off : Nat) (bytes : List Byte) (seq : Nat) : State :=
  let n := bytes.length
  if n = 0 then s
  else
    let s := (banksOf off n).foldl (fun s b => (s.touchBank c b).reviveBank c b) s
    let s := (s.modHolding c fun x => { x with scratch := scrPut x.scratch off bytes, wseq := scrStamp x.wseq off seq n }).noteScr c off n
    if s.scrPois.isEmpty then s
    else { s with scrPois := s.scrPois.filter fun e => ¬ (e.1 = c ∧ off ≤ e.2 * 8 ∧ e.2 * 8 + 8 ≤ off + n) }

/-- A write of bytes, with the core's next write number and the mark of who writes. -/
def State.scrWrite (s : State) (c : CCRef) (tag off : Nat) (bytes : List Byte) : State :=
  let q := s.takeSeq c.coreRef
  q.2.scrLand c off bytes (stampOf q.1 0 tag)

/-- Whether a range holds a poisoned word (R394, R494). -/
def State.scrPoisoned (s : State) (c : CCRef) (off n : Nat) : Bool :=
  s.scrPois.any fun e => e.1 = c && decide (off < e.2 * 8 + 8) && decide (e.2 * 8 < off + n)

/-! ### Errors in accumulator stores (R494) -/

/-- The errors in the words that some cells lie in are gone (R494). -/
def State.healCells (s : State) (c : CCRef) (hit : Nat → Bool) : State :=
  if s.accPois.isEmpty then s else { s with accPois := s.accPois.filter fun e => !(e.1 == c && (hit (2 * e.2) || hit (2 * e.2 + 1))) }

/-! ### Dropping banks (R256, R257) -/

/-- The bytes of a bank that become free values when it is dropped: those of a running copy below its pointer, and ring slots. -/
def State.dropFree (s : State) (c : CCRef) (off : Nat) : Bool :=
  ((s.holding c).rings.any fun r => r.2.init && decide (r.2.base ≤ off) && decide (off < r.2.base + r.2.k * r.2.m))
    || (s.holds.any fun e => e.1.part = c.part && e.1.ctx = c.ctx && e.2.chans.any fun ch =>
        (match ch.2.q, ch.2.started with
         | cp :: _, true => cp.kind != .tstore && ((List.range cp.dests).any fun d => s.copyDestCore c e.1.core cp d)
             && (cp.seqOf off).isSome && !s.chanShadows c e.1.core ch.2 off
         | _, _ => false))

/-- Whether dropping a bank needs the free values of R257: some ring or running copy may lie in it. -/
def State.dropHits (s : State) (c : CCRef) (bank : Nat) : Bool :=
  ((s.holding c).rings.any fun r => r.2.init && decide (r.2.base < (bank + 1) * bankSize) && decide (bank * bankSize < r.2.base + r.2.k * r.2.m))
    || (s.holds.any fun e => e.1.part = c.part && e.1.ctx = c.ctx && e.2.chans.any fun ch => ch.2.started)

def freeFill (s : State) (c : CCRef) (base : Nat) : Nat → Tab Byte → Tab Byte
  | 0, t => t
  | n + 1, t => freeFill s c base n (if s.dropFree c (base + n) then Tab.put 0 t (base + n) (Config.freeByte (s.fresh + n)) else t)

/-- A bank dies: its contents are lost. -/
def State.killBank (s : State) (c : CCRef) (bank : Nat) : State :=
  let lo := bank * bankSize
  let hits := s.dropHits c bank
  let t := Tab.clear (s.holding c).scratch lo (lo + bankSize)
  let t := if hits then freeFill s c lo bankSize t else t
  let s := if hits then { s with fresh := s.fresh + bankSize } else s
  let s := s.modHolding c fun x => { x with
    scratch := t
    wseq := Tab.clear x.wseq lo (lo + bankSize)
    banks := match x.banks.get? bank with
      | some b => x.banks.set bank { b with live := false }
      | none => x.banks }
  s.modCore c.coreRef fun k => { k with scrPow := k.scrPow.set bank (.off, (k.scrPow.getD bank (.off, 0)).2) }

/-! ### The side list of QCVT (R198, R199) -/

/-- Write n side entries from PTR on: each is written where the group holds its bank, and is discarded otherwise. -/
def State.sideEntries (s : State) (c : CCRef) (grp : Nat) : Nat → List Nat → State × Bool
  | _, [] => (s, false)
  | p, v :: vs =>
    let ok := decide (2 * p < scratchSize) && (s.holding c).owns grp (2 * p / bankSize)
    let r := State.sideEntries (if ok then s.scrWrite c (groupTag grp) (2 * p) (leBytes v 2) else s) c grp (p + 1) vs
    (r.1, r.2 || !ok)

/-- Reserve and write the entries of one QCVT, and advance PTR. -/
def State.sideList (s : State) (t : TRef) (vs : List Nat) : State :=
  if vs.isEmpty then s
  else
    match s.group? t.group with
    | none => s
    | some g =>
      let p := bitsOf g.sideptr.toNat 21 1
      let r := s.sideEntries t.ccRef t.grp p vs
      let p' := min (p + vs.length) 0x180000
      let ovf := g.sideptr.getLsbD 31 || r.2
      r.1.modGroup t.group fun x => { x with sideptr := BitVec.ofNat 32 ((if ovf then 2 ^ 31 else 0) + 2 * p') }

end Sys2Proof.Machine
end

