-- ==== Sys2Proof/Machine/Waits.lean ====
section
/-! DEFINITION. Entering and leaving a wait or a hold (05_group.md R119, R120, R500), and the rejoin barriers (06_control.md R146, R147). -/
namespace Sys2Proof.Machine
open Sys2Proof

/-- The thread enters WAIT at an instruction (R11, R120). -/
def State.await (s : State) (t : TRef) (x : Thread) (i : Instr) (ph : Phase) (deadline : Option DWord) : State :=
  (s.wakeDests t x i).setThread t
    { x with st := .wait, ph := ph, cur := some i, deadline := deadline, waitFrom := s.time.gtime, gap := x.gapOf i.hints }

/-- The thread stands at an instruction by a hold that names no wait reason (R500). -/
def State.stand (s : State) (t : TRef) (x : Thread) (i : Instr) (ph : Phase) : State :=
  (s.wakeDests t x i).setThread t { x with ph := ph, cur := some i, gap := x.gapOf i.hints }

/-- The hints of the instruction a thread waits or stands at. -/
def Thread.curHints (x : Thread) : Hints := (x.cur.map Instr.hints).getD Hints.none

/-- The instruction a thread waits or stands at retires with its results (R120). -/
def State.finish (s : State) (t : TRef) (r : Res) : State :=
  match s.thread? t with
  | none => s
  | some x =>
    let y := { x with st := if x.st = .wait then x.back else x.st, ph := .none, deadline := none }
    ((s.retire t y x.curHints r).wakeThreadBanks t).respond t

/-- A wait that ends in a trap (R120). -/
def State.finishTrap (s : State) (t : TRef) (c : Cause) (taddr : DWord) : State :=
  match s.thread? t with
  | none => s
  | some x =>
    let s := (s.setThread t { x with st := if x.st = .wait then x.back else x.st, ph := .none, cur := none, deadline := none }).takeTrap
      t c (pcWord x.pc) taddr 0
    match x.cur with
    | some i => s.settleDests t x i
    | none => s

/-! ### Kicks (R401) -/

/-- A wait that a kick ends. -/
def Phase.kickable : Phase → Bool
  | .rejoin _ | .rendezvous .. | .address .. | .sleep => true
  | _ => false

/-- A hold at an instruction that has had no effect yet, of a thread that reports READY: a fence under way, a walk (R500). -/
def Phase.undone : Phase → Bool
  | .none | .fence .. | .walk _ | .walked .. => true
  | _ => false

/-- Whether a kick is taken now. A thread whose access is at its home takes it once that has answered. DEDUCED: log 84. -/
def State.kickDue (s : State) (t : TRef) (x : Thread) : Bool :=
  s.ctxRuns t.ctxRef && x.kick && !x.h && ((x.st == .ready && x.ph.undone) || (x.st == .wait && x.ph.kickable))

/-- The thread leaves the arrived set of the barrier it waits at (R147). -/
def Thread.leaveA (x : Thread) : Thread :=
  match x.ph with
  | .rejoin jb => { x with jbA := x.jbA &&& ~~~(BitVec.ofNat 16 (2 ^ jb)) }
  | _ => x

/-- A kick that is due is taken: its wait ends with no effect of its instruction (R401). -/
def State.takeKick (s : State) (t : TRef) : State :=
  match s.thread? t with
  | none => s
  | some x =>
    if s.kickDue t x then
      let s := (s.setThread t { x.leaveA with kick := false }).takeTrap t .trap (pcWord x.pc) 0 0xFFFFFFFF
      match x.cur with
      | some i => s.settleDests t x i
      | none => s
    else s

/-- Absolute VTIME of a wait of d core cycles from now (R144). -/
def State.deadlineOf (s : State) (t : TRef) (d : Nat) : DWord :=
  s.ctxVtime t.ctxRef (s.coreTime t.coreRef) + BitVec.ofNat 64 (ceilCycles d)

/-- Whether a deadline has come. -/
def State.deadlineDue (s : State) (t : TRef) (x : Thread) : Bool :=
  match x.deadline with
  | some d => decide (d.toNat ≤ (s.ctxVtime t.ctxRef (s.coreTime t.coreRef)).toNat)
  | none => false

/-- The timed wait of a thread ends. Where a restore could not fetch its instruction, the thread is READY at it with a deadline that has passed (R144). -/
def State.finishTimed (s : State) (t : TRef) : State :=
  match s.thread? t with
  | none => s
  | some x => if x.cur.isSome then s.finish t {} else s.setThread t { x with st := x.back, ph := .none, deadline := some 0 }

/-! ### Rejoin barriers -/

def jbMask (jb : BitVec 4) : BitVec 16 := BitVec.ofNat 16 (2 ^ jb.toNat)

def Thread.enrolled (x : Thread) (jb : BitVec 4) : Bool := x.jbE.getLsbD jb.toNat
def Thread.arrived (x : Thread) (jb : BitVec 4) : Bool := x.jbA.getLsbD jb.toNat
def Thread.enrol (x : Thread) (jb : BitVec 4) : Thread := { x with jbE := x.jbE ||| jbMask jb }
def Thread.arrive (x : Thread) (jb : BitVec 4) : Thread := { x with jbA := x.jbA ||| jbMask jb }
def Thread.withdraw (x : Thread) (jb : BitVec 4) : Thread := { x with jbE := x.jbE &&& ~~~(jbMask jb), jbA := x.jbA &&& ~~~(jbMask jb) }

/-- Release a barrier whose arrived set is not empty and equals its enrolled set (R146). -/
def State.rejoinCheck (s : State) (g : GRef) (jb : BitVec 4) : State :=
  let e := (s.groupThreads g).filter fun p => p.2.enrolled jb
  let a := e.filter fun p => p.2.arrived jb
  if a.isEmpty || a.length != e.length then s
  else a.foldl (fun s p => (s.modThread p.1 fun x => x.withdraw jb).finish p.1 {}) s

/-- Every rejoin barrier of a group. -/
def State.rejoinAll (s : State) (g : GRef) : State :=
  (List.range 16).foldl (fun s j => s.rejoinCheck g (BitVec.ofNat 4 j)) s

end Sys2Proof.Machine
end

