-- ==== Sys2Proof/Machine/Access.lean ====
section
/-! DEFINITION. Accesses to memory by a thread: addresses and windows (R221 to R223, R246 to R248), atomic operations (R259 to R261),
the L1 and its leases (R228, R229, R241), the store queue and the write-combining buffer (R231, R239, R240), fences (R231 to R234),
and parking (R247, R285). -/
namespace Sys2Proof
open Sys2Proof

/-- The scope an access leaves in its line's record: of an atomic, an acquire or a release (R237). -/
def Instr.recScope : Instr → Option Scope
  | .ld _ _ ord .. => ord
  | .st _ _ ord .. => ord
  | .atom _ _ _ _ sc .. | .cas _ _ _ sc .. | .red _ _ _ _ sc .. => some sc
  | .signalSet .. | .signalAdd .. | .sigwait .. | .gswap .. => some .pkg
  | _ => none

def Instr.isLoad : Instr → Bool
  | .ld .. | .ldSp .. => true
  | _ => false

def Instr.isRed : Instr → Bool
  | .red .. | .signalSet .. | .signalAdd .. => true
  | _ => false

/-- The replacement hint of an access at an address: on the private window CH is ignored (R95, R251). -/
def Instr.chAt (i : Instr) (ea : DWord) : BitVec 2 := if ea.toNat / 2 ^ 56 = 0xFE then 0 else i.hints.ch

/-- PREF.l2: its line comes into the L2, and nothing to the core (R269). -/
def Instr.prefL2 : Instr → Bool
  | .pref _ l2 .. => l2
  | _ => false

/-- Whether an instruction's acquire or release is of scope .pod, which TIMELOST governs (R39). -/
def Instr.podOrdered (i : Instr) : Bool := i.acqScope == some .pod || i.relScope == some .pod

/-- The bytes of an access (R248). -/
def Sz.bytes : Sz → Nat
  | .n8 | .i8 => 1
  | .n16 | .i16 => 2
  | .b32 => 4
  | .b64 => 8
  | .b128 => 16

def ATy.bytes (ty : ATy) : Nat := if ty.wide then 8 else 4

end Sys2Proof

namespace Sys2Proof.Machine
open Sys2Proof

/-! ### Requests (R246, R248) -/

/-- What one thread's memory instruction asks for: its effective address and size, the rights it needs, and its operand words. -/
structure Req where
  ea   : DWord
  size : Nat
  acc  : Acc
  data : List Word
  sp   : Bool                  -- the SP form: ea is the 0xFD address of the executing core
  deriving DecidableEq, Repr

def optRd (x : Thread) : Option VReg → Word
  | some r => x.rd r
  | none => 0

/-- ea of LD, ST and PREF with SP = 0. -/
def eaOf (x : Thread) (a : VReg) (b : Option VReg) (off : BitVec 24) : DWord :=
  x.rdPair a + (optRd x b).signExtend 64 + off.signExtend 64

/-- off of LD and ST with SP = 1. -/
def spOf (x : Thread) (a : VReg) (b : Option VReg) (off : BitVec 24) : Word := x.rd a + optRd x b + off.signExtend 32

/-- The 0xFD address of an offset on a core. DEDUCED: log 50. -/
def localEa (core : Nat) (off : Word) : DWord := BitVec.ofNat 64 (0xFD * 2 ^ 56 + core % 2 ^ 12 * 2 ^ 32 + off.toNat)

def eaAtomic (x : Thread) (a : VReg) (off : BitVec 16) : DWord := x.rdPair a + off.signExtend 64

/-- The request of an instruction that can make an operand-log entry. DEDUCED: log 49. -/
def reqOf (core : Nat) (x : Thread) : Instr → Option Req
  | .ld _ sz _ _ a b off => some ⟨eaOf x a b off, sz.bytes, .read, [], false⟩
  | .ldSp _ sz _ _ a b off => some ⟨localEa core (spOf x a b off), sz.bytes, .read, [], true⟩
  | .st _ sz _ d a b off => some ⟨eaOf x a b off, sz.bytes, .write, x.rdMany d sz.regs, false⟩
  | .stSp _ sz _ d a b off => some ⟨localEa core (spOf x a b off), sz.bytes, .write, x.rdMany d sz.regs, true⟩
  | .atom _ _ ty _ _ _ a off b => some ⟨eaAtomic x a off, ty.bytes, .both, x.rdMany b ty.regs, false⟩
  | .cas _ ty _ _ _ a off b => some ⟨eaAtomic x a off, ty.bytes, .both, x.rdMany b (2 * ty.regs), false⟩
  | .red _ _ ty _ _ a off b => some ⟨eaAtomic x a off, ty.bytes, .write, x.rdMany b ty.regs, false⟩
  | .waitaddr _ a off b => some ⟨x.rdPair a + off.signExtend 64, 1, .read, match b with | some r => [x.rd r] | none => [], false⟩
  | .signalSet _ a b => some ⟨x.rdPair a, 4, .write, [x.src b], false⟩
  | .signalAdd _ a b => some ⟨x.rdPair a, 4, .write, [x.src b], false⟩
  | .sigwait _ _ a b => some ⟨x.rdPair a, 4, .read, [x.src b], false⟩
  | .gswap _ _ a b => some ⟨x.rdPair a, 4, .read, [x.src b], false⟩
  | .launch _ a => some ⟨x.rdPair a, 128, .both, [], false⟩
  | .tcopy _ _ a => some ⟨x.rdPair a, 64, .read, [], false⟩
  | .tstore _ _ a => some ⟨x.rdPair a, 64, .read, [], false⟩
  | .tcopys _ _ a => some ⟨x.rdPair a, 64, .read, [], false⟩
  | _ => none

/-! ### Windows (R221 to R223) -/

inductive Win where
  | glob (va : Nat)
  | loc (off : Nat)
  | gang (core off : Nat)
  deriving DecidableEq, Repr

/-- Which window an access of n bytes falls in, or the trap it takes (R221, R222). -/
def State.window (s : State) (t : TRef) (g : Group) (ea : DWord) (n : Nat) : Except Cause Win :=
  let e := ea.toNat
  let off := bitsOf e 21 0
  match bitsOf e 63 56 with
  | 0x00 => if e + n ≤ 2 ^ 56 then .ok (.glob e) else .error .badwin
  | 0xFC =>
    let r := bitsOf e 55 44
    if g.gangN ≤ r ∨ bitsOf e 43 22 ≠ 0 ∨ scratchSize < off + n then .error .badwin
    else
      match s.gang? (g.gangRef t.group) with
      | none => .error .badwin
      | some k =>
        let core := k.cores.getD r 0
        if !s.scrGranted { part := t.part, ctx := t.ctx, core := core } g.kidx off n then .error .badwin
        else if core = t.core then .ok (.loc off) else .ok (.gang core off)
  | 0xFD =>
    if bitsOf e 55 44 ≠ 0 ∨ bitsOf e 31 22 ≠ 0 ∨ scratchSize < off + n then .error .badwin
    else if bitsOf e 43 32 ≠ t.core then .error .spforeign
    else if !s.scrGranted t.ccRef g.kidx off n then .error .badwin
    else .ok (.loc off)
  | 0xFE =>
    if bitsOf e 55 40 ≠ 0 ∨ g.psize < bitsOf e 39 0 + n then .error .badwin
    else .ok (.glob (privVa g t.rank (bitsOf e 39 0)))
  | _ => .error .badwin

/-! ### Atomic operations (R259 to R261) -/

def aopInt (op : Aop) (signed : Bool) (n : Nat) (old b : Nat) : Nat :=
  let v := fun x : Nat => if signed then signExt x n else (x : Int)
  match op with
  | .add => (old + b) % 2 ^ n
  | .min => if v b < v old then b else old
  | .max => if v old < v b then b else old
  | .and => Nat.land old b
  | .or => Nat.lor old b
  | .xor => Nat.xor old b
  | .exch => b
  | .inc => if v b ≤ v old then 0 else (old + 1) % 2 ^ n
  | .dec => if old = 0 ∨ v b < v old then b else (old + 2 ^ n - 1) % 2 ^ n

def aopFloat (f : FFmt) (op : Aop) (old b : Nat) : Nat :=
  match op with
  | .add => (fadd f .rn false old b).code
  | .min => (fminmax f false false old b).code
  | .max => (fminmax f true false old b).code
  | _ => b

def aopPacked (f : FFmt) (op : Aop) (old b : Nat) : Nat :=
  aopFloat f op (half0 old) (half0 b) + 2 ^ 16 * aopFloat f op (half1 old) (half1 b)

/-- The new value of an atomic operation (R259, R260). -/
def aopNew (op : Aop) (ty : ATy) (old b : Nat) : Nat :=
  match ty with
  | .n32 => aopInt op false 32 old b
  | .i32 => aopInt op true 32 old b
  | .n64 => aopInt op false 64 old b
  | .i64 => aopInt op true 64 old b
  | .f32 => aopFloat f32 op old b
  | .bf16x2 => aopPacked bf16 op old b
  | .f16x2 => aopPacked f16 op old b

def wordsNat (ws : List Word) : Nat := ws.foldr (fun w a => w.toNat + 2 ^ 32 * a) 0

/-- What an instruction writes where its old value is known; `none` for a CAS that fails (R259, R261). -/
def atomicNew (i : Instr) (data : List Word) (old : Nat) : Option Nat :=
  match i with
  | .atom _ op ty .. => some (aopNew op ty old (wordsNat data))
  | .red _ op ty .. => some (aopNew op ty old (wordsNat data))
  | .signalAdd .. => some (aopNew .add .n32 old (wordsNat data))
  | .cas _ ty .. =>
    if old = wordsNat (data.take ty.regs) then some (wordsNat (data.drop ty.regs)) else none
  | _ => some (wordsNat data)

/-- The operand words of an operation, kept as its data bytes. -/
def dataBytes (data : List Word) : List Byte := leBytes (wordsNat data) (4 * data.length)

def bytesWords : List Byte → List Word
  | a :: b :: c :: d :: l => BitVec.ofNat 32 (leNat [a, b, c, d]) :: bytesWords l
  | [] => []
  | l => [BitVec.ofNat 32 (leNat l)]

/-- Registers from a value, low word first. -/
def wordRegs (d : VReg) (v n : Nat) : List (VReg × Word) :=
  (List.range n).map fun k => (d + BitVec.ofNat 7 k, BitVec.ofNat 32 (v / 2 ^ (32 * k)))

/-- What a load or an atomic writes to its destination (R250, R259). -/
def loadRes (i : Instr) (bs : List Byte) : Res :=
  let v := leNat bs
  match i with
  | .ld _ sz _ d .. | .ldSp _ sz _ d .. =>
    match sz with
    | .i8 => { vs := [(d, BitVec.ofInt 32 (signExt v 8))] }
    | .i16 => { vs := [(d, BitVec.ofInt 32 (signExt v 16))] }
    | _ => { vs := wordRegs d v sz.regs }
  | .atom _ _ ty _ _ d .. => { vs := wordRegs d v ty.regs }
  | .cas _ ty _ _ d .. => { vs := wordRegs d v ty.regs }
  | _ => {}

/-! ### The store queue and the write-combining buffer (R231, R239, R240) -/

def Core.addMop (c : Core) (m : MOp) : Core := { c with mops := c.mops ++ [m] }

/-- The operations of a core whose bytes a load of the core sees before its L1. -/
def MOp.queued (m : MOp) : Bool := (m.kind == .store || m.kind == .wc || m.kind == .release) && m.ans == .pending

/-- Lay the bytes of a write over those of a read. -/
def layBytes (loc : Place) (wloc : Place) (wbytes : List Byte) (wmask : List Bool) (bs : List Byte) : List Byte :=
  if !loc.overlap bs.length wloc wbytes.length then bs
  else (List.range bs.length).map fun i =>
    let j := loc.addr + i
    if wloc.addr ≤ j && wmask.getD (j - wloc.addr) false then wbytes.getD (j - wloc.addr) 0 else bs.getD i 0

/-- What the writes of a core lay over a read: the store queue is preferred to the write-combining buffer, and that to the entries that have
left it (R231, R239). -/
def Core.layWrites (c : Core) (mm : MOp → List Bool) (wm : WcEntry → List Bool) (loc : Place) (bs : List Byte) : List Byte :=
  let lay := fun bs (m : MOp) => layBytes loc m.loc m.data (mm m) bs
  let bs := (c.mops.filter fun m => m.queued && m.kind == .wc).foldl lay bs
  let bs := c.wc.foldl (fun bs w => layBytes loc w.loc w.bytes (wm w) bs) bs
  (c.mops.filter fun m => m.queued && m.kind != .wc).foldl lay bs

/-- The bytes a load of the core sees (R231, R239). -/
def Core.overlay (c : Core) (loc : Place) (bs : List Byte) : List Byte := c.layWrites MOp.mask WcEntry.mask loc bs

/-- Whether a write gives bytes of a read of n bytes. -/
def givesBytes (loc : Place) (n : Nat) (wloc : Place) (mask : List Bool) : Bool :=
  loc.overlap n wloc mask.length && (List.range n).any fun i => decide (wloc.addr ≤ loc.addr + i) && mask.getD (loc.addr + i - wloc.addr) false

/-- A thread has read what other threads of its core have queued at a place: its fences order those writes too (R235 rule 4). -/
def Core.noteRead (c : Core) (t : TRef) (loc : Place) (n : Nat) : Core :=
  { c with
    mops := c.mops.map fun m => if m.queued && !(m.thr == t || m.contrib.contains t) && givesBytes loc n m.loc m.mask then
      { m with contrib := m.contrib ++ [t] } else m
    wc := c.wc.map fun w => if !w.thrs.contains t && givesBytes loc n w.loc w.mask then { w with thrs := w.thrs ++ [t] } else w }

def State.noteRead (s : State) (t : TRef) (loc : Place) (n : Nat) : State := s.modCore t.coreRef fun k => k.noteRead t loc n

/-- Send a write-combining entry as one store, which carries the entry's hint; `fencer` is a thread whose WCTMAX takes its WCT too (R240). Its
bytes count (R464). -/
def State.drainEntry (s : State) (c : CoreRef) (w : WcEntry) (fencer : Option TRef) : State :=
  let q := s.takeSeq c
  let m : MOp :=
  { seq := q.1, born := w.id, thr := w.thrs.headD ⟨0, 0, 0, 0, 0⟩, entry := none, kind := .wc, instr := .nop { Hints.none with ch := w.ch }, pc := 0,
    gen := (s.ctx (w.thrs.headD ⟨0, 0, 0, 0, 0⟩).ctxRef).gen, ea := 0, loc := w.loc, size := 128, data := w.bytes, mask := w.mask, cov := w.cov,
    contrib := w.thrs.drop 1 ++ (match fencer with | some f => [f] | none => []), ans := .pending }
  let n := match w.loc with | .mem .. => w.mask.countP id | .scr .. => 0
  q.2.modCore c fun k => { k.addMop m with wc := k.wc.filter (fun e => e.id != w.id), bytes := k.bytes + n }

def State.drainWhere (s : State) (c : CoreRef) (p : WcEntry → Bool) (fencer : Option TRef) : State :=
  ((s.core c).wc.filter p).foldl (fun s w => s.drainEntry c w fencer) s

/-- The place of the first byte of a place's line. -/
def Place.lineBase : Place → Place
  | .mem pa k q p => .mem (pa / lineSize * lineSize) k q p
  | .scr c off => .scr c (off / lineSize * lineSize)

/-- Whether a store to a place needs an entry and all 64 are held (R240). -/
def Core.wcFull (k : Core) (loc : Place) : Bool := decide (64 ≤ k.wc.length) && !k.wc.any fun w => w.loc.sameLine loc

/-- The oldest entry drains. -/
def State.drainOldest (s : State) (c : CoreRef) : State :=
  match (s.core c).wc with
  | w :: _ => s.drainEntry c w none
  | [] => s

/-- Put a store into the write-combining buffer (R239, R240). -/
def State.wcStore (s : State) (t : TRef) (loc : Place) (bytes : List Byte) (ch : BitVec 2) : State :=
  let c := t.coreRef
  let off := loc.addr % lineSize
  let hit := fun i => decide (off ≤ i ∧ i < off + bytes.length)
  match (s.core c).wc.find? fun w => w.loc == loc.lineBase with
  | some w =>
    let w := { w with
      bytes := (List.range lineSize).map fun i => if hit i then bytes.getD (i - off) 0 else w.bytes.getD i 0
      mask := (List.range lineSize).map fun i => hit i || w.mask.getD i false
      thrs := if w.thrs.contains t then w.thrs else w.thrs ++ [t], ch := strongCh w.ch ch }
    let s := s.modCore c fun k => { k with wc := k.wc.map fun e => if e.id = w.id then w else e }
    if w.mask.all id then s.drainEntry c w none else s
  | none =>
    -- a line named under another key slot, and the oldest entry of a full buffer, drain first
    let s := s.drainWhere c (fun w => w.loc.sameLine loc) none
    let s := if (s.core c).wc.length < 64 then s else s.drainOldest c
    let q := s.takeSeq c
    let w : WcEntry :=
      { id := q.1, loc := loc.lineBase, bytes := (List.range lineSize).map fun i => if hit i then bytes.getD (i - off) 0 else 0,
        mask := (List.range lineSize).map hit,
        cov := List.replicate lineSize false, thrs := [t], first := s.time.gtime, ch := ch }
    let s := q.2.modCore c fun k => { k with wc := k.wc ++ [w] }
    if w.mask.all id then s.drainEntry c w none else s

/-- Whether a store to a place goes through the write-combining buffer (R239). -/
def State.viaWc (s : State) (t : TRef) (loc : Place) : Bool :=
  match loc with
  | .mem _ _ _ p => p || s.placeDie t.part loc != s.physDie t.part t.core
  | .scr c _ => c != t.core

/-- Hand an operation to the memory system; the number it is known by. -/
def State.sendOp (s : State) (t : TRef) (x : Thread) (i : Instr) (entry : Option Nat) (kind : MKind) (r : Req) (loc : Place) :
    State × Nat :=
  -- the banks of dead windows that the answer will write wake (R134)
  let q := (match kind with | .load | .acquire | .atomic => s.wakeDests t x i | _ => s).takeSeq t.coreRef
  let cnt := match loc, kind with
    | .mem .., .atomic => 16
    | .mem .., .store => r.size
    | .mem .., .release => r.size
    | _, _ => 0
  let data := match kind with | .load | .acquire | .pref => [] | .atomic => dataBytes r.data | _ => (dataBytes r.data).take r.size
  let m : MOp :=
  { seq := q.1, born := q.1, thr := t, entry := entry, kind := kind, instr := i, pc := x.pc, gen := (s.ctx t.ctxRef).gen, ea := r.ea,
    loc := loc, size := r.size, data := data, mask := List.replicate r.size true, cov := List.replicate r.size false, contrib := [], ans := .pending }
  (q.2.modCore t.coreRef fun k => { k.addMop m with bytes := k.bytes + cnt }, q.1)

/-! ### The L1 (R228, R241) -/

/-- The line an L1 holds under a lease that has not run out (R228). -/
def Core.l1Hit (c : Core) (line : Nat) (now : DWord) : Option L1Line := c.l1.find? fun l => l.line == line && decide (now.toNat < l.lexp.toNat)

/-- Whether a line of an L1 holds an error in n bytes at an offset (R494). -/
def L1Line.bad (l : L1Line) (off n : Nat) : Bool := l.pois.any fun w => decide (off < 8 * w + 8) && decide (8 * w < off + n)

def Core.l1Touch (c : Core) (line : Nat) (ch : BitVec 2) : Core :=
  { c with l1Clock := c.l1Clock + 1,
           l1 := c.l1.map fun l => if l.line = line then { l with used := c.l1Clock, prio := max l.prio (hintPrio ch) } else l }

def Core.l1Drop (c : Core) (line : Nat) : Core := { c with l1 := c.l1.filter fun l => l.line != line }

/-- The victim of a full set: the least recently used way among the lowest priority (R241). DESIGN CHOICE: log 15. -/
def victimOf (ways : List L1Line) : Option L1Line :=
  ways.foldl (fun (b : Option L1Line) l => match b with
    | some y => if l.prio < y.prio ∨ (l.prio = y.prio ∧ l.used < y.used) then some l else some y
    | none => some l) none

/-- Fill a line: 256 sets of 12 ways, the set being the line number mod 256 (R227, R241; DESIGN CHOICE, log 15). -/
def Core.l1Fill (c : Core) (l : L1Line) : Core :=
  let c := c.l1Drop l.line
  let ways := c.l1.filter fun w => w.line % 256 == l.line % 256
  let c := if ways.length < 12 then c else match victimOf ways with | some v => c.l1Drop v.line | none => c
  { c with l1 := c.l1 ++ [{ l with used := c.l1Clock }], l1Clock := c.l1Clock + 1 }

/-- Bytes that the core's own performed writes change in the line it holds (R235 rule 2). -/
def Core.l1Patch (c : Core) (line off : Nat) (bytes : List Byte) (mask : List Bool) (wct : DWord) : Core :=
  { c with l1 := c.l1.map fun l =>
      if l.line = line then
        let hit := fun i => off ≤ i && mask.getD (i - off) false
        { l with lwct := wct
                 bytes := (List.range lineSize).map fun i => if hit i then bytes.getD (i - off) 0 else l.bytes.getD i 0
                 pois := l.pois.filter fun w => !(List.range 8).all fun i => hit (8 * w + i) }
      else l }

/-! ### Fences (R231 to R234, R240) -/

/-- A store, atomic or drained entry of a thread that has not been answered. -/
def MOp.ofThread (m : MOp) (t : TRef) : Bool :=
  (m.thr == t || m.contrib.contains t) && m.kind != .load && m.kind != .acquire && m.kind != .pref

def Core.pendingOf (c : Core) (t : TRef) : List Nat := (c.mops.filter fun m => m.ofThread t).map (·.seq)

/-- The pooled lines of a partition that a .pod fence waits for, marked where their writeback is already under way (R232). -/
def State.podLines (s : State) (part : Nat) : List (Nat × Bool) :=
  (s.pool.filter fun e => e.1.1 == part && (e.2.anyDirty || s.freqs.any fun f => f.part == part && f.line == e.1.2 && f.op == opWR)).map
    fun e => (e.1.2, !e.2.anyDirty)

/-- The pooled lines a CCTL.wb of the thread is writing back (R264, R270). -/
def State.wbOf (s : State) (t : TRef) : List (Nat × Bool) :=
  (s.pool.filter fun e => e.1.1 == t.part && (match e.2.want with | some l => l.contains t | none => false)).map (fun e => (e.1.2, false))
    ++ (s.freqs.filter fun f => f.part == t.part && f.op == opWR && f.thrs.contains t).map fun f => (f.line, true)

/-- A fence covers what its thread has written so far (R242). -/
def Core.cover (k : Core) (t : TRef) : Core :=
  { k with mops := k.mops.map fun m => if m.thr = t ∨ m.contrib.contains t then { m with cov := m.mask } else m,
           wc := k.wc.map fun w => if w.thrs.contains t then { w with cov := w.mask } else w }

/-- What a copy of the core reads over its home: the writes that a fence has covered (R242). -/
def Core.coverlay (c : Core) (loc : Place) (bs : List Byte) : List Byte :=
  c.layWrites MOp.cov WcEntry.cov loc bs

/-- Begin the fence part of an instruction: drain what its scope drains, note what is unanswered, and write back pooled data for scope
.pod; `sc` is none for WCFLUSH, which waits for what it drains, and GWMAX, which waits for the thread's stores and atomics (R231, R232, R234, R240,
R264). A release of scope .core waits for what it drains too (R240). DEDUCED: log 29. -/
def State.startFence (s : State) (t : TRef) (x : Thread) (i : Instr) (sc : Option Scope) (drain : Bool) (next : After) : State :=
  let c := t.coreRef
  let from' := (s.core c).seq
  let s := if sc.isSome then s.modCore c fun k => k.cover t else s
  let s := if drain then s.drainWhere c (fun _ => true) (some t) else s
  let k := s.core c
  let drained := fun m : MOp => m.kind == .wc && decide (from' ≤ m.seq)
  let seqs := match sc, drain with
    | some .core, _ => (k.mops.filter fun m => (m.thr == t && m.kind == .atomic) || drained m).map (·.seq)
    | none, true => (k.mops.filter drained).map (·.seq)
    | _, _ => k.pendingOf t
  let wbs := match sc, drain with
    | some .pod, _ => s.podLines t.part
    | some .core, _ | none, true => []
    | _, _ => s.wbOf t
  let s := s.stand t x i (.fence sc seqs wbs next)
  wbs.foldl (fun s w => s.writeBack t.ctxRef w.1 [0, 1]) s

/-- An acquire of scope .pod first writes back every dirty pooled sector of its partition (R232). -/
def State.acquirePod (s : State) (t : TRef) (x : Thread) (i : Instr) (loc : Place) : State :=
  let wbs := s.podLines t.part
  wbs.foldl (fun s w => s.writeBack t.ctxRef w.1 [0, 1]) (s.stand t x i (.fence none [] wbs (.send loc)))

/-- Whether the operations a fence waits for have been answered and, for a fence of some scope, the thread's older loads have returned. -/
def State.fenceAnswered (s : State) (t : TRef) (sc : Option Scope) (seqs : List Nat) : Bool :=
  !(seqs.any fun q => (s.core t.coreRef).mops.any fun m => m.seq == q) && !(sc.isSome && s.unretired t)

/-- Whether the condition of a fence holds (R231). -/
def State.fenceHolds (s : State) (t : TRef) (x : Thread) (sc : Option Scope) (seqs : List Nat) (wbs : List (Nat × Bool)) : Bool :=
  let now := (s.coreTime t.coreRef).toNat
  s.fenceAnswered t sc seqs && wbs.isEmpty
    && (match sc with
        | none | some .core => true
        | some .quad | some .die => decide (x.wctmax.toNat ≤ now)
        | some .pkg => decide (x.wctmax.toNat + 16 ≤ now)
        | some .pod => s.podOk && decide (x.wctmax.toNat + s.epsilon ≤ now))

/-! ### Parking (R11, R121, R247, R285) -/

/-- Neither the thread nor the core can take another entry (R121). -/
def State.logFull (s : State) (t : TRef) : Bool :=
  decide (4 ≤ (s.parkedEntries t).length) || decide (256 ≤ (s.logUsed t.part t.core).length)

/-- The lowest entry of a core's log that no context uses (R285). -/
def State.freeEntryIx (s : State) (c : CCRef) : Nat := ((List.range 256).find? fun e => !(s.logUsed c.part c.core).contains e).getD 0

/-- Park an instruction: its operands enter the log, the event is sent, and the thread goes on under R121. -/
def State.park (s : State) (t : TRef) (x : Thread) (i : Instr) (r : Req) (va : Nat) (m : Miss) : State :=
  let e := s.freeEntryIx t.ccRef
  let o : OEntry :=
  { ptime := s.coreTime t.coreRef, data := r.data, ea := r.ea, instr := i, word := encode i, pc := x.pc, sub := m.sub,
    ccls := m.cause, stat := .waiting, grp := t.grp, rank := t.rank, htid := x.htid, arm := none }
  let h := i.hints
  let s := s.setThread t { x with st := .parked, ph := .none, cur := none, pc := x.nextPc, gap := h.gap.toNat, yld := h.yld }
  (s.modHolding t.ccRef fun y => { y with olog := y.olog.set e o }).faultEvent t.ctxRef t.core x.htid va e false r.acc.kind m

/-- Whether a line of virtual memory is that of a parked access of the thread (R245). -/
def State.parkedLine (s : State) (t : TRef) (g : Group) (va : Nat) : Bool :=
  (s.parkedEntries t).any fun e => vaOf g t.rank e.2.ea / lineSize == va / lineSize

/-- Whether an older load of the thread on the same line has not returned (R235 rule 2). -/
def State.loadPending (s : State) (t : TRef) (loc : Place) : Bool :=
  (s.core t.coreRef).mops.any fun m => m.thr == t && m.isRead && m.loc.sameLine loc

/-- Whether an older load of the thread on the same virtual line has not returned, or is still listed: a younger access of the line, one that would park
included, does not overtake it (R235 rule 2, R288). -/
def State.loadOnLine (s : State) (t : TRef) (g : Group) (va : Nat) : Bool :=
  let same := fun ea : DWord => vaOf g t.rank ea / lineSize == va / lineSize
  ((s.core t.coreRef).mops.any fun m => m.thr == t && m.isRead && m.entry.isNone && same m.ea) || (s.relisted t).any fun p => same p.ea

/-- Whether another instruction of the slice holds its probe slot (R280). -/
def State.slotBusy (s : State) (t : TRef) (x : Thread) : Bool :=
  s.threads.any fun e => e.1.ccRef == t.ccRef && htidSlice e.2.htid == htidSlice x.htid && !(e.1.grp == t.grp && e.2.pc == x.pc)
    && e.2.ph.probing

/-- The memory request of another lane of the issue group, where it is for a granule that the TLB does not hold. -/
def State.laneMisses (s : State) (i : Instr) (u : TRef) : Bool :=
  match s.thread? u, s.group? u.group with
  | some y, some g => y.guard i.hints && (match reqOf u.core y i with
      | some r => match s.window u g r.ea r.size with
        | .ok (.glob va) => ((s.core u.coreRef).tlbFind u.ctx va).isNone
        | _ => false
      | none => false)
  | _, _ => false

/-- Whether another lane of a thread's instruction has a granule that is not resolved: one that walks already, or one still to issue (R279). -/
def State.lanesWalk (s : State) (t : TRef) (x : Thread) (i : Instr) : Bool :=
  (s.threads.any fun e => e.1.ccRef == t.ccRef && e.1.grp == t.grp && htidSlice e.2.htid == htidSlice x.htid && e.2.pc == x.pc
      && (match e.2.ph with | .walk _ => true | _ => false))
    || s.issueQ.any fun u => u.group == t.group && ((s.thread? u).any fun y => y.pc == x.pc) && s.laneMisses i u

/-- Begin a walk of a granule, or join the one under way; a lane whose granule is resolved waits for the other lanes (R279). -/
def State.startWalk (s : State) (t : TRef) (x : Thread) (i : Instr) (va : Nat) : State :=
  let vpn := va / granuleSize
  if ((s.core t.coreRef).tlbFind t.ctx va).isSome then s.setThread t { x with ph := .walked vpn none, cur := some i }
  else (s.setThread t { x with ph := .walk vpn, cur := some i }).modCore t.coreRef fun c =>
    if c.walks.contains vpn then c else { c with walks := c.walks ++ [vpn] }

/-- What the probe of a global address gives: not now, a wait for walks, a park, or the place (R279, R283). -/
inductive Probe where
  | hold
  | walk
  | park (m : Miss)
  | place (loc : Place)
  deriving DecidableEq, Repr

def State.probe (s : State) (t : TRef) (x : Thread) (g : Group) (i : Instr) (va : Nat) (acc : Acc) : Probe :=
  if s.logFull t || s.parkedLine t g va || s.loadOnLine t g va || s.slotBusy t x then .hold
  else
    match (s.core t.coreRef).tlbFind t.ctx va with
    | none => .walk
    | some (e, lvl) =>
      if s.lanesWalk t x i then .walk
      else match s.leafCheck t.ctxRef acc e lvl with
      | some m => .park m
      | none => if s.loadPending t (leafPlace e lvl va) then .hold else .place (leafPlace e lvl va)

/-! ### Byte budget (R464, R465) -/

def Core.blimit (c : Core) : Nat := bitsOf c.pwrctl.toNat 47 32

/-- A load about to leave the core is held (R465). DESIGN CHOICE: log 48. -/
def Core.budgetHeld (c : Core) : Bool := c.blimit != 0 && decide (64 * c.blimit ≤ c.bytes)

def State.count (s : State) (c : CoreRef) (n : Nat) : State := s.modCore c fun k => { k with bytes := k.bytes + n }

/-! ### Loads that a halt left unanswered (R271, R426, R427) -/

/-- A load stays in the replay list; the thread of an acquire stands at it. -/
def State.relist (s : State) (c : CCRef) (p : Replay) (t : TRef) (y : Thread) : State :=
  let n := s.takeSeq c.coreRef
  let s := n.2.modHolding c fun h => { h with replay := h.replay ++ [p] }
  if p.instr.acqScope.isSome then s.stand t y p.instr (.answer n.1) else s

/-- A load of the replay list issues anew with its logged address: it probes, and parks where it does not translate; where the log is full, or no link lets
its walk through, it stays listed. The thread of an acquire stands at it again. DEDUCED: log 66. -/
def State.issueReplay (s : State) (c : CCRef) (p : Replay) : State :=
  let t := (c.group p.grp).thread p.rank
  match s.thread? t, s.group? t.group with
  | some x, some g =>
    match reqOf c.core x p.instr with
    | none => s
    | some r =>
      let r := { r with ea := p.ea }
      let va := vaOf g t.rank r.ea
      let acq := p.instr.acqScope.isSome
      let stood := match x.ph with | .answer _ => true | _ => false
      let y := if acq && !stood then { x with pc := x.pc - 12 } else x
      if s.walkCut c.ctxRef c.core va then s.relist c p t y else
      let q := s.translate c.ctxRef c.core va r.acc
      match q.2 with
      | .ok loc =>
        let o := q.1.sendOp t y p.instr none (if acq then .acquire else .load) r loc
        if acq then o.1.stand t y p.instr (.answer o.2) else o.1
      | .error m =>
        if q.1.logFull t then q.1.relist c p t y
        else
          let e := q.1.freeEntryIx c
          let o : OEntry :=
          { ptime := q.1.coreTime c.coreRef, data := r.data, ea := r.ea, instr := p.instr, word := p.word, pc := y.pc,
            sub := m.sub, ccls := m.cause, stat := .waiting, grp := t.grp, rank := t.rank, htid := x.htid, arm := none }
          let s := q.1.setThread t
            { x with st := if x.st = .ready then .parked else x.st, ph := if stood then .none else x.ph,
                     cur := if stood then none else x.cur, pc := if acq then y.nextPc else x.pc }
          (s.modHolding c fun h => { h with olog := h.olog.set e o }).faultEvent c.ctxRef c.core x.htid va e false r.acc.kind m
  | _, _ => s

/-- The loads that are still listed are tried again. -/
def State.retryReplays (s : State) (c : CCRef) : State :=
  let l := (s.holding c).replay
  if l.isEmpty then s else l.foldl (fun s p => s.issueReplay c p) (s.modHolding c fun h => { h with replay := [] })

/-! ### What a load brings back -/

/-- A load of memory retires: WCTMAX takes the completion time it carries, and the load marker the LWCT of the line's home (R230, R265;
DEDUCED, log 16). -/
def Thread.loaded (x : Thread) (va : Nat) (lwct wct : DWord) : Thread :=
  { x with wctmax := dmax x.wctmax wct, wline := BitVec.ofNat 64 (va / lineSize * lineSize), wseen := lwct }

def Thread.raise (x : Thread) (w : DWord) : Thread := { x with wctmax := dmax x.wctmax w }

/-- The lease a home grants now, as the L1 of a core records it; none where no lease is taken (R228, R448). -/
def State.grantLease (s : State) (c : CCRef) (loc : Place) : State × Option DWord :=
  let len := bitsOf (s.ctx c.ctxRef).memcfg.toNat 23 8
  let die := s.placeDie c.part loc
  let g := (s.dieTime die).toNat
  let e := g + 64 * len
  let e := match loc with
    | .mem pa _ _ true =>
      let p := s.poolLine c.part (pa / lineSize)
      if p.once then g else min e p.lease.toNat
    | _ => e
  if len = 0 ∨ e ≤ g then (s, none)
  else
    let s := s.modLine (loc.lineNo c.part) fun r => { r with llast := dmax r.llast (BitVec.ofNat 64 e) }
    let own := if die = s.physDie c.part c.core then e else e - 16
    (s, some (BitVec.ofNat 64 own))

/-- Read a line at its home for the L1 of a core, with a lease where one is granted; an older copy of the line goes, so that no later load reads it (R228,
R235 rule 2, R241). -/
def State.fillLine (s : State) (c : CCRef) (loc : Place) (ch : BitVec 2) : State × List Byte :=
  let s := s.modCore c.coreRef fun k => k.l1Drop (loc.lineNo c.part)
  let r := (s.l2Use c.ctxRef loc ch true).homeBytes c.part loc.lineBase lineSize
  let h := r.1.line (loc.lineNo c.part)
  if ch = 3 then (r.1, r.2)
  else
    let g := r.1.grantLease c loc
    match g.2 with
    | none => (g.1, r.2)
    | some e =>
      (g.1.modCore c.coreRef fun k => k.l1Fill
      { line := loc.lineNo c.part, bytes := r.2, lexp := e, lwct := h.lwct, pwct := h.pwct,
        key := if h.held then h.key else loc.keySlot, prio := fillPrio ch loc.pri, used := 0, pois := [] }, r.2)

end Sys2Proof.Machine
end

