-- ==== Sys2Proof/Machine/CopyCheck.lean ====
section
/-! DEFINITION. Whether a copy is refused: its destinations, the grants it needs, and the rules of R300 (13_copy.md R297, R298, R300, R304). -/
namespace Sys2Proof.Machine
open Sys2Proof

/-! ### Destinations and grants (R297, R300, R304) -/

/-- The core and the group of destination d of a copy that a channel of a core runs; none where the rank is beyond the gang. -/
def State.copyDest (s : State) (c : CCRef) (cp : Copy) (d : Nat) : Option (Nat × Nat) :=
  let r := dMcr cp.desc d
  if cp.kind = .tstore ∨ r = 0xFF then some (c.core, cp.grp)
  else
    match s.group? (c.group cp.grp) with
    | none => none
    | some g =>
      if g.gangN ≤ r then none
      else (s.gang? (g.gangRef (c.group cp.grp))).map fun k => (k.cores.getD r 0, k.grps.getD r 0)

/-- Whether a range of a core's scratchpad is granted to a group there. -/
def State.copyGranted (s : State) (c : CCRef) (core grp off n : Nat) : Bool :=
  let cc : CCRef := { c with core := core }
  match s.group? (cc.group grp) with
  | some g => s.grantedTo cc grp g.rings off n
  | none => false

/-- R297: a tile lies in valid slots of granted banks. -/
def State.tileOk (s : State) (c : CCRef) (core grp p tr tc cb : Nat) : Bool :=
  placeValid p tr tc cb && (List.range (tr / 16)).all fun ci => (List.range (tc / 16)).all fun cj =>
    s.copyGranted c core grp (placeAt p tc cb (16 * ci) (16 * cj)) cb

/-- R298: a raw range lies in granted banks, each bank's part taken by itself. -/
def State.rawOk (s : State) (c : CCRef) (core grp p n : Nat) : Bool :=
  let lo := bitsOf p 21 0
  let hi := lo + n
  decide (hi ≤ scratchSize) && (List.range ((hi - 1) / bankSize + 1 - lo / bankSize)).all fun j =>
    let b := lo / bankSize + j
    s.copyGranted c core grp (max lo (b * bankSize)) (min hi ((b + 1) * bankSize) - max lo (b * bankSize))

def State.placeOk (s : State) (c : CCRef) (cp : Copy) (core grp p : Nat) : Bool :=
  if dRaw cp.desc then s.rawOk c core grp p cp.total else s.tileOk c core grp p (dTR cp.desc) (dTC cp.desc) cp.cb

/-! ### Refusal (R300) -/

/-- Bytes of a scale; none where the format is no scale format. -/
def scaleBytes (sf : Nat) : Option Nat :=
  match sf with
  | 0x07 => some 1
  | 0x02 => some 2
  | 0x00 => some 4
  | _ => none

def inCopyWindow (a : Nat) : Bool := bitsOf a 63 56 == 0 || bitsOf a 63 56 == 0xFE

/-- The two halves that RESV covers: descriptor bits and placement bits. DEDUCED: log 36. -/
def copyResv (cp : Copy) : Bool :=
  let d := cp.desc
  let bad := fun p => if dRaw d then bitsOf p 31 22 != 0 else pReserved p
  bitsOf d 511 320 != 0 || bitsOf d 297 296 != 0 || dCell d == 3 || dScm d == 3 || bad (dPlace0 d)
    || (if cp.kind = .tcopys then bad (dPlace1 d) else dPlace1 d != 0)
    || ((List.range 4).any fun i => decide (dMcn d < i) && dMcr d i != 0) || (cp.kind == .tstore && dMcr d 0 != 0)

/-- DEDUCED: log 37. -/
def copyFormat (cp : Copy) : Bool :=
  let d := cp.desc
  if cp.kind = .tcopys ∧ (dGaddr d ≠ 0 ∨ dGstride d ≠ 0 ∨ dSaddr d ≠ 0) then true
  else if dRaw d then
    dFmt d != 0 || dSfmt d != 0 || dScm d != 0 || dCell d != 0 || dRm d != 0 || dTrn d || bitsOf d 295 288 != 0
  else
    match cp.kind with
    | .tcopy => (storeOf (dFmt d)).isNone || (dScm d != 0 && (scaleBytes (dSfmt d)).isNone)
    | .tstore => ((storeOf (dFmt d)).isNone && dFmt d != 0x08) || dScm d != 0
    | .tcopys => dFmt d != 0 || dSfmt d != 0 || dScm d != 0 || dRm d != 0

def copyShape (cp : Copy) : Bool :=
  let d := cp.desc
  dRows d == 0 || dCols d == 0 ||
    (if dRaw d then decide (scratchSize < cp.total)
     else decide ((if dTrn d then dTC d else dTR d) < dRows d) || decide ((if dTrn d then dTR d else dTC d) < dCols d)
       || (cp.kind != .tcopys && fmtBits (dFmt d) == 4 && dCols d % 2 == 1))

def copyTrans (cp : Copy) (memcfg : Word) : Bool :=
  let d := cp.desc
  let w := fmtBits (dFmt d)
  dTrn d && (cp.kind != .tcopy || w == 4 || w == 32 || (w == 8 && !memcfg.getLsbD 1) || (w == 16 && !memcfg.getLsbD 2))

def State.copyPlace (s : State) (c : CCRef) (cp : Copy) : Bool :=
  ((List.range cp.dests).any fun i => match s.copyDest c cp i with
    | some (core, grp) => !s.placeOk c cp core grp (dPlace0 cp.desc)
    | none => false) || (cp.kind == .tcopys && !s.placeOk c cp c.core cp.grp (dPlace1 cp.desc))

/-- Whether a copy uses its scale array. -/
def Copy.scaled (cp : Copy) : Bool := cp.kind == .tcopy && dScm cp.desc != 0

/-- DEDUCED: log 37. -/
def copyWindow (cp : Copy) : Bool :=
  cp.kind != .tcopys && (!inCopyWindow (dGaddr cp.desc) || (cp.scaled && !inCopyWindow (dSaddr cp.desc)))

/-- DEDUCED: log 37. -/
def copyAlign (cp : Copy) : Bool :=
  let d := cp.desc
  let n := if dRaw d then 1 else fmtAlign (dFmt d)
  cp.kind != .tcopys && (dGaddr d % n != 0 || dGstride d % n != 0
    || (cp.scaled && dSaddr d % (scaleBytes (dSfmt d)).getD 1 != 0))

/-- DEDUCED: log 36. -/
def State.copyRank (s : State) (c : CCRef) (cp : Copy) : Bool :=
  let ds := (List.range cp.dests).map fun i => (s.copyDest c cp i).map (·.1)
  (cp.kind == .tstore && dMcn cp.desc != 0) || ds.contains none || !decide ds.Nodup

/-- The code of the first rule of R300 that refuses a copy at the head of its queue. DEDUCED: log 36. -/
def State.copyRefused (s : State) (c : CCRef) (cp : Copy) : Option Nat :=
  ([(0x01, copyResv cp), (0x02, copyFormat cp), (0x03, copyShape cp), (0x04, copyTrans cp (s.ctx c.ctxRef).memcfg),
    (0x05, s.copyPlace c cp), (0x06, copyWindow cp), (0x07, copyAlign cp), (0x08, s.copyRank c cp)].find? (·.2)).map (·.1)

end Sys2Proof.Machine
end

