-- ==== Sys2Proof/Machine/Integer.lean ====
section
/-! DEFINITION. Integer, logic and address instructions (07_integer.md R160 to R178): each operation on 32-bit or 64-bit words once,
then one definition per instruction. -/
namespace Sys2Proof.Machine
open Sys2Proof

/-- A result in a v register. -/
def vRes (d : VReg) (w : Word) : Res := { vs := [(d, w)] }

/-- A result in a pair, low word first. -/
def dRes (d : VReg) (w : DWord) : Res := { vs := [(d, w.setWidth 32), (d + 1, (w >>> 32).setWidth 32)] }

/-! ### Operations -/

/-- The narrowing of R163: saturating by the signedness, or modulo 2^32. -/
def narrow32 (u sat : Bool) (x : Int) : Word :=
  BitVec.ofInt 32 (if sat then (if u then satInt x 0 (2 ^ 32 - 1) else satInt x (-2 ^ 31) (2 ^ 31 - 1)) else x)

def iaddW (u sat : Bool) (a b : Word) : Word := narrow32 u sat (intOf u a + intOf u b)
def isubW (u sat : Bool) (a b : Word) : Word := narrow32 u sat (intOf u a - intOf u b)
def imulW (u : Bool) (a b : Word) : Word := narrow32 u false (intOf u a * intOf u b)
def imadW (u sat : Bool) (a b c : Word) : Word := narrow32 u sat (intOf u a * intOf u b + intOf u c)

/-- Bits 63 to 32 of the exact product. -/
def imulhW (u : Bool) (a b : Word) : Word := BitVec.ofInt 32 (intOf u a * intOf u b / 2 ^ 32)

def iminW (u : Bool) (a b : Word) : Word := if intOf u b < intOf u a then b else a
def imaxW (u : Bool) (a b : Word) : Word := if intOf u a < intOf u b then b else a
def iabsW (sat : Bool) (a : Word) : Word := narrow32 false sat (a.toInt.natAbs : Int)
def inegW (sat : Bool) (a : Word) : Word := narrow32 false sat (-a.toInt)

/-- Quotient and remainder of R165. -/
def idivW (u : Bool) (a b : Word) : Word × Word :=
  let x := intOf u a
  let y := intOf u b
  if y = 0 then (BitVec.allOnes 32, a)
  else if !u && x = -2 ^ 31 && y = -1 then (a, 0)
  else
    let q := x.tdiv y
    (BitVec.ofInt 32 q, BitVec.ofInt 32 (x - q * y))

/-- Byte i of a word, read by a signedness. -/
def byteInt (uns : Bool) (w : Word) (i : Nat) : Int :=
  if uns then ((bitsOf w.toNat (8 * i + 7) (8 * i) : Nat) : Int) else signExt (w.toNat >>> (8 * i)) 8

def dot4W (sat ua ub : Bool) (a b c : Word) : Word :=
  narrow32 false sat ((List.range 4).foldl (fun x i => x + byteInt ua a i * byteInt ub b i) c.toInt)

/-- V[A] + ext(V[B]) × 2^s modulo 2^64 (R167). -/
def leaW (u : Bool) (s : Nat) (a : DWord) (b : Word) : DWord := a + BitVec.ofInt 64 (intOf u b * (2 ^ s : Nat))

def shlW (a n : Word) : Word := if n.toNat < 32 then a <<< n.toNat else 0
def shrW (a n : Word) : Word := if n.toNat < 32 then a >>> n.toNat else 0
def sarW (a n : Word) : Word := a.sshiftRight (min n.toNat 32)
def rotW (a n : Word) : Word := a.rotateLeft (n.toNat % 32)

/-- R170. -/
def funnelW (right : Bool) (a b c : Word) : Word :=
  let x : DWord := a ++ b
  let n := min c.toNat 32
  if right then (x >>> n).setWidth 32 else ((x <<< n) >>> 32).setWidth 32

def popcW (a : Word) : Word := BitVec.ofNat 32 ((List.range 32).countP fun i => a.getLsbD i)

def clzBits (a : Word) : Nat → Nat
  | 0 => 0
  | n + 1 => if a.getLsbD n then 0 else 1 + clzBits a n

def clzW (a : Word) : Word := BitVec.ofNat 32 (clzBits a 32)
def brevW (a : Word) : Word := a.reverse

/-- Position and length of a control value (R172). -/
def fieldPos (c : Word) : Nat := c.toNat % 256
def fieldLen (c : Word) : Nat := min (c.toNat / 256 % 256) 32

/-- R172. -/
def bfeW (u : Bool) (a c : Word) : Word :=
  let f := (intOf u a / (2 ^ fieldPos c : Nat) % (2 ^ fieldLen c : Nat)).toNat
  if fieldLen c = 0 then 0 else if u then BitVec.ofNat 32 f else BitVec.ofInt 32 (signExt f (fieldLen c))

/-- R173. -/
def bfiW (a b c : Word) : Word :=
  let p := fieldPos c
  let n := fieldLen c
  if 32 ≤ p then a
  else
    let mask : Word := (BitVec.ofNat 32 (2 ^ n - 1)) <<< p
    (a &&& ~~~mask) ||| ((b <<< p) &&& mask)

/-- One result byte of PERM (R174). -/
def permByte (a b : Word) (s : Nat) : Nat :=
  let x := bitsOf ((b ++ a : DWord).toNat) (8 * (s % 8) + 7) (8 * (s % 8))
  if s < 8 then x else if 128 ≤ x then 255 else 0

def permW (a b c : Word) : Word :=
  BitVec.ofNat 32 ((List.range 4).foldl (fun x k => x + permByte a b (bitsOf c.toNat (4 * k + 3) (4 * k)) * 2 ^ (8 * k)) 0)

/-- R177. -/
def plopB (lut : BitVec 8) (a b c : Bool) : Bool :=
  lut.getLsbD ((if a then 4 else 0) + (if b then 2 else 0) + (if c then 1 else 0))

/-- What MOV copies, as a word and as a predicate (R178). -/
def movWord (x : Thread) : SrcVP → Word
  | .v r => x.rd r
  | .p r => if x.prd r then 1 else 0
  | .imm v => v.signExtend 32

/-! ### Instructions -/

/-- IADD (R163). -/
def execIadd (h : Hints) (u sat : Bool) (d : VReg) (a b : Src) (s : State) : Out State Fault Refusal :=
  compute s (.iadd h u sat d a b) fun x => vRes d (iaddW u sat (x.src a) (x.src b))

/-- IADD_IMM (R163). -/
def execIaddImm (h : Hints) (u sat : Bool) (d : VReg) (a : Src) (imm : Word) (s : State) : Out State Fault Refusal :=
  compute s (.iaddImm h u sat d a imm) fun x => vRes d (iaddW u sat (x.src a) imm)

/-- ISUB (R163). -/
def execIsub (h : Hints) (u sat : Bool) (d : VReg) (a b : Src) (s : State) : Out State Fault Refusal :=
  compute s (.isub h u sat d a b) fun x => vRes d (isubW u sat (x.src a) (x.src b))

/-- ISUB_IMM (R163). -/
def execIsubImm (h : Hints) (u sat : Bool) (d : VReg) (a : Src) (imm : Word) (s : State) : Out State Fault Refusal :=
  compute s (.isubImm h u sat d a imm) fun x => vRes d (isubW u sat (x.src a) imm)

/-- IMUL (R163). -/
def execImul (h : Hints) (u : Bool) (d : VReg) (a b : Src) (s : State) : Out State Fault Refusal :=
  compute s (.imul h u d a b) fun x => vRes d (imulW u (x.src a) (x.src b))

/-- IMUL_IMM (R163). -/
def execImulImm (h : Hints) (u : Bool) (d : VReg) (a : Src) (imm : Word) (s : State) : Out State Fault Refusal :=
  compute s (.imulImm h u d a imm) fun x => vRes d (imulW u (x.src a) imm)

/-- IMULH (R163). -/
def execImulh (h : Hints) (u : Bool) (d : VReg) (a b : Src) (s : State) : Out State Fault Refusal :=
  compute s (.imulh h u d a b) fun x => vRes d (imulhW u (x.src a) (x.src b))

/-- IMULH_IMM (R163). -/
def execImulhImm (h : Hints) (u : Bool) (d : VReg) (a : Src) (imm : Word) (s : State) : Out State Fault Refusal :=
  compute s (.imulhImm h u d a imm) fun x => vRes d (imulhW u (x.src a) imm)

/-- IMAD (R163). -/
def execImad (h : Hints) (u sat : Bool) (d a : VReg) (b c : Src) (s : State) : Out State Fault Refusal :=
  compute s (.imad h u sat d a b c) fun x => vRes d (imadW u sat (x.rd a) (x.src b) (x.src c))

/-- IMIN (R164). -/
def execImin (h : Hints) (u : Bool) (d : VReg) (a b : Src) (s : State) : Out State Fault Refusal :=
  compute s (.imin h u d a b) fun x => vRes d (iminW u (x.src a) (x.src b))

/-- IMIN_IMM (R164). -/
def execIminImm (h : Hints) (u : Bool) (d : VReg) (a : Src) (imm : Word) (s : State) : Out State Fault Refusal :=
  compute s (.iminImm h u d a imm) fun x => vRes d (iminW u (x.src a) imm)

/-- IMAX (R164). -/
def execImax (h : Hints) (u : Bool) (d : VReg) (a b : Src) (s : State) : Out State Fault Refusal :=
  compute s (.imax h u d a b) fun x => vRes d (imaxW u (x.src a) (x.src b))

/-- IMAX_IMM (R164). -/
def execImaxImm (h : Hints) (u : Bool) (d : VReg) (a : Src) (imm : Word) (s : State) : Out State Fault Refusal :=
  compute s (.imaxImm h u d a imm) fun x => vRes d (imaxW u (x.src a) imm)

/-- IABS (R164). -/
def execIabs (h : Hints) (sat : Bool) (d a : VReg) (s : State) : Out State Fault Refusal :=
  compute s (.iabs h sat d a) fun x => vRes d (iabsW sat (x.rd a))

/-- INEG (R164). -/
def execIneg (h : Hints) (sat : Bool) (d a : VReg) (s : State) : Out State Fault Refusal :=
  compute s (.ineg h sat d a) fun x => vRes d (inegW sat (x.rd a))

/-- AND (R168). -/
def execAndW (h : Hints) (d : VReg) (a b : Src) (s : State) : Out State Fault Refusal :=
  compute s (.andW h d a b) fun x => vRes d ((x.src a) &&& (x.src b))

/-- AND_IMM (R168). -/
def execAndWImm (h : Hints) (d : VReg) (a : Src) (imm : Word) (s : State) : Out State Fault Refusal :=
  compute s (.andWImm h d a imm) fun x => vRes d ((x.src a) &&& imm)

/-- OR (R168). -/
def execOrW (h : Hints) (d : VReg) (a b : Src) (s : State) : Out State Fault Refusal :=
  compute s (.orW h d a b) fun x => vRes d ((x.src a) ||| (x.src b))

/-- OR_IMM (R168). -/
def execOrWImm (h : Hints) (d : VReg) (a : Src) (imm : Word) (s : State) : Out State Fault Refusal :=
  compute s (.orWImm h d a imm) fun x => vRes d ((x.src a) ||| imm)

/-- XOR (R168). -/
def execXorW (h : Hints) (d : VReg) (a b : Src) (s : State) : Out State Fault Refusal :=
  compute s (.xorW h d a b) fun x => vRes d ((x.src a) ^^^ (x.src b))

/-- XOR_IMM (R168). -/
def execXorWImm (h : Hints) (d : VReg) (a : Src) (imm : Word) (s : State) : Out State Fault Refusal :=
  compute s (.xorWImm h d a imm) fun x => vRes d ((x.src a) ^^^ imm)

/-- ANDN (R168). -/
def execAndnW (h : Hints) (d : VReg) (a b : Src) (s : State) : Out State Fault Refusal :=
  compute s (.andnW h d a b) fun x => vRes d ((x.src a) &&& ~~~(x.src b))

/-- ANDN_IMM (R168). -/
def execAndnWImm (h : Hints) (d : VReg) (a : Src) (imm : Word) (s : State) : Out State Fault Refusal :=
  compute s (.andnWImm h d a imm) fun x => vRes d ((x.src a) &&& ~~~imm)

/-- NOT (R168). -/
def execNotW (h : Hints) (d a : VReg) (s : State) : Out State Fault Refusal :=
  compute s (.notW h d a) fun x => vRes d (~~~(x.rd a))

/-- POPC (R171). -/
def execPopc (h : Hints) (d a : VReg) (s : State) : Out State Fault Refusal :=
  compute s (.popc h d a) fun x => vRes d (popcW (x.rd a))

/-- CLZ (R171). -/
def execClz (h : Hints) (d a : VReg) (s : State) : Out State Fault Refusal :=
  compute s (.clz h d a) fun x => vRes d (clzW (x.rd a))

/-- BREV (R171). -/
def execBrev (h : Hints) (d a : VReg) (s : State) : Out State Fault Refusal :=
  compute s (.brev h d a) fun x => vRes d (brevW (x.rd a))

/-- SHL (R169). -/
def execShl (h : Hints) (d : VReg) (a b : Src) (s : State) : Out State Fault Refusal :=
  compute s (.shl h d a b) fun x => vRes d (shlW (x.src a) (x.src b))

/-- SHL_IMM (R169). -/
def execShlImm (h : Hints) (d : VReg) (a : Src) (imm : Word) (s : State) : Out State Fault Refusal :=
  compute s (.shlImm h d a imm) fun x => vRes d (shlW (x.src a) imm)

/-- SHR (R169). -/
def execShr (h : Hints) (d : VReg) (a b : Src) (s : State) : Out State Fault Refusal :=
  compute s (.shr h d a b) fun x => vRes d (shrW (x.src a) (x.src b))

/-- SHR_IMM (R169). -/
def execShrImm (h : Hints) (d : VReg) (a : Src) (imm : Word) (s : State) : Out State Fault Refusal :=
  compute s (.shrImm h d a imm) fun x => vRes d (shrW (x.src a) imm)

/-- SAR (R169). -/
def execSar (h : Hints) (d : VReg) (a b : Src) (s : State) : Out State Fault Refusal :=
  compute s (.sar h d a b) fun x => vRes d (sarW (x.src a) (x.src b))

/-- SAR_IMM (R169). -/
def execSarImm (h : Hints) (d : VReg) (a : Src) (imm : Word) (s : State) : Out State Fault Refusal :=
  compute s (.sarImm h d a imm) fun x => vRes d (sarW (x.src a) imm)

/-- ROT (R169). -/
def execRot (h : Hints) (d : VReg) (a b : Src) (s : State) : Out State Fault Refusal :=
  compute s (.rot h d a b) fun x => vRes d (rotW (x.src a) (x.src b))

/-- ROT_IMM (R169). -/
def execRotImm (h : Hints) (d : VReg) (a : Src) (imm : Word) (s : State) : Out State Fault Refusal :=
  compute s (.rotImm h d a imm) fun x => vRes d (rotW (x.src a) imm)

/-- FUNNEL (R170). -/
def execFunnel (h : Hints) (right : Bool) (d a b : VReg) (c : Src) (s : State) : Out State Fault Refusal :=
  compute s (.funnel h right d a b c) fun x => vRes d (funnelW right (x.rd a) (x.rd b) (x.src c))

/-- BFE (R172). -/
def execBfe (h : Hints) (u : Bool) (d a b : VReg) (s : State) : Out State Fault Refusal :=
  compute s (.bfe h u d a b) fun x => vRes d (bfeW u (x.rd a) (x.rd b))

/-- BFE_IMM (R172). -/
def execBfeImm (h : Hints) (u : Bool) (d a : VReg) (imm : Word) (s : State) : Out State Fault Refusal :=
  compute s (.bfeImm h u d a imm) fun x => vRes d (bfeW u (x.rd a) imm)

/-- BFI (R173). -/
def execBfi (h : Hints) (d a b : VReg) (c : Src) (s : State) : Out State Fault Refusal :=
  compute s (.bfi h d a b c) fun x => vRes d (bfiW (x.rd a) (x.rd b) (x.src c))

/-- PERM (R174). -/
def execPerm (h : Hints) (d a b c : VReg) (s : State) : Out State Fault Refusal :=
  compute s (.perm h d a b c) fun x => vRes d (permW (x.rd a) (x.rd b) (x.rd c))

/-- SEL (R175). -/
def execSel (h : Hints) (d : VReg) (a b : Src) (c : PReg) (s : State) : Out State Fault Refusal :=
  compute s (.sel h d a b c) fun x => vRes d (if x.prd c then x.src a else x.src b)

/-- ISET (R176). -/
def execIset (h : Hints) (u : Bool) (cmp : Cmp) (d : DstVP) (a : VReg) (b : Src) (s : State) : Out State Fault Refusal :=
  compute s (.iset h u cmp d a b) fun x => boolRes d (cmpInt cmp (intOf u (x.rd a)) (intOf u (x.src b)))

/-- ISET_IMM (R176). -/
def execIsetImm (h : Hints) (u : Bool) (cmp : Cmp) (d : DstVP) (a : VReg) (imm : Word) (s : State) : Out State Fault Refusal :=
  compute s (.isetImm h u cmp d a imm) fun x => boolRes d (cmpInt cmp (intOf u (x.rd a)) (intOf u imm))

/-- PLOP (R177). -/
def execPlop (h : Hints) (lut : BitVec 8) (d a b c : PReg) (s : State) : Out State Fault Refusal :=
  compute s (.plop h lut d a b c) fun x => { ps := [(d, plopB lut (x.prd a) (x.prd b) (x.prd c))] }

/-- MOV (R178). -/
def execMov (h : Hints) (d : DstVP) (a : SrcVP) (s : State) : Out State Fault Refusal :=
  compute s (.mov h d a) fun x =>
    match d with
    | .v r => vRes r (movWord x a)
    | .p r => { ps := [(r, movWord x a != 0)] }

/-- MOVI (R178). -/
def execMovi (h : Hints) (d : VReg) (imm : Word) (s : State) : Out State Fault Refusal :=
  compute s (.movi h d imm) fun x => vRes d imm

/-- LEA (R167). -/
def execLea (h : Hints) (u : Bool) (sh : BitVec 3) (d a b : VReg) (s : State) : Out State Fault Refusal :=
  compute s (.lea h u sh d a b) fun x => dRes d (leaW u sh.toNat (x.rdPair a) (x.rd b))

/-- IADD64 (R167). -/
def execIadd64 (h : Hints) (d a b : VReg) (s : State) : Out State Fault Refusal :=
  compute s (.iadd64 h d a b) fun x => dRes d (x.rdPair a + x.rdPair b)

/-- IADD64_IMM (R167): IMM32 is sign-extended (R91). -/
def execIadd64Imm (h : Hints) (d a : VReg) (imm : Word) (s : State) : Out State Fault Refusal :=
  compute s (.iadd64Imm h d a imm) fun x => dRes d (x.rdPair a + imm.signExtend 64)

/-- IDIV (R165). -/
def execIdiv (h : Hints) (u rem : Bool) (d a b : VReg) (s : State) : Out State Fault Refusal :=
  compute s (.idiv h u rem d a b) fun x => vRes d (if rem then (idivW u (x.rd a) (x.rd b)).2 else (idivW u (x.rd a) (x.rd b)).1)

/-- DOT4 (R166). -/
def execDot4 (h : Hints) (sat ua ub : Bool) (d a b c : VReg) (s : State) : Out State Fault Refusal :=
  compute s (.dot4 h sat ua ub d a b c) fun x => vRes d (dot4W sat ua ub (x.rd a) (x.rd b) (x.rd c))

end Sys2Proof.Machine
end

