-- ==== Sys2Proof/Machine/Memory.lean ====
section
/-! DEFINITION. The memory and atomic instructions (11_memory_instructions.md): issue of an access, and what its home's answer does to its
thread. -/
namespace Sys2Proof.Machine
open Sys2Proof

/-! ### Retirement of an instruction that went ahead of its result (R94, R126, R288, R400) -/

/-- The results of an instruction whose thread has already moved past it. -/
def State.retireLate (s : State) (t : TRef) (i : Instr) (r : Res) (f : Thread → Thread) : State :=
  match s.thread? t with
  | none => s
  | some x =>
    let y := ((f x).put r).killWindows i.hints.wdrop
    let s := s.respond t
    let s := ((s.wakeWindows t x.htid (y.live &&& ~~~x.live)).setThread t y).settleWindows t x.htid (x.live &&& ~~~y.live)
    let s := s.clearPois t y r
    if y.step && !y.h && (s.pendingInstrs t).isEmpty then s.takeTrap t .step (pcWord y.pc) 0 0 else s

/-- A thread whose last parked instruction has gone is back (R120). -/
def State.unpark (s : State) (t : TRef) : State :=
  if (s.parkedEntries t).isEmpty then s.modThread t fun x => if x.st = .parked ∧ x.fpark.isNone then { x with st := x.back } else x
  else s

def State.freeEntry (s : State) (t : TRef) (e : Nat) : State := s.modHolding t.ccRef fun y => { y with olog := y.olog.erase e }

/-- An instruction completes: at issue it retires, at a replay its results are written and its entry is freed (R288). -/
def State.doneNow (s : State) (t : TRef) (x : Thread) (i : Instr) (entry : Option Nat) (r : Res) (f : Thread → Thread) : State :=
  match entry with
  | none => s.retire t (f x) i.hints r
  | some e => ((s.freeEntry t e).unpark t).retireLate t i r f

/-- The destinations of an abandoned instruction hold free values, where their windows are live (R399, R496). DESIGN CHOICE: log 6. -/
def State.spoilDests (s : State) (t : TRef) (i : Instr) : State :=
  i.uses.wv.foldl (fun s w => (List.range w.2).foldl (fun s k =>
    let r : VReg := w.1 + BitVec.ofNat 7 k
    match s.thread? t with
    | some x => if x.liveWin r.window then s.freeWord.2.setThread t (x.wr r s.freeWord.1) else s
    | none => s) s) s

/-- The entry of a parked instruction delivers a trap. -/
def State.deliverEntry (s : State) (t : TRef) (e : Nat) (o : OEntry) (c : Cause) : State :=
  let s := s.modHolding t.ccRef fun y => { y with olog := y.olog.set e { o with stat := .delivering } }
  let s := s.modThread t fun x => { x with deferred := x.deferred ++ [{ cause := c, taddr := o.ea, entry := some e }] }
  match s.thread? t with
  | some x => (if x.h then s.unpark t else s).settleDests t x o.instr
  | none => s

/-- A parked instruction is abandoned: its entry delivers a trap, and its destinations hold free values (R399, R496). -/
def State.abandon (s : State) (t : TRef) (e : Nat) (o : OEntry) (c : Cause) : State := (s.spoilDests t o.instr).deliverEntry t e o c

/-- An access is refused where it is performed: a trap at the instruction that waits for its answer, or of its log entry (R238, R255,
R496). -/
def State.refuse (s : State) (m : MOp) (c : Cause) (taddr : DWord) : State :=
  match m.entry with
  | none => s.finishTrap m.thr c taddr
  | some e =>
    match (s.holding m.thr.ccRef).olog.get? e with
    | some o => s.abandon m.thr e o c
    | none => s

/-- A load meets poisoned data: its destination is not written, and MCHECK is delivered later (R495, R496). -/
def State.loadPoisoned (s : State) (t : TRef) (ea : DWord) (i : Instr) (entry : Option Nat) : State :=
  match entry with
  | none =>
    match s.thread? t with
    | some x => (s.setThread t { x with deferred := x.deferred ++ [{ cause := .mcheck, taddr := ea, entry := none }] }).settleDests t x i
    | none => s
  | some e =>
    match (s.holding t.ccRef).olog.get? e with
    | some o => s.deliverEntry t e o .mcheck
    | none => s

def State.dropMop (s : State) (c : CoreRef) (seq : Nat) : State :=
  s.modCore c fun k => { k with mops := k.mops.filter fun m => m.seq != seq }

def State.modMop (s : State) (c : CoreRef) (seq : Nat) (f : MOp → MOp) : State :=
  s.modCore c fun k => { k with mops := k.mops.map fun m => if m.seq = seq then f m else m }

def Core.mop? (k : Core) (seq : Nat) : Option MOp := k.mops.find? fun m => m.seq == seq

/-! ### Issue of an access -/

/-- The thread goes on past a load that has been issued (R126). -/
def State.goOn (s : State) (t : TRef) (x : Thread) (i : Instr) : State :=
  s.setThread t { x with pc := x.nextPc, gap := i.hints.gap.toNat, yld := i.hints.yld, ph := .none, cur := none }

/-- The thread stands until its access is answered (R238, R253); a replay has gone past it. -/
def State.awaitAnswer (s : State) (t : TRef) (x : Thread) (i : Instr) (entry : Option Nat) (seq : Nat) : State :=
  match entry with
  | none => s.stand t x i (.answer seq)
  | some _ => s

/-- Perform an access of a scratchpad bank of the executing core (R222, R255). A load, an ATOM or a CAS of a bank that is not full waits for it
(R254). DEDUCED: log 30. DEDUCED: log 77. -/
def State.bankAccess (s : State) (t : TRef) (x : Thread) (i : Instr) (entry : Option Nat) (r : Req) (off : Nat) : State :=
  let c := t.ccRef
  let p := if i.isLoad || (i.isAtomic && !i.isRed) then s.bankAwake c off r.size else (s, true)
  if !p.2 then
    let q := p.1.sendOp t x i entry (if i.isAtomic then .atomic else if i.acqScope.isSome then .acquire else .load) r (.scr t.core off)
    q.1.awaitAnswer t x i entry q.2
  else if i.isLoad then
    let q := s.scrRead c off r.size
    q.1.doneNow t x i entry (loadRes i q.2) id
  else if i.isAtomic then
    let q := s.scrRead c off r.size
    let s := match atomicNew i r.data (leNat q.2) with
      | some v => q.1.scrWrite c (groupTag t.grp) off (leBytes v r.size)
      | none => q.1
    s.doneNow t x i entry (loadRes i q.2) id
  else (s.scrWrite c (groupTag t.grp) off ((dataBytes r.data).take r.size)).doneNow t x i entry {} id

/-- A load of global memory: an L1 hit completes at once, another is issued and returns later (R228, R251). -/
def State.loadAccess (s : State) (t : TRef) (x : Thread) (i : Instr) (entry : Option Nat) (r : Req) (loc : Place) (va : Nat) : State :=
  let c := t.coreRef
  let line := loc.lineNo t.part
  match (s.core c).l1Hit line (s.coreTime c) with
  | some l =>
    if l.bad (loc.addr % lineSize) r.size then (if entry.isNone then s.goOn t x i else s).loadPoisoned t r.ea i entry
    else
    let bs := (s.core c).overlay loc ((l.bytes.drop (loc.addr % lineSize)).take r.size)
    ((s.modCore c fun k => k.l1Touch line (i.chAt r.ea)).noteRead t loc r.size).doneNow t x i entry (loadRes i bs) fun y => y.loaded va l.lwct (dmax l.lwct l.pwct)
  | none =>
    let q := s.sendOp t x i entry .load r loc
    match entry with
    | none => q.1.goOn t x i
    | some _ => q.1

/-- A store goes through the write-combining buffer; where that is full the thread waits until an entry is free (R239, R240). DEDUCED: log 29. -/
def State.bufferStore (s : State) (t : TRef) (x : Thread) (i : Instr) (entry : Option Nat) (r : Req) (loc : Place) : State :=
  if (s.core t.coreRef).wcFull loc && entry.isNone then (s.drainOldest t.coreRef).holdGroup t
  else (s.wcStore t loc ((dataBytes r.data).take r.size) (i.chAt r.ea)).doneNow t x i entry {} id

/-- Perform an access whose checks have passed and whose fence part, if any, is over. DEDUCED: log 30. DEDUCED: log 28. -/
def State.perform (s : State) (t : TRef) (x : Thread) (i : Instr) (entry : Option Nat) (r : Req) (loc : Place) (va : Nat) : State :=
  match loc with
  | .scr core off =>
    if core = t.core then s.bankAccess t x i entry r off
    else if i.isLoad then
      let q := s.sendOp t x i entry (if i.acqScope.isSome then .acquire else .load) r loc
      q.1.awaitAnswer t x i entry q.2
    else if i.isAtomic then
      let s := s.drainWhere t.coreRef (fun w => loc.overlap r.size w.loc lineSize) none
      let q := s.sendOp t x i entry .atomic r loc
      q.1.awaitAnswer t x i entry q.2
    else if i.relScope.isSome then
      let q := s.sendOp t x i entry .release r loc
      q.1.awaitAnswer t x i entry q.2
    else s.bufferStore t x i entry r loc
  | .mem .. =>
    if i.isLoad then
      if i.acqScope.isSome then
        let q := s.sendOp t x i entry .acquire r loc
        q.1.awaitAnswer t x i entry q.2
      else s.loadAccess t x i entry r loc va
    else if i.isAtomic then
      let s := s.drainWhere t.coreRef (fun w => loc.overlap r.size w.loc lineSize) none
      let q := s.sendOp t x i entry .atomic r loc
      q.1.awaitAnswer t x i entry q.2
    else if i.relScope.isSome then
      let q := s.sendOp t x i entry .release r loc
      q.1.awaitAnswer t x i entry q.2
    else if s.viaWc t loc then s.bufferStore t x i entry r loc
    else (s.sendOp t x i entry .store r loc).1.doneNow t x i entry {} id

/-- An access that has passed its checks: a release first does its fence (R234), and an acquire of scope .pod its writebacks (R232).
DEDUCED: log 29. -/
def State.proceed (s : State) (t : TRef) (x : Thread) (i : Instr) (r : Req) (loc : Place) (va : Nat) : State :=
  match i.relScope with
  | some sc => s.startFence t x i (some sc) true (.send loc)
  | none => if i.acqScope = some .pod then s.acquirePod t x i loc else s.perform t x i none r loc va

/-- The checks of R247 in order, and then the access. DEDUCED: log 31. DEDUCED: log 42. -/
def State.accessRun (s : State) (t : TRef) (x : Thread) (g : Group) (i : Instr) (r : Req) : State :=
  if trapsLate i && s.unretired t then s.hold t else
  match s.window t g r.ea r.size with
  | .error c => s.precise t x c (pcWord x.pc) r.ea 0
  | .ok w =>
    if r.ea.toNat % r.size ≠ 0 then s.precise t x .align (pcWord x.pc) r.ea 0
    else
      match w with
      | .loc off =>
        if r.acc.rd && s.scrDead t.ccRef off r.size then s.precise t x .deadscr (pcWord x.pc) r.ea 0
        else if r.acc.rd && s.scrPoisoned t.ccRef off r.size then s.precise t x .mcheck (pcWord x.pc) (BitVec.ofNat 64 off) 0
        else if i.podOrdered && !s.podOk then s.trapHere t x .timelost
        else s.proceed t x i r (.scr t.core off) 0
      | .gang core off =>
        if i.podOrdered && !s.podOk then s.trapHere t x .timelost
        else if s.unretired t then s.holdGroup t
        else s.proceed t x i r (.scr core off) 0
      | .glob va =>
        if i.podOrdered && !s.podOk then s.trapHere t x .timelost
        else
          match s.probe t x g i va r.acc with
          | .hold => s.holdGroup t
          | .walk => s.startWalk t x i va
          | .park m => s.park t x i r va m
          | .place loc => s.proceed t x i r loc va

/-- Issue an instruction of MAJ 0x90 to 0x9E: not while the slice's probe slot is taken (R280). -/
def issueMem (s : State) (i : Instr) (body : TRef → Thread → Group → State) : Out State Fault Refusal :=
  issue s i fun t x g => .next (if s.slotBusy t x then s.hold t else body t x g)

/-- LD, ST, ATOM, CAS and RED: one thread's access. -/
def access (s : State) (i : Instr) : Out State Fault Refusal :=
  issueMem s i fun t x g =>
    match reqOf t.core x i with
    | some r => s.accessRun t x g i r
    | none => s

/-- LD_SP and ST_SP: an offset beyond the scratchpad traps BADWIN (R246). DEDUCED: log 50. -/
def accessSp (s : State) (i : Instr) (off : Thread → Word) : Out State Fault Refusal :=
  issueMem s i fun t x g =>
    match reqOf t.core x i with
    | some r =>
      if scratchSize ≤ (off x).toNat then s.precise t x .badwin (pcWord x.pc) (localEa t.core (off x)) 0
      else s.accessRun t x g i r
    | none => s

/-- LD (R250). -/
def execLd (h : Hints) (sz : Sz) (ord : Option Scope) (d a : VReg) (b : Option VReg) (off : BitVec 24) (s : State) :
    Out State Fault Refusal := access s (.ld h sz ord d a b off)

/-- LD_SP (R250, R105). -/
def execLdSp (h : Hints) (sz : Sz) (ordCore : Bool) (d a : VReg) (b : Option VReg) (off : BitVec 24) (s : State) :
    Out State Fault Refusal := accessSp s (.ldSp h sz ordCore d a b off) fun x => spOf x a b off

/-- ST (R250). -/
def execSt (h : Hints) (sz : Sz) (ord : Option Scope) (d a : VReg) (b : Option VReg) (off : BitVec 24) (s : State) :
    Out State Fault Refusal := access s (.st h sz ord d a b off)

/-- ST_SP (R250, R105). -/
def execStSp (h : Hints) (sz : Sz) (ordCore : Bool) (d a : VReg) (b : Option VReg) (off : BitVec 24) (s : State) :
    Out State Fault Refusal := accessSp s (.stSp h sz ordCore d a b off) fun x => spOf x a b off

/-- ATOM (R259). -/
def execAtom (h : Hints) (op : Aop) (ty : ATy) (ord : AOrd) (sc : Scope) (d a : VReg) (off : BitVec 16) (b : VReg) (s : State) :
    Out State Fault Refusal := access s (.atom h op ty ord sc d a off b)

/-- CAS (R261). -/
def execCas (h : Hints) (ty : ATy) (ord : AOrd) (sc : Scope) (d a : VReg) (off : BitVec 16) (b : VReg) (s : State) :
    Out State Fault Refusal := access s (.cas h ty ord sc d a off b)

/-- RED (R259). -/
def execRed (h : Hints) (op : Aop) (ty : ATy) (ord : AOrd) (sc : Scope) (a : VReg) (off : BitVec 16) (b : VReg) (s : State) :
    Out State Fault Refusal := access s (.red h op ty ord sc a off b)

/-- FENCE (R263, R39). DEDUCED: log 31. -/
def execFence (h : Hints) (sc : Scope) (s : State) : Out State Fault Refusal :=
  issueMem s (.fence h sc) fun t x _ =>
    if sc = .pod ∧ !s.podOk then s.trapHere t x .timelost
    else if sc = .pod ∧ s.unretired t = true then s.hold t
    else s.startFence t x (.fence h sc) (some sc) (sc != .core) .retire

/-- WCFLUSH (R264). -/
def execWcflush (h : Hints) (s : State) : Out State Fault Refusal :=
  issueMem s (.wcflush h) fun t x _ => s.startFence t x (.wcflush h) none true .retire

/-- GWMAX (R264). -/
def execGwmax (h : Hints) (d : VReg) (s : State) : Out State Fault Refusal :=
  issueMem s (.gwmax h d) fun t x _ => s.startFence t x (.gwmax h d) none false .gwmax

/-! ### WAITADDR (R265, R266) -/

/-- L0 of a WAITADDR, and the number of writes of its line after which a further one ends the wait; where the home's LWCT differs from L0
already, one has been made (R265, R266). DEDUCED: log 16. -/
def State.armedAt (s : State) (x : Thread) (line va : Nat) : DWord × Nat :=
  let r := s.line line
  let l0 := if x.wline.toNat = va / lineSize * lineSize then x.wseen else r.lwct
  (l0, if l0 = r.lwct then r.writes else r.writes + 1)

/-- Whether a write has been performed at the home of a line since a WAITADDR took L0 (R266). -/
def State.waitOver (s : State) (line n : Nat) : Bool := (s.line line).writes != n

/-- The number that stands for no line: a restored WAITADDR has it until its address translates. -/
def noLine : Nat := 2 ^ 64

/-- A WAITADDR restored with its latch, at its line's home as it is now; it has no line while its address does not translate (R266). -/
def State.rehome (s : State) (t : TRef) (ph : Phase) : Phase :=
  match ph, s.group? t.group with
  | .address ea line l0 n, some g =>
    if line ≠ noLine then .address ea line l0 n
    else match (s.translate t.ctxRef t.core (vaOf g t.rank ea) .read).2 with
      | .ok loc =>
        let r := s.line (loc.lineNo t.part)
        .address ea (loc.lineNo t.part) l0 (if l0 = r.lwct then r.writes else r.writes + 1)
      | .error _ => ph
  | ph, _ => ph

/-- Arm a WAITADDR at its line: `d` is the timeout in core cycles. DEDUCED: log 16. -/
def State.armWait (s : State) (t : TRef) (x : Thread) (i : Instr) (r : Req) (loc : Place) (va : Nat) (entry : Option Nat) : State :=
  let line := loc.lineNo t.part
  let a := s.armedAt x line va
  match r.data.head? with
  | some d =>
    if d = 0 then s.doneNow t x i entry {} id
    else s.await t x i (.address r.ea line a.1 a.2) (some (s.deadlineOf t d.toNat))
  | none => s.await t x i (.address r.ea line a.1 a.2) none

/-- WAITADDR (R265). -/
def execWaitaddr (h : Hints) (a : VReg) (off : BitVec 24) (b : Option VReg) (s : State) : Out State Fault Refusal :=
  issueMem s (.waitaddr h a off b) fun t x g =>
    match reqOf t.core x (.waitaddr h a off b) with
    | none => s
    | some r =>
      match s.window t g r.ea 1 with
      | .ok (.glob va) =>
        match s.probe t x g (.waitaddr h a off b) va r.acc with
        | .hold => s.hold t
        | .walk => s.startWalk t x (.waitaddr h a off b) va
        | .park m => s.park t x (.waitaddr h a off b) r va m
        | .place loc =>
          if s.deadlineDue t x then s.retire t x h {}
          else if (s.core t.coreRef).budgetHeld then s.hold t else s.armWait t x (.waitaddr h a off b) r loc va none
      | _ => s.precise t x .badwin (pcWord x.pc) r.ea 0

/-! ### Windows (R267, R268) -/

def spClass (core : Nat) (a : DWord) : Nat :=
  match bitsOf a.toNat 63 56 with
  | 0x00 => 0
  | 0xFC => 1
  | 0xFD => if bitsOf a.toNat 43 32 = core then 2 else 3
  | 0xFE => 4
  | _ => 15

/-- SPTEST (R267). -/
def execSptest (h : Hints) (d a : VReg) (s : State) : Out State Fault Refusal :=
  issueMem s (.sptest h d a) fun t x _ => s.retire t x h (vRes d (BitVec.ofNat 32 (spClass t.core (x.rdPair a))))

/-- SPCAST_GEN (R268). -/
def execSpcastGen (h : Hints) (d a : VReg) (s : State) : Out State Fault Refusal :=
  issueMem s (.spcastGen h d a) fun t x _ =>
    s.retire t x h (dRes d (localEa t.core (BitVec.ofNat 32 (bitsOf (x.rd a).toNat 21 0))))

def spcastSp (core grank : Nat) (a : DWord) : Word :=
  let top := bitsOf a.toNat 63 56
  if (top = 0xFD ∧ bitsOf a.toNat 43 32 = core) ∨ (top = 0xFC ∧ bitsOf a.toNat 55 44 = grank) then BitVec.ofNat 32 (bitsOf a.toNat 21 0)
  else 0xFFFFFFFF

/-- SPCAST_SP (R268). -/
def execSpcastSp (h : Hints) (d a : VReg) (s : State) : Out State Fault Refusal :=
  issueMem s (.spcastSp h d a) fun t x g => s.retire t x h (vRes d (spcastSp t.core g.grank (x.rdPair a)))

/-! ### Hints on lines (R269, R270) -/

/-- The place of an address that a hint names: none for a scratchpad window, an address that would fault (R269, R270), or one whose walk no link
lets through (R13). -/
def State.hintPlace (s : State) (t : TRef) (g : Group) (ea : DWord) : State × Option (Place × Nat) :=
  match s.window t g ea 1 with
  | .ok (.glob va) =>
    if s.walkCut t.ctxRef t.core va then (s, none) else
    let r := s.translate t.ctxRef t.core va .hint
    match r.2 with
    | .ok loc => (r.1, some (loc, va))
    | .error _ => (r.1, none)
  | _ => (s, none)

/-- PREF (R269): it is issued, and leaves the core as a load does (R465). -/
def execPref (h : Hints) (l2 : Bool) (a : VReg) (b : Option VReg) (off : BitVec 24) (s : State) : Out State Fault Refusal :=
  issueMem s (.pref h l2 a b off) fun t x g =>
    let r := s.hintPlace t g (eaOf x a b off)
    match r.2 with
    | none => r.1.retire t x h {}
    | some (loc, _) =>
      let c := t.coreRef
      let s := r.1
      let line := loc.lineNo t.part
      let s :=
        if !l2 && ((s.core c).l1Hit line (s.coreTime c)).isSome then
          s.modCore c fun k => k.l1Touch line ((Instr.pref h l2 a b off).chAt (eaOf x a b off))
        else (s.sendOp t x (.pref h l2 a b off) none .pref ⟨eaOf x a b off, 1, .hint, [], false⟩ loc).1
      s.retire t x h {}

/-- CCTL_INV (R270). -/
def execCctlInv (h : Hints) (a : VReg) (off : BitVec 24) (s : State) : Out State Fault Refusal :=
  issueMem s (.cctlInv h a off) fun t x g =>
    let r := s.hintPlace t g (x.rdPair a + off.signExtend 64)
    match r.2 with
    | none => r.1.retire t x h {}
    | some (loc, _) => (r.1.modCore t.coreRef fun k => k.l1Drop (loc.lineNo t.part)).retire t x h {}

/-- CCTL_WB (R270). -/
def execCctlWb (h : Hints) (a : VReg) (off : BitVec 24) (s : State) : Out State Fault Refusal :=
  issueMem s (.cctlWb h a off) fun t x g =>
    let r := s.hintPlace t g (x.rdPair a + off.signExtend 64)
    let s := match r.2 with
      | some (.mem pa _ _ true, _) =>
        let l := pa / lineSize
        if (r.1.poolLine t.part l).anyDirty then
          (r.1.modPool t.part l fun p => { p with want := some (p.want.getD [] ++ [t]) }).writeBack t.ctxRef l [0, 1]
        else r.1
      | _ => r.1
    s.retire t x h {}

/-- CCTL_INVALL (R270). DEDUCED: log 21. -/
def execCctlInvall (h : Hints) (s : State) : Out State Fault Refusal :=
  issueMem s (.cctlInvall h) fun t x _ => (s.modCore t.coreRef fun k => { k with l1 := [] }).retire t x h {}

/-! ### Scratchpad banks (R256 to R258) -/

def bankRange (first count : BitVec 7) : List Nat := (List.range count.toNat).map fun i => first.toNat + i

/-- Whether a scratchpad access of a thread has still to be performed at its bank. -/
def State.scrOwed (s : State) (t : TRef) : Bool :=
  let scr := fun loc : Place => match loc with | .scr .. => true | .mem .. => false
  let k := s.core t.coreRef
  (k.mops.any fun m => (m.thr == t || m.contrib.contains t) && scr m.loc && m.ans == .pending) || k.wc.any fun w => w.thrs.contains t && scr w.loc

/-- SDROP (R256): performed after the thread's older scratchpad accesses. -/
def execSdrop (h : Hints) (first count : BitVec 7) (s : State) : Out State Fault Refusal :=
  issueMem s (.sdrop h first count) fun t x _ =>
    if s.scrOwed t then s.hold t
    else if (bankRange first count).all fun b => (s.holding t.ccRef).owns t.grp b then
      ((bankRange first count).foldl (fun s b => s.killBank t.ccRef b) s).retire t x h {}
    else s.trapHere t x .badwin

/-- SWAKE (R258). -/
def execSwake (h : Hints) (first count : BitVec 7) (s : State) : Out State Fault Refusal :=
  issueMem s (.swake h first count) fun t x _ =>
    if (bankRange first count).all fun b => (s.holding t.ccRef).owns t.grp b then
      ((bankRange first count).foldl (fun s b => if (s.holding t.ccRef).bankLive b then s.touchBank t.ccRef b else s) s).retire t x h {}
    else s.trapHere t x .badwin

end Sys2Proof.Machine
end

