-- ==== Sys2Proof/Machine/Copy.lean ====
section
/-! DEFINITION. The copy unit: enqueueing, the channel instructions and the stage rings (13_copy.md R294, R295, R299, R307, R311 to
R313). -/
namespace Sys2Proof.Machine
open Sys2Proof

/-! ### Waiting threads in order -/

/-- The first of the waiting threads of a context on a core, by HTID, that satisfies a condition. -/
def State.lowest (s : State) (c : CCRef) (p : TRef → Thread → Bool) : Option (TRef × Thread) :=
  (s.threads.filter fun e => e.1.ccRef == c && e.2.st == .wait && p e.1 e.2).foldl
    (fun (b : Option (TRef × Thread)) e => match b with
      | some y => if e.2.htid < y.2.htid then some e else some y
      | none => some e) none

/-- The context that holds a core, and what it holds there. -/
def State.heldBy (s : State) (c : CoreRef) : CCRef := { part := c.part, ctx := (s.part c.part).running.getD 0, core := c.core }

/-! ### Channels -/

def Chan.grant (grp : Nat) : Chan :=
  { grp := grp, q := [], st := .idle, err := 0, sat := false, miss := none, wp := [0, 0, 0, 0], start := 0, started := false, ct := 0 }

def State.chan (s : State) (c : CCRef) (ch : Nat) : Chan := (s.holding c).chans.getD ch (Chan.grant 0)
def State.modChan (s : State) (c : CCRef) (ch : Nat) (f : Chan → Chan) : State :=
  s.modHolding c fun x => { x with chans := x.chans.set ch (f (x.chans.getD ch (Chan.grant 0))) }

/-- A channel in ERROR: its copies are discarded (R295). -/
def Chan.failed (k : Chan) (code : Nat) : Chan := { k with st := .error, err := code, q := [], started := false, miss := none }

/-- Accept a copy: an ERROR channel discards it, and an IDLE one refuses at once a copy that R300 refuses with a code (R295). -/
def Chan.accept (k : Chan) (cp : Copy) (refused : Option Nat) : Chan :=
  match k.st with
  | .error => k
  | .idle => match refused with
    | some code => k.failed code
    | none => { k with q := [cp], st := .busy, started := false }
  | _ => { k with q := k.q ++ [cp] }

/-- A copy of a thread of a group, as its instruction queues it now (R299). -/
def State.newCopy (s : State) (t : TRef) (kind : CopyKind) (h : Hints) (desc : List Byte) : Copy :=
  { kind := kind, desc := leNat desc, rank := t.rank, grp := t.grp, ch := h.ch, since := s.fresh }

/-- A copy enters its channel; the number it takes is its own. -/
def State.acceptCopy (s : State) (c : CCRef) (ch : Nat) (cp : Copy) : State :=
  { s.modChan c ch fun k => k.accept cp (s.copyRefused c cp) with fresh := s.fresh + 1 }

/-- Whether a copy can be taken now: there is room, or an ERROR channel discards it. -/
def Chan.room (k : Chan) : Bool := k.st == .error || decide (k.q.length < 4)

/-- A pointer reaches a target (R307). -/
def reaches (p : Nat) (target : Word) : Bool := decide ((p + 2 ^ 32 - target.toNat) % 2 ^ 32 < 2 ^ 31)

def Chan.reached (k : Chan) (target : Word) : Bool := k.st == .error || k.wp.all fun p => reaches p target

def Chan.quiet (k : Chan) : Bool := k.st == .idle || k.st == .error

def Chan.drained (k : Chan) : Chan := { k with sat := false, err := 0, st := .idle, q := [], started := false }

/-- The kind of a copy instruction. -/
def copyKindOf : Instr → CopyKind
  | .tstore .. => .tstore
  | .tcopys .. => .tcopys
  | _ => .tcopy

/-- The order in which the threads that wait at a channel go on: as they came, and those of one issue group by lane (R299). DESIGN CHOICE: log 33. -/
def chanBefore (x y : Thread) : Bool :=
  decide (x.waitFrom.toNat < y.waitFrom.toNat) || (x.waitFrom == y.waitFrom && (decide (htidLane x.htid < htidLane y.htid)
    || (htidLane x.htid == htidLane y.htid && decide (x.htid < y.htid))))

/-- The first of the waiting threads of a context on a core, in the order of a channel, that satisfies a condition. -/
def State.firstAtChan (s : State) (c : CCRef) (p : Thread → Bool) : Option (TRef × Thread) :=
  (s.threads.filter fun e => e.1.ccRef == c && e.2.st == .wait && p e.2).foldl
    (fun (b : Option (TRef × Thread)) e => match b with
      | some y => if chanBefore e.2 y.2 then some e else some y
      | none => some e) none

/-- Threads that wait at a channel proceed, one after another, while a condition of one holds (R299, R307). -/
def State.chanWake (s : State) (c : CCRef) (ch : Nat) : Nat → State
  | 0 => s
  | n + 1 =>
    let k := s.chan c ch
    match s.firstAtChan c fun x => match x.ph with
        | .chanRoom h _ => h == ch && k.room
        | .chanPtr h t => h == ch && k.reached t
        | .chanDrain h => h == ch && k.quiet
        | _ => false with
    | none => s
    | some (t, x) =>
      match x.ph with
      | .chanRoom _ d =>
        ((s.acceptCopy c ch (s.newCopy t ((x.cur.map copyKindOf).getD .tcopy) x.curHints d)).finish t {}).chanWake c ch n
      | .chanPtr _ p => (((s.setThread t (x.raise k.ct)).coverCopy c t.grp ch p.toNat).finish t {}).chanWake c ch n
      | _ => (((s.setThread t (x.raise k.ct)).modChan c ch Chan.drained).finish t {}).chanWake c ch n

/-- Every thread that can proceed does: there are at most 3,072 on a core. -/
def State.wakeChan (s : State) (c : CCRef) (ch : Nat) : State := s.chanWake c ch 3072

/-- The 64 bytes of a descriptor at its home, with the thread's own core's stores; its line takes the hint of the instruction (R95, R299). -/
def State.readDesc (s : State) (t : TRef) (loc : Place) (ch : BitVec 2) : State × List Byte :=
  let q := (s.l2Use t.ctxRef loc ch true).homeBytes t.part loc 64
  (q.1.count t.coreRef 64, (q.1.core t.coreRef).overlay loc q.2)

/-- Read the descriptor and enqueue the copy, or wait for room (R299). -/
def State.enqueueCopy (s : State) (t : TRef) (x : Thread) (i : Instr) (ch : Nat) (r : Req) (loc : Place) : State :=
  if s.homeBad t.part loc 64 then s.precise t x .mcheck (pcWord x.pc) r.ea 0
  else if !s.homeReady t.part loc 64 then (s.askPool t.ctxRef loc 64).holdGroup t
  else if !(s.l2Ready t.ctxRef loc (i.chAt r.ea) true).2 then (s.l2Ready t.ctxRef loc (i.chAt r.ea) true).1.holdGroup t
  else
    let q := (s.l2Ready t.ctxRef loc (i.chAt r.ea) true).1.readDesc t loc (i.chAt r.ea)
    if (q.1.chan t.ccRef ch).room then
      let s := (q.1.acceptCopy t.ccRef ch (q.1.newCopy t (copyKindOf i) i.hints q.2)).retire t x i.hints {}
      if (s.chan t.ccRef ch).st == .error then s.wakeChan t.ccRef ch else s
    else q.1.await t x i (.chanRoom ch q.2) none

/-- TCOPY, TSTORE and TCOPYS (R294, R299). -/
def copyInstr (s : State) (i : Instr) (ch : BitVec 3) : Out State Fault Refusal :=
  issue s i fun t x g =>
    if !g.chans.getLsbD ch.toNat then .next (s.trapHere t x .badwin)
    else
      match reqOf t.core x i with
      | none => .next s
      | some r =>
        match s.window t g r.ea 64 with
        | .ok (.glob va) =>
          if r.ea.toNat % 64 ≠ 0 then .next (s.precise t x .align (pcWord x.pc) r.ea 0)
          else
            match s.probe t x g i va .read with
            | .hold => .next (s.holdGroup t)
            | .walk => .next (s.startWalk t x i va)
            | .park m => .next (s.park t x i r va m)
            | .place loc => .next (s.enqueueCopy t x i ch.toNat r loc)
        | .error .spforeign => .next (s.precise t x .badwin (pcWord x.pc) r.ea 0)
        | _ => .next (s.precise t x .badwin (pcWord x.pc) r.ea 0)

/-- TCOPY (R299, R301). -/
def execTcopy (h : Hints) (ch : BitVec 3) (a : VReg) (s : State) : Out State Fault Refusal := copyInstr s (.tcopy h ch a) ch

/-- TSTORE (R299, R302). -/
def execTstore (h : Hints) (ch : BitVec 3) (a : VReg) (s : State) : Out State Fault Refusal := copyInstr s (.tstore h ch a) ch

/-- TCOPYS (R299, R303). -/
def execTcopys (h : Hints) (ch : BitVec 3) (a : VReg) (s : State) : Out State Fault Refusal := copyInstr s (.tcopys h ch a) ch

/-- An instruction that names a channel: BADWIN where it is not granted to the group (R294). -/
def issueChan (s : State) (i : Instr) (ch : BitVec 3) (body : TRef → Thread → Chan → State) : Out State Fault Refusal :=
  issue s i fun t x g => .next (if g.chans.getLsbD ch.toNat then body t x (s.chan t.ccRef ch.toNat) else s.trapHere t x .badwin)

/-- CHPTR (R307). -/
def execChptr (h : Hints) (d : VReg) (ch : BitVec 3) (b : Src) (s : State) : Out State Fault Refusal :=
  issueChan s (.chptr h d ch b) ch fun t x k =>
    s.retire t x h (vRes d (BitVec.ofNat 32 (k.wp.getD ((x.src b).toNat % 4) 0)))

/-- CHWAIT (R307). -/
def execChwait (h : Hints) (ch : BitVec 3) (b : VReg) (s : State) : Out State Fault Refusal :=
  issueChan s (.chwait h ch b) ch fun t x k =>
    if k.reached (x.rd b) then (s.coverCopy t.ccRef t.grp ch.toNat (x.rd b).toNat).retire t (x.raise k.ct) h {}
    else s.await t x (.chwait h ch b) (.chanPtr ch.toNat (x.rd b)) none

/-- CHDRAIN (R307). -/
def execChdrain (h : Hints) (ch : BitVec 3) (s : State) : Out State Fault Refusal :=
  issueChan s (.chdrain h ch) ch fun t x k =>
    if k.quiet then ((s.modChan t.ccRef ch.toNat Chan.drained).retire t (x.raise k.ct) h {}).wakeChan t.ccRef ch.toNat
    else s.await t x (.chdrain h ch) (.chanDrain ch.toNat) none

/-- The CHSTAT word (R307). -/
def Chan.stat (k : Chan) : Nat :=
  let m := match k.st, k.miss with
    | .parked, some (m, _) => m.sub * 2 ^ 18 + m.cause.ccls * 2 ^ 16
    | _, _ => 0
  let st := match k.st with | .idle => 1 | .busy => 2 | .parked => 3 | .error => 4
  m + (if k.st = .error then k.err * 2 ^ 8 else 0) + k.q.length * 2 ^ 4 + (if k.sat then 2 ^ 3 else 0) + st

/-- CHSTAT (R307). -/
def execChstat (h : Hints) (d : VReg) (ch : BitVec 3) (s : State) : Out State Fault Refusal :=
  issueChan s (.chstat h d ch) ch fun t x k => s.retire t x h (vRes d (BitVec.ofNat 32 k.stat))

/-! ### Stage rings (R311 to R313) -/

/-- DEDUCED: log 26. -/
def Ring.grant (slots m : Nat) : Ring :=
  { base := 0, m := m, slots := slots, k := 0, pcnt := 0, ccnt := 0, ph := 0, phold := false, chold := false, init := false }

def State.ring (s : State) (c : CCRef) (rg : Nat) : Ring := (s.holding c).rings.getD rg (Ring.grant 1 512)
def State.setRing (s : State) (c : CCRef) (rg : Nat) (r : Ring) : State :=
  s.modHolding c fun x => { x with rings := x.rings.set rg r }

/-- (a - b) mod 2K. -/
def Ring.dist (r : Ring) (a b : Nat) : Nat := (a + 2 * r.k - b) % (2 * r.k)

/-- A slot is free for the producer. -/
def Ring.free (r : Ring) : Bool := decide (r.dist r.pcnt r.ccnt < r.k)

def Ring.phAt (r : Ring) (slot : Nat) : Bool := r.ph.getLsbD slot

def Ring.slotBase (r : Ring) (c : Nat) : Word := BitVec.ofNat 32 (r.base + c % r.k * r.m)

/-- The first counter from c that names slot s. -/
def Ring.counterFrom (r : Ring) (c s : Nat) : Nat := (c + (s + r.k - c % r.k) % r.k) % (2 * r.k)

/-- What a ring instruction does when it may go on: wait, trap RINGPHASE, or a new ring and a result (R313). -/
inductive RingGo where
  | wait
  | phase
  | go (r : Ring) (res : Res)

def ringStep (r : Ring) (i : Instr) (slot : Nat) : RingGo :=
  match i with
  | .ringacqProd _ d _ =>
    if !r.init then .phase
    else if !r.phold && r.free then .go { r with phold := true } (vRes d (r.slotBase r.pcnt)) else .wait
  | .ringrelProd .. =>
    if !r.init || !r.phold then .phase
    else .go { r with ph := r.ph ^^^ BitVec.ofNat 64 (2 ^ (r.pcnt % r.k)), phold := false, pcnt := (r.pcnt + 1) % (2 * r.k) } {}
  | .ringacqCons _ d _ =>
    if !r.init then .phase
    else if r.chold || r.ccnt == r.pcnt then .wait
    else if r.phAt (r.ccnt % r.k) != (r.ccnt / r.k % 2 == 0) then .phase
    else .go { r with chold := true } (vRes d (r.slotBase r.ccnt))
  | .ringrelCons .. =>
    if !r.init || !r.chold then .phase
    else .go { r with chold := false, ccnt := (r.ccnt + 1) % (2 * r.k) } {}
  | .ringwaitProd .. =>
    if !r.init || decide (r.k ≤ slot) then .phase
    else if r.dist (r.counterFrom r.pcnt slot) r.ccnt < r.k then .go r {} else .wait
  | .ringwaitCons .. =>
    if !r.init || decide (r.k ≤ slot) then .phase
    else if r.dist (r.counterFrom r.ccnt slot) r.ccnt < r.dist r.pcnt r.ccnt then .go r {} else .wait
  | _ => .wait

/-- What a ring instruction that waits does when its condition is looked at again: the tests before its Wait are behind it, and a RINGWAIT keeps the counter
it fixed (R313). -/
def ringAgain (r : Ring) (i : Instr) (c : Nat) : RingGo :=
  match i with
  | .ringacqProd .. | .ringacqCons .. =>
    match ringStep { r with init := true } i 0 with
    | .go q res => .go { q with init := r.init } res
    | g => g
  | .ringwaitProd .. => if r.dist c r.ccnt < r.k then .go r {} else .wait
  | .ringwaitCons .. => if r.dist c r.ccnt < r.dist r.pcnt r.ccnt then .go r {} else .wait
  | _ => .wait

/-- The counter a RINGWAIT fixes. -/
def ringCounter (r : Ring) (i : Instr) (slot : Nat) : Nat :=
  match i with
  | .ringwaitProd .. => r.counterFrom r.pcnt slot
  | .ringwaitCons .. => r.counterFrom r.ccnt slot
  | _ => 0

/-- The ring and the counter of a thread that waits at one. -/
def Phase.ringCounter (p : Phase) (rg : Nat) : Option Nat :=
  match p with
  | .ring n c => if n = rg then some c else Option.none
  | _ => Option.none

/-- The slot operand of RINGWAIT. -/
def ringSlot (x : Thread) : Instr → Nat
  | .ringwaitProd _ _ b | .ringwaitCons _ _ b => (x.src b).toNat
  | _ => 0

/-- Threads that wait at a ring proceed while a condition holds, the lowest HTID first (R313). -/
def State.ringWake (s : State) (c : CCRef) (rg : Nat) : Nat → State
  | 0 => s
  | n + 1 =>
    let r := s.ring c rg
    match s.lowest c fun _ x => match x.ph.ringCounter rg, x.cur with
        | some n, some i => (match ringAgain r i n with | .wait => false | _ => true)
        | _, _ => false with
    | none => s
    | some (t, x) =>
      match x.ph.ringCounter rg, x.cur with
      | none, _ | _, none => s
      | some m, some i =>
        match ringAgain r i m with
        | .wait => s
        | .phase => (s.finishTrap t .ringphase 0).ringWake c rg n
        | .go r' res => ((s.setRing c rg r').finish t res).ringWake c rg n

def State.wakeRing (s : State) (c : CCRef) (rg : Nat) : State := s.ringWake c rg 3072

/-- The ring instructions but RINGINIT (R294, R313). -/
def ringInstr (s : State) (i : Instr) (rg : BitVec 3) : Out State Fault Refusal :=
  issue s i fun t x g =>
    if !g.rings.getLsbD rg.toNat then .next (s.trapHere t x .badwin)
    else
      match ringStep (s.ring t.ccRef rg.toNat) i (ringSlot x i) with
      | .wait =>
        .next (if s.unretired t then s.hold t
          else s.await t x i (.ring rg.toNat (ringCounter (s.ring t.ccRef rg.toNat) i (ringSlot x i))) none)
      | .phase => .next (s.trapHere t x .ringphase)
      | .go r res => .next (((s.setRing t.ccRef rg.toNat r).retire t x i.hints res).wakeRing t.ccRef rg.toNat)

/-- RINGACQ_PROD (R313). -/
def execRingacqProd (h : Hints) (d : VReg) (rg : BitVec 3) (s : State) : Out State Fault Refusal := ringInstr s (.ringacqProd h d rg) rg

/-- RINGACQ_CONS (R313). -/
def execRingacqCons (h : Hints) (d : VReg) (rg : BitVec 3) (s : State) : Out State Fault Refusal := ringInstr s (.ringacqCons h d rg) rg

/-- RINGREL_PROD (R313). -/
def execRingrelProd (h : Hints) (rg : BitVec 3) (s : State) : Out State Fault Refusal := ringInstr s (.ringrelProd h rg) rg

/-- RINGREL_CONS (R313). -/
def execRingrelCons (h : Hints) (rg : BitVec 3) (s : State) : Out State Fault Refusal := ringInstr s (.ringrelCons h rg) rg

/-- RINGWAIT_PROD (R313). -/
def execRingwaitProd (h : Hints) (rg : BitVec 3) (b : Src) (s : State) : Out State Fault Refusal := ringInstr s (.ringwaitProd h rg b) rg

/-- RINGWAIT_CONS (R313). -/
def execRingwaitCons (h : Hints) (rg : BitVec 3) (b : Src) (s : State) : Out State Fault Refusal := ringInstr s (.ringwaitCons h rg b) rg

/-- RINGINIT (R313, R497). -/
def execRinginit (h : Hints) (rg : BitVec 3) (b : VReg) (c : Src) (s : State) : Out State Fault Refusal :=
  issue s (.ringinit h rg b c) fun t x g =>
    if !g.rings.getLsbD rg.toNat then .next (s.trapHere t x .badwin)
    else
      let r := s.ring t.ccRef rg.toNat
      let k := (x.src c).toNat
      let base := (x.rd b).toNat
      if r.phold || r.chold || r.pcnt != r.ccnt || k == 0 || decide (r.slots < k) then .next (s.trapHere t x .ringphase)
      else
        let n := k * r.m
        if base % 512 ≠ 0 ∨ scratchSize < base + n ∨
            ((List.range ((base + n - 1) / bankSize + 1 - base / bankSize)).any fun j => !s.ringBank t.ccRef rg.toNat (base / bankSize + j)) = true then
          .next (s.trapHere t x .badwin)
        else
          .next (((s.setRing t.ccRef rg.toNat { r with base := base, k := k, pcnt := 0, ccnt := 0, ph := 0, init := true }).retire
            t x h {}).wakeRing t.ccRef rg.toNat)

end Sys2Proof.Machine
end

