-- ==== Sys2Proof/Machine/IssueEv.lean ====
section
/-! DEFINITION. A slice's issue rounds (05_group.md R123 to R125, 22_power.md R461), kicks and deferred traps (18_traps.md R399, R401), and the
end of a page walk (12_page.md R279). -/
namespace Sys2Proof
open Sys2Proof

/-- Instructions that issue only once their thread's older loads have returned (R39, R142, R238, R360). DEDUCED: log 42. -/
def Instr.afterLoads (i : Instr) : Bool :=
  trapsLate i || match i with
    | .fence _ sc => sc == .pod
    | .exitThread _ | .sigwait .. | .gswap .. | .mma .. | .wpush .. => true
    | _ => false

/-- An instruction of the divider (R181). -/
def Instr.divides : Instr → Bool
  | .idiv .. => true
  | _ => false

/-- Slice cycles for which an issue group holds the special-function unit (R204). -/
def Instr.sfuCycles : Instr → Nat
  | .frcp .. | .frsq .. | .fex2 .. | .flg2 .. | .ftanh .. | .fdiv .. | .fdivImm .. | .fsqrt .. => 4
  | .fsin .. | .fcos .. => 8
  | _ => 0

/-- A level-index instruction (R215). -/
def Instr.isLevelIndex : Instr → Bool
  | .sadd .. | .ssub .. | .smul .. | .sdiv .. | .ssq .. | .sexp .. | .sln .. | .scmp .. | .sclass .. | .scvtSliF32 .. | .scvtF32Sli .. | .srecip .. => true
  | _ => false

end Sys2Proof

namespace Sys2Proof.Machine
open Sys2Proof

/-! ### Issue rounds -/

/-- The threads of a context in a slice of a core. -/
def State.sliceThreads (s : State) (c : CCRef) (sl : Nat) : List (TRef × Thread) :=
  s.threads.filter fun e => e.1.ccRef == c && htidSlice e.2.htid == sl

/-- Whether a thread stands at its PC in the slice's table. -/
def Thread.stands (x : Thread) : Bool := x.st == .ready || x.st == .parked || x.st == .trapped

/-- A thread of an entry of the PC table that stands there still. -/
def PcEntry.holds (o : PcEntry) (e : TRef × Thread) : Bool := o.grp == e.1.grp && o.pc == e.2.pc && o.htids.contains e.2.htid

/-- A thread that stands at a PC joins the first entry for it, or makes one of the age of this round; one that has come back to where it issued from in the
last round joins none that is older than this round (R123, R125). DEDUCED: log 83. -/
def joinEntry (old : List PcEntry) (issued : List Nat) (age : Nat) (l : List PcEntry) (e : TRef × Thread) : List PcEntry :=
  let back := issued.contains e.2.htid && old.any fun o => o.holds e
  match l.findIdx? fun o => o.grp == e.1.grp && o.pc == e.2.pc && (!back || o.age == age) with
  | some i => modNth l i fun o => { o with htids := o.htids ++ [e.2.htid] }
  | none => l ++ [{ grp := e.1.grp, pc := e.2.pc, age := age, htids := [e.2.htid] }]

/-- The PC table as the threads stand now: entries without a thread go, and new ones take the age of this round (R123). DEDUCED: log 83. -/
def pcTable (old : List PcEntry) (ts : List (TRef × Thread)) (issued : List Nat) (age : Nat) : List PcEntry :=
  let st := ts.filter fun e => e.2.stands
  let stays := fun (o : PcEntry) => { o with htids := o.htids.filter fun h => !issued.contains h && st.any fun e => e.2.htid == h && o.holds e }
  let kept := (old.map stays).filter fun o => !o.htids.isEmpty
  (st.filter fun e => !kept.any fun o => o.holds e).foldl (joinEntry old issued age) kept

/-- The entry before another: the older, then the lower PC, then the lower group number (R124); and then, between groups of two kernels, the lower index. -/
def entryBefore (gnum : Nat → Nat) (a b : PcEntry) : Bool :=
  decide (a.age < b.age) || (a.age == b.age && (decide (a.pc.toNat < b.pc.toNat) || (a.pc == b.pc &&
    (decide (gnum a.grp < gnum b.grp) || (gnum a.grp == gnum b.grp && decide (a.grp < b.grp))))))

def bestEntry (gnum : Nat → Nat) (l : List PcEntry) : Option PcEntry :=
  l.foldl (fun b a => match b with
    | some y => if entryBefore gnum a y then some a else some y
    | none => some a) none

/-- Of the eligible threads at an entry, the one in the lowest slot of each lane, in lane order (R124). -/
def laneIssue (ts : List (TRef × Thread)) : List TRef :=
  (List.range 32).filterMap fun l =>
    ((sortBy (fun e : TRef × Thread => e.2.htid) (ts.filter fun e => htidLane e.2.htid == l)).head?).map (·.1)

/-- MAJ 0xC0 to 0xC6 of a word, and XSET of nb and gb: operations that reach one barrier together take effect in ascending HTID (R344, R345). -/
def usesBarrier (w : BitVec 96) : Bool :=
  (decide (0xC0 ≤ bitsOf w.toNat 7 0) && decide (bitsOf w.toNat 7 0 ≤ 0xC6)) || (match decode w with
    | .ok (.xsetStruct _ (.nb _) _) | .ok (.xsetStruct _ (.gb _) _) => true
    | _ => false)

/-- The order in which the threads of an issue group take effect: by lane, or by HTID where their instruction is a barrier's (R249, R344). -/
def State.groupOrder (s : State) (ts : List (TRef × Thread)) (q : List TRef) : List TRef :=
  match ts.find? fun e => q.contains e.1 with
  | none => q
  | some e =>
    match (s.fetchWord e.1 e.2.pc.toNat).2 with
    | .word w => if usesBarrier w then (sortBy (fun e : TRef × Thread => e.2.htid) (ts.filter fun e => q.contains e.1)).map (·.1) else q
    | _ => q

/-- Whether a slice's clock is held for a switch (R457). -/
def Slice.holding (x : Slice) (now : DWord) : Bool := x.hold.any fun d => decide (d.toNat ≤ now.toNat + 228)

/-- A replay is under way: the issue group of the last detection has still to be executed again (R469). -/
def Slice.replays (x : Slice) : Bool := x.err.isSome && !x.again.isEmpty

/-- A slice's counters, in a cycle on which the context is ACTIVE, and its units after one cycle. DEDUCED: log 54. -/
def Slice.counted (x : Slice) (act iss mem eng : Bool) : Slice :=
  { x with
    cAll := x.cAll + (if act then 1 else 0)
    cIss := x.cIss + (if act && iss then 1 else 0)
    cMem := x.cMem + (if act && !iss && mem then 1 else 0)
    cEng := x.cEng + (if act && !iss && !mem && eng then 1 else 0)
    round := x.round + (if iss then 1 else 0)
    stop := x.stop - 1
    div := x.div - 1
    sfu := x.sfu - 1
    sli := x.sli - 1 }

/-- Passes of an issue group through the SLI units (R215). -/
def sliPasses (lanes : List Nat) : Nat := lanes.foldl (fun p l => max p (1 + l % 8 / 2)) 0

/-- An instruction of MAJ 0xE1 to 0xE9 that reaches core or group state. DEDUCED: log 85. -/
def reachesCore (i : Instr) : Bool :=
  match i with
  | .sysr .. | .sysw .. | .tswr .. | .tsww .. | .ologr .. | .xgetStruct .. | .xsetStruct .. | .placeCore .. | .placeDie .. | .placePort .. => true
  | _ => false

/-- Whether an issue group takes an entry of its slice's issue FIFO (R460). -/
def crossesFifo (w : BitVec 96) : Bool :=
  (decide (0x90 ≤ bitsOf w.toNat 7 0) && decide (bitsOf w.toNat 7 0 ≤ 0xD6)) || (match decode w with
    | .ok i => reachesCore i
    | .error _ => false)

/-- An issue group enters: it takes its entry of the FIFO and holds its unit from this cycle on (R181, R204, R217, R460). -/
def Slice.enter (x : Slice) (w : BitVec 96) (lanes : List Nat) : Slice :=
  let y := if crossesFifo w then { x with xiq := x.xiq + 1 } else x
  match decode w with
  | .ok i => { y with
      div := if i.divides then 3 else y.div
      sfu := if i.sfuCycles = 0 then y.sfu else i.sfuCycles - 1
      sli := if i.isLevelIndex then sliPasses lanes - 1 else y.sli }
  | .error _ => y

/-- Whether an instruction needs a unit that is held. -/
def Slice.unitHeld (x : Slice) (i : Instr) : Bool :=
  (i.divides && decide (0 < x.div)) || (decide (0 < i.sfuCycles) && decide (0 < x.sfu)) || (i.isLevelIndex && decide (0 < x.sli))

/-- A slice cycle passes for a thread: its GAP runs down, and its YLD has held for one selection (R93, R124). -/
def Thread.cycle (x : Thread) (selected : Bool) : Thread := { x with gap := x.gap - 1, yld := x.yld && !selected }

/-! ### Eligibility (R121, R123, R126, R280) -/

/-- MAJ 0x90 to 0x9E of a word: its threads are not eligible while an instruction of their slice holds the probe slot (R280). -/
def usesProbe (w : BitVec 96) : Bool := decide (0x90 ≤ bitsOf w.toNat 7 0) && decide (bitsOf w.toNat 7 0 ≤ 0x9E)

/-- Whether a thread of a slice holds its probe slot. -/
def State.slotTaken (s : State) (c : CCRef) (sl : Nat) : Bool :=
  s.threads.any fun e => e.1.ccRef == c && htidSlice e.2.htid == sl && e.2.ph.probing

/-- A hold of a memory request: the operand log, a parked line, an older load of the line, a home that is being asked, the byte budget (R121,
R235, R245, R465). DEDUCED: log 8. -/
def State.requestHeld (s : State) (t : TRef) (x : Thread) (g : Group) (r : Req) : Bool :=
  let late := x.st == .parked || s.unretired t
  match s.window t g r.ea r.size with
  | .error _ => late
  | .ok w =>
    if r.ea.toNat % r.size ≠ 0 then late
    else match w with
      | .loc _ => false
      | .gang .. => s.unretired t
      | .glob va =>
        s.logFull t || s.parkedLine t g va || s.loadOnLine t g va || s.slotTaken t.ccRef (htidSlice x.htid)
          || match (s.core t.coreRef).tlbFind t.ctx va with
            | some (e, lvl) => s.loadPending t (leafPlace e lvl va)
            | none => false

/-- Whether a thread's next instruction is held: it is not eligible (R123). DEDUCED: log 8. -/
def State.blocked (s : State) (t : TRef) (x : Thread) : Bool :=
  let late := x.st == .parked || s.unretired t
  match s.group? t.group with
  | none => false
  | some g =>
    let r := s.fetchWord t x.pc.toNat
    match r.2 with
    | .park .. => false
    | .poison => late
    | .wait => r.1.freqs.length == s.freqs.length
    | .word w =>
      if usesProbe w && s.slotTaken t.ccRef (htidSlice x.htid) then true
      else match decode w with
        | .error _ => late
        | .ok i => match s.gate t x g i with
          | .hold => true
          | .trap _ => late
          | .skip => false
          | .run =>
            (i.afterLoads && s.unretired t) || (match i with | .sdrop .. => s.scrOwed t | _ => false) || (match i with | .exitThread _ => decide (0 < s.npark t) | _ => false)
              || (match reqOf t.core x i with | some q => s.requestHeld t x g q | none => false)

/-- Whether a thread is ineligible only because its next instruction waits for a load's destination, the probe slot or a log entry (R461).
DEDUCED: log 54. -/
def State.memBlocked (s : State) (t : TRef) (x : Thread) : Bool :=
  s.canIssue t x && x.gap == 0 && s.blocked t x && match (s.fetchWord t x.pc.toNat).2 with
    | .word w => (usesProbe w && s.slotTaken t.ccRef (htidSlice x.htid)) || match decode w with
        | .ok i => ((s.pendingInstrs t).any fun j => conflicts i j) || ((reqOf t.core x i).isSome && s.logFull t)
        | .error _ => false
    | _ => false

/-- A thread that counts a memory stall of its slice (R461). DEDUCED: log 54. -/
def State.memStall (s : State) (e : TRef × Thread) : Bool :=
  e.2.st == .parked || (e.2.st == .wait && (e.2.ph.reason == some .address || e.2.ph.reason == some .channel)) || s.memBlocked e.1 e.2

/-- Whether a thread's next instruction needs a unit of its slice that is held (R181, R204, R217). -/
def State.unitBlocked (s : State) (sl : Slice) (e : TRef × Thread) : Bool :=
  (sl.div != 0 || sl.sfu != 0 || sl.sli != 0) && match (s.fetchWord e.1 e.2.pc.toNat).2 with
    | .word w => match decode w with
      | .ok i => sl.unitHeld i
      | .error _ => false
    | _ => false

/-- A thread that counts an engine stall: it waits for a unit, for a matrix operation or for a ring (R461). DEDUCED: log 54. -/
def State.engStall (s : State) (sl : Slice) (e : TRef × Thread) : Bool :=
  (e.2.st == .wait && (e.2.ph.reason == some .matrix || e.2.ph.reason == some .ring))
    || (s.canIssue e.1 e.2 && e.2.gap == 0 && s.unitBlocked sl e)

/-- Whether a START has come at a core's die that the Whisk has still to act on: the core's threads have reached their instruction boundary
(R48, R430). -/
def State.startReached (s : State) (c : CoreRef) : Bool :=
  let q := s.part c.part
  let come := fun m : BitVec 256 => decide (bitsOf m.toNat 63 0 ≤ (s.coreTime c).toNat)
  match q.preempt with
  | some e => !e.begun && (come e.bits || q.table.any fun e => !e.begun && come e.bits)
  | none => q.table.any fun e => !e.begun && come e.bits

/-- The threads of a slice that are eligible in this cycle (R123, R181, R204, R217). -/
def State.eligible (s : State) (ts : List (TRef × Thread)) (sl : Slice) : List (TRef × Thread) :=
  ts.filter fun e => s.canIssue e.1 e.2 && e.2.gap == 0 && !s.unitBlocked sl e && !s.blocked e.1 e.2

/-- The number of a group of a core within its kernel (R353); it orders entries of one age and PC (R124). -/
def State.gnumAt (s : State) (c : CCRef) (g : Nat) : Nat :=
  ((s.group? { part := c.part, ctx := c.ctx, core := c.core, grp := g }).map (·.gnum)).getD 0

/-- The issue group that an issue round of a slice forms from its PC table: none where nothing is eligible or the issue FIFO is full (R124, R460). -/
def State.sliceGroup (s : State) (c : CCRef) (ts : List (TRef × Thread)) (sl : Slice) (table : List PcEntry) : List TRef :=
  let can := s.eligible ts sl
  let now := if (can.filter fun e => !e.2.yld).isEmpty then can else can.filter fun e => !e.2.yld
  let standing := fun (o : PcEntry) => now.filter fun e => o.grp == e.1.grp && o.pc == e.2.pc && o.htids.contains e.2.htid
  if sl.xiq = 16 then []
  else match bestEntry (s.gnumAt c) (table.filter fun o => !(standing o).isEmpty) with
    | some o => s.groupOrder ts (laneIssue (standing o))
    | none => []

/-- The PC table of a slice as its threads stand now (R123). -/
def State.tableNow (s : State) (c : CCRef) (slice : Nat) (sl : Slice) : List PcEntry :=
  pcTable sl.table (s.sliceThreads c slice) sl.issued sl.round

def htidsOf (ts : List (TRef × Thread)) (q : List TRef) : List Nat := (ts.filter fun e => q.contains e.1).map (·.2.htid)

/-- The word that an issue group issues. -/
def State.groupWord (s : State) (ts : List (TRef × Thread)) (q : List TRef) : Option (BitVec 96) :=
  (ts.find? fun e => q.contains e.1).bind fun e => match (s.fetchWord e.1 e.2.pc.toNat).2 with
    | .word w => some w
    | _ => none

/-- The threads of an issue group issue in this cycle, or none does: the counters, the FIFO and the units follow (R123, R460, R461). DEDUCED: log 85. -/
def State.passCycle (s : State) (c : CCRef) (slice : Nat) (sl : Slice) (ts : List (TRef × Thread)) (q : List TRef) : State :=
  let act := s.ctxRuns c.ctxRef
  let iss := !q.isEmpty
  let full := sl.xiq == 16 && !(s.eligible ts sl).isEmpty
  let mem := full || ts.any s.memStall
  let eng := ts.any (s.engStall sl)
  let w := s.groupWord ts q
  let s := s.modSlice c.coreRef slice fun x =>
    let y := x.counted act iss mem eng
    match w with
    | some w => y.enter w ((htidsOf ts q).map htidLane)
    | none => y
  { ts.foldl (fun s e => s.setThread e.1 (e.2.cycle iss)) s with issueQ := q }

/-- A cycle of a slice in which a replay is under way: four form no group, and then the issue group executes again (R469). -/
def State.replayCycle (s : State) (c : CCRef) (slice : Nat) (sl : Slice) : State :=
  let ts := s.sliceThreads c slice
  let q := if 0 < sl.stop then [] else sl.again.filter fun t => ts.any fun e => e.1 == t && s.canIssue e.1 e.2
  let s := s.modSlice c.coreRef slice fun x => if 0 < x.stop then x else { x with err := none, table := s.tableNow c slice sl, issued := htidsOf ts q }
  s.passCycle c slice sl ts q

/-- A cycle of a slice that runs (R123, R124): an issue round where a group forms. -/
def State.issueCycle (s : State) (c : CCRef) (slice : Nat) (sl : Slice) : State :=
  let s := s.retryReplays c
  let ts := s.sliceThreads c slice
  let table := s.tableNow c slice sl
  let q := s.sliceGroup c ts sl table
  let s := s.modSlice c.coreRef slice fun x =>
    if q.isEmpty then { x with table := table, issued := [] } else { x with table := table, issued := htidsOf ts q, err := none, again := [] }
  s.passCycle c slice sl ts q

/-- ISSUE_ROUND (R123, R124): one slice cycle. DEDUCED: log 8. -/
def execIssueRound (c : CoreRef) (slice : Nat) (s : State) : Out State Fault Refusal :=
  let cc := s.heldBy c
  match (s.core c).slices[slice]? with
  | none => .next s
  | some sl =>
    if !s.issueQ.isEmpty || (s.part c.part).running != some cc.ctx || sl.holding (s.coreTime c) then .next s
    else if sl.replays then .next (if s.ctxRuns cc.ctxRef || s.halts cc.ctxRef then s.replayCycle cc slice sl else s)
    else if !s.ctxRuns cc.ctxRef || s.startReached c then .next s
    else .next (s.issueCycle cc slice sl)

/-! ### Kicks (R401) -/

/-- KICK_TAKEN (R401). -/
def execKickTaken (t : TRef) (s : State) : Out State Fault Refusal := .next (s.takeKick t)

/-! ### Deferred traps (R399, R495, R496) -/

/-- The trap delivered next: in ascending entry number, one with no entry first. -/
def nextDeferred (l : List Deferred) : Option Deferred :=
  l.foldl (fun (b : Option Deferred) a => match b with
    | some y => if (a.entry.map (· + 1)).getD 0 < (y.entry.map (· + 1)).getD 0 then some a else some y
    | none => some a) none

/-- TINFO of a trap that ends a park: ENTRY, CCLS and SUBC (R395). -/
def OEntry.tinfo (o : OEntry) (e : Nat) : Word := BitVec.ofNat 32 (e * 2 ^ 8 + o.ccls.ccls * 2 ^ 4 + o.sub % 16)

/-- Whether every instruction the thread has issued has retired or parked. -/
def State.settled (s : State) (t : TRef) (x : Thread) : Bool :=
  s.ctxRuns t.ctxRef && !x.h && (x.st == .ready || x.st == .parked) && x.ph == .none && !s.unretired t

/-- DEFERRED_TRAP_DELIVERY (R399). -/
def execDeferredTrapDelivery (t : TRef) (s : State) : Out State Fault Refusal :=
  match s.thread? t with
  | none => .next s
  | some x =>
    match nextDeferred x.deferred with
    | none => .next s
    | some d =>
      if !s.settled t x then .next s
      else
        let tinfo := match d.entry with
          | some e => match (s.holding t.ccRef).olog.get? e with
            | some o => o.tinfo e
            | none => 0
          | none => 0
        let s := s.setThread t { x with deferred := x.deferred.erase d, fpark := none }
        .next (s.takeTrap t d.cause (pcWord x.pc) d.taddr tinfo)

/-! ### Walks (R279) -/

/-- A lane whose granule's walk has failed parks (R247, R285). -/
def State.walkFailed (s : State) (m : Miss) (t : TRef) : State :=
  match s.thread? t, s.group? t.group with
  | some x, some g =>
    let y := { x with ph := .none, cur := none }
    match x.cur with
    | some i =>
      match reqOf t.core x i with
      | some r => if s.logFull t then s.setThread t y else s.park t y i r (vaOf g t.rank r.ea) m
      | none => s.setThread t y
    | none => s.setThread t y
  | _, _ => s

/-- The threads of a slice that hold its probe slot, in lane order. -/
def State.probers (s : State) (c : CCRef) (sl : Nat) : List (TRef × Thread) :=
  sortBy (fun e : TRef × Thread => htidLane e.2.htid) (s.threads.filter fun e => e.1.ccRef == c && htidSlice e.2.htid == sl && e.2.ph.probing)

/-- Once every granule of a slice's instruction is resolved, its lanes issue, or park (R279). -/
def State.releaseSlot (s : State) (c : CCRef) (sl : Nat) : State :=
  let ws := s.probers c sl
  if ws.any fun e => (match e.2.ph with | .walk _ => true | _ => false) then s
  else
    ws.foldl (fun s e => match e.2.ph with
      | .walked _ (some m) => s.walkFailed m e.1
      | _ => { s.setThread e.1 { e.2 with ph := .none, cur := none } with issueQ := s.issueQ ++ [e.1] }) s

/-- The walk of a granule ends: its lanes know what it gave. -/
def State.endWalk (s : State) (c : CCRef) (vpn : Nat) : State :=
  let s := s.modCore c.coreRef fun k => { k with walks := k.walks.filter fun v => v != vpn }
  let r := s.findLeaf c.ctxRef c.core (vpn * granuleSize)
  let got := match r.2 with | .error m => some m | .ok _ => none
  { r.1 with threads := r.1.threads.map fun e =>
      if e.1.ccRef = c ∧ e.2.ph = .walk vpn then (e.1, { e.2 with ph := .walked vpn got }) else e }

/-- WALK_COMPLETE (R279, R283): one of the at most 8 walks under way ends, and the instructions all of whose granules are resolved go on. -/
def execWalkComplete (c : CoreRef) (vpn : Nat) (s : State) : Out State Fault Refusal :=
  let cc := s.heldBy c
  if !s.ctxRuns cc.ctxRef then .next s
  else
    let s := if ((s.core c).walks.take 8).contains vpn && !s.walkCut cc.ctxRef c.core (vpn * granuleSize) then s.endWalk cc vpn else s
    .next ((List.range 6).foldl (fun s sl => s.releaseSlot cc sl) s)

end Sys2Proof.Machine
end

