-- ==== Sys2Proof/Machine/Barrier.lean ====
section
/-! DEFINITION. Named and gang barriers (15_barrier.md R338 to R346). -/
namespace Sys2Proof.Machine
open Sys2Proof

/-! ### The barrier object (R338) -/

/-- The groups of a gang, in rank order. -/
def Gang.groups (k : Gang) (g : GangRef) : List GRef :=
  (k.cores.zip k.grps).map fun e => { part := g.part, ctx := g.ctx, core := e.1, grp := e.2 }

def State.gangOf (s : State) (g : GRef) : Option GangRef := (s.group? g).map fun y => y.gangRef g

/-- The groups whose threads a barrier of a group counts. -/
def State.barGroups (s : State) (g : GRef) : Bar → List GRef
  | .nb _ => [g]
  | .gb _ => match s.gangOf g with
    | some r => match s.gang? r with
      | some k => k.groups r
      | none => []
    | none => []

def State.bar (s : State) (g : GRef) : Bar → BarRec
  | .nb n => match s.group? g with
    | some y => y.nbs.getD n.toNat BarRec.clear
    | none => BarRec.clear
  | .gb n => match s.gangOf g with
    | some r => match s.gang? r with
      | some k => k.gbs.getD n.toNat BarRec.clear
      | none => BarRec.clear
    | none => BarRec.clear

def State.modBar (s : State) (g : GRef) (b : Bar) (f : BarRec → BarRec) : State :=
  match b with
  | .nb n => s.modGroup g fun y => { y with nbs := modNth y.nbs n.toNat f }
  | .gb n => match s.gangOf g with
    | some r => s.modGang r fun k => { k with gbs := modNth k.gbs n.toNat f }
    | none => s

/-- The pending bit of a thread (R338). -/
def Thread.pend (x : Thread) : Bar → Bool
  | .nb n => x.nbPend.getLsbD n.toNat
  | .gb n => x.gbPend.getLsbD n.toNat

def Thread.setPend (x : Thread) (b : Bar) (v : Bool) : Thread :=
  match b with
  | .nb n =>
    let m : BitVec 16 := BitVec.ofNat 16 (2 ^ n.toNat)
    { x with nbPend := if v then x.nbPend ||| m else x.nbPend &&& ~~~m }
  | .gb n =>
    let m : BitVec 4 := BitVec.ofNat 4 (2 ^ n.toNat)
    { x with gbPend := if v then x.gbPend ||| m else x.gbPend &&& ~~~m }

/-- The threads of a group that are not EXITED. -/
def State.alive (s : State) (g : GRef) : List (TRef × Thread) := (s.groupThreads g).filter fun e => e.2.st != .exited

/-- E (R339): the threads of a group that has been placed and has not started are not EXITED. -/
def State.expected (s : State) (g : GRef) (b : Bar) : Nat :=
  let r := s.bar g b
  if r.cnt ≠ 0 then r.cnt
  else
    match b with
    | .nb _ => (s.alive g).length
    | .gb _ => ((s.barGroups g b).filter fun q => !(s.alive q).isEmpty || (s.group? q).any fun y => y.st == .allocated).length

/-! ### Release and delivery (R341) -/

/-- A release reaches a group: PEND is cleared, and the threads that wait there go on. -/
def State.barDeliver (s : State) (g : GRef) (b : Bar) : State :=
  ((s.groupThreads g).filter fun e => e.2.pend b).foldl (fun s e =>
    let s := s.modThread e.1 fun x => x.setPend b false
    if e.2.ph = .barrier b ∧ e.2.st = .wait then s.finish e.1 {} else s) s

/-- Release a barrier whose condition holds: a named barrier's release is delivered at once. DESIGN CHOICE: log 90. -/
def State.barCheck (s : State) (g : GRef) (b : Bar) : State :=
  let r := s.bar g b
  if !r.init || r.st == BarSt.released || r.arr == 0 || decide (r.arr < s.expected g b) then s
  else
    match b with
    | .nb _ => ((s.modBar g b fun r => { r with ph := !r.ph, arr := 0, st := .idle }).barDeliver g b)
    | .gb _ =>
      let cores := (s.barGroups g b).foldl (fun l q => if l.contains q.core then l else l ++ [q.core]) []
      s.modBar g b fun r => { r with ph := !r.ph, arr := 0, st := .released, deliver := cores }

def allBars : List Bar := ((List.range 16).map fun n => Bar.nb (BitVec.ofNat 4 n)) ++ (List.range 4).map fun n => Bar.gb (BitVec.ofNat 2 n)

/-- Whether every thread of a group that is not EXITED has the pending bit of a gang barrier. -/
def State.groupArrived (s : State) (g : GRef) (b : Bar) : Bool :=
  !(s.alive g).isEmpty && (s.alive g).all fun e => e.2.pend b

/-- A thread of a group has exited: an arrival may be complete, and E has changed (R339, R340). -/
def State.barExit (s : State) (t : TRef) (x : Thread) : State :=
  allBars.foldl (fun (s : State) b =>
    let r := s.bar t.group b
    let s := match b with
      | .gb _ =>
        if r.init && r.st != BarSt.released && !x.pend b && s.groupArrived t.group b then
          s.modBar t.group b fun r => { r with arr := r.arr + 1, st := .counting }
        else s
      | .nb _ => s
    s.barCheck t.group b) s

/-! ### Arrivals (R340, R342) -/

/-- Count an arrival of a thread. -/
def State.countArrival (s : State) (t : TRef) (b : Bar) : State :=
  let old := ((s.thread? t).map fun x => x.pend b).getD false
  let s := s.modThread t fun x => x.setPend b true
  let counts := match b with
    | .nb _ => true
    | .gb _ => !old && s.groupArrived t.group b
  if counts then s.modBar t.group b fun r => { r with arr := r.arr + 1, st := .counting } else s

def bscopeFence : BScope → Scope
  | .grp => .core
  | .quad => .quad
  | .die => .die
  | .pkg => .pkg
  | .pod => .pod

/-- The barrier an instruction names. -/
def barOf : Instr → Option Bar
  | .bararv _ b | .barwait _ b | .barsync _ b | .barset _ b _ => some b
  | .gbar _ n => some (.gb n)
  | _ => none

/-- After its arrival is counted, a thread retires or waits (R344). -/
def State.afterArrival (s : State) (t : TRef) (i : Instr) (b : Bar) : State :=
  match i with
  | .bararv .. => (s.finish t {}).barCheck t.group b
  | _ =>
    match s.thread? t with
    | some x => (s.await t x i (.barrier b) none).barCheck t.group b
    | none => s

/-- The values a count operand may take, and its value (R339, R344). -/
def countOf (x : Thread) (c : Src) : Int :=
  match c with
  | .reg r => ((x.rd r).toNat : Int)
  | .imm v => v.toInt

def barMax (g : Group) : Bar → Nat
  | .nb _ => 4095
  | .gb _ => g.gangN

/-- BARSET's effect. -/
def State.applyBarset (s : State) (t : TRef) (b : Bar) (c : Nat) : State := s.modBar t.group b fun r => { r with cnt := c }

/-- Whether a BARSET of a lower logical core or HTID is held at a thread's barrier too: it is performed first (R344). -/
def State.lowerBarset (s : State) (t : TRef) (x : Thread) (b : Bar) : Bool :=
  s.threads.any fun e => e.2.ph == .arrive && (s.barGroups t.group b).contains e.1.group
    && decide (e.1.core * 4096 + e.2.htid < t.core * 4096 + x.htid)
    && (match e.2.cur with | some (.barset _ q _) => q == b | _ => false)

/-- BARRIER_ARRIVAL_COUNTED (R342): a thread whose fence is over has its arrival counted, or a held BARSET is performed; both wait while
a release is being delivered (R341). -/
def execBarrierArrivalCounted (t : TRef) (s : State) : Out State Fault Refusal :=
  match s.thread? t with
  | none => .next s
  | some x =>
    match x.ph, x.cur with
    | .arrive, some i =>
      match barOf i with
      | none => .next s
      | some b =>
        if !s.ctxRuns t.ctxRef || (s.bar t.group b).st == .released then .next s
        else
          match i with
          | .barset _ _ c => if s.lowerBarset t x b then .next s else .next (((s.applyBarset t b (countOf x c).toNat).finish t {}).barCheck t.group b)
          | _ => .next ((s.countArrival t b).afterArrival t i b)
    | _, _ => .next s

/-- BARRIER_DELIVERY (R341): a gang barrier's release reaches one core; a STATE that an XSET has written meanwhile stays (R345). -/
def execBarrierDelivery (g : GangRef) (gb : BitVec 2) (core : Nat) (s : State) : Out State Fault Refusal :=
  match s.gang? g with
  | none => .next s
  | some k =>
    let r := k.gbs.getD gb.toNat BarRec.clear
    if !r.deliver.contains core || ((k.groups g).any fun q => q.core == core && (s.groupThreads q).any fun e => s.returnFull e.1) then .next s
    else
      let left := r.deliver.filter fun c => c != core
      let s := s.modGang g fun k => { k with gbs := modNth k.gbs gb.toNat fun r =>
        { r with deliver := left, st := if left.isEmpty && r.st == .released then .idle else r.st } }
      .next (((k.groups g).filter fun q => q.core == core).foldl (fun s q => s.barDeliver q (.gb gb)) s)

/-! ### The instructions (R343, R344) -/

/-- Whether a scope covers a gang of a latency class (R343). -/
def bscopeCovers (sc : BScope) (lat : Nat) : Bool :=
  match sc with
  | .grp => true
  | .quad => lat == 0 || lat == 1
  | .die => lat == 0 || lat == 1 || lat == 2
  | .pkg | .pod => true

def State.gangLat (s : State) (g : GRef) : Nat :=
  match s.gangOf g with
  | some r => ((s.gang? r).map (·.lat)).getD 0
  | none => 0

/-- The BARINIT column of R341's table: the new record, or MISMATCH. -/
def BarRec.initAs (r : BarRec) (c : Nat) (sc : BScope) : Option BarRec :=
  if !r.init || r.st == .idle then some { r with init := true, cnt := c, scope := sc }
  else if r.cnt = c ∧ r.scope = sc then some r
  else none

/-- BARINIT (R341, R343, R344). -/
def execBarinit (h : Hints) (sc : BScope) (bar : Bar) (a : Src) (s : State) : Out State Fault Refusal :=
  issue s (.barinit h sc bar a) fun t x g =>
    let c := countOf x a
    if c < 0 ∨ (barMax g bar : Int) < c then .next (s.trapHere t x .badwin)
    else if (match bar with | .gb _ => !bscopeCovers sc (s.gangLat t.group) | .nb _ => false) then .next (s.trapHere t x .scope)
    else
      match (s.bar t.group bar).initAs c.toNat sc with
      | some r => .next ((s.modBar t.group bar fun _ => r).retire t x h {})
      | none => .next (s.trapHere t x .mismatch)

/-- Begin the arrival of a thread at an initialised barrier: its fence first (R342). DEDUCED: log 31. -/
def State.arriveAt (s : State) (t : TRef) (x : Thread) (i : Instr) (b : Bar) : State :=
  let sc := (s.bar t.group b).scope
  if sc = .pod ∧ !s.podOk then s.trapHere t x .timelost
  else if sc = .pod ∧ s.unretired t = true then s.hold t
  else s.startFence t x i (some (bscopeFence sc)) (sc != .grp) .arrive

/-- BARARV (R344). -/
def execBararv (h : Hints) (bar : Bar) (s : State) : Out State Fault Refusal :=
  issue s (.bararv h bar) fun t x _ =>
    if !(s.bar t.group bar).init then .next (s.trapHere t x .mismatch) else .next (s.arriveAt t x (.bararv h bar) bar)

/-- BARWAIT (R344). -/
def execBarwait (h : Hints) (bar : Bar) (s : State) : Out State Fault Refusal :=
  issue s (.barwait h bar) fun t x _ =>
    if x.pend bar then .next (s.await t x (.barwait h bar) (.barrier bar) none) else .next (s.retire t x h {})

/-- BARSYNC (R344). -/
def execBarsync (h : Hints) (bar : Bar) (s : State) : Out State Fault Refusal :=
  issue s (.barsync h bar) fun t x _ =>
    if !(s.bar t.group bar).init then .next (s.trapHere t x .mismatch) else .next (s.arriveAt t x (.barsync h bar) bar)

def bscopeCode : BScope → Nat
  | .grp => 0
  | .quad => 1
  | .die => 2
  | .pkg => 3
  | .pod => 4

def BarSt.code : BarSt → Nat
  | .idle => 0
  | .counting => 1
  | .released => 2

/-- The word of R345. -/
def BarRec.word (r : BarRec) (mine : Bool) : Nat :=
  (if r.init then 2 ^ 31 else 0) + (if r.ph then 2 ^ 30 else 0) + r.st.code * 2 ^ 28 + bscopeCode r.scope * 2 ^ 25
    + (if mine then 2 ^ 24 else 0) + r.arr * 2 ^ 12 + r.cnt

/-- BARSTAT (R345). -/
def execBarstat (h : Hints) (d : VReg) (bar : Bar) (s : State) : Out State Fault Refusal :=
  issue s (.barstat h d bar) fun t x _ =>
    .next (s.retire t x h (vRes d (BitVec.ofNat 32 ((s.bar t.group bar).word (x.pend bar)))))

/-- BARSET (R344). -/
def execBarset (h : Hints) (bar : Bar) (b : Src) (s : State) : Out State Fault Refusal :=
  issue s (.barset h bar b) fun t x g =>
    let r := s.bar t.group bar
    let c := countOf x b
    if !r.init then .next (s.trapHere t x .mismatch)
    else if c < 0 ∨ (barMax g bar : Int) < c then .next (s.trapHere t x .badwin)
    else if r.st = .released then .next (s.stand t x (.barset h bar b) .arrive)
    else .next (((s.applyBarset t bar c.toNat).retire t x h {}).barCheck t.group bar)

/-- The scope GBAR initialises with (R344). -/
def gbarScope (lat : Nat) : BScope :=
  match lat with
  | 0 | 1 => .quad
  | 2 => .die
  | _ => .pkg

/-- GBAR (R344). -/
def execGbar (h : Hints) (gb : BitVec 2) (s : State) : Out State Fault Refusal :=
  issue s (.gbar h gb) fun t x _ =>
    let r := s.bar t.group (.gb gb)
    let s := if r.init then s
      else s.modBar t.group (.gb gb) fun r => { r with init := true, cnt := 0, scope := gbarScope (s.gangLat t.group) }
    .next (s.arriveAt t x (.gbar h gb) (.gb gb))

/-! ### XSET of a barrier (R345, R408) -/

/-- Write every field but MINE: a RELEASED or reserved STATE with no delivery under way is IDLE. DESIGN CHOICE: log 90. -/
def BarRec.ofWord (r : BarRec) (w : Word) : BarRec :=
  let x := w.toNat
  { init := bitsOf x 31 31 == 1
    ph := bitsOf x 30 30 == 1
    st := match bitsOf x 29 28 with
      | 1 => .counting
      | 2 => if r.deliver.isEmpty then .idle else .released
      | _ => .idle
    scope := match bitsOf x 27 25 with
      | 0 => .grp
      | 1 => .quad
      | 2 => .die
      | 3 => .pkg
      | _ => .pod
    arr := bitsOf x 23 12
    cnt := bitsOf x 11 0
    deliver := r.deliver }

end Sys2Proof.Machine
end

