-- ==== Sys2Proof/Machine/Front.lean ====
section
/-! DEFINITION. Global memory as the front end, the queue unit and the Ladle cores reach it: through a context's tables, at the homes
(12_page.md R283, 16_kernel.md R355 to R360, 17_queue.md R376, R377). -/
namespace Sys2Proof.Machine
open Sys2Proof

/-- Why an access of the front end does not go ahead. -/
inductive FrontStop where
  | fault (m : Miss)
  | poison
  | wait
  deriving DecidableEq, Repr

/-- The leaf of a VA by a walk of its own. DEDUCED: log 43. -/
def State.frontLeaf (s : State) (x : CtxRef) (va : Nat) : State × Except Miss (DWord × Nat) :=
  let root := (s.ctx x).ptroot
  let tkey := bitsOf root.toNat 57 52
  if !root.getLsbD 63 then (s, .error (miss .page 0 3))
  else if !(s.ctx x).keymask.getLsbD tkey then (s, .error (miss .perm 4 3))
  else if !(s.part x.part).keylive.getLsbD tkey then (s, .error (miss .keygone 1 3))
  else
    let w := s.walkFrom x.part tkey va 3 (bitsOf root.toNat 51 16 * 0x10000)
    (w.1, w.2.leaf)

/-- DEDUCED: log 43. -/
def State.frontPlace (s : State) (x : CtxRef) (va : Nat) (a : Acc) : State × Except Miss Place :=
  let r := s.frontLeaf x va
  match r.2 with
  | .error m => (r.1, .error m)
  | .ok (e, lvl) =>
    match r.1.leafCheck x a e lvl with
    | some m => (r.1, .error m)
    | none => (r.1, .ok (leafPlace e lvl va))

/-- Whether an address lies in the global window with n bytes behind it. -/
def inGlobal (a n : Nat) : Bool := decide (a + n ≤ 2 ^ 56)

/-- Read n bytes that lie in one page granule and in at most two lines. -/
def State.frontPiece (s : State) (x : CtxRef) (va n : Nat) (a : Acc) : State × Except FrontStop (List Byte) :=
  let r := s.frontPlace x va a
  match r.2 with
  | .error m => (r.1, .error (.fault m))
  | .ok loc =>
    if r.1.homeBad x.part loc n then (r.1, .error .poison)
    else if !r.1.homeReady x.part loc n then (r.1.askPool x loc n, .error .wait)
    else
      let q := r.1.homeBytes x.part loc n
      (q.1, .ok q.2)

/-- Read n pieces of m bytes, one after another; m divides the alignment of the first. -/
def State.frontRead (s : State) (x : CtxRef) (m : Nat) (a : Acc) : Nat → Nat → State × Except FrontStop (List Byte)
  | _, 0 => (s, .ok [])
  | va, n + 1 =>
    let r := s.frontPiece x va m a
    match r.2 with
    | .error e => (r.1, .error e)
    | .ok bs =>
      let q := State.frontRead r.1 x m a (va + m) n
      match q.2 with
      | .error e => (q.1, .error e)
      | .ok cs => (q.1, .ok (bs ++ cs))

/-- The first failure among the granules of a range, for a use of it. -/
def State.frontCheck (s : State) (x : CtxRef) (va n : Nat) (a : Acc) : Option Miss :=
  (List.range ((va + n - 1) / granuleSize + 1 - va / granuleSize)).findSome? fun i =>
    match (s.frontPlace x (if i = 0 then va else (va / granuleSize + i) * granuleSize) a).2 with
    | .error m => some m
    | .ok _ => none

/-- The front end and the queue unit in a scope record: no core, so outside every domain narrower than the partition's (R231, R237). DEDUCED: log 45. -/
def frontCore : Nat := 144

/-- An acquire or a release of scope .pkg of the front end leaves its scope record (R237). DEDUCED: log 45. -/
def State.frontScope (s : State) (x : CtxRef) (loc : Place) (load : Bool) : State :=
  (s.l2Use x loc 0 load).scopeNote (loc.lineNo x.part) (frontCore, .pkg, x.ctx)

/-- Store bytes that lie in one line; a release leaves a scope record. DEDUCED: log 45. -/
def State.frontWrite (s : State) (x : CtxRef) (va : Nat) (bs : List Byte) (rel : Bool) : State × Except FrontStop Unit :=
  let r := s.frontPlace x va .write
  match r.2 with
  | .error m => (r.1, .error (.fault m))
  | .ok loc =>
    let p := r.1.storeReady x loc (List.replicate bs.length true)
    if !p.2 then (p.1, .error .wait)
    else (((if rel then p.1.frontScope x loc false else p.1).homeStore x.part loc bs (List.replicate bs.length true)).1, .ok ())

/-- Ask for what a store of n bytes, or an addition to a word, still needs at its home: a pooled line, or room for its dirty bytes (R225, R227, R448). -/
def State.frontAsk (s : State) (x : CtxRef) (va n : Nat) (add : Bool) : State :=
  let r := s.frontPlace x va .write
  match r.2 with
  | .error _ => r.1
  | .ok loc => ((if add then r.1.askPool x loc n else r.1).storeReady x loc (List.replicate n true)).1

/-- Add to, or set, a signal word at its home, with its scope record; what a release waits for has passed (R364). DEDUCED: log 45. -/
def State.frontSignal (s : State) (x : CtxRef) (va : Nat) (add : Bool) (v : Nat) : State × Except FrontStop Unit :=
  let r := s.frontPlace x va .write
  match r.2 with
  | .error m => (r.1, .error (.fault m))
  | .ok loc =>
    if add && !r.1.homeReady x.part loc 4 then (r.1.askPool x loc 4, .error .wait)
    else
      let p := r.1.storeReady x loc [true, true, true, true]
      if !p.2 then (p.1, .error .wait)
      else
        let q := (p.1.frontScope x loc false).homeBytes x.part loc 4
        let w := if add then (leNat q.2 + v) % 2 ^ 32 else v % 2 ^ 32
        ((q.1.homeStore x.part loc (leBytes w 4) [true, true, true, true]).1, .ok ())

end Sys2Proof.Machine
end

