-- ==== Sys2Proof/Machine/Placement.lean ====
section
/-! DEFINITION. Placement of groups and gangs, their start, and the return of their resources (05_group.md R113 to R118, R136; 13_copy.md
R311; 16_kernel.md R353, R354, R357; 19_context.md R417). -/
namespace Sys2Proof.Machine
open Sys2Proof

/-! ### Footprint entries (R417) -/

def fpSlots (e sl : Nat) : Nat := bitsOf e (8 * sl + 7) (8 * sl)
def fpRows (e sl : Nat) : Nat := bitsOf e (8 * sl + 55) (8 * sl + 48)
def fpBanks (e : Nat) : Nat := bitsOf e 102 96
def fpTiles (e : Nat) : Nat := bitsOf e 119 116
def fpChans (e : Nat) : Nat := bitsOf e 123 120
def fpRings (e : Nat) : Nat := bitsOf e 127 124

/-- Where a context's save area begins, and its key slot (R411). -/
def Ctx.saBase (x : Ctx) : Nat := bitsOf x.ctxsa.toNat 51 16 * 0x10000
def Ctx.ikey (x : Ctx) : Nat := bitsOf x.ctxsa.toNat 61 56

/-- The footprint entry of a context for a logical core, as its save area holds it now. -/
def State.footprint (s : State) (x : CtxRef) (core : Nat) : Nat :=
  leNat (s.homeRead x.part (s.ctx x).ikey ((s.ctx x).saBase + 0x100 + 16 * core) 16).2

/-! ### Fit (R114 to R116) -/

/-- What a group asks of a core. -/
structure Need where
  sets  : Nat
  w     : Nat
  banks : Nat
  fbank : Option Nat
  chans : Nat
  tiles : Nat
  rings : List (Option RingDecl)
  deriving DecidableEq, Repr

def Kernel.need (k : Kernel) : Need :=
  { sets := k.gsz / 32, w := k.w, banks := k.scrb, fbank := if k.fbank = 0xFF then none else some k.fbank, chans := k.chans,
    tiles := k.tiles, rings := k.rings }

/-- What of a core is taken. -/
structure Taken where
  slots : List (Nat × Nat)
  banks : List Nat
  chans : List Nat
  tiles : List Nat
  rings : List (Nat × Nat × Nat)   -- number, slots, slot bytes
  deriving DecidableEq, Repr

def Taken.nothing : Taken := { slots := [], banks := [], chans := [], tiles := [], rings := [] }

/-- What the groups of a context hold on a core. -/
def State.taken (s : State) (c : CCRef) : Taken :=
  let x := s.holding c
  { slots := (s.groups.filter fun e => e.1.ccRef == c).flatMap fun e => e.2.slots
    banks := x.banks.map (·.1), chans := x.chans.map (·.1), tiles := x.tiles.map (·.1)
    rings := x.rings.map fun r => (r.1, r.2.slots, r.2.m) }

/-- What all contexts together hold on a core: an outgoing one holds its own until it is sealed (R114 to R116). -/
def State.coreTaken (s : State) (c : CCRef) : Taken :=
  let hs := s.holds.filter fun e => e.1.part == c.part && e.1.core == c.core
  { slots := (s.groups.filter fun e => e.1.part == c.part && e.1.core == c.core).flatMap fun e => e.2.slots
    banks := hs.flatMap fun e => e.2.banks.map (·.1), chans := hs.flatMap fun e => e.2.chans.map (·.1)
    tiles := hs.flatMap fun e => e.2.tiles.map (·.1)
    rings := (hs.filter fun e => e.1 != c).flatMap fun e => e.2.rings.map fun r => (r.1, r.2.slots, r.2.m) }

/-- What a group is given. -/
structure Grant where
  slots : List (Nat × Nat)
  first : Nat
  chans : List Nat
  tiles : List Nat
  deriving DecidableEq, Repr

/-- Slices in the order lane set k tries them. -/
def sliceOrder (k : Nat) : List Nat := (List.range 6).map fun j => (k + j) % 6

/-- The place of one lane set: the first slice with room for the context, the lowest slot there that is free on the core (R114). -/
def slotFor (foot w k : Nat) (own all : List (Nat × Nat)) : Option (Nat × Nat) :=
  (sliceOrder k).findSome? fun sl =>
    if fpRows foot sl < w ∨ fpSlots foot sl ≤ (own.filter fun u => u.1 == sl).length then none
    else ((List.range 16).find? fun n => !all.contains (sl, n)).map fun n => (sl, n)

/-- Places for lane sets k, k + 1, … -/
def slotsFor (foot w : Nat) : Nat → Nat → List (Nat × Nat) → List (Nat × Nat) → Option (List (Nat × Nat))
  | _, 0, _, _ => some []
  | k, n + 1, own, all =>
    match slotFor foot w k own all with
    | none => none
    | some p => (slotsFor foot w (k + 1) n (own ++ [p]) (all ++ [p])).map fun l => p :: l

/-- The first bank of a run of free banks (R116). -/
def bankRun (need : Need) (used : List Nat) : Option Nat :=
  let free := fun b => (List.range need.banks).all fun i => decide (b + i < 96) && !used.contains (b + i)
  match need.fbank with
  | some b => if free b then some b else none
  | none => (List.range 97).find? free

def lowestFree (n count : Nat) (used : List Nat) : Option (List Nat) :=
  let l := (List.range n).filter fun i => !used.contains i
  if count ≤ l.length then some (l.take count) else none

/-- Whether a kernel's declarations agree with the rings granted on a core (R311). -/
def ringsAgree (need : Need) (rings : List (Nat × Nat × Nat)) : Bool :=
  rings.all fun r => match need.rings.getD r.1 none with
    | some d => d.slots == r.2.1 && d.bytes == r.2.2
    | none => true

/-- The ring numbers a kernel declares. -/
def Need.ringSet (n : Need) : List Nat := (List.range 8).filter fun i => (n.rings.getD i none).isSome

/-- All or nothing on one core, under a footprint entry: `t` is what the context holds, `all` what all contexts hold (R115, R417). -/
def fit (foot : Nat) (need : Need) (t all : Taken) : Option Grant :=
  let rings := (need.ringSet.filter fun i => !t.rings.any fun r => r.1 == i).length + t.rings.length
  if fpBanks foot < t.banks.length + need.banks ∨ fpTiles foot < t.tiles.length + need.tiles
      ∨ fpChans foot < t.chans.length + need.chans ∨ fpRings foot < rings ∨ ¬ ringsAgree need t.rings = true
      ∨ (need.ringSet.any fun i => all.rings.any fun r => r.1 == i) = true then none
  else
    match slotsFor foot need.w 0 need.sets t.slots all.slots, bankRun need all.banks, lowestFree 8 need.chans all.chans,
        lowestFree 8 need.tiles all.tiles with
    | some sl, some b, some ch, some ti => some { slots := sl, first := if need.banks = 0 then 0 else b, chans := ch, tiles := ti }
    | _, _, _, _ => none

/-! ### Bank power of a group (R117, R133, R254) -/

/-- The register banks of a group's windows: slice, row and lane. -/
def State.groupBanks (s : State) (c : CCRef) (g : Group) : List (Nat × Nat × Nat) :=
  g.slots.flatMap fun p => (List.range g.w).flatMap fun w =>
    (List.range 32).map fun l => (p.1, (s.holding c).rowOf p.1 w, l)

def Group.bankList (g : Group) : List Nat := (List.range g.count).map (g.first + ·)

/-- The banks of a group that is about to be placed wake (R117, R134, R254). -/
def State.wakeGroup (s : State) (g : GRef) (y : Group) : State :=
  let s := (s.groupBanks g.ccRef y).foldl (fun s b => s.wakeBank g.coreRef b) s
  y.bankList.foldl (fun s b => s.touchBank g.ccRef b) s

/-- Whether a bank of a group is not yet full (R117). -/
def State.groupWaking (s : State) (g : GRef) (y : Group) : Bool :=
  let k := s.core g.coreRef
  ((s.groupBanks g.ccRef y).any fun b => match k.regPow.get? b with | none | some .full => false | _ => true)
    || y.bankList.any fun b => match k.scrPow.get? b with | none | some (.full, _) => false | _ => true

/-- Rows of a slice that a context may take: those no other context on the core has, then those whose 32 banks are all off (R131). -/
def State.freeRows (s : State) (c : CCRef) (sl : Nat) : List Nat :=
  let used := (s.groups.filter fun e => e.1.part == c.part && e.1.core == c.core && e.1.ctx != c.ctx && e.2.slots.any fun p => p.1 == sl).flatMap
    fun e => (List.range e.2.w).map fun w => (s.holding e.1.ccRef).rowOf sl w
  ((List.range 8).filter fun r => !used.contains r)
    ++ (List.range 8).filter fun r => used.contains r && (List.range 32).all fun l => s.bankPower c.coreRef (sl, r, l) == .off

/-- A context that comes to a core is given rows (R131). -/
def State.takeRows (s : State) (c : CCRef) : State :=
  if (s.holding c).rows.isEmpty then s.modHolding c fun h => { h with rows := (List.range 6).map fun sl => s.freeRows c sl } else s

/-! ### Start (R117, R354) -/

/-- A thread at the start of its group (R117). -/
def Thread.start (htid : Nat) (pc : Pc) (w : Nat) : Thread :=
  { htid := htid, pc := pc, regs := [], preds := 0, live := BitVec.ofNat 8 (2 ^ w - 1), st := .ready, ph := .none, cur := none,
    deadline := none, h := false, step := false, kick := false, cause := 0, epc := 0, taddr := 0, tinfo := 0, fflags := 0,
    lxflags := 0, wctmax := 0, wline := 0, wseen := 0, lastVt := 0, jbE := 0, jbA := 0, nbPend := 0, gbPend := 0, elatch := none,
    fpark := none, deferred := [], gap := 0, yld := false, waitFrom := 0 }

/-- The registers a group's threads start with (R354). -/
def startRegs (k : Kernel) (gnum : Nat) : List Word :=
  (k.args.take 12 ++ List.replicate (12 - k.args.length) (0 : Word)) ++
    [BitVec.ofNat 32 gnum, BitVec.ofNat 32 k.ngrp, k.handle.setWidth 32, (k.handle >>> 32).setWidth 32]

def regTab (ws : List Word) : Tab Word := (ws.zip (List.range ws.length)).foldl (fun t e => Tab.put 0 t e.2 e.1) []

/-- The HTID of a rank. -/
def Group.htidOf (g : Group) (rank : Nat) : Nat :=
  let p := g.slots.getD (rank / 32) (0, 0)
  Sys2Proof.Machine.htidOf p.1 p.2 (rank % 32)

/-- A thread of a group as it starts (R117, R354). -/
def Group.starter (y : Group) (k : Kernel) (rank : Nat) : Thread :=
  { Thread.start (y.htidOf rank) k.entry y.w with regs := regTab (startRegs k y.gnum) }

/-- A kernel is Started when its last group has started (R356). -/
def Kernel.started (k : Kernel) : Kernel :=
  { k with st := if k.closed then .draining else if k.head = k.tail then .resident else .fed }

def State.kernelStarted (s : State) (k : KRef) : State :=
  match s.kernel? k with
  | none => s
  | some y =>
    let waiting := s.groups.any fun e => e.1.part == k.part && e.1.ctx == k.ctx && e.2.kidx == k.kidx && e.2.st == .allocated
    if y.st = .loaded ∧ y.nplaced = y.ngrp ∧ waiting = false then s.setKernel k y.started else s

/-- The group's threads begin (R118 Start). -/
def State.startGroup (s : State) (g : GRef) (y : Group) : State :=
  match s.kernel? (y.kref g) with
  | none => s
  | some k =>
    let s := s.setGroup g { y with st := .resident }
    let s := (List.range y.gsz).foldl (fun s r => s.setThread (g.thread r) (y.starter k r)) s
    s.kernelStarted (y.kref g)

/-- An ALLOCATED group starts once its banks are awake (R117). -/
def State.tryStart (s : State) (g : GRef) : State :=
  match s.group? g with
  | some y => if y.st = .allocated ∧ s.groupWaking g y = false then s.startGroup g y else s
  | none => s

/-! ### Place (R115, R116, R136, R353) -/

/-- The lowest free place in a core's group table (R423). -/
def State.freeGroupIx (s : State) (c : CCRef) : Nat :=
  let used := (s.groups.filter fun e => e.1.ccRef == c).map fun e => e.1.grp
  ((List.range (used.length + 1)).find? fun i => !used.contains i).getD 0

def maskOf (n : Nat) (l : List Nat) : BitVec n := BitVec.ofNat n (l.foldl (fun a i => a + 2 ^ i) 0)

/-- The group as placed. -/
def Group.placed (k : Kernel) (kidx gnum : Nat) (handler : Pc) (p : Grant) : Group :=
  { kidx := kidx, gnum := gnum, gang := gnum / k.gangN, grank := gnum % k.gangN, gangN := k.gangN, role := k.role, w := k.w, gsz := k.gsz,
    st := .allocated, handler := handler, sidethr := 0x7F800000, sideptr := 0,
    banks := maskOf 96 ((List.range k.scrb).map (p.first + ·)), first := p.first, count := k.scrb, chans := maskOf 8 p.chans,
    rings := maskOf 8 k.need.ringSet, tiles := p.tiles, mlive := 0, mexc := 0, cvs := List.replicate 8 CvRec.clear,
    nbs := List.replicate 16 BarRec.clear, uncov := [], latch := none, slots := p.slots,
    pbase := k.priv + BitVec.ofNat 64 (gnum * k.gsz * k.psize), psize := k.psize }

/-- The grants enter the core's tables; a bank reads 0 at placement (R254). DEDUCED: log 26. -/
def Holding.grant (x : Holding) (grp : Nat) (k : Kernel) (p : Grant) : Holding :=
  { x with
    scratch := Tab.clear x.scratch (p.first * bankSize) ((p.first + k.scrb) * bankSize)
    wseq := Tab.clear x.wseq (p.first * bankSize) ((p.first + k.scrb) * bankSize)
    banks := (List.range k.scrb).foldl (fun d i => d.set (p.first + i) { grp := grp, live := true }) x.banks
    chans := p.chans.foldl (fun d i => d.set i (Chan.grant grp)) x.chans
    tiles := p.tiles.foldl (fun d i => d.set i grp) x.tiles
    rings := (List.range 8).foldl (fun d i => match k.rings.getD i none with
      | some r => if (x.rings.get? i).isSome then d else d.set i (Ring.grant r.slots r.bytes)
      | none => d) x.rings }

/-- The logical core of a group (R353). -/
def Kernel.coreOf (k : Kernel) (g : Nat) : Nat := k.cbase + g % k.cspan

/-- Grants for the next groups of a kernel, on the cores of one gang; none where one of them does not fit. -/
def State.gangFit (s : State) (kr : KRef) (k : Kernel) : Option (List Grant) :=
  ((List.range k.gangN).map fun i =>
    let core := k.coreOf (k.nplaced + i)
    let c : CCRef := { part := kr.part, ctx := kr.ctx, core := core }
    fit (s.footprint c.ctxRef core) k.need (s.taken c) (s.coreTaken c)).mapM id

/-- Place one group of a kernel. -/
def State.placeOne (s : State) (kr : KRef) (k : Kernel) (gnum : Nat) (p : Grant) : State × Nat :=
  let c : CCRef := { part := kr.part, ctx := kr.ctx, core := k.coreOf gnum }
  let ix := s.freeGroupIx c
  let y := Group.placed k kr.kidx gnum ((s.ctx c.ctxRef).handler.setWidth 56) p
  let s := (s.takeRows c).wakeGroup (c.group ix) y
  let s := (s.setGroup (c.group ix) y).modHolding c fun x => x.grant ix k p
  (s.tryStart (c.group ix), ix)

/-- Place the groups of a gang. -/
def State.placeAll (s : State) (kr : KRef) (k : Kernel) : Nat → List Grant → State × List Nat
  | _, [] => (s, [])
  | g, p :: ps =>
    let a := s.placeOne kr k g p
    let b := State.placeAll a.1 kr k (g + 1) ps
    (b.1, a.2 :: b.2)

/-- GROUP_PLACE (R115, R136, R353): the next group of a kernel, or the next gang, is placed where all of it fits. -/
def execGroupPlace (k : KRef) (s : State) : Out State Fault Refusal :=
  match s.kernel? k with
  | none => .next s
  | some y =>
    if !s.ctxRuns { part := k.part, ctx := k.ctx } || y.st != .loaded || decide (y.ngrp ≤ y.nplaced) then .next s
    else
      match s.gangFit k y with
      | none => .next s
      | some ps =>
        let s := s.setGang { part := k.part, ctx := k.ctx, kidx := k.kidx, gang := y.nplaced / y.gangN }
          { lat := y.lat, cores := (List.range y.gangN).map fun i => y.coreOf (y.nplaced + i), grps := [],
            gbs := List.replicate 4 BarRec.clear, latch := none }
        let r := s.placeAll k y y.nplaced ps
        let s := r.1.modGang { part := k.part, ctx := k.ctx, kidx := k.kidx, gang := y.nplaced / y.gangN } fun q => { q with grps := r.2 }
        .next ((s.modKernel k fun y => { y with nplaced := y.nplaced + y.gangN }).kernelStarted k)

end Sys2Proof.Machine
end

