-- ==== Sys2Proof/Machine/Launch.lean ====
section
/-! DEFINITION. Kernel descriptors and launch records, and the acceptance of a launch (16_kernel.md R351, R352, R355; 05_group.md R137).
A record is the number of its 1,024 bits. -/
namespace Sys2Proof.Machine
open Sys2Proof

/-! ### The launch record (R352) -/

def lrArgs (r : Nat) : List Word := (List.range 12).map fun i => BitVec.ofNat 32 (bitsOf r (415 + 32 * i) (384 + 32 * i))
def lrDonesig (r : Nat) : Nat := bitsOf r 383 320
def lrDoneadd (r : Nat) : Nat := bitsOf r 319 288
def lrQlog (r : Nat) : Nat := bitsOf r 263 256
def lrQaddr (r : Nat) : Nat := bitsOf r 255 192
def lrPriv (r : Nat) : Nat := bitsOf r 191 128
def lrCspan (r : Nat) : Nat := bitsOf r 111 104
def lrCbase (r : Nat) : Nat := bitsOf r 103 96
def lrNgrp (r : Nat) : Nat := bitsOf r 95 64
def lrKdesc (r : Nat) : Nat := bitsOf r 63 0
def lrDecided (r : Nat) : Bool := bitsOf r 1023 1023 == 1

/-! ### The kernel descriptor (R351) -/

def kdRing (d n : Nat) : Nat := bitsOf d (223 + 32 * n) (192 + 32 * n)
def kdPsize (d : Nat) : Nat := bitsOf d 159 128
def kdFbank (d : Nat) : Nat := bitsOf d 111 104
def kdGang (d : Nat) : Nat := bitsOf d 103 96
def kdChans (d : Nat) : Nat := bitsOf d 95 92
def kdTiles (d : Nat) : Nat := bitsOf d 91 88
def kdScrb (d : Nat) : Nat := bitsOf d 86 80
def kdGsz (d : Nat) : Nat := bitsOf d 78 72
def kdW (d : Nat) : Nat := bitsOf d 71 68
def kdLat (d : Nat) : Nat := bitsOf d 67 66
def kdRole (d : Nat) : Nat := bitsOf d 65 64
def kdEntry (d : Nat) : Nat := bitsOf d 63 0

def roleOf (c : Nat) : Role :=
  match c with
  | 0 => .general
  | 1 => .copy
  | 2 => .matrix
  | _ => .vector

def ringDecl (r : Nat) : Option RingDecl :=
  if bitsOf r 31 31 = 1 then some { slots := bitsOf r 30 25 + 1, bytes := bitsOf r 21 0 } else none

/-- A ring word out of its range (R311, R351). -/
def ringBad (r : Nat) : Bool :=
  if bitsOf r 31 31 = 1 then
    bitsOf r 24 22 != 0 || bitsOf r 21 0 % 512 != 0 || bitsOf r 21 0 == 0 || decide (scratchSize < bitsOf r 21 0)
  else r != 0

/-- The kernel a record and a descriptor describe. -/
def kernelOf (handle : DWord) (r d : Nat) : Kernel :=
  let q := lrQlog r
  { handle := handle, st := .loaded, entry := BitVec.ofNat 56 (kdEntry d), role := roleOf (kdRole d), lat := kdLat d, w := kdW d,
    gsz := 32 * kdGsz d, scrb := kdScrb d, fbank := kdFbank d, tiles := kdTiles d, chans := kdChans d, gangN := kdGang d,
    psize := kdPsize d, rings := (List.range 8).map fun n => ringDecl (kdRing d n), ngrp := lrNgrp r, cbase := lrCbase r,
    cspan := lrCspan r, priv := BitVec.ofNat 64 (lrPriv r), args := lrArgs r, donesig := BitVec.ofNat 64 (lrDonesig r),
    doneadd := BitVec.ofNat 32 (lrDoneadd r), qaddr := BitVec.ofNat 64 (lrQaddr r), qlog := q, head := 0, tail := 0,
    closed := q == 0, nplaced := 0, nfree := 0, popNext := 0, wct := 0 }

/-! ### The refusal rules (R355) -/

/-- DESC. -/
def descBad (r d : Nat) : Bool :=
  -- the record
  bitsOf r 991 768 != 0 || bitsOf r 287 264 != 0 || bitsOf r 127 112 != 0
    || (lrQlog r != 0 && (decide (lrQlog r < 4) || decide (16 < lrQlog r))) || (lrQlog r == 0 && lrQaddr r != 0)
    || lrCspan r == 0 || decide (144 < lrCspan r) || lrNgrp r == 0 || decide (2 ^ 20 < lrNgrp r)
    || (kdGang d != 0 && lrNgrp r % kdGang d != 0)
  -- the descriptor
    || bitsOf d 1023 448 != 0 || bitsOf d 191 160 != 0 || bitsOf d 127 112 != 0 || bitsOf d 87 87 != 0 || bitsOf d 79 79 != 0
    || ((List.range 8).any fun n => ringBad (kdRing d n)) || kdPsize d % 16 != 0
    || (kdFbank d != 0xFF && (decide (95 < kdFbank d) || decide (96 < kdFbank d + kdScrb d)))
    || kdGang d == 0 || decide (144 < kdGang d) || decide (8 < kdChans d) || decide (8 < kdTiles d) || decide (96 < kdScrb d)
    || kdGsz d == 0 || decide (96 < kdGsz d) || kdW d == 0 || decide (8 < kdW d) || bitsOf (kdEntry d) 63 56 != 0
    || (kdTiles d != 0 && kdRole d != 2) || (kdChans d != 0 && kdRole d != 1)
    || (kdLat d == 0 && decide (1 < kdGang d)) || (kdLat d != 0 && kdGang d == 1)

/-- The most groups of a gang of a latency class (R137). -/
def gangLimit (lat : Nat) : Nat :=
  match lat with
  | 0 => 1
  | 1 => 4
  | 2 => 36
  | _ => 144

/-- The logical cores of gang q. -/
def Kernel.gangCores (k : Kernel) (q : Nat) : List Nat := (List.range k.gangN).map fun i => k.coreOf (q * k.gangN + i)

/-- Whether a gang's cores keep its latency class (R137). -/
def latOk (lat : Nat) (cores : List Nat) : Bool :=
  let same := fun f : Nat → Nat => cores.all fun c => f c == f (cores.headD 0)
  match lat with
  | 1 => same coreQuad
  | 2 => same coreDie
  | _ => true

/-- PLACE, on a partition of n dies. -/
def placeBad (k : Kernel) (n : Nat) : Bool :=
  decide (36 * n < k.cbase + k.cspan) || decide (k.cspan < k.gangN)
    || (List.range (min (k.ngrp / k.gangN) k.cspan)).any fun q => !latOk k.lat (k.gangCores q)

/-- The logical cores a launch uses. -/
def Kernel.cores (k : Kernel) : List Nat := (List.range (min k.cspan k.ngrp)).map (k.cbase + ·)

/-- FIT. -/
def State.fitBad (s : State) (x : CtxRef) (k : Kernel) : Bool :=
  k.cores.any fun c => !s.coreValid x.part c || (fit (s.footprint x c) k.need Taken.nothing Taken.nothing).isNone

/-- RING. -/
def State.ringClash (s : State) (x : CtxRef) (k : Kernel) : Bool :=
  k.cores.any fun c => !ringsAgree k.need (s.taken { part := x.part, ctx := x.ctx, core := c }).rings

/-- FULL: 256 kernels that are not RETIRED. -/
def State.liveKernels (s : State) (x : CtxRef) : Nat :=
  (s.kernels.filter fun e => e.1.part == x.part && e.1.ctx == x.ctx && e.2.st != .retired).length

/-- The lowest index of the kernel table that no live kernel has. DEDUCED: log 47. -/
def State.freeKernelIx (s : State) (x : CtxRef) : Nat :=
  ((List.range 256).find? fun i => match s.kernel? { part := x.part, ctx := x.ctx, kidx := i } with
    | some k => k.st == .retired
    | none => true).getD 0

/-! ### The decision -/

/-- What a decision gives: data still on its way; a refusal that leaves STATUS unwritten; a status to write, with the kernel it makes
and the index it takes. -/
inductive Decided where
  | wait
  | mute
  | status (code : Nat) (k : Option Kernel)

/-- ADDR for what a record names (R355). DEDUCED: log 44. -/
def State.namesBad (s : State) (x : CtxRef) (r : Nat) : Bool :=
  let q := 16 * 2 ^ lrQlog r
  lrKdesc r % 128 != 0 || !inGlobal (lrKdesc r) 128 || (s.frontCheck x (lrKdesc r) 128 .read).isSome
    || (lrQlog r != 0 && decide (lrQlog r ≤ 16) && (lrQaddr r % q != 0 || !inGlobal (lrQaddr r) q || (s.frontCheck x (lrQaddr r) q .both).isSome))
    || (lrDonesig r != 0 && (lrDonesig r % 4 != 0 || !inGlobal (lrDonesig r) 4 || (s.frontCheck x (lrDonesig r) 4 .write).isSome))

/-- The first rule that refuses a launch once its record and its descriptor are known. -/
def State.launchCode (s : State) (x : CtxRef) (r d : Nat) : Nat :=
  let n := (s.partDies x.part).length
  let k := kernelOf 0 r d
  if descBad r d then 0x02
  else if gangLimit k.lat < k.gangN ∨ 36 * n < k.gangN then 0x03
  else if placeBad k n then 0x04
  else if s.fitBad x k then 0x05
  else if s.ringClash x k then 0x06
  else if 256 ≤ s.liveKernels x then 0x07
  else 0x00

/-- Decide the launch of a record at a global address (R355). DEDUCED: log 44. -/
def State.decideLaunch (s : State) (x : CtxRef) (rec : Nat) : State × Decided :=
  if rec % 128 ≠ 0 ∨ inGlobal rec 128 = false ∨ (s.frontCheck x rec 128 .write).isSome = true then (s, .mute)
  else if (s.frontCheck x rec 128 .both).isSome then (s, .status 0x01 none)
  else
    let r := s.frontRead x 128 .both rec 1
    match r.2 with
    | .error .wait => (r.1, .wait)
    | .error _ => (r.1, .mute)
    | .ok bs =>
      let lr := leNat bs
      if r.1.namesBad x lr then (r.1, .status 0x01 none)
      else
        let q := r.1.frontRead x 128 .read (lrKdesc lr) 1
        match q.2 with
        | .error .wait => (q.1, .wait)
        | .error _ => (q.1, .status 0x01 none)
        | .ok ds =>
          let code := q.1.launchCode x lr (leNat ds)
          (q.1, .status code (if code = 0 then some (kernelOf (BitVec.ofNat 64 rec) lr (leNat ds)) else none))

/-- A kernel enters the table: what was noted of stores under an earlier kernel of its index goes (R83). -/
def State.newKernel (s : State) (k : KRef) (y : Kernel) : State :=
  { s.setKernel k y with codeOld := s.codeOld.filter fun e => e.1.1 ≠ k }

/-- Write STATUS, and make the kernel; none where the store cannot be made yet. -/
def State.launched (s : State) (x : CtxRef) (rec code : Nat) (k : Option Kernel) : Option State :=
  let w := s.frontWrite x (rec + 124) (leBytes (0x80000000 + code) 4) false
  match w.2 with
  | .error _ => none
  | .ok () =>
    match k with
    | some k => some (w.1.newKernel { part := x.part, ctx := x.ctx, kidx := w.1.freeKernelIx x } k)
    | none => some w.1

end Sys2Proof.Machine
end

