-- ==== Sys2Proof/Machine/WorkQueue.lean ====
section
/-! DEFINITION. Work queues and launches from device code (16_kernel.md R356, R358 to R362): WPUSH, WPOP, QROOM, LAUNCH. -/
namespace Sys2Proof.Machine
open Sys2Proof

/-! ### The queue of a kernel (R356, R358) -/

def Kernel.qcap (k : Kernel) : Nat := if k.qlog = 0 then 0 else 2 ^ k.qlog
def Kernel.count (k : Kernel) : Nat := (k.tail + 2 ^ 32 - k.head) % 2 ^ 32

/-- LOADED, RESIDENT or FED. -/
def KSt.feeds : KSt → Bool
  | .loaded | .resident | .fed => true
  | _ => false

/-- END (R358). -/
def endRec : List Word := List.replicate 4 0xFFFFFFFF

/-- The kernel a handle names for a push (R359). -/
def State.feedKernel (s : State) (x : CtxRef) (h : DWord) : Option KRef :=
  (s.kernels.find? fun e => e.1.part == x.part && e.1.ctx == x.ctx && e.2.handle == h && e.2.st.feeds).map (·.1)

/-- Push, Empty and END of R356 on the state alone. -/
def Kernel.pushed (k : Kernel) : Kernel :=
  { k with tail := (k.tail + 1) % 2 ^ 32, st := match k.st with | .resident => .fed | x => x }

def Kernel.popped (k : Kernel) : Kernel :=
  { k with head := (k.head + 1) % 2 ^ 32, st := match k.st with
      | .fed => if (k.head + 1) % 2 ^ 32 = k.tail then .resident else .fed
      | x => x }

def Kernel.ended (k : Kernel) : Kernel :=
  { k with closed := true, st := match k.st with
      | .resident | .fed => .draining
      | x => x }

/-- Where record n lies. -/
def Kernel.recAddr (k : Kernel) (n : Nat) : Nat := k.qaddr.toNat + 16 * (n % max 1 k.qcap)

/-! ### Pops (R360) -/

/-- The record at the head and the LWCT of its line. -/
def State.popRead (s : State) (x : CtxRef) (va : Nat) : State × Except FrontStop (List Byte × DWord) :=
  let r := s.frontPiece x va 16 .read
  match r.2 with
  | .error e => (r.1, .error e)
  | .ok bs =>
    match (r.1.frontPlace x va .read).2 with
    | .ok loc => (r.1, .ok (bs, (r.1.line (loc.lineNo x.part)).lwct))
    | .error m => (r.1, .error (.fault m))

/-- A WPOP that has reached the queue unit takes a record, or END, or goes on waiting. DEDUCED: log 46. -/
def State.popTry (s : State) (t : TRef) (k : KRef) : State :=
  match s.thread? t, s.kernel? k with
  | some x, some y =>
    match x.cur with
    | some (.wpop _ d) =>
      if 0 < y.count then
        let r := s.popRead t.ctxRef (y.recAddr y.head)
        match r.2 with
        | .ok (bs, w) =>
          (((r.1.modKernel k Kernel.popped).modThread t fun x => x.raise w).finish t { vs := wordRegs d (leNat bs) 4 })
        | .error .poison => r.1.finishTrap t .mcheck (BitVec.ofNat 64 (y.recAddr y.head))
        | .error _ => r.1
      else if y.closed then s.finish t { vs := wordRegs d (wordsNat endRec) 4 }
      else s
    | _ => s
  | _, _ => s

/-- The threads that wait to pop from a kernel's queue, with their places in the order. -/
def State.popWaiters (s : State) (k : KRef) : List (Nat × TRef) :=
  (s.threads.filter fun e => e.1.part == k.part && e.1.ctx == k.ctx &&
      (match s.group? e.1.group with | some g => g.kidx == k.kidx | none => false)).filterMap fun e =>
    match e.2.ph with
    | .pop o => some (o, e.1)
    | _ => none

/-- The one that reached the queue unit first. -/
def firstOf (l : List (Nat × TRef)) : Option TRef :=
  (l.foldl (fun (b : Option (Nat × TRef)) a => match b with
    | some y => if a.1 < y.1 then some a else some y
    | none => some a) none).map (·.2)

/-- Serve waiting pops in order while there is something to give. -/
def State.servePops (s : State) (k : KRef) : Nat → State
  | 0 => s
  | n + 1 =>
    match firstOf (s.popWaiters k) with
    | none => s
    | some t =>
      let s' := s.popTry t k
      if (s'.popWaiters k).length < (s.popWaiters k).length then State.servePops s' k n else s'

/-! ### Pushes (R359) -/

/-- What the store of a kernel's next record still needs at its home. -/
def State.askRec (s : State) (k : KRef) : State :=
  match s.kernel? k with
  | none => s
  | some y => s.frontAsk { part := k.part, ctx := k.ctx } (y.recAddr y.tail) 16 false

/-- Append a record and serve a waiting pop; none where the queue store cannot be written now. DEDUCED: log 46. -/
def State.appendRec (s : State) (k : KRef) (rec : List Word) : Option State :=
  match s.kernel? k with
  | none => none
  | some y =>
    let r := s.frontWrite { part := k.part, ctx := k.ctx } (y.recAddr y.tail) (dataBytes rec) false
    match r.2 with
    | .error _ => none
    | .ok () =>
      let s := r.1.modKernel k Kernel.pushed
      some (s.servePops k (s.popWaiters k).length)

/-- The threads that wait for room in a kernel's queue, in ascending core and HTID. -/
def State.pushWaiters (s : State) (k : KRef) : List TRef :=
  let l := s.threads.filter fun e => e.1.part == k.part && e.1.ctx == k.ctx &&
    (match e.2.ph with | .pushRoom k' _ => k' == k | _ => false)
  (sortBy (fun e => e.1.core * 4096 + e.2.htid) l).map (·.1)

/-- A waiting push tries again. DEDUCED: log 46. -/
def State.pushRetry (s : State) (t : TRef) : State :=
  match s.thread? t with
  | none => s
  | some x =>
    match x.ph with
    | .pushRoom k rec =>
      match s.kernel? k with
      | none => s
      | some y =>
        if y.closed then s.finishTrap t .badtarget 0
        else if y.count < y.qcap then
          match s.appendRec k rec with
          | some s' => s'.finish t {}
          | none => s.askRec k
        else s
    | _ => s

def State.servePushes (s : State) (k : KRef) : State := (s.pushWaiters k).foldl (fun s t => s.pushRetry t) s

/-- END closes a queue (R356, R358); a FEED held for it is refused (R378). -/
def State.closeQueue (s : State) (k : KRef) : State :=
  let s := (s.modKernel k Kernel.ended).refuseFeeds k
  let s := s.servePushes k
  s.servePops k (s.popWaiters k).length

/-- A WPUSH whose fence is over reaches the queue unit. -/
def State.pushNow (s : State) (t : TRef) (x : Thread) (g : Group) (i : Instr) : State :=
  match i with
  | .wpush _ a b =>
    let rec' := x.rdMany a 4
    let k := match b with
      | some b => s.feedKernel t.ctxRef (x.rdPair b)
      | none => match s.kernel? (g.kref t.group) with
        | some y => if y.st.feeds then some (g.kref t.group) else none
        | none => none
    match k with
    | none => s.finishTrap t .badtarget 0
    | some k =>
      if rec' = endRec then (s.finish t {}).closeQueue k
      else
        match s.kernel? k with
        | none => s
        | some y =>
          if y.closed then s.finishTrap t .badtarget 0
          else if y.count < y.qcap then
            match s.appendRec k rec' with
            | some s' => s'.finish t {}
            | none => s.askRec k
          else s.await t x i (.pushRoom k rec') none
  | _ => s

/-! ### Pending launches (R362) -/

/-- An entry enters a core's pending-launch queue. DEDUCED: log 43. -/
def State.enterLaunch (s : State) (t : TRef) (va : DWord) : State :=
  let head := (s.holding t.ccRef).plq.isEmpty
  let s := s.modHolding t.ccRef fun y =>
    { y with plq := y.plq ++ [va], plqAt := if head then s.coreTime t.coreRef else y.plqAt }
  (if head then s.ladleEvent t.part (.launch t.core) else s).finish t {}

/-- A LAUNCH whose fence is over: it enters the queue, or waits for room. -/
def State.launchNow (s : State) (t : TRef) (x : Thread) (g : Group) (i : Instr) : State :=
  match reqOf t.core x i with
  | none => s
  | some r =>
    let va : DWord := BitVec.ofNat 64 (vaOf g t.rank r.ea)
    if (s.holding t.ccRef).plq.length < 4 then s.enterLaunch t va else s.await t x i (.launchRoom va) none

/-- Threads of a context that wait for room on a core, in ascending HTID. -/
def State.launchWaiters (s : State) (c : CCRef) : List (TRef × DWord) :=
  let l := s.threads.filter fun e => e.1.ccRef == c && (match e.2.ph with | .launchRoom _ => true | _ => false)
  (sortBy (fun e => e.2.htid) l).map fun e => (e.1, match e.2.ph with | .launchRoom a => a | _ => 0)

/-- Waiting threads enter as entries leave. -/
def State.fillLaunch (s : State) (c : CCRef) : State :=
  (s.launchWaiters c).foldl (fun s e => if (s.holding c).plq.length < 4 then s.enterLaunch e.1 e.2 else s) s

/-! ### The instructions -/

/-- WPOP (R360). -/
def execWpop (h : Hints) (d : VReg) (s : State) : Out State Fault Refusal :=
  issue s (.wpop h d) fun t x g =>
    let k := g.kref t.group
    match s.kernel? k with
    | none => .fault .danglingRef
    | some y =>
      let s := (s.await t x (.wpop h d) (.pop y.popNext) none).modKernel k fun y => { y with popNext := y.popNext + 1 }
      .next ((s.servePops k (s.popWaiters k).length).servePushes k)

/-- WPUSH (R359). -/
def execWpush (h : Hints) (a : VReg) (b : Option VReg) (s : State) : Out State Fault Refusal :=
  issue s (.wpush h a b) fun t x _ =>
    if s.unretired t then .next (s.hold t) else .next (s.startFence t x (.wpush h a b) (some .pkg) true .push)

/-- LAUNCH (R362). -/
def execLaunch (h : Hints) (a : VReg) (s : State) : Out State Fault Refusal :=
  issue s (.launch h a) fun t x g =>
    match reqOf t.core x (.launch h a) with
    | none => .next s
    | some r =>
      if s.slotBusy t x then .next (s.hold t)
      else
        match s.window t g r.ea 128 with
        | .ok (.glob va) =>
          if r.ea.toNat % 128 ≠ 0 then .next (s.precise t x .align (pcWord x.pc) r.ea 0)
          else
            match s.probe t x g (.launch h a) va r.acc with
            | .hold => .next (s.hold t)
            | .walk => .next (s.startWalk t x (.launch h a) va)
            | .park m => .next (s.park t x (.launch h a) r va m)
            | .place _ => .next (s.startFence t x (.launch h a) (some .pkg) true .launch)
        | _ => .next (s.precise t x .badwin (pcWord x.pc) r.ea 0)

/-- The word of QROOM (R361). -/
def Kernel.roomWord (k : Kernel) : Nat := if k.closed then 2 ^ 31 else k.qcap - k.count

/-- QROOM (R361). -/
def execQroom (h : Hints) (d a : VReg) (s : State) : Out State Fault Refusal :=
  issue s (.qroom h d a) fun t x _ =>
    let v := match s.kernels.find? fun e => e.1.part == t.part && e.1.ctx == t.ctx && e.2.st != .retired && e.2.qaddr == x.rdPair a with
      | some e => e.2.roomWord
      | none => 0xFFFFFFFF
    .next (s.retire t x h (vRes d (BitVec.ofNat 32 v)))

end Sys2Proof.Machine
end

