-- ==== Sys2Proof/Machine/KernelEv.lean ====
section
/-! DEFINITION. The front end's decisions on pending launches (16_kernel.md R355, R362), and the return of a drained group's resources with
the end of its kernel (05_group.md R118, 16_kernel.md R356, R357). -/
namespace Sys2Proof.Machine
open Sys2Proof

/-- The decided entry leaves the queue of a core (R362). -/
def State.popLaunch (s : State) (c : CCRef) : State :=
  let s := s.modHolding c fun y => { y with plq := y.plq.drop 1, plqAt := s.coreTime c.coreRef }
  let s := if (s.holding c).plq.isEmpty then s else s.ladleEvent c.part (.launch c.core)
  s.fillLaunch c

/-- LAUNCH_DECISION (R355, R362). -/
def execLaunchDecision (c : CoreRef) (s : State) : Out State Fault Refusal :=
  let cc := s.heldBy c
  if !s.ctxRuns cc.ctxRef then .next s
  else
    match (s.holding cc).plq with
    | [] => .next s
    | va :: _ =>
      if (s.coreTime c).toNat < (s.holding cc).plqAt.toNat + 16000 then .next s
      else
        let r := s.decideLaunch cc.ctxRef va.toNat
        match r.2 with
        | .wait => .next r.1
        | .mute => .next (r.1.popLaunch cc)
        | .status code k =>
          match r.1.launched cc.ctxRef va.toNat code k with
          | none => .next (r.1.frontAsk cc.ctxRef (va.toNat + 124) 4 false)
          | some s' => .next (s'.popLaunch cc)

/-! ### Drained groups -/

/-- Whether an operation of a core belongs to a group. -/
def MOp.ofGroup (m : MOp) (g : GRef) : Bool := (m.thr :: m.contrib).any fun t => t.group == g

/-- Drained (R118, R335): nothing of the group is under way. -/
def State.groupQuiet (s : State) (g : GRef) (y : Group) : Bool :=
  let k := s.core g.coreRef
  let x := s.holding g.ccRef
  !(k.mops.any fun m => m.ofGroup g) && !(k.wc.any fun w => w.thrs.any fun t => t.group == g)
    && !((List.range 8).any fun ch => y.chans.getLsbD ch && !((x.chans.get? ch).map Chan.quiet).getD true)
    && !(k.mmas.any fun m => m.ctx == g.ctx && m.grp == g.grp)
    && !(x.olog.any fun e => e.2.grp == g.grp && e.2.stat != .delivering)

/-- A returned bank: off, and its contents lost. -/
def State.returnBank (s : State) (c : CCRef) (bank : Nat) : State :=
  let lo := bank * bankSize
  let s := s.modHolding c fun x => { x with
    scratch := Tab.clear x.scratch lo (lo + bankSize), wseq := Tab.clear x.wseq lo (lo + bankSize), banks := x.banks.erase bank }
  s.modCore c.coreRef fun k => { k with scrPow := k.scrPow.set bank (.off, (k.scrPow.getD bank (.off, 0)).2) }

/-- A returned tile: dead. -/
def State.returnTile (s : State) (c : CCRef) (p : Nat) : State :=
  ((s.modHolding c fun x => { x with acc := Tab.clear x.acc (p * 16384) ((p + 1) * 16384), tiles := x.tiles.erase p }).healCells c fun i => i / 16384 == p).modCore c.coreRef fun k =>
    { k with tilePow := k.tilePow.set p .off }

/-- Rings that no other group of the context on the core shares (R311). DEDUCED: log 26. -/
def State.ringsLeft (s : State) (g : GRef) (y : Group) : List Nat :=
  (List.range 8).filter fun r => y.rings.getLsbD r && !(s.groups.any fun e => e.1.ccRef == g.ccRef && e.1 != g && e.2.rings.getLsbD r)

/-- A gang whose groups are all FREE is gone. -/
def State.dropGang (s : State) (k : GangRef) : State :=
  match s.gang? k with
  | none => s
  | some y => if (y.groups k).any fun g => (s.group? g).isSome then s else { s with gangs := s.gangs.erase k }

/-- The index that a gang keeps for a group that is FREE: no group has it (R423). -/
def goneGroup : Nat := 4096

/-- The completion time of all that a group has written or read: its threads' WCTMAX and its channels' CT (R230, R306). -/
def State.groupWct (s : State) (g : GRef) (y : Group) : DWord :=
  (List.range 8).foldl (fun a ch => if y.chans.getLsbD ch then dmax a (((s.holding g.ccRef).chans.get? ch).map (·.ct) |>.getD 0) else a)
    ((s.groupThreads g).foldl (fun a e => dmax a e.2.wctmax) 0)

/-- The group becomes FREE and returns every resource of R115 (R118). -/
def State.freeGroup (s : State) (g : GRef) (y : Group) : State :=
  let c := g.ccRef
  let rings := s.ringsLeft g y
  let wct := s.groupWct g y
  let s := y.bankList.foldl (fun s b => s.returnBank c b) s
  let s := y.tiles.foldl (fun s p => s.returnTile c p) s
  let s := s.modHolding c fun x => { x with
    chans := x.chans.filter fun e => !y.chans.getLsbD e.1
    rings := x.rings.filter fun e => !rings.contains e.1
    olog := x.olog.filter fun e => e.2.grp != g.grp }
  let s := { s with threads := s.threads.filter fun e => e.1.group ≠ g, groups := s.groups.erase g }
  let s := s.modGang (y.gangRef g) fun k => { k with grps := (k.cores.zip k.grps).map fun e => if e = (g.core, g.grp) then goneGroup else e.2 }
  (s.dropGang (y.gangRef g)).modKernel (y.kref g) fun k => { k with nfree := k.nfree + 1, wct := dmax k.wct wct }

/-- The code of a failing check of R283 in a record's SYNDROME: cause and subcode. -/
def missSynd (m : Miss) : Nat := m.cause.code.toNat + m.sub * 2 ^ 8

/-- Free (R356, R357): the kernel whose groups are all FREE signals and retires, and a push that waits for room is refused; none while the signal cannot be
performed yet. It is a release of scope .pkg: the leases on what the groups wrote and read have ended (R231, R234). -/
def State.kernelFree (s : State) (k : KRef) : Option State :=
  match s.kernel? k with
  | none => some s
  | some y =>
    if y.nfree < y.ngrp then some s
    else
      let x : CtxRef := { part := k.part, ctx := k.ctx }
      let done := fun s : State =>
        (((s.refuseFeeds k).modKernel k fun y => { y with st := .retired, head := y.tail, closed := true }).servePushes k).ladleEvent k.part (.retire k.ctx k.kidx)
      if y.donesig = 0 then some (done s)
      else if s.time.gtime.toNat < y.wct.toNat + 16 then none
      else
        let r := s.frontSignal x y.donesig.toNat true y.doneadd.toNat
        match r.2 with
        | .ok () => some (done r.1)
        | .error (.fault m) => some (done (r.1.mcRecord (some k.part) .context 1 y.donesig.toNat (missSynd m) k.ctx 0))
        | .error _ => none

/-- What the signal of a kernel still needs at its home (R357). -/
def State.askDone (s : State) (k : KRef) : State :=
  match s.kernel? k with
  | none => s
  | some y => if y.donesig = 0 then s else s.frontAsk { part := k.part, ctx := k.ctx } y.donesig.toNat 4 true

/-- GROUP_DRAINED (R118, R357). -/
def execGroupDrained (g : GRef) (s : State) : Out State Fault Refusal :=
  match s.group? g with
  | none => .next s
  | some y =>
    if y.st != .retiring || !s.ctxRuns g.ctxRef || !s.groupQuiet g y then .next s
    else
      match (s.freeGroup g y).kernelFree (y.kref g) with
      | some s' => .next s'
      | none => .next (s.askDone (y.kref g))

end Sys2Proof.Machine
end

