-- ==== Sys2Proof/Machine/CopyEv.lean ====
section
/-! DEFINITION. The copy engine at work: refusal of a copy, its granules, its end, and its parks (13_copy.md R300 to R306, R308, R310). -/
namespace Sys2Proof.Machine
open Sys2Proof

/-! ### Refusal and begin -/

/-- The channel enters ERROR; the copies behind are discarded (R295). -/
def State.chanError (s : State) (c : CCRef) (ch code : Nat) : State :=
  (s.modChan c ch fun k => k.failed code).wakeChan c ch

/-- Bytes of a scratchpad become free values. -/
def State.scrSpoil (s : State) (c : CCRef) (offs : List Nat) : State :=
  offs.foldl (fun s o => { (s.modHolding c fun x => { x with scratch := Tab.put 0 x.scratch o (Config.freeByte s.fresh) }) with
    fresh := s.fresh + 1 }) s

/-- The destination bytes of a TSTORE from a position on become free values in memory (R305). DESIGN CHOICE: log 35. -/
def State.memSpoil (s : State) (c : CCRef) (cp : Copy) (ls : List Nat) : State :=
  ls.foldl (fun s l => match s.storePlace c cp l with
    | some loc => { s.homeBytesPut c.part loc [Config.freeByte s.fresh] [true] with fresh := s.fresh + 1 }
    | none => s) s

/-- COPY_START (R300): the copy at the head of a channel's queue is refused or begins. -/
def execCopyStart (c : CoreRef) (ch : BitVec 3) (s : State) : Out State Fault Refusal :=
  let cc := s.heldBy c
  let k := s.chan cc ch.toNat
  match k.q, k.started with
  | cp :: _, false =>
    if !s.ctxRuns cc.ctxRef || k.st != .busy then .next s
    else
      match s.copyRefused cc cp with
      | some code => .next (s.chanError cc ch.toNat code)
      | none =>
        .next (s.modChan cc ch.toNat fun k => { k with started := true, start := k.wp.getD 0 0 })
  | _, _ => .next s

/-! ### Global memory by lines (R242, R308) -/

/-- Why a granule does not move now. -/
inductive CopyStop where
  | fault (m : Miss) (va : Nat)
  | poison (addr : Nat)
  | dead
  | wait
  deriving DecidableEq, Repr

def addNew (l : List Nat) (n : Nat) : List Nat := if l.contains n then l else l ++ [n]

/-- The distinct lines of some addresses, in order. -/
def linesOf (vas : List Nat) : List Nat := vas.foldl (fun l va => addNew l (va / lineSize)) []

/-- Translate lines in order (R308). -/
def State.copyLines (s : State) (c : CCRef) (acc : Acc) : List Nat → State × Except CopyStop (List (Nat × Place))
  | [] => (s, .ok [])
  | l :: ls =>
    if s.walkCut c.ctxRef c.core (l * lineSize) then (s, .error .wait) else
    let r := s.translate c.ctxRef c.core (l * lineSize) acc
    match r.2 with
    | .error m => (r.1, .error (.fault m (l * lineSize)))
    | .ok loc =>
      let q := State.copyLines r.1 c acc ls
      match q.2 with
      | .error e => (q.1, .error e)
      | .ok m => (q.1, .ok ((l, loc) :: m))

def placeOf (m : List (Nat × Place)) (va : Nat) : Place :=
  match m.find? fun e => e.1 == va / lineSize with
  | some e => e.2.plus (va % lineSize)
  | none => .scr 0 0

/-- What reads of lines give: their bytes, and the completion times folded. -/
structure LineReads where
  lines : List (Nat × List Byte)
  ct    : DWord

def LineReads.byte (r : LineReads) (va : Nat) : Byte :=
  match r.lines.find? fun e => e.1 == va / lineSize with
  | some e => e.2.getD (va % lineSize) 0
  | none => 0

def State.readLines (s : State) (c : CCRef) (ch : Nat → BitVec 2) (ct : DWord) : List (Nat × Place) → State × LineReads
  | [] => (s, ⟨[], ct⟩)
  | (l, loc) :: m =>
    let q := (s.l2Use c.ctxRef loc (ch l) true).homeBytes c.part loc lineSize
    let bs := (q.1.core c.coreRef).coverlay loc q.2
    let r := (q.1.usedOnce c.part loc).readLines c ch (dmax ct (q.1.line (loc.lineNo c.part)).carried) m
    (r.1, ⟨(l, bs) :: r.2.lines, r.2.ct⟩)

/-- Whether some lines can be in their L2 now (R241). -/
def State.linesFit (s : State) (c : CCRef) (ch : Nat → BitVec 2) : List (Nat × Place) → State × Bool
  | [] => (s, true)
  | (l, loc) :: m =>
    let q := s.l2Ready c.ctxRef loc (ch l) true
    if q.2 then q.1.linesFit c ch m else (q.1, false)

/-- Read what some addresses need: translated, not poisoned, and held at their homes; `ch` is the hint of a line (R95, R242, R300, R308). -/
def State.copyRead (s : State) (c : CCRef) (ch : Nat → BitVec 2) (vas : List Nat) : State × Except CopyStop LineReads :=
  let t := s.copyLines c .copyRead (linesOf vas)
  match t.2 with
  | .error e => (t.1, .error e)
  | .ok m =>
    match vas.find? fun va => t.1.homeBad c.part (placeOf m va) 1 with
    | some va => (t.1, .error (.poison (placeOf m va).addr))
    | none =>
      if m.any fun e => !t.1.homeReaches c.coreRef e.2 then (t.1, .error .wait)
      else if m.all fun e => t.1.homeReady c.part e.2 lineSize then
        let f := t.1.linesFit c ch m
        if !f.2 then (f.1, .error .wait)
        else
          let r := f.1.readLines c ch 0 m
          (r.1, .ok r.2)
      else (m.foldl (fun s e => s.askPool c.ctxRef e.2 lineSize) t.1, .error .wait)

/-! ### TCOPY (R301) -/

/-- Where one element comes from: none for padding; its byte addresses, whether it is the high half of a byte, its scale's bytes. -/
structure ElemSrc where
  vas   : List Nat
  high  : Bool
  scale : List Nat

def State.elemSrc (s : State) (c : CCRef) (cp : Copy) (i j : Nat) : Option ElemSrc :=
  let d := cp.desc
  let si := if dTrn d then j else i
  let sj := if dTrn d then i else j
  if dRows d ≤ si ∨ dCols d ≤ sj then none
  else
    let w := fmtBits (dFmt d)
    let ea := dGaddr d + si * dGstride d + sj * w / 8
    let bs := if dScm d = 1 then 16 else 32
    let sb := (scaleBytes (dSfmt d)).getD 1
    let sea := dSaddr d + (si * ((dCols d + bs - 1) / bs) + sj / bs) * sb
    some {
      vas := (List.range (max 1 (w / 8))).map fun k => s.copyVa c cp (ea + k)
      high := w == 4 && sj % 2 == 1
      scale := if dScm d = 0 then [] else (List.range sb).map fun k => s.copyVa c cp (sea + k) }

/-- The hint of a line that the array of a copy, its scales, or both touch (R95, R241). -/
def Copy.lineHint (cp : Copy) (arr scales : List Nat) (l : Nat) : BitVec 2 :=
  if !scales.contains l then cp.hint (dGaddr cp.desc)
  else if !arr.contains l then cp.hint (dSaddr cp.desc)
  else strongCh (cp.hint (dGaddr cp.desc)) (cp.hint (dSaddr cp.desc))

/-- The value of a scale (R62). -/
def scaleVal (sf code : Nat) : FVal :=
  match sf with
  | 0x07 => e8Val code
  | 0x02 => bf16.val code
  | _ => f32.val code

/-- One cell element and SAT. -/
def elemCell (cp : Copy) (r : LineReads) (e : Option ElemSrc) : Nat × Bool :=
  match e with
  | none => (0, false)
  | some e =>
    let d := cp.desc
    let raw := leNat (e.vas.map r.byte)
    let code := if fmtBits (dFmt d) = 4 then (if e.high then raw / 16 else raw % 16) else raw
    let k := if wideFmt (dFmt d) then f32 else bf16
    match storeOf (dFmt d) with
    | none => (0, false)
    | some t =>
      if e.scale.isEmpty then (expandPlain k (t.val code), false)
      else expandScaled k (t.val code) (scaleVal (dSfmt d) (leNat (e.scale.map r.byte)))

/-- The logical elements of a granule of a tile. -/
def granuleElems (cp : Copy) (pos n : Nat) : List (Nat × Nat) :=
  let es := cp.cb / 256
  (List.range (n / es)).map fun k =>
    let e := logicalElem (dTC cp.desc) cp.cb (pos + k * es)
    (e.1, e.2.1)

/-- What a granule of a copy carries: its bytes, whether it saturated, and the completion time of what it read. -/
structure Granule where
  bytes : List Byte
  sat   : Bool
  ct    : DWord

def State.tcopyGranule (s : State) (c : CCRef) (cp : Copy) (pos n : Nat) : State × Except CopyStop Granule :=
  if (s.core c.coreRef).budgetHeld then (s, .error .wait)
  else if dRaw cp.desc then
    let vas := (List.range n).map fun i => s.copyVa c cp (rawEa cp.desc (pos + i))
    let r := s.copyRead c (fun _ => cp.hint (dGaddr cp.desc)) vas
    match r.2 with
    | .error e => (r.1, .error e)
    | .ok q => (r.1.count c.coreRef n, .ok ⟨vas.map q.byte, false, q.ct⟩)
  else
    let es := (granuleElems cp pos n).map fun e => s.elemSrc c cp e.1 e.2
    let es' := es.filterMap id
    let r := s.copyRead c (cp.lineHint (linesOf (es'.flatMap (·.vas))) (linesOf (es'.flatMap (·.scale)))) (es'.flatMap fun e => e.vas ++ e.scale)
    match r.2 with
    | .error e => (r.1, .error e)
    | .ok q =>
      let cells := es.map (elemCell cp q)
      (r.1.count c.coreRef n, .ok ⟨cells.flatMap fun x => leBytes x.1 (cp.cb / 256), cells.any (·.2), q.ct⟩)

/-! ### Scratchpad sources (R300, R302, R303) -/

/-- Read elements of the executing core's scratchpad, their bytes as numbers. -/
def State.scrElems (s : State) (c : CCRef) (es : Nat) : List Nat → State × List Nat
  | [] => (s, [])
  | off :: offs =>
    let q := s.scrRead c off es
    let r := q.1.scrElems c es offs
    (r.1, leNat q.2 :: r.2)

/-- Wake the banks of some elements; whether all of them are full. -/
def State.copyAwake (s : State) (c : CCRef) (es : Nat) (offs : List Nat) : State × Bool :=
  offs.foldl (fun r off => let q := r.1.bankAwake c off es; (q.1, r.2 && q.2)) (s, true)

/-- Read the elements of a granule from the executing core's scratchpad: a dead bank stops the copy, else a poisoned word does (R300), and a bank
that is not full is waited for (R254). -/
def State.copyScr (s : State) (c : CCRef) (es : Nat) (offs : List Nat) : State × Except CopyStop (List Nat) :=
  if offs.any fun off => s.scrDead c off es then (s, .error .dead)
  else
    match offs.find? fun off => s.scrPoisoned c off es with
    | some off => (s, .error (.poison (localEa c.core (BitVec.ofNat 32 off)).toNat))
    | none =>
      let w := s.copyAwake c es offs
      if !w.2 then (w.1, .error .wait)
      else
        let q := s.scrElems c es offs
        (q.1, .ok q.2)

def State.tcopysGranule (s : State) (c : CCRef) (cp : Copy) (pos n : Nat) : State × Except CopyStop Granule :=
  let src := fun l => if dRaw cp.desc then bitsOf (dPlace1 cp.desc) 21 0 + l else placeLogical (dPlace1 cp.desc) (dTC cp.desc) cp.cb l
  let r := s.copyScr c 1 ((List.range n).map fun i => src (pos + i))
  match r.2 with
  | .error e => (r.1, .error e)
  | .ok vs => (r.1, .ok ⟨vs.map (BitVec.ofNat 8), false, 0⟩)

/-- The value of a tile element read as CELL (R302). -/
def cellVal (cell code : Nat) : FVal :=
  match cell with
  | 0 => bf16.val code
  | 1 => f32.val code
  | _ => let v := signExt code 32; .fin (decide (v < 0)) v.natAbs 0

/-- The storage format of a TSTORE, .i32 included (R59). -/
def storeTo (fmt : Nat) : Store := if fmt = 0x08 then .int 32 true else (storeOf fmt).getD (.int 8 true)

/-- Codes of w bits as bytes, the low nibble first. -/
def packCodes (w : Nat) : List Nat → List Byte
  | [] => []
  | [a] => if w = 4 then [BitVec.ofNat 8 (a % 16)] else leBytes a (w / 8)
  | a :: b :: l =>
    if w = 4 then BitVec.ofNat 8 (a % 16 + 16 * (b % 16)) :: packCodes w l else leBytes a (w / 8) ++ packCodes w (b :: l)

/-- The bytes of a TSTORE granule and whether one saturated. -/
def State.tstoreBytes (s : State) (c : CCRef) (cp : Copy) (pos n : Nat) : State × Except CopyStop Granule :=
  let d := cp.desc
  if dRaw d then
    let r := s.copyScr c 1 ((List.range n).map fun i => bitsOf (dPlace0 d) 21 0 + (pos + i))
    match r.2 with
    | .error e => (r.1, .error e)
    | .ok vs => (r.1, .ok ⟨vs.map (BitVec.ofNat 8), false, 0⟩)
  else
    let w := fmtBits (dFmt d)
    let si := pos / cp.rowBytes
    let j0 := pos % cp.rowBytes * 8 / w
    let offs := (List.range (n * 8 / w)).map fun k => placeAt (dPlace0 d) (dTC d) cp.cb si (j0 + k)
    let r := s.copyScr c (cp.cb / 256) offs
    match r.2 with
    | .error e => (r.1, .error e)
    | .ok vs =>
      let ns := vs.map fun v => narrow (storeTo (dFmt d)) (rmOf (dRm d)) (cellVal (dCell d) v)
      (r.1, .ok ⟨packCodes w (ns.map (·.code)), ns.any (·.sat), 0⟩)

/-- Whether the homes of some lines can take stores at some addresses in them now (R225, R227). -/
def State.linesReady (s : State) (c : CCRef) (vas : List Nat) : List (Nat × Place) → State × Bool
  | [] => (s, true)
  | (l, loc) :: m =>
    let q := s.storeReady c.ctxRef loc ((List.range lineSize).map fun i => vas.contains (l * lineSize + i))
    if !s.homeReaches c.coreRef loc || !q.2 then (q.1, false) else q.1.linesReady c vas m

/-- Bytes at some addresses stored at their homes, one store a line, and the latest WCT (R229, R242). -/
def State.storeLines (s : State) (c : CCRef) (no : Nat) (bs : List (Nat × Byte)) (ct : DWord) : List (Nat × Place) → State × DWord
  | [] => (s, ct)
  | (l, loc) :: m =>
    let at' := fun i => (bs.find? fun b => b.1 == l * lineSize + i).map (·.2)
    let w := s.homeStoreNo c.part loc ((List.range lineSize).map fun i => (at' i).getD 0) ((List.range lineSize).map fun i => (at' i).isSome) no
    w.1.storeLines c no bs (dmax ct w.2) m

def State.tstoreGranule (s : State) (c : CCRef) (cp : Copy) (pos n : Nat) : State × Except CopyStop Granule :=
  if (s.core c.coreRef).budgetHeld then (s, .error .wait)
  else
    let g := s.tstoreBytes c cp pos n
    match g.2 with
    | .error e => (g.1, .error e)
    | .ok q =>
      let vas := (List.range n).map fun i => s.copyVa c cp (storeEa cp (pos + i))
      let t := g.1.copyLines c .copyWrite (linesOf vas)
      match t.2 with
      | .error e => (t.1, .error e)
      | .ok m =>
        let p := t.1.linesReady c vas m
        if !p.2 then (p.1, .error .wait)
        else
          let s := m.foldl (fun s e => s.l2Use c.ctxRef e.2 (cp.hint (dGaddr cp.desc)) false) p.1
          let w := (s.count c.coreRef n).storeLines c cp.since (vas.zip q.bytes) 0 m
          (w.1, .ok { q with ct := w.2 })

/-! ### Delivery and completion (R303 to R306, R310) -/

def Chan.least (k : Chan) (n : Nat) : Nat := (List.range n).foldl (fun a d => min a (k.pos d)) (k.pos 0)

/-- The notes made since an instant are of writes by a channel itself. -/
def State.ownNotes (s : State) (since : Nat) (c : CCRef) (ch : Nat) : State :=
  { s with notes := s.notes.map fun n => if since ≤ n.at' then { n with chan := some (c, ch) } else n }

/-- Bytes of a granule land at every destination that has not had them; at a bank that is no longer granted there they are dropped (R304,
R305, R497). DESIGN CHOICE: log 33. DEDUCED: log 14. -/
def State.landGranule (s : State) (c : CCRef) (ch : Nat) (cp : Copy) (k : Chan) (pos : Nat) (bytes : List Byte) : State :=
  ((List.range cp.dests).foldl (fun s d =>
    match s.copyDest c cp d with
    | some (core, grp) =>
      if decide (pos < k.pos d) || !s.copyGranted c core grp (cp.destOff pos) bytes.length then s
      else
        let cc : CCRef := { c with core := core }
        let q := s.takeSeq cc.coreRef
        q.2.scrLand cc (cp.destOff pos) bytes (stampOf q.1 (k.wp.getD d 0) (copyTag c.core ch))
    | none => s) s).ownNotes s.fresh c ch

/-- The pointers pass a granule; those beyond the last destination follow WP0 (R305). DESIGN CHOICE: log 33. -/
def Chan.pass (k : Chan) (n pos len : Nat) : Chan :=
  let wp := (List.range n).map fun d => if pos < k.pos d then k.wp.getD d 0 else (k.wp.getD d 0 + len) % 2 ^ 32
  { k with wp := wp ++ List.replicate (4 - n) (wp.getD 0 0) }

/-- The bytes of a core's scratchpad, or of memory, that others have written since a copy was queued (R310). -/
def State.foreignBytes (s : State) (c : CCRef) (ch : Nat) (cp : Copy) (core : Option CCRef) : List Nat :=
  (s.notes.filter fun n => n.part == c.part && n.core == core && decide (cp.since ≤ n.at') && n.chan != some (c, ch)).map (·.byte)

/-- The destination bytes of a copy that hold unpredictable values after it: those that others wrote meanwhile (R310), and those that
are source bytes too (R303). DESIGN CHOICE: log 35. -/
def State.spoilCopy (s : State) (c : CCRef) (ch : Nat) (cp : Copy) : State :=
  if cp.kind = .tstore then
    let hit := s.foreignBytes c ch cp none
    if hit.isEmpty then s
    else s.memSpoil c cp ((cp.from' 0).filter fun l => (s.storePlace c cp l).any fun loc => hit.contains (loc.byteNo c.part))
  else
    (List.range cp.dests).foldl (fun s d =>
      match s.copyDest c cp d with
      | some (core, _) =>
        let cc : CCRef := { c with core := core }
        let hit := (s.foreignBytes c ch cp (some cc)).filter fun o => (cp.seqOf o).isSome
        let both := if cp.kind = .tcopys ∧ core = c.core then
            ((List.range cp.total).map cp.destOff).filter fun o => (cp.srcSeqOf o).isSome
          else []
        s.scrSpoil cc (hit ++ both)
      | none => s) s

/-- What a copy that stops leaves in its destination from its pointers on: unpredictable values (R242, R305). -/
def State.spoilRest (s : State) (c : CCRef) (cp : Copy) (k : Chan) : State :=
  if cp.kind = .tstore then s.memSpoil c cp (cp.from' (k.pos 0))
  else
    (List.range cp.dests).foldl (fun s d =>
      match s.copyDest c cp d with
      | some (core, _) => s.scrSpoil { c with core := core } ((cp.from' (k.pos d)).map cp.destOff)
      | none => s) s

/-- Notes that no unfinished copy needs go. -/
def State.settleNotes (s : State) : State :=
  if s.copyOpen (fun _ => true) (fun _ => true) then s else { s with notes := [] }

/-- The head copy is complete (R295, R304). -/
def Chan.finishHead (k : Chan) : Chan :=
  { k with q := k.q.drop 1, st := if (k.q.drop 1).isEmpty then .idle else .busy, started := false }

/-- A channel parks on a line, and the event is sent (R308). -/
def State.chanPark (s : State) (c : CCRef) (ch : Nat) (cp : Copy) (m : Miss) (va : Nat) : State :=
  let htid := ((s.thread? ((c.group cp.grp).thread cp.rank)).map (·.htid)).getD 0
  let kind := if cp.kind = .tstore then Acc.copyWrite.kind else Acc.copyRead.kind
  ((s.modChan c ch fun k => { k with st := .parked, miss := some (m, va) }).faultEvent c.ctxRef c.core htid va ch true kind m)

/-- A channel's next granule. -/
def State.copyGranule (s : State) (c : CCRef) (ch : Nat) (cp : Copy) (k : Chan) : State :=
  let pos := k.least cp.dests
  let n := cp.granule pos
  let r := match cp.kind with
    | .tcopy => s.tcopyGranule c cp pos n
    | .tcopys => s.tcopysGranule c cp pos n
    | .tstore => s.tstoreGranule c cp pos n
  match r.2 with
  | .error .wait => r.1
  | .error (.fault m va) => r.1.chanPark c ch cp m va
  | .error .dead => ((r.1.spoilCopy c ch cp).spoilRest c cp k).chanError c ch 0x09
  | .error (.poison a) =>
    let f := r.1.freeWord
    (((f.2.spoilCopy c ch cp).spoilRest c cp k).mcRecord (some c.part) .memory 1 a f.1.toNat c.ctx (coreUnit c.core)).chanError c ch 0x0A
  | .ok g =>
    let s := if cp.kind = .tstore then r.1.ownNotes s.fresh c ch else r.1.landGranule c ch cp k pos g.bytes
    let k' := { k.pass cp.dests pos n with sat := k.sat || g.sat, ct := dmax k.ct g.ct }
    if k'.least cp.dests < cp.total then (s.modChan c ch fun _ => k').wakeChan c ch
    else ((s.spoilCopy c ch cp).modChan c ch fun _ => k'.finishHead).settleNotes.wakeChan c ch

/-- COPY_GRANULE_DELIVERED (R305). DESIGN CHOICE: log 33. -/
def execCopyGranuleDelivered (c : CoreRef) (ch : BitVec 3) (s : State) : Out State Fault Refusal :=
  let cc := s.heldBy c
  let k := s.chan cc ch.toNat
  match k.q, k.started with
  | cp :: _, true =>
    if !s.ctxRuns cc.ctxRef || k.st != .busy then .next s else .next (s.copyGranule cc ch.toNat cp k)
  | _, _ => .next s

/-- A parked channel retries its line, and resumes if translation passes (R308). -/
def State.chanRetry (s : State) (c : CCRef) (ch : Nat) : State :=
  let k := s.chan c ch
  match k.st, k.miss, k.q with
  | .parked, some (_, va), cp :: _ =>
    if s.walkCut c.ctxRef c.core va then s else
    let r := s.translate c.ctxRef c.core va (if cp.kind = .tstore then .copyWrite else .copyRead)
    match r.2 with
    | .ok _ => r.1.modChan c ch fun k => { k with st := .busy, miss := none }
    | .error m => r.1.chanPark c ch cp m va
  | _, _, _ => s

end Sys2Proof.Machine
end

