-- ==== Sys2Proof/Machine/MemoryEv.lean ====
section
/-! DEFINITION. Memory at the homes: stores and atomics performed, the answers and responses that come back, leases, the write-combining
timeout, and the ends of address waits and sleeps (R228 to R240, R253, R265, R266, R495). An event that is not enabled changes
nothing (log 2). -/
namespace Sys2Proof.Machine
open Sys2Proof

/-! ### At the home -/

/-- Bytes of a masked write land at a scratchpad bank under one write number. -/
def State.scrMask (s : State) (c : CCRef) (off : Nat) (bytes : List Byte) (mask : List Bool) : State :=
  let q := s.takeSeq c.coreRef
  let s := (List.range bytes.length).foldl (fun s i => if mask.getD i false then s.scrLand c (off + i) [bytes.getD i 0] (stampOf q.1 0 0) else s) q.2
  -- a whole word written clears its poison (R495)
  { s with scrPois := s.scrPois.filter fun e => !(e.1 == c && (List.range 8).all fun i => decide (off ≤ 8 * e.2 + i) && mask.getD (8 * e.2 + i - off) false) }

/-- Whether a scratchpad place still belongs to the kernel of the thread whose access arrives there (DEDUCED, log 14). -/
def State.stillGranted (s : State) (t : TRef) (core off : Nat) : Bool :=
  match s.group? t.group with
  | some g => s.scrGranted { part := t.part, ctx := t.ctx, core := core } g.kidx off 1
  | none => false

/-- A store or an atomic performed at a bank of its core (R222, R236, R254, R255). DEDUCED: log 14. DEDUCED: log 28. -/
def State.performBank (s : State) (c : CoreRef) (m : MOp) (core off : Nat) : State :=
  let cc : CCRef := { part := m.thr.part, ctx := m.thr.ctx, core := core }
  let wct := s.coreTime { part := c.part, core := core }
  let first := off + ((List.range m.mask.length).find? fun i => m.mask.getD i false).getD 0
  if !s.homeReaches c m.loc then s
  else if !s.stillGranted m.thr core first then
    let q := s.freeBytes m.size
    q.2.modMop c m.seq fun m => { m with ans := .done wct q.1 }
  else if m.kind = .atomic then
    if s.scrDead cc off m.size && !m.instr.isRed then s.modMop c m.seq fun m => { m with ans := .dead }
    else if !m.instr.isRed && !(s.bankAwake cc off m.size).2 then (s.bankAwake cc off m.size).1
    else if s.scrPoisoned cc off m.size && !m.instr.isRed then s.modMop c m.seq fun m => { m with ans := .failed }
    else
      let q := s.scrRead cc off m.size
      let s := match atomicNew m.instr (bytesWords m.data) (leNat q.2) with
        | some v => q.1.scrWrite cc (if m.thr.core = core then groupTag m.thr.grp else 0) off (leBytes v m.size)
        | none => q.1
      s.modMop c m.seq fun m => { m with ans := .done wct q.2 }
  else (s.scrMask cc off m.data m.mask).modMop c m.seq fun m => { m with ans := .done wct [] }

/-- The scope of the record an operation of memory leaves at the L2: atomics, acquires and releases, but for those performed at a pool
home (R236, R237). -/
def MOp.record (m : MOp) : Option Scope :=
  if m.kind = .atomic ∨ m.kind = .release ∨ m.kind = .acquire then
    match m.instr.recScope with
    | some sc => if m.loc.pooled && sc == .pod && m.kind != .release then none else some sc
    | none => none
  else none

def State.noteScope (s : State) (m : MOp) : State :=
  match m.record with
  | some sc => s.scopeNote (m.loc.lineNo m.thr.part) (m.thr.core, sc, m.thr.ctx)
  | none => s

def State.scopeRefuses (s : State) (m : MOp) : Bool :=
  match m.record with
  | some sc => (s.line (m.loc.lineNo m.thr.part)).refuses m.thr.ctx m.thr.core sc
  | none => false

/-- The 32 bytes of an ATOM packet (R440). DEDUCED: log 17. -/
def atomPayload (i : Instr) (data : List Byte) : List Byte :=
  let w := (encode i).toNat
  let off24 := bitsOf w 76 53
  let b0 := bitsOf off24 23 17 + (if bitsOf w 79 77 % 2 = 1 then 2 ^ 7 else 0)
  let b1 := bitsOf w 79 77 / 2
  let n := match i with | .cas _ ty .. => ty.bytes | _ => data.length
  let lo := leNat (data.take n)
  let hi := match i with | .cas .. => leNat (data.drop n) | _ => 0
  [BitVec.ofNat 8 b0, BitVec.ofNat 8 b1, (match i with | .cas .. => 1 | _ => 0)] ++ List.replicate 5 0 ++ leBytes lo 8 ++ leBytes hi 8
    ++ List.replicate 8 0

/-- An atomic of scope .pod on a pooled line goes to the pool home once the line's dirty bytes have been written back (R236). -/
def State.sendPoolAtomic (s : State) (c : CoreRef) (m : MOp) (line : Nat) : State :=
  let x := m.thr.ctxRef
  let p := s.poolLine x.part line
  if p.req.isSome then s
  else if p.anyDirty then s.writeBack x line [0, 1]
  else
    let r := s.sendAs x Option.none line (m.loc.addr % lineSize) opATOM (atomPayload m.instr m.data) (some (c.core, m.seq)) []
    match r.2 with
    | none => r.1
    | some tag => (r.1.modPool x.part line fun p => { p with req := some tag }).modMop c m.seq fun m => { m with ans := .sent tag }

/-- The own core's L1 follows a write the home has performed: stores change its bytes and give the line their hint, an atomic drops the line (R235
rule 2, R241). -/
def State.followL1 (s : State) (c : CoreRef) (m : MOp) (wct : DWord) : State :=
  let line := m.loc.lineNo c.part
  s.modCore c fun k =>
    if m.kind = .atomic then k.l1Drop line
    else (k.l1Patch line (m.loc.addr % lineSize) m.data m.mask wct).l1Touch line (m.instr.chAt m.ea)

/-- A store or an atomic performed at the home of a line of memory (R229, R236, R237). -/
def State.performMem (s : State) (c : CoreRef) (m : MOp) (evicted : Bool) : State :=
  let x := m.thr.ctxRef
  let s := if evicted then s.l2Drop (m.loc.lineNo x.part) else s
  let ch := m.instr.chAt m.ea
  if !s.homeReaches c m.loc then s
  else if s.scopeRefuses m then s.modMop c m.seq fun m => { m with ans := .refused }
  else if m.kind = .atomic ∧ m.loc.pooled ∧ m.record.isNone then s.sendPoolAtomic c m (m.loc.addr / lineSize)
  else if m.kind = .atomic then
    if !s.homeReady x.part m.loc m.size then s.askPool x m.loc m.size
    else if s.homeBad x.part m.loc m.size && !m.instr.isRed then s.modMop c m.seq fun m => { m with ans := .failed }
    else
      let p := s.storeReady x m.loc (List.replicate m.size true)
      if !p.2 then p.1
      else
        let q := (p.1.l2Use x m.loc ch false).homeBytes x.part m.loc m.size
        let s := q.1.noteScope m
        match atomicNew m.instr (bytesWords m.data) (leNat q.2) with
        | some v =>
          let w := s.homeStore x.part m.loc (leBytes v m.size) (List.replicate m.size true)
          (w.1.followL1 c m w.2).modMop c m.seq fun m => { m with ans := .done w.2 q.2 }
        | none =>
          let lw := (s.line (m.loc.lineNo x.part)).carried
          (s.followL1 c m lw).modMop c m.seq fun m => { m with ans := .done lw q.2 }
  else
    let p := s.storeReady x m.loc m.mask
    if !p.2 then p.1
    else
      let w := ((p.1.l2Use x m.loc ch false).noteScope m).homeStore x.part m.loc m.data m.mask
      (w.1.followL1 c m w.2).modMop c m.seq fun m => { m with ans := .done w.2 [] }

/-- Operations that a home performs on arrival. -/
def MKind.writes : MKind → Bool
  | .store | .release | .atomic | .wc => true
  | _ => false

/-- Whether an older write of the core to the same bytes has still to be performed. -/
def Core.olderWrite (k : Core) (m : MOp) : Bool :=
  (k.mops.takeWhile fun o => o.seq != m.seq).any fun o =>
    o.kind.writes && (match o.ans with | .pending | .sent _ => true | _ => false) && o.loc.overlap o.data.length m.loc m.data.length

/-- STORE_PERFORMED_AT_HOME (R229). -/
def execStorePerformedAtHome (c : CoreRef) (seq : Nat) (evicted : Bool) (s : State) : Out State Fault Refusal :=
  match (s.core c).mop? seq with
  | none => .next s
  | some m =>
    if !m.kind.writes || m.ans != .pending || (s.core c).olderWrite m then .next s
    else
      match m.loc with
      | .scr core off => .next (s.performBank c m core off)
      | .mem .. => .next (s.performMem c m evicted)

/-! ### Answers -/

/-- The WCT of an answer raises WCTMAX of the threads it counts for (R230, R240). -/
def State.raiseFor (s : State) (m : MOp) (w : DWord) : State :=
  (m.thr :: m.contrib).foldl (fun s t => s.modThread t fun x => x.raise w) s

/-- Whether the thread of an operation does not stand waiting for its answer. -/
def MOp.silent (m : MOp) : Bool := m.kind == .store || m.kind == .wc

/-- STORE_ANSWER (R230). -/
def execStoreAnswer (c : CoreRef) (seq : Nat) (s : State) : Out State Fault Refusal :=
  match (s.core c).mop? seq with
  | none => .next s
  | some m =>
    match m.silent, m.ans with
    | true, .done w _ => .next ((s.raiseFor m w).dropMop c seq)
    | _, _ => .next s

/-- The generic address of the line an access lies in, as a SCOPE trap records it (R238). -/
def lineEa (ea : DWord) : DWord := ea &&& ~~~127

/-- An acquire reads at its home now: under the scope record, past every lease (R233, R237). -/
def State.acquireRead (s : State) (c : CoreRef) (m : MOp) : State :=
  let x := m.thr.ctxRef
  let line := m.loc.lineNo x.part
  if (s.core c).budgetHeld || !s.homeReaches c m.loc then s
  else if m.loc.pooled && m.record.isNone then
    -- scope .pod: at the pool home, after the dirty bytes have been written back
    let l := m.loc.addr / lineSize
    if (s.poolLine x.part l).anyDirty then s.writeBack x l [0, 1]
    else
      let r := s.readPool x l (some (c.core, m.seq))
      match r.2 with
      | none => r.1
      | some tag => (r.1.count c sectorSize).modMop c m.seq fun m => { m with ans := .sent tag }
  else if s.scopeRefuses m then s.modMop c m.seq fun m => { m with ans := .refused }
  else if !s.homeReady x.part m.loc m.size then s.askPool x m.loc m.size
  else if s.homeBad x.part m.loc m.size then s.modMop c m.seq fun m => { m with ans := .failed }
  else if !(s.l2Ready x m.loc (m.instr.chAt m.ea) true).2 then (s.l2Ready x m.loc (m.instr.chAt m.ea) true).1
  else
    let s := (s.l2Ready x m.loc (m.instr.chAt m.ea) true).1
    let q := ((s.l2Use x m.loc (m.instr.chAt m.ea) true).noteScope m).homeBytes x.part m.loc m.size
    ((q.1.usedOnce x.part m.loc).count c 64).modMop c m.seq fun m => { m with ans := .done (s.line line).carried q.2 }

/-- What an answered acquire, release or atomic of a thread does to it (R233, R238, R249). -/
def State.answered (s : State) (m : MOp) : State :=
  let t := m.thr
  match m.ans with
  | .pending | .sent _ => s
  | .refused => (s.dropMop t.coreRef m.seq).refuse m .scope (lineEa m.ea)
  | .dead => (s.dropMop t.coreRef m.seq).refuse m .deadscr m.ea
  | .failed =>
    match m.loc with
    | .scr _ off => (s.dropMop t.coreRef m.seq).refuse m .mcheck (BitVec.ofNat 64 off)
    | .mem .. =>
      let s := s.dropMop t.coreRef m.seq
      if m.kind = .acquire then (if m.entry.isNone then s.finish t {} else s).loadPoisoned t m.ea m.instr m.entry
      else if m.entry.isNone then s.finishTrap t .mcheck m.ea
      else s.loadPoisoned t m.ea m.instr m.entry
  | .done w old =>
    let s := s.dropMop t.coreRef m.seq
    match s.thread? t, s.group? t.group with
    | some x, some g =>
      let bs := if m.kind = .acquire then (s.core t.coreRef).overlay m.loc old else old
      -- an acquire at a pool home carries the LWCT there, any other that of the package's home
      let seen := if m.loc.pooled && m.record.isNone then w else (s.line (m.loc.lineNo t.part)).lwct
      let mark := fun y : Thread => match m.kind, m.loc with
        | .acquire, .mem .. => y.loaded (vaOf g t.rank m.ea) seen w
        | _, _ => y.raise w
      let s := if m.kind = .acquire then (s.noteRead t m.loc m.size).modCore t.coreRef fun k => k.l1Drop (m.loc.lineNo t.part) else s
      match m.entry with
      | none => (s.setThread t (mark x)).finish t (loadRes m.instr bs)
      | some e => s.doneNow t x m.instr (some e) (loadRes m.instr bs) mark
    | _, _ => s

/-- ATOMIC_ANSWER (R238): the answer of an atomic, an acquire or a release. -/
def execAtomicAnswer (c : CoreRef) (seq : Nat) (s : State) : Out State Fault Refusal :=
  match (s.core c).mop? seq with
  | none => .next s
  | some m =>
    if m.silent || m.kind == .load || m.kind == .pref || s.returnFull m.thr then .next s
    else if m.kind = .acquire then
      if m.gen != (s.ctx m.thr.ctxRef).gen then .next (s.dropMop c seq)
      else
        match m.loc, m.ans with
        | .scr core off, .pending =>
          let cc : CCRef := { part := c.part, ctx := m.thr.ctx, core := core }
          if !s.homeReaches c m.loc then .next s
          else if s.scrDead cc off m.size then .next ({ m with ans := .dead } |> s.answered)
          else if !(s.bankAwake cc off m.size).2 then .next (s.bankAwake cc off m.size).1
          else if s.scrPoisoned cc off m.size then .next ({ m with ans := .failed } |> s.answered)
          else
            let q := s.scrRead cc off m.size
            .next (q.1.answered { m with ans := .done 0 q.2 })
        | .mem .., .pending =>
          let s' := s.acquireRead c m
          match (s'.core c).mop? seq with
          | some m' => .next (s'.answered m')
          | none => .next s'
        | _, _ => .next (s.answered m)
    else .next (s.answered m)

/-- The bytes of a load's line: an L1 that a lease covers by now gives them; else its home does, and the fill counts (R228, R464). -/
def State.lineBytes (s : State) (c : CCRef) (loc : Place) (ch : BitVec 2) : State × List Byte × DWord × DWord :=
  let line := loc.lineNo c.part
  match (s.core c.coreRef).l1Hit line (s.coreTime c.coreRef) with
  | some l => (s.modCore c.coreRef fun k => k.l1Touch line ch, l.bytes, l.lwct, dmax l.lwct l.pwct)
  | none =>
    let h := s.line line
    let q := s.fillLine c loc ch
    let filled := (q.1.core c.coreRef).l1.any fun l => l.line == line
    ((q.1.usedOnce c.part loc).count c.coreRef (if filled then lineSize else sectorSize), q.2, h.lwct, h.carried)

/-- The bytes of a load beside which its line holds an error: they fill no L1 (R495). -/
def State.badLineBytes (s : State) (c : CCRef) (loc : Place) : State × List Byte × DWord × DWord :=
  let h := s.line (loc.lineNo c.part)
  let q := s.homeBytes c.part loc.lineBase lineSize
  (((q.1.usedOnce c.part loc).count c.coreRef sectorSize).modCore c.coreRef fun k => k.l1Drop (loc.lineNo c.part), q.2, h.lwct, h.carried)

/-- A load of memory returns (R228, R230, R235, R464). DESIGN CHOICE: log 48. -/
def State.loadReturns (s : State) (c : CoreRef) (m : MOp) : State :=
  let x := m.thr.ctxRef
  let cc := m.thr.ccRef
  let ch := m.instr.chAt m.ea
  if (s.core c).budgetHeld || !s.homeReaches c m.loc then s
  else if !s.homeReady x.part m.loc.lineBase lineSize then s.askPool x m.loc.lineBase lineSize
  else if s.homeBad x.part m.loc m.size || ((s.core c).l1Hit (m.loc.lineNo x.part) (s.coreTime c)).any fun l => l.bad (m.loc.addr % lineSize) m.size then
    let s := s.dropMop c m.seq
    if m.kind = .pref then s else s.loadPoisoned m.thr m.ea m.instr m.entry
  else if !(s.l2Ready x m.loc ch true).2 then (s.l2Ready x m.loc ch true).1
  else
    let s := (s.l2Ready x m.loc ch true).1
    if m.instr.prefL2 then (s.l2Use x m.loc ch true).dropMop c m.seq
    else
      let q := if s.homeBad x.part m.loc.lineBase lineSize then s.badLineBytes cc m.loc else s.lineBytes cc m.loc ch
      let s := q.1.dropMop c m.seq
      if m.kind = .pref then s
      else
        let bs := (s.core c).overlay m.loc ((q.2.1.drop (m.loc.addr % lineSize)).take m.size)
        let s := s.noteRead m.thr m.loc m.size
        match s.thread? m.thr, s.group? m.thr.group with
        | some y, some g =>
          let mark := fun y : Thread => y.loaded (vaOf g m.thr.rank m.ea) q.2.2.1 q.2.2.2
          match m.entry with
          | none => s.retireLate m.thr m.instr (loadRes m.instr bs) mark
          | some e => s.doneNow m.thr y m.instr (some e) (loadRes m.instr bs) mark
        | _, _ => s

/-- LOAD_RESPONSE (R235, R253, R426). DESIGN CHOICE: log 48. -/
def execLoadResponse (c : CoreRef) (seq : Nat) (s : State) : Out State Fault Refusal :=
  match (s.core c).mop? seq with
  | none => .next s
  | some m =>
    if (m.kind != .load && m.kind != .pref) || s.returnFull m.thr then .next s
    else if m.gen != (s.ctx m.thr.ctxRef).gen then .next (s.dropMop c seq)
    else
      match m.loc with
      | .mem .. => .next (s.loadReturns c m)
      | .scr core off =>
        let cc : CCRef := { part := c.part, ctx := m.thr.ctx, core := core }
        let s' := s.dropMop c seq
        if !s.homeReaches c m.loc then .next s
        else if s.scrDead cc off m.size then .next (s'.finishTrap m.thr .deadscr m.ea)
        else if !(s.bankAwake cc off m.size).2 then .next (s.bankAwake cc off m.size).1
        else if s.scrPoisoned cc off m.size then .next (s'.finishTrap m.thr .mcheck (BitVec.ofNat 64 off))
        else
          let q := s'.scrRead cc off m.size
          .next ((q.1.noteRead m.thr m.loc m.size).finish m.thr (loadRes m.instr ((q.1.core c).overlay m.loc q.2)))

/-- LEASE_EXPIRY (R228): a line whose lease has run out is no longer held. DESIGN CHOICE: log 2. -/
def execLeaseExpiry (c : CoreRef) (line : Nat) (s : State) : Out State Fault Refusal :=
  let now := s.coreTime c
  .next (s.modCore c fun k => { k with l1 := k.l1.filter fun l => !(l.line == line && decide (l.lexp.toNat ≤ now.toNat)) })

/-- WC_ENTRY_TIMEOUT (R240): 32,000 ticks after the entry's first write. -/
def execWcEntryTimeout (c : CoreRef) (id : Nat) (s : State) : Out State Fault Refusal :=
  .next (s.drainWhere c (fun w => w.id == id && decide (w.first.toNat + 32000 ≤ s.time.gtime.toNat)) none)

/-! ### The ends of waits -/

/-- WAITADDR_WAKE (R266). -/
def execWaitaddrWake (t : TRef) (s : State) : Out State Fault Refusal :=
  match s.thread? t with
  | none => .next s
  | some x =>
    match s.rehome t x.ph with
    | .address ea line l0 n =>
      if s.ctxRuns t.ctxRef && x.st == .wait && !s.returnFull t then
        .next (if s.waitOver line n then s.finishTimed t else s.setThread t { x with ph := .address ea line l0 n })
      else .next s
    | _ => .next s

/-- WAITADDR_DEADLINE (R265). -/
def execWaitaddrDeadline (t : TRef) (s : State) : Out State Fault Refusal :=
  match s.thread? t with
  | none => .next s
  | some x =>
    match x.ph with
    | .address .. => if s.ctxRuns t.ctxRef && x.st == .wait && s.deadlineDue t x then .next (s.finishTimed t) else .next s
    | _ => .next s

/-- SLEEP_DEADLINE (R144). -/
def execSleepDeadline (t : TRef) (s : State) : Out State Fault Refusal :=
  match s.thread? t with
  | none => .next s
  | some x =>
    match x.ph with
    | .sleep => if s.ctxRuns t.ctxRef && x.st == .wait && s.deadlineDue t x then .next (s.finishTimed t) else .next s
    | _ => .next s

end Sys2Proof.Machine
end

