-- ==== Sys2Proof/Machine/Signal.lean ====
section
/-! DEFINITION. Signals and group swaps (16_kernel.md R364 to R367): SIGNAL, SIGWAIT, GSWAP, and the ends of signal waits. -/
namespace Sys2Proof.Machine
open Sys2Proof

/-- Issue an access that lies only in the global and private windows (R364). -/
def accessGlob (s : State) (i : Instr) : Out State Fault Refusal :=
  issue s i fun t x g =>
    match reqOf t.core x i with
    | none => .next s
    | some r =>
      if s.slotBusy t x then .next (s.hold t)
      else
        match s.window t g r.ea r.size with
        | .ok (.glob _) => .next (s.accessRun t x g i r)
        | _ => .next (s.precise t x .badwin (pcWord x.pc) r.ea 0)

/-- SIGNAL_SET (R364). -/
def execSignalSet (h : Hints) (a : VReg) (b : Src) (s : State) : Out State Fault Refusal := accessGlob s (.signalSet h a b)

/-- SIGNAL_ADD (R364). -/
def execSignalAdd (h : Hints) (a : VReg) (b : Src) (s : State) : Out State Fault Refusal := accessGlob s (.signalAdd h a b)

/-! ### Reading a signal (R365) -/

/-- What a read of a signal at its home gives. -/
inductive SigRead where
  | wait
  | refused
  | bad
  | val (v : Nat) (wct : DWord)

/-- Read a signal at its home for a thread: an acquire of scope .pkg, with a scope record (R233, R237). -/
def State.sigRead (s : State) (t : TRef) (loc : Place) : State × SigRead :=
  let c := t.ccRef
  let line := loc.lineNo c.part
  let r := s.l2Ready c.ctxRef loc 0 true
  if (s.core c.coreRef).budgetHeld || !s.homeReaches c.coreRef loc then (s, .wait)
  else if (s.line line).refuses c.ctx c.core .pkg then (s, .refused)
  else if !s.homeReady c.part loc 4 then (s.askPool c.ctxRef loc 4, .wait)
  else if s.homeBad c.part loc 4 then (s, .bad)
  else if !r.2 then (r.1, .wait)
  else
    let s := (r.1.l2Use c.ctxRef loc 0 true).scopeNote line (c.core, .pkg, c.ctx)
    let q := s.homeBytes c.part loc 4
    let bs := (q.1.core c.coreRef).overlay loc q.2
    ((((q.1.noteRead t loc 4).usedOnce c.part loc).count c.coreRef 64).modCore c.coreRef fun k => k.l1Drop line, .val (leNat bs) (s.line line).carried)

/-- A comparison at a thread's signal is awaited: at every write performed at the home of its line, and by a read where one is due. -/
def State.watchSig (s : State) (w : SigWatch) : State := { s with sigs := s.sigs ++ [w] }

def State.setWatch (s : State) (w : SigWatch) : State := { s with sigs := s.sigs.map fun v => if v.thr = w.thr then w else v }

/-- The comparisons of some threads are awaited no more. -/
def State.unwatch (s : State) (p : TRef → Bool) : State := { s with sigs := s.sigs.filter fun w => !p w.thr }

/-- What an awaited comparison has come to. The read that a write's comparison has made is an acquire of scope .pkg for its thread; a comparison that is due
reads the signal at its home now (R365). DEDUCED: log 18. -/
def State.sigOutcome (s : State) (w : SigWatch) : State × SigRead :=
  let c := w.thr.ccRef
  match w.hit, w.loc with
  | some (bad, wct), some loc =>
    if bad then (s.setWatch { w with hit := none, due := true }, .bad)
    else if (s.line (loc.lineNo c.part)).refuses c.ctx c.core .pkg then (s.setWatch { w with hit := none, due := true }, .refused)
    else
      let s := (s.l2Use c.ctxRef loc 0 true).scopeNote (loc.lineNo c.part) (c.core, .pkg, c.ctx)
      (s.modCore c.coreRef fun k => k.l1Drop (loc.lineNo c.part), .val 0 wct)
  | _, _ =>
    if !w.due || s.walkCut c.ctxRef c.core w.va then (s, .wait)
    else
      let r := s.translate c.ctxRef c.core w.va .read
      match r.2 with
      | .error _ => (r.1, .wait)
      | .ok loc =>
        let q := r.1.sigRead w.thr loc
        match q.2 with
        | .val v wct =>
          if sigHolds w.cmp v w.b then (q.1.setWatch { w with loc := some loc, due := false, hit := some (false, wct) }, .val v wct)
          else (q.1.setWatch { w with loc := some loc, due := false }, .wait)
        | r => (q.1, r)

/-- Comparison and operand of a SIGWAIT or a GSWAP. -/
def sigCmp : Instr → Cmp
  | .sigwait _ c .. => c
  | .gswap _ c .. => c
  | _ => .eq

/-! ### Swap arrivals (R366, R367) -/

/-- The latch of a thread's group, or of its gang where that has more than one group. -/
def State.swapLatch (s : State) (t : TRef) (g : Group) : Option SwapLatch :=
  if g.gangN ≤ 1 then g.latch else (s.gang? (g.gangRef t.group)).bind (·.latch)

def State.setLatch (s : State) (g : GRef) (l : Option SwapLatch) : State :=
  match s.group? g with
  | none => s
  | some y =>
    if y.gangN ≤ 1 then s.setGroup g { y with latch := l } else s.modGang (y.gangRef g) fun k => { k with latch := l }

/-- The groups that swap together with one. -/
def State.swapGroups (s : State) (g : GRef) : List GRef :=
  match s.group? g with
  | none => []
  | some y =>
    if y.gangN ≤ 1 then [g]
    else match s.gang? (y.gangRef g) with
      | some k => (k.cores.zip k.grps).map fun e => { part := g.part, ctx := g.ctx, core := e.1, grp := e.2 }
      | none => [g]

def Phase.isSwap : Phase → Bool
  | .swapArr .. => true
  | _ => false

/-- The swap arrivals of a set of groups. -/
def State.arrivals (s : State) (gs : List GRef) : List TRef :=
  (s.threads.filter fun e => gs.contains e.1.group && e.2.ph.isSwap).map (·.1)

/-- The condition of a swap holds: every arrival retires, and the latch is cleared (R366). -/
def State.releaseSwap (s : State) (g : GRef) (w : DWord) : State :=
  let gs := s.swapGroups g
  let s := (s.setLatch g none).unwatch fun t => gs.contains t.group
  (s.arrivals gs).foldl (fun s t => (s.modThread t fun x => x.raise w).finish t {}) s

/-- A GSWAP whose condition does not hold arrives, or traps MISMATCH. -/
def State.swapArrive (s : State) (t : TRef) (x : Thread) (g : Group) (i : Instr) (r : Req) (w : SigWatch) : State :=
  let l : SwapLatch := { ea := r.ea, cmp := sigCmp i, b := r.data.headD 0 }
  match s.swapLatch t g with
  | some l' => if l = l' then (s.watchSig w).await t x i (.swapArr l.ea l.cmp l.b) none else s.trapHere t x .mismatch
  | none => ((s.setLatch t.group (some l)).watchSig w).await t x i (.swapArr l.ea l.cmp l.b) none

/-- A SIGWAIT or GSWAP whose address has been translated. -/
def State.sigTest (s : State) (t : TRef) (x : Thread) (g : Group) (i : Instr) (r : Req) (loc : Place) (va : Nat) : State :=
  let q := s.sigRead t loc
  match q.2 with
  | .wait => q.1.hold t
  | .refused => q.1.precise t x .scope (pcWord x.pc) (lineEa r.ea) 0
  | .bad => q.1.precise t x .mcheck (pcWord x.pc) r.ea 0
  | .val v w =>
    if sigHolds (sigCmp i) v (r.data.headD 0) then q.1.retire t (x.raise w) i.hints {}
    else
      let w : SigWatch := { thr := t, va := va, loc := some loc, cmp := sigCmp i, b := r.data.headD 0, due := false, hit := none }
      match i with
      | .gswap .. => q.1.swapArrive t x g i r w
      | _ => (q.1.watchSig w).await t x i (.signal r.ea (sigCmp i) (r.data.headD 0)) none

/-- Issue of SIGWAIT and GSWAP (R365, R366). -/
def sigIssue (s : State) (i : Instr) : Out State Fault Refusal :=
  issue s i fun t x g =>
    match reqOf t.core x i with
    | none => .next s
    | some r =>
      if s.slotBusy t x || s.unretired t then .next (s.hold t)
      else
        match s.window t g r.ea 4 with
        | .ok (.glob va) =>
          if r.ea.toNat % 4 ≠ 0 then .next (s.precise t x .align (pcWord x.pc) r.ea 0)
          else
            match s.probe t x g i va r.acc with
            | .hold => .next (s.hold t)
            | .walk => .next (s.startWalk t x i va)
            | .park m => .next (s.park t x i r va m)
            | .place loc => .next (s.sigTest t x g i r loc va)
        | _ => .next (s.precise t x .badwin (pcWord x.pc) r.ea 0)

/-- SIGWAIT (R365). -/
def execSigwait (h : Hints) (cmp : Cmp) (a : VReg) (b : Src) (s : State) : Out State Fault Refusal := sigIssue s (.sigwait h cmp a b)

/-- GSWAP (R366). -/
def execGswap (h : Hints) (cmp : Cmp) (a : VReg) (b : Src) (s : State) : Out State Fault Refusal := sigIssue s (.gswap h cmp a b)

/-! ### The end of a wait (R360, R365, R366) -/

/-- The awaited comparison of a thread has been met, or is made by a read. -/
def State.sigAgain (s : State) (t : TRef) (ea : DWord) (swap : Bool) : State :=
  match s.sigs.find? fun w => w.thr == t with
  | none => s
  | some w =>
    let q := s.sigOutcome w
    match q.2 with
    | .wait => q.1
    | .refused => (q.1.unwatch (· == t)).finishTrap t .scope (lineEa ea)
    | .bad => (q.1.unwatch (· == t)).finishTrap t .mcheck ea
    | .val _ wct =>
      if swap then q.1.releaseSwap t.group wct
      else ((q.1.unwatch (· == t)).modThread t fun x => x.raise wct).finish t {}

/-- SIGNAL_WAIT_WAKE (R365): a write has met the comparison of a waiting thread, or it is made by a read; a WPOP that waits for its turn tries again. -/
def execSignalWaitWake (t : TRef) (s : State) : Out State Fault Refusal :=
  match s.thread? t, s.group? t.group with
  | some x, some g =>
    if !s.ctxRuns t.ctxRef || x.st != .wait then .next s
    else
      match x.ph with
      | .signal ea .. => .next (s.sigAgain t ea false)
      | .swapArr ea .. => .next (s.sigAgain t ea true)
      | .pop _ => .next ((s.servePops (g.kref t.group) (s.popWaiters (g.kref t.group)).length).servePushes (g.kref t.group))
      | _ => .next s
  | _, _ => .next s

end Sys2Proof.Machine
end

