-- ==== Sys2Proof/Machine/Control.lean ====
section
/-! DEFINITION. Control transfer, rejoin, sleep and software traps (06_control.md R139 to R148). EXIT is in Exit. -/
namespace Sys2Proof.Machine
open Sys2Proof

/-- A relative target (R80). -/
def relTarget (pc : Pc) (off : Word) : Pc := pc + 12 * off.signExtend 56

/-- A register target with an offset in words (R139). -/
def regTarget (base : DWord) (off : Word) : DWord := base + 12 * off.signExtend 64

/-- Check of R139: the trap a register-supplied target takes. -/
def targetTrap (t : DWord) : Option Cause :=
  if bitsOf t.toNat 1 0 ≠ 0 then some .align
  else if bitsOf t.toNat 63 56 ≠ 0 then some .badwin
  else none

/-- Link of R139: the address of the next word, in a pair. -/
def linkRes (d : VReg) (pc target : Pc) : Res :=
  { dRes d (pcWord (pc + 12)) with pc := some target }

/-- CheckEnter, the link and the transfer of CALL and CALLX (R139, R140). DEDUCED: log 32. -/
def State.enterCall (s : State) (t : TRef) (x : Thread) (g : Group) (h : Hints) (d : VReg) (target : Pc) : State :=
  let r := s.fetchWord t target.toNat
  match r.2 with
  | .word w =>
    match enterOf w with
    | none => r.1.trapHere t x .badtarget
    | some n => if g.w < n then r.1.trapHere t x .budget else r.1.retire t x h (linkRes d x.pc target)
  | .park m va => r.1.fetchPark t m va true
  | .poison => r.1.precise t x .mcheck (pcWord x.pc) (pcWord target) 0
  | .wait => r.1.hold t

/-- NOP (R143). -/
def execNop (h : Hints) (s : State) : Out State Fault Refusal := compute s (.nop h) fun _ => {}

/-- BRA (R139). -/
def execBra (h : Hints) (off : Word) (s : State) : Out State Fault Refusal :=
  compute s (.bra h off) fun x => { pc := some (relTarget x.pc off) }

/-- BRX (R139). -/
def execBrx (h : Hints) (a : VReg) (off : Word) (s : State) : Out State Fault Refusal :=
  issue s (.brx h a off) fun t x _ =>
    let v := regTarget (x.rdPair a) off
    match targetTrap v with
    | some c => .next (s.trapHere t x c)
    | none => .next (s.retire t x h { pc := some (v.setWidth 56) })

/-- CALL (R139, R140). -/
def execCall (h : Hints) (d : VReg) (off : Word) (s : State) : Out State Fault Refusal :=
  issue s (.call h d off) fun t x g => .next (s.enterCall t x g h d (relTarget x.pc off))

/-- CALLX (R139, R140). -/
def execCallx (h : Hints) (d a : VReg) (off : Word) (s : State) : Out State Fault Refusal :=
  issue s (.callx h d a off) fun t x g =>
    let v := regTarget (x.rdPair a) off
    match targetTrap v with
    | some c => .next (s.trapHere t x c)
    | none => .next (s.enterCall t x g h d (v.setWidth 56))

/-- RET (R139). -/
def execRet (h : Hints) (a : VReg) (s : State) : Out State Fault Refusal :=
  issue s (.ret h a) fun t x _ =>
    match targetTrap (x.rdPair a) with
    | some c => .next (s.trapHere t x c)
    | none => .next (s.retire t x h { pc := some ((x.rdPair a).setWidth 56) })

/-- JENROL (R146). -/
def execJenrol (h : Hints) (jb : BitVec 4) (s : State) : Out State Fault Refusal :=
  issue s (.jenrol h jb) fun t x _ => .next ((s.retire t (x.enrol jb) h {}).rejoinCheck t.group jb)

/-- JWAIT (R146). -/
def execJwait (h : Hints) (jb : BitVec 4) (s : State) : Out State Fault Refusal :=
  issue s (.jwait h jb) fun t x _ =>
    if x.enrolled jb then
      .next ((s.await t (x.arrive jb) (.jwait h jb) (.rejoin jb.toNat) none).rejoinCheck t.group jb)
    else .next (s.retire t x h {})

/-- JDROP (R146). -/
def execJdrop (h : Hints) (jb : BitVec 4) (s : State) : Out State Fault Refusal :=
  issue s (.jdrop h jb) fun t x _ => .next ((s.retire t (x.withdraw jb) h {}).rejoinCheck t.group jb)

/-- The word of a rejoin barrier without its top bits: ARR [27:16], ENR [11:0] (R148, R408). -/
def State.rejoinWord (s : State) (g : GRef) (jb : BitVec 4) : Nat :=
  ((s.groupThreads g).filter fun p => p.2.arrived jb).length * 2 ^ 16 + ((s.groupThreads g).filter fun p => p.2.enrolled jb).length

/-- JSTAT (R148). -/
def execJstat (h : Hints) (d : VReg) (jb : BitVec 4) (s : State) : Out State Fault Refusal :=
  issue s (.jstat h d jb) fun t x _ =>
    .next (s.retire t x h (vRes d (BitVec.ofNat 32 ((if x.enrolled jb then 2 ^ 31 else 0) + s.rejoinWord t.group jb))))

/-- SLEEP (R144). A thread that a restore has found past its deadline is READY at its SLEEP with that deadline, and goes on. -/
def execSleep (h : Hints) (a : Option VReg) (imm : Word) (s : State) : Out State Fault Refusal :=
  issue s (.sleep h a imm) fun t x _ =>
    let d := min (imm.toNat + (match a with | some r => (x.rd r).toNat | none => 0)) (2 ^ 32 - 1)
    if d = 0 ∨ s.deadlineDue t x = true then .next (s.retire t x h {})
    else .next (s.await t x (.sleep h a imm) .sleep (some (s.deadlineOf t d)))

/-- BKPT (R145). -/
def execBkptN (h : Hints) (imm : Word) (s : State) : Out State Fault Refusal :=
  issue s (.bkptN h imm) fun t x _ => .next (s.precise t x .bkpt (pcWord x.pc) 0 imm)

/-- TRAP (R145). -/
def execTrapN (h : Hints) (imm : Word) (s : State) : Out State Fault Refusal :=
  issue s (.trapN h imm) fun t x _ => .next (s.precise t x .trap (pcWord x.nextPc) 0 imm)

/-- ENTER (R141). -/
def execEnter (h : Hints) (imm : Word) (s : State) : Out State Fault Refusal :=
  issue s (.enter h imm) fun t x g =>
    if g.w < imm.toNat then .next (s.trapHere t x .budget) else .next (s.retire t x h {})

end Sys2Proof.Machine
end

