-- ==== Sys2Proof/Machine/Trans.lean ====
section
/-! DEFINITION. Exact functions on fixed-point enclosures: exp, ln, pi, sine and cosine, and the transcendental instructions
correctly rounded (08_float.md R191). A value y is held as an integer N with |N - y × 2^P| < 2^14 at a precision P; a result is
rounded only when both ends of the enclosure round alike, else the precision rises. -/
namespace Sys2Proof.Machine
open Sys2Proof

/-- The half-width of every enclosure, in units of the last place. -/
def encHalf : Nat := 2 ^ 14

/-- The precisions tried, in order, beyond a shift for small results. -/
def precisions : List Nat := [128, 224, 416, 832]

/-! ### Series -/

/-- Sum of t^k / k! from k = n + 1 on, at precision p, given the term t^n / n!; stops when a term vanishes. -/
def expTerms (p t : Nat) : Nat → Nat → Nat → Nat
  | 0, _, _ => 0
  | fuel + 1, k, term =>
    let u := (term * t) >>> p / k
    if u = 0 then 0 else u + expTerms p t fuel (k + 1) u

/-- e^t for 0 ≤ t < 2. -/
def expFix (p t : Nat) : Nat := 2 ^ p + expTerms p t p 1 (2 ^ p)

/-- Sum of z^(2k+1) / (2k+1), given z^(2k+1). -/
def atanhTerms (p z2 : Nat) : Nat → Nat → Nat → Nat
  | 0, _, _ => 0
  | fuel + 1, k, pw => if pw = 0 then 0 else pw / k + atanhTerms p z2 fuel (k + 2) ((pw * z2) >>> p)

/-- ln(a / b) for b ≤ a ≤ 3b, as 2 atanh((a - b) / (a + b)). -/
def lnFix (p a b : Nat) : Nat :=
  let z := ((a - b) <<< p) / (a + b)
  2 * atanhTerms p ((z * z) >>> p) p 1 z

def ln2Fix (p : Nat) : Nat := lnFix p 2 1

/-- Alternating sum for arctan(1/q): powers 1/q^(2k+1). -/
def atanTerms (q2 : Nat) : Nat → Nat → Nat → Int
  | 0, _, _ => 0
  | fuel + 1, k, pw => if pw = 0 then 0 else ((pw / k : Nat) : Int) - atanTerms q2 fuel (k + 2) (pw / q2)

def atanInv (p q : Nat) : Int := atanTerms (q * q) p 1 (2 ^ p / q)

/-- pi / 2, by Machin's formula. -/
def halfPi (p : Nat) : Nat := (2 * (4 * atanInv p 5 - atanInv p 239)).toNat

/-- Alternating sum of a sine or cosine series: the next terms divide by k(k+1). -/
def trigTerms (p r2 : Nat) : Nat → Nat → Nat → Int
  | 0, _, _ => 0
  | fuel + 1, k, term => if term = 0 then 0 else (term : Int) - trigTerms p r2 fuel (k + 2) ((term * r2) >>> p / (k * (k + 1)))

def sinFix (p r : Nat) : Int := trigTerms p ((r * r) >>> p) p 2 r
def cosFix (p r : Nat) : Int := trigTerms p ((r * r) >>> p) p 1 (2 ^ p)

/-! ### Rounding an enclosure -/

/-- Round a positive irrational value enclosed at precision p, if both ends round alike. -/
def roundEnc (ftz s : Bool) (p n : Nat) : Option FRes :=
  if n ≤ 2 * encHalf then none
  else
    let a := roundTo f32 .rn ftz s (n - encHalf) (-(p : Int)) true
    let b := roundTo f32 .rn ftz s (n + encHalf) (-(p : Int)) true
    if a = b then some ⟨a.1, a.2⟩ else none

/-- Try each precision; the last is taken as it stands. -/
def ziv (ftz s : Bool) (g : Nat → Nat) : List Nat → FRes
  | [] => ⟨0, 0⟩
  | p :: ps =>
    match roundEnc ftz s p (g p) with
    | some r => r
    | none =>
      match ps with
      | [] => let r := roundTo f32 .rn ftz s (g p) (-(p : Int)) true; ⟨r.1, r.2⟩
      | _ => ziv ftz s g ps

/-- The value m × 2^e at precision p, truncated. -/
def fixOf (p m : Nat) (e : Int) : Nat := if 0 ≤ e + (p : Int) then m <<< (e + (p : Int)).toNat else m >>> (-(e + (p : Int))).toNat

/-- How far a value lies below 1, in bits. -/
def belowOne (m : Nat) (e : Int) : Nat := (-(e + (bitLen m : Int))).toNat

/-! ### The functions (R191) -/

def fone (s : Bool) : Nat := f32.signBit s + 0x3F800000

def frcp (ftz : Bool) (a : Nat) : FRes := fdiv f32 .rn ftz (fone false) a

/-- 1 / sqrt: floor(sqrt(2^2k / m)) with a sticky bit. -/
def frsq (ftz : Bool) (a : Nat) : FRes :=
  match f32.read ftz a with
  | .nan s => f32.nanRes s
  | .inf s => if s then f32.nanRes true else f32.zeroRes false
  | .fin s m e =>
    if m = 0 then f32.infRes s fDZ
    else if s then f32.nanRes true
    else
      let m := if e % 2 = 0 then m else 2 * m
      let e := if e % 2 = 0 then e else e - 1
      let k : Nat := 64
      let r := isqrt (2 ^ (2 * k) / m)
      f32.rnd .rn ftz false r (-(k : Int) - e / 2) (r * r * m != 2 ^ (2 * k))

/-- 2^(x - n) at precision p, for x = ±m × 2^e and n = floor x. -/
def exp2Frac (p : Nat) (s : Bool) (m : Nat) (e n : Int) : Nat :=
  let x : Int := if s then -(fixOf p m e : Int) else (fixOf p m e : Int)
  expFix p (((x - n * (2 ^ p : Nat)).toNat * ln2Fix p) >>> p)

/-- Round an enclosure of a mantissa in [1, 2) times 2^n. -/
def zivExp (ftz : Bool) (n : Int) (g : Nat → Nat) : List Nat → FRes
  | [] => ⟨0, 0⟩
  | p :: ps =>
    let y := g p
    let a := roundTo f32 .rn ftz false (y - encHalf) (n - (p : Int)) true
    let b := roundTo f32 .rn ftz false (y + encHalf) (n - (p : Int)) true
    if a = b then ⟨a.1, a.2⟩ else
      match ps with
      | [] => ⟨a.1, a.2⟩
      | _ => zivExp ftz n g ps

def fex2 (ftz : Bool) (a : Nat) : FRes :=
  match f32.read ftz a with
  | .nan s => f32.nanRes s
  | .inf s => if s then f32.zeroRes false else f32.infRes false 0
  | .fin s m e =>
    if m = 0 then ⟨fone false, 0⟩
    else if 9 ≤ e + (bitLen m : Int) then
      (if s then f32.rnd .rn ftz false 1 (-1000) true else f32.rnd .rn ftz false 1 1000 false)
    else if 0 ≤ e || (m >>> (-e).toNat) <<< (-e).toNat = m then
      -- an integer: exact, unless it leaves the range
      let n := fixOf 0 m e
      f32.rnd .rn ftz false 1 (if s then -(n : Int) else n) false
    else
      let x : Int := if s then -(fixOf 160 m e : Int) else (fixOf 160 m e : Int)
      let n := x / (2 ^ 160 : Nat)
      zivExp ftz n (fun p => exp2Frac p s m e n) precisions

/-- log2 of m × 2^e at precision p, signed. -/
def log2Fix (p m : Nat) (e : Int) : Int :=
  let k := bitLen m - 1
  ((e + (k : Int)) * (2 ^ p : Nat)) + (((lnFix p m (2 ^ k)) <<< p) / ln2Fix p : Nat)

def flg2 (ftz : Bool) (a : Nat) : FRes :=
  match f32.read ftz a with
  | .nan s => f32.nanRes s
  | .inf s => if s then f32.nanRes true else f32.infRes false 0
  | .fin s m e =>
    if m = 0 then f32.infRes true fDZ
    else if s then f32.nanRes true
    else if m = 2 ^ (bitLen m - 1) then i2f f32 .rn (e + (bitLen m : Int) - 1)
    else
      let neg := decide (e + (bitLen m : Int) ≤ 0)
      ziv ftz neg (fun p => (log2Fix p m e).natAbs) precisions

/-- |x| reduced by multiples of pi/2 at precision p: the quotient mod 4 and the rest. Guard bits cover the largest quotient. -/
def reduce (p m : Nat) (e : Int) : Nat × Nat :=
  let q := p + 320
  let x := fixOf q m e
  let h := halfPi q
  (x / h % 4, (x % h) >>> 320)

/-- sin (quadrant shift 0) or cos (shift 1) of |x| at precision p, signed. -/
def trigFix (p m : Nat) (e : Int) (shift : Nat) : Int :=
  let r := reduce p m e
  match (r.1 + shift) % 4 with
  | 0 => sinFix p r.2
  | 1 => cosFix p r.2
  | 2 => -(sinFix p r.2)
  | _ => -(cosFix p r.2)

/-- Round a signed enclosure: the sign is that of the first precision whose magnitude clears the enclosure. -/
def zivSigned (ftz s : Bool) (g : Nat → Int) (ps : List Nat) : FRes :=
  let neg := match ps.find? fun p => decide (2 * encHalf < (g p).natAbs) with
    | some p => decide (g p < 0)
    | none => false
  ziv ftz (s != neg) (fun p => (g p).natAbs) ps

def fsin (ftz : Bool) (a : Nat) : FRes :=
  match f32.read ftz a with
  | .nan s => f32.nanRes s
  | .inf _ => f32.nanRes true
  | .fin s m e =>
    if m = 0 then f32.zeroRes s
    else zivSigned ftz s (fun p => trigFix p m e 0) (precisions.map (· + 2 * belowOne m e))

def fcos (ftz : Bool) (a : Nat) : FRes :=
  match f32.read ftz a with
  | .nan s => f32.nanRes s
  | .inf _ => f32.nanRes true
  | .fin _ m e => if m = 0 then ⟨fone false, 0⟩ else zivSigned ftz false (fun p => trigFix p m e 1) precisions

/-- Multiply by w / 2^p, n times. -/
def mulPow (p w : Nat) : Nat → Nat → Nat
  | 0, x => x
  | n + 1, x => mulPow p w n ((x * w) >>> p)

/-- tanh x = (1 - y) / (1 + y) with y = e^(-2x), for 0 < x < 16. -/
def tanhFix (p m : Nat) (e : Int) : Nat :=
  let t := fixOf p m (e + 1)
  let n := t >>> p
  let inv := 2 ^ (2 * p) / expFix p (2 ^ p)
  let y := mulPow p inv n (2 ^ (2 * p) / expFix p (t % 2 ^ p))
  ((2 ^ p - y) <<< p) / (2 ^ p + y)

def ftanh (ftz : Bool) (a : Nat) : FRes :=
  match f32.read ftz a with
  | .nan s => f32.nanRes s
  | .inf s => ⟨fone s, 0⟩
  | .fin s m e =>
    if m = 0 then f32.zeroRes s
    else if 5 ≤ e + (bitLen m : Int) then ⟨fone s, fNX⟩
    else ziv ftz s (fun p => tanhFix p m e) (precisions.map (· + 2 * belowOne m e))

end Sys2Proof.Machine
end

