-- ==== Sys2Proof/Machine/Sli.lean ====
section
/-! DEFINITION. Symmetric level-index arithmetic, to the bit (03_numbers.md R66 to R77, 09_level_index.md R206 to R214). Internal
values have 40 fraction bits. -/
namespace Sys2Proof.Machine
open Sys2Proof

def sONE : Nat := 2 ^ 40
def sKE : Nat := 0x2B7E151628B
def sKLN2 : Nat := 0xB17217F7D2

/-! ### Primitives (R69) -/

/-- Round an enclosure to 40 fraction bits, to nearest, if both ends round alike. -/
def round40 (p n : Nat) : Option Nat :=
  let r := fun x => (x + 2 ^ (p - 41)) >>> (p - 40)
  if r (n - encHalf) = r (n + encHalf) then some (r n) else none

def ziv40 (g : Nat → Nat) : List Nat → Nat
  | [] => 0
  | p :: ps =>
    match round40 p (g p) with
    | some r => r
    | none => match ps with
      | [] => (g p + 2 ^ (p - 41)) >>> (p - 40)
      | _ => ziv40 g ps

def sExpF (t : Nat) : Nat := ziv40 (fun p => expFix p (t <<< (p - 40))) precisions
def sLnF (v : Nat) : Nat := ziv40 (fun p => lnFix p v sONE) precisions

def sMulT (u v : Nat) : Nat := (u * v) >>> 40
def sDiv (u v : Nat) : Nat := if v = 0 then 2 ^ 88 - 1 else min ((u <<< 40) / v) (2 ^ 88 - 1)
def sRecip (v : Nat) : Nat := sDiv sONE v

/-- The power of KE on a working value, one product after another (R76). DEDUCED: log 88. -/
def sPowKE : Nat → Nat → Nat
  | 0, w => w
  | n + 1, w => sPowKE n (sMulT w sKE)

/-- The exponential of a negative working value, by the reciprocal (R75). DEDUCED: log 88. -/
def sExpN (t : Nat) : Nat :=
  if 28 * sONE ≤ t then 0
  else
    let n := t / sONE
    sRecip (sPowKE n (sExpF (t - n * sONE)))

def sLnW (w : Nat) : Nat :=
  let n := bitLen (w / sONE) - 1
  n * sKLN2 + sLnF (w >>> n)

def sLnS (c : Nat) : Int := if sONE ≤ c then (sLnW c : Int) else -(sLnW (sRecip c) : Int)

/-! ### Magnitude adder (R70) -/

/-- Prepend a[j-1] from a[j], n times. -/
def aSeqUp : Nat → List Nat → List Nat
  | 0, l => l
  | n + 1, l => aSeqUp n ((match l with | 0 :: _ => 0 | x :: _ => sExpN (sRecip x) | [] => 0) :: l)

/-- a[0] to a[lv-1], for lv ≥ 1. -/
def aSeq (lv F : Nat) : List Nat := aSeqUp (lv - 1) [sExpN F]

/-- One step of Ratio from j. -/
def ratioDown (a : List Nat) : Nat → Nat → Nat
  | 0, b => b
  | j + 1, b =>
    let aj := a.getD (j + 1) 0
    ratioDown a j (if aj = 0 then (if b = sONE then sONE else 0) else sExpN (sDiv (sONE - b) aj))

def sRatio (a : List Nat) (lv F : Nat) : Nat := ratioDown a (lv - 1) (min sONE (sMulT (a.getD (lv - 1) 0) (sExpF F)))

/-- A magnitude: level, fraction with 40 bits, and whether it is a reciprocal. -/
structure SMag where
  lv  : Nat
  F   : Nat
  rcp : Bool
  deriving DecidableEq, Repr

/-- MulT on signed values truncates toward zero. -/
def sMulTI (u : Nat) (v : Int) : Int := if v < 0 then -(sMulT u v.natAbs : Int) else (sMulT u v.natAbs : Int)

/-- The last loop of AddMag, from j of `lv` levels; n counts the levels left. -/
def addLoop (a : List Nat) (lv : Nat) : Nat → Nat → Nat → Nat × Nat
  | 0, j, c => (c, j - 1)
  | n + 1, j, c =>
    if c = 0 then (0, j - 1)
    else if c < a.getD (j - 1) 0 || j = lv then (sDiv c (a.getD (j - 1) 0), j - 1)
    else addLoop a lv n (j + 1) ((sONE : Int) + sMulTI (a.getD j 0) (sLnS c)).toNat

/-- (w, k, reciprocal side), or `none` for ZERO. -/
def addMag (x y : SMag) (sub : Bool) : Option (Nat × Nat × Bool) :=
  if x.lv = 0 then some (if sub then x.F - y.F else x.F + y.F, 0, false)
  else
    let a := aSeq x.lv x.F
    let b :=
      if !x.rcp && y.lv = 0 then sMulT y.F (a.getD 0 0)
      else if !x.rcp && !y.rcp then sRatio a y.lv y.F
      else if !x.rcp then sMulT (a.getD 0 0) ((aSeq y.lv y.F).getD 0 0)
      else sRatio (aSeq y.lv y.F) x.lv x.F
    let g := if sub then sONE - b else sONE + b
    if g = 0 then none
    else
      let r := addLoop a x.lv x.lv 1 (if x.rcp then sRecip g else g)
      some (r.1, r.2, x.rcp)

/-! ### Normalise and Encode (R71) -/

def sNormalise : Nat → Nat → Nat → Bool → Bool × Nat × Nat
  | 0, w, k, rcp => (rcp, k, w)
  | n + 1, w, k, rcp =>
    if w < sONE then
      (if 1 ≤ k then (rcp, k, w) else sNormalise n (sRecip w) k (!rcp))
    else if w < sKE then (rcp, k + 1, sLnW w)
    else sNormalise n (sLnW w) (k + 1) rcp

/-- RoundNE(F / 2^13). -/
def sRound13 (F : Nat) : Nat :=
  let q := F / 2 ^ 13
  let r := F % 2 ^ 13
  if 2 ^ 12 < r ∨ (r = 2 ^ 12 ∧ q % 2 = 1) then q + 1 else q

def sCode (s rcp : Bool) (lv g : Nat) : Nat := (if s then 2 ^ 31 else 0) + (if rcp then 2 ^ 30 else 0) + lv * 2 ^ 27 + g

/-- The code, and LXS. -/
def sEncode (s : Bool) (r : Bool × Nat × Nat) : Nat × Bool :=
  let g0 := sRound13 r.2.2
  let lv0 := if g0 = 2 ^ 27 then r.2.1 + 1 else r.2.1
  let g1 := if g0 = 2 ^ 27 then 0 else g0
  let lv := if 7 < lv0 then 7 else lv0
  let g := if 7 < lv0 then 2 ^ 27 - 1 else g1
  let rcp := if lv = 1 && g = 0 then false else r.1
  (sCode s rcp lv g, decide (7 < lv0))

/-- Encode(sign, Normalise(w, k, side)). -/
def sFinish (s : Bool) (w k : Nat) (rcp : Bool) : Nat × Bool := sEncode s (sNormalise 32 w k rcp)

/-! ### Codes (R66, R67, R206) -/

def sSign (c : Nat) : Bool := decide (2 ^ 31 ≤ c)
def sRcp (c : Nat) : Bool := c / 2 ^ 30 % 2 == 1
def sLvl (c : Nat) : Nat := c / 2 ^ 27 % 8
def sFrac (c : Nat) : Nat := c % 2 ^ 27
def sIsZero (c : Nat) : Bool := sLvl c == 0 && !sRcp c && sFrac c == 0
def sIsNan (c : Nat) : Bool := sLvl c == 0 && !sIsZero c
def sIsOne (c : Nat) : Bool := sLvl c == 1 && sFrac c == 0

/-- R206. -/
def sCanon (c : Nat) : Nat := if sIsOne c then sCode (sSign c) false 1 0 else c

def sNan : Nat := 1
def sHuge (s : Bool) : Nat := sCode s false 7 (2 ^ 27 - 1)
def sTiny (s : Bool) : Nat := sCode s true 7 (2 ^ 27 - 1)

def sMagOf (c : Nat) : SMag := { lv := sLvl c, F := sFrac c * 2 ^ 13, rcp := sRcp c }

/-- Magnitude order among nonzero codes (R68), as a number. -/
def sMagKey (c : Nat) : Int := let v : Int := (c % 2 ^ 30 : Nat); if sRcp c then -v else v

/-- Signed order (R154): larger values have larger keys; zeros are equal. -/
def sKey (c : Nat) : Int :=
  if sIsZero c then 0
  else
    let m := sMagKey c + 2 ^ 31
    if sSign c then -m else m

def withSign (s : Bool) (c : Nat) : Nat := c % 2 ^ 31 + (if s then 2 ^ 31 else 0)

/-- Flags of R77 on a delivered code: `big` is the larger operand. -/
def sFlags (r : Nat) (ops : List Nat) (big : Nat) (lxs : Bool) : Flags :=
  flagIf lxs lxS |||
    (if sIsZero r || sIsNan r then 0
     else levelFlags (sRcp r) (sLvl r) ((ops.filter fun c => !(sIsZero c || sIsNan c)).map sLvl) (sRcp big))

/-! ### Arithmetic (R72 to R74, R208) -/

/-- SADD on canonical operands. -/
def saddC (a b : Nat) : FRes :=
  if sIsNan a || sIsNan b then ⟨sNan, 0⟩
  else if sIsZero a then ⟨if sIsZero b then 0 else b, 0⟩
  else if sIsZero b then ⟨a, 0⟩
  else
    let x := if sMagKey a < sMagKey b then b else a
    let y := if sMagKey a < sMagKey b then a else b
    let differ := sSign a != sSign b
    if differ && sMagKey a = sMagKey b then ⟨0, 0⟩
    else
      match addMag (sMagOf x) (sMagOf y) differ with
      | none => ⟨0, 0⟩
      | some (w, k, rcp) =>
        let r := sFinish (sSign x) w k rcp
        ⟨r.1, sFlags r.1 [a, b] x r.2⟩

def sadd (a b : Nat) : FRes := saddC (sCanon a) (sCanon b)
def ssub (a b : Nat) : FRes := saddC (sCanon a) (withSign (!sSign b) (sCanon b))

/-- The larger operand by magnitude. -/
def sLarger (a b : Nat) : Nat := if sMagKey a < sMagKey b then b else a

/-- MulCore on canonical operands that no special case takes (R74); a result of 1.0 is flagged as R77 has it. DEDUCED: log 80. -/
def mulCore (a b : Nat) (div : Bool) : FRes :=
  let s := sSign a != sSign b
  let u : SMag := { lv := sLvl a - 1, F := sFrac a * 2 ^ 13, rcp := false }
  let v : SMag := { lv := sLvl b - 1, F := sFrac b * 2 ^ 13, rcp := false }
  let us := sRcp a
  let vs := sRcp b != div
  let swap := decide (u.lv < v.lv) || (u.lv == v.lv && decide (u.F < v.F))
  let u' := if swap then v else u
  let v' := if swap then u else v
  let us' := if swap then vs else us
  let vs' := if swap then us else vs
  let one := sCode s false 1 0
  if us' != vs' && u' = v' then ⟨one, sFlags one [a, b] (sLarger a b) false⟩
  else
    match addMag u' v' (us' != vs') with
    | none => ⟨one, sFlags one [a, b] (sLarger a b) false⟩
    | some (w, k, _) =>
      let r := sFinish s w (k + 1) us'
      ⟨r.1, sFlags r.1 [a, b] (sLarger a b) r.2⟩

def smulC (a b : Nat) : FRes :=
  let s := sSign a != sSign b
  if sIsNan a || sIsNan b then ⟨sNan, 0⟩
  else if sIsZero a || sIsZero b then ⟨0, 0⟩
  else if sIsOne a then ⟨withSign s b, 0⟩
  else if sIsOne b then ⟨withSign s a, 0⟩
  else mulCore a b false

def smul (a b : Nat) : FRes := smulC (sCanon a) (sCanon b)
def ssq (a : Nat) : FRes := smulC (sCanon a) (sCanon a)

/-- A code with its RCP inverted; 1.0 keeps RCP 0. -/
def sFlip (c : Nat) : Nat := if sIsOne c then c else sCode (sSign c) (!sRcp c) (sLvl c) (sFrac c)

def sdivC (a b : Nat) : FRes :=
  let s := sSign a != sSign b
  if sIsNan a || sIsNan b then ⟨sNan, 0⟩
  else if sIsZero a && sIsZero b then ⟨sNan, lxN⟩
  else if sIsZero a then ⟨0, 0⟩
  else if sIsZero b then ⟨sHuge s, lxS⟩
  else if sIsOne b then ⟨withSign s a, 0⟩
  else if sIsOne a then ⟨withSign s (sFlip b), 0⟩
  else mulCore a b true

def sdiv (a b : Nat) : FRes := sdivC (sCanon a) (sCanon b)

/-! ### SEXP, SLN, SRECIP, SCVT (R75, R76, R209 to R211) -/

/-- SEXP (R209): a zero delivers 1.0 and raises no flag (R77). DEDUCED: log 86. -/
def sexp (c : Nat) : FRes :=
  let a := sCanon c
  if sIsNan a then ⟨sNan, 0⟩
  else if sIsZero a then ⟨sCode false false 1 0, 0⟩
  else
    let r : Nat × Bool :=
      if sRcp a then sEncode false (false, 1, (aSeq (sLvl a) (sFrac a * 2 ^ 13)).getD 0 0)
      else if sLvl a = 7 then (sHuge false, true)
      else (sCode false false (sLvl a + 1) (sFrac a), false)
    let code := if sSign a then sFlip r.1 else r.1
    ⟨code, sFlags code [a] a r.2⟩

def sln (c : Nat) : FRes :=
  let a := sCanon c
  if sIsNan a then ⟨sNan, 0⟩
  else if sIsZero a then ⟨sHuge true, lxS⟩
  else if sSign a then ⟨sNan, lxN⟩
  else if sIsOne a then ⟨0, 0⟩
  else
    let r : Nat × Bool :=
      if 2 ≤ sLvl a then (sCode (sRcp a) false (sLvl a - 1) (sFrac a), false)
      else sFinish (sRcp a) (sFrac a * 2 ^ 13) 0 false
    -- a level-1 code with no fraction is 1.0
    ⟨r.1, sFlags r.1 [a] a r.2⟩

def srecip (c : Nat) : Nat :=
  if sIsNan c then sNan
  else if sIsOne c then sCode (sSign c) false 1 0
  else if sIsZero c then sHuge (sSign c)
  else sCode (sSign c) (!sRcp c) (sLvl c) (sFrac c)

/-- binary32 to sli32 (R76). -/
def sliOfF32 (w : Nat) : FRes :=
  match f32.val w with
  | .nan _ => ⟨sNan, 0⟩
  | .inf s => ⟨sHuge s, lxS⟩
  | .fin s m e =>
    if m = 0 then ⟨sCode s false 0 0, 0⟩
    else
      let k := bitLen m - 1
      let q : Int := e + (k : Int)
      let l : Int := q * sKLN2 + (sLnF ((m <<< 40) >>> k) : Int)
      if l = 0 then ⟨sCode s false 1 0, 0⟩
      else
        let r := sFinish s l.natAbs 1 (decide (l < 0))
        ⟨r.1, flagIf r.2 lxS⟩

/-- The chain of exponentials from level lv - 1 down; `none` for an overflow. DEDUCED: log 88. -/
def sliChain : Nat → Nat → Option Nat
  | 0, l => some l
  | n + 1, l =>
    let k := l / sONE
    if 88 < k then none else sliChain n (sPowKE k (sExpF (l - k * sONE)))

/-- sli32 to binary32 (R76). -/
def sliToF32 (c : Nat) : FRes :=
  let a := sCanon c
  if sIsZero a then f32.zeroRes (sSign a)
  else if sIsNan a then ⟨f32.nan, 0⟩
  else
    match sliChain (sLvl a - 1) (sFrac a * 2 ^ 13) with
    | none => if sRcp a then ⟨f32.signBit (sSign a), fUF ||| fNX⟩ else f32.infRes (sSign a) (fOF ||| fNX)
    | some l =>
      let x : Int := if sRcp a then -(l : Int) else l
      let q := x / (sKLN2 : Int)
      -- beyond every exponent, the rounding below is the same
      let q' := satInt q (-1000) 1000
      f32.rnd .rn false (sSign a) (sExpF (x - q * sKLN2).toNat) (q' - 40) false

/-! ### Comparison and classification (R212, R213) -/

def scmp (op : Cmp) (a b : Nat) : Bool :=
  let a := sCanon a
  let b := sCanon b
  if sIsNan a || sIsNan b then op == .ne
  else
    match op with
    | .eq => decide (sKey a = sKey b)
    | .ne => decide (sKey a ≠ sKey b)
    | .lt => decide (sKey a < sKey b)
    | .le => decide (sKey a ≤ sKey b)
    | .gt => decide (sKey b < sKey a)
    | .ge => decide (sKey b ≤ sKey a)

def sclass (c : Nat) : Nat :=
  let a := sCanon c
  let ext := sLvl a == 7 && sFrac a == 2 ^ 27 - 1
  let bit :=
    if sIsNan a then 10
    else if sIsZero a then (if sSign a then 4 else 5)
    else if sRcp a then (if ext then (if sSign a then 3 else 6) else if sSign a then 2 else 7)
    else if ext then (if sSign a then 0 else 9)
    else if sSign a then 1 else 8
  let ncan := (sIsNan c && c != sNan) || (sIsOne c && sRcp c)
  sLvl c * 2 ^ 16 + (if ncan then 2 ^ 15 else 0) + 2 ^ bit

end Sys2Proof.Machine
end

