-- ==== Sys2Proof/Machine/LevelIndex.lean ====
section
/-! DEFINITION. Level-index instructions (09_level_index.md R205 to R214). -/
namespace Sys2Proof.Machine
open Sys2Proof

/-- A 32-bit code with flags of LXFLAGS. -/
def lxRes (d : VReg) (r : FRes) : Res := { vs := [(d, BitVec.ofNat 32 r.code)], lx := r.flags }

/-- A 32-bit code with flags of FFLAGS. -/
def ffRes (d : VReg) (r : FRes) : Res := { vs := [(d, BitVec.ofNat 32 r.code)], ff := r.flags }

/-- SADD (R208). -/
def execSadd (h : Hints) (d a b : VReg) (s : State) : Out State Fault Refusal :=
  compute s (.sadd h d a b) fun x => lxRes d (sadd (x.rd a).toNat (x.rd b).toNat)

/-- SSUB (R208). -/
def execSsub (h : Hints) (d a b : VReg) (s : State) : Out State Fault Refusal :=
  compute s (.ssub h d a b) fun x => lxRes d (ssub (x.rd a).toNat (x.rd b).toNat)

/-- SMUL (R208). -/
def execSmul (h : Hints) (d a b : VReg) (s : State) : Out State Fault Refusal :=
  compute s (.smul h d a b) fun x => lxRes d (smul (x.rd a).toNat (x.rd b).toNat)

/-- SDIV (R208). -/
def execSdiv (h : Hints) (d a b : VReg) (s : State) : Out State Fault Refusal :=
  compute s (.sdiv h d a b) fun x => lxRes d (sdiv (x.rd a).toNat (x.rd b).toNat)

/-- SSQ (R208). -/
def execSsq (h : Hints) (d a : VReg) (s : State) : Out State Fault Refusal :=
  compute s (.ssq h d a) fun x => lxRes d (ssq (x.rd a).toNat)

/-- SEXP (R209). -/
def execSexp (h : Hints) (d a : VReg) (s : State) : Out State Fault Refusal :=
  compute s (.sexp h d a) fun x => lxRes d (sexp (x.rd a).toNat)

/-- SLN (R209). -/
def execSln (h : Hints) (d a : VReg) (s : State) : Out State Fault Refusal :=
  compute s (.sln h d a) fun x => lxRes d (sln (x.rd a).toNat)

/-- SCMP (R212). -/
def execScmp (h : Hints) (cmp : Cmp) (d : DstVP) (a b : VReg) (s : State) : Out State Fault Refusal :=
  compute s (.scmp h cmp d a b) fun x => boolRes d (scmp cmp (x.rd a).toNat (x.rd b).toNat)

/-- SCLASS (R213). -/
def execSclass (h : Hints) (d a : VReg) (s : State) : Out State Fault Refusal :=
  compute s (.sclass h d a) fun x => { vs := [(d, BitVec.ofNat 32 (sclass (x.rd a).toNat))] }

/-- SCVT_SLI_F32 (R211): binary32 to sli32. -/
def execScvtSliF32 (h : Hints) (d a : VReg) (s : State) : Out State Fault Refusal :=
  compute s (.scvtSliF32 h d a) fun x => lxRes d (sliOfF32 (x.rd a).toNat)

/-- SCVT_F32_SLI (R211): sli32 to binary32. -/
def execScvtF32Sli (h : Hints) (d a : VReg) (s : State) : Out State Fault Refusal :=
  compute s (.scvtF32Sli h d a) fun x => ffRes d (sliToF32 (x.rd a).toNat)

/-- SRECIP (R210). -/
def execSrecip (h : Hints) (d a : VReg) (s : State) : Out State Fault Refusal :=
  compute s (.srecip h d a) fun x => { vs := [(d, BitVec.ofNat 32 (srecip (x.rd a).toNat))] }

end Sys2Proof.Machine
end

