-- ==== Sys2Proof/Machine/Matrix.lean ====
section
/-! DEFINITION. The matrix engine and the accumulator store (14_matrix.md R317 to R335, 03_numbers.md R64, R65). -/
namespace Sys2Proof.Machine
open Sys2Proof

/-! ### Operand words (R319 to R321) -/

/-- The region a region word names. -/
def regionOf (w : Word) : Region :=
  { row0 := 16 * bitsOf w.toNat 12 8, col0 := 16 * bitsOf w.toNat 3 0, m := 16 * (bitsOf w.toNat 30 28 + 1),
    n := 16 * (bitsOf w.toNat 26 24 + 1) }

/-- The logical tile a region lies in. -/
def Region.tile (r : Region) : Nat := 2 * (r.row0 / 128) + r.col0 / 128

/-- R320, for a group of n tiles. -/
def regionOk (w : Word) (n : Nat) : Bool :=
  let x := w.toNat
  let r := regionOf w
  bitsOf x 31 31 == 0 && bitsOf x 27 27 == 0 && bitsOf x 23 13 == 0 && bitsOf x 7 4 == 0
    && decide (r.row0 % 128 + r.m ≤ 128) && decide (r.col0 % 128 + r.n ≤ 128) && decide (r.tile < n)

def Region.overlaps (a b : Region) : Bool :=
  decide (a.row0 < b.row0 + b.m) && decide (b.row0 < a.row0 + a.m) && decide (a.col0 < b.col0 + b.n) && decide (b.col0 < a.col0 + a.n)

def Region.has (r : Region) (row col : Nat) : Bool :=
  decide (r.row0 ≤ row) && decide (row < r.row0 + r.m) && decide (r.col0 ≤ col) && decide (col < r.col0 + r.n)

/-- Rows and columns of a region's cells, row by row. -/
def Region.cells (r : Region) : List (Nat × Nat) :=
  (List.range r.m).flatMap fun i => (List.range r.n).map fun j => (r.row0 + i, r.col0 + j)

/-- The place of a cell of the group's accumulator view in the core's accumulator store (R317). -/
def Group.cellIx (g : Group) (row col : Nat) : Nat :=
  g.tiles.getD (2 * (row / 128) + col / 128) 0 * 16384 + row % 128 * 128 + col % 128

/-- Whether the bytes of some elements are granted to a group (R321). -/
def State.grantedAll (s : State) (c : CCRef) (grp : Nat) (rings : BitVec 8) (n : Nat) (offs : List Nat) : Bool :=
  offs.all fun o => s.grantedTo c grp rings o n

/-- A placement of a tile of tr rows and tc columns that the matrix engine may use (R321). -/
def State.matPlaceOk (s : State) (c : CCRef) (grp : Nat) (rings : BitVec 8) (w : Word) (tr tc cb : Nat) : Bool :=
  let p := w.toNat
  !pReserved p && decide (pBank p + pNB p ≤ 96)
    && s.grantedAll c grp rings cb ((List.range (tr / 16)).flatMap fun ci => (List.range (tc / 16)).map fun cj =>
      placeAt p tc cb (16 * ci) (16 * cj))

def rowNum (w : Word) : Nat := bitsOf w.toNat 31 22
def rowPlace (w : Word) : Nat := bitsOf w.toNat 21 0

/-- A row word for rows of k elements (R321). -/
def State.rowOk (s : State) (c : CCRef) (grp : Nat) (rings : BitVec 8) (w : Word) (k cb : Nat) : Bool :=
  let p := rowPlace w
  let segs := (List.range (k / 16)).map fun cj => placeAt p k cb (rowNum w) (16 * cj)
  let slots := (List.range (k / 16)).map fun cj =>
    pSlot p + (rowNum w / 16 * pSpan p k + cj / pNB p) * (cb / 512) + rowNum w % 16 * 16 * (cb / 256) / 512
  !pReserved p && decide (pBank p + pNB p ≤ 96) && slots.all (fun n => decide (n < 64)) && s.grantedAll c grp rings (cb / 16) segs

/-- Cell bytes of an MMA's operands (R321). -/
def mmaCb : MmaKind → Nat
  | .w => 1024
  | _ => 512

def setCells (t : Tab Word) (l : List (Nat × Word)) : Tab Word := l.foldl (fun t e => Tab.put 0 t e.1 e.2) t

/-! ### Tiles (R318) -/

/-- The cells of a physical tile read 0. -/
def Holding.clearTile (x : Holding) (p : Nat) : Holding := { x with acc := Tab.clear x.acc (p * 16384) ((p + 1) * 16384) }

/-- Cells of an accumulator store are written. -/
def State.putCells (s : State) (c : CCRef) (l : List (Nat × Word)) : State :=
  (s.modHolding c fun x => { x with acc := setCells x.acc l }).healCells c fun i => l.any fun e => e.1 == i

/-- A cell as the matrix engine reads it, and whether it met an error: it reads +0 then (R495). -/
def State.cellAt (s : State) (c : CCRef) (ix : Nat) : Word × Bool :=
  if s.accPois.any fun e => e.1 == c && e.2 == ix / 2 then (0, true) else (Tab.get 0 (s.holding c).acc ix, false)

/-- A tile that an operation writes becomes live: its cells read 0. -/
def State.reviveTile (s : State) (g : GRef) (t : Nat) : State :=
  match s.group? g with
  | none => s
  | some y =>
    if y.mlive.getLsbD t then s
    else
      let now := s.coreTime g.coreRef
      let p := y.tiles.getD t 0
      (((s.setGroup g { y with mlive := y.mlive ||| BitVec.ofNat 8 (2 ^ t) }).modHolding g.ccRef fun x => x.clearTile p).healCells
          g.ccRef fun i => i / 16384 == p).modCore g.coreRef fun k =>
        { k with tilePow := k.tilePow.set p (.waking true (now + BitVec.ofNat 64 (ceilCycles 24))) }

/-- A tile dies: its cells are lost, those of its completed MMAs among them. -/
def State.killTile (s : State) (g : GRef) (t : Nat) : State :=
  match s.group? g with
  | none => s
  | some y =>
    let p := y.tiles.getD t 0
    let us := y.uncov.map fun u => if u.reg.tile = t then { u with lost := true } else u
    ((s.setGroup g { y with mlive := y.mlive &&& ~~~(BitVec.ofNat 8 (2 ^ t)), uncov := us }).modHolding g.ccRef fun x =>
      x.clearTile p).modCore g.coreRef fun k =>
        { k with tilePow := k.tilePow.set p .off }

/-! ### Summation (R64, R65, R330) -/

def xNOFEN : BitVec 5 := 1
def xNV : BitVec 5 := 2
def xOF : BitVec 5 := 4
def xLXS : BitVec 5 := 8
def xDEAD : BitVec 5 := 16

def xIf (b : Bool) (f : BitVec 5) : BitVec 5 := if b then f else 0

/-- TruncZ(p, 2^q) in units of 2^q. -/
def truncTo (q : Int) (neg : Bool) (m : Nat) (e : Int) : Int :=
  let v : Nat := if q ≤ e then m <<< (e - q).toNat else m >>> (q - e).toNat
  if neg then -(v : Int) else (v : Int)

/-- One chunk of R64; a NaN that stands in the accumulator already is delivered because of itself (R330, DEDUCED, log 40). -/
def mmaChunk (acc : Nat) (ps : List FProd) : Nat × BitVec 5 :=
  let bad := ps.contains .invalid || (ps.contains (.inf true) && ps.contains (.inf false))
  if f32.isNan acc then (f32.nan, 0)
  else if ps.contains .nan || bad then (f32.nan, xIf bad xNV)
  else if ps.contains (.inf true) || ps.contains (.inf false) then
    ((faddV f32 .rn false (f32.val acc) (.inf (ps.contains (.inf true)))).code, 0)
  else
    let nz := ps.filterMap fun p => match p with
      | .fin s m e => if m = 0 then none else some (s, m, e)
      | _ => none
    let tops := nz.map fun t => t.2.2 + (bitLen t.2.1 : Int) - 1
    let q := tops.foldl max (tops.headD 0) - 40
    let sum := nz.foldl (fun a t => a + truncTo q t.1 t.2.1 t.2.2) (0 : Int)
    if sum = 0 then (acc, 0)
    else
      let r := faddV f32 .rn false (f32.val acc) (.fin (decide (sum < 0)) sum.natAbs q)
      (r.code, xIf (r.flags &&& fOF != 0) xOF)

/-- The chunks of one cell, q products each. -/
def mmaChunks (q : Nat) : Nat → Nat → List FProd → Nat × BitVec 5
  | 0, acc, _ => (acc, 0)
  | n + 1, acc, ps =>
    if ps.isEmpty then (acc, 0)
    else
      let r := mmaChunk acc (ps.take q)
      let t := mmaChunks q n r.1 (ps.drop q)
      (t.1, r.2 ||| t.2)

/-- R65: an operand of MMA.i. -/
def mmaInt : FVal → Int
  | .nan _ => 0
  | .inf s => if s then -256 else 255
  | .fin s m e => satInt (truncTo 0 s m e) (-256) 255

/-- One output cell (R324). -/
def mmaCell (kind : MmaKind) (acc : Nat) (a b : List FVal) : Nat × BitVec 5 :=
  match kind with
  | .n => mmaChunks 16 a.length acc (List.zipWith fprod a b)
  | .w => mmaChunks 4 a.length acc (List.zipWith fprod a b)
  | .i =>
    let sum := (List.zipWith (fun x y => mmaInt x * mmaInt y) a b).foldl (· + ·) (0 : Int)
    (((acc : Int) + sum) % (2 ^ 32 : Nat)).toNat |> fun v => (v, 0)

/-! ### Operand cells (R326, R327, R329) -/

/-- Whether a write of a scratchpad byte is one whose result an MMA issued with READY = 0 need not see: no MFENCE has covered it, because it came later, or is
neither a store of the MMA's group nor a byte of a channel below a pointer that a thread of the group has waited for (R326). DEDUCED: log 39. -/
def Mma.late (m : Mma) (stamp : Nat) : Bool :=
  !m.ready && stamp != 0 && (decide (m.cover ≤ stampSeq stamp) || stampTag stamp != groupTag m.grp)

/-- An operand element of n bytes: +0 from a dead bank or a poisoned word; a free value, the ix-th of this operation, where its tile or a write to it
makes it one, or a running copy has still to write it. DESIGN CHOICE: log 6. DEDUCED: log 39. -/
def State.operand (s : State) (c : CCRef) (taint : Bool) (late : Nat → Bool) (n off ix : Nat) : Nat × Bool :=
  if s.scrDead c off n || s.scrPoisoned c off n then (0, true)
  else
    let x := s.holding c
    if taint || (List.range n).any fun i => late (Tab.get 0 x.wseq (off + i)) || s.shadowed c (off + i) then
      (leNat ((List.range n).map fun i => Config.freeByte (s.fresh + ix + i)), false)
    else (leNat (x.bytesAt off n), false)

/-- Reads by the matrix engine reach the live banks (R254, R329). -/
def State.touchTile (s : State) (c : CCRef) (p : Nat) : State :=
  (tileBanks p).foldl (fun s b => if (s.holding c).bankLive b then s.touchBank c b else s) s

/-! ### Convergence registers (R322, R323) -/

/-- What a signer latches. -/
structure Sig where
  kind : MmaKind
  k    : Nat
  a    : Word
  b    : Word
  c    : Word
  deriving DecidableEq, Repr

def Thread.signed (x : Thread) (cv : Nat) : Option Sig :=
  match x.ph with
  | .sign n kind k a b c => if n = cv ∧ x.st = .wait then some ⟨kind, 16 * (k.toNat + 1), a, b, c⟩ else none
  | _ => none

def Group.cv (g : Group) (n : Nat) : CvRec := g.cvs.getD n CvRec.clear
def Group.setCv (g : Group) (n : Nat) (r : CvRec) : Group := { g with cvs := modNth g.cvs n fun _ => r }

/-- The members of a declared set that exist, in rank order. -/
def State.cvMembers (s : State) (g : GRef) (r : CvRec) : List (TRef × Thread) :=
  (List.range r.count).filterMap fun i => (s.thread? (g.thread (r.base + i))).map fun x => (g.thread (r.base + i), x)

/-- MISMATCH among the signers of a full set (R323 item 1). DEDUCED: log 38. -/
def sigsDiffer (r : CvRec) (sg : List Sig) : Bool :=
  match sg with
  | [] => false
  | f :: _ => (sg.any fun q => q.kind != f.kind || q.k != f.k || q.b != f.b || q.c != f.c) || (regionOf f.c).m != r.count

/-- BADWIN among the operand words of a full set (R323 item 2). -/
def State.sigsBad (s : State) (g : GRef) (y : Group) (sg : List Sig) : Bool :=
  match sg with
  | [] => false
  | f :: _ =>
    !regionOk f.c y.tiles.length || !s.matPlaceOk g.ccRef g.grp y.rings f.b f.k (regionOf f.c).n (mmaCb f.kind)
      || sg.any fun q => !s.rowOk g.ccRef g.grp y.rings q.a f.k (mmaCb f.kind)

/-- The MMA of a full set issues: the engine accepts it, the signers retire (R323 to R326). -/
def State.issueMma (s : State) (g : GRef) (y : Group) (cv : Nat) (ms : List TRef) (sg : List Sig) : State :=
  match sg with
  | [] => s
  | f :: _ =>
    let r := y.cv cv
    let reg := regionOf f.c
    let q := s.takeSeq g.coreRef
    let m : Mma :=
    { seq := q.1, ctx := g.ctx, grp := g.grp, cv := cv, kind := f.kind, k := f.k, rows := sg.map (·.a), b := f.b, reg := reg,
      ready := r.ready, cover := r.fence, since := q.1, spoil := [] }
    let s := q.2.setGroup g
      { (y.setCv cv { r with ready := false }) with
        mexc := y.mexc ||| xIf (!r.ready) xNOFEN
        uncov := y.uncov ++ [{ seq := q.1, cv := cv, reg := reg, kind := f.kind, k := f.k, rows := sg.map (·.a), b := f.b, lost := false }] }
    let s := (s.reviveTile g reg.tile).modCore g.coreRef fun k => { k with mmas := k.mmas ++ [m] }
    ms.foldl (fun s t => s.finish t {}) s

/-- The signers of a register, in rank order. -/
def State.signers (s : State) (g : GRef) (r : CvRec) (cv : Nat) : List (TRef × Sig) :=
  (s.cvMembers g r).filterMap fun e => (e.2.signed cv).map fun q => (e.1, q)

/-- Whether any thread of a group has signed a register whose MMA has not issued, a member of what is declared now or not (R322). -/
def State.anySigned (s : State) (g : GRef) (cv : Nat) : Bool := (s.groupThreads g).any fun e => (e.2.signed cv).isSome

/-- Check a register's signed set, and act when it is complete (R323, R325). DEDUCED: log 38. -/
def State.mmaCheck (s : State) (g : GRef) (cv : Nat) : State :=
  match s.group? g with
  | none => s
  | some y =>
    let r := y.cv cv
    let sg := s.signers g r cv
    let out := (s.cvMembers g r).any fun e => e.2.st == .exited
    if !r.decl || sg.isEmpty || (sg.length != r.count && !out) then s
    else if out || sigsDiffer r (sg.map (·.2)) then sg.foldl (fun s e => s.finishTrap e.1 .mismatch 0) s
    else if s.sigsBad g y (sg.map (·.2)) then sg.foldl (fun s e => s.finishTrap e.1 .badwin 0) s
    else if 4 ≤ (s.core g.coreRef).mmas.length then s
    else s.issueMma g y cv (sg.map (·.1)) (sg.map (·.2))

/-- Every register of a group, in ascending order. -/
def State.mmaCheckAll (s : State) (g : GRef) : State := (List.range 8).foldl (fun s n => s.mmaCheck g n) s

/-- A full set that waits for room: its group and register, the first by group and then by register. DEDUCED: log 41. -/
def State.roomSet (s : State) (c : CCRef) : Option (GRef × Group × Nat) :=
  (s.groups.filter fun e => e.1.ccRef == c).findSome? fun e =>
    ((List.range 8).find? fun n => let r := e.2.cv n
      r.decl && r.count != 0 && (s.signers e.1 r n).length == r.count).map fun n => (e.1, e.2, n)


/-- MMA_ISSUE_ON_ROOM (R325). DEDUCED: log 41. -/
def execMmaIssueOnRoom (c : CoreRef) (s : State) : Out State Fault Refusal :=
  let cc := s.heldBy c
  if 4 ≤ (s.core c).mmas.length || !s.ctxRuns cc.ctxRef then .next s
  else
    match s.roomSet cc with
    | none => .next s
    | some (g, y, n) =>
      let sg := s.signers g (y.cv n) n
      .next (s.issueMma g y n (sg.map (·.1)) (sg.map (·.2)))

/-! ### Waits on the engine (R322, R328, R332) -/

def Core.mmaOn (k : Core) (g : GRef) (cv : Nat) : Bool := k.mmas.any fun m => m.ctx == g.ctx && m.grp == g.grp && m.cv == cv
def Core.mmaLeft (k : Core) (seqs : List Nat) : Bool := k.mmas.any fun m => seqs.contains m.seq

/-- The tiles a mask would make dead. -/
def dying (live mask : BitVec 8) : BitVec 8 := live &&& ~~~mask

/-- Whether an operation of a group writes a tile of a mask (R332). -/
def State.tilesBusy (s : State) (g : GRef) (tiles : BitVec 8) : Bool :=
  ((s.core g.coreRef).mmas.any fun m => m.ctx == g.ctx && m.grp == g.grp && tiles.getLsbD m.reg.tile)
    || (s.groupThreads g).any fun e => e.2.ph == .matOp && (match e.2.cur with
      | some (.mzero _ a) | some (.mload _ _ a _) => tiles.getLsbD (regionOf (e.2.rd a)).tile
      | _ => false)

/-- MLIVE's effect (R332). -/
def State.applyLive (s : State) (g : GRef) (mask : BitVec 8) : State :=
  (List.range 8).foldl (fun s t =>
    match s.group? g with
    | some y =>
      if y.mlive.getLsbD t && !mask.getLsbD t then s.killTile g t
      else if !y.mlive.getLsbD t && mask.getLsbD t then s.reviveTile g t
      else s
    | none => s) s

/-- Count and base of an MDECL, or none where R322 refuses them. -/
def declOf (x : Thread) (gsz : Nat) (a b : Src) : Option (Nat × Nat) :=
  let c := (x.src a).toInt
  let b := (x.src b).toInt
  if c < 16 ∨ 128 < c ∨ c % 16 ≠ 0 ∨ b < 0 ∨ (gsz : Int) < b + c then none else some (c.toNat, b.toNat)

def State.declare (s : State) (g : GRef) (cv : Nat) (d : Nat × Nat) : State :=
  s.modGroup g fun y => y.setCv cv { y.cv cv with decl := true, count := d.1, base := d.2 }

/-- The record an XSET of a convergence register leaves (R322, R326, R408); none where R322 refuses the declaration. -/
def CvRec.ofWord (r : CvRec) (w : Word) (gsz : Nat) : Option CvRec :=
  let c := bitsOf w.toNat 23 16
  let b := bitsOf w.toNat 11 0
  if !w.getLsbD 31 then some { CvRec.clear with fence := r.fence }
  else if c < 16 ∨ 128 < c ∨ c % 16 ≠ 0 ∨ gsz < b + c then none
  else some { r with decl := true, count := c, base := b, ready := false }

/-- What a thread that waits for a convergence register to be idle does to it: the signed set is then checked against the new declaration (R323). -/
def State.cvApply (s : State) (t : TRef) (x : Thread) (g : Group) (cv : Nat) : State :=
  match x.cur with
  | some (.mdecl _ _ a b) => match declOf x g.gsz a b with
    | some d => (s.declare t.group cv d).mmaCheck t.group cv
    | none => s
  | some (.xsetStruct _ _ b) => match (g.cv cv).ofWord (x.rd b) g.gsz with
    | some r => (s.modGroup t.group fun y => y.setCv cv r).mmaCheck t.group cv
    | none => s
  | _ => s

/-- The rows of the tile of A at a placement: down to the last cell of which a row word names a row. DEDUCED: log 39. -/
def tileRows (rows : List Word) (p : Nat) : Nat :=
  rows.foldl (fun n w => if rowPlace w = p then max n (16 * (rowNum w / 16 + 1)) else n) 0

/-- The places of the elements of the operand tiles of an MMA, tile by tile: B, and A's by their placements. -/
def mmaTiles (kind : MmaKind) (k n : Nat) (rows : List Word) (b : Word) : List (Option Nat × List Nat) :=
  let cb := mmaCb kind
  (none, (List.range n).flatMap fun j => (List.range k).map fun i => placeAt b.toNat n cb i j)
    :: (rows.map rowPlace).eraseDups.map fun p =>
      (some p, (List.range (tileRows rows p)).flatMap fun r => (List.range k).map fun i => placeAt p k cb r i)

/-- The tiles among them that have been written since a write number; the elements are of n bytes (R327). -/
def State.tainted (s : State) (c : CCRef) (since n : Nat) (tiles : List (Option Nat × List Nat)) : List (Option Nat) :=
  let x := s.holding c
  if x.wseq.any fun w => decide (since ≤ stampSeq w.2) then
    (tiles.filter fun t => t.2.any fun o => (List.range n).any fun i => decide (since ≤ stampSeq (Tab.get 0 x.wseq (o + i)) ∧ Tab.get 0 x.wseq (o + i) ≠ 0)).map (·.1)
  else []

/-- The cells of an MMA that has been completed to which an operand tile that has been written before its MWAIT contributes: they hold free values (R243,
R327). DEDUCED: log 39. -/
def State.spoilCells (s : State) (g : GRef) (u : Uncov) : State :=
  match s.group? g with
  | none => s
  | some y =>
    let bad := s.tainted g.ccRef u.seq (mmaCb u.kind / 256) (mmaTiles u.kind u.k u.reg.n u.rows u.b)
    if u.lost || bad.isEmpty then s
    else
      let hit := fun row => bad.contains none || bad.contains (some (rowPlace (u.rows.getD (row - u.reg.row0) 0)))
      let l := ((u.reg.cells.zip (List.range u.reg.cells.length)).filter fun e => hit e.1.1).map fun e => (y.cellIx e.1.1 e.1.2, Config.freeWord (s.fresh + e.2))
      { s with fresh := s.fresh + u.reg.cells.length }.putCells g.ccRef l

/-- An MWAIT covers what was issued on its register before it (R327, R328). DEDUCED: log 39. -/
def State.covered (s : State) (g : GRef) (cv : Nat) (p : Nat → Bool) : State :=
  let us : List Uncov := match s.group? g with
    | some y => y.uncov.filter fun u => u.cv == cv && p u.seq
    | none => []
  (us.foldl (fun s u => s.spoilCells g u) s).modGroup g fun y => { y with uncov := y.uncov.filter fun u => !(u.cv == cv && p u.seq) }

/-- Whether a thread that waits on the engine may go on. -/
def State.matReady (s : State) (t : TRef) (x : Thread) : Bool :=
  match x.ph with
  | .mwait _ seqs => !(s.core t.coreRef).mmaLeft seqs
  | .cvIdle cv => !(s.core t.coreRef).mmaOn t.group cv
  | .mlive mask => match s.group? t.group with
    | some y => !s.tilesBusy t.group (dying y.mlive mask)
    | none => false
  | _ => false

/-- Threads that wait on the engine go on, the lowest HTID first. -/
def State.matWake (s : State) (c : CCRef) : Nat → State
  | 0 => s
  | n + 1 =>
    match s.lowest c fun t x => s.matReady t x with
    | none => s
    | some (t, x) =>
      let s' := match x.ph, x.cur, s.group? t.group with
        | .mwait cv seqs, _, _ => s.covered t.group cv fun q => seqs.contains q
        | .cvIdle cv, _, some g => s.cvApply t x g cv
        | .mlive mask, _, _ => s.applyLive t.group mask
        | _, _, _ => s
      (s'.finish t {}).matWake c n

def State.wakeMat (s : State) (c : CCRef) : State := s.matWake c 3072

/-! ### The instructions -/

/-- MMA (R323). -/
def execMma (h : Hints) (kind : MmaKind) (k : BitVec 4) (cv : BitVec 3) (a b c : VReg) (s : State) : Out State Fault Refusal :=
  issue s (.mma h kind k cv a b c) fun t x g =>
    let r := g.cv cv.toNat
    if !r.decl || decide (t.rank < r.base) || decide (r.base + r.count ≤ t.rank) then .next (s.trapHere t x .mismatch)
    else if s.unretired t then .next (s.hold t)
    else
      .next ((s.await t x (.mma h kind k cv a b c) (.sign cv.toNat kind k (x.rd a) (x.rd b) (x.rd c)) none).mmaCheck t.group cv.toNat)

/-- MDECL (R322). -/
def execMdecl (h : Hints) (cv : BitVec 3) (a b : Src) (s : State) : Out State Fault Refusal :=
  issue s (.mdecl h cv a b) fun t x g =>
    match declOf x g.gsz a b with
    | none => .next (s.trapHere t x .badwin)
    | some d =>
      if s.anySigned t.group cv.toNat then .next (s.trapHere t x .mismatch)
      else if (s.core t.coreRef).mmaOn t.group cv.toNat then .next (s.await t x (.mdecl h cv a b) (.cvIdle cv.toNat) none)
      else .next ((s.declare t.group cv.toNat d).retire t x h {})

/-- MWAIT (R328). -/
def execMwait (h : Hints) (cv : BitVec 3) (s : State) : Out State Fault Refusal :=
  issue s (.mwait h cv) fun t x _ =>
    let seqs := ((s.core t.coreRef).mmas.filter fun m => m.ctx == t.ctx && m.grp == t.grp && m.cv == cv.toNat).map (·.seq)
    let s := s.covered t.group cv.toNat fun q => !seqs.contains q
    if seqs.isEmpty then .next (s.retire t x h {}) else .next (s.await t x (.mwait h cv) (.mwait cv.toNat seqs) none)

/-- MFENCE (R326): stores to the executing core's scratchpad are performed at its banks as they retire. -/
def execMfence (h : Hints) (cv : BitVec 3) (s : State) : Out State Fault Refusal :=
  issue s (.mfence h cv) fun t x _ =>
    let q := s.takeSeq t.coreRef
    .next ((q.2.modGroup t.group fun y => y.setCv cv.toNat { y.cv cv.toNat with ready := true, fence := q.1 }).retire t x h {})

/-- MZERO (R331). -/
def execMzero (h : Hints) (a : VReg) (s : State) : Out State Fault Refusal :=
  issue s (.mzero h a) fun t x g =>
    if !regionOk (x.rd a) g.tiles.length then .next (s.trapHere t x .badwin)
    else .next ((s.await t x (.mzero h a) .matOp none).reviveTile t.group (regionOf (x.rd a)).tile)

/-- Cell bytes of MSTORE's tile (R331). -/
def mcellCb : MCell → Nat
  | .bf16 => 512
  | _ => 1024

/-- The checks of MLOAD and MSTORE (R320, R321, R331). -/
def State.moveOk (s : State) (t : TRef) (g : Group) (reg place : Word) (cb : Nat) : Bool :=
  regionOk reg g.tiles.length && s.matPlaceOk t.ccRef t.grp g.rings place (regionOf reg).m (regionOf reg).n cb

/-- MLOAD (R331). -/
def execMload (h : Hints) (i32 : Bool) (a b : VReg) (s : State) : Out State Fault Refusal :=
  issue s (.mload h i32 a b) fun t x g =>
    if !s.moveOk t g (x.rd a) (x.rd b) 1024 then .next (s.trapHere t x .badwin)
    else .next ((s.await t x (.mload h i32 a b) .matOp none).reviveTile t.group (regionOf (x.rd a)).tile)

/-- MSTORE (R331). -/
def execMstore (h : Hints) (cell : MCell) (a b : VReg) (s : State) : Out State Fault Refusal :=
  issue s (.mstore h cell a b) fun t x g =>
    if !s.moveOk t g (x.rd a) (x.rd b) (mcellCb cell) then .next (s.trapHere t x .badwin)
    else .next (s.await t x (.mstore h cell a b) .matOp none)

/-- MLIVE (R332). -/
def execMlive (h : Hints) (mask : BitVec 8) (s : State) : Out State Fault Refusal :=
  issue s (.mlive h mask) fun t x g =>
    if 2 ^ g.tiles.length ≤ mask.toNat then .next (s.trapHere t x .badwin)
    else if s.tilesBusy t.group (dying g.mlive mask) then .next (s.await t x (.mlive h mask) (.mlive mask) none)
    else .next ((s.applyLive t.group mask).retire t x h {})

/-- The MSTAT word (R333). -/
def Group.mstat (g : Group) (qn : Nat) : Nat := g.mexc.toNat * 2 ^ 16 + qn * 2 ^ 8 + g.mlive.toNat

/-- MSTAT (R333). -/
def execMstat (h : Hints) (d : VReg) (s : State) : Out State Fault Refusal :=
  issue s (.mstat h d) fun t x g =>
    let qn := ((s.core t.coreRef).mmas.filter fun m => m.ctx == t.ctx && m.grp == t.grp).length
    .next ((s.setGroup t.group { g with mexc := 0 }).retire t x h (vRes d (BitVec.ofNat 32 (g.mstat qn))))

end Sys2Proof.Machine
end

