-- ==== Sys2Proof/Machine/SystemInstr.lean ====
section
/-! DEFINITION. The system instructions (18_traps.md R395, R397, R398, R404 to R410): system registers, TRET, the handler's view of its
group's threads and of the operand log, structured registers, PLACE. -/
namespace Sys2Proof.Machine
open Sys2Proof

/-! ### Register words -/

def TSt.code : TSt → Nat
  | .ready => 0
  | .wait => 1
  | .parked => 2
  | .trapped => 3
  | .swapped => 5
  | .exited => 6

def Reason.code : Reason → Nat
  | .rejoin => 1
  | .barrier => 2
  | .rendezvous => 3
  | .address => 4
  | .sleep => 5
  | .matrix => 6
  | .channel => 7
  | .ring => 8
  | .launch => 9
  | .signal => 10

/-- The wait reason a thread reports: 0 unless it is in WAIT (R395). DEDUCED: log 69. -/
def Thread.reasonCode (x : Thread) : Nat :=
  if x.st = .wait then (x.ph.reason.map Reason.code).getD 0 else 0

/-- The TSW word without KICK, which reads 0 (R395). DEDUCED: log 69. -/
def tswWord (x : Thread) (npark : Nat) : Word :=
  BitVec.ofNat 32 (x.cause.toNat * 2 ^ 24 + x.reasonCode * 2 ^ 20 + x.st.code * 2 ^ 16 + npark * 2 ^ 12
    + (if x.h then 2 else 0) + (if x.step then 1 else 0))

/-- GRANTS (R116). -/
def Group.grants (g : Group) : Word :=
  BitVec.ofNat 32 (g.rings.toNat * 2 ^ 24 + g.chans.toNat * 2 ^ 16 + g.count * 2 ^ 7 + (if g.count = 0 then 0 else g.first))

/-- The logical port of the time reference within its die (R35). -/
def State.refPort (s : State) : Nat :=
  ((List.range 6).find? fun i => s.physPort (s.time.port / 6) i == some (s.time.port % 6)).getD 0

/-- TIMESTAT (R35). -/
def State.timestat (s : State) : Word :=
  BitVec.ofNat 32 (min s.time.lostcnt 0xFFFF * 2 ^ 8 + s.refPort * 2 ^ 3 + s.time.st.code)

/-- STALLn: the latched ratios and the current ratio (R461). -/
def Slice.stallWord (x : Slice) : Word := (x.stall &&& 0xFFFFFF00) ||| BitVec.ofNat 32 x.n

/-- ENERGYHI as it stands (R467). -/
def Core.energyHi (c : Core) : Word := BitVec.ofNat 32 ((if c.wrap then 2 ^ 31 else 0) + c.energy.toNat / 2 ^ 32)

/-- BUDGET (R465). -/
def Core.budgetWord (c : Core) : Word := BitVec.ofNat 32 (min (c.bytes / 64) 0xFFFF * 2 ^ 16 + bitsOf c.pwrctl.toNat 47 32)

/-- VTIME as a thread reads it: never less than it read before (R40). -/
def State.threadVtime (s : State) (t : TRef) (x : Thread) : DWord := dmax (s.ctxVtime t.ctxRef (s.coreTime t.coreRef)) x.lastVt

/-- What SYSR reads (R404). DEDUCED: log 24. -/
def State.sysVal (s : State) (t : TRef) (x : Thread) (g : Group) (n : Nat) : DWord :=
  let k := s.core t.coreRef
  let w := fun v : Word => v.setWidth 64
  match n with
  | 0x000 => BitVec.ofNat 64 t.rank
  | 0x001 => BitVec.ofNat 64 g.gsz
  | 0x002 => BitVec.ofNat 64 (htidLane x.htid)
  | 0x003 => BitVec.ofNat 64 (htidSlice x.htid)
  | 0x004 => BitVec.ofNat 64 t.core
  | 0x005 => BitVec.ofNat 64 (coreQuad t.core)
  | 0x006 => BitVec.ofNat 64 (coreDie t.core)
  | 0x007 => s.pestle.pkg.setWidth 64
  | 0x008 => BitVec.ofNat 64 g.grank
  | 0x009 => BitVec.ofNat 64 t.ctx
  | 0x00A => (s.ctx t.ctxRef).gen.setWidth 64
  | 0x00B => BitVec.ofNat 64 x.htid
  | 0x00C => w g.grants
  | 0x010 => s.coreTime t.coreRef
  | 0x011 => s.threadVtime t x
  | 0x012 => BitVec.ofNat 64 s.epsilon
  | 0x013 => w s.timestat
  | 0x014 => x.wctmax
  | 0x020 => w (tswWord x (s.npark t))
  | 0x021 => x.epc
  | 0x022 => x.taddr
  | 0x023 => w x.tinfo
  | 0x024 => g.handler.setWidth 64
  | 0x025 => x.fflags.setWidth 64
  | 0x026 => x.lxflags.setWidth 64
  | 0x027 => BitVec.ofNat 64 (g.w * 2 ^ 8 + x.live.toNat)
  | 0x030 => w g.sidethr
  | 0x031 => w g.sideptr
  | 0x046 => k.energy.setWidth 64 &&& 0xFFFFFFFF
  | 0x047 => w (x.elatch.getD k.energyHi)
  | 0x048 => w k.budgetWord
  | _ => if 0x40 ≤ n ∧ n ≤ 0x45 then w (k.slices.getD (n - 0x40) Slice.reset).stallWord else 0

/-- What a SYSR leaves in its thread: the energy latch, and the last VTIME read (R40, R467). -/
def State.sysRead (s : State) (t : TRef) (x : Thread) (n : Nat) : Thread :=
  match n with
  | 0x011 => { x with lastVt := s.threadVtime t x }
  | 0x046 => { x with elatch := some (s.core t.coreRef).energyHi }
  | _ => x

/-- SYSR (R405). -/
def execSysr (h : Hints) (d : VReg) (n : BitVec 12) (s : State) : Out State Fault Refusal :=
  issue s (.sysr h d n) fun t x g =>
    let v := s.sysVal t x g n.toNat
    .next (s.retire t (s.sysRead t x n.toNat) h (if sysWide n = some true then dRes d v else vRes d (v.setWidth 32)))

/-- The thread's registers that SYSW writes (R404). DEDUCED: log 24. -/
def Thread.sysWrite (x : Thread) (n : Nat) (v : DWord) : Thread :=
  match n with
  | 0x020 => { x with step := v.getLsbD 0 }
  | 0x021 => { x with epc := v }
  | 0x025 => { x with fflags := v.setWidth 5 }
  | 0x026 => { x with lxflags := v.setWidth 5 }
  | _ => x

/-- The group's registers that SYSW writes (R196, R397, R404). DEDUCED: log 24. -/
def Group.sysWrite (g : Group) (n : Nat) (v : DWord) : Group :=
  match n with
  | 0x024 => { g with handler := v.setWidth 56 &&& ~~~3 }
  | 0x030 => { g with sidethr := v.setWidth 32 }
  | 0x031 => { g with sideptr := v.setWidth 32 &&& 0x803FFFFE }
  | _ => g

/-- SYSW (R405). DEDUCED: log 24. -/
def execSysw (h : Hints) (a : VReg) (n : BitVec 12) (s : State) : Out State Fault Refusal :=
  issue s (.sysw h a n) fun t x g =>
    let v := if sysWide n = some true then x.rdPair a else (x.rd a).setWidth 64
    .next ((s.setGroup t.group (g.sysWrite n.toNat v)).retire t (x.sysWrite n.toNat v) h {})

/-- TRET (R398): a bad EPC is a double trap. The instruction at EPC is eligible 12 slice cycles later. -/
def execTret (h : Hints) (s : State) : Out State Fault Refusal :=
  issue s (.tret h) fun t x _ =>
    if !x.h then .next (s.trapHere t x .undef)
    else
      match targetTrap x.epc with
      | some c => .next (s.doubleTrap t x.htid c)
      | none =>
        let s := s.retire t x h { pc := some (x.epc.setWidth 56) }
        let s := s.modThread t fun y => { y with h := false, st := if 0 < s.npark t then .parked else .ready, gap := max y.gap 11 }
        .next (s.freeDelivered t)

/-! ### Other threads of the group (R405) -/

/-- The thread of a group with an HTID. -/
def State.htidThread (s : State) (g : GRef) (h : Nat) : Option (TRef × Thread) := (s.groupThreads g).find? fun e => e.2.htid == h

/-- TSWR (R405). -/
def execTswr (h : Hints) (d a : VReg) (s : State) : Out State Fault Refusal :=
  issue s (.tswr h d a) fun t x _ =>
    if !x.h then .next (s.trapHere t x .undef)
    else
      match s.htidThread t.group (x.rd a).toNat with
      | none => .next (s.trapHere t x .badwin)
      | some (u, y) => .next (s.retire t x h (vRes d (tswWord y (s.npark u))))

/-- TSWW's write: STEP, and KICK to a thread that has not exited (R401, R405). -/
def Thread.tsww (x : Thread) (v : Word) : Thread :=
  { x with step := v.getLsbD 0, kick := x.kick || (v.getLsbD 2 && x.st != .exited) }

/-- TSWW (R405); a kick that finds its target in a wait it ends, or READY, is taken at once (R401). -/
def execTsww (h : Hints) (a b : VReg) (s : State) : Out State Fault Refusal :=
  issue s (.tsww h a b) fun t x _ =>
    if !x.h then .next (s.trapHere t x .undef)
    else
      match s.htidThread t.group (x.rd a).toNat with
      | none => .next (s.trapHere t x .badwin)
      | some (u, _) => .next (((s.retire t x h {}).modThread u fun y => y.tsww (x.rd b)).takeKick u)

/-! ### The operand log (R285, R406) -/

def OStat.code : OStat → Nat
  | .waiting => 1
  | .released => 2
  | .delivering => 3

/-- The 512 bits of an entry. -/
def OEntry.bits (e : OEntry) : Nat :=
  e.ptime.toNat * 2 ^ 384 + wordsNat (e.data.take 4) * 2 ^ 256 + e.ea.toNat * 2 ^ 192 + e.word.toNat * 2 ^ 96 + e.pc.toNat * 2 ^ 32
    + e.sub % 16 * 2 ^ 28 + e.ccls.ccls * 2 ^ 26 + e.stat.code * 2 ^ 24 + e.htid % 2 ^ 12

/-- OLOGR (R406). -/
def execOlogr (h : Hints) (d a : VReg) (b : Src) (s : State) : Out State Fault Refusal :=
  issue s (.ologr h d a b) fun t x _ =>
    let w := (x.src b).toNat
    if !x.h then .next (s.trapHere t x .undef)
    else if 255 < (x.rd a).toNat ∨ 15 < w then .next (s.trapHere t x .badwin)
    else
      let v := match (s.holding t.ccRef).olog.get? (x.rd a).toNat with
        | some e => if e.grp = t.grp then bitsOf e.bits (32 * w + 31) (32 * w) else 0
        | none => 0
      .next (s.retire t x h (vRes d (BitVec.ofNat 32 v)))

/-! ### Predicates and structured registers (R407, R408) -/

/-- XGET_PRED (R407). -/
def execXgetPred (h : Hints) (d : VReg) (s : State) : Out State Fault Refusal :=
  compute s (.xgetPred h d) fun x => vRes d (x.preds.setWidth 32)

/-- XSET_PRED (R407). -/
def execXsetPred (h : Hints) (b : VReg) (s : State) : Out State Fault Refusal :=
  compute s (.xsetPred h b) fun x => { ps := (List.range 15).map fun i => (BitVec.ofNat 4 i, (x.rd b).getLsbD i) }

/-- The word of a structured register as a thread reads it. -/
def State.structWord (s : State) (t : TRef) (x : Thread) (g : Group) : SReg → Nat
  | .nb n => (s.bar t.group (.nb n)).word (x.pend (.nb n))
  | .gb n => (s.bar t.group (.gb n)).word (x.pend (.gb n))
  | .jb n => (if x.enrolled n then 2 ^ 31 else 0) + (if x.arrived n then 2 ^ 30 else 0) + s.rejoinWord t.group n
  | .cv n =>
    let r := g.cv n.toNat
    let infl := ((s.core t.coreRef).mmas.filter fun m => m.ctx == t.ctx && m.grp == t.grp && m.cv == n.toNat).length
    (if r.decl then 2 ^ 31 else 0) + (if (x.signed n.toNat).isSome then 2 ^ 30 else 0) + min infl 7 * 2 ^ 27 + r.count % 256 * 2 ^ 16
      + r.base % 4096

/-- XGET_STRUCT (R408). -/
def execXgetStruct (h : Hints) (d : VReg) (a : SReg) (s : State) : Out State Fault Refusal :=
  issue s (.xgetStruct h d a) fun t x g => .next (s.retire t x h (vRes d (BitVec.ofNat 32 (s.structWord t x g a))))

/-- XSET of a convergence register (R322, R408). -/
def State.xsetCv (s : State) (t : TRef) (x : Thread) (g : Group) (h : Hints) (n : BitVec 3) (b : VReg) : State :=
  match (g.cv n.toNat).ofWord (x.rd b) g.gsz with
  | none => s.trapHere t x .badwin
  | some r =>
    if s.anySigned t.group n.toNat then s.trapHere t x .mismatch
    else if (s.core t.coreRef).mmaOn t.group n.toNat then s.await t x (.xsetStruct h (.cv n) b) (.cvIdle n.toNat) none
    else (s.setGroup t.group (g.setCv n.toNat r)).retire t x h {}

/-- XSET_STRUCT (R345, R408). -/
def execXsetStruct (h : Hints) (a : SReg) (b : VReg) (s : State) : Out State Fault Refusal :=
  issue s (.xsetStruct h a b) fun t x g =>
    match a with
    | .nb n => .next (((s.modBar t.group (.nb n) fun r => r.ofWord (x.rd b)).retire t x h {}).barCheck t.group (.nb n))
    | .gb n => .next (((s.modBar t.group (.gb n) fun r => r.ofWord (x.rd b)).retire t x h {}).barCheck t.group (.gb n))
    | .jb n =>
      let y := if (x.rd b).getLsbD 31 then x.enrol n else x.withdraw n
      .next ((s.retire t y h {}).rejoinCheck t.group n)
    | .cv n => .next (s.xsetCv t x g h n b)

/-! ### PLACE (R409) -/

/-- DIST between two logical dies of a partition, for different cores. -/
def State.dieDist (s : State) (p a b : Nat) : Nat :=
  if a = b then 2 else if adjacentDies ((s.partDies p).getD a 0) ((s.partDies p).getD b 0) then 3 else 4

def placeId (x : Thread) (a : Src) : Nat := (x.src a).toNat

/-- PLACE_CORE (R409). -/
def execPlaceCore (h : Hints) (d : VReg) (a : Src) (s : State) : Out State Fault Refusal :=
  issue s (.placeCore h d a) fun t x _ =>
    let c := placeId x a
    let dist := if c = t.core then 0 else if coreQuad c = coreQuad t.core then 1 else s.dieDist t.part (coreDie t.core) (coreDie c)
    let v := if s.coreValid t.part c then 2 ^ 31 + dist * 2 ^ 28 + coreDie c * 2 ^ 16 + coreQuad c * 2 ^ 8 else 0
    .next (s.retire t x h (vRes d (BitVec.ofNat 32 v)))

/-- PLACE_DIE (R409). -/
def execPlaceDie (h : Hints) (d : VReg) (a : Src) (s : State) : Out State Fault Refusal :=
  issue s (.placeDie h d a) fun t x _ =>
    let e := placeId x a
    let dist := if e = coreDie t.core then 0 else s.dieDist t.part (coreDie t.core) e
    let v := if e < (s.partDies t.part).length then 2 ^ 31 + dist * 2 ^ 28 + e * 2 ^ 16 else 0
    .next (s.retire t x h (vRes d (BitVec.ofNat 32 v)))

/-- PLACE_PORT (R409). -/
def execPlacePort (h : Hints) (d : VReg) (a : Src) (s : State) : Out State Fault Refusal :=
  issue s (.placePort h d a) fun t x _ =>
    let e := placeId x a
    let w := (s.die ((s.partDies t.part).getD (e / 6) 0)).ppt.getD (e % 6) 0
    let v := if e / 6 < (s.partDies t.part).length ∧ w.getLsbD 31 = true then 2 ^ 31 + bitsOf w.toNat 7 4 * 2 ^ 24 + e / 6 * 2 ^ 16 else 0
    .next (s.retire t x h (vRes d (BitVec.ofNat 32 v)))

end Sys2Proof.Machine
end

