-- ==== Sys2Proof/Machine/Save.lean ====
section
/-! DEFINITION. The image of a context: the records of its groups, threads, channels, rings, log and replay lists, and where they go
(13_copy.md R309, R314, 19_context.md R415 to R422). -/
namespace Sys2Proof.Machine
open Sys2Proof

/-! ### Records -/

def roleCode : Role → Nat
  | .general => 0
  | .copy => 1
  | .matrix => 2
  | .vector => 3

def GSt.code : GSt → Nat
  | .allocated => 1
  | .resident => 2
  | .retiring => 3
  | .swapped => 4

/-- A sum of words, the first at bit `lo`, each `w` bits above the one before. -/
def packWords (w : Nat) : Nat → List Nat → Nat
  | _, [] => 0
  | lo, v :: vs => v % 2 ^ w * 2 ^ lo + packWords w (lo + w) vs

/-- The word of a convergence register as it is saved, READY 0 (R420). -/
def CvRec.saved (r : CvRec) : Nat := (if r.decl then 2 ^ 31 else 0) + r.count % 256 * 2 ^ 16 + r.base % 4096

def State.latchOf (s : State) (g : GRef) (y : Group) : Option SwapLatch :=
  if y.gangN ≤ 1 then y.latch else (s.gang? (y.gangRef g)).bind (·.latch)

def SwapLatch.bits (l : SwapLatch) : Nat :=
  2 ^ 1379 + l.cmp.code.toNat * 2 ^ 1376 + l.b.toNat * 2 ^ 1344 + l.ea.toNat * 2 ^ 1280

/-- The words of a group's gang barriers. -/
def State.gbWords (s : State) (g : GRef) : List Nat := (List.range 4).map fun n => (s.bar g (.gb (BitVec.ofNat 2 n))).word false

/-- A group record (R420); TMAP is written in swap images only. -/
def State.groupBits (s : State) (g : GRef) (y : Group) (tmap : Bool) : Nat :=
  (match s.latchOf g y with | some l => l.bits | none => 0)
    + packWords 32 1152 (s.gbWords g) + packWords 32 640 (y.nbs.map fun r => r.word false) + packWords 32 384 (y.cvs.map CvRec.saved)
    + y.handler.toNat * 2 ^ 320 + y.sideptr.toNat * 2 ^ 288 + y.sidethr.toNat * 2 ^ 256 + y.banks.toNat * 2 ^ 160
    + y.mexc.toNat * 2 ^ 152 + y.mlive.toNat * 2 ^ 144 + y.rings.toNat * 2 ^ 136 + y.chans.toNat * 2 ^ 128
    + y.grank % 2 ^ 8 * 2 ^ 120 + y.kidx % 2 ^ 8 * 2 ^ 112 + y.gnum % 2 ^ 32 * 2 ^ 80 + (if tmap then packWords 3 56 y.tiles else 0)
    + y.st.code * 2 ^ 20 + roleCode y.role * 2 ^ 18 + y.w % 2 ^ 4 * 2 ^ 12 + y.gsz / 32

/-- The latch fields of a thread record: LKIND, LATCH0 and LATCH1 (R421). -/
def Phase.latch : Phase → Nat × Nat × Nat
  | .rendezvous m a b => (1, m.toNat * 2 ^ 32 + a.toNat, b.toNat)
  | .sign cv kind k a b c => (2, b.toNat * 2 ^ 32 + a.toNat, cv % 8 * 2 ^ 40 + kind.code.toNat % 4 * 2 ^ 36 + k.toNat * 2 ^ 32 + c.toNat)
  | .address ea _ l0 _ => (3, l0.toNat, ea.toNat)
  | _ => (0, 0, 0)

def livew (x : Thread) (w : Nat) : Nat := w % 16 * 2 ^ 8 + x.live.toNat

/-- A thread record (R421). -/
def threadBits (x : Thread) (w npark : Nat) : Nat :=
  let l := x.ph.latch
  x.htid % 2 ^ 12 * 2 ^ 816 + l.1 * 2 ^ 810 + (if x.ph.isSwap then 2 ^ 809 else 0) + (if x.kick then 2 ^ 808 else 0)
    + x.gbPend.toNat * 2 ^ 800 + x.nbPend.toNat * 2 ^ 784 + x.jbA.toNat * 2 ^ 768 + x.jbE.toNat * 2 ^ 752 + x.preds.toNat * 2 ^ 736
    + livew x w * 2 ^ 704 + x.lxflags.toNat * 2 ^ 672 + x.fflags.toNat * 2 ^ 640 + x.tinfo.toNat * 2 ^ 608
    + (tswWord x npark).toNat * 2 ^ 576 + l.2.2 * 2 ^ 512 + l.2.1 * 2 ^ 448
    + (match x.deadline with | some d => d.toNat | none => 2 ^ 64 - 1) * 2 ^ 384 + x.wseen.toNat * 2 ^ 320 + x.wline.toNat * 2 ^ 256
    + x.wctmax.toNat * 2 ^ 192 + x.taddr.toNat * 2 ^ 128 + x.epc.toNat * 2 ^ 64 + x.pc.toNat

/-- The 64 bytes of a window. -/
def windowBytes (x : Thread) (w : Nat) : List Byte :=
  (List.range 16).flatMap fun i => leBytes (Tab.get 0 x.regs (16 * w + i)).toNat 4

/-- The windows a save writes: those that are live (R132). -/
def liveWindows (x : Thread) : List Nat := (List.range 8).filter fun w => x.live.getLsbD w

def threadBytes (x : Thread) (w npark : Nat) : List Byte := leBytes (threadBits x w npark) 128 ++ (liveWindows x).flatMap (windowBytes x)

/-- Whether a channel's head copy has begun. -/
def Chan.begun (k : Chan) : Bool := k.started && !k.q.isEmpty

/-- A channel record (R309). DESIGN CHOICE: log 89. -/
def Chan.bits (k : Chan) : Nat :=
  packWords 512 512 (k.q.map (·.desc)) + k.ct.toNat * 2 ^ 448 + packWords 32 320 k.wp
    + (if k.begun then k.start else k.wp.getD 0 0) % 2 ^ 32 * 2 ^ 288 + k.stat % 2 ^ 32

/-- A ring record (R314). -/
def Ring.bits (r : Ring) : Nat :=
  r.ph.toNat * 2 ^ 128 + r.base % 2 ^ 32 * 2 ^ 96 + r.m % 2 ^ 32 * 2 ^ 64 + (if r.init then 2 ^ 31 else 0) + (if r.phold then 2 ^ 30 else 0)
    + (if r.chold then 2 ^ 29 else 0) + r.k % 2 ^ 7 * 2 ^ 16 + r.ccnt % 2 ^ 8 * 2 ^ 8 + r.pcnt % 2 ^ 8

/-- A replay entry (R419). -/
def Replay.bits (r : Replay) : Nat := r.htid % 2 ^ 12 * 2 ^ 160 + r.word.toNat * 2 ^ 64 + r.ea.toNat

/-! ### A core record (R419) -/

/-- A part of a core record, and whether an uncorrectable error was read into it (R429). -/
abbrev Chunk := List Byte × Bool

def zeros (n : Nat) : List Byte := List.replicate n 0

/-- A section padded to a multiple of 64 bytes. -/
def padded (l : List Chunk) : List Chunk :=
  let n := (l.map fun c => c.1.length).foldl (· + ·) 0
  if n % 64 = 0 then l else l ++ [(zeros (64 - n % 64), false)]

def State.threadChunk (s : State) (t : TRef) (x : Thread) (w : Nat) : Chunk :=
  (threadBytes x w (s.npark t), s.regPois.any fun e => e.1 == t && x.hasPois e.2)

/-- The thread records of a group, in rank order: a swapped-out group has none, and those of a group that has not started are its threads as they will
start (R419, R420). -/
def State.groupChunks (s : State) (g : GRef) (y : Group) : List Chunk :=
  match y.st, s.kernel? (y.kref g) with
  | .swapped, _ => []
  | .allocated, some k => (List.range y.gsz).map fun r => (threadBytes (y.starter k r) y.w 0, false)
  | _, _ => (List.range y.gsz).filterMap fun r => (s.thread? (g.thread r)).map fun x => s.threadChunk (g.thread r) x y.w

def State.bankChunk (s : State) (c : CCRef) (b : Nat) : Chunk :=
  ((s.holding c).bytesAt (b * bankSize) bankSize, s.scrPoisoned c (b * bankSize) bankSize)

/-- Whether a tile of a core holds an error (R494). -/
def State.tilePoisoned (s : State) (c : CCRef) (p : Nat) : Bool := s.accPois.any fun e => e.1 == c && e.2 / 8192 == p

def tileBytes (x : Holding) (p : Nat) : List Byte := (List.range 16384).flatMap fun i => leBytes (Tab.get 0 x.acc (16384 * p + i)).toNat 4

/-- The groups of a context on a core in record order: by their place in its group table. -/
def State.coreGroups (s : State) (c : CCRef) : List (GRef × Group) :=
  sortBy (fun e : GRef × Group => e.1.grp) (s.groups.filter fun e => e.1.ccRef == c)

def keysOf {α : Type} (d : Dict Nat α) (n : Nat) : List Nat := (List.range n).filter fun i => d.any fun e => e.1 == i

/-- The channels of a core that a core record holds: not those of a swapped-out group (R420). -/
def State.chansKept (s : State) (c : CCRef) : List Nat :=
  (keysOf (s.holding c).chans 8).filter fun n => !(s.coreGroups c).any fun e => e.2.st == .swapped && e.2.chans.getLsbD n

/-- The rings of a core that a core record holds: not those that only swapped-out groups share (R420). -/
def State.ringsKept (s : State) (c : CCRef) : List Nat :=
  (keysOf (s.holding c).rings 8).filter fun n =>
    let own := (s.coreGroups c).filter fun e => e.2.rings.getLsbD n
    own.isEmpty || own.any fun e => e.2.st != .swapped

/-- The core header (R419). -/
def coreHeader (x : Holding) (chans rings : List Nat) (core ngrp : Nat) : Nat :=
  packWords 64 544 ((x.plq.take 4).map BitVec.toNat)
    + ((x.banks.filter fun b => b.2.live).foldl (fun a b => a + 2 ^ b.1) 0) % 2 ^ 96 * 2 ^ 448
    + x.replay.length % 2 ^ 16 * 2 ^ 80 + x.olog.length % 2 ^ 16 * 2 ^ 64 + x.plq.length % 16 * 2 ^ 56
    + (maskOf 8 chans).toNat * 2 ^ 48 + (maskOf 8 rings).toNat * 2 ^ 40 + ngrp % 2 ^ 8 * 2 ^ 32 + core % 2 ^ 8

/-- Whether a context holds anything on a core. -/
def State.coreInUse (s : State) (c : CCRef) : Bool := s.groups.any (fun e => e.1.ccRef == c) || !(s.holding c).plq.isEmpty

def State.coreChunks (s : State) (c : CCRef) : List Chunk :=
  let x := s.holding c
  let gs := s.coreGroups c
  let num := fun (n w : Nat) => ((leBytes n w, false) : Chunk)
  [num (coreHeader x (s.chansKept c) (s.ringsKept c) c.core gs.length) 256] ++ gs.map (fun e => num (s.groupBits e.1 e.2 false) 256)
    ++ padded (gs.flatMap fun e => s.groupChunks e.1 e.2)
    ++ padded ((s.chansKept c).map fun n => num (x.chans.getD n (Chan.grant 0)).bits 320)
    ++ padded ((s.ringsKept c).map fun n => num (x.rings.getD n (Ring.grant 1 512)).bits 32)
    ++ padded ((keysOf x.olog 256).filterMap fun n => (x.olog.get? n).map fun o => num o.bits 64)
    ++ padded (x.replay.map fun r => num r.bits 32)
    ++ ((List.range 96).filter fun b => x.bankLive b).map (s.bankChunk c)
    ++ gs.flatMap fun e => if e.2.st = .swapped then [] else
        ((List.range 8).filter fun t => e.2.mlive.getLsbD t).map fun t => (tileBytes x (e.2.tiles.getD t 0), s.tilePoisoned c (e.2.tiles.getD t 0))

def chunksLen (l : List Chunk) : Nat := (l.map fun c => c.1.length).foldl (· + ·) 0

/-! ### Writing the image (R415, R416, R418, R429) -/

/-- A kernel-table entry (R418). -/
def KSt.code : KSt → Nat
  | .loaded => 1
  | .resident => 2
  | .fed => 3
  | .draining => 4
  | .retired => 5

def Kernel.bits (k : Kernel) : Nat :=
  k.nfree % 2 ^ 32 * 2 ^ 256 + k.nplaced % 2 ^ 32 * 2 ^ 224 + k.qlog % 2 ^ 5 * 2 ^ 200 + (if k.closed then 2 ^ 195 else 0) + k.st.code * 2 ^ 192
    + k.tail % 2 ^ 32 * 2 ^ 160 + k.head % 2 ^ 32 * 2 ^ 128 + k.qaddr.toNat * 2 ^ 64 + k.handle.toNat

/-- The pieces of n bytes at an address that lie in one block of 64 KiB each: dies and the host region begin and end at such a bound. -/
def blocksOf (pa n : Nat) : List (Nat × Nat) :=
  (List.range ((pa + n - 1) / 0x10000 + 1 - pa / 0x10000)).map fun i =>
    (max pa ((pa / 0x10000 + i) * 0x10000), min (pa + n) ((pa / 0x10000 + i + 1) * 0x10000) - max pa ((pa / 0x10000 + i) * 0x10000))

/-- Write to a save or a swap area; nothing is written outside the partition's dies, or in the host region (R23, R416, R488). DESIGN CHOICE: log 82. -/
def State.areaPut (s : State) (part key pa : Nat) (bs : List Byte) : State :=
  (blocksOf pa bs.length).foldl (fun s b =>
    if s.localRange part b.1 b.2 then s.homePut part key b.1 ((bs.drop (b.1 - pa)).take b.2) else s) s

/-- Read a save or a swap area; what lies outside the partition's dies has no home it could reach (R23, R416, R488). DESIGN CHOICE: log 82. -/
def State.areaRead (s : State) (part key pa n : Nat) : State × List Byte :=
  (blocksOf pa n).foldl (fun r b =>
    let q := if r.1.localRange part b.1 b.2 then r.1.homeRead part key b.1 b.2 else ((r.1.freeBytes b.2).2, (r.1.freeBytes b.2).1)
    (q.1, r.2 ++ q.2)) (s, [])

def State.saPut (s : State) (x : CtxRef) (off : Nat) (bs : List Byte) : State :=
  s.areaPut x.part (s.ctx x).ikey ((s.ctx x).saBase + off) bs

/-- Mark the sectors of a range poisoned. -/
def poisonRange (t : Tab Bool) (pa n : Nat) : Tab Bool :=
  (List.range ((pa + n - 1) / sectorSize + 1 - pa / sectorSize)).foldl (fun t i => Tab.put false t (pa / sectorSize + i) true) t

/-- Mark what has been written of a range of an area. -/
def State.poisonArea (s : State) (part pa n : Nat) : State :=
  (blocksOf pa n).foldl (fun s b => if s.localRange part b.1 b.2 then { s with poison := poisonRange s.poison b.1 b.2 } else s) s

/-- Write chunks one after another, with their poison marks. -/
def State.putChunks (s : State) (x : CtxRef) : Nat → List Chunk → State
  | _, [] => s
  | off, c :: cs =>
    let s := s.saPut x off c.1
    let s := if c.2 then s.poisonArea x.part ((s.ctx x).saBase + off) c.1.length else s
    s.putChunks x (off + c.1.length) cs

/-- Write the core records from core n on, with their directory entries; the offset after the last. -/
def State.putCores (s : State) (x : CtxRef) : List Nat → Nat → State × Nat
  | [], off => (s, off)
  | core :: cores, off =>
    let c : CCRef := { part := x.part, ctx := x.ctx, core := core }
    if s.coreInUse c then
      let l := s.coreChunks c
      let n := chunksLen l
      ((s.putChunks x off l).saPut x (0x5000 + 16 * core) (leBytes off 8 ++ leBytes n 8)).putCores x cores (off + n)
    else (s.saPut x (0x5000 + 16 * core) (zeros 16)).putCores x cores off

/-- The header (R416). -/
def Ctx.headerBits (y : Ctx) (x : CtxRef) (bytes st : Nat) : Nat :=
  y.swapbase.toNat * 2 ^ 640 + bytes * 2 ^ 576 + y.sealt.toNat * 2 ^ 512 + y.vhalt.toNat * 2 ^ 448 + y.pauseoff.toNat * 2 ^ 384
    + y.handler.toNat * 2 ^ 320 + y.ptroot.toNat * 2 ^ 256 + (if y.paused then 2 ^ 111 else 0) + y.gen.toNat * 2 ^ 88 + st * 2 ^ 80
    + x.ctx % 2 ^ 16 * 2 ^ 64 + 1

/-- The bytes of the kernel table. -/
def State.kernelTable (s : State) (x : CtxRef) : List Byte :=
  (List.range 256).flatMap fun i => match s.kernel? { part := x.part, ctx := x.ctx, kidx := i } with
    | some k => leBytes k.bits 64
    | none => zeros 64

/-- Whether a save has read an uncorrectable error (R429). -/
def State.ctxPoisoned (s : State) (x : CtxRef) : Bool :=
  (s.regPois.any fun e => e.1.ctxRef == x && (s.thread? e.1).any fun y => y.hasPois e.2)
    || (s.scrPois.any fun e => e.1.ctxRef == x && (s.holding e.1).bankLive (e.2 * 8 / bankSize)) || s.accPois.any fun e => e.1.ctxRef == x

/-- What the channel records do not hold of a context's channels: their copies' kinds, threads and hints, since when others' writes to them
count, and the line a channel is parked on (DESIGN CHOICE, log 19). -/
def State.noteCopies (s : State) (x : CtxRef) : State :=
  let old := s.copyMeta.filter fun e => e.1.1.ctxRef != x
  { s with copyMeta := old ++ (s.holds.filter fun h => h.1.ctxRef == x).flatMap fun h =>
      h.2.chans.map fun ch => ((h.1, ch.1), (ch.2.q, (ch.2.miss.map (·.2)).getD 0)) }

/-- What the records of a context's cores do not hold of their matrix operands (DESIGN CHOICE, log 19). -/
def State.noteMats (s : State) (x : CtxRef) : State :=
  let old : Dict CCRef MatKept := s.matMeta.filter fun e => e.1.ctxRef != x
  { s with matMeta := old ++ (s.holds.filter fun h => h.1.ctxRef == x).map fun h =>
      (h.1, { wseq := h.2.wseq, grps := (s.groups.filter fun e => e.1.ccRef == h.1).map fun e => (e.1.grp, (e.2.kidx, e.2.gnum), e.2.uncov, e.2.cvs.map (·.fence)) }) }

/-- The causes of the traps that a thread's delivering entries have still to deliver, in the order of the entries; none where the trap has been taken. -/
def State.owedTraps (s : State) (t : TRef) (x : Thread) : List (Option Cause) :=
  ((keysOf (s.holding t.ccRef).olog 256).filter fun n => match (s.holding t.ccRef).olog.get? n with
      | some o => o.grp == t.grp && o.rank == t.rank && o.stat == .delivering
      | none => false).map fun n => (x.deferred.find? fun d => d.entry == some n).map (·.cause)

/-- What the records of a context's threads do not hold (DESIGN CHOICE, log 19). -/
def State.noteVtimes (s : State) (x : CtxRef) : State :=
  (s.ctxThreads x).foldl (fun s e => match s.group? e.1.group with
    | some y =>
      let v : Kept := { vt := e.2.lastVt, cur := e.2.cur, traps := some (s.owedTraps e.1 e.2), rest := e.2.deferred.filter fun d => d.entry.isNone }
      { s with vtMeta := Dict.set s.vtMeta (y.kref e.1.group, y.gnum, e.1.rank) v }
    | none => s) s

/-- Write the image, the header last. -/
def State.seal (s : State) (x : CtxRef) : State :=
  let s := (((s.noteCopies x).noteMats x).noteVtimes x).modCtx x fun y => { y with sealt := s.time.gtime }
  let s := s.saPut x 0x1000 (s.kernelTable x)
  let r := s.putCores x (List.range 144) 0x6000
  r.1.saPut x 0 (leBytes ((r.1.ctx x).headerBits x r.2 6) 256)

end Sys2Proof.Machine
end

