-- ==== Sys2Proof/Machine/Restore.lean ====
section
/-! DEFINITION. Reading an image back: the header's checks, the records, and the waits that go on or are taken again (05_group.md R120,
R131, 19_context.md R416 to R421, R427). -/
namespace Sys2Proof.Machine
open Sys2Proof

/-! ### Header and footprints (R416, R417) -/

/-- Read a save area: what staging has read of it is not read again (R428). DEDUCED: log 55. -/
def State.saRead (s : State) (x : CtxRef) (off n : Nat) : State × List Byte :=
  match (s.ctx x).shadow.find? fun e => decide (e.1 ≤ off) && decide (off + n ≤ e.1 + e.2.length) with
  | some e => (s, (e.2.drop (off - e.1)).take n)
  | none => s.areaRead x.part (s.ctx x).ikey ((s.ctx x).saBase + off) n

/-- Whether a footprint entry keeps the limits of R417. -/
def footOk (e : Nat) : Bool :=
  ((List.range 6).all fun sl => decide (fpSlots e sl ≤ 16) && decide (fpRows e sl ≤ 8))
    && decide (fpBanks e ≤ 96) && decide (fpTiles e ≤ 8) && decide (fpChans e ≤ 8) && decide (fpRings e ≤ 8) && bitsOf e 115 103 == 0

/-- Whether a header may be installed or staged: VERSION 1 and no reserved bit (R416). -/
def headerOk (h : Nat) : Bool :=
  bitsOf h 2047 704 == 0 && bitsOf h 255 112 == 0 && bitsOf h 110 96 == 0 && bitsOf h 87 84 == 0 && bitsOf h 63 32 == 0
    && bitsOf h 31 0 == 1

/-- The checks of Install and Stage. -/
def State.imageOk (s : State) (x : CtxRef) : Bool :=
  headerOk (leNat (s.saRead x 0 256).2) && (List.range 144).all fun c => footOk (s.footprint x c)

/-- The Whisk's copy of what the header holds. -/
def Ctx.ofHeader (y : Ctx) (h : Nat) : Ctx :=
  { y with swapbase := BitVec.ofNat 64 (bitsOf h 703 640), sealt := BitVec.ofNat 64 (bitsOf h 575 512),
           vhalt := BitVec.ofNat 64 (bitsOf h 511 448), pauseoff := BitVec.ofNat 64 (bitsOf h 447 384),
           handler := BitVec.ofNat 64 (bitsOf h 383 320), ptroot := BitVec.ofNat 64 (bitsOf h 319 256),
           paused := bitsOf h 111 111 == 1, gen := BitVec.ofNat 8 (bitsOf h 95 88) }

/-! ### Kernels (R418) -/

def kstOf : Nat → KSt
  | 1 => .loaded
  | 2 => .resident
  | 3 => .fed
  | 4 => .draining
  | _ => .retired

/-- The fields of a kernel that its table entry holds. -/
def Kernel.ofEntry (k : Kernel) (e : Nat) : Kernel :=
  { k with st := kstOf (bitsOf e 194 192), nfree := bitsOf e 287 256, nplaced := bitsOf e 255 224, qlog := bitsOf e 204 200,
           closed := bitsOf e 195 195 == 1, tail := bitsOf e 191 160, head := bitsOf e 159 128,
           qaddr := BitVec.ofNat 64 (bitsOf e 127 64), handle := BitVec.ofNat 64 (bitsOf e 63 0), popNext := 0, wct := 0 }

/-- What the launch record of a handle and its descriptor say. DEDUCED: log 66. -/
def State.kernelAt (s : State) (x : CtxRef) (handle : Nat) : State × Kernel :=
  let r := s.frontRead x 128 .read handle 1
  match r.2 with
  | .error _ => (r.1, kernelOf (BitVec.ofNat 64 handle) 0 0)
  | .ok bs =>
    let q := r.1.frontRead x 128 .read (lrKdesc (leNat bs)) 1
    match q.2 with
    | .error _ => (q.1, kernelOf (BitVec.ofNat 64 handle) (leNat bs) 0)
    | .ok ds => (q.1, kernelOf (BitVec.ofNat 64 handle) (leNat bs) (leNat ds))

/-- One entry of the kernel table. -/
def State.restoreKernel (s : State) (x : CtxRef) (i e : Nat) : State :=
  let kr : KRef := { part := x.part, ctx := x.ctx, kidx := i }
  if bitsOf e 194 192 = 0 then { s with kernels := s.kernels.erase kr }
  else
    match s.kernel? kr with
    | some k => if k.handle.toNat = bitsOf e 63 0 then s.setKernel kr (k.ofEntry e)
      else let r := s.kernelAt x (bitsOf e 63 0); r.1.setKernel kr (r.2.ofEntry e)
    | none => let r := s.kernelAt x (bitsOf e 63 0); r.1.setKernel kr (r.2.ofEntry e)

def State.restoreKernels (s : State) (x : CtxRef) : State :=
  let r := s.saRead x 0x1000 16384
  (List.range 256).foldl (fun s i => s.restoreKernel x i (leNat ((r.2.drop (64 * i)).take 64))) r.1

/-! ### Threads (R421) -/

def part' (b : List Byte) (off n : Nat) : Nat := leNat ((b.drop off).take n)

/-- Put the words of some windows into a register file, one after another. -/
def readWindows (b : List Byte) : Nat → List Nat → Tab Word → Tab Word
  | _, [], t => t
  | off, w :: ws, t =>
    readWindows b (off + 64) ws ((List.range 16).foldl (fun t i => Tab.put 0 t (16 * w + i) (BitVec.ofNat 32 (part' b (off + 4 * i) 4))) t)

def tstOf : Nat → TSt
  | 0 => .ready
  | 1 => .wait
  | 2 => .parked
  | 3 => .trapped
  | 5 => .swapped
  | _ => .exited

def reasonOf : Nat → Reason
  | 1 => .rejoin
  | 2 => .barrier
  | 3 => .rendezvous
  | 4 => .address
  | 5 => .sleep
  | 6 => .matrix
  | 7 => .channel
  | 8 => .ring
  | 9 => .launch
  | _ => .signal

def mmaKindOf : Nat → MmaKind
  | 0 => .n
  | 1 => .w
  | _ => .i

/-- The phase a thread record's latch gives; a wait without a latch is taken again. DEDUCED: log 66. -/
def phaseOf (r : Nat) : Phase :=
  let l0 := bitsOf r 511 448
  let l1 := bitsOf r 575 512
  if bitsOf r (576 + 18) (576 + 16) ≠ 1 then .none
  else match bitsOf r 811 810 with
    | 1 => .rendezvous (BitVec.ofNat 32 (l0 / 2 ^ 32)) (BitVec.ofNat 32 l0) (BitVec.ofNat 32 l1)
    | 2 => .sign (bitsOf l1 42 40) (mmaKindOf (bitsOf l1 37 36)) (BitVec.ofNat 4 (bitsOf l1 35 32)) (BitVec.ofNat 32 l0)
             (BitVec.ofNat 32 (l0 / 2 ^ 32)) (BitVec.ofNat 32 l1)
    | 3 => .address (BitVec.ofNat 64 l1) noLine (BitVec.ofNat 64 l0) 0
    | _ => .rewait (reasonOf (bitsOf r (576 + 23) (576 + 20)))

/-- A thread from its record and windows. -/
def threadOf (b : List Byte) (off htid : Nat) (now : DWord) : Thread :=
  let r := part' b off 128
  let live := BitVec.ofNat 8 (bitsOf r 711 704)
  let dl := bitsOf r 447 384
  { htid := htid, pc := BitVec.ofNat 56 (bitsOf r 63 0),
    regs := readWindows b (off + 128) ((List.range 8).filter fun w => live.getLsbD w) [],
    preds := BitVec.ofNat 15 (bitsOf r 750 736), live := live, st := tstOf (bitsOf r (576 + 18) (576 + 16)), ph := phaseOf r, cur := none,
    deadline := if dl = 2 ^ 64 - 1 then none else some (BitVec.ofNat 64 dl), h := bitsOf r 577 577 == 1, step := bitsOf r 576 576 == 1,
    kick := bitsOf r 808 808 == 1, cause := BitVec.ofNat 8 (bitsOf r (576 + 31) (576 + 24)), epc := BitVec.ofNat 64 (bitsOf r 127 64),
    taddr := BitVec.ofNat 64 (bitsOf r 191 128), tinfo := BitVec.ofNat 32 (bitsOf r 639 608), fflags := BitVec.ofNat 5 (bitsOf r 671 640),
    lxflags := BitVec.ofNat 5 (bitsOf r 703 672), wctmax := BitVec.ofNat 64 (bitsOf r 255 192), wline := BitVec.ofNat 64 (bitsOf r 319 256),
    wseen := BitVec.ofNat 64 (bitsOf r 383 320), lastVt := 0, jbE := BitVec.ofNat 16 (bitsOf r 767 752),
    jbA := BitVec.ofNat 16 (bitsOf r 783 768), nbPend := BitVec.ofNat 16 (bitsOf r 799 784), gbPend := BitVec.ofNat 4 (bitsOf r 803 800),
    elatch := none, fpark := none, deferred := [], gap := 0, yld := false, waitFrom := now }

def popcount8 (n : Nat) : Nat := ((List.range 8).filter fun i => n.testBit i).length

/-- The bytes a thread's record and windows take. -/
def threadSize (b : List Byte) (off : Nat) : Nat := 128 + 64 * popcount8 (bitsOf (part' b off 128) 711 704)

/-! ### Groups (R420) -/

/-- A barrier from its word: no release is under way. -/
def barOfWord (w : Nat) : BarRec := BarRec.clear.ofWord (BitVec.ofNat 32 w)

def cmpOfCode (n : Nat) : Cmp := (Cmp.ofCode (BitVec.ofNat 3 n)).getD .eq

def latchOfBits (r : Nat) : Option SwapLatch :=
  if bitsOf r 1379 1379 = 1 then
    some { ea := BitVec.ofNat 64 (bitsOf r 1343 1280), cmp := cmpOfCode (bitsOf r 1378 1376), b := BitVec.ofNat 32 (bitsOf r 1375 1344) }
  else none

def cvOfWord (w : Nat) : CvRec :=
  { decl := w.testBit 31, count := bitsOf w 23 16, base := bitsOf w 11 0, ready := false, fence := 0 }

def gstOf : Nat → GSt
  | 1 => .allocated
  | 3 => .retiring
  | 4 => .swapped
  | _ => .resident

/-- A group from its record; slots and tiles are those it is given. DEDUCED: log 66. -/
def groupOf (k : Kernel) (r : Nat) (slots : List (Nat × Nat)) (tiles : List Nat) : Group :=
  let gnum := bitsOf r 111 80
  let banks := bitsOf r 255 160
  let n := max 1 k.gangN
  { kidx := bitsOf r 119 112, gnum := gnum, gang := gnum / n, grank := bitsOf r 127 120, gangN := k.gangN, role := roleOf (bitsOf r 19 18),
    w := bitsOf r 15 12, gsz := 32 * bitsOf r 6 0, st := gstOf (bitsOf r 23 20), handler := BitVec.ofNat 56 (bitsOf r 383 320),
    sidethr := BitVec.ofNat 32 (bitsOf r 287 256), sideptr := BitVec.ofNat 32 (bitsOf r 319 288), banks := BitVec.ofNat 96 banks,
    first := ((List.range 96).find? fun i => banks.testBit i).getD 0, count := ((List.range 96).filter fun i => banks.testBit i).length,
    chans := BitVec.ofNat 8 (bitsOf r 135 128), rings := BitVec.ofNat 8 (bitsOf r 143 136), tiles := tiles,
    mlive := BitVec.ofNat 8 (bitsOf r 151 144), mexc := BitVec.ofNat 5 (bitsOf r 159 152),
    cvs := (List.range 8).map fun i => cvOfWord (bitsOf r (415 + 32 * i) (384 + 32 * i)),
    nbs := (List.range 16).map fun i => barOfWord (bitsOf r (671 + 32 * i) (640 + 32 * i)), uncov := [],
    latch := if k.gangN ≤ 1 then latchOfBits r else none, slots := slots, pbase := k.priv + BitVec.ofNat 64 (gnum * k.gsz * k.psize),
    psize := k.psize }

/-- Slots taken on a core, by whatever context. -/
def State.slotsUsed (s : State) (part core : Nat) : List (Nat × Nat) :=
  (s.groups.filter fun e => e.1.part == part && e.1.core == core).flatMap fun e => e.2.slots

/-- Each lane set keeps its slice and takes the lowest free slot there (R427). -/
def reslot : List (Nat × Nat) → List Nat → List (Nat × Nat)
  | _, [] => []
  | used, sl :: sls =>
    let p := (sl, ((List.range 16).find? fun n => !used.contains (sl, n)).getD 0)
    p :: reslot (p :: used) sls

/-- Tiles of a core taken by any context. -/
def State.tilesUsed (s : State) (part core : Nat) : List Nat :=
  (s.holds.filter fun e => e.1.part == part && e.1.core == core).flatMap fun e => e.2.tiles.map (·.1)

/-- Where the images of a core begin (R423). -/
def State.swapBase (s : State) (c : CCRef) : Nat := (s.ctx c.ctxRef).swapbase.toNat + 0x600000 * c.core

/-- Bytes of a core's swap area (R423). DESIGN CHOICE: log 82. -/
def State.swapRead (s : State) (c : CCRef) (off n : Nat) : State × List Byte :=
  s.areaRead c.part (s.ctx c.ctxRef).ikey (s.swapBase c + off) n

/-- The place in the group table of a swapped-out group: that of its record in the swap area, which a group that is swapped out now has written (R423).
Where nothing is kept of such a place, the lowest record of its number is taken. DEDUCED: log 66. -/
def State.swapIndex (s : State) (c : CCRef) (r : Nat) : Option Nat :=
  let own := (List.range 96).filter fun i =>
    let g := leNat (s.swapRead c (256 * i) 256).2
    bitsOf g 119 80 == bitsOf r 119 80 && bitsOf g 23 20 == 4
  (own.find? fun i => (s.swapMeta.get? (c.group i)).isSome).or own.head?

/-- Places in the group table for the records of a core: the swapped-out groups keep theirs, the others take the lowest free (R423,
R427). -/
def State.groupPlaces (s : State) (c : CCRef) (recs : List Nat) : List Nat :=
  let fixed := recs.map fun r => if bitsOf r 23 20 = 4 then s.swapIndex c r else none
  (fixed.foldl (fun (a : List Nat) f =>
    match f with
    | some i => a ++ [i]
    | none => a ++ [((List.range 200).find? fun i => !a.contains i && !fixed.contains (some i)).getD 0]) [])

/-- Where the reading of a core record has come to: the state, the offset, and where each saved HTID now is: group, rank and HTID. -/
structure Reading where
  s    : State
  off  : Nat
  hmap : List (Nat × Nat × Nat × Nat)

/-- The thread records of a group: the banks of their live windows wake (R134), and no VTIME read falls below the thread's last (R40; DESIGN
CHOICE: log 19). A thread that waits is known to wait at the instruction it waited at. -/
def Reading.threads (r : Reading) (b : List Byte) (g : GRef) (y : Group) : List Nat → Reading
  | [] => r
  | rank :: ranks =>
    let h := y.htidOf rank
    let z := threadOf b r.off h r.s.time.gtime
    let v := Dict.getD r.s.vtMeta (y.kref g, y.gnum, rank) Kept.none
    let x := { z with lastVt := v.vt, cur := if z.st = .wait then v.cur else none, deferred := v.rest }
    Reading.threads { s := (r.s.wakeWindows (g.thread rank) h x.live).setThread (g.thread rank) x, off := r.off + threadSize b r.off,
                      hmap := r.hmap ++ [(bitsOf (part' b r.off 128) 827 816, g.grp, rank, h)] } b g y ranks

/-- The slices of a group's lane sets, from the HTIDs its thread records hold. -/
def savedSlices (b : List Byte) (off : Nat) : Nat → List Nat
  | 0 => []
  | n + 1 =>
    let next := (List.range 32).foldl (fun o _ => o + threadSize b o) off
    htidSlice (bitsOf (part' b off 128) 827 816) :: savedSlices b next n

/-! ### Channels and rings (R309, R314) -/

def classOf : Nat → Cause
  | 1 => .perm
  | 2 => .keygone
  | _ => .page

/-- A channel from its record, with what else is known of its copies and of the line it is parked on (DESIGN CHOICE, log 19). -/
def chanOf (v grp : Nat) (meta' : List Copy × Nat) : Chan :=
  let n := min 4 (bitsOf v 6 4)
  let q := (List.range n).map fun i =>
    let desc := bitsOf v (1023 + 512 * i) (512 + 512 * i)
    match meta'.1[i]? with
    | some m => { m with desc := desc, grp := grp }
    | none => { kind := .tcopy, desc := desc, rank := 0, grp := grp, ch := 0, since := 0 : Copy }
  let wp := (List.range 4).map fun d => bitsOf v (351 + 32 * d) (320 + 32 * d)
  let start := bitsOf v 319 288
  let dests := match q with | cp :: _ => cp.dests | [] => 0
  let st := bitsOf v 2 0
  { grp := grp, q := q, st := if st = 1 then .idle else if st = 2 then .busy else if st = 3 then .parked else .error,
    err := bitsOf v 15 8, sat := bitsOf v 3 3 == 1,
    miss := if st = 3 then some (miss (classOf (bitsOf v 17 16)) (bitsOf v 21 18) 0, meta'.2) else none,
    wp := wp, start := start,
    started := (wp.take dests).any fun p => p != start,
    ct := BitVec.ofNat 64 (bitsOf v 511 448) }

def ringOf (v : Nat) (d : Option RingDecl) : Ring :=
  { base := bitsOf v 127 96, m := bitsOf v 95 64, slots := (d.map (·.slots)).getD (bitsOf v 22 16), k := bitsOf v 22 16,
    pcnt := bitsOf v 7 0, ccnt := bitsOf v 15 8, ph := BitVec.ofNat 64 (bitsOf v 191 128), phold := bitsOf v 30 30 == 1,
    chold := bitsOf v 29 29 == 1, init := bitsOf v 31 31 == 1 }

/-- The declaration of a ring by a kernel that has a group sharing it on a core (R311, R314). -/
def State.ringDeclOf (s : State) (c : CCRef) (n : Nat) : Option RingDecl :=
  s.groups.findSome? fun e =>
    if e.1.ccRef == c && e.2.rings.getLsbD n then (s.kernel? (e.2.kref e.1)).bind fun k => k.rings.getD n none else none

/-! ### Swapped-out groups (R420, R423) -/

/-- A thread from the record at an HTID of the swap area, at its new HTID. -/
def State.swapThread (s : State) (c : CCRef) (old new : Nat) : State × Thread :=
  let r := s.swapRead c (0x6000 + 640 * old) 640
  let live := BitVec.ofNat 8 (bitsOf (part' r.2 0 128) 711 704)
  let bs := r.2.take 128 ++ ((List.range 8).filter fun w => live.getLsbD w).flatMap fun w => (r.2.drop (128 + 64 * w)).take 64
  (r.1, threadOf bs 0 new s.time.gtime)

/-- The threads of a group that is still swapped out: their windows stay in the swap area. -/
def State.swappedThreads (s : State) (g : GRef) (y : Group) : State :=
  let old := (s.swapMeta.getD g ([], [])).1
  (List.range y.gsz).foldl (fun s r =>
    let p := old.getD (r / 32) (0, 0)
    let q := s.swapThread g.ccRef (htidOf p.1 p.2 (r % 32)) (htidOf p.1 p.2 (r % 32))
    let v := Dict.getD q.1.vtMeta (y.kref g, y.gnum, r) Kept.none
    let x : Thread := { q.2 with lastVt := v.vt, cur := v.cur, deferred := v.rest }
    q.1.setThread (g.thread r) (if x.st = .exited then x else { x with st := .swapped, ph := .none, regs := [], live := 0, jbE := 0, jbA := 0 })) s

/-- A channel or ring of a swapped-out group comes from its record in the swap area (R423): its channels, and the rings that nothing else on the core
shares. -/
def State.swapRings (s : State) (c : CCRef) (ix : Nat) (y : Group) : State :=
  let s := ((List.range 8).filter fun n => y.chans.getLsbD n).foldl (fun s n =>
    let q := s.swapRead c (0x1E6000 + 320 * n) 320
    let kept := match (q.1.holding c).chans.get? n with
      | some k => (k.q, (k.miss.map (·.2)).getD 0)
      | none => q.1.copyMeta.getD (c, n) ([], 0)
    q.1.modHolding c fun h => { h with chans := h.chans.set n (chanOf (leNat q.2) ix kept) }) s
  ((List.range 8).filter fun n => y.rings.getLsbD n).foldl (fun s n =>
    if (s.coreGroups c).any fun e => e.1.grp != ix && e.2.st != .swapped && e.2.rings.getLsbD n then s
    else
      let q := s.swapRead c (0x1E6A00 + 32 * n) 32
      q.1.modHolding c fun h => { h with rings := h.rings.set n (ringOf (leNat q.2) (s.ringDeclOf c n)) }) s

/-- Read the groups of a core record, each at its place; a group that has not started keeps its slices, and its threads start anew. -/
def Reading.groups (r : Reading) (c : CCRef) (b : List Byte) : List (Nat × Nat) → Reading
  | [] => r
  | (bits, ix) :: rest =>
    let k := (r.s.kernel? { part := c.part, ctx := c.ctx, kidx := bitsOf bits 119 112 }).getD (kernelOf 0 0 0)
    let sets := bitsOf bits 6 0
    let used := r.s.slotsUsed c.part c.core
    let st := bitsOf bits 23 20
    let slots := if st = 4 then [] else reslot used (savedSlices b r.off sets)
    let tiles := if st = 4 then [] else (lowestFree 8 k.tiles (r.s.tilesUsed c.part c.core)).getD []
    let y := groupOf k bits slots tiles
    let s := if st = 1 then r.s.wakeGroup (c.group ix) y else r.s
    let s := (s.setGroup (c.group ix) y).modHolding c fun h => { h with tiles := tiles.foldl (fun d t => d.set t ix) h.tiles }
    let r := { r with s := s }
    let r := if st = 4 then { r with s := (r.s.swappedThreads (c.group ix) y).swapRings c ix y }
      else if st = 1 then { r with off := (List.range y.gsz).foldl (fun o _ => o + threadSize b o) r.off }
      else r.threads b (c.group ix) y (List.range y.gsz)
    Reading.groups r c b rest

/-! ### Channels, rings, log, replay, banks, tiles (R309, R314, R285, R419) -/

/-- The group that holds a channel of a context on a core. -/
def State.chanOwner (s : State) (c : CCRef) (n : Nat) : Nat :=
  ((s.groups.find? fun e => e.1.ccRef == c && e.2.chans.getLsbD n).map fun e => e.1.grp).getD 0

def instrOf (w : Nat) : Instr := match decode (BitVec.ofNat 96 w) with
  | .ok i => i
  | .error _ => .nop Hints.none

def ostatOf : Nat → OStat
  | 1 => .waiting
  | 2 => .released
  | _ => .delivering

/-- A log entry from its bits, with its thread's new place. -/
def entryOf (v grp rank htid : Nat) : OEntry :=
  { ptime := BitVec.ofNat 64 (bitsOf v 447 384), data := (List.range 4).map fun i => BitVec.ofNat 32 (bitsOf v (287 + 32 * i) (256 + 32 * i)),
    ea := BitVec.ofNat 64 (bitsOf v 255 192), instr := instrOf (bitsOf v 191 96), word := BitVec.ofNat 96 (bitsOf v 191 96),
    pc := BitVec.ofNat 56 (bitsOf v 95 32), sub := bitsOf v 31 28, ccls := classOf (bitsOf v 27 26), stat := ostatOf (bitsOf v 25 24),
    grp := grp, rank := rank, htid := htid, arm := none }

/-- The data words an instruction logs (R285): those its request holds. DEDUCED: log 49. -/
def OEntry.trimmed (o : OEntry) (core : Nat) (x : Thread) : OEntry :=
  { o with data := o.data.take (((reqOf core x o.instr).map fun r => r.data.length).getD 0) }

/-- The ranges of the INVALs completed since a context left the cores hold an address (R290). -/
def State.invalSince (s : State) (x : CtxRef) (va : Nat) : Bool := (s.ctx x).invals.any fun r => decide (r.1 ≤ va) && decide (va < r.2)

/-- An entry of a thread as it comes back: one parked PAGE MIGRATE in such a range is released for replay. -/
def State.freedByInval (s : State) (t : TRef) (o : OEntry) : OEntry :=
  match s.group? t.group with
  | some g => if o.stat = .waiting ∧ o.ccls = .page ∧ o.sub = 5 ∧ s.invalSince t.ctxRef (vaOf g t.rank o.ea) = true then { o with stat := .released } else o
  | none => o

/-- Whether a trap that an entry delivers has been taken already, where nothing was kept of its thread: it runs the handler of that trap.
DEDUCED: log 66. -/
def Thread.hasTaken (x : Thread) (o : OEntry) : Bool := x.h && x.taddr == o.ea && x.cause != 0

/-- The cause of the trap that a thread's next delivering entry has still to deliver, and what is kept of the entries after it (R496).
DEDUCED: log 66. -/
def Kept.nextTrap (v : Kept) (x : Thread) (o : OEntry) : Option Cause × Kept :=
  match v.traps with
  | some (c :: cs) => (c, { v with traps := some cs })
  | _ => (if x.hasTaken o then Option.none else some o.ccls, v)

/-- Put one log entry back, and what it still has to deliver; an entry parked PAGE MIGRATE on a page whose INVAL has completed meanwhile is released
(R290). DEDUCED: log 66. -/
def State.restoreEntry (s : State) (c : CCRef) (hmap : List (Nat × Nat × Nat × Nat)) (v : Nat) : State :=
  match hmap.find? fun m => m.1 == bitsOf v 11 0 with
  | none => s
  | some m =>
    let t := (c.group m.2.1).thread m.2.2.1
    match s.thread? t with
    | none => s
    | some x =>
      let e := s.freeEntryIx c
      let o := s.freedByInval t ((entryOf v m.2.1 m.2.2.1 m.2.2.2).trimmed c.core x)
      let s := s.modHolding c fun h => { h with olog := h.olog.set e o }
      if o.stat ≠ .delivering then s
      else match s.group? t.group with
        | none => s
        | some y =>
          let key := (y.kref t.group, y.gnum, t.rank)
          let v := (Dict.getD s.vtMeta key Kept.none).nextTrap x o
          let s := { s with vtMeta := Dict.set s.vtMeta key v.2 }
          match v.1 with
          | some c => s.setThread t { x with deferred := x.deferred ++ [{ cause := c, taddr := o.ea, entry := some e }] }
          | none => s

/-- A load of the replay list issues anew (R426, R427). DEDUCED: log 66. -/
def State.reissue (s : State) (c : CCRef) (hmap : List (Nat × Nat × Nat × Nat)) (v : Nat) : State :=
  match hmap.find? fun m => m.1 == bitsOf v 171 160 with
  | none => s
  | some m => s.issueReplay c { ea := BitVec.ofNat 64 (bitsOf v 63 0), instr := instrOf (bitsOf v 159 64), word := BitVec.ofNat 96 (bitsOf v 159 64),
                                grp := m.2.1, rank := m.2.2.1, htid := m.2.2.2 }

def align64 (n : Nat) : Nat := (n + 63) / 64 * 64

/-- The bytes of live banks go to their places. -/
def readBanks (b : List Byte) (live : List Nat) (off : Nat) (t : Tab Byte) : Tab Byte :=
  (live.zip (List.range live.length)).foldl (fun t e => scrPut t (e.1 * bankSize) ((b.drop (off + e.2 * bankSize)).take bankSize)) t

def readTile (b : List Byte) (off p : Nat) (t : Tab Word) : Tab Word :=
  (List.range 16384).foldl (fun t i => Tab.put 0 t (16384 * p + i) (BitVec.ofNat 32 (part' b (off + 4 * i) 4))) t

/-- The live scratchpad banks and live tiles of a context that has come to a core wake (R254, R318). -/
def State.powerUp (s : State) (c : CCRef) : State :=
  let s := ((s.holding c).banks.filter fun b => b.2.live).foldl (fun s b => s.touchBank c b.1) s
  let now := s.coreTime c.coreRef
  s.modCore c.coreRef fun k => { k with
    tilePow := (s.holding c).tiles.foldl (fun d t =>
      if (d.get? t.1).isNone && (s.groups.any fun e => e.1.ccRef == c && e.1.grp == t.2
            && (List.range 8).any fun l => e.2.tiles.getD l 8 == t.1 && e.2.mlive.getLsbD l)
      then d.set t.1 (.waking true (now + BitVec.ofNat 64 (ceilCycles 24))) else d) k.tilePow }

/-- What was kept of the core's matrix operands, under the numbers that its groups now have (DESIGN CHOICE, log 19). -/
def State.matAgain (s : State) (c : CCRef) : State :=
  match s.matMeta.get? c with
  | none => s
  | some m =>
    let place (e : Nat × (Nat × Nat) × List Uncov × List Nat) : Option GRef :=
      (s.groups.find? fun (q : GRef × Group) => q.1.ccRef == c && (q.2.kidx, q.2.gnum) == e.2.1).map (·.1)
    let tag (w : Nat) : Nat := match m.grps.find? fun e => groupTag e.1 == stampTag w with
      | some e => (match place e with
        | some g => w - stampTag w + groupTag g.grp
        | none => w)
      | none => w
    let s := s.modHolding c fun x => { x with wseq := m.wseq.map fun e => (e.1, tag e.2) }
    let s := m.grps.foldl (fun s e => match place e with
      | some g => s.modGroup g fun y => { y with
          uncov := e.2.2.1, cvs := (y.cvs.zip (e.2.2.2 ++ List.replicate 8 0)).map fun v => { v.1 with fence := v.2 } }
      | none => s) s
    { s with matMeta := s.matMeta.filter fun e => e.1 != c }

/-- Read one core record (R419), which lies at an offset of the save area: its log entries come from there, where service may have written to them since
the rest of it was staged (R287, R427). -/
def State.restoreCore (s : State) (x : CtxRef) (core off : Nat) (b : List Byte) : State :=
  let c : CCRef := { part := x.part, ctx := x.ctx, core := core }
  let hd := part' b 0 256
  let ngrp := bitsOf hd 39 32
  let s := (s.setHolding c Holding.empty).takeRows c
  let recs := (List.range ngrp).map fun i => part' b (256 + 256 * i) 256
  let r := Reading.groups { s := s, off := 256 + 256 * ngrp, hmap := [] } c b (recs.zip (s.groupPlaces c recs))
  let chs := (List.range 8).filter fun i => hd.testBit (48 + i)
  let rgs := (List.range 8).filter fun i => hd.testBit (40 + i)
  let o1 := align64 r.off
  let o2 := o1 + 320 * chs.length
  let o3 := align64 (o2 + 32 * rgs.length)
  let nlog := bitsOf hd 79 64
  let o4 := o3 + 64 * nlog
  let nrep := bitsOf hd 95 80
  let o5 := align64 (o4 + 32 * nrep)
  let live := (List.range 96).filter fun i => hd.testBit (448 + i)
  let o6 := o5 + bankSize * live.length
  let gs := recs.zip (s.groupPlaces c recs)
  let tiles := gs.flatMap fun e => if bitsOf e.1 23 20 = 4 then [] else
    ((List.range 8).filter fun t => e.1.testBit (144 + t)).map fun t => ((r.s.group? (c.group e.2)).map fun y => y.tiles.getD t 0).getD 0
  let s := r.s.modHolding c fun h => { h with
    chans := (chs.zip (List.range chs.length)).foldl (fun d e =>
      d.set e.1 (chanOf (part' b (o1 + 320 * e.2) 320) (r.s.chanOwner c e.1) (r.s.copyMeta.getD (c, e.1) ([], 0)))) h.chans
    rings := (rgs.zip (List.range rgs.length)).foldl (fun d e =>
      d.set e.1 (ringOf (part' b (o2 + 32 * e.2) 32) (r.s.ringDeclOf c e.1))) h.rings
    banks := gs.foldl (fun d e => if bitsOf e.1 23 20 = 4 then d else
      ((List.range 96).filter fun i => e.1.testBit (160 + i)).foldl (fun d i => d.set i { grp := e.2, live := live.contains i }) d) h.banks
    scratch := readBanks b live o5 []
    acc := (tiles.zip (List.range tiles.length)).foldl (fun t e => readTile b (o6 + 65536 * e.2) e.1 t) []
    plq := (List.range (min 4 (bitsOf hd 59 56))).map fun n => BitVec.ofNat 64 (bitsOf hd (607 + 64 * n) (544 + 64 * n))
    plqAt := r.s.coreTime c.coreRef }
  let s := { s with copyMeta := s.copyMeta.filter fun e => e.1.1 != c }.matAgain c
  let lg := s.areaRead x.part (s.ctx x).ikey ((s.ctx x).saBase + off + o3) (64 * nlog)
  let s := (List.range nlog).foldl (fun s i => s.restoreEntry c r.hmap (part' lg.2 (64 * i) 64)) lg.1
  let s := s.powerUp c
  (List.range nrep).foldl (fun s i => s.reissue c r.hmap (part' b (o4 + 32 * i) 32)) s

/-! ### Gangs -/

/-- The gang barrier words of a group's record, and its latch. -/
def gangOfBits (k : Kernel) (q : Nat) (r : Nat) : Gang :=
  { lat := k.lat, cores := k.gangCores q, grps := List.replicate k.gangN 4096,
    gbs := (List.range 4).map fun i => barOfWord (bitsOf r (1183 + 32 * i) (1152 + 32 * i)),
    latch := if k.gangN ≤ 1 then none else latchOfBits r }

/-- Put a group into its gang. -/
def State.joinGang (s : State) (g : GRef) (y : Group) (bits : Nat) : State :=
  match s.kernel? (y.kref g) with
  | none => s
  | some k =>
    let q := (s.gang? (y.gangRef g)).getD (gangOfBits k y.gang bits)
    s.setGang (y.gangRef g) { q with grps := modNth q.grps y.grank fun _ => g.grp }

/-- The gangs of the groups that a core record names. -/
def State.joinGangs (s : State) (x : CtxRef) (core : Nat) (b : List Byte) : State :=
  (List.range (bitsOf (part' b 0 256) 39 32)).foldl (fun s i =>
    let bits := part' b (256 + 256 * i) 256
    match s.groups.find? fun e => e.1.ctxRef == x && e.1.core == core && e.2.kidx == bitsOf bits 119 112 && e.2.gnum == bitsOf bits 111 80 with
    | some (g, y) => s.joinGang g y bits
    | none => s) s

/-! ### Waits (R11, R120, R427) -/

/-- The phase in which a restored wait goes on, now that its instruction is known; none where the instruction is taken again. -/
def State.resumePhase (s : State) (t : TRef) (x : Thread) (i : Instr) : Option Phase :=
  match x.ph, i with
  | .rendezvous m a b, _ => some (.rendezvous m a b)
  | .sign cv k n a b c, _ => some (.sign cv k n a b c)
  | .address ea _ l0 n, _ => some (s.rehome t (.address ea noLine l0 n))
  | .rewait .rejoin, .jwait _ jb => if x.arrived jb then some (.rejoin jb.toNat) else none
  | .rewait .sleep, .sleep .. => some .sleep
  | .rewait .barrier, i => match barOf i with
    | some b => if x.pend b then some (.barrier b) else none
    | none => none
  | .rewait .signal, .gswap .. => match s.group? t.group with
    | some g => (s.swapLatch t g).map fun l => .swapArr l.ea l.cmp l.b
    | none => none
  | _, _ => none

/-- A restored wait goes on, or its instruction issues again at once; a sleeper whose deadline has passed is READY at once (R144). What was kept of the
thread says which instruction it waits at; a timed wait goes on where it cannot be fetched, too. DEDUCED: log 66. -/
def State.resume (s : State) (t : TRef) : State :=
  match s.thread? t with
  | none => s
  | some x =>
    if x.st != .wait then s
    else
      let again := fun s : State => { s.setThread t { x with st := x.back, ph := .none, deadline := none } with issueQ := s.issueQ ++ [t] }
      let q := s.fetchWord t x.pc.toNat
      let i := match q.2 with
        | .word w => match x.cur, decode w with | none, .ok i => some i | c, _ => c
        | _ => x.cur
      match i with
      | some i => match q.1.resumePhase t x i with
        | some ph =>
          let s := q.1.setThread t { x with ph := ph, cur := some i }
          if ph == .sleep && s.deadlineDue t x then s.finishTimed t else s
        | none => again q.1
      | none => match x.ph with
        | .sign .. => q.1    -- a signer keeps its latch (R334)
        | .address ea _ l0 n => q.1.setThread t { x with ph := q.1.rehome t (.address ea noLine l0 n) }
        | .rewait .sleep =>
          let s := q.1.setThread t { x with ph := .sleep }
          if s.deadlineDue t x then s.finishTimed t else s
        | _ => again q.1

/-- A thread that was PARKED at a fetch has no entry and fetches again. -/
def State.refetch (s : State) (t : TRef) : State :=
  s.modThread t fun x => if x.st = .parked ∧ (s.parkedEntries t).isEmpty = true ∧ x.deferred.isEmpty = true then { x with st := x.back } else x

/-- The comparison of a group's swap, which a restore has it make again: for its swap arrivals, or, where it is SWAPPED, for its threads (R366, R420). -/
def State.rewatch (s : State) (g : GRef) : State :=
  match s.group? g with
  | none => s
  | some y =>
    match s.latchOf g y with
    | none => s
    | some l =>
      ((s.groupThreads g).filter fun e => e.2.ph.isSwap || (y.st == .swapped && e.2.st != .exited)).foldl (fun s e =>
        s.watchSig { thr := e.1, va := vaOf y e.1.rank l.ea, loc := none, cmp := l.cmp, b := l.b, due := true, hit := none }) s

/-- Everything that may go on at once after a restore (R147, R334, R349, R366). -/
def State.reevaluate (s : State) (g : GRef) : State :=
  let s := ((s.rejoinAll g).mmaCheckAll g).rewatch g
  (allBars.foldl (fun (s : State) b => s.barCheck g b) s).tryStart g

end Sys2Proof.Machine
end

