-- ==== Sys2Proof/Machine/SwapEv.lean ====
section
/-! DEFINITION. Group swaps (16_kernel.md R366, R367, 19_context.md R423): the swap-out of a group or a gang whose threads have all
arrived, and its swap-in. -/
namespace Sys2Proof.Machine
open Sys2Proof

/-! ### The swap area (R423) -/

/-- Write a part of an image; an error that it holds travels with it (R494). DESIGN CHOICE: log 82. -/
def State.swapPut (s : State) (c : CCRef) (off : Nat) (bs : List Byte) (bad : Bool := false) : State :=
  let s := s.areaPut c.part (s.ctx c.ctxRef).ikey (s.swapBase c + off) bs
  if bad then s.poisonArea c.part (s.swapBase c + off) bs.length else s

/-- A thread's record and live windows. -/
def State.swapPutThread (s : State) (t : TRef) (x : Thread) (w : Nat) : State :=
  let off := 0x6000 + 640 * x.htid
  let bad := fun p : Nat → Bool => s.regPois.any fun e => e.1 == t && p e.2
  (liveWindows x).foldl (fun s w => s.swapPut t.ccRef (off + 128 + 64 * w) (windowBytes x w) (bad fun n => n < 128 && n / 16 == w))
    (s.swapPut t.ccRef off (leBytes (threadBits x w 0) 128) (bad fun n => 128 ≤ n))

/-- Write a group's image: its record, threads, channels, rings, live banks and live tiles. -/
def State.swapImage (s : State) (g : GRef) (y : Group) : State :=
  let c := g.ccRef
  let x := s.holding c
  let s := s.swapPut c (256 * g.grp) (leBytes (s.groupBits g { y with st := .swapped } true) 256)
  let s := (s.groupThreads g).foldl (fun s e => s.swapPutThread e.1 e.2 y.w) s
  let s := ((List.range 8).filter fun n => y.chans.getLsbD n).foldl (fun s n =>
    s.swapPut c (0x1E6000 + 320 * n) (leBytes (x.chans.getD n (Chan.grant g.grp)).bits 320)) s
  let s := ((List.range 8).filter fun n => y.rings.getLsbD n).foldl (fun s n =>
    s.swapPut c (0x1E6A00 + 32 * n) (leBytes (x.rings.getD n (Ring.grant 1 512)).bits 32)) s
  let s := (y.bankList.filter fun b => x.bankLive b).foldl (fun s b =>
    s.swapPut c (0x1E8000 + bankSize * b) (x.bytesAt (b * bankSize) bankSize) (s.scrPoisoned c (b * bankSize) bankSize)) s
  ((List.range 8).filter fun t => y.mlive.getLsbD t).foldl (fun s t =>
    s.swapPut c (0x4E8000 + 65536 * y.tiles.getD t 0) (tileBytes x (y.tiles.getD t 0)) (s.tilePoisoned c (y.tiles.getD t 0))) s

/-! ### Swap-out -/

/-- Whether every thread of a group that is not EXITED is a swap arrival. -/
def State.allArrived (s : State) (g : GRef) : Bool := !(s.alive g).isEmpty && (s.alive g).all fun e => e.2.ph.isSwap

/-- The threads of a group become SWAPPED, and their windows go. -/
def State.swapThreads (s : State) (g : GRef) : State :=
  (s.groupThreads g).foldl (fun s e =>
    let x := e.2
    let y := if x.st = .exited then x
      else { x with st := .swapped, ph := .none, regs := [], live := 0, jbE := 0, jbA := 0 }
    (s.setThread e.1 y).settleWindows e.1 x.htid (x.live &&& ~~~y.live)) s

/-- A group is written out and gives up its slots, rows, banks and tiles (R118, R366). DESIGN CHOICE: log 19. -/
def State.swapOut (s : State) (g : GRef) : State :=
  match s.group? g with
  | none => s
  | some y =>
    -- every thread is withdrawn from the rejoin barriers, and stands at the word after its GSWAP
    let s := (s.groupThreads g).foldl (fun s e =>
      s.setThread e.1 (if e.2.st = .exited then e.2 else { e.2 with jbE := 0, jbA := 0 })) s
    let s := s.swapImage g y
    let s := { s with swapMeta := s.swapMeta.set g (y.slots, y.bankList.filter fun b => (s.holding g.ccRef).bankLive b) }
    let s := s.swapThreads g
    let s := y.bankList.foldl (fun s b => s.returnBank g.ccRef b) s
    let s := y.tiles.foldl (fun s p => s.returnTile g.ccRef p) s
    s.setGroup g { y with st := .swapped, slots := [], tiles := [], mlive := 0 }

/-- Drain the write-combining buffer of a core (R240, R366). -/
def State.drainCore (s : State) (c : CoreRef) : State := s.drainWhere c (fun _ => true) none

/-- Whether a release of the gang's barriers is still on its way to some of its groups (R349). -/
def State.gangDelivering (s : State) (g : GRef) : Bool :=
  match s.group? g with
  | some y => ((s.gang? (y.gangRef g)).any fun k => k.gbs.any fun r => !r.deliver.isEmpty)
  | none => false

/-- Whether the condition of some groups' swap has been met at its home. -/
def State.swapMet (s : State) (gs : List GRef) : Bool := s.sigs.any fun w => gs.contains w.thr.group && w.hit.isSome

/-- GSWAP_SWAP_OUT (R366, R367): the write-combining buffers drain first; once nothing of the groups is under way, and every release of a gang barrier has
been delivered, they go. A condition that has been met before ends the wait instead. DEDUCED: log 66. -/
def execGswapSwapOut (g : GRef) (s : State) : Out State Fault Refusal :=
  let gs := s.swapGroups g
  if !s.ctxRuns g.ctxRef || gs.isEmpty || s.swapMet gs || !(gs.all fun q => s.allArrived q && ((s.group? q).map (·.st)) == some .resident) then .next s
  else
    let s := gs.foldl (fun s q => s.drainCore q.coreRef) s
    if gs.all fun q => match s.group? q with | some y => s.groupQuiet q y && !s.gangDelivering q | none => false then .next (gs.foldl (fun s q => s.swapOut q) s)
    else .next s

/-! ### Swap-in -/

/-- Whether the condition of swapped-out groups holds: what the comparison that a write has met, or one that is due, has read (R366). -/
def State.swapHolds (s : State) (gs : List GRef) : State × Option DWord :=
  let ws := s.sigs.filter fun w => gs.contains w.thr.group
  match (ws.find? fun w => w.hit.isSome).orElse fun _ => ws.find? fun w => w.due with
  | none => (s, none)
  | some w =>
    let q := s.sigOutcome w
    (q.1, match q.2 with | .val _ wct => some wct | _ => none)

/-- The places a swapped-out group would take: slots, and tiles; its banks are those it had (R115, R118, R417). -/
def State.swapFit (s : State) (g : GRef) (y : Group) : Option (List (Nat × Nat) × List Nat) :=
  let t := s.taken g.ccRef
  let all := s.coreTaken g.ccRef
  let foot := s.footprint g.ctxRef g.core
  let tiles := ((s.kernel? (y.kref g)).map (·.tiles)).getD 0
  if (y.bankList.any fun b => all.banks.contains b) ∨ fpBanks foot < t.banks.length + y.count ∨ fpTiles foot < t.tiles.length + tiles then none
  else
    match slotsFor foot y.w 0 (y.gsz / 32) t.slots all.slots, lowestFree 8 tiles all.tiles with
    | some sl, some ti => some (sl, ti)
    | _, _ => none

/-- A thread of a swapped-out group as its record has it, READY at the word after the GSWAP; its wait has raised its completion time, and nothing else of it
has changed since. -/
def Thread.swappedIn (x z : Thread) : Thread :=
  let x := { x with st := .ready, ph := .none, deadline := none, wctmax := z.wctmax, wline := z.wline, wseen := z.wseen, lastVt := z.lastVt, cur := z.cur,
                    elatch := z.elatch }
  x.advance z.curHints x.nextPc

/-- The threads of a group come back from their records; the GSWAP of a stepping thread has retired (R366, R400). -/
def State.swapInThreads (s : State) (g : GRef) (y : Group) (old : List (Nat × Nat)) : List Nat → State
  | [] => s
  | r :: rs =>
    let p := old.getD (r / 32) (0, 0)
    let q := s.swapThread g.ccRef (htidOf p.1 p.2 (r % 32)) (y.htidOf r)
    let z : Thread := (s.thread? (g.thread r)).getD q.2
    let x := if q.2.st = .exited then q.2 else q.2.swappedIn z
    let s := (q.1.wakeWindows (g.thread r) (y.htidOf r) x.live).setThread (g.thread r) x
    (if x.step && !x.h && x.st == .ready then s.takeTrap (g.thread r) .step (pcWord x.pc) 0 0 else s).swapInThreads g y old rs

/-- A group is placed again and reads its image back. DESIGN CHOICE: log 19. -/
def State.swapIn (s : State) (g : GRef) (y : Group) (slots : List (Nat × Nat)) (tiles : List Nat) : State :=
  let c := g.ccRef
  let r := s.swapRead c (256 * g.grp) 256
  let bits := leNat r.2
  let s := r.1
  let mlive := BitVec.ofNat 8 (bitsOf bits 151 144)
  let z := { y with
    st := .resident, slots := slots, tiles := tiles, mlive := mlive
    cvs := (y.cvs.zip (List.range 8)).map fun v => { cvOfWord (bitsOf bits (415 + 32 * v.2) (384 + 32 * v.2)) with fence := v.1.fence }
    nbs := (List.range 16).map fun i => barOfWord (bitsOf bits (671 + 32 * i) (640 + 32 * i)) }
  let s := (s.setGroup g z).swapRings c g.grp z
  let meta' := s.swapMeta.getD g ([], [])
  let s := s.swapInThreads g z meta'.1 (List.range y.gsz)
  let s := { s with swapMeta := s.swapMeta.erase g }
  let s := y.bankList.foldl (fun s b =>
    if meta'.2.contains b then
      let q := s.swapRead c (0x1E8000 + bankSize * b) bankSize
      q.1.modHolding c fun x => { x with
        banks := x.banks.set b { grp := g.grp, live := true }, scratch := scrPut x.scratch (b * bankSize) q.2 }
    else s.modHolding c fun x => { x with banks := x.banks.set b { grp := g.grp, live := false } }) s
  let s := ((List.range 8).filter fun t => mlive.getLsbD t).foldl (fun s t =>
    let q := s.swapRead c (0x4E8000 + 65536 * bitsOf bits (58 + 3 * t) (56 + 3 * t)) 65536
    q.1.modHolding c fun x => { x with acc := readTile q.2 0 (tiles.getD t 0) x.acc }) s
  let s := s.modHolding c fun x => { x with tiles := tiles.foldl (fun d t => d.set t g.grp) x.tiles }
  s.powerUp c

/-- Whether what a swap-in would read of a group's image is poisoned (R413, R494). DEDUCED: log 62. -/
def State.swapBad (s : State) (g : GRef) (y : Group) : Bool :=
  let c := g.ccRef
  let kept := s.swapMeta.getD g ([], [])
  let bits := leNat (s.swapRead c (256 * g.grp) 256).2
  let bad := fun off n : Nat => (blocksOf (s.swapBase c + off) n).any fun b => s.poisoned b.1 b.2
  bad (256 * g.grp) 256
    || ((List.range y.gsz).any fun r => let p := kept.1.getD (r / 32) (0, 0); bad (0x6000 + 640 * htidOf p.1 p.2 (r % 32)) 640)
    || (kept.2.any fun b => bad (0x1E8000 + bankSize * b) bankSize)
    || (List.range 8).any fun t => bits.testBit (144 + t) && bad (0x4E8000 + 65536 * bitsOf bits (58 + 3 * t) (56 + 3 * t)) 65536

/-- The read that found the condition true is an acquire for every thread of the groups; their latches are cleared. -/
def State.swapAcquire (s : State) (gs : List GRef) (w : DWord) : State :=
  gs.foldl (fun s h => (s.groupThreads h).foldl (fun s e => s.setThread e.1 (if e.2.st = .exited then e.2 else e.2.raise w)) (s.setLatch h none))
    (s.unwatch fun t => gs.contains t.group)

/-- GSWAP_SWAP_IN (R366, R367): the condition has held, and every group of the swap finds its place; until then the latch is kept, and after a restore
the comparison is made again (R420). -/
def execGswapSwapIn (g : GRef) (s : State) : Out State Fault Refusal :=
  match s.group? g with
  | none => .next s
  | some y =>
    let gs := s.swapGroups g
    if !s.ctxRuns g.ctxRef || y.st != .swapped then .next s
    else
      let q := s.swapHolds gs
      match q.2 with
      | none => .next q.1
      | some w =>
        let ys := gs.filterMap fun h => (q.1.group? h).map fun z => (h, z)
        match (ys.map fun e => (q.1.swapFit e.1 e.2).map fun p => (e.1, p.1, p.2)).mapM id with
        | none => .next q.1
        | some l => .next <|
          if ys.any fun e => q.1.swapBad e.1 e.2 then q.1.faultCtx g.ctxRef 0x13
          else (l.foldl (fun s e => match s.group? e.1 with | some z => s.swapIn e.1 z e.2.1 e.2.2 | none => s) (q.1.swapAcquire gs w))

end Sys2Proof.Machine
end

