-- ==== Sys2Proof/Machine/ContextEv.lean ====
section
/-! DEFINITION. The halt, the drain, the seal and the activation of a context (19_context.md R413, R414, R422, R424 to R429, 02_time_base.md
R40, 21_link.md R437). -/
namespace Sys2Proof.Machine
open Sys2Proof

/-! ### Ports of a partition (R437) -/

def State.modPorts (s : State) (p : Nat) (f : Link → Link) : State :=
  (s.partDies p).foldl (fun s d => s.modDie d fun x => { x with ports := x.ports.map f }) s

/-- Drained: the fabric ports of the partition carry no further request. -/
def Link.drain (l : Link) : Link := match l.st with
  | .up | .degraded => { l with st := .quiesced }
  | _ => l

/-- The LANES of a PPT entry (R18). -/
def ppLanes (e : Word) : Nat := bitsOf e.toNat 7 4

/-- Activate: a quiesced port is UP or DEGRADED again, by its width. -/
def State.openPorts (s : State) (p : Nat) : State :=
  (s.partDies p).foldl (fun s d => (List.range 6).foldl (fun s i =>
    s.modLink (.port d i) fun l => if l.st = .quiesced then { l with st := if l.lanes = 15 then .up else .degraded } else l) s) s

/-! ### Halt (R424) -/

/-- A pause begins: VHALT := VTIME; one that is under way goes on (R40). -/
def Ctx.pause (y : Ctx) (now : DWord) : Ctx := if y.paused then y else { y with vhalt := y.vtime now, paused := true }

/-- A pause begins for a context whose image is in memory: its header takes VHALT and PAUSED (R40, R416). -/
def State.pauseImage (s : State) (x : CtxRef) : State :=
  let r := s.saRead x 0 256
  let h := leNat r.2
  if bitsOf h 111 111 = 1 then r.1
  else (r.1.saPut x 56 (leBytes (s.time.gtime - BitVec.ofNat 64 (bitsOf h 447 384)).toNat 8)).saPut x 13 [BitVec.ofNat 8 (0x80 + bitsOf h 110 104)]

/-- A halt that has to wait for requests sent again is logged (R446). -/
def State.logResent (s : State) (part : Nat) : State :=
  (s.freqs.filter fun f => f.part == part && f.resent.isSome).foldl
    (fun s f => s.mcRecord (some part) .fabric 0 (f.line * lineSize) 0 (bitsOf f.hdr.toNat 87 72) 0) s

/-- A context takes Halt, which may begin a pause (R40, R413). -/
def State.haltCtx (s : State) (x : CtxRef) (pause : Bool) : State :=
  match (s.ctx x).st with
  | .active => (s.logResent x.part).modCtx x fun z =>
      { (if pause then z.pause s.time.gtime else z) with st := .halting, issueOff := false, since := s.time.gtime }
  | .halting | .saving => if pause then s.modCtx x fun z => z.pause s.time.gtime else s
  | .loading => (if pause then s.pauseImage x else s).modCtx x fun z => { (if pause then z.pause s.time.gtime else z) with st := .saved, shadow := [] }
  | _ => s

/-- A phase that a halt abandons: the instruction issues again after restore (R263, R280, R349). -/
def Phase.restarts : Phase → Bool
  | .fence .. | .arrive | .walk _ | .walked .. => true
  | _ => false

def Thread.halted (x : Thread) : Thread :=
  let y := { x with elatch := none, yld := false, gap := 0 }
  if x.ph.restarts then { y with ph := .none, cur := none } else y

/-- A trap that has been decided and can be taken is taken before the halt (R403). DEDUCED: log 66. -/
def State.settleTraps (s : State) (t : TRef) : State :=
  match s.thread? t with
  | none => s
  | some x =>
    match nextDeferred x.deferred with
    | none => s
    | some d =>
      if x.h || x.ph != .none || s.unretired t || !(x.st == .ready || x.st == .parked) then s
      else
        let tinfo := match d.entry.bind fun e => ((s.holding t.ccRef).olog.get? e).map fun o => o.tinfo e with
          | some w => w
          | none => 0
        (s.setThread t { x with deferred := x.deferred.erase d, fpark := none }).takeTrap t d.cause (pcWord x.pc) d.taddr tinfo

/-- The cores on which a context holds groups. -/
def State.ctxCores (s : State) (x : CtxRef) : List CoreRef :=
  (s.ctxGroups x).foldl (fun l e => if l.contains e.1.coreRef then l else l ++ [e.1.coreRef]) []

/-- A replay under way on a core of a context: a halt waits for it (R219, R469). -/
def State.replayUnderWay (s : State) (x : CtxRef) : Bool := (s.ctxCores x).any fun c => (s.core c).slices.any Slice.replays

/-- HALT_ISSUE_STOPPED (R424). -/
def execHaltIssueStopped (x : CtxRef) (s : State) : Out State Fault Refusal :=
  if !s.halts x || s.replayUnderWay x then .next s
  else
    let s := (s.ctxThreads x).foldl (fun s e => s.settleTraps e.1) s
    let s := (s.ctxThreads x).foldl (fun s e => s.setThread e.1 e.2.halted) s
    let s := (s.ctxCores x).foldl (fun s c => (s.drainCore c).modCore c fun k => { k with walks := [] }) s
    .next ({ s with issueQ := s.issueQ.filter fun t => t.ctxRef != x }.modCtx x fun y => { y with issueOff := true, since := s.time.gtime })

/-! ### Drain (R425) -/

/-- A load of memory that a drain leaves to be replayed; one that an operand-log entry replays is awaited (R271, R288). -/
def MOp.replays (m : MOp) : Bool :=
  (m.kind == .load || m.kind == .acquire || m.kind == .pref) && m.entry.isNone && (match m.loc with | .mem .. => true | _ => false)

/-- Whether everything of a context that a drain awaits is settled. -/
def State.settledCtx (s : State) (x : CtxRef) : Bool :=
  (s.ctxCores x).all (fun c =>
    let k := s.core c
    !(k.mops.any fun m => m.thr.ctxRef == x && !m.replays) && !(k.wc.any fun w => w.thrs.any fun t => t.ctxRef == x)
      && !(k.mmas.any fun m => m.ctx == x.ctx))
  && !(s.gangs.any fun e => e.1.part == x.part && e.1.ctx == x.ctx && e.2.gbs.any fun b => !b.deliver.isEmpty)
  && !((s.ctxThreads x).any fun e => e.2.ph == .matOp)
  -- a CCTL.wb is a store of its thread (R270)
  && !(s.freqs.any fun f => f.op == opWR && f.thrs.any fun t => t.ctxRef == x)
  && !(s.pool.any fun e => (e.2.want.getD []).any fun t => t.ctxRef == x)

/-- The replay entry of a load that has not returned (R271). -/
def State.replayOf (s : State) (m : MOp) : Option Replay :=
  if m.kind = .load ∨ m.kind = .acquire then
    some { ea := m.ea, instr := m.instr, word := encode m.instr, grp := m.thr.grp, rank := m.thr.rank,
           htid := ((s.thread? m.thr).map (·.htid)).getD 0 }
  else none

/-- The loads of a context on a core enter its replay list. -/
def State.listReplays (s : State) (x : CtxRef) (c : CoreRef) : State :=
  let ms := (s.core c).mops.filter fun m => m.thr.ctxRef == x && m.replays
  let s := s.modHolding { part := x.part, ctx := x.ctx, core := c.core } fun h => { h with replay := h.replay ++ ms.filterMap s.replayOf }
  let s := s.modCore c fun k => { k with mops := k.mops.filter fun m => !(m.thr.ctxRef == x && m.replays) }
  ms.foldl (fun s m => match s.thread? m.thr with
    | some y => s.settleDests m.thr y m.instr
    | none => s) s

/-- A thread whose acquire is in the replay list has gone past it. -/
def Thread.unanswered (x : Thread) : Thread :=
  match x.ph with
  | .answer _ => { x with ph := .none, cur := none, pc := x.nextPc }
  | _ => x

def State.drained (s : State) (x : CtxRef) : State :=
  let s := (s.ctxCores x).foldl (fun s c => s.listReplays x c) s
  (s.ctxThreads x).foldl (fun s e => s.setThread e.1 e.2.unanswered) s

/-! ### Fitting together (R44) -/

/-- The logical cores of a partition. -/
def State.partCores (s : State) (p : Nat) : List Nat := List.range (36 * (s.partDies p).length)

def sumBy (f : Nat → Nat) (l : List Nat) : Nat := l.foldl (fun a e => a + f e) 0

/-- Footprint entries of one core within its limits together. -/
def footsFit (l : List Nat) : Bool :=
  ((List.range 6).all fun sl => decide (sumBy (fpSlots · sl) l ≤ 16) && decide (sumBy (fpRows · sl) l ≤ 8))
    && decide (sumBy fpBanks l ≤ 96) && decide (sumBy fpTiles l ≤ 8) && decide (sumBy fpChans l ≤ 8) && decide (sumBy fpRings l ≤ 8)

/-- Contexts of a partition whose footprints fit every core together. -/
def State.allFit (s : State) (p : Nat) (xs : List CtxRef) : Bool := (s.partCores p).all fun c => footsFit (xs.map fun x => s.footprint x c)

def State.ctxFits (s : State) (a b : CtxRef) : Bool := s.allFit a.part [a, b]

/-- The contexts of a partition, but for one, that have resources of its cores. -/
def State.residents (s : State) (x : CtxRef) : List CtxRef :=
  (s.ctxs.filter fun e => e.1.part == x.part && e.1 != x && (e.2.st == .active || e.2.st == .halting || e.2.st == .saving || e.2.st == .staged)).map (·.1)

/-- Log entries in a saved core record. -/
def State.savedLog (s : State) (x : CtxRef) (core : Nat) : Nat :=
  let d := leNat (s.saRead x (0x5000 + 16 * core) 16).2
  if d / 2 ^ 64 = 0 then 0 else bitsOf (leNat (s.saRead x (d % 2 ^ 64) 256).2) 79 64

/-- The checks made again at START (R428). -/
def State.flipOk (s : State) (out inc : CtxRef) : Bool :=
  s.ctxFits out inc && (s.partCores out.part).all fun c =>
    !((s.holding { part := out.part, ctx := out.ctx, core := c }).olog.length + s.savedLog inc c > 256)

/-! ### Activation (R427) -/

/-- A core as an activation leaves it: the L1 dropped, no PC table, no unit held, E at 0, and no cycle counted before it (R228, R461, R466). -/
def Core.activated (k : Core) : Core :=
  { k with l1 := [], energy := 0, wrap := false, erem := 0,
           slices := k.slices.map fun x => { x with
             table := [], issued := [], again := [], cIss := 0, cMem := 0, cEng := 0, cAll := 0, err := none, stop := 0, div := 0, sfu := 0, sli := 0 } }

/-- The directory entries from core c on that name a record: core, offset and length, the length cut to 6 MiB, more than a core record
can have (R415, R419). DEDUCED: log 66. -/
def dirFrom : Nat → Nat → List Byte → List (Nat × Nat × Nat)
  | 0, _, _ => []
  | n + 1, c, l =>
    let off := leNat (l.take 8)
    let len := leNat ((l.drop 8).take 8)
    if len = 0 then dirFrom n (c + 1) (l.drop 16) else (c, off, min len 0x600000) :: dirFrom n (c + 1) (l.drop 16)

/-- The core records of an image: core, offset and length. -/
def State.directory (s : State) (x : CtxRef) : State × List (Nat × Nat × Nat) :=
  let r := s.saRead x 0x5000 2304
  (r.1, dirFrom 144 0 r.2)

/-- The whole image as staging reads it: header, footprints, kernel table and directory, and the core records (R428). -/
def State.stageRead (s : State) (x : CtxRef) (dir : List (Nat × Nat × Nat)) : State :=
  let h := s.saRead x 0 0x6000
  let r := dir.foldl (fun (r : State × List (Nat × List Byte)) d =>
    let q := r.1.saRead x d.2.1 d.2.2
    (q.1, r.2 ++ [(d.2.1, q.2)])) (h.1, [(0, h.2)])
  r.1.modCtx x fun y => { y with st := .staged, shadow := r.2 }

/-- Unstage (R413): a context that is staged keeps no shadow. DEDUCED: log 55. -/
def State.unstage (s : State) (x : CtxRef) : State :=
  match (s.ctx x).st with
  | .staging | .staged => s.modCtx x fun y => { y with st := .saved, shadow := [] }
  | _ => s

/-- The shadows that a context which has come to the cores takes for itself (R413 Unstage, R428). DEDUCED: log 55. -/
def State.returnShadows (s : State) (p : Nat) : State :=
  (s.ctxs.filter fun e => e.1.part == p && e.2.st == .staged).foldl (fun s e => if s.allFit p (e.1 :: s.residents e.1) then s else s.unstage e.1) s

/-- Whether an image or a part of it is poisoned (R413 Fault). DEDUCED: log 66. -/
def State.imageBad (s : State) (x : CtxRef) (dir : List (Nat × Nat × Nat)) : Bool :=
  let base := (s.ctx x).saBase
  s.poisoned base 0x5900 || dir.any fun d => s.poisoned (base + d.2.1) d.2.2

/-- Read every core record. -/
def State.restoreAll (s : State) (x : CtxRef) (dir : List (Nat × Nat × Nat)) : State :=
  dir.foldl (fun s d =>
    let r := s.saRead x d.2.1 d.2.2
    (r.1.restoreCore x d.1 d.2.1 r.2).joinGangs x d.1 r.2) s

/-- The channels parked PAGE MIGRATE in a range whose INVAL has completed while the context was in memory retry their line, and the ranges are done
with (R290). -/
def State.retryMigrated (s : State) (x : CtxRef) : State :=
  ((s.holds.filter fun e => e.1.ctxRef = x).foldl (fun s e =>
    (List.range 8).foldl (fun s ch => match (e.2.chans.get? ch).bind (·.miss) with
      | some (m, va) => if m.cause = .page ∧ m.sub = 5 ∧ s.invalSince x va = true then s.chanRetry e.1 ch else s
      | none => s) s) s).modCtx x fun y => { y with invals := [] }

/-- The waits of a context go on, and what may go on at once does. -/
def State.restoreWaits (s : State) (x : CtxRef) : State :=
  let ts := sortBy (fun e : TRef × Thread => e.1.core * 4096 + e.2.htid) (s.ctxThreads x)
  let s := ts.foldl (fun s e => (s.refetch e.1).resume e.1) s
  (s.ctxGroups x).foldl (fun s e => s.reevaluate e.1) s

/-- The instant of Flip or of Loaded: the context is ACTIVE (R412, R427), or FAULTED when its image cannot be read. -/
def State.activate (s : State) (x : CtxRef) : State :=
  let r := s.saRead x 0 256
  let d := r.1.directory x
  if (s.ctx x).shadow.isEmpty && d.1.imageBad x d.2 then d.1.faultCtx x 0x13
  else
    let s := d.1.modCtx x fun y =>
      let z := y.ofHeader (leNat r.2)
      { z with st := .active, issueOff := false, since := s.time.gtime, gen := z.gen + 1, memcfg := (s.part x.part).memcfg,
               pauseoff := if z.paused then s.time.gtime - z.vhalt else z.pauseoff, paused := false }
    let s := s.modPart x.part fun p => { p with running := some x.ctx, last := some x.ctx, next := if p.next = some x.ctx then none else p.next, drained := false }
    let s := { s with cores := s.cores.map fun e : CoreRef × Core => if e.1.part = x.part then (e.1, e.2.activated) else e }
    let s := ((s.modTime fun t => { t with everAct := true }).openPorts x.part).returnShadows x.part
    ((((s.restoreKernels x).restoreAll x d.2).modCtx x fun y => { y with shadow := [] }).retryMigrated x).restoreWaits x

/-- A context of a partition, where it is STAGED. -/
def State.stagedCtx (s : State) (p : Nat) (n : Option Nat) : Option CtxRef :=
  match n with
  | some n => if (s.ctx { part := p, ctx := n }).st == .staged then some { part := p, ctx := n } else none
  | none => none

/-- DRAIN_COMPLETE (R425, R427): the context is SAVING; a successor that flips is activated. What has parked since START must leave its log entries
room. DEDUCED: log 55. -/
def execDrainComplete (x : CtxRef) (s : State) : Out State Fault Refusal :=
  if (s.ctx x).st != .halting || !(s.ctx x).issueOff || s.inReset || !s.settledCtx x then .next s
  else
    let s := ((s.drained x).modCtx x fun y => { y with st := .saving, since := s.time.gtime }).modPorts x.part Link.drain
    let s := s.modPart x.part fun p => { p with drained := true }
    match s.stagedCtx x.part (s.part x.part).next with
    | some n => .next (if (s.part x.part).flip && s.flipOk x n then s.activate n else s.modPart x.part fun p => { p with flip := false })
    | none => .next s

/-- Whether a STAGED context may flip now: no other runs, and it passes the checks beside each that is being saved (R428). DEDUCED: log 55. -/
def State.mayFlip (s : State) (x : CtxRef) : Bool :=
  let p := s.part x.part
  (s.ctx x).st == .staged && p.next == some x.ctx && p.flip && p.running.isNone && !s.inReset && s.quiet x.part
    && (s.residents x).all fun o => (s.ctx o).st == .staged || s.flipOk o x

/-- The context that comes in flips where it is STAGED and nothing holds the cores; otherwise its load begins (R413). -/
def State.bringIn (s : State) (p : Nat) : State :=
  match s.stagedCtx p (s.part p).next with
  | some n => if s.mayFlip n then s.activate n else s.startLoad p
  | none => s.startLoad p

/-- IMAGE_SEALED (R429): the image is written, its header last; an error that the save read gives Fault after the seal. -/
def execImageSealed (x : CtxRef) (s : State) : Out State Fault Refusal :=
  if (s.ctx x).st != .saving || s.inReset then .next s
  else
    let bad := s.ctxPoisoned x
    let s := (s.seal x).freeCtx x
    let s := s.modCtx x fun y => { y with st := .saved, issueOff := false }
    let s := s.modPart x.part fun p => { p with running := if p.running = some x.ctx then none else p.running }
    .next (if bad then s.faultCtx x 0x13 else s.bringIn x.part)

/-- Whether a load may end now: nothing holds the cores or is being saved, and what an ended context had under way has drained (R414). -/
def State.mayLoad (s : State) (x : CtxRef) : Bool :=
  (s.ctx x).st == .loading && (s.part x.part).running.isNone && !s.inReset && s.quiet x.part && !s.spilling x.part

/-- LOAD_COMPLETE (R427); a STAGED context whose predecessor has ended comes in here, too (R414). DEDUCED: log 55. -/
def execLoadComplete (x : CtxRef) (s : State) : Out State Fault Refusal := .next (if s.mayLoad x || s.mayFlip x then s.activate x else s)

/-! ### Switching (R413, R46) -/

/-- A context that is LOADING and is not the one to come in takes Halt (R413). -/
def State.haltLoading (s : State) (p : Nat) (target : Option Nat) (pause : Bool) : State :=
  (s.ctxs.filter fun e => e.1.part == p && e.2.st == .loading && target != some e.1.ctx).foldl (fun s e => s.haltCtx e.1 pause) s

/-- Staging that is not complete at START goes on as a load (R413). -/
def State.goOnByLoad (s : State) (p : Nat) (target : Option Nat) : State :=
  match target with
  | some n => s.modCtx { part := p, ctx := n } fun (y : Ctx) => if y.st == CSt.staging then { y with st := CSt.loading, since := s.time.gtime } else y
  | none => s

/-- What START decides of the context to come in: a flip where it is STAGED and passes the checks made again; where its staging is not complete it
goes on by load, with the staged parts kept (R413, R428). -/
def State.decideSwitch (s : State) (out : CtxRef) (target : Option Nat) : State :=
  let s := s.goOnByLoad out.part target
  s.modPart out.part fun q => { q with next := target, flip := match s.stagedCtx out.part target with
    | some n => s.flipOk out n
    | none => true }

/-- Bring in a context, or nothing: the running context halts, a loading one goes back to SAVED; the context that runs already goes on. A STAGED one
that passes the checks flips at once where the outgoing context has drained already (R427, R431).
DESIGN CHOICE: log 78. DEDUCED: log 55. -/
def State.switchTo (s : State) (p : Nat) (target : Option Nat) (pause : Bool) : State :=
  match (s.part p).running with
  | some r =>
    let x : CtxRef := { part := p, ctx := r }
    if target = some r ∧ (s.ctx x).st = .active then s
    else
      let s := ((s.haltLoading p target pause).haltCtx x pause).decideSwitch x target
      match s.stagedCtx p target with
      | some n => if (s.ctx x).st = .saving ∧ (s.part p).flip = true ∧ s.inReset = false then s.activate n else s
      | none => s
  | none => (((s.haltLoading p target pause).modPart p fun q => { q with next := target, flip := true }).goOnByLoad p target).bringIn p

end Sys2Proof.Machine
end

