-- ==== Sys2Proof/Machine/Sha.lean ====
section
/-! DEFINITION. SHA-256 (FIPS 180-4), which 17_queue.md R391, 22_power.md R473 and 23_trust.md R481 apply to bytes. -/
namespace Sys2Proof.Machine
open Sys2Proof

/-- The round constants. -/
def shaK : List Word :=
  [0x428A2F98, 0x71374491, 0xB5C0FBCF, 0xE9B5DBA5, 0x3956C25B, 0x59F111F1, 0x923F82A4, 0xAB1C5ED5,
   0xD807AA98, 0x12835B01, 0x243185BE, 0x550C7DC3, 0x72BE5D74, 0x80DEB1FE, 0x9BDC06A7, 0xC19BF174,
   0xE49B69C1, 0xEFBE4786, 0x0FC19DC6, 0x240CA1CC, 0x2DE92C6F, 0x4A7484AA, 0x5CB0A9DC, 0x76F988DA,
   0x983E5152, 0xA831C66D, 0xB00327C8, 0xBF597FC7, 0xC6E00BF3, 0xD5A79147, 0x06CA6351, 0x14292967,
   0x27B70A85, 0x2E1B2138, 0x4D2C6DFC, 0x53380D13, 0x650A7354, 0x766A0ABB, 0x81C2C92E, 0x92722C85,
   0xA2BFE8A1, 0xA81A664B, 0xC24B8B70, 0xC76C51A3, 0xD192E819, 0xD6990624, 0xF40E3585, 0x106AA070,
   0x19A4C116, 0x1E376C08, 0x2748774C, 0x34B0BCB5, 0x391C0CB3, 0x4ED8AA4A, 0x5B9CCA4F, 0x682E6FF3,
   0x748F82EE, 0x78A5636F, 0x84C87814, 0x8CC70208, 0x90BEFFFA, 0xA4506CEB, 0xBEF9A3F7, 0xC67178F2]

def shaInit : List Word :=
  [0x6A09E667, 0xBB67AE85, 0x3C6EF372, 0xA54FF53A, 0x510E527F, 0x9B05688C, 0x1F83D9AB, 0x5BE0CD19]

def rotr (x : Word) (n : Nat) : Word := x.rotateRight n

def ssig0 (x : Word) : Word := rotr x 7 ^^^ rotr x 18 ^^^ (x >>> 3)
def ssig1 (x : Word) : Word := rotr x 17 ^^^ rotr x 19 ^^^ (x >>> 10)
def bsig0 (x : Word) : Word := rotr x 2 ^^^ rotr x 13 ^^^ rotr x 22
def bsig1 (x : Word) : Word := rotr x 6 ^^^ rotr x 11 ^^^ rotr x 25

/-- Big-endian words of bytes. -/
def shaWords : List Byte → List Word
  | a :: b :: c :: d :: l => (((a.setWidth 32 <<< 24) ||| (b.setWidth 32 <<< 16)) ||| ((c.setWidth 32 <<< 8) ||| d.setWidth 32)) :: shaWords l
  | _ => []

/-- The message schedule, newest word first. -/
def shaSchedule : Nat → List Word → List Word
  | 0, w => w
  | n + 1, w => shaSchedule n ((ssig1 (w.getD 1 0) + w.getD 6 0 + ssig0 (w.getD 14 0) + w.getD 15 0) :: w)

def shaRound (h : List Word) (kw : Word × Word) : List Word :=
  match h with
  | [a, b, c, d, e, f, g, i] =>
    let t1 := i + bsig1 e + ((e &&& f) ^^^ (~~~e &&& g)) + kw.1 + kw.2
    let t2 := bsig0 a + ((a &&& b) ^^^ (a &&& c) ^^^ (b &&& c))
    [t1 + t2, a, b, c, d + t1, e, f, g]
  | h => h

def shaBlock (h : List Word) (block : List Byte) : List Word :=
  let w := (shaSchedule 48 (shaWords block).reverse).reverse
  ((h.zip ((shaK.zip w).foldl shaRound h)).map fun e => e.1 + e.2)

def shaBlocks (h : List Word) : Nat → List Byte → List Word
  | 0, _ => h
  | n + 1, bs => shaBlocks (shaBlock h (bs.take 64)) n (bs.drop 64)

/-- Big-endian bytes of a number. -/
def beBytes (x n : Nat) : List Byte := (leBytes x n).reverse

/-- SHA-256 as 32 bytes, the first the most significant. -/
def shaBytes (m : List Byte) : List Byte :=
  let pad := m ++ [0x80] ++ List.replicate ((119 - m.length % 64) % 64) 0 ++ beBytes (8 * m.length) 8
  (shaBlocks shaInit (pad.length / 64) pad).flatMap fun w => beBytes w.toNat 4

/-- SHA-256 as a number, its first byte the most significant. -/
def sha256 (m : List Byte) : Nat := leNat (shaBytes m).reverse

end Sys2Proof.Machine
end

