-- ==== Sys2Proof/Machine/Lms.lean ====
section
/-! DEFINITION. The hash-based signatures of RFC 8554 with the parameters of 23_trust.md R477: HSS of two levels, each of LMS_SHA256_M32_H10 and
LMOTS_SHA256_N32_W4. -/
namespace Sys2Proof.Machine
open Sys2Proof

/-- n bytes from an offset. -/
def cut (b : List Byte) (off n : Nat) : List Byte := (b.drop off).take n

/-! ### LMOTS_SHA256_N32_W4 (RFC 8554, 4): 67 chains of 15 steps -/

/-- The i-th digit of four bits of a string. -/
def digit4 (b : List Byte) (i : Nat) : Nat := if i % 2 = 0 then (b.getD (i / 2) 0).toNat / 16 else (b.getD (i / 2) 0).toNat % 16

/-- The checksum of a hash's 64 digits. -/
def otsSum (q : List Byte) : Nat := (List.range 64).foldl (fun a i => a + (15 - digit4 q i)) 0 * 16

/-- n steps of chain i from step j on. -/
def otsChain (id : List Byte) (q i : Nat) : Nat → Nat → List Byte → List Byte
  | 0, _, x => x
  | n + 1, j, x => otsChain id q i n (j + 1) (shaBytes (id ++ beBytes q 4 ++ beBytes i 2 ++ beBytes j 1 ++ x))

/-- The public key that a one-time signature of a message gives: the randomiser, then the chains. -/
def otsKey (id : List Byte) (q : Nat) (sig msg : List Byte) : List Byte :=
  let h := shaBytes (id ++ beBytes q 4 ++ [0x81, 0x81] ++ cut sig 4 32 ++ msg)
  let d := h ++ beBytes (otsSum h) 2
  shaBytes (id ++ beBytes q 4 ++ [0x80, 0x80] ++ (List.range 67).flatMap fun i => otsChain id q i (15 - digit4 d i) (digit4 d i) (cut sig (36 + 32 * i) 32))

/-! ### LMS_SHA256_M32_H10 (RFC 8554, 5) -/

/-- From a node of the tree to its root. -/
def lmsClimb (id : List Byte) (path : List Byte) : Nat → Nat → Nat → List Byte → List Byte
  | 0, _, _, x => x
  | n + 1, node, i, x =>
    let p := cut path (32 * i) 32
    lmsClimb id path n (node / 2) (i + 1)
      (shaBytes (id ++ beBytes (node / 2) 4 ++ [0x83, 0x83] ++ if node % 2 = 1 then p ++ x else x ++ p))

def lmsSigLen : Nat := 2508
def lmsPubLen : Nat := 56

/-- Whether a signature of a message verifies under a public key: both types, a leaf of the tree, and the root. -/
def lmsVerify (pub msg sig : List Byte) : Bool :=
  let id := cut pub 8 16
  let q := beNat (cut sig 0 4)
  let leaf := shaBytes (id ++ beBytes (1024 + q) 4 ++ [0x82, 0x82] ++ otsKey id q (cut sig 4 2180) msg)
  pub.length == lmsPubLen && sig.length == lmsSigLen && beNat (cut pub 0 4) == 6 && beNat (cut pub 4 4) == 3 && beNat (cut sig 4 4) == 3
    && beNat (cut sig 2184 4) == 6 && decide (q < 1024) && lmsClimb id (sig.drop 2188) 10 (1024 + q) 0 leaf == cut pub 24 32

/-! ### HSS of two levels (RFC 8554, 6) -/

/-- Whether an HSS signature of 5,076 bytes verifies under an HSS public key (R477, R481). -/
def hssVerify (pub msg sig : List Byte) : Bool :=
  let mid := cut sig (4 + lmsSigLen) lmsPubLen
  beNat (cut pub 0 4) == 2 && beNat (cut sig 0 4) == 1 && lmsVerify (pub.drop 4) mid (cut sig 4 lmsSigLen)
    && lmsVerify mid msg (sig.drop (4 + lmsSigLen + lmsPubLen))

end Sys2Proof.Machine
end

