-- ==== Sys2Proof/Machine/Pestle.lean ====
section
/-! DEFINITION. What the Pestle's requests share: the mailboxes, the place-table checks, the links' enable condition, the boot chain and the
reset of a partition (01_package.md R18 to R30, 21_link.md R437, 23_trust.md R477 to R483). -/
namespace Sys2Proof.Machine
open Sys2Proof

/-! ### Statuses (R20, R482) -/

def stOk : Nat := 0x00
def stBadShape : Nat := 0x01
def stBadSlot : Nat := 0x02
def stDupSlot : Nat := 0x03
def stRetired : Nat := 0x04
def stNotSaved : Nat := 0x05
def stNotOwner : Nat := 0x06
def stInUse : Nat := 0x07
def stBadOp : Nat := 0x08
def stNoKey : Nat := 0x09
def stExhausted : Nat := 0x0A
def stBadSig : Nat := 0x0B

/-! ### Boot (R477, R478) -/

/-- Whether an image with its key and signature verifies against a fuse bank: one of the bank's two hashes is its key's, its signature verifies, and its SVN
is not below the bank's minimum (R477, R478). -/
def Pestle.accepts (p : Pestle) (bank : Nat) (image key sig : List Byte) : Bool :=
  let h := sha256 key
  (h == (Config.fuseHash bank).1.toNat || h == (Config.fuseHash bank).2.toNat) && hssVerify key image sig
    && decide ((p.svnMin.getD bank 0).toNat ≤ (Config.imageSvn image).toNat)

/-- The image of a fuse bank: of the Ladle image, the copy in Pestle-owned memory (R479). -/
def Pestle.image (p : Pestle) (bank : Nat) : List Byte := if bank = 2 then p.ladleImg else Config.image bank

/-- Whether the image of a fuse bank verifies. DESIGN CHOICE: log 56. -/
def Pestle.verifies (p : Pestle) (bank : Nat) : Bool := p.accepts bank (p.image bank) (Config.imageKey bank) (Config.imageSig bank)

/-- The host cores run once steps 1 and 2 of the boot chain have passed. DESIGN CHOICE: log 56. -/
def State.hostUp (s : State) : Bool := (s.pestle.booted || s.pestle.boot == 3) && !s.inReset

/-- The package as a cold reset leaves it before the boot chain runs: what the Pestle's non-volatile storage holds stays (R32, R478, R480).
DESIGN CHOICE: log 56. -/
def State.coldState (s : State) : State :=
  { State.reset with
    pestle := { Pestle.reset with ladleImg := Config.image 2, svnMin := s.pestle.svnMin, sigcnt := s.pestle.sigcnt, drbg := s.pestle.drbg, retired := s.pestle.retired,
                                    retPorts := s.pestle.retPorts }
    mem := s.mem, poison := s.poison
    keyTag := s.mem.foldl (fun t e => Tab.put 0 t (e.1 / sectorSize) lostTag) s.keyTag
    fresh := s.fresh, moves := s.moves }

/-- COLD_RESET (R477): the boot chain runs to its end or to the step that fails. DESIGN CHOICE: log 56. -/
def execColdReset (s : State) : Out State Fault Refusal :=
  let s := s.coldState
  let p := s.pestle
  let fail := ([0, 1, 2].find? fun b => !p.verifies b).map (· + 1)
  .next (s.modPestle fun p => { p with
    boot := fail.getD 0, booted := fail.isNone, pkg := Config.pkgId,
    svnImg := [0, 1, 2].map fun b => Config.imageSvn (p.image b) })

/-- SVN_RAISE (R478): only for a verified image of higher SVN. -/
def execSvnRaise (bank : Nat) (svn : Word) (s : State) : Out State Fault Refusal :=
  if s.hostUp && s.pestle.verifies bank && Config.imageSvn (s.pestle.image bank) == svn && decide ((s.pestle.svnMin.getD bank 0).toNat < svn.toNat)
  then .next (s.modPestle fun p => { p with svnMin := modNth p.svnMin bank fun _ => svn })
  else .next s

/-! ### The mailboxes (R482) -/

def State.reply (s : State) (mb : Mailbox) (tag : Word) (status : Nat) (bytes : List Byte) : State :=
  s.modPestle fun p => { p with answers := { mb := mb, tag := tag, status := status, bytes := bytes } :: p.answers }

/-- Whether a partition is formed. -/
def State.formed (s : State) (p : Nat) : Bool := !(s.partDies p).isEmpty

/-- Whether a mailbox may name a partition. -/
def Mailbox.mayName (mb : Mailbox) (part : Nat) : Bool :=
  match mb with
  | .operator => true
  | .part p => p == part

def Mailbox.isOperator (mb : Mailbox) : Bool :=
  match mb with
  | .operator => true
  | .part _ => false

/-- Serve a request that names a formed partition: `f` gives the new state and the status, and a refusal changes nothing.
DESIGN CHOICE: log 74. -/
def State.serve (s : State) (mb : Mailbox) (tag : Word) (part : Nat) (f : State → State × Nat) : Out State Fault Refusal :=
  if !s.hostUp then .next s
  else if !Mailbox.mayName mb part || !s.formed part then .next (s.reply mb tag stNotOwner [])
  else
    let r := f s
    .next (if r.2 = stOk then r.1.reply mb tag stOk [] else s.reply mb tag r.2 [])

/-- The first status of a list of checks that applies. DEDUCED: log 57. -/
def firstStatus : List (Bool × Nat) → Nat
  | [] => stOk
  | (b, n) :: l => if b then n else firstStatus l

/-- Commit a change if no check applies. -/
def State.commitIf (s : State) (checks : List (Bool × Nat)) (f : State → State) : State × Nat :=
  match firstStatus checks with
  | 0 => (f s, stOk)
  | n => (s, n)

/-- Whether every context of a partition is in a state that a condition allows. -/
def State.ctxsAre (s : State) (part : Nat) (ok : CSt → Bool) : Bool := s.ctxs.all fun e => e.1.part != part || ok e.2.st

def CSt.idle : CSt → Bool
  | .saved | .empty => true
  | _ => false

def State.allSaved (s : State) (part : Nat) : Bool := s.ctxsAre part CSt.idle

/-! ### Place tables (R19, R20) -/

/-- An entry as its table stores it: reserved bits read 0, and SPARE follows SLOT. -/
def cptEntry (v : Word) : Word :=
  if v.toNat % 64 = 36 ∨ v.toNat % 64 = 37 then v &&& 0x8000003F ||| 0x40000000 else v &&& 0x8000003F
def dptEntry (v : Word) : Word := v &&& 0x80000003
def pptEntry (v : Word) : Word := v &&& 0x800000FF

def entryValid (e : Word) : Bool := e.getLsbD 31
def cptSlot (e : Word) : Nat := e.toNat % 64
def dptDie (e : Word) : Nat := e.toNat % 4
def pptPort (e : Word) : Nat := e.toNat % 16

def hasDup : List Nat → Bool
  | [] => false
  | a :: l => l.contains a || hasDup l

def lanesOk (l : Nat) : Bool := l == 0xF || l == 0x3 || l == 0xC

/-- Entries that a request supplies, of which some has a SLOT, a PPORT or LANES that R20 does not allow. -/
def cptBadSlot (vals : List Word) : Bool := vals.any fun e => decide (37 < cptSlot e)
def pptBadSlot (vals : List Word) : Bool := vals.any fun e => decide (5 < pptPort e) || !lanesOk (ppLanes e)
def dupIn (f : Word → Nat) (t : List Word) : Bool := hasDup ((t.filter entryValid).map f)

/-- Some entry of a request names a slot, or a port, of the retired list (R20, R32). -/
def State.slotRetired (s : State) (die : Nat) (vals : List Word) : Bool := vals.any fun e => s.pestle.retired.contains (die, cptSlot e)
def State.portRetired (s : State) (die : Nat) (vals : List Word) : Bool := vals.any fun e => s.pestle.retPorts.contains (die, pptPort e)

/-- A table with the values of a request written in. -/
def putEntries (f : Word → Word) (t : List Word) (vals : List (Nat × Word)) : List Word :=
  vals.foldl (fun t v => modNth t v.1 fun _ => f v.2) t

/-- A DPT names the dies at its first entries and nothing after them. -/
def dptShape (t : List Word) (n : Nat) : Bool :=
  (List.range 4).all fun i => entryValid (t.getD i 0) == decide (i < n)

/-! ### Links and their enable condition (R27, R437) -/

def Die.active (d : Die) : Bool := d.diepart.getLsbD 31
def Die.part (d : Die) : Nat := d.diepart.toNat % 4

/-- A fabric port's PPT entry is valid and its die is ACTIVE. -/
def Die.portEnabled (d : Die) (q : Nat) : Bool := d.active && d.ppt.any fun e => entryValid e && pptPort e == q

/-- The compute dies at the ends of a link: two, or one of a link to the host die (R12). -/
def linkPair (l : Nat) : Nat × Nat := linkEnds.getD l (l - 4, l - 4)

def State.linkDies (s : State) (l : Nat) : Die × Die := (s.die (linkPair l).1, s.die (linkPair l).2)

/-- Both dies ACTIVE with one PART. -/
def State.linkOpens (s : State) (l : Nat) : Bool :=
  let e := s.linkDies l
  e.1.active && e.2.active && e.1.part == e.2.part

def State.linkEnabled (s : State) : LinkRef → Bool
  | .port d p => (s.die d).portEnabled p
  | .d2d l => (s.linkDies l).1.active && (s.linkDies l).2.active

/-- Entry into TRAINING. DEDUCED: log 58. -/
def Link.train (l : Link) (now : DWord) : Link := { l with st := .training, since := now, retrains := min 63 (l.retrains + 1), replays := 0 }

/-- Disable (R437): what a port still queues is discarded with it. DESIGN CHOICE: log 71. -/
def Link.disable (l : Link) (now : DWord) : Link :=
  if l.st = .down then { l with en := false, queue := [] }
  else { l with st := .down, en := false, since := now, lanes := 0, replays := 0, queue := [] }

/-- FWLINK OPEN follows the dies: Close and Open of R437. -/
def Link.setOpen (l : Link) (o : Bool) (now : DWord) : Link :=
  if o && !l.fwOpen then
    match l.st with
    | .down => { l with fwOpen := true, en := true, st := .training, since := now, retrains := 0 }
    | .fenced => { l.train now with fwOpen := true }
    | _ => { l with fwOpen := true }
  else if !o && l.fwOpen then
    match l.st with
    | .training | .up | .degraded => { l with fwOpen := false, st := .fenced }
    | _ => { l with fwOpen := false }
  else l

/-- Every open link at some dies closes: OPEN is cleared before DIEPART changes (R27). -/
def State.closeLinks (s : State) (dies : List Nat) : State :=
  (List.range 4).foldl (fun s l =>
    if dies.contains (linkPair l).1 || dies.contains (linkPair l).2 then s.modLink (.d2d l) fun x => x.setOpen false s.time.gtime else s) s

/-- After a change of DIEPART or of a place table: links open, close and lose their enable condition. DEDUCED: log 58. -/
def State.relink (s : State) : State :=
  let now := s.time.gtime
  let s := (List.range 8).foldl (fun s l => s.modLink (.d2d l) fun x =>
    let x := if l < 4 then x.setOpen (s.linkOpens l) now else x
    if s.linkEnabled (.d2d l) then x else x.disable now) s
  (List.range 4).foldl (fun s d => (List.range 6).foldl (fun s p =>
    if s.linkEnabled (.port d p) then s else s.modLink (.port d p) fun x => x.disable now) s) s

/-- A partition Reset or Dissolve begins: the links of its dies go DOWN (R437). -/
def State.dropLinks (s : State) (part : Nat) : State :=
  let now := s.time.gtime
  let dies := s.partDies part
  let s := dies.foldl (fun s d => s.modDie d fun x => { x with ports := x.ports.map fun l => l.disable now }) s
  (List.range 8).foldl (fun s l =>
    if dies.contains (linkPair l).1 || dies.contains (linkPair l).2 then s.modLink (.d2d l) fun x => x.disable now else s) s

/-- DIEPART of each die that a DPT names: ACTIVE, its logical number, the partition (R25); the links there close first (R27). -/
def State.writeDieparts (s : State) (part : Nat) : State :=
  let dies := ((s.part part).dpt.filter entryValid).map dptDie
  dies.zipIdx.foldl (fun s e => (s.closeLinks [e.1]).modDie e.1 fun d => { d with diepart := BitVec.ofNat 32 (2 ^ 31 + e.2 * 16 + part) }) s

/-! ### Reset of a partition (R30) -/

/-- The logical cores of a partition that the state has a record of. -/
def State.coresOf (s : State) (part : Nat) : List CoreRef := (s.cores.filter fun e => e.1.part == part).map (·.1)

/-- A store or atomic that has left is performed now; one whose home cannot be reached is discarded. -/
def State.settleCore (s : State) (c : CoreRef) : State :=
  let s := s.drainWhere c (fun _ => true) none
  let s := ((s.core c).mops.map (·.seq)).foldl (fun s n => match execStorePerformedAtHome c n false s with
    | .next s' => s'
    | _ => s) s
  s.modCore c fun k => { k with mops := [], wc := [], mmas := [], walks := [], l1 := [], tlb := [], walkc := [], deny := 0 }

/-- Dirty pooled lines are written back, and what the package homes hold is dropped; a line whose writeback cannot leave stays. -/
def State.flushPool (s : State) (x : CtxRef) : State :=
  let s := ((s.pool.filter fun e => e.1.1 == x.part).map (·.1.2)).foldl (fun s l => s.writeBack x l [0, 1]) s
  { s with pool := s.pool.map fun e : (Nat × Nat) × PoolLine =>
      if e.1.1 == x.part && !e.2.anyDirty then (e.1, { PoolLine.none with req := e.2.req, poison := e.2.poison }) else e }

/-- Whether a home of a partition keeps the record of a line. -/
def State.ownsLine (s : State) (part line : Nat) : Bool :=
  if line < 2 ^ 60 then (s.partDies part).contains (line * lineSize / hbmPerDie) else line / 2 ^ 60 == part + 1

/-- The L2 of a partition's dies drops its lines, and their scope records with them (R30, R237). -/
def State.dropScopes (s : State) (part : Nat) : State :=
  { s with lines := s.lines.map fun e : Nat × LineRec => if s.ownsLine part e.1 then (e.1, { e.2 with scope := none, held := false }) else e }

/-- Some Ladle cores of a partition start, where their image verifies again; it is written into their instruction memory (R388, R479). -/
def State.startLadles (s : State) (part : Nat) (which : Nat → Bool) : State :=
  s.modPart part fun p =>
    if s.pestle.verifies 2 then
      { p with ladles := (List.range p.ladles.length).map fun i => if which i then none else p.ladles.getD i none
               ladleMem := (List.range p.ladles.length).map fun i => if which i then s.pestle.ladleImg else p.ladleMem.getD i [] }
    else { p with ladles := [] }

/-- DIEPART with another logical number (R25). -/
def withLdie (w : Word) (n : Nat) : Word := w &&& 0xFFFFFFCF ||| BitVec.ofNat 32 (n % 4 * 16)

/-- DIEPART of the dies of a partition whose place in the DPT has changed since it was written: their links close first and open again (R25, R27,
R483). DESIGN CHOICE: log 74. -/
def State.renameDies (s : State) (part : Nat) : State :=
  let dies := (s.partDies part).zipIdx
  if dies.all fun e => bitsOf (s.die e.1).diepart.toNat 5 4 == e.2 then s
  else (dies.foldl (fun s e => (s.closeLinks [e.1]).modDie e.1 fun d => { d with diepart := withLdie d.diepart e.2 }) s).relink

/-- The Reset of R30: cores halt, windows close, traffic drains, contexts fault, caches empty, Ladle cores start again. DESIGN CHOICE: log 56. -/
def State.resetPart (s : State) (part : Nat) : State :=
  let last : CtxRef := { part := part, ctx := (s.part part).running.getD 0 }
  let s := s.modPart part fun p => { p with next := none, hwin := List.replicate 16 0 }
  let xs := (s.ctxs.filter fun e => e.1.part == part && !e.2.st.idle && e.2.st.canFault).map (·.1)
  let s := (s.coresOf part).foldl (fun s c => s.drainWhere c (fun _ => true) none) s
  let s := xs.foldl (fun s x => s.faultCtx x 0) s
  let s := (s.coresOf part).foldl State.settleCore s
  let s := (xs.foldl (fun s x => s.modCtx x fun y => { y with gen := y.gen + 1 }) s).flushPool last
  let s := s.dropScopes part
  let s := s.modPart part fun p => { p with
    queues := p.queues.map Queue.reset', running := none, drained := false
    events := (p.events.map fun e : LEvent × Option Nat => (e.1, (none : Option Nat))).eraseDups, ladles := List.replicate (3 * (s.partDies part).length) none }
  ((s.startLadles part fun _ => true).renameDies part).dropLinks part

end Sys2Proof.Machine
end

