-- ==== Sys2Proof/Machine/PestleEv.lean ====
section
/-! DEFINITION. The requests of the Pestle's mailboxes (01_package.md R20, R21, R30, R32, 21_link.md R447, 22_power.md R474, 23_trust.md R481
to R489). -/
namespace Sys2Proof.Machine
open Sys2Proof

/-! ### PLACE (R20, R21) -/

/-- An index beyond the table is answered BADSLOT. DESIGN CHOICE: log 74. DEDUCED: log 57. -/
def State.placeCpt (s : State) (part die : Nat) (vals : List (Nat × Word)) : State × Nat :=
  let t := putEntries cptEntry (s.die die).cpt vals
  s.commitIf
    [(!(s.partDies part).contains die, stNotOwner), (vals.any (fun v => 36 ≤ v.1) || cptBadSlot (vals.map (·.2)), stBadSlot),
     (dupIn cptSlot t, stDupSlot), (s.slotRetired die (vals.map (·.2)), stRetired), (!s.allSaved part, stNotSaved)]
    fun s => s.modDie die fun d => { d with cpt := t }

/-- An index beyond the table is answered BADSLOT. DESIGN CHOICE: log 74. DEDUCED: log 57. -/
def State.placePpt (s : State) (part die : Nat) (vals : List (Nat × Word)) : State × Nat :=
  let t := putEntries pptEntry (s.die die).ppt vals
  s.commitIf
    [(!(s.partDies part).contains die, stNotOwner), (vals.any (fun v => 6 ≤ v.1) || pptBadSlot (vals.map (·.2)), stBadSlot),
     (dupIn pptPort t, stDupSlot), (s.portRetired die (vals.map (·.2)), stRetired), (!s.allSaved part, stNotSaved)]
    fun s => (s.modDie die fun d => { d with ppt := t }).relink

/-- A DPT write only permutes the dies of the partition; DIEPART is left to the next Reset (R483). An index beyond the table is answered BADSLOT, and an
entry with V = 0 names no die. DESIGN CHOICE: log 74. DEDUCED: log 57. -/
def State.placeDpt (s : State) (part : Nat) (vals : List (Nat × Word)) : State × Nat :=
  let dies := s.partDies part
  let t := putEntries dptEntry (s.part part).dpt vals
  s.commitIf
    [(t.any fun e => entryValid e && !dies.contains (dptDie e), stNotOwner), (!dptShape t dies.length, stBadShape),
     (vals.any (fun v => 4 ≤ v.1), stBadSlot), (dupIn dptDie t, stDupSlot), (!s.allSaved part, stNotSaved)]
    fun s => s.modPart part fun p => { p with dpt := t }

/-- PLACE_REQUEST (R20). -/
def execPlaceRequest (mb : Mailbox) (tag : Word) (part : Nat) (tab : PlaceTable) (die : Nat) (vals : List (Nat × Word)) (s : State) :
    Out State Fault Refusal :=
  s.serve mb tag part fun s =>
    match tab with
    | .cpt => s.placeCpt part die vals
    | .dpt => s.placeDpt part vals
    | .ppt => s.placePpt part die vals

/-! ### PARTOP (R30) -/

/-- Dies joined by the links of R12. -/
def connected (dies : List Nat) : Bool :=
  match dies with
  | [] => false
  | d :: _ =>
    let grow := fun (r : List Nat) => dies.filter fun x => r.contains x || r.any fun y => adjacentDies x y
    let r := grow (grow (grow [d]))
    dies.all fun x => r.contains x

/-- The entries a request supplies for a die, and the table of n entries that they make. -/
def entriesOf (n : Nat) (l : List (Nat × List Word)) (die : Nat) : List Word := (((l.find? fun e => e.1 == die).map (·.2)).getD []).take n

/-- A request's list for a die, as a table of n entries. -/
def tableFor (f : Word → Word) (n : Nat) (l : List (Nat × List Word)) (die : Nat) : List Word :=
  let t := ((l.find? fun e => e.1 == die).map (·.2)).getD []
  (List.range n).map fun i => f (t.getD i 0)

/-- Form (R24, R30). A partition identifier in use is answered INUSE. DESIGN CHOICE: log 74. DESIGN CHOICE: log 56. -/
def State.formPart (s : State) (part : Nat) (dpt : List Word) (cpt ppt : List (Nat × List Word)) : State × Nat :=
  let t := (List.range 4).map fun i => dptEntry (dpt.getD i 0)
  let dies := (t.filter entryValid).map dptDie
  let cpts := dies.map fun d => (d, tableFor cptEntry 36 cpt d)
  let ppts := dies.map fun d => (d, tableFor pptEntry 6 ppt d)
  s.commitIf
    [((cpt ++ ppt).any fun e => !dies.contains e.1, stNotOwner), (!dptShape t dies.length || !connected dies, stBadShape),
     (dies.any fun d => cptBadSlot (entriesOf 36 cpt d) || pptBadSlot (entriesOf 6 ppt d), stBadSlot),
     (hasDup dies || cpts.any (fun e => dupIn cptSlot e.2) || ppts.any fun e => dupIn pptPort e.2, stDupSlot),
     (dies.any fun d => s.slotRetired d (entriesOf 36 cpt d) || s.portRetired d (entriesOf 6 ppt d), stRetired), (s.formed part || dies.any fun d => (s.die d).active, stInUse),
     (!s.pestle.verifies 2, stBadSig)]
    fun s =>
      let s := (s.modPart part fun p => { p with dpt := t, ladles := List.replicate (3 * dies.length) none, ladleMem := [] }).startLadles part fun _ => true
      let s := cpts.foldl (fun s e => s.modDie e.1 fun d => { d with cpt := e.2 }) s
      let s := ppts.foldl (fun s e => s.modDie e.1 fun d => { d with ppt := e.2 }) s
      (s.writeDieparts part).relink

/-- PARTOP_FORM (R30, R482): of the operator mailbox alone. DEDUCED: log 57. -/
def execPartopForm (mb : Mailbox) (tag : Word) (part : Nat) (dpt : List Word) (cpt ppt : List (Nat × List Word)) (s : State) :
    Out State Fault Refusal :=
  if !s.hostUp || decide (4 ≤ part) then .next s
  else if !Mailbox.isOperator mb then .next (s.reply mb tag stNotOwner [])
  else
    let r := s.formPart part dpt cpt ppt
    .next (r.1.reply mb tag r.2 [])

/-- PARTOP_RESET (R30). -/
def execPartopReset (mb : Mailbox) (tag : Word) (part : Nat) (s : State) : Out State Fault Refusal :=
  s.serve mb tag part fun s => (s.resetPart part, stOk)

/-- The physical addresses that a partition's Dissolve zeroises: its dies' HBM without the host region (R30, R488). -/
def zeroised (dies : List Nat) (pa : Nat) : Bool := dies.contains (pa / hbmPerDie) && !(decide (hostLo ≤ pa) && decide (pa < hostHi))

/-- A context after Discard (R413): V is cleared. -/
def Ctx.discarded (y : Ctx) : Ctx := { y with st := .empty, ctxsa := y.ctxsa &&& 0x7FFFFFFFFFFFFFFF, shadow := [] }

/-- What Dissolve does after the Reset (R30): memory, L2 and key slots are zeroised, contexts become EMPTY as by Discard, links close and ACTIVE
is cleared. Scratchpads, register files and accumulators hold nothing once no context holds the cores. DESIGN CHOICE: log 56. -/
def State.dissolvePart (s : State) (part : Nat) : State :=
  let dies := s.partDies part
  let s := { s with
    mem := s.mem.filter fun e : Nat × Byte => !zeroised dies e.1
    keyTag := s.keyTag.filter fun e : Nat × Nat => !zeroised dies (e.1 * sectorSize)
    poison := s.poison.filter fun e : Nat × Bool => !zeroised dies (e.1 * sectorSize)
    lines := s.lines.filter fun e : Nat × LineRec => !s.ownsLine part e.1
    pool := (s.pool.filter fun e : (Nat × Nat) × PoolLine => e.1.1 != part || e.2.req.isSome).map fun e : (Nat × Nat) × PoolLine =>
      if e.1.1 = part then (e.1, { PoolLine.none with req := e.2.req }) else e
    ctxs := s.ctxs.map fun e : CtxRef × Ctx => if e.1.part = part then (e.1, e.2.discarded) else e
    kernels := s.kernels.filter fun e : KRef × Kernel => e.1.part != part
    vtMeta := s.vtMeta.filter fun e => e.1.1.part % 4 != part
    copyMeta := s.copyMeta.filter fun e : (CCRef × Nat) × List Copy × Nat => e.1.1.part % 4 != part
    matMeta := s.matMeta.filter fun e : CCRef × MatKept => e.1.part % 4 != part
    swapMeta := s.swapMeta.filter fun e : GRef × (List (Nat × Nat) × List Nat) => e.1.part % 4 != part }
  let s := dies.foldl (fun s d => s.modDie d fun x => { x with diepart := x.diepart &&& 0x7FFFFFFF }) (s.closeLinks dies)
  (s.modPart part fun p => { p with keys := List.replicate 64 none, keylive := 0, keyDrain := [] }).relink

/-- PARTOP_DISSOLVE (R30). -/
def execPartopDissolve (mb : Mailbox) (tag : Word) (part : Nat) (s : State) : Out State Fault Refusal :=
  s.serve mb tag part fun s =>
    s.commitIf [(!(s.ctxsAre part fun c => c.idle || c == .faulted), stNotSaved)] fun s => (s.resetPart part).dissolvePart part

/-- PARTOP_CORE_REMAP (R30, R32): the old slot of the entry is retired; an entry with V = 0 has none. DESIGN CHOICE: log 74. -/
def execPartopCoreRemap (mb : Mailbox) (tag : Word) (part core : Nat) (val : Word) (s : State) : Out State Fault Refusal :=
  s.serve mb tag part fun s =>
    let die := s.physDie part core
    let old := (s.die die).cpt.getD (core % 36) 0
    if (s.partDies part).length ≤ coreDie core then (s, stNotOwner)
    else
      let r := s.placeCpt part die [(core % 36, val)]
      (if r.2 = stOk ∧ entryValid old = true then
        r.1.modPestle fun p => { p with retired := p.retired ++ [(die, cptSlot old)] }
      else r.1, r.2)

/-- PARTOP_LANE_DEGRADE (R30): LANES of the PPT entry are reduced and its port trains again. A port of 6 or more, an entry with V = 0 and lanes
that are no reduction are answered BADSLOT. DESIGN CHOICE: log 74. -/
def execPartopLaneDegrade (mb : Mailbox) (tag : Word) (part die port : Nat) (lanes : BitVec 4) (s : State) : Out State Fault Refusal :=
  s.serve mb tag part fun s =>
    let e := (s.die die).ppt.getD port 0
    let old := BitVec.ofNat 4 (ppLanes e)
    s.commitIf
      [(!(s.partDies part).contains die, stNotOwner),
       (decide (6 ≤ port) || !entryValid e || !lanesOk lanes.toNat || lanes &&& ~~~old != 0 || lanes == old, stBadSlot), (!s.allSaved part, stNotSaved)]
      fun s =>
        (s.modDie die fun d => { d with ppt := modNth d.ppt port fun e => e &&& 0xFFFFFF0F ||| BitVec.ofNat 32 (lanes.toNat * 16) }).modLink
          (.port die (pptPort e)) fun l => if l.st = .down then l else l.train s.time.gtime

/-! ### Key slots (R486, R487) -/

def State.slotKey (s : State) (part : Nat) (slot : BitVec 6) : Option (BitVec 512) := (s.part part).keys.getD slot.toNat none

def slotBit (slot : BitVec 6) : DWord := BitVec.ofNat 64 (2 ^ slot.toNat)

def State.fillSlot (s : State) (part : Nat) (slot : BitVec 6) (k : BitVec 512) : State :=
  s.modPart part fun p => { p with keys := modNth p.keys slot.toNat fun _ => some k, keylive := p.keylive ||| slotBit slot }

/-- KGEN (R486). -/
def execKgen (mb : Mailbox) (tag : Word) (part : Nat) (slot : BitVec 6) (s : State) : Out State Fault Refusal :=
  s.serve mb tag part fun s =>
    s.commitIf [((s.slotKey part slot).isSome, stInUse)] fun s =>
      (s.fillSlot part slot (Config.drbgKey s.pestle.drbg)).modPestle fun p => { p with drbg := p.drbg + 1 }

/-- An access under a slot that has passed its probe and has not been performed. DEDUCED: log 20. -/
def State.slotBusyKey (s : State) (part : Nat) (slot : BitVec 6) : Bool :=
  let under := fun l : Place => match l with
    | .mem _ k _ _ => k == slot.toNat
    | .scr .. => false
  (s.cores.any fun e => e.1.part == part && (e.2.mops.any (fun m => under m.loc) || e.2.wc.any fun w => under w.loc))
    || s.threads.any fun e => e.1.part == part && (match e.2.ph with | .fence _ _ _ (.send l) => under l | _ => false)

/-- The end of KREVOKE: the L1 lines of the slot are dropped, the slot is zeroised, the request answered; a later request for the slot finds it empty.
DEDUCED: log 20. -/
def State.endRevoke (s : State) (part : Nat) (slot : BitVec 6) (mb : Mailbox) (tag : Word) : State :=
  let s := { s with cores := s.cores.map fun e : CoreRef × Core =>
    if e.1.part = part then (e.1, { e.2 with l1 := e.2.l1.filter fun l => l.key != slot.toNat }) else e }
  let later := ((s.part part).keyDrain.filter fun e => e.1 == slot.toNat).drop 1
  let s := (s.modPart part fun p => { p with
    keys := modNth p.keys slot.toNat fun _ => none, keyDrain := p.keyDrain.filter fun e => e.1 != slot.toNat }).reply mb tag stOk []
  later.foldl (fun s e => s.reply e.2.1 e.2.2 stNoKey []) s

/-- The lines of a partition that an L2 holds under a slot (R485). DEDUCED: log 20. -/
def State.slotLines (s : State) (part slot : Nat) : List Nat :=
  (s.lines.filter fun e => e.2.held && e.2.key == slot && s.ownsLine part e.1).map (·.1)

/-- Steps 2 to 4 of KREVOKE, as far as they can go now: once every access that had passed its probe has been performed, dirty lines of the slot are
written back, and once these have been answered the lines are dropped and the slot is zeroised (R487). DEDUCED: log 20. -/
def State.revokeStep (s : State) (part : Nat) (slot : BitVec 6) (mb : Mailbox) (tag : Word) : State :=
  if s.slotBusyKey part slot then s
  else
    let ls := s.slotLines part slot.toNat
    let s := (ls.filter fun l => decide (2 ^ 60 ≤ l)).foldl (fun s l => s.writeBack (s.lastCtx part) (l % 2 ^ 60) [0, 1]) s
    if ls.any s.l2Stuck then s else (ls.foldl State.l2Drop s).endRevoke part slot mb tag

/-- Every context whose IKEY is a slot takes Revoke (R413, R414). -/
def State.revokeCtxs (s : State) (part : Nat) (slot : BitVec 6) : State :=
  let xs := (s.ctxs.filter fun e => e.1.part == part && e.2.ikey == slot.toNat && e.2.st.canFault).map (·.1)
  xs.foldl (fun s x => (s.endCtx x .revoked).modCtx x fun y => { y with keymask := 0 }) s

/-- KREVOKE (R487): the slot's KEYLIVE bit is cleared at one instant; the row's later steps follow once the accesses that had passed their
probe have been performed, at a further step of the row for the same request where some are still under way. Another request for the slot
waits its turn (R30; DEDUCED, log 20). -/
def execKrevoke (mb : Mailbox) (tag : Word) (part : Nat) (slot : BitVec 6) (s : State) : Out State Fault Refusal :=
  match (s.part part).keyDrain.find? fun e => e.1 == slot.toNat with
  | some e =>
    if e.2 = (mb, tag) then (if s.inReset then .next s else .next (s.revokeStep part slot mb tag))
    else if !s.hostUp then .next s
    else if !Mailbox.mayName mb part || !s.formed part then .next (s.reply mb tag stNotOwner [])
    else .next (s.modPart part fun p =>
      { p with keyDrain := if p.keyDrain.contains (slot.toNat, mb, tag) then p.keyDrain else p.keyDrain ++ [(slot.toNat, mb, tag)] })
  | none =>
    if !s.hostUp then .next s
    else if !Mailbox.mayName mb part || !s.formed part then .next (s.reply mb tag stNotOwner [])
    else if (s.slotKey part slot).isNone then .next (s.reply mb tag stNoKey [])
    else
      let s := s.modPart part fun p => { p with keylive := p.keylive &&& ~~~slotBit slot, keyDrain := p.keyDrain ++ [(slot.toNat, mb, tag)] }
      .next ((s.revokeCtxs part slot).revokeStep part slot mb tag)

/-- A key pair wrapped under the pod transport key: AES-256 key wrap (R486). DESIGN CHOICE: log 9. -/
def wrapKey (k : BitVec 512) : List Byte := (keyWrap (numBytes Config.transportKey.toNat 32) 8 (numBytes k.toNat 64)).map (BitVec.ofNat 8)

/-- The unwrap of 72 bytes; `none` where the integrity check fails (R486). -/
def unwrapKey (w : BitVec 576) : Option (BitVec 512) :=
  (keyUnwrap (numBytes Config.transportKey.toNat 32) 8 (numBytes w.toNat 72)).map fun b => BitVec.ofNat 512 (leNat (b.map (BitVec.ofNat 8)))

/-- KEXPORT (R486). -/
def execKexport (mb : Mailbox) (tag : Word) (part : Nat) (slot : BitVec 6) (s : State) : Out State Fault Refusal :=
  if !s.hostUp then .next s
  else if !Mailbox.mayName mb part || !s.formed part then .next (s.reply mb tag stNotOwner [])
  else match s.slotKey part slot with
    | some k => .next (s.reply mb tag stOk (wrapKey k))
    | none => .next (s.reply mb tag stNoKey [])

/-- KIMPORT (R486). DESIGN CHOICE: log 74. -/
def execKimport (mb : Mailbox) (tag : Word) (part : Nat) (slot : BitVec 6) (wrapped : BitVec 576) (s : State) : Out State Fault Refusal :=
  s.serve mb tag part fun s =>
    if (s.slotKey part slot).isSome then (s, stInUse)
    else match unwrapKey wrapped with
      | some k => (s.fillSlot part slot k, stOk)
      | none => (s, stBadSig)

/-! ### Contexts (R413, R433, R482) -/

/-- KMASK (R482). -/
def execKmask (mb : Mailbox) (tag : Word) (part ctx : Nat) (mask : DWord) (s : State) : Out State Fault Refusal :=
  s.serve mb tag part fun s =>
    let x : CtxRef := { part := part, ctx := ctx }
    s.commitIf [(!s.ctxExists x, stNotOwner)] fun s => s.modCtx x fun y => { y with keymask := mask }

/-- Whether a save area, whose header says how many bytes are in use, lies in the local HBM of a die of the partition, clear of the host region
(R415, R416, R433). DEDUCED: log 57. -/
def State.areaLocal (s : State) (part pa used : Nat) : Bool := s.localRange part pa (max 0x6000 used)

/-- CTXSET_INSTALL (R411, R413, R416, R433): a new context, or the header of a SAVED one read again. DEDUCED: log 57. DESIGN CHOICE: log 74. -/
def execCtxsetInstall (mb : Mailbox) (tag : Word) (part ctx : Nat) (ctxsa : DWord) (s : State) : Out State Fault Refusal :=
  s.serve mb tag part fun s =>
    let x : CtxRef := { part := part, ctx := ctx }
    let sa := ctxsa &&& 0x7F0FFFFFFFFF0000 ||| 0x8000000000000000
    let y := s.ctx x
    let s' := if y.st = .empty then s.setCtx x { Ctx.reset with ctxsa := sa, st := .saved, keymask := y.keymask } else s
    let r := s'.saRead x 0 256
    let count := (s.ctxs.filter fun e => e.1.part == part && e.1 != x && e.2.ctxsa.getLsbD 63).length
    s.commitIf
      [(!s.areaLocal part (bitsOf sa.toNat 51 16 * 0x10000) (bitsOf (leNat r.2) 639 576), stNotOwner), (!y.st.idle, stNotSaved),
       (y.st == .saved && bitsOf sa.toNat 51 16 != bitsOf y.ctxsa.toNat 51 16, stNotSaved), (!s'.imageOk x, stBadSlot),
       (y.st == .empty && decide (256 ≤ count), stInUse)]
      fun _ =>
        let s := if y.st = .empty then r.1.rekey (areaOwner part (bitsOf sa.toNat 51 16 * 0x10000)) x else r.1
        s.modCtx x fun y => y.ofHeader (leNat r.2)

/-- CTXSET_DISCARD (R413): V is cleared; what is kept beside the image stays with its save area. DEDUCED: log 57. DESIGN CHOICE: log 19. -/
def execCtxsetDiscard (mb : Mailbox) (tag : Word) (part ctx : Nat) (s : State) : Out State Fault Refusal :=
  s.serve mb tag part fun s =>
    let x : CtxRef := { part := part, ctx := ctx }
    let st := (s.ctx x).st
    s.commitIf [(!(st.idle || st == .revoked || st == .faulted), stNotSaved)] fun s =>
      let base := (s.ctx x).saBase
      let s := (if st = .empty then s else s.rekey x (areaOwner part base)).modCtx x Ctx.discarded
      { s.resetQueues x with kernels := s.kernels.filter fun e : KRef × Kernel => !(e.1.part == part && e.1.ctx == ctx) }

/-! ### ATTEST (R480, R481) -/

/-- What MCONF covers of one partition. DEDUCED: log 57. -/
def State.confBytes (s : State) (part : Nat) : List Byte :=
  let ws := fun l : List Word => l.flatMap fun w => leBytes w.toNat 4
  let ds := fun l : List DWord => l.flatMap fun w => leBytes w.toNat 8
  let dies := s.partDies part
  let p := s.part part
  ws (dies.map fun d => (s.die d).diepart) ++ ws p.dpt ++ dies.flatMap (fun d => ws (s.die d).cpt) ++ dies.flatMap (fun d => ws (s.die d).ppt)
    ++ ds p.poolwin ++ ds p.hwin

/-- FWLINK (R26). -/
def Link.fwlink (l : Link) : Nat := l.fwDrops % 2 ^ 16 * 2 ^ 8 + (if l.fwOpen then 1 else 0)

def State.packageBytes (s : State) : List Byte :=
  ((List.range 4).filter s.formed).flatMap s.confBytes ++ (s.links.take 4).flatMap fun l => leBytes l.fwlink 4

def State.report (s : State) (nonce : Nat) (whole : Bool) (part : Nat) : List Byte :=
  let conf := if whole then s.packageBytes else s.confBytes part
  leBytes (nonce * 2 ^ 1280 + sha256 s.pestle.ladleImg * 2 ^ 1024 + sha256 (Config.image 0) * 2 ^ 768 + sha256 conf * 2 ^ 512
    + s.time.gtime.toNat * 2 ^ 448 + s.pestle.sigcnt % 2 ^ 32 * 2 ^ 416 + s.pestle.pkg.toNat * 2 ^ 398
    + (if whole then 2 ^ 386 else part % 4 * 2 ^ 384) + (s.pestle.svnImg.getD 0 0).toNat * 2 ^ 352 + 1) 192

/-- ATTEST (R480, R481): the counter advances before the signature that uses its old value is released. -/
def execAttest (mb : Mailbox) (tag : Word) (part : Nat) (nonce : BitVec 256) (s : State) : Out State Fault Refusal :=
  let whole := Mailbox.isOperator mb
  if !s.hostUp then .next s
  else if !whole && (!Mailbox.mayName mb part || !s.formed part) then .next (s.reply mb tag stNotOwner [])
  else if 1048576 ≤ s.pestle.sigcnt then .next (s.reply mb tag stExhausted [])
  else
    let body := s.report nonce.toNat whole part
    let all := body ++ leBytes (Config.hssSign s.pestle.sigcnt body).toNat 5076
    let s := s.modPestle fun p => { p with sigcnt := p.sigcnt + 1, report := if whole then some all else p.report }
    .next (s.reply mb tag stOk all)

/-! ### Windows and configuration (R447, R474, R484, R489) -/

def hwBase (v : DWord) : Nat := bitsOf v.toNat 51 16 * 0x10000
def hwSize (v : DWord) : Nat := 0x10000 * 2 ^ bitsOf v.toNat 55 52

/-- Whether a window lies inside the partition's dies, clear of the host region. -/
def State.windowInside (s : State) (part base size : Nat) : Bool :=
  (List.range ((base + size - 1) / hbmPerDie + 1 - base / hbmPerDie)).all (fun i => (s.partDies part).contains (base / hbmPerDie + i))
    && !(base < hostHi && hostLo < base + size)

/-- HWIN_REQUEST (R489): HWSTAT's count is cleared at each. -/
def execHwinRequest (mb : Mailbox) (tag : Word) (part : Nat) (idx : BitVec 4) (val : DWord) (s : State) : Out State Fault Refusal :=
  let v := val &&& 0xFFFFFFFFFFFF0000
  let r := s.serve mb tag part fun s =>
    s.commitIf
      [(!s.windowInside part (hwBase v) (hwSize v), stNotOwner), (hwBase v % hwSize v != 0, stBadSlot)]
      fun s => s.modPart part fun p => { p with hwin := modNth p.hwin idx.toNat fun _ => v }
  if s.hostUp && Mailbox.mayName mb part then
    match r with
    | .next s => .next (s.modPart part fun p => { p with hwDrops := 0 })
    | r => r
  else r

def pwBase (v : DWord) : Nat := bitsOf v.toNat 21 0
def pwCount (v : DWord) : Nat := bitsOf v.toNat 39 22

/-- POOLWIN_REQUEST (R447), once a pool node has admitted the partition: valid windows never overlap. DEDUCED: log 57. -/
def execPoolwinRequest (mb : Mailbox) (tag : Word) (part : Nat) (idx : BitVec 4) (val : DWord) (s : State) : Out State Fault Refusal :=
  s.serve mb tag part fun s =>
    let v := val &&& 0xE3FFFFFFFFFFFFFF
    let live := v.getLsbD 63
    s.commitIf
      [(live && (bitsOf v.toNat 62 61 == 3 || pwCount v == 0), stBadSlot),
       (live && (s.part part).poolwin.zipIdx.any fun e => e.2 != idx.toNat && e.1.getLsbD 63
          && decide (pwBase e.1 < pwBase v + pwCount v) && decide (pwBase v < pwBase e.1 + pwCount e.1), stDupSlot)]
      fun s => s.modPart part fun p => { p with poolwin := modNth p.poolwin idx.toNat fun _ => v }

/-- LIDADDR_REQUEST (R474): the marker's address lies in a valid window. DEDUCED: log 57. -/
def execLidaddrRequest (mb : Mailbox) (tag : Word) (part : Nat) (val : DWord) (s : State) : Out State Fault Refusal :=
  s.serve mb tag part fun s =>
    let v := val &&& 0x800FFFFFFFFFFF80
    s.commitIf [(v.getLsbD 63 && (s.poolWinOf part (v.toNat % 2 ^ 52)).isNone, stBadSlot)]
      fun s => s.modPart part fun p => { p with lidaddr := v }

/-- CONFIG_MEMCFG (R226, R484). DEDUCED: log 57. DESIGN CHOICE: log 74. -/
def execConfigMemcfg (mb : Mailbox) (tag : Word) (part : Nat) (idx : BitVec 8) (val : DWord) (s : State) : Out State Fault Refusal :=
  s.serve mb tag part fun s =>
    s.commitIf [(idx != 0 || val &&& 0xFFFFFFFFFF0000F8 != 0, stBadSlot), (!s.allSaved part, stNotSaved)]
      fun s => s.modPart part fun p => { p with memcfg := val.setWidth 32 }

/-- A CONFIG selector of the operator mailbox (R482, R484). -/
def State.serveOperator (s : State) (mb : Mailbox) (tag : Word) (checks : List (Bool × Nat)) (f : State → State) : Out State Fault Refusal :=
  if !s.hostUp then .next s
  else if !Mailbox.isOperator mb then .next (s.reply mb tag stNotOwner [])
  else
    let r := s.commitIf checks f
    .next (r.1.reply mb tag r.2 [])

/-- CONFIG_GTEPOCH (R33, R484). DESIGN CHOICE: log 74. -/
def execConfigGtepoch (mb : Mailbox) (tag : Word) (_part : Nat) (idx : BitVec 8) (val : DWord) (s : State) : Out State Fault Refusal :=
  s.serveOperator mb tag [(idx != 0, stBadSlot), (s.time.everAct, stInUse)] fun s => s.modTime fun t => { t with epoch := val }

/-- CONFIG_PTP_DOMAIN (R36, R484). DESIGN CHOICE: log 74. -/
def execConfigPtpDomain (mb : Mailbox) (tag : Word) (_part : Nat) (idx : BitVec 8) (val : DWord) (s : State) : Out State Fault Refusal :=
  s.serveOperator mb tag [(idx != 0 || decide (127 < val.toNat), stBadSlot)] fun s => s.modTime fun t => t.newDomain val.toNat

/-- CONFIG_ASYMMETRY (R37, R484). -/
def execConfigAsymmetry (mb : Mailbox) (tag : Word) (_part : Nat) (idx : BitVec 8) (val : DWord) (s : State) : Out State Fault Refusal :=
  s.serveOperator mb tag [(decide (23 < idx.toNat) || decide (65535 < val.toNat), stBadSlot)]
    fun s => s.modTime fun t => { t with asym := modNth t.asym idx.toNat fun _ => val.setWidth 16 }

/-- A request that R482 answers BADOP: OP not listed, a reserved bit set, or a CONFIG selector not listed (R484). -/
def requestBad (r : Nat) : Bool :=
  let op := bitsOf r 7 0
  op == 0 || decide (13 < op) || bitsOf r 31 10 != 0
    || (op == 13 && (bitsOf r 71 64 == 0 || decide (4 < bitsOf r 71 64) || bitsOf r 127 80 != 0))

/-- MAILBOX_BAD_REQUEST (R482). -/
def execMailboxBadRequest (mb : Mailbox) (req : BitVec 512) (s : State) : Out State Fault Refusal :=
  if !s.hostUp || !requestBad req.toNat then .next s
  else .next (s.reply mb (BitVec.ofNat 32 (bitsOf req.toNat 63 32)) stBadOp [])

end Sys2Proof.Machine
end

