-- ==== Sys2Proof/Machine/PageEv.lean ====
section
/-! DEFINITION. The replay of parked instructions and the service of faults (12_page.md R286 to R288, 18_traps.md R399, R496). A replay that
would have to wait stays in the log, released, and its thread stays PARKED (log 18). -/
namespace Sys2Proof.Machine
open Sys2Proof

/-! ### Replay (R288) -/

/-- The request an entry's instruction makes again, with its logged address and data. -/
def OEntry.req (o : OEntry) (core : Nat) (x : Thread) : Option Req :=
  (reqOf core x o.instr).map fun r => { r with ea := o.ea, data := o.data }

/-- Whether an older entry of the thread lies in the same line. -/
def State.olderEntry (s : State) (t : TRef) (g : Group) (e : Nat) (va : Nat) : Bool :=
  ((s.parkedEntries t).takeWhile fun p => p.1 != e).any fun p => vaOf g t.rank p.2.ea / lineSize == va / lineSize

/-- An entry whose replay is under way at its home. -/
def State.replaySent (s : State) (t : TRef) (e : Nat) : Bool :=
  (s.core t.coreRef).mops.any fun m => m.thr == t && m.entry == some e

/-- The writebacks of some pooled lines are for a thread: those to come and those under way raise its WCTMAX (R232). -/
def State.writeFor (s : State) (t : TRef) (wbs : List (Nat × Bool)) : State :=
  let s := { s with freqs := s.freqs.map fun f => if f.part = t.part ∧ f.op = opWR ∧ wbs.contains (f.line, true) = true ∧ f.thrs.contains t = false then
    { f with thrs := f.thrs ++ [t] } else f }
  (wbs.filter fun w => !w.2).foldl (fun s w =>
    (s.modPool t.part w.1 fun p => { p with want := some (if (p.want.getD []).contains t then p.want.getD [] else p.want.getD [] ++ [t]) }).writeBack
      t.ctxRef w.1 [0, 1]) s

/-- The fence of a release or a LAUNCH that replays: what it drains leaves now; whether it is over (R232, R234). DEDUCED: log 18. -/
def State.replayFence (s : State) (t : TRef) (sc : Scope) : State × Bool :=
  let s := (s.modCore t.coreRef fun k => k.cover t).drainWhere t.coreRef (fun _ => true) (some t)
  let wbs := if sc = .pod then s.podLines t.part else s.wbOf t
  let s := s.writeFor t wbs
  match s.thread? t with
  | some x => (s, s.fenceHolds t x (some sc) ((s.core t.coreRef).pendingOf t) wbs)
  | none => (s, false)

/-- A WAITADDR that replays: it arms, and retires when its line has been written or its deadline has come (R265, R266). DEDUCED: log 18. -/
def State.replayWait (s : State) (t : TRef) (x : Thread) (e : Nat) (o : OEntry) (r : Req) (loc : Place) (va : Nat) : State :=
  let line := loc.lineNo t.part
  let now := s.ctxVtime t.ctxRef (s.coreTime t.coreRef)
  match o.arm with
  | some (n, dl) =>
    if s.waitOver line n = true ∨ (dl.any fun d => decide (d.toNat ≤ now.toNat)) = true then s.doneNow t x o.instr (some e) {} id else s
  | none =>
    if (s.core t.coreRef).budgetHeld then s
    else if r.data.head? = some 0 then s.doneNow t x o.instr (some e) {} id
    else
      let n := (s.armedAt x line va).2
      let dl := r.data.head?.map fun d => s.deadlineOf t d.toNat
      s.modHolding t.ccRef fun y => { y with olog := y.olog.set e { o with arm := some (n, dl) } }

/-- A SIGWAIT or a GSWAP that replays is taken from the start (R365, R366): a SIGWAIT whose condition does not hold waits, in its entry, for a write that
meets it; a GSWAP arrives, or traps MISMATCH, at itself, once it is the thread's one unfinished instruction. DEDUCED: log 18. -/
def State.replaySignal (s : State) (t : TRef) (x : Thread) (g : Group) (e : Nat) (o : OEntry) (r : Req) (loc : Place) (va : Nat) : State :=
  let b := r.data.headD 0
  let p : (State × SigRead) × Bool := match s.sigs.find? fun w => w.thr == t with
    | some w => (s.sigOutcome w, true)
    | none => (s.sigRead t loc, false)
  let q := p.1
  match q.2 with
  | .wait => q.1
  | .refused => (q.1.unwatch (· == t)).abandon t e o .scope
  | .bad => (q.1.unwatch (· == t)).abandon t e o .mcheck
  | .val v wct =>
    let w : SigWatch := { thr := t, va := va, loc := some loc, cmp := sigCmp o.instr, b := b, due := false, hit := none }
    if p.2 || sigHolds w.cmp v b then (q.1.unwatch (· == t)).doneNow t x o.instr (some e) {} fun y => y.raise wct
    else match o.instr with
      | .gswap .. =>
        if (s.parkedEntries t).length ≠ 1 ∨ s.unretired t = true then s
        else
          let l : SwapLatch := { ea := r.ea, cmp := sigCmp o.instr, b := b }
          let y := { x with pc := x.pc - 12, st := x.back }
          if (q.1.swapLatch t g).any fun l' => l' ≠ l then ((q.1.freeEntry t e).setThread t y).takeTrap t .mismatch (pcWord y.pc) 0 0
          else (((q.1.freeEntry t e).setLatch t.group (some l)).watchSig w).await t y o.instr (.swapArr l.ea l.cmp l.b) none
      | _ => q.1.watchSig w

/-- A copy instruction that replays enqueues once there is room (R299). DEDUCED: log 18. -/
def State.replayCopy (s : State) (t : TRef) (x : Thread) (e : Nat) (o : OEntry) (loc : Place) (ch : Nat) : State :=
  if !(s.chan t.ccRef ch).room then s
  else if s.homeBad t.part loc 64 then s.abandon t e o .mcheck
  else if !s.homeReady t.part loc 64 then s.askPool t.ctxRef loc 64
  else
    let q := s.readDesc t loc (o.instr.chAt o.ea)
    let s := (q.1.acceptCopy t.ccRef ch (q.1.newCopy t (copyKindOf o.instr) o.instr.hints q.2)).doneNow t x o.instr (some e) {} id
    if (s.chan t.ccRef ch).st == .error then s.wakeChan t.ccRef ch else s

/-- A LAUNCH that replays enters the queue once its fence is over and there is room (R362). DEDUCED: log 18. -/
def State.replayLaunch (s : State) (t : TRef) (x : Thread) (e : Nat) (o : OEntry) (va : Nat) : State :=
  let q := s.replayFence t .pkg
  if !q.2 || decide (4 ≤ (s.holding t.ccRef).plq.length) then q.1
  else
    let s := q.1
    let head := (s.holding t.ccRef).plq.isEmpty
    let s := s.modHolding t.ccRef fun y =>
      { y with plq := y.plq ++ [BitVec.ofNat 64 va], plqAt := if head then s.coreTime t.coreRef else y.plqAt }
    (if head then s.ladleEvent t.part (.launch t.core) else s).doneNow t x o.instr (some e) {} id

/-- An entry that has passed its probe is performed. DEDUCED: log 18. -/
def State.replayAt (s : State) (t : TRef) (x : Thread) (g : Group) (e : Nat) (o : OEntry) (r : Req) (loc : Place) (va : Nat) : State :=
  match o.instr with
  | .waitaddr .. => s.replayWait t x e o r loc va
  | .sigwait .. | .gswap .. => s.replaySignal t x g e o r loc va
  | .tcopy _ ch _ | .tstore _ ch _ | .tcopys _ ch _ => s.replayCopy t x e o loc ch.toNat
  | .launch .. => s.replayLaunch t x e o va
  | i =>
    if s.loadPending t loc then s
    else if i.podOrdered && !s.podOk then s.abandon t e o .timelost
    else
      match i.relScope with
      | some sc =>
        let q := s.replayFence t sc
        if q.2 then
          match q.1.thread? t with
          | some y => q.1.perform t y i (some e) r loc va
          | none => q.1
        else q.1
      | none =>
        let wbs := if i.acqScope = some .pod then s.podLines t.part else []
        if wbs.isEmpty then s.perform t x i (some e) r loc va else s.writeFor t wbs

/-- A released entry whose checks fail waits for service again (R288). -/
def State.repark (s : State) (t : TRef) (x : Thread) (e : Nat) (o : OEntry) (r : Req) (va : Nat) (m : Miss) : State :=
  ((s.unwatch (· == t)).modHolding t.ccRef fun y => { y with olog := y.olog.set e { o with stat := .waiting, ccls := m.cause, sub := m.sub } }).faultEvent
    t.ctxRef t.core x.htid va e false r.acc.kind m

/-- PARKED_REPLAY (R288). -/
def execParkedReplay (c : CoreRef) (entry : Nat) (s : State) : Out State Fault Refusal :=
  let cc := s.heldBy c
  match (s.holding cc).olog.get? entry with
  | none => .next s
  | some o =>
    let t := (cc.group o.grp).thread o.rank
    match s.thread? t, s.group? t.group with
    | some x, some g =>
      let va := vaOf g t.rank o.ea
      if o.stat != .released || !s.ctxRuns cc.ctxRef || s.replaySent t entry || s.olderEntry t g entry va
          || s.walkCut cc.ctxRef c.core va then .next s
      else
        match o.req c.core x with
        | none => .next s
        | some r =>
          let q := s.translate cc.ctxRef c.core va r.acc
          match q.2 with
          | .error m => .next (q.1.repark t x entry o r va m)
          | .ok loc => .next (q.1.replayAt t x g entry o r loc va)
    | _, _ => .next s

/-! ### FLTACK (R286, R287) -/

/-- The entries a write acts on: ENTRY where it awaits service, and with ALL every such entry in its granule. -/
def State.ackEntries (s : State) (c : CCRef) (all : Bool) (entry : Nat) : List (Nat × OEntry) :=
  match (s.holding c).olog.get? entry with
  | none => []
  | some o =>
    if o.stat != .waiting then []
    else if all then (s.holding c).olog.filter fun e => e.2.stat == .waiting && e.2.ea.toNat / granuleSize == o.ea.toNat / granuleSize
    else [(entry, o)]

/-- The keys that a write re-arms: those of the entries it names, and those with no log entry, of whatever context (R286). -/
def State.rearm (s : State) (c : CCRef) (es : List (Nat × OEntry)) : State :=
  let names := es.map fun e =>
    ((match s.group? (c.group e.2.grp) with | some g => vaOf g e.2.rank e.2.ea | none => 0) / granuleSize, e.2.ccls, e.2.sub)
  s.modCore c.coreRef fun k => { k with evKeys := k.evKeys.filter fun v =>
    !(v.2.2.2.2 || (v.1 == c.ctx && names.contains (v.2.1, v.2.2.1, v.2.2.2.1))) }

/-- Fetch-parked threads fetch again, CALL-target parks check again, parked channels retry (R82, R140, R308). -/
def State.retryParks (s : State) (c : CCRef) : State :=
  let s := (s.threads.filter fun e => e.1.ccRef == c && e.2.fpark.isSome).foldl (fun s e =>
    s.setThread e.1 { e.2 with fpark := none, st := if (s.parkedEntries e.1).isEmpty then e.2.back else .parked }) s
  (List.range 8).foldl (fun s ch => s.chanRetry c ch) s

/-- A write of FLTACK: its keys are re-armed, whatever context the core holds; it acts on its entries, and the parks without an entry try again. DEDUCED: log 53. -/
def fltack (c : CoreRef) (all : Bool) (entry : Nat) (act : State → CCRef → Nat × OEntry → State) (s : State) :
    Out State Fault Refusal :=
  let cc := s.heldBy c
  if (s.part c.part).running != some cc.ctx then .next (s.rearm cc [])
  else
    let es := s.ackEntries cc all entry
    .next ((es.foldl (fun s e => act s cc e) (s.rearm cc es)).retryParks cc)

/-- FLTACK_REPLAY: ACT 00 (R287). DEDUCED: log 53. -/
def execFltackReplay (c : CoreRef) (all : Bool) (entry : Nat) (s : State) : Out State Fault Refusal :=
  fltack c all entry (fun s cc e => s.modHolding cc fun y => { y with olog := y.olog.set e.1 { e.2 with stat := .released } }) s

/-- FLTACK_DELIVER: ACT 01 (R287, R399). DEDUCED: log 53. -/
def execFltackDeliver (c : CoreRef) (all : Bool) (entry : Nat) (s : State) : Out State Fault Refusal :=
  fltack c all entry (fun s cc e => s.abandon ((cc.group e.2.grp).thread e.2.rank) e.1 e.2 e.2.ccls) s

/-- FLTACK_FAULT: ACT 10 (R287, R413). DEDUCED: log 53. -/
def execFltackFault (c : CoreRef) (all : Bool) (entry : Nat) (s : State) : Out State Fault Refusal :=
  fltack c all entry (fun s cc e => s.faultCtx cc.ctxRef e.2.ccls.code.toNat) s

/-- FLTACK_IGNORED: ACT 11 acts on no entry (R286, R287). -/
def execFltackIgnored (c : CoreRef) (all : Bool) (entry : Nat) (s : State) : Out State Fault Refusal :=
  fltack c all entry (fun s _ _ => s) s

end Sys2Proof.Machine
end

