-- ==== Sys2Proof/Machine/Trace.lean ====
section
/-! DEFINITION. Recording for re-run (17_queue.md R390 to R392). -/
namespace Sys2Proof.Machine
open Sys2Proof

/-- A trace entry (R391). -/
def traceBits (kind gtime val1 val2 hash : Nat) : Nat :=
  hash % 2 ^ 256 * 2 ^ 256 + val2 % 2 ^ 64 * 2 ^ 192 + val1 % 2 ^ 64 * 2 ^ 128 + gtime % 2 ^ 64 * 2 ^ 64 + kind

/-- Write a trace entry at its place in the buffer, an address in a context; recording stops when the buffer is full, with EN as
it stands (R390 to R392). DEDUCED: log 67. -/
def State.trace (s : State) (x : CtxRef) (kind val1 val2 hash : Nat) : State :=
  let p := s.part x.part
  if !p.traceEn || decide (2 ^ p.tlog ≤ p.tcount) then s
  else
    let va := p.tbase.toNat + 64 * p.tcount
    let s := (s.frontWrite x va (leBytes (traceBits kind s.time.gtime.toNat val1 val2 hash) 64) false).1
    s.modPart x.part fun q =>
      let n := q.tcount + 1
      { q with tcount := n, traceOvf := q.traceOvf || decide (2 ^ q.tlog ≤ n) }

end Sys2Proof.Machine
end

