-- ==== Sys2Proof/Machine/Packet.lean ====
section
/-! DEFINITION. Queues and their packets: the slots, the refusals, what each type does and when it holds (17_queue.md R370 to R384, R501,
12_page.md R290). -/
namespace Sys2Proof.Machine
open Sys2Proof

/-! ### Slots (R370, R374) -/

def QRef.ctxRef (q : QRef) (y : Queue) : CtxRef := { part := q.part, ctx := y.qctx }

/-- The address of slot n. -/
def Queue.slotVa (y : Queue) (n : Nat) : Nat := y.qbase.toNat + 64 * (n % 2 ^ y.qlog)

/-- Slots between HEAD and TAIL. -/
def Queue.avail (y : Queue) : Nat := (y.tail + 2 ^ 32 - y.head) % 2 ^ 32

def State.readSlot (s : State) (q : QRef) (y : Queue) (n : Nat) : State × Except FrontStop (List Byte) :=
  s.frontRead (QRef.ctxRef q y) 64 .read (y.slotVa n) 1

/-- Slots of the packet whose first slot this is. -/
def slotsOf (b : List Byte) : Nat := (b.getD 1 0).toNat % 4 + 1

/-- Whether a whole packet lies between HEAD and TAIL; one whose first slot cannot be read counts as whole and is refused when taken. -/
def State.wholePacket (s : State) (q : QRef) (y : Queue) : Bool :=
  if y.avail = 0 then false
  else match (s.readSlot q y y.head).2 with
    | .ok b => decide (slotsOf b ≤ y.avail)
    | .error _ => true

/-- The slots of a packet from slot n on, before any rule is applied (R377). -/
def State.readSlots (s : State) (q : QRef) (y : Queue) : Nat → Nat → State × Except FrontStop (List Byte)
  | _, 0 => (s, .ok [])
  | n, k + 1 =>
    let r := s.readSlot q y n
    match r.2 with
    | .error e => (r.1, .error e)
    | .ok b =>
      let t := State.readSlots r.1 q y (n + 1) k
      match t.2 with
      | .error e => (t.1, .error e)
      | .ok c => (t.1, .ok (b ++ c))

/-- The head packet. -/
def State.headPacket (s : State) (q : QRef) (y : Queue) : State × Except FrontStop (List Byte) :=
  let r := s.readSlot q y y.head
  match r.2 with
  | .error e => (r.1, .error e)
  | .ok b =>
    let t := r.1.readSlots q y (y.head + 1) (slotsOf b - 1)
    match t.2 with
    | .error e => (t.1, .error e)
    | .ok c => (t.1, .ok (b ++ c))

/-! ### Packets (R375, R376) -/

/-- What a packet says. -/
inductive Packet' where
  | start (rec' : Nat)
  | feed (n handle array : Nat)
  | signal (add : Bool) (v addr : Nat)
  | wait (all : Bool) (es : List (Nat × Nat × Cmp))
  | timemark (virt : Bool) (stamp before : Nat)
  | inval (granules base done : Nat)
  | nop
  deriving DecidableEq, Repr

def pkType (p : Nat) : Nat := bitsOf p 7 0
def pkLen (p : Nat) : Nat := bitsOf p 9 8
def pkN (p : Nat) : Nat := bitsOf p 31 16
def pkArg (p : Nat) : Nat := bitsOf p 63 32
def pkW1 (p : Nat) : Nat := bitsOf p 127 64
def pkB16 (p : Nat) : Nat := bitsOf p 191 128

/-- Entry e of a WAITALL or WAITANY. -/
def pkEntry (p e : Nat) : Nat × Nat × Nat := (bitsOf p (191 + 128 * e) (128 + 128 * e), bitsOf p (223 + 128 * e) (192 + 128 * e), bitsOf p (226 + 128 * e) (224 + 128 * e))

/-- Whether a packet of a known type breaks rule RESV: a bit its type does not define, or N, n or a CMP out of range. -/
def pkResv (p : Nat) : Bool :=
  let n := pkN p
  let hi := p / 2 ^ 192
  bitsOf p 15 10 != 0 ||
  match pkType p with
  | 1 => n != 0 || pkArg p != 0 || p / 2 ^ 128 != 0
  | 2 => n == 0 || pkArg p != 0 || hi != 0
  | 3 => decide (1 < n) || p / 2 ^ 128 != 0
  | 4 | 5 =>
    n == 0 || decide (12 < n) || pkArg p != 0 || pkW1 p != 0 || p / 2 ^ (128 + 128 * min n 12) != 0
      || (List.range (min n 12)).any fun e => bitsOf p (255 + 128 * e) (227 + 128 * e) != 0 || decide (5 < (pkEntry p e).2.2)
  | 6 => decide (1 < n) || pkArg p != 0 || hi != 0
  | 7 => n != 0 || hi != 0
  | _ => n != 0 || pkArg p != 0 || p / 2 ^ 64 != 0

/-- LEN of R376. -/
def pkLenOk (p : Nat) : Bool :=
  pkLen p == (match pkType p with
    | 4 | 5 => (16 + 16 * pkN p + 63) / 64 - 1
    | _ => 0)

def pkDecode (p : Nat) : Packet' :=
  match pkType p with
  | 1 => .start (pkW1 p)
  | 2 => .feed (pkN p) (pkW1 p) (pkB16 p)
  | 3 => .signal (pkN p == 1) (pkArg p) (pkW1 p)
  | 4 | 5 => .wait (pkType p == 4) ((List.range (pkN p)).map fun e => ((pkEntry p e).1, (pkEntry p e).2.1, cmpOfCode (pkEntry p e).2.2))
  | 6 => .timemark (pkN p == 1) (pkW1 p) (pkB16 p)
  | 7 => .inval (pkArg p) (pkW1 p) (pkB16 p)
  | _ => .nop

/-! ### Refusals (R377, R501) -/

/-- An address of a packet that its use cannot have: misaligned, outside the global window, or failing translation. -/
def State.addrBad (s : State) (x : CtxRef) (va n align : Nat) (a : Acc) : Bool :=
  va % align != 0 || !inGlobal va n || (s.frontCheck x va n a).isSome

/-- Rule ADDR. -/
def State.pkAddr (s : State) (x : CtxRef) : Packet' → Bool
  | .start r => s.addrBad x r 128 128 .both
  | .feed n _ a => s.addrBad x a (16 * n) 16 .read
  | .signal _ _ a => s.addrBad x a 4 4 .write
  | .wait _ es => es.any fun e => s.addrBad x e.1 4 4 .read
  | .timemark _ a _ => a != 0 && s.addrBad x a 8 8 .write
  | .inval n b d => b % granuleSize != 0 || !inGlobal b (granuleSize * max n 1) || (d != 0 && s.addrBad x d 4 4 .write)
  | .nop => false

/-- The kernel of a FEED whose queue takes records. -/
def State.feedTarget (s : State) (x : CtxRef) (h : Nat) : Option (KRef × Kernel) :=
  match s.feedKernel x (BitVec.ofNat 64 h) with
  | none => none
  | some k => match s.kernel? k with
    | some y => if y.closed then none else some (k, y)
    | none => none

/-- The first rule that refuses a packet, 0 for none. DEDUCED: log 60. -/
def State.pkRefusal (s : State) (x : CtxRef) (p : Nat) : Nat :=
  if pkType p = 0 ∨ 8 < pkType p then 0x01
  else if pkResv p then 0x02
  else if !pkLenOk p then 0x03
  else
    let d := pkDecode p
    if s.pkAddr x d then 0x04
    else match d with
      | .feed n h _ =>
        match s.feedTarget x h with
        | none => 0x05
        | some k => if k.2.qcap < n then 0x06 else 0
      | _ => 0

/-! ### What a packet does (R378 to R381) -/

/-- What taking a packet comes to. -/
inductive Taken' where
  | stay                       -- data is still on its way
  | hold (reason : Nat) (watch : List (Nat × Nat))
  | refuse (code : Nat)
  | done
  | invalidate
  deriving DecidableEq, Repr

/-- Record the records of a trace of kind 4 (R391). DEDUCED: log 67. -/
def State.traceInput (s : State) (x : CtxRef) (va : Nat) (bs : List Byte) : State := s.trace x 4 va bs.length (sha256 bs)

def State.takeStart (s : State) (x : CtxRef) (rec' : Nat) : State × Taken' :=
  let r := s.frontRead x 128 .read rec' 1
  match r.2 with
  | .error .wait => (r.1, .stay)
  | .error _ => (s, .refuse 0x04)
  | .ok bs =>
    let s := r.1.traceInput x rec' bs
    if lrDecided (leNat bs) then (s, .done)
    else
      let d := s.decideLaunch x rec'
      match d.2 with
      | .wait => (r.1, .stay)
      | .mute => (d.1, .refuse 0x04)
      | .status code k =>
        match d.1.launched x rec' code k with
        | some s' => (s', .done)
        | none => (r.1.frontAsk x (rec' + 124) 4 false, .stay)

/-- Append the records of a FEED in order, up to an END; none where the queue store cannot be written now. -/
def State.feedAll (s : State) (k : KRef) : List (List Word) → Option State
  | [] => some s
  | r :: rs =>
    if r = endRec then some (s.closeQueue k)
    else match s.appendRec k r with
      | some s' => State.feedAll s' k rs
      | none => none

def recordsOf (bs : List Byte) (n : Nat) : List (List Word) := (List.range n).map fun i => bytesWords ((bs.drop (16 * i)).take 16)

def State.takeFeed (s : State) (x : CtxRef) (n h a : Nat) : State × Taken' :=
  match s.feedTarget x h with
  | none => (s, .refuse 0x05)
  | some k =>
    if k.2.qcap < k.2.count + n then (s, .hold 2 [])
    else
      let r := s.frontRead x 16 .read a n
      match r.2 with
      | .error .wait => (r.1, .stay)
      | .error _ => (s, .refuse 0x04)
      | .ok bs =>
        match (r.1.traceInput x a bs).feedAll k.1 (recordsOf bs n) with
        | some s' => (s', .done)
        | none => ((List.range n).foldl (fun s i => s.frontAsk x (k.2.recAddr (k.2.tail + i)) 16 false) r.1, .stay)

/-- One read of a WAIT's signal at its home, an acquire: its value, and the line with the writes performed there. -/
def State.waitRead (s : State) (x : CtxRef) (va : Nat) : State × Except FrontStop (Nat × Nat × Nat) :=
  let r := s.frontPiece x va 4 .read
  match r.2 with
  | .error e => (r.1, .error e)
  | .ok bs =>
    match (r.1.frontPlace x va .read).2 with
    | .ok loc => ((r.1.frontScope x loc true).usedOnce x.part loc, .ok (leNat bs, loc.lineNo x.part, (r.1.line (loc.lineNo x.part)).writes))
    | .error m => (r.1, .error (.fault m))

/-- One evaluation: each signal is read once, in entry order. -/
def State.waitReads (s : State) (x : CtxRef) : List (Nat × Nat × Cmp) → State × Except FrontStop (List (Nat × Nat × Nat))
  | [] => (s, .ok [])
  | e :: es =>
    let r := s.waitRead x e.1
    match r.2 with
    | .error k => (r.1, .error k)
    | .ok v =>
      let t := State.waitReads r.1 x es
      match t.2 with
      | .error k => (t.1, .error k)
      | .ok l => (t.1, .ok (v :: l))

/-- The lines of the signals that translate, with the writes performed at their homes. -/
def State.waitWatch (s : State) (x : CtxRef) (es : List (Nat × Nat × Cmp)) : List (Nat × Nat) :=
  es.filterMap fun e => match (s.frontPlace x e.1 .read).2 with
    | .ok loc => some (loc.lineNo x.part, (s.line (loc.lineNo x.part)).writes)
    | .error _ => none

def State.takeWait (s : State) (x : CtxRef) (all : Bool) (es : List (Nat × Nat × Cmp)) : State × Taken' :=
  let r := s.waitReads x es
  match r.2 with
  | .error .wait => (r.1, .stay)
  | .error _ => (r.1, .hold 1 (r.1.waitWatch x es))
  | .ok vs =>
    let meets := (es.zip vs).map fun e => cmpInt e.1.2.2 (e.2.1 : Int) (e.1.2.1 : Int)
    if (if all then meets.all id else meets.any id) then
      ((es.zip vs).foldl (fun s e => s.trace x 2 e.1.1 e.2.1 0) r.1, .done)
    else (r.1, .hold 1 (vs.map fun v => v.2))

def State.takeSignal (s : State) (x : CtxRef) (add : Bool) (v a : Nat) : State × Taken' :=
  let r := s.frontSignal x a add v
  match r.2 with
  | .ok () => (r.1, .done)
  | .error .wait => (r.1, .stay)
  | .error _ => (s, .refuse 0x04)

/-- A stamp whose page has ceased to translate while the packet was held keeps it held. DEDUCED: log 60. -/
def State.takeTimemark (s : State) (x : CtxRef) (virt : Bool) (stamp before : Nat) : State × Taken' :=
  let now := s.time.gtime
  if before ≠ 0 ∧ now.toNat < before then (s, .hold 3 [])
  else if stamp = 0 then (s, .done)
  else
    let v := if virt then s.ctxVtime x now else now
    let r := s.frontWrite x stamp (leBytes v.toNat 8) true
    match r.2 with
    | .ok () => (r.1, .done)
    | .error .wait => (r.1, .stay)
    | .error _ => (s, if before = 0 then .refuse 0x04 else .hold 3 [])

/-- A packet that releases at scope .pkg, or whose kernels see what was written before it: it waits until the leases on all that have ended (R231, R379,
R380, R383, R384). -/
def Packet'.releases : Packet' → Bool
  | .start _ | .feed .. | .signal .. => true
  | .timemark _ stamp _ => stamp != 0
  | _ => false

/-- A packet's effect, or why it waits; `wct` is the completion time of what its release orders. -/
def State.takeKind (s : State) (x : CtxRef) (wct : DWord) (p : Packet') : State × Taken' :=
  if p.releases && decide (s.time.gtime.toNat < wct.toNat + 16) then (s, .stay) else
  match p with
  | .start r => s.takeStart x r
  | .feed n h a => s.takeFeed x n h a
  | .signal add v a => s.takeSignal x add v a
  | .wait all es => s.takeWait x all es
  | .timemark v a b => s.takeTimemark x v a b
  | .inval .. => (s, .invalidate)
  | .nop => (s, .done)

/-- START and FEED wait for the bound context to be ACTIVE (R382). -/
def Packet'.needsActive : Packet' → Bool
  | .start _ | .feed .. => true
  | _ => false

/-! ### Consumption (R373, R374) -/

/-- The packet at HEAD of n slots is consumed: HEAD advances, and the queue goes on, or is disabled; what the packet wrote or read is before its later
packets. -/
def State.advance (s : State) (q : QRef) (n : Nat) : State :=
  let y := (s.queue q).settled
  let y := { y with head := (y.head + n) % 2 ^ 32, wct := dmax y.wct (s.lastWct q.part) }
  let more := y.en && s.wholePacket q y
  s.modQueue q fun _ => { y with st := if !y.en then .disabled else if more then .running else .idle, todo := more }

/-- Consume a packet; its bytes are recorded first (R391). -/
def State.consume (s : State) (q : QRef) (bs : List Byte) : State :=
  let y := s.queue q
  (s.trace (QRef.ctxRef q y) 1 (q.q * 2 ^ 56 + y.head) 0 (sha256 bs)).advance q (slotsOf bs)

/-! ### INVAL (R290) -/

/-- The bits of a VA below a table pointer's span. -/
def walkShift (lvl : Nat) : Nat := levelShift lvl + (match lvl with | 0 => 5 | 1 => 9 | _ => 13)

def meets (lo hi a n : Nat) : Bool := decide (a < hi) && decide (lo < a + n)

/-- Item 1 of R290 on one core. -/
def Core.invalidate (k : Core) (ctx lo hi : Nat) : Core :=
  { k with
    tlb := k.tlb.filter fun e => !(e.ctx == ctx && meets lo hi (e.vpn * 2 ^ levelShift e.level) (2 ^ levelShift e.level))
    walkc := k.walkc.filter fun w => !(w.ctx == ctx && meets lo hi (w.vpn * 2 ^ walkShift w.level) (2 ^ walkShift w.level)) }

/-- The range of VAs an INVAL names. -/
def invalRange (granules base : Nat) : Nat × Nat := if granules = 0 then (0, 2 ^ 56) else (base, base + granuleSize * granules)

/-- A WAIT held for a context is to be evaluated again through its tables: its watched lines count as written (R381). -/
def Queue.rearm (q : Queue) : Queue := if q.st = .blocked ∧ q.hold = 1 then { q with watch := q.watch.map fun w => (w.1, w.2 + 2 ^ 64) } else q

/-- An INVAL begins: no translation of the range stays, a comparison awaited at a signal of the context is made again through its tables, and each core's
operation number is noted, with the packet. DEDUCED: log 60. -/
def State.beginInval (s : State) (q : QRef) (granules base : Nat) (pkt : List Byte) : State :=
  let x := QRef.ctxRef q (s.queue q)
  let r := invalRange granules base
  let s := { s with cores := s.cores.map fun e : CoreRef × Core => if e.1.part = q.part then (e.1, e.2.invalidate x.ctx r.1 r.2) else e }
  let s := { s with sigs := s.sigs.map fun w : SigWatch => if w.thr.ctxRef = x then { w with loc := none, due := true } else w }
  let marks := (s.cores.filter fun e => e.1.part == q.part).map fun e => (e.1.core, e.2.seq)
  let s := s.modPart q.part fun p => { p with queues := p.queues.map fun z => if z.qctx = x.ctx then z.rearm else z }
  s.modQueue q fun y => { y with inval := some marks, held := pkt }

/-- A phase that holds an access already translated. -/
def Phase.translated : Phase → Bool
  | .fence _ _ _ (.send _) => true
  | _ => false

/-- Item 2: every access of the context translated before has been performed, a store that stood in a write-combining entry then among them.
DEDUCED: log 60. -/
def State.invalSettled (s : State) (x : CtxRef) (marks : List (Nat × Nat)) : Bool :=
  marks.all (fun m =>
    let k := s.core { part := x.part, core := m.1 }
    !(k.mops.any fun o => o.thr.ctx == x.ctx && decide (o.born < m.2)) && !(k.wc.any fun w => w.thrs.any (fun t => t.ctx == x.ctx) && decide (w.id < m.2)))
  && !((s.ctxThreads x).any fun e => e.2.ph.translated)

/-- Item 3: what is parked PAGE MIGRATE in the range replays, and channels try again; a context that is in memory does so when it comes back. -/
def State.releaseMigrate (s : State) (x : CtxRef) (lo hi : Nat) : State :=
  if !(s.ctx x).st.holdsCores then s.modCtx x fun y => { y with invals := y.invals ++ [(lo, hi)] } else
  let inRange := fun va : Nat => decide (lo ≤ va) && decide (va < hi)
  let vaIn := fun (c : CCRef) (o : OEntry) => match s.group? (c.group o.grp) with
    | some g => inRange (vaOf g o.rank o.ea)
    | none => false
  let s' := { s with holds := s.holds.map fun e : CCRef × Holding =>
    if e.1.ctxRef = x then
      (e.1, { e.2 with olog := e.2.olog.map fun o : Nat × OEntry =>
        if o.2.stat = .waiting ∧ o.2.ccls = .page ∧ o.2.sub = 5 ∧ vaIn e.1 o.2 = true then (o.1, { o.2 with stat := .released }) else o })
    else e }
  (s.holds.filter fun e => e.1.ctxRef = x).foldl (fun s e =>
    (List.range 8).foldl (fun s ch => match (e.2.chans.get? ch).bind (·.miss) with
      | some (m, va) => if m.cause = .page ∧ m.sub = 5 ∧ inRange va = true then s.chanRetry e.1 ch else s
      | none => s) s) s'

/-! ### Taking the head packet (R374, R377, R382) -/

/-- A queue whose event a Ladle core is handling, its packet not yet looked at, while that core's host link carries its accesses (R28). -/
def State.served (s : State) (q : QRef) : Bool :=
  (s.queue q).todo && (s.part q.part).events.any fun e => e.2.any (s.ladleLinked q.part) && (e.1 == .doorbell q.q || e.1 == .wake q.q)

/-- The packet waits, as it was read when it was taken. -/
def State.holdPacket (s : State) (q : QRef) (reason : Nat) (watch : List (Nat × Nat)) (pkt : List Byte) : State :=
  s.modQueue q fun y =>
    if y.en then { y with st := .blocked, hold := reason, watch := watch, evalAt := s.time.gtime, todo := false, held := pkt }
    else { y.settled with st := .disabled }

/-- The head packet as it is to be taken: a held one as it was read (R374, R382). -/
def State.nextPacket (s : State) (q : QRef) (y : Queue) : State × Except FrontStop (List Byte) :=
  if y.st == .blocked then (s, .ok y.held) else s.headPacket q y

/-- A held packet is at work again: the state that its outcome is decided in. -/
def State.atWork (s : State) (q : QRef) : State := if (s.queue q).st == .blocked then s.modQueue q fun y => { y with st := .running } else s

/-- The code of a held packet that could not act: the queue holds on, but for a FEED (R373). DEDUCED: log 60. -/
def State.refusePacket (s : State) (q : QRef) (y : Queue) (p code : Nat) : State :=
  if y.st == .blocked && pkType p != 2 then s.modQueue q fun z => { z with st := .blocked, todo := false } else s.modQueue q fun y => y.fail code

/-- Take the head packet of a queue that a Ladle core handles, where it is of a type. DEDUCED: log 60. -/
def State.take (s : State) (q : QRef) (want : Packet' → Bool) : State :=
  let y := s.queue q
  let x := QRef.ctxRef q y
  if !s.served q || y.inval.isSome || !(y.st == .running || y.st == .blocked) || s.inReset then s
  else match (s.ctx x).st with
    | .empty | .revoked | .faulted => s.modQueue q Queue.reset'
    | st =>
      if y.st != .blocked && !s.wholePacket q y then s.modQueue q fun y => { y.settled with st := .idle }
      else
        let r := s.nextPacket q y
        match r.2 with
        | .error .wait => r.1
        | .error _ => s.modQueue q fun y => y.fail 0x04
        | .ok bs =>
          let p := leNat bs
          let code := if y.st == .blocked then 0 else r.1.pkRefusal x p
          let d := pkDecode p
          if code ≠ 0 then r.1.modQueue q fun y => y.fail code
          else if !want d then s
          else if (pkType p = 1 ∨ pkType p = 2) ∧ st ≠ .active then r.1.holdPacket q 4 [] bs
          else
            let e := (r.1.atWork q).takeKind x y.wct d
            match e.2 with
            | .stay => e.1.modQueue q fun z => { z with st := y.st }
            | .hold n w => e.1.holdPacket q n w bs
            | .refuse code => e.1.refusePacket q y p code
            | .done => e.1.consume q bs
            | .invalidate => match d with
              | .inval n b _ => e.1.beginInval q n b bs
              | _ => e.1

end Sys2Proof.Machine
end

