-- ==== Sys2Proof/Machine/QueueEv.lean ====
section
/-! DEFINITION. The events of queues and of the Ladle pool (17_queue.md R371 to R387, 12_page.md R290). A handler of a queue's event looks at
the head packet until the queue holds, is empty or refuses; only then does it write its completion (R386). -/
namespace Sys2Proof.Machine
open Sys2Proof

/-! ### Registers (R372 to R374) -/

/-- A queue with a whole packet runs, and its DOORBELL goes to the Ladle pool (R385). -/
def State.startQueue (s : State) (q : QRef) : State := (s.modQueue q fun y => { y with st := .running }).ladleEvent q.part (.doorbell q.q)

/-- QTAIL_DOORBELL (R373, R374, R385): what has been written before it is before its packets (R383), and the queue's DOORBELL goes to the Ladle pool. -/
def execQtailDoorbell (q : QRef) (tail : Word) (s : State) : Out State Fault Refusal :=
  if s.inReset then .next s
  else
    let s := s.modQueue q fun y => { y with tail := tail.toNat, wct := dmax y.wct (s.lastWct q.part) }
    .next (if (s.queue q).st == .idle && s.wholePacket q (s.queue q) then s.startQueue q else s.ladleEvent q.part (.doorbell q.q))

/-- The conditions of R372. -/
def State.queueMayRun (s : State) (q : QRef) (y : Queue) : Bool :=
  decide (4 ≤ y.qlog) && decide (y.qlog ≤ 16) && y.qbase.toNat % (64 * 2 ^ y.qlog) == 0 && decide (y.qbase.toNat < 2 ^ 56)
    && s.ctxExists (QRef.ctxRef q y)

/-- QUEUE_ENABLE (R372, R373). -/
def execQueueEnable (q : QRef) (s : State) : Out State Fault Refusal :=
  let y := s.queue q
  if s.inReset || y.en || y.st != .disabled || !s.queueMayRun q y then .next s
  else
    let s := s.modQueue q fun y => { y with en := true, err := 0, hold := 0, st := .idle }
    .next (if s.wholePacket q (s.queue q) then s.startQueue q else s)

/-- QUEUE_DISABLE (R373): a packet in progress is consumed first. -/
def execQueueDisable (q : QRef) (s : State) : Out State Fault Refusal :=
  if s.inReset then .next s
  else
    .next (s.modQueue q fun y =>
      if !y.en then y
      else if y.inval.isSome then { y with en := false }
      else { y.settled with en := false, st := .disabled })

/-! ### Packets -/

/-- PACKET_START (R378). -/
def execPacketStart (q : QRef) (s : State) : Out State Fault Refusal := .next (s.take q fun p => match p with | .start _ => true | _ => false)

/-- PACKET_FEED (R378). -/
def execPacketFeed (q : QRef) (s : State) : Out State Fault Refusal := .next (s.take q fun p => match p with | .feed .. => true | _ => false)

/-- PACKET_SIGNAL (R379). -/
def execPacketSignal (q : QRef) (s : State) : Out State Fault Refusal := .next (s.take q fun p => match p with | .signal .. => true | _ => false)

/-- PACKET_WAITALL (R381). -/
def execPacketWaitall (q : QRef) (s : State) : Out State Fault Refusal := .next (s.take q fun p => match p with | .wait all _ => all | _ => false)

/-- PACKET_WAITANY (R381). -/
def execPacketWaitany (q : QRef) (s : State) : Out State Fault Refusal := .next (s.take q fun p => match p with | .wait all _ => !all | _ => false)

/-- PACKET_TIMEMARK (R380). -/
def execPacketTimemark (q : QRef) (s : State) : Out State Fault Refusal := .next (s.take q fun p => match p with | .timemark .. => true | _ => false)

/-- PACKET_INVAL (R380): the invalidation begins; its completion consumes the packet. -/
def execPacketInval (q : QRef) (s : State) : Out State Fault Refusal := .next (s.take q fun p => match p with | .inval .. => true | _ => false)

/-- PACKET_NOP (R380). -/
def execPacketNop (q : QRef) (s : State) : Out State Fault Refusal := .next (s.take q fun p => match p with | .nop => true | _ => false)

/-- INVAL_COMPLETE (R290, R380). -/
def execInvalComplete (q : QRef) (s : State) : Out State Fault Refusal :=
  let y := s.queue q
  let x := QRef.ctxRef q y
  match y.inval with
  | none => .next s
  | some marks =>
    if s.inReset || !s.served q || !s.invalSettled x marks then .next s
    else
      match pkDecode (leNat y.held) with
      | .inval n b d =>
        let rg := invalRange n b
        if d = 0 then .next ((s.releaseMigrate x rg.1 rg.2).consume q y.held)
        else if s.time.gtime.toNat < y.wct.toNat + 16 then .next s
        else
          let w := (s.releaseMigrate x rg.1 rg.2).frontSignal x d true 1
          match w.2 with
          | .error .wait => .next w.1
          | _ => .next (w.1.consume q y.held)
      | _ => .next s

/-! ### Held packets (R381, R385) -/

/-- Why a held packet may be looked at again: a watched line has been written, its time has come, its kernel's queue has changed, or its
context is ACTIVE. -/
def State.wakeable (s : State) (q : QRef) : Bool :=
  let y := s.queue q
  let x := QRef.ctxRef q y
  y.st == .blocked &&
  match y.hold with
  | 1 => y.watch.any fun w => (s.line w.1).writes != w.2
  | 4 => (s.ctx x).st == .active
  | h => match pkDecode (leNat y.held) with
    | .timemark _ _ b => h == 3 && decide (b ≤ s.time.gtime.toNat)
    | .feed n k _ => h == 2 && (match s.feedTarget x k with
      | some k => decide (k.2.count + n ≤ k.2.qcap)
      | none => true)
    | _ => false

/-- A held packet is looked at again: at once where a Ladle core has the queue's event, else its WAKE is sent. DEDUCED: log 60. -/
def State.wake (s : State) (q : QRef) : State := if s.served q then s.take q fun _ => true else s.ladleEvent q.part (.wake q.q)

/-- QUEUE_WAKE (R381, R385). -/
def execQueueWake (q : QRef) (s : State) : Out State Fault Refusal :=
  if s.inReset || !(s.wakeable q || (s.served q && (s.queue q).st == .blocked)) then .next s else .next (s.wake q)

/-- 10 µs have passed since the last evaluation of a held WAIT. -/
def State.periodDue (s : State) (q : QRef) : Bool :=
  let y := s.queue q
  y.st == .blocked && y.hold == 1 && decide (y.evalAt.toNat + 160000 ≤ s.time.gtime.toNat) && !s.inReset

/-- WAIT_PERIODIC_EVALUATION (R381). DEDUCED: log 60. -/
def execWaitPeriodicEvaluation (q : QRef) (s : State) : Out State Fault Refusal := if s.periodDue q then .next (s.wake q) else .next s

/-! ### The Ladle pool (R385 to R387) -/

/-- What an event locks while it is handled: queue, core, or partition. -/
def LEvent.lock : LEvent → Option (Nat × Nat)
  | .doorbell q => some (0, q)
  | .wake q => some (0, q)
  | .launch c => some (1, c)
  | .table => some (2, 0)
  | .fault _ => none
  | .retire .. => none

/-- The queue an event is about. -/
def LEvent.queue : LEvent → Option Nat
  | .doorbell q => some q
  | .wake q => some q
  | _ => none

/-- The oldest pending event whose lock is free. -/
def Part.nextEvent (p : Part) : Option LEvent :=
  let held := (p.events.filter fun e => e.2.isSome).filterMap fun e => e.1.lock
  (p.events.find? fun e => e.2.isNone && (match e.1.lock with | some l => !held.contains l | none => true)).map (·.1)

/-- The first pending entry of an event goes to a Ladle core. -/
def giveEvent (e : LEvent) (ladle : Nat) : List (LEvent × Option Nat) → List (LEvent × Option Nat)
  | [] => []
  | x :: l => if x.1 = e ∧ x.2.isNone = true then (e, some ladle) :: l else x :: giveEvent e ladle l

/-- EVENT_DISPATCH (R28, R386). -/
def execEventDispatch (part ladle : Nat) (s : State) : Out State Fault Refusal :=
  let p := s.part part
  match p.ladles[ladle]?, p.nextEvent with
  | some none, some e =>
    if s.inReset || !s.ladleLinked part ladle then .next s
    else
      let s := s.modPart part fun p => { p with events := giveEvent e ladle p.events, ladles := modNth p.ladles ladle fun _ => some s.time.gtime }
      .next (match e.queue with
        | some q => s.modQueue { part := part, q := q } fun y => { y with todo := y.st == .running || y.st == .blocked }
        | none => s)
  | _, _ => .next s

/-- The event a Ladle core handles. -/
def Part.handled (p : Part) (ladle : Nat) : Option LEvent := (p.events.find? fun e => e.2 == some ladle).map (·.1)

/-- A held event is sent when an entry frees. -/
def Part.sendHeld (p : Part) : Part :=
  match p.heldEv with
  | e :: l => if p.events.length < 65536 then { p with events := p.events ++ [(e, none)], heldEv := l } else p
  | [] => p

/-- HANDLER_COMPLETE (R386): the lock, the core and the entry are free again; the handler of a queue has then looked at its packets. DEDUCED: log 60. -/
def execHandlerComplete (part ladle : Nat) (s : State) : Out State Fault Refusal :=
  match (s.part part).handled ladle with
  | none => .next s
  | some e =>
    let busy := match e.queue with
      | some q => (s.queue { part := part, q := q }).todo
      | none => false
    if busy || s.inReset || !s.ladleLinked part ladle then .next s
    else .next (s.modPart part fun p => Part.sendHeld
      { p with events := p.events.filter fun x => x.2 != some ladle, ladles := modNth p.ladles ladle fun _ => none })

/-- A handler has run for more than 1 ms. -/
def State.overrun (s : State) (part ladle : Nat) : Bool :=
  match (s.part part).ladles[ladle]? with
  | some (some t) => decide (t.toNat + 16000000 < s.time.gtime.toNat) && !s.inReset
  | _ => false

/-- LADLE_WATCHDOG (R385, R387, R479, R499): the event goes back to the head of the queue, where a later one of its key is one with it, and the core starts again from the verified image. -/
def execLadleWatchdog (part ladle : Nat) (s : State) : Out State Fault Refusal :=
  match (s.part part).handled ladle with
  | none => .next s
  | some e =>
    if !s.overrun part ladle || !s.pestle.verifies 2 then .next s
    else
      let s := s.modPart part fun p => { p with
        events := (e, none) :: p.events.filter (fun x => x.2 != some ladle && x != (e, none)) }
      let s := s.startLadles part fun l => l == ladle
      .next (s.mcRecord (some part) .firmware 1 0 0 0 (ladle / 3 * 2 ^ 14 + ladle))

end Sys2Proof.Machine
end

