-- ==== Sys2Proof/Machine/HostEv.lean ====
section
/-! DEFINITION. What host cores and devices do through a host window, writes of registers with no row of their own, and the patrol scrub
(23_trust.md R489, R490, R493, R494, R499, 00_scope.md R4, R9, 17_queue.md R371, R372, R390). -/
namespace Sys2Proof.Machine
open Sys2Proof

/-! ### Host windows (R489, R490) -/

/-- The valid window that holds all of an access. -/
def State.windowOf (s : State) (part pa n : Nat) : Option (Nat × DWord) :=
  ((s.part part).hwin.zipIdx.find? fun e => e.1.getLsbD 63 && decide (hwBase e.1 ≤ pa) && decide (pa + n ≤ hwBase e.1 + hwSize e.1)).map
    fun e => (e.2, e.1)

/-- A refused access completes as a bus error, or as an Unsupported Request; it is counted, and recorded once a second for each window. -/
def State.refuseHost (s : State) (part i pa : Nat) : State :=
  let s := { s with hostAns := (part, pa, none) :: s.hostAns }.modPart part fun p => { p with hwDrops := min 0xFFFF (p.hwDrops + 1) }
  let now := s.time.gtime
  let quiet := match (s.part part).hwLast.getD i none with
    | some t => decide (now.toNat < t.toNat + 16000000000)
    | none => false
  if quiet then s
  else (s.modPart part fun p => { p with hwLast := modNth p.hwLast i fun _ => some now }).mcRecord (some part) .hostWindow 1 pa 0 0 0

/-- A write of a host core at its homes, a line at a time. -/
def State.hostStore (s : State) (part key : Nat) : Nat → List Byte → Nat → State
  | _, _, 0 => s
  | pa, bs, n + 1 =>
    let k := lineSize - pa % lineSize
    let s := (s.homeStore part (.mem pa key 0 false) (bs.take k) (List.replicate (min k bs.length) true)).1
    if bs.length ≤ k then s else State.hostStore s part key (pa + k) (bs.drop k) n

/-- HOST_WINDOW_ACCESS (R489, R490): a write, or a read of `len` bytes, over the host link of the die (R12, R29), and its completion. DEDUCED: log 62. -/
def execHostWindowAccess (part : Nat) (pa : Nat) (write : Option (List Byte)) (len : Nat) (s : State) : Out State Fault Refusal :=
  if s.inReset || !s.formed part then .next s
  else
    let n := match write with | some bs => bs.length | none => len
    match s.windowOf part pa n with
    | none => .next (s.refuseHost part 16 pa)
    | some (i, w) =>
      let key := bitsOf w.toNat 61 56
      if !(s.link (hostLink (pa / hbmPerDie))).st.carries then .next s
      else if (write.isSome && !w.getLsbD 62) || !(s.part part).keylive.getLsbD key then .next (s.refuseHost part i pa)
      else match write with
        | some bs =>
          let s := if bs.isEmpty then s else s.hostStore part key pa bs (bs.length / lineSize + 1)
          .next { s with hostAns := (part, pa, some []) :: s.hostAns }
        | none =>
          let q := s.homeBytes part (.mem pa key 0 false) len
          .next { q.1 with hostAns := (part, pa, some q.2) :: q.1.hostAns }

/-! ### Registers with no write row of their own (R4, R9) -/

/-- A writer reaches the registers of its own partition (R28, R29, R389). -/
def Writer.reaches (w : Writer) (part : Nat) : Bool :=
  match w with
  | .ladle p => p == part
  | .host p => p == part
  | .pestle => true

def Writer.isHost : Writer → Bool
  | .host _ => true
  | _ => false

def Writer.isPestle : Writer → Bool
  | .pestle => true
  | _ => false

/-- A field of a queue that is writable only while EN = 0 (R372). DEDUCED: log 63. -/
def State.writeQueue (s : State) (part q : Nat) (f : Queue → Queue) : State :=
  s.modQueue { part := part, q := q } fun y => if y.en then y else f y

/-- A write of QCTL: QLOG while the queue is disabled, and EN (R372, R373). DEDUCED: log 63. -/
def State.writeQctl (s : State) (part q : Nat) (val : DWord) : State :=
  let r : QRef := { part := part, q := q }
  let s := s.writeQueue part q fun y => { y with qlog := val.toNat % 32 }
  match (if val.getLsbD 31 then execQueueEnable r s else execQueueDisable r s) with
  | .next s' => s'
  | _ => s

/-- A write of TRACECFG (R390): OVF is cleared by a 1; TLOG is written only while EN = 0; setting EN starts the count again. DEDUCED: log 63. -/
def Part.writeTracecfg (p : Part) (v : Nat) : Part :=
  let on := bitsOf v 31 31 == 1
  { p with
    traceOvf := p.traceOvf && bitsOf v 30 30 == 0
    tlog := if p.traceEn then p.tlog else v % 32
    tcount := if on && !p.traceEn then 0 else p.tcount
    traceEn := on }

/-- W1C on a count of discarded packets in bits [23:8]. -/
def clearDrops (d v : Nat) : Nat := d &&& (0xFFFF - bitsOf v 23 8)

/-- The effect of a write by the access codes of the register's fields: RO and PW fields, and reserved ones, ignore it. DEDUCED: log 63. -/
def State.writeReg (s : State) (w : Writer) (part : Nat) (r : RegName) (val : DWord) : State :=
  match r with
  | .qbase q => s.writeQueue part q fun y => { y with qbase := val &&& 0x00FFFFFFFFFFFFFF }
  | .qctx q => s.writeQueue part q fun y => { y with qctx := val.toNat % 2 ^ 16 }
  | .qhead q => s.writeQueue part q fun y => { y with head := val.toNat % 2 ^ 32 }
  | .qctl q => s.writeQctl part q val
  | .tracecfg => if Writer.isHost w then s.modPart part fun p => p.writeTracecfg val.toNat else s
  | .tbase => if Writer.isHost w && !(s.part part).traceEn then s.modPart part fun p => { p with tbase := val &&& 0xFFFFFFFFFFFFFFC0 } else s
  | .fwlink l => if Writer.isPestle w && decide (l < 4) then s.modLink (.d2d l) fun x => { x with fwDrops := clearDrops x.fwDrops val.toNat } else s
  | .portstat l => if Writer.isPestle w then s.modLink l fun x => { x with drops := clearDrops x.drops val.toNat } else s
  | .tcount | .cpt .. | .dpt _ | .ppt .. | .diepart _ | .memcfg | .keymask _ | .keylive | .ctxsa _ | .ctxstat _ | .poolwin _ | .hwin _
  | .hwstat | .lidaddr | .affctl | .gtime | .epsilon | .timestat | .pwrstat _ | .slclk .. => s

/-- REGISTER_WRITE (R4, R9). DEDUCED: log 63. -/
def execRegisterWrite (w : Writer) (part : Nat) (r : RegName) (val : DWord) (s : State) : Out State Fault Refusal :=
  if s.inReset || !Writer.reaches w part then .next s else .next (s.writeReg w part r val)

/-! ### Patrol scrub (R493, R494, R499) -/

/-- What is kept of the corrected errors of a unit. -/
def State.noteCorrected (s : State) (part : Option Nat) (unit : Nat) (e : DWord × Nat) : State :=
  match part with
  | some p => s.modPart p fun x => { x with mcCorr := x.mcCorr.set unit e }
  | none => s.modPestle fun x => { x with mcCorr := x.mcCorr.set unit e }

/-- A memory record: an uncorrectable error, or a corrected one that its unit has not reported within a second; in between they are counted.
Its check-bit syndrome is a free value (DESIGN CHOICE, log 6). DEDUCED: log 62. -/
def State.scrubRecord (s : State) (part : Option Nat) (unit addr : Nat) (unc : Bool) : State :=
  let synd := (Config.freeWord s.fresh).toNat + 2 ^ 32 * (Config.freeWord (s.fresh + 1)).toNat
  let s := { s with fresh := s.fresh + 2 }
  if unc then s.mcRecord part .memory 1 addr synd 0 unit
  else
    let now := s.time.gtime
    let fresh := (s.noteCorrected part unit (now, 0)).mcRecord part .memory 0 addr synd 0 unit
    match (match part with | some p => (s.part p).mcCorr.get? unit | none => s.pestle.mcCorr.get? unit) with
    | some e => if now.toNat < e.1.toNat + 16000000000 then s.noteCorrected part unit (e.1, e.2 + 1) else fresh
    | none => fresh

/-- The partition whose memory a physical address is, and the unit of its HBM in a record. DEDUCED: log 62. -/
def State.ownerOf (s : State) (pa : Nat) : Option Nat × Nat :=
  let d := s.die (pa / hbmPerDie)
  if d.active && !(decide (hostLo ≤ pa) && decide (pa < hostHi)) then (some d.part, bitsOf d.diepart.toNat 5 4 * 2 ^ 14 + 2 ^ 8) else (none, 2 ^ 8)

/-- A thread's register, or predicate, as regPois numbers them. DEDUCED: log 62. -/
def State.scrubThread (s : State) (t : TRef) (n : Nat) (uncorrectable : Bool) : State :=
  match s.thread? t with
  | none => s
  | some _ =>
    let s := if uncorrectable && !s.regPois.contains (t, n) then { s with regPois := s.regPois ++ [(t, n)] } else s
    s.scrubRecord (some t.part) (coreUnit t.core) 0 uncorrectable

/-- The sector of an address is poisoned, at its home or in the L2 that holds it of a pool (R494). -/
def State.scrubPool (s : State) (pa : Nat) : State :=
  { s with
    poison := Tab.put false s.poison (pa / sectorSize) true
    pool := s.pool.map fun e : (Nat × Nat) × PoolLine =>
      if e.1.2 = pa / lineSize then (e.1, { e.2 with poison := modNth e.2.poison (pa % lineSize / sectorSize) fun _ => true }) else e }

/-- PATROL_SCRUB (R494). DEDUCED: log 62. -/
def execPatrolScrub (x : ScrubTarget) (uncorrectable : Bool) (s : State) : Out State Fault Refusal :=
  if s.inReset then .next s
  else match x with
    | .mem pa =>
      let o := s.ownerOf pa
      let s := if uncorrectable then (s.scrubPool pa) else s
      .next (s.scrubRecord o.1 o.2 pa uncorrectable)
    | .scratch c off =>
      if !(s.holding c).bankLive (off / bankSize) then .next s
      else
        let s := if uncorrectable && !s.scrPois.contains (c, off / 8) then { s with scrPois := s.scrPois ++ [(c, off / 8)] } else s
        .next (s.scrubRecord (some c.part) (coreUnit c.core) (localEa c.core (BitVec.ofNat 32 off)).toNat uncorrectable)
    | .l1 c line word =>
      let hit := fun l : L1Line => l.line == line && decide (word < 16)
      if !(s.core c).l1.any hit then .next s
      else
        let s := if uncorrectable then s.modCore c fun k => { k with l1 := k.l1.map fun l => if hit l && !l.pois.contains word then
          { l with pois := l.pois ++ [word] } else l } else s
        .next (s.scrubRecord (some c.part) (coreUnit c.core) (line % 2 ^ 60 * lineSize + 8 * word) uncorrectable)
    | .acc c word =>
      if !((s.holding c).tiles.any fun t => t.1 == word / 8192) then .next s
      else
        let s := if uncorrectable && !s.accPois.contains (c, word) then { s with accPois := s.accPois ++ [(c, word)] } else s
        .next (s.scrubRecord (some c.part) (coreUnit c.core) 0 uncorrectable)
    | .reg t r => .next (s.scrubThread t r.toNat uncorrectable)
    | .pred t p => .next (s.scrubThread t (poisPred p) uncorrectable)

end Sys2Proof.Machine
end

