-- ==== Sys2Proof/Machine/Port.lean ====
section
/-! DEFINITION. The sending of queued packets: credits, the order of the classes, and what is set at a packet's first flit (21_link.md R439, R441,
R446, R450). -/
namespace Sys2Proof.Machine
open Sys2Proof

/-! ### Header fields (R439) -/

def hTag (h : Nat) : Nat := bitsOf h 239 224
def hSdie (h : Nat) : Nat := bitsOf h 123 122
def hClass (h : Nat) : Nat := bitsOf h 99 97
def hPart (h : Nat) : Nat := bitsOf h 95 94

/-- A class whose packets hold a request tag of their die. -/
def isRequestClass (c : Nat) : Bool := c == 0 || c == 4 || c == 5

/-! ### Flits (R441) -/

/-- A class with a packet queued and a credit free. -/
def Link.ready (l : Link) (cls : Nat) : Bool :=
  l.st.passes cls && decide (0 < l.credits.getD cls 0) && l.queue.any fun p => hClass p.hdr.toNat == cls

/-- The order in which the classes are asked at a flit boundary: timing, management, response, then request, collective and parameter in
rotation. -/
def Link.order (l : Link) : List Nat :=
  [2, 3, 1] ++ match l.turn with
    | 0 => [0, 4, 5]
    | 1 => [4, 5, 0]
    | _ => [5, 0, 4]

/-- The rotating class whose turn follows a class. -/
def turnAfter (turn cls : Nat) : Nat :=
  match cls with
  | 0 => 1
  | 4 => 2
  | 5 => 0
  | _ => turn

/-- The packets of a queue with the first one of a class changed, or taken out. -/
def onClass (cls : Nat) (f : QPkt → Option QPkt) : List QPkt → List QPkt
  | [] => []
  | p :: l => if hClass p.hdr.toNat = cls then (f p).toList ++ l else p :: onClass cls f l

/-- A header with the BORN and the BANK of its first flit. -/
def bornHdr (h : BitVec 256) (born : DWord) (bank : Bool) : BitVec 256 :=
  BitVec.ofNat 256 (h.toNat / 2 ^ 97 * 2 ^ 97 + (if bank then 2 ^ 96 else 0) + bitsOf h.toNat 95 64 * 2 ^ 64 + born.toNat)

/-- What a packet is once its first flit is on the wire. -/
def State.stamp (s : State) (die : Nat) (p : QPkt) : QPkt :=
  if p.left = packetFlits p.load then
    { p with hdr := bornHdr p.hdr (s.dieTime die) (hClass p.hdr.toNat == 4 && s.affActive (hPart p.hdr.toNat) die) }
  else p

/-- A request whose first flit goes out now: its wait for an answer begins (R446). -/
def State.noteSent (s : State) (p : QPkt) : State :=
  if isRequestClass (hClass p.hdr.toNat) && p.left == packetFlits p.load then
    { s with freqs := s.freqs.map fun f =>
        if f.tag = hTag p.hdr.toNat then
          { f with hdr := p.hdr, sent := if f.resent.isNone then s.time.gtime else f.sent, resent := f.resent.map fun _ => s.time.gtime }
        else f }
  else s

/-- The first flit of a Delay_Req goes out: its egress timestamp is taken (R37, R451). -/
def State.noteEgress (s : State) (p : QPkt) : State :=
  if hClass p.hdr.toNat == 2 && p.left == packetFlits p.load && (p.load.getD 0 0).toNat % 16 == 1 then
    s.modTime fun t => { t with egress := some t.gtime }
  else s

/-- A port sends the next flit of a class; the packet has left when it was its last. -/
def State.sendFlit (s : State) (die port cls : Nat) : State :=
  match (s.link (.port die port)).queue.find? fun p => hClass p.hdr.toNat == cls with
  | none => s
  | some p =>
    let p := s.stamp die p
    let s := ((s.noteSent p).noteEgress p).modLink (.port die port) fun l => { l with
      queue := onClass cls (fun _ => if p.left ≤ 1 then none else some { p with left := p.left - 1 }) l.queue
      credits := modNth l.credits cls (· - 1), turn := turnAfter l.turn cls, wire := s.time.gtime + 10 }
    if p.left ≤ 1 then { s with outbox := s.outbox ++ [{ die := die, port := port, hdr := p.hdr, load := p.load }] } else s

/-- The credits the far side of a port returns: free values (DESIGN CHOICE, log 71). DESIGN CHOICE: log 6. -/
def State.creditsReturn (s : State) (die port : Nat) : State :=
  s.modLink (.port die port) fun l => { l with credits := l.credits.zipIdx.map fun e => e.1 + Config.credit s.fresh (die * 6 + port) e.2 }

/-- What a port does at a tick: it takes the credits that come back, and at a flit boundary sends one flit of the first class that is ready. A
flit is on the wire for 10 ticks. -/
def State.portTick (s : State) (die port : Nat) : State :=
  if (s.link (.port die port)).queue.isEmpty then s
  else
    let s := s.creditsReturn die port
    let l := s.link (.port die port)
    if s.time.gtime.toNat < l.wire.toNat then s
    else match l.order.find? l.ready with
      | some cls => s.sendFlit die port cls
      | none => s

/-- The ports of the package at a tick. -/
def State.sendFlits (s : State) : State :=
  (List.range 4).foldl (fun s d => (List.range 6).foldl (fun s q => s.portTick d q) s) s

/-- A request that still waits in a port's queue (R446). -/
def State.isQueued (s : State) (f : FReq) : Bool :=
  s.dies.any fun d => d.ports.any fun l => l.queue.any fun p =>
    isRequestClass (hClass p.hdr.toNat) && hTag p.hdr.toNat == f.tag

/-- The packets of a request that still wait in a queue are taken out (R446). -/
def State.unqueue (s : State) (f : FReq) : State :=
  { s with dies := s.dies.map fun d : Die => { d with ports := d.ports.map fun l : Link =>
      { l with queue := l.queue.filter fun p => !(isRequestClass (hClass p.hdr.toNat) && hTag p.hdr.toNat == f.tag && p.left == packetFlits p.load) } } }

end Sys2Proof.Machine
end

