-- ==== Sys2Proof/Machine/FenceEv.lean ====
section
/-! DEFINITION. The end of a fence and of what waits behind one (10_memory_model.md R231 to R234, 15_barrier.md R342, 16_kernel.md R359, R362). -/
namespace Sys2Proof.Machine
open Sys2Proof

/-- Whether any write of a thread has still to be answered, in the core or in a write-combining entry (R264). -/
def Core.owes (k : Core) (t : TRef) : Bool := !(k.pendingOf t).isEmpty || k.wc.any fun w => w.thrs.contains t

/-- What follows a thread's fence. -/
def State.afterFence (s : State) (t : TRef) (x : Thread) (g : Group) (i : Instr) (next : After) : State :=
  match next with
  | .retire => s.finish t {}
  | .gwmax =>
    if (s.core t.coreRef).owes t then s
    else match i with
      | .gwmax _ d => s.finish t (dRes d x.wctmax)
      | _ => s
  | .send loc =>
    match reqOf t.core x i with
    | some r => s.perform t { x with ph := .none } i none r loc (vaOf g t.rank r.ea)
    | none => s
  | .arrive => s.setThread t { x with ph := .arrive }
  | .push => s.pushNow t x g i
  | .launch => s.launchNow t x g i

/-- Whether a thread waits in a FENCE.pod, or in the fence part of a release of scope .pod (R39). -/
def Thread.podFence (x : Thread) : Bool :=
  match x.ph with
  | .fence sc .. => sc == some .pod
  | _ => false

/-- A fence of scope .pod whose thread's stores have now been performed writes back what they have made dirty (R232, R235); writebacks that could not be
sent are tried again. DEDUCED: log 29. -/
def State.fenceStep (s : State) (t : TRef) (x : Thread) (sc : Option Scope) (seqs : List Nat) (wbs : List (Nat × Bool)) (nxt : After) : State :=
  let more := sc == some .pod && !seqs.isEmpty && s.fenceAnswered t sc seqs
  let wbs := if more then s.podLines t.part else wbs.filter fun w => w.2 || (s.poolLine t.part w.1).anyDirty
  (wbs.filter fun w => !w.2).foldl (fun s w => s.writeBack t.ctxRef w.1 [0, 1])
    (s.setThread t { x with ph := .fence sc (if more then [] else seqs) wbs nxt })

/-- Whether the access of a lower lane of the thread's issue group, at the same place, or its LAUNCH, waits in its fence part too: it comes first (R249,
R362). -/
def State.lowerLane (s : State) (t : TRef) (x : Thread) (nxt : After) : Bool :=
  match nxt with
  | .send loc => s.threads.any fun e => e.1.group == t.group && htidSlice e.2.htid == htidSlice x.htid && e.2.pc == x.pc
      && decide (htidLane e.2.htid < htidLane x.htid) && (match e.2.ph with | .fence _ _ _ (.send l) => l.overlap 16 loc 16 | _ => false)
  | .launch => s.threads.any fun e => e.1.group == t.group && htidSlice e.2.htid == htidSlice x.htid && e.2.pc == x.pc
      && decide (htidLane e.2.htid < htidLane x.htid) && (match e.2.ph with | .fence _ _ _ .launch => true | _ => false)
  | _ => false

/-- Whether a push of a lower logical core or HTID reaches the queue unit now too: it takes effect first (R359). -/
def State.lowerPush (s : State) (t : TRef) (x : Thread) (nxt : After) : Bool :=
  nxt == .push && s.threads.any fun e => e.1.ctxRef == t.ctxRef && decide (e.1.core * 4096 + e.2.htid < t.core * 4096 + x.htid)
    && (match e.2.ph with | .fence sc seqs wbs .push => s.fenceHolds e.1 e.2 sc seqs wbs | _ => false)

/-- FENCE_COMPLETE (R231): the fence part of a thread's instruction is over, or a WPUSH or LAUNCH that waits for room tries again. -/
def execFenceComplete (t : TRef) (s : State) : Out State Fault Refusal :=
  match s.thread? t, s.group? t.group with
  | some x, some g =>
    if !s.ctxRuns t.ctxRef then .next s
    else
      match x.ph, x.cur with
      | .fence sc seqs wbs nxt, some i =>
        if x.podFence && !s.podOk then .next (s.finishTrap t .timelost 0)
        else if s.lowerLane t x nxt || s.lowerPush t x nxt then .next s
        else if s.fenceHolds t x sc seqs wbs && !(sc == some .pod && !seqs.isEmpty) then .next (s.afterFence t x g i nxt)
        else .next (s.fenceStep t x sc seqs wbs nxt)
      | .pushRoom .., _ => .next (s.pushRetry t)
      | .launchRoom .., _ => .next (s.fillLaunch t.ccRef)
      | _, _ => .next s
  | _, _ => .next s

/-- The threads that wait in a fence of scope .pod when the time state leaves DISCIPLINED and HOLDOVER trap TIMELOST (R39). -/
def State.timeLost (s : State) : State :=
  if s.podOk then s
  else (s.threads.filter fun e => e.2.podFence && s.ctxRuns e.1.ctxRef).foldl
    (fun s e => s.finishTrap e.1 .timelost 0) s

end Sys2Proof.Machine
end

