-- ==== Sys2Proof/Machine/TimeEv.lean ====
section
/-! DEFINITION. The time unit and the heartbeats (02_time_base.md R35 to R41, 21_link.md R440). -/
namespace Sys2Proof.Machine
open Sys2Proof

/-! ### Measurements (R37, R38) -/

/-- Step GTIME to the reference, which it leads by o ticks (R35). -/
def Time.stepBy (t : Time) (o : Int) : Time := { t with gtime := BitVec.ofInt 64 ((t.gtime.toNat : Int) - o), slew := 0, slewC := 0 }

/-- Slew the offset out (R35). DEDUCED: log 65. -/
def Time.slewBy (t : Time) (o : Int) : Time := { t with slew := -o, slewC := 0 }

/-- The action correct of R38. -/
def Time.correct (t : Time) (o : Int) : Time := if o < -640 then t.stepBy o else t.slewBy o

/-- A measurement has been taken at this time; it was good or fair. -/
def Time.noted (t : Time) (ok : Bool) : Time := { t with lastAny := t.gtime, lastOk := if ok then t.gtime else t.lastOk }

/-- What the table of R38 makes of a measurement; a move into ACQUIRING begins a new run of good ones. DESIGN CHOICE: log 79. -/
def Time.measured (t : Time) (eps : Nat) (o : Int) : Time :=
  let good := decide (o.natAbs ≤ 320)
  let fair := !good && decide (o.natAbs ≤ eps)
  match t.st with
  | .unset =>
    let t := if t.everAct then t.correct o else t.stepBy o
    { t with st := .acquiring, run := 0 }.noted (good || fair)
  | .acquiring =>
    if good then
      let t := { t with run := t.run + 1 }.noted true
      if 8 ≤ t.run then { t with st := .disciplined } else t
    else ({ t with run := 0 }.correct o).noted fair
  | .disciplined | .holdover =>
    if good || fair then { (t.slewBy o).noted true with st := .disciplined }
    else { t with st := .lost }.noted false
  | .lost => { t.correct o with st := .acquiring, run := 0 }.noted (good || fair)

/-- Entry into LOST: the count, the record, and the fences of scope .pod that wait (R38, R39). -/
def State.enterLost (s : State) : State :=
  (((s.modTime fun t => { t with st := .lost, lostcnt := min 0xFFFF (t.lostcnt + 1) }).mcRecord none .time 1 0 0 0 0)).timeLost

/-- Whether a fabric port may be the time reference: timing packets pass on it (R437). DEDUCED: log 65. -/
def State.refOk (s : State) (port : Nat) : Bool := decide (port < 24) && (s.link (.port (port / 6) (port % 6))).st.passes 2

/-- The default data set comparison of IEEE 1588 (R36): of two grandmasters the one whose attributes come first, of two ways to one the
shorter, then the lower sender. PRESUMED: log 72. -/
def Master.before (a b : Master) : Bool :=
  if a.gm = b.gm then decide (a.steps < b.steps) || (a.steps == b.steps && decide (a.sender < b.sender))
  else decide (a.prio < b.prio) || (a.prio == b.prio && decide (a.gm < b.gm))

/-- The best of some ports by their Announce messages, ties going to the lower physical port (R37). -/
def bestMaster (ms : List (Option Master)) : List Nat → Option (Nat × Master)
  | [] => none
  | p :: ps => match ms.getD p none, bestMaster ms ps with
    | none, r => r
    | some m, none => some (p, m)
    | some m, some (q, n) => if n.before m then some (q, n) else some (p, m)

/-- The fabric ports that are UP, in physical order (R36). -/
def State.upPorts (s : State) : List Nat := (List.range 24).filter fun p => (s.link (.port (p / 6) (p % 6))).st == .up

/-- The port that the best-master comparison names (R36, R37). -/
def State.bestRef (s : State) : Option Nat := (bestMaster s.time.masters s.upPorts).map (·.1)

/-- The port whose measurements count: the reference; the port of the comparison where the reference fails or, in UNSET, where none has been
used (R37). In UNSET a port without an Announce message serves where no port has one. DEDUCED: log 65. -/
def State.measures (s : State) (port : Nat) : Bool :=
  s.refOk port && match s.time.st, s.bestRef with
    | .unset, some b => port == b
    | .unset, none => true
    | _, some b => port == if s.refOk s.time.port then s.time.port else b
    | _, none => port == s.time.port

/-- The offset that the Sync a port received last gives: GTIME at its arrival less the reference's time then (R37, R451). PRESUMED: log 72. -/
def Time.offset (t : Time) (port : Nat) : Option Int :=
  match t.syncs.getD port none, t.delay with
  | some y, some d => if y.used then none else y.t1.map fun t1 => (y.t2.toNat : Int) - t1 - d
  | _, _ => none

/-- The Sync of a port has been measured. -/
def Time.measuredAt (t : Time) (port : Nat) : Time :=
  { t with port := port, syncs := modNth t.syncs port fun y => y.map fun y => { y with used := true } }

/-- PTP_MEASUREMENT (R37, R38, R451): the offset that the messages of a physical port give, which the port's asymmetry register corrects; its port is
the reference. DEDUCED: log 65. -/
def execPtpMeasurement (port : Nat) (offset : Int) (s : State) : Out State Fault Refusal :=
  if s.inReset || !s.measures port || s.time.offset port != some offset then .next s
  else
    let o := offset + (s.time.asym.getD port 0).toInt
    let s := s.modTime fun t => t.measuredAt port
    let t := s.time.measured s.epsilon o
    let s := s.modWhisk fun w => { w with heard := w.heard + (t.gtime - s.time.gtime) }
    .next (if t.st == .lost && s.time.st != .lost then { s with time := t }.enterLost else { s with time := t })

/-- Three Sync intervals of 1/128 s (R38). -/
def syncTicks : Nat := 375000000

def State.syncDue (s : State) : Bool := !s.inReset && decide (s.time.lastAny.toNat + syncTicks ≤ s.time.gtime.toNat)

/-- The reference that follows one that has failed: the best of the other ports (R37). DEDUCED: log 65. -/
def State.nextRef (s : State) : Nat :=
  ((bestMaster s.time.masters (s.upPorts.filter fun p => p != s.time.port)).map (·.1)).getD s.time.port

/-- SYNC_TIMEOUT (R37, R38): no measurement for three Sync intervals. The row names the next reference, and is that of the best-master comparison.
DESIGN CHOICE: log 2. -/
def execSyncTimeout (next : Nat) (s : State) : Out State Fault Refusal :=
  if !s.syncDue || next != s.nextRef then .next s
  else
    .next ((s.modTime fun t =>
      let t := { t with lastAny := t.gtime, port := next }
      match t.st with
      | .acquiring => { t with run := 0 }
      | .disciplined => { t with st := .holdover }
      | _ => t))

def State.holdoverDue (s : State) : Bool := s.time.st == .holdover && decide (4000 ≤ s.epsilon) && !s.inReset

/-- HOLDOVER_LIMIT (R38): EPSILON has reached 4,000. -/
def execHoldoverLimit (s : State) : Out State Fault Refusal := if s.holdoverDue then .next s.enterLost else .next s

/-! ### Packets of the time unit and the scheduler (R36, R41, R440) -/

/-- Send a packet of class timing or management from a port. -/
def State.sendPlain (s : State) (port op cls : Nat) (load : List Byte) : State :=
  s.enqueue (port / 6) (port % 6) (mkHdr 0 0 0x3FFFF s.pestle.pkg.toNat (port / 6) (port % 6) 1 op cls 0 0 0 0 0) load

/-- DELAY_REQ (R36): a Delay_Req message leaves on the reference port, with a sequence identifier of its own. PRESUMED: log 70. -/
def execDelayReq (s : State) : Out State Fault Refusal :=
  if s.inReset || !s.refOk s.time.port then .next s
  else
    let msg := [(0x01 : Byte), 0x02] ++ beBytes 44 2 ++ [BitVec.ofNat 8 s.time.domain, 0] ++ List.replicate 24 0
      ++ beBytes s.time.seqId.toNat 2 ++ [0x01, 0x7F] ++ List.replicate 10 0
    .next ((s.sendPlain s.time.port 6 2 msg).modTime fun t => { t with seqId := t.seqId + 1, reqOut := true, egress := none })

/-! ### Heartbeats and election (R41) -/

def heartbeatTicks : Nat := 8000000

/-- The ports that may carry a management packet (R437). -/
def State.mgmtPorts (s : State) : List Nat := (List.range 24).filter fun p => (s.link (.port (p / 6) (p % 6))).st.passes 3

/-- HEARTBEAT_SEND (R41): every 500 µs, with the package's identifier and a reference to its report. PRESUMED: log 70. -/
def execHeartbeatSend (s : State) : Out State Fault Refusal :=
  if s.inReset || !s.pestle.booted || decide (s.time.gtime.toNat < s.whisk.lastHb.toNat + heartbeatTicks) then .next s
  else
    let s := s.modWhisk fun w => { w with lastHb := s.time.gtime }
    match s.mgmtPorts with
    | [] => .next s
    | p :: _ =>
      let ref := shaBytes (s.pestle.report.getD [])
      .next (s.sendPlain p 7 3 ([1] ++ List.replicate 7 0 ++ leBytes s.pestle.pkg.toNat 4 ++ ref))

/-- A package whose heartbeats come and whose report this host die has verified. -/
def State.peerLive (s : State) (p : Peer) : Bool := p.good && decide (s.time.gtime.toNat < p.last.toNat + 4 * heartbeatTicks)

def putPeer (l : List Peer) (p : Peer) : List Peer := l.filter (fun q => q.pkg != p.pkg) ++ [p]

/-- Whether the elected scheduler still sends. -/
def State.schedLive (s : State) : Bool :=
  match s.whisk.sched with
  | none => false
  | some p => p == s.pestle.pkg || s.whisk.peers.any fun q => q.pkg == p && s.peerLive q

/-- Some live package whose report is verified is below a PKG. -/
def State.lowerLive (s : State) (pkg : BitVec 18) : Bool := s.whisk.peers.any fun q => decide (q.pkg.toNat < pkg.toNat) && s.peerLive q

/-- HEARTBEAT_RECEIVE (R41): the scheduler is the lowest package whose report is verified. A sender is it when it is below this package and
every live one, and the scheduler is no lower or is silent. DEDUCED: log 73. -/
def execHeartbeatReceive (pkg : BitVec 18) (verified : Bool) (s : State) : Out State Fault Refusal :=
  if s.inReset then .next s
  else
    let s := s.modWhisk fun w => { w with peers := putPeer w.peers { pkg := pkg, last := s.time.gtime, good := verified } }
    let seat := match s.whisk.sched with
      | some p => decide (pkg.toNat ≤ p.toNat) || !s.schedLive
      | none => true
    let s := if verified && seat && decide (pkg.toNat < s.pestle.pkg.toNat) && !s.lowerLive pkg
      then s.modWhisk fun w => { w with sched := some pkg } else s
    .next (if verified && s.whisk.sched == some pkg then s.modWhisk fun w => { w with heard := s.time.gtime } else s)

/-- The newest scheduler epoch this Whisk knows: its own, or the newest it has seen (R41). -/
def Whisk.knownEpoch (w : Whisk) : BitVec 16 :=
  match w.newest with
  | none => w.epoch
  | some n => if 1 ≤ (n - w.epoch).toNat ∧ (n - w.epoch).toNat ≤ 32767 then n else w.epoch

/-- This package takes over: for 4 ms no verified heartbeat of the scheduler has come, four that were missed and 2 ms more, and no lower eligible package
has announced; where none has been elected yet, that time runs from the boot (R41). DEDUCED: log 73. -/
def State.takeoverDue (s : State) : Bool :=
  !s.inReset && s.pestle.booted && !s.lowerLive s.pestle.pkg && s.whisk.sched != some s.pestle.pkg
    && decide (s.whisk.heard.toNat + 8 * heartbeatTicks ≤ s.time.gtime.toNat)

/-- SCHEDULER_TAKEOVER (R41). -/
def execSchedulerTakeover (s : State) : Out State Fault Refusal :=
  if s.takeoverDue then .next (s.modWhisk fun w => { w with sched := some s.pestle.pkg, epoch := w.knownEpoch + 1, heard := s.time.gtime }) else .next s

end Sys2Proof.Machine
end

