-- ==== Sys2Proof/Machine/WhiskEv.lean ====
section
/-! DEFINITION. The Whisk: the timetable, the eligibility mask, staging, the starts and ends of entries, and pre-emption out of turn
(02_time_base.md R41 to R49, 19_context.md R413, R428 to R432, 17_queue.md R385, R391). -/
namespace Sys2Proof.Machine
open Sys2Proof

/-! ### Fields of the messages (R42, R47, R430) -/

def teStart (m : BitVec 256) : Nat := bitsOf m.toNat 63 0
def teQuantum (m : BitVec 256) : Nat := bitsOf m.toNat 95 64
def teCtx (m : BitVec 256) : Nat := bitsOf m.toNat 111 96
def teVdev (m : BitVec 256) : Nat := bitsOf m.toNat 127 112
def teMulti (m : BitVec 256) : Bool := m.getLsbD 128
def tePause (m : BitVec 256) : Bool := m.getLsbD 129
def teEpoch (m : BitVec 256) : BitVec 16 := BitVec.ofNat 16 (bitsOf m.toNat 151 136)
def teWeight (m : BitVec 256) : Nat := bitsOf m.toNat 159 152
def teReserved (m : BitVec 256) : Bool := bitsOf m.toNat 255 160 != 0 || bitsOf m.toNat 135 130 != 0

/-- The end of an entry or of a pre-emption, whose START and QUANTUM stand at the same bits. -/
def teEnd (m : BitVec 256) : Nat := teStart m + 16 * teQuantum m

def peMulti (m : BitVec 256) : Bool := m.getLsbD 144
def peEpoch (m : BitVec 256) : BitVec 16 := BitVec.ofNat 16 (bitsOf m.toNat 143 128)
def peReserved (m : BitVec 256) : Bool := bitsOf m.toNat 255 145 != 0

def mkEffect (m : BitVec 256) : Nat := bitsOf m.toNat 63 0
def mkEpoch (m : BitVec 256) : BitVec 16 := BitVec.ofNat 16 (bitsOf m.toNat 95 80)
def mkBase (m : BitVec 256) : Nat := bitsOf m.toNat 111 96
def mkBits (m : BitVec 256) : BitVec 128 := BitVec.ofNat 128 (bitsOf m.toNat 255 128)
def mkReserved (m : BitVec 256) : Bool := bitsOf m.toNat 127 112 != 0 || bitsOf m.toNat 79 64 != 0 || mkBase m % 128 != 0

/-! ### Epochs and answers (R41, R43) -/

/-- An epoch older than the newest seen. -/
def Whisk.stale (w : Whisk) (e : BitVec 16) : Bool :=
  match w.newest with
  | none => false
  | some n => 1 ≤ (n - e).toNat && (n - e).toNat ≤ 32767

/-- The Whisk's answer to a message; one that passes RESERVED and STALE updates the newest epoch. -/
def State.answerWhisk (s : State) (e : BitVec 16) (code : Nat) : State :=
  s.modWhisk fun w => { w with statuses := code :: w.statuses, newest := if code = 0x08 ∨ code = 0x06 then w.newest else some e }

/-! ### Quanta (R44, R45) -/

def sumTo (n : Nat) (f : Nat → Nat) : Nat := (List.range n).foldl (fun a i => a + f i) 0

/-- The declared bytes of a core: FB of R417. -/
def footBytes (e : Nat) : Nat :=
  let t := 32 * sumTo 6 (fpSlots e)
  256 + 256 * (t / 32) + 160 * t + 32768 * sumTo 6 (fpRows e) + 32768 * fpBanks e + 65536 * fpTiles e + 320 * fpChans e + 32 * fpRings e + 16384

def State.dieBytes (s : State) (x : CtxRef) (d : Nat) : Nat := sumTo 36 fun c => footBytes (s.footprint x (36 * d + c))

/-- The largest sum over the dies of a partition. -/
def State.maxDie (s : State) (p : Nat) (f : Nat → Nat) : Nat := (List.range (s.partDies p).length).foldl (fun a d => max a (f d)) 0

/-- T_min of R45: a context alone, or after itself, fits. -/
def State.tMin (s : State) (out : Option CtxRef) (inc : CtxRef) : Nat :=
  match out with
  | none => 81821
  | some o =>
    if o = inc ∨ s.ctxFits o inc = true then 81821
    else 84000 + (s.maxDie inc.part (fun d => s.dieBytes o d + s.dieBytes inc d) + 479) / 480

/-! ### The table (R43, R46) -/

/-- The partition that holds a context: the lowest formed one in which it exists. DEDUCED: log 55. -/
def State.holder (s : State) (ctx : Nat) : Option Nat :=
  (List.range 4).find? fun p => !(s.partDies p).isEmpty && s.ctxExists { part := p, ctx := ctx }

/-- Every core its directory names lies on a die of the partition (R433). -/
def State.coresThere (s : State) (x : CtxRef) : Bool := (s.directory x).2.all fun d => d.1 < 36 * (s.partDies x.part).length

/-- A context that NOCTX does not refuse. DEDUCED: log 55. -/
def State.nameable (s : State) (x : CtxRef) : Bool :=
  match (s.ctx x).st with
  | .empty | .revoked | .faulted => false
  | .saved => s.coresThere x
  | _ => true

/-- Mask updates due at an instant, applied in the order of their effect and of their acceptance (R47). -/
def applyMask (elig : List Nat) (u : MaskUpd) : List Nat :=
  (elig.filter fun v => v < u.base) ++ ((List.range 128).filter fun i => u.bits.getLsbD i).map (u.base + ·)
    ++ elig.filter fun v => u.base + 128 ≤ v

def Whisk.eligAt (w : Whisk) (now : Nat) : List Nat :=
  (sortBy (fun u : MaskUpd => u.effect.toNat) (w.masks.filter fun u => u.effect.toNat ≤ now)).foldl applyMask w.elig

/-- The context that an entry runs (R46). -/
def State.choose (s : State) (p : Nat) (m : BitVec 256) (now : Nat) : Option Nat :=
  let el := s.whisk.eligAt now
  let own := el.contains (teVdev m)
  if own && teWeight m != 0 then some (teCtx m)
  else
    let best := (s.part p).table.foldl (fun b e =>
      if teWeight e.bits = 0 ∨ el.contains (teVdev e.bits) = false then b
      else match b with
        | some (w, _) => if w < teWeight e.bits then some (teWeight e.bits, teCtx e.bits) else b
        | none => some (teWeight e.bits, teCtx e.bits)) (Option.none : Option (Nat × Nat))
    match best with
    | some b => some b.2
    | none => if own then some (teCtx m) else none

/-- The context of the preceding entry, or the running one (R44). -/
def State.outgoing (s : State) (p start : Nat) : Option CtxRef :=
  match ((s.part p).table.filter fun e => teStart e.bits < start).getLast? with
  | some e => some { part := p, ctx := teCtx e.bits }
  | none => (s.part p).running.map fun r => { part := p, ctx := r }

/-- The context that runs at a later instant, as the table stands. DEDUCED: log 55. -/
def State.runsAt (s : State) (p at' : Nat) : Option CtxRef :=
  match ((s.part p).table.filter fun e => !e.begun && teStart e.bits ≤ at').getLast? with
  | some e => (s.choose p e.bits at').map fun c => { part := p, ctx := c }
  | none => (s.part p).running.map fun r => { part := p, ctx := r }

/-- The status of a timetable entry, and the partition it is for (R43). DEDUCED: log 55. -/
def State.entryStatus (s : State) (m : BitVec 256) : Nat × Nat :=
  if teReserved m then (0x08, 0)
  else if s.whisk.stale (teEpoch m) then (0x06, 0)
  else match s.holder (teCtx m) with
    | none => (0x07, 0)
    | some p =>
      let x : CtxRef := { part := p, ctx := teCtx m }
      let table := (s.part p).table
      if !s.nameable x then (0x07, p)
      else if teQuantum m = 0 then (0x01, p)
      else if 16 * teQuantum m < s.tMin (s.outgoing p (teStart m)) x then (0x02, p)
      else if teStart m < s.time.gtime.toNat + 1600000 then (0x04, p)
      else if table.any fun e => teStart e.bits < teEnd m && teStart m < teEnd e.bits then (0x03, p)
      else if 64 ≤ table.length then (0x05, p)
      else (0x00, p)

/-- TIMETABLE_ENTRY (R43): an accepted entry stands in its table in order of START. -/
def execTimetableEntry (m : BitVec 256) (s : State) : Out State Fault Refusal :=
  if s.inReset then .next s
  else
    let r := s.entryStatus m
    let s := s.answerWhisk (teEpoch m) r.1
    .next (if r.1 = 0 then
        (s.modPart r.2 fun p => { p with table := insertBy (fun e : TEntry => teStart e.bits) { bits := m, begun := false } p.table }).ladleEvent r.2 .table
      else s)

/-- MASK_MESSAGE (R47). -/
def execMaskMessage (m : BitVec 256) (s : State) : Out State Fault Refusal :=
  if s.inReset then .next s
  else
    let code := if mkReserved m then 0x08 else if s.whisk.stale (mkEpoch m) then 0x06
      else if mkEffect m < s.time.gtime.toNat + 1600000 then 0x04 else 0x00
    let s := s.answerWhisk (mkEpoch m) code
    if code = 0 then
      let s := s.modWhisk fun w => { w with masks := w.masks ++ [{ effect := BitVec.ofNat 64 (mkEffect m), base := mkBase m, bits := mkBits m }] }
      .next (((List.range 4).filter fun p => !(s.partDies p).isEmpty).foldl (fun s p => s.ladleEvent p .table) s)
    else .next s

/-- DEDUCED: log 55. -/
def State.maskDue (s : State) : Bool := !s.inReset && s.whisk.masks.any fun u => u.effect.toNat ≤ s.time.gtime.toNat

/-- MASK_EFFECT (R46, R47): the updates whose instant has come are applied. DESIGN CHOICE: log 2. -/
def execMaskEffect (s : State) : Out State Fault Refusal :=
  if !s.maskDue then .next s
  else
    let now := s.time.gtime.toNat
    .next (s.modWhisk fun w => { w with elig := w.eligAt now, masks := w.masks.filter fun u => now < u.effect.toNat })

/-! ### Pre-emption requests (R430) -/

/-- A context that may not pre-empt out of turn: OOT 0, or more than 48 MiB on some die. -/
def State.notOot (s : State) (x : CtxRef) : Bool :=
  !(s.ctx x).ctxsa.getLsbD 62 || 50331648 < s.maxDie x.part (s.dieBytes x)

/-- An accepted pre-emption has not ended; the Whisk takes one at a time. -/
def State.preempting (s : State) : Bool := s.parts.any fun p => p.preempt.isSome

def State.preemptStatus (s : State) (m : BitVec 256) : Nat × Nat :=
  if peReserved m then (0x08, 0)
  else if s.whisk.stale (peEpoch m) then (0x06, 0)
  else match s.holder (teCtx m) with
    | none => (0x07, 0)
    | some p =>
      let x : CtxRef := { part := p, ctx := teCtx m }
      if !s.nameable x then (0x07, p)
      else if s.notOot x then (0x09, p)
      else if s.preempting then (0x0A, p)
      else if teQuantum m = 0 then (0x01, p)
      else if 16 * teQuantum m < s.tMin (s.runsAt p (teStart m)) x then (0x02, p)
      else if teStart m < s.time.gtime.toNat + 16000 then (0x04, p)
      else (0x00, p)

/-- PREEMPTION_REQUEST (R430). -/
def execPreemptionRequest (m : BitVec 256) (s : State) : Out State Fault Refusal :=
  if s.inReset then .next s
  else
    let r := s.preemptStatus m
    let s := s.answerWhisk (peEpoch m) r.1
    .next (if r.1 = 0 then s.modPart r.2 fun p => { p with preempt := some { bits := m, begun := false } } else s)

/-! ### Staging (R428) -/

/-- An entry or a pre-emption for which a context may be staged now. -/
def State.stagesFor (s : State) (x : CtxRef) : Bool :=
  let p := s.part x.part
  let fits := fun o : Option CtxRef => match o with
    | none => true
    | some o => o == x || s.ctxFits o x
  (p.table.any fun e => !e.begun && teCtx e.bits == x.ctx && teStart e.bits ≤ s.time.gtime.toNat + 1600000
      && fits (s.outgoing x.part (teStart e.bits)))
    || (match p.preempt with
        | some e => !e.begun && teCtx e.bits == x.ctx && fits (s.runsAt x.part (teStart e.bits))
        | none => false)

/-- STAGING_START (R413, R416, R428, R433). DEDUCED: log 55. -/
def execStagingStart (x : CtxRef) (s : State) : Out State Fault Refusal :=
  if s.inReset || (s.ctx x).st != .saved || !s.stagesFor x || !s.imageOk x || !s.coresThere x then .next s
  else .next (s.modCtx x fun y => { y with st := .staging, since := s.time.gtime })

/-- STAGING_COMPLETE (R413, R428): an uncorrectable error in the image is a Fault; the image is read into what no context on the cores has declared, and
so nothing that the running context revives is staged. DEDUCED: log 55. -/
def execStagingComplete (x : CtxRef) (s : State) : Out State Fault Refusal :=
  if s.inReset || (s.ctx x).st != .staging || !s.allFit x.part (x :: s.residents x) then .next s
  else
    let r := s.directory x
    .next (if r.1.imageBad x r.2 then r.1.faultCtx x 0x13 else r.1.stageRead x r.2)

/-- Skip an entry or a pre-emption, and log it (R49, R432). -/
def State.skip (s : State) (p : Nat) (m : BitVec 256) : State :=
  (s.modWhisk fun w => { w with skipped := m :: w.skipped }).unstage { part := p, ctx := teCtx m }

/-! ### Starts and ends (R43, R46, R48, R49) -/

def State.markBegun (s : State) (p : Nat) (m : BitVec 256) : State :=
  s.modPart p fun q => { q with table := q.table.map fun e => if e.bits = m then { e with begun := true } else e }

/-- A context the Whisk may bring in, or nothing (R433). -/
def State.target (s : State) (p : Nat) (c : Option Nat) : Option Nat :=
  c.filter fun n => s.nameable { part := p, ctx := n }

/-- Begin an entry: it is recorded, and its context comes in. -/
def State.beginEntry (s : State) (p : Nat) (m : BitVec 256) : State :=
  let s := s.markBegun p m
  let s := s.trace { part := p, ctx := teCtx m } 3 (teStart m) (teCtx m * 2 ^ 16 + teVdev m) 0
  s.switchTo p (s.target p (s.choose p m s.time.gtime.toNat)) (tePause m)

/-- The entry whose START has been reached and not acted on; a pre-emption that has begun covers it (R49). -/
def State.startingEntry (s : State) (p : Nat) : Option (BitVec 256) :=
  let q := s.part p
  if s.inReset || (match q.preempt with | some e => e.begun | none => false) then none
  else (q.table.find? fun e => !e.begun && teStart e.bits ≤ s.time.gtime.toNat && s.time.gtime.toNat < teEnd e.bits).map (·.bits)

/-- ENTRY_START (R48, R49). DESIGN CHOICE: log 2. -/
def execEntryStart (part : Nat) (s : State) : Out State Fault Refusal :=
  match s.startingEntry part with
  | none => .next s
  | some m =>
    if teMulti m && !s.podOk then .next ((s.markBegun part m).skip part m)
    else .next (s.beginEntry part m)

def State.endedEntries (s : State) (p : Nat) : List TEntry := (s.part p).table.filter fun e => teEnd e.bits ≤ s.time.gtime.toNat

/-- ENTRY_END (R43, R49): entries retire at their end, one that never began being skipped. -/
def execEntryEnd (part : Nat) (s : State) : Out State Fault Refusal :=
  if s.inReset then .next s
  else
    let ended := s.endedEntries part
    let s := (ended.filter fun e => !e.begun).foldl (fun s e => s.skip part e.bits) s
    .next (s.modPart part fun q => { q with table := q.table.filter fun e => !ended.contains e })

/-- The pre-emption whose instant has come (R430). -/
def State.startingPreempt (s : State) (p : Nat) : Option (BitVec 256) :=
  match (s.part p).preempt with
  | some e => if !s.inReset && !e.begun && teStart e.bits ≤ s.time.gtime.toNat then some e.bits else none
  | none => none

/-- PREEMPTION_START (R430, R432). -/
def execPreemptionStart (part : Nat) (s : State) : Out State Fault Refusal :=
  match s.startingPreempt part with
  | none => .next s
  | some m =>
    if peMulti m && !s.podOk then .next ((s.modPart part fun q => { q with preempt := none }).skip part m)
    else
      let s := s.modPart part fun q => { q with preempt := some { bits := m, begun := true } }
      .next (s.switchTo part (s.target part (some (teCtx m))) false)

def State.endingPreempt (s : State) (p : Nat) : Option (BitVec 256) :=
  match (s.part p).preempt with
  | some e => if !s.inReset && e.begun && teEnd e.bits ≤ s.time.gtime.toNat then some e.bits else none
  | none => none

/-- The entry whose interval covers this instant, but for one that was skipped. -/
def State.covering (s : State) (p : Nat) : Option TEntry :=
  (s.part p).table.find? fun e => teStart e.bits ≤ s.time.gtime.toNat && s.time.gtime.toNat < teEnd e.bits && !s.whisk.skipped.contains e.bits

/-- PREEMPTION_END (R49, R430): the covering entry resumes, or begins with the time that remains to it, or is skipped; it is tested
at this instant as at a START. DEDUCED: log 55. DESIGN CHOICE: log 78. -/
def execPreemptionEnd (part : Nat) (s : State) : Out State Fault Refusal :=
  match s.endingPreempt part with
  | none => .next s
  | some m =>
    let s := s.modPart part fun q => { q with preempt := none }
    match s.covering part with
    | none => .next (s.switchTo part none false)
    | some e =>
      if e.begun then .next (s.switchTo part (s.target part (s.choose part e.bits s.time.gtime.toNat)) false)
      else
        let short := teEnd e.bits - s.time.gtime.toNat
          < s.tMin (some { part := part, ctx := teCtx m }) { part := part, ctx := teCtx e.bits }
        if short || (teMulti e.bits && !s.podOk) then .next (((s.markBegun part e.bits).skip part e.bits).switchTo part none false)
        else .next (s.beginEntry part e.bits)

end Sys2Proof.Machine
end

