-- ==== Sys2Proof/Machine/LinkEv.lean ====
section
/-! DEFINITION. Links, fabric packets as they arrive, requests without an answer, and the affinity table (21_link.md R436 to R451, 01_package.md
R27, 19_context.md R426). -/
namespace Sys2Proof.Machine
open Sys2Proof

/-! ### Link states (R436, R437) -/

/-- LINK_ENABLE: the enable condition holds for the first time since the link was last disabled. -/
def execLinkEnable (l : LinkRef) (s : State) : Out State Fault Refusal :=
  if s.inReset || !s.linkEnabled l || (s.link l).en then .next s
  else
    .next (s.modLink l fun x =>
      if x.st = .down then { x with en := true, st := .training, since := s.time.gtime, retrains := 0, replays := 0 }
      else { x with en := true, retrains := 0 })

/-- The LANES of the PPT entry that names a physical port. -/
def Die.portLanes (d : Die) (q : Nat) : Nat := ((d.ppt.find? fun e => entryValid e && pptPort e == q).map ppLanes).getD 0

/-- Whether a width is one at which the link's training may end. DEDUCED: log 58. -/
def State.widthOk (s : State) (l : LinkRef) (lanes : BitVec 4) : Bool :=
  match l with
  | .port d q => lanes.toNat == (s.die d).portLanes q && lanes != 0
  | .d2d _ => lanesOk lanes.toNat

/-- The partition of a port is between Drained and Activate. -/
def State.portQuiet (s : State) (l : LinkRef) : Bool :=
  match l with
  | .port d _ => (s.die d).active && (s.part (s.die d).part).drained
  | .d2d _ => false

/-- LINK_TRAINED. DESIGN CHOICE: log 2. -/
def execLinkTrained (l : LinkRef) (lanes : BitVec 4) (s : State) : Out State Fault Refusal :=
  if s.inReset || (s.link l).st != .training || !s.widthOk l lanes then .next s
  else
    .next (s.modLink l fun x => { x with
      lanes := lanes, since := s.time.gtime, replays := 0
      st := if s.portQuiet l then .quiesced else if lanes = 15 then .up else .degraded })

/-- LINK_TRAIN_FAIL: training has not ended within 10 ms. -/
def execLinkTrainFail (l : LinkRef) (s : State) : Out State Fault Refusal :=
  let x := s.link l
  if s.inReset || x.st != .training || decide (s.time.gtime.toNat < x.since.toNat + 160000000) then .next s
  else .next (s.modLink l fun x => { x with st := .down, since := s.time.gtime, lanes := 0 })

/-- LINK_RETRAIN_TIMER: a link whose training failed tries again. -/
def execLinkRetrainTimer (l : LinkRef) (s : State) : Out State Fault Refusal :=
  let x := s.link l
  if s.inReset || x.st != .down || !x.en || !s.linkEnabled l || decide (s.time.gtime.toNat < x.since.toNat + 16000000) then .next s
  else .next (s.modLink l fun x => x.train s.time.gtime)

/-- A link that carries flits. -/
def LSt.flits : LSt → Bool
  | .up | .degraded | .quiesced => true
  | _ => false

/-- FLIT_CRC_REPLAY (R436): a flit is replayed, well or not; the sixteenth failure in a row is a link error. -/
def execFlitCrcReplay (l : LinkRef) (good : Bool) (s : State) : Out State Fault Refusal :=
  if s.inReset || !(s.link l).st.flits then .next s
  else
    .next (s.modLink l fun x =>
      if good then { x with replays := 0 } else if 15 ≤ x.replays then x.train s.time.gtime else { x with replays := x.replays + 1 })

/-- CLOSED_LINK_DISCARD (R26, R27, R499). DEDUCED: log 58. -/
def execClosedLinkDiscard (l : Nat) (s : State) : Out State Fault Refusal :=
  if s.inReset || decide (4 ≤ l) || (s.link (.d2d l)).fwOpen then .next s
  else
    .next ((s.modLink (.d2d l) fun x => { x with fwDrops := min 0xFFFF (x.fwDrops + 1) }).mcRecord none .firewall 1 0 0 0 l)

/-! ### Header fields (R439) -/

def hAddr (h : Nat) : Nat := bitsOf h 223 160
def hOp (h : Nat) : Nat := bitsOf h 103 100
def hCtx (h : Nat) : Nat := bitsOf h 87 72
def hGen (h : Nat) : Nat := bitsOf h 71 64
def hBorn (h : Nat) : Nat := bitsOf h 63 0

/-- A reserved OP or CLASS, or a reserved bit. -/
def hReserved (h : Nat) : Bool :=
  decide (7 < hOp h) || decide (5 < hClass h) || bitsOf h 255 240 != 0 || bitsOf h 117 104 != 0 || bitsOf h 93 88 != 0

/-- A packet discarded on receipt counts (R438, R440, R442, R445). -/
def State.dropAt (s : State) (die port : Nat) : State := s.modLink (.port die port) fun x => { x with drops := min 0xFFFF (x.drops + 1) }

/-! ### Answers (R439, R444, R446, R448) -/

/-- The line of a request may be asked for again. -/
def State.freeReq (s : State) (f : FReq) : State :=
  { s with freqs := s.freqs.filter fun g => g.tag != f.tag }.modPool f.part f.line fun p => { p with req := none }

/-- The operation a request serves takes its answer. -/
def State.answerMop (s : State) (f : FReq) (a : MOp → Ans) : State :=
  match f.mop with
  | some (core, seq) => s.modMop { part := f.part, core := core } seq fun m => { m with ans := a m }
  | none => s

/-- The record of a pooled line at its package home takes a completion time. -/
def State.raisePool (s : State) (f : FReq) (w : DWord) : State :=
  s.modLine ((f.part + 1) * 2 ^ 60 + f.line) fun r => { r with pwct := dmax r.pwct w }

/-- A writeback is over: fences that wait for it go on, and the threads it counts for take its WCT (R231, R232, R270). -/
def State.writtenBack (s : State) (f : FReq) (w : Option DWord) : State :=
  let up := fun x : Thread => match w with | some w => x.raise w | none => x
  let one := fun (t : TRef) (x : Thread) =>
    let x := if f.thrs.contains t then up x else x
    match x.ph with
    | .fence sc seqs wbs nxt =>
      if t.part = f.part ∧ wbs.contains (f.line, true) = true then
        up { x with ph := .fence sc seqs (wbs.filter fun v => v != (f.line, true)) nxt }
      else x
    | _ => x
  { s with threads := s.threads.map fun e : TRef × Thread => (e.1, one e.1 e.2) }

/-- The acknowledgement of a line that the Lid has sent, or of a WR sent before it (R473). -/
def Lid.ack (l : Lid) (part tag : Nat) : Lid :=
  if l.marked then l
  else if l.early.contains (part, tag) then { l with early := l.early.erase (part, tag) }
  else { l with sent := l.sent.map fun e => if e.part = part ∧ e.tag = tag then { e with acked := true } else e }

def State.lidAck (s : State) (f : FReq) : State := { s with lid := s.lid.map fun l => if f.op = opWR then l.ack f.part f.tag else l }

/-- A line whose writeback had to wait for an earlier request is written back now (R232, R444). -/
def State.nextWriteback (s : State) (f : FReq) : State :=
  let p := s.poolLine f.part f.line
  let waits := p.want.isSome || s.threads.any fun e => e.1.part == f.part && (match e.2.ph with
    | .fence _ _ wbs _ => wbs.contains (f.line, false)
    | _ => false)
  if waits && p.anyDirty then s.writeBack { part := f.part, ctx := hCtx f.hdr.toNat } f.line [0, 1] else s

/-- A line read at its pool home: bytes that are not dirty here, and a lease of LEXP less EPSILON, or one read where there is none (R448). -/
def PoolLine.filled (p : PoolLine) (bytes : List Byte) (lexp eps : Nat) : PoolLine :=
  { p with
    bytes := (List.range lineSize).map fun i => if p.dirty.getD i false then p.bytes.getD i 0 else bytes.getD i 0
    key := if p.anyDirty then p.key else 0, have' := [true, true], lease := BitVec.ofNat 64 (if eps = 0xFFFFFFFF then 0 else lexp - eps), once := eps == 0xFFFFFFFF }

/-- DATA answers an RD. DESIGN CHOICE: log 9. -/
def State.dataArrives (s : State) (f : FReq) (load : List Byte) : State :=
  let w : DWord := BitVec.ofNat 64 (leNat ((load.drop 128).take 8))
  let s := (s.freeReq f).modPool f.part f.line fun p => p.filled (load.take 128) (leNat ((load.drop 136).take 8)) s.epsilon
  let s := s.raisePool f w
  (s.answerMop f fun m => .done w (((s.poolLine f.part f.line).bytes.drop (m.loc.addr % lineSize)).take m.size)).nextWriteback f

/-- ACK answers a WR or an ATOM: its ADDR is the WCT. -/
def State.ackArrives (s : State) (f : FReq) (w : DWord) (load : List Byte) : State :=
  let s := (s.freeReq f).raisePool f w
  if f.op = opATOM then
    let s := s.modPool f.part f.line fun p => { p with have' := [false, false] }
    let s := match f.mop with
      | some (core, _) => s.modCore { part := f.part, core := core } fun k => k.l1Drop ((f.part + 1) * 2 ^ 60 + f.line)
      | none => s
    (s.answerMop f fun m => .done w (load.take m.size)).nextWriteback f
  else ((s.writtenBack f (some w)).lidAck f).nextWriteback f

/-- A NACK, or no answer to a resend: the line's sectors are poisoned, and a record is written (R446, R499). -/
def State.requestFails (s : State) (f : FReq) : State :=
  let s := ((s.freeReq f).unqueue f).modPool f.part f.line fun p => { p with poison := [true, true] }
  let s := ((s.answerMop f fun _ => .failed).writtenBack f none).nextWriteback f
  s.mcRecord (some f.part) .fabric 1 (f.line * lineSize) 0 (hCtx f.hdr.toNat) 0

/-- A response that does not match: another generation or context than its request's, or the request of a core for a context that is not on the cores
any more (R426, R442). DEDUCED: log 58. -/
def State.staleAnswer (s : State) (f : FReq) (h : Nat) : Bool :=
  hGen h != (s.ctx { part := f.part, ctx := hCtx h }).gen.toNat || hCtx h != hCtx f.hdr.toNat || (f.held && (s.part f.part).running != some (hCtx h))

/-- A response to an outstanding request. An RD that does not match brings no data (R426, R442). DEDUCED: log 58. -/
def State.answerReq (s : State) (die port : Nat) (f : FReq) (h : Nat) (load : List Byte) : State :=
  let stale := s.staleAnswer f h
  if hOp h = opNACK then s.requestFails f
  else if f.op = opRD then
    if hOp h ≠ opDATA then s.dropAt die port
    else if stale then (s.freeReq f).nextWriteback f
    else s.dataArrives f load
  else if hOp h = opACK then s.ackArrives f (BitVec.ofNat 64 (hAddr h)) load
  else s.dropAt die port

/-- A management message for the Whisk (R43, R440); a heartbeat is taken in at HEARTBEAT_RECEIVE. DEDUCED: log 58. -/
def State.management (s : State) (load : List Byte) : State :=
  let m : BitVec 256 := BitVec.ofNat 256 (leNat ((load.drop 8).take 32))
  let r := match (load.getD 0 0).toNat with
    | 2 => execTimetableEntry m s
    | 3 => execMaskMessage m s
    | 4 => execPreemptionRequest m s
    | _ => .next s
  match r with
  | .next s' => s'
  | _ => s

/-- The data set of an Announce message (R36). PRESUMED: log 72. -/
def masterOf (load : List Byte) : Master :=
  { prio := beNat ((load.drop 47).take 6), gm := beNat ((load.drop 53).take 8), steps := beNat ((load.drop 61).take 2),
    sender := beNat ((load.drop 20).take 10) }

/-- The sequence identifier of a timing message. PRESUMED: log 72. -/
def seqOf (load : List Byte) : BitVec 16 := BitVec.ofNat 16 (beNat ((load.drop 30).take 2))

/-- The correction field of a timing message, in ticks: it counts 2^-16 ns. PRESUMED: log 72. -/
def corrOf (load : List Byte) : Int := signExt (beNat ((load.drop 8).take 8)) 64 / 4096

/-- The timestamp in the body of a timing message, seconds and nanoseconds of the PTP timescale, in ticks of GTIME (R33). PRESUMED: log 72. -/
def Time.stampOf (t : Time) (load : List Byte) : Int :=
  ((beNat ((load.drop 34).take 6) : Int) - t.epoch.toNat) * 16000000000 + 16 * (beNat ((load.drop 40).take 4) : Int)

/-- A Sync of one or two steps; its Follow_Up may have come before it (R36, R451). PRESUMED: log 72. -/
def Time.syncArrives (t : Time) (p : Nat) (load : List Byte) : Time :=
  let t1 : Option Int :=
    if (load.getD 6 0).getLsbD 1 then ((t.follows.getD p none).filter fun f => f.1 == seqOf load).map fun f => f.2 + corrOf load
    else some (t.stampOf load + corrOf load)
  let y : SyncIn := { seq := seqOf load, t2 := t.gtime, corr := corrOf load, t1 := t1, used := false }
  { t with syncs := modNth t.syncs p fun _ => some y, follows := modNth t.follows p fun _ => none }

/-- A Follow_Up completes the Sync of its sequence identifier, or waits for it (R451). PRESUMED: log 72. -/
def Time.followArrives (t : Time) (p : Nat) (load : List Byte) : Time :=
  let v := t.stampOf load + corrOf load
  match t.syncs.getD p none with
  | some y =>
    if y.seq = seqOf load ∧ y.t1.isNone = true then { t with syncs := modNth t.syncs p fun _ => some { y with t1 := some (v + y.corr) } }
    else { t with follows := modNth t.follows p fun _ => some (seqOf load, v) }
  | none => { t with follows := modNth t.follows p fun _ => some (seqOf load, v) }

/-- A Delay_Resp that answers the Delay_Req sent last gives the path delay, half the time of the way there and back (R36, R451). PRESUMED: log 72. -/
def Time.respArrives (t : Time) (p : Nat) (load : List Byte) : Time :=
  if seqOf load + 1 ≠ t.seqId ∨ t.reqOut = false then t
  else
    let t := { t with reqOut := false }
    match t.egress, (t.syncs.getD p none).bind fun y => y.t1.map fun t1 => (y.t2.toNat : Int) - t1 with
    | some t3, some d => { t with delay := some ((d + (t.stampOf load - corrOf load - t3.toNat)) / 2) }
    | _, _ => t

/-- A timing message of the chosen domain: Sync, Follow_Up, Delay_Resp, or an Announce message, whose data set its port keeps (R36, R451).
PRESUMED: log 72. -/
def State.timing (s : State) (die port : Nat) (load : List Byte) : State :=
  if (load.getD 4 0).toNat ≠ s.time.domain then s
  else match (load.getD 0 0).toNat % 16 with
    | 0 => s.modTime fun t => t.syncArrives (die * 6 + port) load
    | 8 => s.modTime fun t => t.followArrives (die * 6 + port) load
    | 9 => s.modTime fun t => t.respArrives (die * 6 + port) load
    | 11 => s.modTime fun t => { t with masters := modNth t.masters (die * 6 + port) fun _ => some (masterOf load) }
    | _ => s

/-- FABRIC_PACKET_RECEIVE (R426, R440, R442, R445). DEDUCED: log 58. -/
def execFabricPacketReceive (die port : Nat) (hdr : BitVec 256) (payload : List Byte) (s : State) : Out State Fault Refusal :=
  let h := hdr.toNat
  let cls := hClass h
  if (s.inReset && s.lid.isNone) || !(s.link (.port die port)).st.flits then .next s
  else if hReserved h || (s.podOk && decide (hBorn h + 16000000 < s.time.gtime.toNat)) then .next (s.dropAt die port)
  else if cls = 2 then .next (if hOp h = opTIME then s.timing die port payload else s.dropAt die port)
  else if cls = 3 then .next (if hOp h = opMGMT then s.management payload else s.dropAt die port)
  else if !(s.die die).active || hPart h != (s.die die).part then .next (s.dropAt die port)
  else if cls ≠ 1 then .next s
  else
    match s.freqs.find? fun f => f.tag == hTag h && f.part == hPart h && (f.die == hSdie h || f.via.1 == hSdie h) with
    | none => .next (s.dropAt die port)
    | some f => .next (s.answerReq die port f h payload)

/-! ### Requests without an answer (R446) -/

/-- A header sent again, by another die or port; its new BORN is set at its first flit. -/
def resendHdr (h die port : Nat) : BitVec 256 := BitVec.ofNat 256 (h / 2 ^ 124 * 2 ^ 124 + die % 4 * 2 ^ 122 + port % 8 * 2 ^ 119 + h % 2 ^ 119)

/-- The port of a resend (R446): of the other ports the one that R449 names, or the same where there is no other. DEDUCED: log 10. -/
def State.resendPort (s : State) (f : FReq) : Nat × Nat :=
  let h := f.hdr.toNat
  let cls := hClass h
  let home := s.placeDie f.part (.mem (f.line * lineSize) 0 0 true)
  let aff := if cls = 4 then (s.affinityPort f.part home (bitsOf h 159 142)).filter fun p => s.reaches f.part home p.1 else none
  let all := if cls = 5 then ((s.partDies f.part).filter fun d => s.reaches f.part home d).flatMap fun d => s.livePorts d
    else s.requestPorts f.part home
  let best := fun l : List (Nat × Nat) =>
    if cls = 5 then bestPort (fun p => ((s.link (.port p.1 p.2)).credits.getD 5 0 : Int)) l else s.fewestQueued l
  ((aff.filter fun p => p != f.via).or (best (all.filter fun p => p != f.via))).getD f.via

/-- A partition's context drains (R446). -/
def State.draining (s : State) (part : Nat) : Bool := s.ctxs.any fun e => e.1.part == part && e.2.st == .halting

def State.reqAt (s : State) (die : Nat) (tag : BitVec 16) : Option FReq := s.freqs.find? fun f => f.die == die && f.tag == tag.toNat

/-- FABRIC_REQUEST_TIMEOUT: one resend, 32,000,000 ticks after the first send. -/
def execFabricRequestTimeout (die : Nat) (tag : BitVec 16) (s : State) : Out State Fault Refusal :=
  match s.reqAt die tag with
  | none => .next s
  | some f =>
    if s.inReset || f.resent.isSome || s.isQueued f || decide (s.time.gtime.toNat < f.sent.toNat + 32000000) then .next s
    else
      let p := s.resendPort f
      let hdr := resendHdr f.hdr.toNat p.1 p.2
      let s := { s.enqueue p.1 p.2 hdr f.load with
        freqs := s.freqs.map fun g : FReq => if g.tag = f.tag then { g with resent := some s.time.gtime, via := p, hdr := hdr } else g }
      .next (if s.draining f.part then s.mcRecord (some f.part) .fabric 0 (f.line * lineSize) 0 (hCtx hdr.toNat) 0 else s)

/-- FABRIC_RESEND_TIMEOUT: no answer 32,000,000 ticks after the resend, which counts from its first flit, or from when it was queued where its port sends
none. DEDUCED: log 58. -/
def execFabricResendTimeout (die : Nat) (tag : BitVec 16) (s : State) : Out State Fault Refusal :=
  match s.reqAt die tag with
  | none => .next s
  | some f =>
    match f.resent with
    | none => .next s
    | some t => if s.inReset || decide (s.time.gtime.toNat < t.toNat + 32000000) then .next s else .next (s.requestFails f)

/-! ### The affinity table (R450) -/

/-- The active bank has flipped on every die. -/
def State.flipAff (s : State) (part : Nat) : State := s.modPart part fun p => { p with affAct := !p.affAct, affPend := false }

/-- The GTIME of every die of the partition has reached the flip. DEDUCED: log 59. -/
def State.affDue (s : State) (part : Nat) : Bool :=
  (s.part part).affPend && ((s.partDies part).all fun d => decide ((s.part part).affsw.toNat ≤ (s.dieTime d).toNat)) && !s.inReset

/-- AFFSW_WRITE: a time already past flips the bank at once. -/
def execAffswWrite (part : Nat) (swt : DWord) (s : State) : Out State Fault Refusal :=
  if s.inReset then .next s
  else
    let s := s.modPart part fun p => { p with affsw := swt, affPend := true }
    .next (if s.affDue part then s.flipAff part else s)

/-- AFFINITY_ENTRY_WRITE: a write to the active bank is ignored. DEDUCED: log 59. -/
def execAffinityEntryWrite (part : Nat) (bank : Bool) (idx : BitVec 6) (val : Byte) (s : State) : Out State Fault Refusal :=
  if s.inReset || bank == (s.part part).affAct || (s.partDies part).any fun d => bank == s.affActive part d then .next s
  else
    .next (s.modPart part fun p => { p with
      aff := modNth p.aff (if bank then 1 else 0) fun b => modNth b idx.toNat fun _ => val &&& 0x9F })

/-- AFFINITY_FLIP. -/
def execAffinityFlip (part : Nat) (s : State) : Out State Fault Refusal := if s.affDue part then .next (s.flipAff part) else .next s

end Sys2Proof.Machine
end

