-- ==== Sys2Proof/Machine/PowerEv.lean ====
section
/-! DEFINITION. Slice clocks, core voltage, the governor, byte budgets, energy, timing errors and bank power (22_power.md R454 to R471,
05_group.md R133 to R135, 11_memory_instructions.md R254, 14_matrix.md R318). -/
namespace Sys2Proof.Machine
open Sys2Proof

/-! ### PWRCTL and voltage (R455, R462) -/

def pwNfix (p : DWord) : Nat := bitsOf p.toNat 4 0
def pwVtrim (p : DWord) : Int := signExt (bitsOf p.toNat 15 8) 8
def pwNmin (p : DWord) : Nat := bitsOf p.toNat 20 16
def pwNmax (p : DWord) : Nat := bitsOf p.toNat 28 24
def pwGov (p : DWord) : Bool := p.getLsbD 31
def pwLimit (p : DWord) : Nat := bitsOf p.toNat 47 32

/-- Vs(n) in mV (R455). -/
def vsOf (n : Nat) : Int := 550 + 25 * ((n : Int) - 4)

/-- VT for the ratios of a core's slices (R455). -/
def vtOf (ns : List Nat) (trim : Int) : Int := ns.foldl (fun m n => max m (vsOf n)) 600 + 5 * trim

/-- The allowed range of R455. -/
def vtOk (v : Int) : Bool := decide (550 ≤ v) && decide (v ≤ 900)

/-- Whether a core exists on a partition that is formed. -/
def State.coreUp (s : State) (c : CoreRef) : Bool := s.coreValid c.part c.core && !s.inReset

/-- Machine-check records of class power (R458, R470, R499). -/
def State.powerRecord (s : State) (c : CoreRef) (synd : Int) : State :=
  s.mcRecord (some c.part) .power 0 0 (synd % 2 ^ 64).toNat 0 (coreUnit c.core)

/-- A request that is denied (R458). DEDUCED: log 64. -/
def State.deny (s : State) (c : CoreRef) (vt : Int) : State :=
  (s.modCore c fun k => { k with deny := min 255 (k.deny + 1) }).powerRecord c vt

/-! ### Steps of the governor (R456, R457) -/

/-- The ticks from a command to the first edge of a slice's clock after it: at most one slice cycle. Where in the cycle the command falls is free.
DEDUCED: log 64. -/
def edgeTicks (n free : Nat) : Nat := 1 + free % ceilCycles ((15 + n) / n)

/-- A slice begins to switch: from its first clock edge on it holds its clock for 228 ticks (R457). -/
def Slice.switch (x : Slice) (now : DWord) (free n : Nat) : Slice := { x with tgt := n, hold := some (now + BitVec.ofNat 64 (edgeTicks x.n free + 228)) }

/-- VCUR: a ramp under way has slewed 1 mV in every 640 ticks (R455). DEDUCED: log 64. -/
def Core.vnow (k : Core) (now : DWord) : Nat :=
  match k.rampAt with
  | none => k.vcur
  | some a =>
    let d := (now.toNat - a.toNat) / 640
    if k.vcur ≤ k.vtgt then min k.vtgt (k.vcur + d) else max k.vtgt (k.vcur - d)

/-- Begin a ramp from where the voltage stands; none is needed where it stands at its target (R455). DEDUCED: log 64. -/
def Core.ramp (k : Core) (now : DWord) (v : Nat) : Core :=
  { k with vcur := k.vnow now, vtgt := v, rampAt := if v = k.vnow now then none else some now }

/-- With VOK, the slices whose raise waited for it switch (R456 item 2). -/
def Core.raiseAll (k : Core) (now : DWord) (free : Nat → Nat) : Core :=
  if k.rampAt.isSome then k
  else { k with raises := [], slices := k.raises.foldl (fun l r => modNth l r.1 fun x => x.switch now (free r.1) r.2) k.slices }

/-- A fall in voltage begins once no slice is switching (R456 item 3). -/
def Core.settle (k : Core) (now : DWord) : Core :=
  match k.lower with
  | some v => if k.slices.any fun x => x.hold.isSome then k else { k.ramp now v with lower := none }
  | none => k

/-- Give each slice its new ratio: falls, and raises that need no more than VCUR, switch at once; the others wait for VOK (R456). -/
def Core.step (k : Core) (now : DWord) (free : Nat → Nat) (ns : List Nat) (vt : Option Nat) : Core :=
  let trim := pwVtrim k.pwrctl
  let go := fun (x : Slice) (n : Nat) => n != x.n && (decide (n < x.n) || decide (vsOf n + 5 * trim ≤ k.vcur))
  let rows := (k.slices.zip ns).zip (List.range 6)
  let slices := rows.map fun e => if go e.1.1 e.1.2 then e.1.1.switch now (free e.2) e.1.2 else { e.1.1 with tgt := e.1.2 }
  let later := rows.filterMap fun e => if e.1.2 != e.1.1.n && !go e.1.1 e.1.2 then some (e.2, e.1.2) else none
  let k := { k with slices := slices, raises := later }
  match vt with
  | none => k
  | some v => if k.vcur < v then k.ramp now v else if v < k.vcur then { k with lower := some v }.settle now else k

/-- A step under way (R463). -/
def Core.stepping (k : Core) : Bool :=
  k.slices.any (fun x => x.hold.isSome) || !k.raises.isEmpty || k.lower.isSome || k.rampAt.isSome

/-- The free places of the next switches of a core's slices in their cycles, one each. -/
def State.edges (s : State) (sl : Nat) : Nat := (Config.freeWord (s.fresh + sl)).toNat

/-- A core's clocks or voltage step, with free edges of its slices. -/
def State.power (s : State) (c : CoreRef) (f : (Nat → Nat) → Core → Core) : State :=
  { s.modCore c (f s.edges) with fresh := s.fresh + 6 }

/-- The ratio a row of R463 gives a slice, clamped. -/
def Slice.decide (x : Slice) (p : DWord) : Nat :=
  let iss := bitsOf x.stall.toNat 31 24
  let mem := bitsOf x.stall.toNat 23 16
  let eng := bitsOf x.stall.toNat 15 8
  let n := if !pwGov p then pwNfix p
    else if 16 ≤ x.repl then x.n - 2
    else if mem < 64 ∧ 160 ≤ iss + eng then x.n + 2
    else if iss + eng < 64 then x.n - 2
    else x.n
  max (pwNmin p) (min (pwNmax p) n)

/-- A raise that alone would need more than 900 mV: it is denied, and its slice keeps its ratio (R458). DEDUCED: log 64. -/
def Slice.granted (x : Slice) (trim : Int) (n : Nat) : Nat := if x.n < n ∧ 900 < vsOf n + 5 * trim then x.n else n

/-- The governor's step, with its denials (R458, R463). DEDUCED: log 64. -/
def State.govern (s : State) (c : CoreRef) : State :=
  let k := s.core c
  let now := s.coreTime c
  let trim := pwVtrim k.pwrctl
  let ns := k.slices.map fun x => x.decide k.pwrctl
  let vt := vtOf ns trim
  if vtOk vt then s.power c fun free k => k.step now free ns (some vt.toNat)
  else
    let ns := (k.slices.zip ns).map fun e => e.1.granted trim e.2
    let v := vtOf ns trim
    (s.deny c vt).power c fun free k => k.step now free ns (if vtOk v then some v.toNat else none)

/-- A class's ratio in 1/256 (R461). -/
def stallRatio (n all : Nat) : Nat := if all = 0 then 0 else min 255 (256 * n / all)

/-- Latch a sample (R461, R470). -/
def Slice.latch (x : Slice) : Slice :=
  { x with
    stall := BitVec.ofNat 32 (stallRatio x.cIss x.cAll * 2 ^ 24 + stallRatio x.cMem x.cAll * 2 ^ 16 + stallRatio x.cEng x.cAll * 2 ^ 8)
    repl := min 255 x.det, det := 0, cIss := 0, cMem := 0, cEng := 0, cAll := 0 }

/-- Whether the governor may step: some context is ACTIVE on the core (R459). -/
def State.mayGovern (s : State) (c : CoreRef) : Bool :=
  match (s.part c.part).running with
  | some x => (s.ctx { part := c.part, ctx := x }).st == .active
  | none => false

def State.sampleDue (s : State) (c : CoreRef) : Bool := s.coreUp c && decide ((s.core c).sampleAt < (s.coreTime c).toNat / 160000)

/-- GOVERNOR_SAMPLE (R461, R463). -/
def execGovernorSample (c : CoreRef) (s : State) : Out State Fault Refusal :=
  if !s.sampleDue c then .next s
  else
    let s := s.modCore c fun k => { k with sampleAt := (s.coreTime c).toNat / 160000, slices := k.slices.map Slice.latch }
    .next (if (s.core c).stepping || !s.mayGovern c then s else s.govern c)

def State.rampOver (s : State) (c : CoreRef) : Bool :=
  s.coreUp c && (s.core c).rampAt.isSome && (s.core c).vnow (s.coreTime c) == (s.core c).vtgt

/-- VOLTAGE_RAMP_DONE (R455, R456): VOK. DEDUCED: log 64. -/
def execVoltageRampDone (c : CoreRef) (s : State) : Out State Fault Refusal :=
  if s.rampOver c then .next (s.power c fun free k => { k with vcur := k.vtgt, rampAt := none }.raiseAll (s.coreTime c) free) else .next s

def State.holdOver (s : State) (c : CoreRef) (sl : Nat) : Bool :=
  s.coreUp c && match (s.core c).slices[sl]? with
    | some x => match x.hold with
      | some d => decide (d.toNat ≤ (s.coreTime c).toNat)
      | none => false
    | none => false

/-- SLICE_HOLD_END (R457). -/
def execSliceHoldEnd (c : CoreRef) (slice : Nat) (s : State) : Out State Fault Refusal :=
  if s.holdOver c slice then
    .next (s.modCore c fun k =>
      { k with slices := modNth k.slices slice fun x => { x with n := x.tgt, hold := none } }.settle (s.coreTime c))
  else .next s

/-- VT changes with VTRIM: the voltage ramps to it from where it stands, downwards only once no slice is switching (R455, R456). DEDUCED: log 64. -/
def Core.retrim (k : Core) (now : DWord) (free : Nat → Nat) (v : Nat) : Core :=
  let h := if v < k.vnow now ∧ (k.slices.any fun x => x.hold.isSome) then
      { k with vcur := k.vnow now, vtgt := k.vnow now, rampAt := none, lower := some v }
    else { k.ramp now v with lower := none }
  h.raiseAll now free

/-- PWRCTL_WRITE (R458, R462). DEDUCED: log 64. -/
def execPwrctlWrite (c : CoreRef) (val : DWord) (s : State) : Out State Fault Refusal :=
  let ok := fun n : Nat => decide (4 ≤ n) && decide (n ≤ 16)
  if !s.coreUp c || !(ok (pwNfix val) && ok (pwNmin val) && ok (pwNmax val)) || decide (pwNmax val < pwNmin val) then .next s
  else
    let val := val &&& 0x0000FFFF9F1FFF1F#64
    let k := s.core c
    let ns := k.slices.map fun x => x.tgt
    let vt := vtOf ns (pwVtrim val)
    if bitsOf val.toNat 15 8 = bitsOf k.pwrctl.toNat 15 8 then .next (s.modCore c fun k => { k with pwrctl := val })
    else if vtOk vt then
      .next (s.power c fun free k => { k with pwrctl := val }.retrim (s.coreTime c) free vt.toNat)
    else
      .next ((s.deny c vt).modCore c fun k => { k with pwrctl := (val &&& ~~~0xFF00#64) ||| (k.pwrctl &&& 0xFF00#64) })

/-! ### Byte budgets and energy (R464 to R466) -/

def State.intervalDue (s : State) (c : CoreRef) : Bool := s.coreUp c && decide ((s.core c).budgetAt < (s.coreTime c).toNat / 16000)

/-- What an interval boundary leaves of C (R464). -/
def Core.charge (k : Core) : Nat := if pwLimit k.pwrctl = 0 then 0 else k.bytes - 64 * pwLimit k.pwrctl

/-- BUDGET_INTERVAL (R464, R466): `energy` is the interval's metered energy in units of 2⁻²⁰ µJ. DESIGN CHOICE: log 52. -/
def execBudgetInterval (c : CoreRef) (energy : Nat) (s : State) : Out State Fault Refusal :=
  if !s.intervalDue c then .next s
  else
    .next (s.modCore c fun k =>
      let e := k.erem + energy
      let sum := k.energy.toNat + e / 65536
      { k with budgetAt := (s.coreTime c).toNat / 16000, bytes := k.charge, energy := BitVec.ofNat 63 sum,
               wrap := k.wrap || decide (2 ^ 63 ≤ sum), erem := e % 65536 })

/-! ### Timing errors (R468 to R470) -/

/-- The issue group in which a slice may detect an error now: the one whose replay comes next, or the one its next issue round forms. DEDUCED: log 51. -/
def State.errorGroup (s : State) (c : CCRef) (slice : Nat) (y : Slice) : List TRef :=
  if !s.issueQ.isEmpty || y.holding (s.coreTime c.coreRef) || 0 < y.stop then []
  else if y.replays then (if s.ctxRuns c.ctxRef || s.halts c.ctxRef then y.again else [])
  else if s.ctxRuns c.ctxRef && !s.startReached c.coreRef then s.sliceGroup c (s.sliceThreads c slice) y (s.tableNow c slice y) else []

/-- A second detection on one instruction: its slice switches to NMIN before the next replay (R457, R470). -/
def Slice.toMin (z : Slice) (now : DWord) (free nmin : Nat) : Slice :=
  if z.n = nmin then z else if z.hold.isSome then { z with tgt := nmin } else z.switch now free nmin

/-- TIMING_ERROR_DETECT (R252, R469, R470), before the one execution that the model gives the issue group, which is that of its last replay: a load reads
memory then. DEDUCED: log 51. -/
def execTimingErrorDetect (t : TRef) (s : State) : Out State Fault Refusal :=
  match s.thread? t with
  | none => .next s
  | some x =>
    let sl := htidSlice x.htid
    let c := t.coreRef
    match (s.core c).slices[sl]? with
    | none => .next s
    | some y =>
      let q := s.errorGroup t.ccRef sl y
      if !q.contains t then .next s
      else
        let nmin := pwNmin (s.core c).pwrctl
        let s := s.modSlice c sl fun z => { z with det := z.det + 1, err := some x.pc, stop := 4, again := q }
        let s := if y.err == some x.pc then s.power c fun free k =>
            { k with slices := modNth k.slices sl fun z => z.toMin (s.coreTime c) (free sl) nmin, raises := k.raises.filter fun r => r.1 != sl } else s
        .next (if y.n = nmin then s.powerRecord c 0 else s)

/-- A ramp under way stops where the voltage stands (R475). -/
def Core.stopRamp (k : Core) (now : DWord) : Core := { k with vcur := k.vnow now, rampAt := none }

/-! ### The FIFOs (R460) -/

/-- What a FIFO still holds once it has delivered some of its entries, in order, how many of them being free. -/
def fifoLeft (n free : Nat) : Nat := if n = 0 then 0 else n - free % (n + 1)

/-- The FIFOs of a slice deliver; while its clock is held nothing leaves the return FIFO. DEDUCED: log 85. -/
def Slice.deliver (x : Slice) (now : DWord) (a b : Nat) : Slice :=
  { x with xiq := fifoLeft x.xiq a, xrq := if x.holding now then x.xrq else fifoLeft x.xrq b }

/-- The FIFOs of a core. -/
def Core.deliver (k : Core) (now : DWord) (free : Nat → Nat) : Core :=
  { k with slices := (k.slices.zip (List.range k.slices.length)).map fun e => e.1.deliver now (free (2 * e.2)) (free (2 * e.2 + 1)) }

/-- A core's own place among the free values of a tick. -/
def coreIndex (c : CoreRef) : Nat := 144 * c.part + c.core

/-! ### Bank power -/

/-- Whether every thread that holds a live window in a register bank has waited for more than 32,000 ticks, and there is one; and nothing else
keeps the bank (R133, R134). -/
def State.bankIdle (s : State) (c : CoreRef) (b : Nat × Nat × Nat) : Bool :=
  let ts := s.threads.filter fun e => e.1.coreRef == c && e.2.liveAt (s.holding e.1.ccRef) b
  !ts.isEmpty && (ts.all fun e => e.2.st == .wait && s.ctxRuns e.1.ctxRef && decide (e.2.waitFrom.toNat + 32000 < (s.coreTime c).toNat))
    && !(s.groups.any fun e => e.1.coreRef == c && e.2.startsAt (s.holding e.1.ccRef) b) && !s.transferIn c b

/-- REG_BANK_RETENTION (R133). -/
def execRegBankRetention (c : CoreRef) (slice row lane : Nat) (s : State) : Out State Fault Refusal :=
  if s.bankPower c (slice, row, lane) == .full && s.bankIdle c (slice, row, lane) && !s.inReset then
    .next (s.setBank c (slice, row, lane) .retention)
  else .next s

/-- A wake whose time has come. -/
def Power.awake (p : Power) (now : DWord) : Bool :=
  match p with
  | .waking _ d => decide (d.toNat ≤ now.toNat)
  | _ => false

/-- The groups placed on a core start where their banks are awake (R117). -/
def State.startAll (s : State) (c : CCRef) : State :=
  (s.groups.filter fun e => e.1.ccRef == c && e.2.st == .allocated).foldl (fun s e => s.tryStart e.1) s

/-- REG_BANK_WAKE_DONE (R135). -/
def execRegBankWakeDone (c : CoreRef) (slice row lane : Nat) (s : State) : Out State Fault Refusal :=
  if ((s.core c).regPow.getD (slice, row, lane) .off).awake (s.coreTime c) && !s.inReset then
    let s := (s.setBank c (slice, row, lane) .full).settleBank c (slice, row, lane)
    .next (if s.ctxRuns (s.heldBy c).ctxRef then s.startAll (s.heldBy c) else s)
  else .next s

/-- SCR_BANK_RETENTION (R254). -/
def execScrBankRetention (c : CoreRef) (bank : Nat) (s : State) : Out State Fault Refusal :=
  let p := (s.core c).scrPow.getD bank (.off, 0)
  if p.1 == .full && decide (p.2.toNat + 64000 ≤ (s.coreTime c).toNat) && !s.inReset then
    .next (s.modCore c fun k => { k with scrPow := k.scrPow.set bank (.retention, p.2) })
  else .next s

/-- SCR_BANK_WAKE_DONE (R254). -/
def execScrBankWakeDone (c : CoreRef) (bank : Nat) (s : State) : Out State Fault Refusal :=
  let p := (s.core c).scrPow.getD bank (.off, 0)
  if p.1.awake (s.coreTime c) && !s.inReset then
    let s := s.modCore c fun k => { k with scrPow := k.scrPow.set bank (.full, p.2) }
    .next (if s.ctxRuns (s.heldBy c).ctxRef then s.startAll (s.heldBy c) else s)
  else .next s

/-- TILE_WAKE_DONE (R318). -/
def execTileWakeDone (c : CoreRef) (tile : Nat) (s : State) : Out State Fault Refusal :=
  if ((s.core c).tilePow.getD tile .off).awake (s.coreTime c) && !s.inReset then
    .next (s.modCore c fun k => { k with tilePow := k.tilePow.set tile .full })
  else .next s

end Sys2Proof.Machine
end

