-- ==== Sys2Proof/Machine/LidEv.lean ====
section
/-! DEFINITION. The Lid: what leaves for the pool homes when the supply fails, and the markers (22_power.md R472 to R475). From its start the
package stands still (`inReset`), but for the answers of pool nodes, until a cold reset. -/
namespace Sys2Proof.Machine
open Sys2Proof

/-- Step 2 on one core: pooled entries drain, and a pooled store is performed at its package home as soon as it can be; the rest is discarded.
DEDUCED: log 61. -/
def State.lidCore (s : State) (c : CoreRef) : State :=
  let s := s.drainWhere c (fun w => w.loc.pooled) none
  let s := ((s.core c).mops.filter fun m => m.loc.pooled && m.kind.writes).foldl (fun s m => match execStorePerformedAtHome c m.seq false s with
    | .next s' => s'
    | _ => s) s
  s.modCore c fun k => { k with mops := k.mops.filter fun m => m.loc.pooled && m.kind.writes && m.ans == .pending, wc := [] }

/-- Send a line's dirty bytes as a WR over the ports of the die that holds it, and list it (step 3). A line whose earlier request is unanswered has to
wait (R444). DEDUCED: log 61. -/
def State.lidSend (s : State) (part line : Nat) : State :=
  if (s.livePorts (s.placeDie part (.mem (line * lineSize) 0 0 true))).isEmpty then s
  else s.writeBack (s.lastCtx part) line [0, 1]

/-- Step 3: the dirty lines of each partition, in ascending address. -/
def State.lidFlush (s : State) : State :=
  let ls := sortBy (fun e : Nat × Nat => e.2) ((s.pool.filter fun e => e.2.anyDirty).map (·.1))
  ls.foldl (fun s e => s.lidSend e.1 e.2) s

/-- Steps 2 and 3, as far as they can go now. -/
def State.lidStep (s : State) : State := ((s.cores.map (·.1)).foldl State.lidCore s).lidFlush

/-- Ticks for which SUPPLY_WARN must stay asserted before the Lid acts (R472). -/
def warnTicks : Nat := 8000

/-- SUPPLY_WARN (R472, R473): an assertion that has held for 0.5 µs, counted from its edge; steps 1 to 3 of the Lid's sequence. A second assertion has no
effect, and a shorter one is no event. DEDUCED: log 61. -/
def execSupplyWarn (s : State) : Out State Fault Refusal :=
  if s.lid.isSome || s.inReset then .next s
  else
    .next { s with
      lid := some { t0 := s.time.gtime - BitVec.ofNat 64 warnTicks, sent := [], marked := false, marks := [],
                    early := (s.freqs.filter fun f : FReq => f.op == opWR).map fun f : FReq => (f.part, f.tag) },
      inReset := true, issueQ := []
      cores := s.cores.map fun e : CoreRef × Core => (e.1, e.2.stopRamp (s.coreTime e.1)) }.lidStep

/-- The digest of the lines a logical die of a partition has sent. -/
def Lid.digest (l : Lid) (part die : Nat) : List Byte :=
  shaBytes ((l.sent.filter fun e => e.part == part && e.die == die).flatMap fun e => leBytes (e.line * lineSize) 8)

/-- Whether a pooled store of a partition has still to be performed at its package home. -/
def State.lidPending (s : State) (part : Nat) : Bool :=
  s.cores.any fun e => e.1.part == part && e.2.mops.any fun m => m.loc.pooled && m.kind.writes && m.ans == .pending

/-- Every pooled byte that was dirty has been performed at its pool home: no line has been left, and every WR has been acknowledged (R474, R475). -/
def State.lidWhole (s : State) (l : Lid) (part : Nat) : Bool :=
  (l.sent.all fun e => e.part != part || e.acked) && !(l.early.any fun e => e.1 == part) && !s.lidPending part
    && !(s.pool.any fun e => e.1.1 == part && e.2.anyDirty)

/-- The marker of a partition (R474). -/
def State.marker (s : State) (l : Lid) (part : Nat) : List Byte :=
  let x := s.lastCtx part
  let mine := l.sent.filter fun e => e.part == part
  let hash := sha256 ((List.range (s.partDies part).length).flatMap fun d => l.digest part d)
  leBytes (hash * 2 ^ 768 + mine.length % 2 ^ 32 * 2 ^ 288 + (mine.filter fun e => e.acked).length % 2 ^ 32 * 2 ^ 256 + s.time.gtime.toNat * 2 ^ 192
    + s.time.st.code * 2 ^ 93 + (if s.lidWhole l part then 2 ^ 92 else 0) + part % 4 * 2 ^ 88 + (s.ctx x).gen.toNat * 2 ^ 80 + x.ctx % 2 ^ 16 * 2 ^ 64 + 1)
    128

/-- Write the marker of a partition, where its line has no other request under way (R444, R474). DEDUCED: log 61. -/
def State.sendMarker (s : State) (l : Lid) (part : Nat) : State :=
  let line := bitsOf (s.part part).lidaddr.toNat 51 7
  if (s.poolLine part line).req.isSome then s
  else
    let r := s.sendAs (s.lastCtx part) (some 0) line 0 opWR (List.replicate 16 0xFF ++ s.marker l part) none []
    match r.2 with
    | none => s
    | some tag => { r.1.modPool part line fun p => { p with req := some tag } with
        lid := s.lid.map fun l => { l with marks := l.marks.filter fun p => p != part } }

/-- Step 5, for the partitions that have a marker still to be sent. -/
def State.sendMarkers (s : State) : State :=
  match s.lid with
  | none => s
  | some l => l.marks.foldl (fun s p => s.sendMarker l p) s

/-- Nothing is left to await: every line sent and every earlier WR has been answered, and no store has still to reach its home. DEDUCED: log 61. -/
def State.lidSettled (s : State) (l : Lid) : Bool :=
  l.early.isEmpty && (l.sent.all fun e => e.acked) && !((List.range 4).any s.lidPending)

/-- A WR that is abandoned is no request under way any more (R473). -/
def State.abandonWrites (s : State) : State :=
  { s with
    freqs := s.freqs.filter fun f : FReq => f.op != opWR
    pool := s.pool.map fun e : (Nat × Nat) × PoolLine =>
      if s.freqs.any (fun f : FReq => f.op == opWR && f.part == e.1.1 && f.line == e.1.2) then (e.1, { e.2 with req := none }) else e }

/-- LID_ACK_DEADLINE (R473, R474): what can still reach its home or be sent goes out while there is time; at t0 + 1,600,000 a WR without an ACK is
abandoned; then the marker of each partition whose LIDADDR is valid is written. DEDUCED: log 61. -/
def execLidAckDeadline (s : State) : Out State Fault Refusal :=
  match s.lid with
  | none => .next s
  | some l =>
    if l.marked then .next s.sendMarkers
    else
      let late := decide (l.t0.toNat + 1600000 ≤ s.time.gtime.toNat)
      let s := if late then s else s.lidStep
      match s.lid with
      | none => .next s
      | some l =>
        if !late && !s.lidSettled l then .next s
        else
          let marks := (List.range 4).filter fun p => !(s.partDies p).isEmpty && (s.part p).lidaddr.getLsbD 63
          .next { s.abandonWrites with lid := some { l with marked := true, marks := marks } }.sendMarkers

end Sys2Proof.Machine
end

