-- ==== Sys2Proof/Machine/MatrixEv.lean ====
section
/-! DEFINITION. The matrix engine at work: completion of an MMA and of MZERO, MLOAD and MSTORE (14_matrix.md R324 to R331). -/
namespace Sys2Proof.Machine
open Sys2Proof

/-- A cell's number format as an operand (R321). -/
def mmaFmt : MmaKind → FFmt
  | .w => f32
  | _ => bf16

/-- The operand elements of an MMA: rows of A, columns of B, and whether one came from a dead bank. -/
structure Operands where
  rows : List (List FVal)
  cols : List (List FVal)
  dead : Bool

/-- An element is a free value where its tile has been written since its MMA issued (R243, R327). DEDUCED: log 39. -/
def State.operands (s : State) (c : CCRef) (m : Mma) : Operands :=
  let cb := mmaCb m.kind
  let n := cb / 256
  let f := mmaFmt m.kind
  let bad := s.tainted c m.since n (mmaTiles m.kind m.k m.reg.n m.rows m.b)
  let a := (m.rows.zip (List.range m.rows.length)).map fun w => (List.range m.k).map fun k =>
    s.operand c (bad.contains (some (rowPlace w.1))) m.late n (placeAt (rowPlace w.1) m.k cb (rowNum w.1) k) (4 * (w.2 * m.k + k))
  let b := (List.range m.reg.n).map fun j => (List.range m.k).map fun k =>
    s.operand c (bad.contains none) m.late n (placeAt m.b.toNat m.reg.n cb k j) (4 * (m.rows.length * m.k + j * m.k + k))
  { rows := a.map fun r => r.map fun v => f.val v.1, cols := b.map fun r => r.map fun v => f.val v.1,
    dead := (a.any fun r => r.any (·.2)) || b.any fun r => r.any (·.2) }

/-- The MMA at the head of the engine is completed (R324, R325, R330). -/
def State.mmaDone (s : State) (c : CoreRef) (m : Mma) : State :=
  let g : GRef := { part := c.part, ctx := m.ctx, core := c.core, grp := m.grp }
  match s.group? g with
  | none => s.modCore c fun k => { k with mmas := k.mmas.drop 1 }
  | some y =>
    let cc := g.ccRef
    let o := s.operands cc m
    let base := s.fresh + 4 * (m.rows.length * m.k + m.reg.n * m.k)
    let out := (o.rows.zip (List.range o.rows.length)).flatMap fun r => (o.cols.zip (List.range o.cols.length)).map fun q =>
      let row := m.reg.row0 + r.2
      let col := m.reg.col0 + q.2
      let ix := y.cellIx row col
      let c := s.cellAt cc ix
      let v := mmaCell m.kind c.1.toNat r.1 q.1
      (ix, (if m.spoil.any fun p => p.has row col then Config.freeWord (base + r.2 * m.reg.n + q.2) else BitVec.ofNat 32 v.1), v.2 ||| xIf c.2 xDEAD)
    let fl := out.foldl (fun a e => a ||| e.2.2) (xIf o.dead xDEAD)
    let s := { s with fresh := base + m.reg.m * m.reg.n }
    let s := (m.rows.foldl (fun s w => s.touchTile cc (rowPlace w)) (s.touchTile cc m.b.toNat)).putCells cc (out.map fun e => (e.1, e.2.1))
    let s := s.modGroup g fun y => { y with mexc := y.mexc ||| fl }
    (s.modCore c fun k => { k with mmas := k.mmas.drop 1 }).wakeMat cc

/-- The live banks of some tiles are full; those that are not begin their wake, and the engine waits (R254, R336). DEDUCED: log 77. -/
def State.tilesAwake (s : State) (c : CCRef) (places : List Nat) : State × Bool :=
  let bs := (places.flatMap tileBanks).filter fun b => (s.holding c).bankLive b && s.scrPower c.coreRef b != .full
  (bs.foldl (fun s b => s.touchBank c b) s, bs.isEmpty)

/-- MMA_COMPLETE (R325). -/
def execMmaComplete (c : CoreRef) (s : State) : Out State Fault Refusal :=
  match (s.core c).mmas with
  | [] => .next s
  | m :: _ =>
    let q := s.tilesAwake { part := c.part, ctx := m.ctx, core := c.core } (m.b.toNat :: m.rows.map rowPlace)
    .next (if q.2 then q.1.mmaDone c m else q.1)

/-- Cells written by MZERO or MLOAD: free where a completed MMA that no MWAIT covers holds them, and noted for the MMAs still under way
(R327). -/
def State.writeCells (s : State) (g : GRef) (y : Group) (reg : Region) (vals : List Word) : State :=
  let k := s.core g.coreRef
  let done := y.uncov.filter fun u => !k.mmas.any fun m => m.seq == u.seq
  let cells := (reg.cells.zip vals).zip (List.range vals.length)
  let l := cells.map fun e =>
    (y.cellIx e.1.1.1 e.1.1.2, if done.any fun u => u.reg.has e.1.1.1 e.1.1.2 then Config.freeWord (s.fresh + e.2) else e.1.2)
  let s := { s with fresh := s.fresh + vals.length }
  let s := s.putCells g.ccRef l
  s.modCore g.coreRef fun k => { k with mmas := k.mmas.map fun m =>
    if m.ctx = g.ctx ∧ m.grp = g.grp ∧ m.reg.overlaps reg then { m with spoil := m.spoil ++ [reg] } else m }

/-- What MSTORE writes for a cell, and its exceptions (R331). -/
def storeCell (cell : MCell) (v : Word) : Nat × BitVec 5 :=
  match cell with
  | .f32 | .i32 => (v.toNat, 0)
  | .bf16 => let r := f2f bf16 f32 .rn false v.toNat; (r.code, xIf (r.flags &&& fOF != 0) xOF)
  | .sli => let r := sliOfF32 v.toNat; (r.code, xIf (r.flags &&& lxS != 0) xLXS)

/-- MSTORE's effect. -/
def State.storeCells (s : State) (g : GRef) (y : Group) (cell : MCell) (reg : Region) (place : Word) : State :=
  let n := (mcellCb cell) / 256
  let cells := reg.cells.zip (List.range reg.cells.length)
  let out := cells.map fun e =>
    let row := e.1.1
    let col := e.1.2
    let v := if y.mlive.getLsbD reg.tile then s.cellAt g.ccRef (y.cellIx row col) else (0, false)
    let r := storeCell cell v.1
    let free := y.uncov.any fun u => u.reg.has row col
    (placeAt place.toNat reg.n (mcellCb cell) (row - reg.row0) (col - reg.col0),
      (if free then leBytes (Config.freeWord (s.fresh + e.2)).toNat n else leBytes r.1 n), if free then 0 else r.2 ||| xIf v.2 xDEAD)
  let q := { s with fresh := s.fresh + reg.cells.length }.takeSeq g.coreRef
  let s := out.foldl (fun s e => s.scrLand g.ccRef e.1 e.2.1 (stampOf q.1 0 (groupTag g.grp))) q.2
  s.modGroup g fun y => { y with mexc := out.foldl (fun a e => a ||| e.2.2) y.mexc }

/-- MLOAD's effect. -/
def State.loadCells (s : State) (g : GRef) (y : Group) (reg : Region) (place : Word) : State :=
  let l := (reg.cells.zip (List.range reg.cells.length)).map fun e =>
    s.operand g.ccRef false (fun _ => false) 4 (placeAt place.toNat reg.n 1024 (e.1.1 - reg.row0) (e.1.2 - reg.col0)) (4 * e.2)
  let s := { s with fresh := s.fresh + 4 * l.length }.touchTile g.ccRef place.toNat
  (s.writeCells g y reg (l.map fun v => BitVec.ofNat 32 v.1)).modGroup g fun y => { y with mexc := y.mexc ||| xIf (l.any (·.2)) xDEAD }

/-- The effect of the matrix instruction a thread waits for. -/
def State.matEffect (s : State) (t : TRef) (x : Thread) (y : Group) : State :=
  match x.cur with
  | some (.mzero _ a) =>
    let reg := regionOf (x.rd a)
    s.writeCells t.group y reg (List.replicate (reg.m * reg.n) 0)
  | some (.mload _ _ a b) => s.loadCells t.group y (regionOf (x.rd a)) (x.rd b)
  | some (.mstore _ cell a b) => s.storeCells t.group y cell (regionOf (x.rd a)) (x.rd b)
  | _ => s

/-- The tile that the matrix instruction a thread waits for reads. -/
def Thread.loadTile (x : Thread) : List Nat :=
  match x.cur with
  | some (.mload _ _ _ b) => [(x.rd b).toNat]
  | _ => []

/-- MATRIX_OP_COMPLETE (R331). -/
def execMatrixOpComplete (t : TRef) (s : State) : Out State Fault Refusal :=
  match s.thread? t, s.group? t.group with
  | some x, some y =>
    if x.ph = .matOp ∧ s.returnFull t = false then
      let q := s.tilesAwake t.ccRef x.loadTile
      .next (if q.2 then ((q.1.matEffect t x y).finish t {}).wakeMat t.ccRef else q.1)
    else .next s
  | _, _ => .next s

end Sys2Proof.Machine
end

