-- ==== Sys2Proof/Machine/Clock.lean ====
section
/-! DEFINITION. The passing of one tick of global time (R33, R35) and the events whose instant is exact (log 1). What becomes due at a tick
goes on the agenda and happens before the next free choice; each event checks its own condition again. -/
namespace Sys2Proof.Machine
open Sys2Proof

/-- An event, where its condition holds. DESIGN CHOICE: log 2. -/
def ifDue (b : Bool) (d : Due) : List Due := if b then [d] else []

/-- Events of the time unit and of the Whisk. DESIGN CHOICE: log 6. -/
def State.timeDue (s : State) : List Due :=
  ifDue s.holdoverDue .holdoverLimit ++ ifDue s.syncDue .syncTimeout ++ ifDue s.takeoverDue .schedulerTakeover
    ++ ifDue (s.pestle.booted && !s.inReset && decide (s.whisk.lastHb.toNat + heartbeatTicks ≤ s.time.gtime.toNat)) .heartbeatSend
    ++ ifDue s.maskDue .maskEffect

/-- What a drain awaits of a core, in the order of its numbers: stores and atomics at their homes, their answers, and MMAs (R425). -/
def State.drainCoreDue (s : State) (x : CtxRef) (c : CoreRef) : List Due :=
  let ms := ((s.core c).mops.filter fun m => m.thr.ctxRef == x && !m.replays).map (·.seq)
  ms.map (.storePerformedAtHome c ·) ++ ms.map (.storeAnswer c ·) ++ ms.map (.atomicAnswer c ·)
    ++ ((s.core c).mmas.filter fun m => m.ctx == x.ctx).map fun _ => .mmaComplete c

/-- The slices of a context's cores that have not issued since it was activated. -/
def State.firstRounds (s : State) (x : CtxRef) : List Due :=
  (s.ctxCores x).flatMap fun c => ((List.range 6).filter fun sl => ((s.core c).slices[sl]?).any fun y => y.table.isEmpty
    && (s.threads.any fun e => e.1.coreRef == c && e.1.ctx == x.ctx && htidSlice e.2.htid == sl && s.canIssue e.1 e.2)).map fun sl => .issueRound c sl

/-- A bound of R45 on the bytes of a context's footprint on one die, at 480 bytes a tick. -/
def State.byteTicks (s : State) (x : CtxRef) : Nat := (s.maxDie x.part (s.dieBytes x) + 479) / 480

/-- The steps of a switch at the latest instant that the bounds of R45 and R431 leave them: a halt 32,000 ticks after its instant, a drain 48,000 ticks
after issue has stopped, a save and a load after the time of their bytes, staging after that of a whole die, and the first issue T_flip after an
activation (R424 to R429, R431). What a fabric request still owes is awaited longer. DESIGN CHOICE: log 7. -/
def State.switchDue (s : State) (x : CtxRef) (y : Ctx) : List Due :=
  let past := fun n : Nat => decide (y.since.toNat + n ≤ s.time.gtime.toNat)
  match y.st with
  | .staging => ifDue (past 433383 && s.allFit x.part (x :: s.residents x)) (.stagingComplete x)
  | .halting =>
    if !y.issueOff then
      if !past 32000 then []
      else ((s.ctxCores x).flatMap fun c => ((List.range 6).filter fun sl => ((s.core c).slices[sl]?).any Slice.replays).map fun sl => .issueRound c sl)
        ++ [.haltIssueStopped x]
    else if !past 48000 then []
    else ((s.ctxCores x).flatMap (s.drainCoreDue x))
      ++ ((s.gangs.filter fun e => e.1.part == x.part && e.1.ctx == x.ctx).flatMap fun e => (List.range 4).flatMap fun n =>
          ((e.2.gbs.getD n BarRec.clear).deliver).map fun core => .barrierDelivery e.1 (BitVec.ofNat 2 n) core)
      ++ [.drainComplete x]
  | .saving => ifDue (past (s.byteTicks x)) (.imageSealed x)
  | .loading => ifDue (past (s.byteTicks x) && s.mayLoad x) (.loadComplete x)
  | .staged => ifDue (s.mayFlip x) (.loadComplete x)
  | .active => if past 1821 then s.firstRounds x else []
  | _ => []

/-- Events of queue q of a partition. -/
def State.queueDue (s : State) (q : QRef) : List Due :=
  ifDue (s.periodDue q) (.waitPeriodicEvaluation q) ++ ifDue ((s.queue q).hold == 3 && s.wakeable q && !s.inReset) (.queueWake q)

/-- Events of a partition: ends of intervals before starts (R43, R430). -/
def State.partDue (s : State) (p : Nat) : List Due :=
  ifDue (!(s.endedEntries p).isEmpty && !s.inReset) (.entryEnd p) ++ ifDue (s.endingPreempt p).isSome (.preemptionEnd p)
    ++ ifDue (s.startingPreempt p).isSome (.preemptionStart p) ++ ifDue (s.startingEntry p).isSome (.entryStart p)
    ++ ifDue (s.affDue p) (.affinityFlip p)
    ++ ((s.ctxs.filter fun e => e.1.part == p && e.2.st == .saved && !s.inReset && s.stagesFor e.1).flatMap fun e => [.stagingStart e.1])
    ++ ((s.ctxs.filter fun e => e.1.part == p && !s.inReset).flatMap fun e => s.switchDue e.1 e.2)
    ++ ((List.range 64).flatMap fun q => s.queueDue { part := p, q := q })
    ++ ((List.range (s.part p).ladles.length).flatMap fun l => ifDue (s.overrun p l) (.ladleWatchdog p l))
    ++ ((s.part p).keyDrain.flatMap fun e =>
      ifDue (!s.slotBusyKey p (BitVec.ofNat 6 e.1) && !s.inReset) (.krevoke e.2.1 e.2.2 p (BitVec.ofNat 6 e.1)))

/-- The register banks of threads of a core that have waited for more than 32,000 ticks (R133). -/
def State.idleBanks (s : State) (c : CoreRef) : List (Nat × Nat × Nat) :=
  ((s.threads.filter fun e => e.1.coreRef == c && e.2.st == .wait && decide (e.2.waitFrom.toNat + 32000 < (s.coreTime c).toNat)).flatMap fun e =>
    ((List.range 8).filter fun w => e.2.live.getLsbD w).map fun w => s.bankOf e.1 e.2.htid w).eraseDups

/-- Events of a core's clocks, voltage, budget and banks; the energy of an interval is a free value (R466, DESIGN CHOICE, log 6). DESIGN
CHOICE: log 52. -/
def State.coreDue (s : State) (c : CoreRef) : List Due :=
  let k := s.core c
  let now := s.coreTime c
  ifDue (s.sampleDue c) (.governorSample c) ++ ifDue (s.rampOver c) (.voltageRampDone c)
    ++ ((List.range 6).flatMap fun sl => ifDue (s.holdOver c sl) (.sliceHoldEnd c sl))
    ++ ifDue (s.intervalDue c) (.budgetInterval c (Config.freeWord (s.fresh + coreIndex c)).toNat)
    ++ ((k.wc.filter fun w => decide (w.first.toNat + 32000 ≤ s.time.gtime.toNat)).map fun w => .wcEntryTimeout c w.id)
    ++ ((k.l1.filter fun l => decide (l.lexp.toNat ≤ now.toNat)).map fun l => .leaseExpiry c l.line)
    ++ (k.regPow.flatMap fun e => ifDue (e.2.awake now) (.regBankWakeDone c e.1.1 e.1.2.1 e.1.2.2))
    ++ ((s.idleBanks c).flatMap fun b => ifDue (s.bankPower c b == .full && s.bankIdle c b) (.regBankRetention c b.1 b.2.1 b.2.2))
    ++ (k.scrPow.flatMap fun e => ifDue (e.2.1.awake now) (.scrBankWakeDone c e.1)
      ++ ifDue (e.2.1 == .full && decide (e.2.2.toNat + 64000 ≤ now.toNat)) (.scrBankRetention c e.1))
    ++ (k.tilePow.flatMap fun e => ifDue (e.2.awake now) (.tileWakeDone c e.1))

/-- The core cycles that an operation of the matrix engine takes (R337). -/
def Thread.matCycles (x : Thread) : Nat :=
  match x.cur with
  | some (.mzero _ a) => let r := regionOf (x.rd a); 4 + (r.m * r.n + 1023) / 1024
  | some (.mload _ _ a _) => let r := regionOf (x.rd a); 8 + (4 * r.m * r.n + 255) / 256
  | some (.mstore _ cell a _) => let r := regionOf (x.rd a); 8 + (mcellCb cell / 256 * r.m * r.n + 255) / 256
  | _ => 0

/-- A kick that is due, the end of a thread's timed wait, and that of its operation of the matrix engine (R337). -/
def State.threadDue (s : State) (t : TRef) (x : Thread) : List Due :=
  ifDue (s.kickDue t x) (.kickTaken t) ++ match x.ph with
    | .sleep => ifDue (s.ctxRuns t.ctxRef && s.deadlineDue t x) (.sleepDeadline t)
    | .address .. => ifDue (s.ctxRuns t.ctxRef && s.deadlineDue t x) (.waitaddrDeadline t)
    | .matOp => ifDue (decide (x.waitFrom.toNat + ceilCycles x.matCycles ≤ s.time.gtime.toNat)) (.matrixOpComplete t)
    | _ => []

/-- Timers of links and of fabric requests (R437, R446), and the Lid's (R473). -/
def State.linkDue (s : State) : List Due :=
  let ls := (List.range 8).map LinkRef.d2d ++ (List.range 24).map fun p => LinkRef.port (p / 6) (p % 6)
  let now := s.time.gtime.toNat
  (ls.flatMap fun l =>
    let x := s.link l
    ifDue (x.st == .training && decide (x.since.toNat + 160000000 ≤ now)) (.linkTrainFail l)
      ++ ifDue (x.st == .down && x.en && decide (x.since.toNat + 16000000 ≤ now)) (.linkRetrainTimer l))
  ++ (s.freqs.flatMap fun f => match f.resent with
    | none => ifDue (decide (f.sent.toNat + 32000000 ≤ now) && !s.isQueued f) (.fabricRequestTimeout f.die (BitVec.ofNat 16 f.tag))
    | some t => ifDue (decide (t.toNat + 32000000 ≤ now)) (.fabricResendTimeout f.die (BitVec.ofNat 16 f.tag)))
  ++ ifDue (s.lid.any fun l => !l.marked && decide (l.t0.toNat + 1600000 ≤ now)) .lidAckDeadline

/-- Everything that is due now. DESIGN CHOICE: log 1. -/
def State.due (s : State) : List Due :=
  let parts := (List.range 4).filter fun p => !(s.partDies p).isEmpty
  s.timeDue ++ parts.flatMap s.partDue
    ++ (parts.flatMap fun p => (List.range (36 * (s.partDies p).length)).flatMap fun c => s.coreDue { part := p, core := c })
    ++ (s.threads.flatMap fun e => s.threadDue e.1 e.2) ++ s.linkDue

/-- An event that is due happens: what its row does. DESIGN CHOICE: log 1. -/
def Due.run (d : Due) (s : State) : Out State Fault Refusal :=
  match d with
  | .holdoverLimit => execHoldoverLimit s
  | .syncTimeout => execSyncTimeout s.nextRef s
  | .schedulerTakeover => execSchedulerTakeover s
  | .heartbeatSend => execHeartbeatSend s
  | .maskEffect => execMaskEffect s
  | .waitPeriodicEvaluation q => execWaitPeriodicEvaluation q s
  | .queueWake q => execQueueWake q s
  | .entryEnd part => execEntryEnd part s
  | .preemptionEnd part => execPreemptionEnd part s
  | .preemptionStart part => execPreemptionStart part s
  | .entryStart part => execEntryStart part s
  | .affinityFlip part => execAffinityFlip part s
  | .stagingStart x => execStagingStart x s
  | .stagingComplete x => execStagingComplete x s
  | .haltIssueStopped x => execHaltIssueStopped x s
  | .drainComplete x => execDrainComplete x s
  | .imageSealed x => execImageSealed x s
  | .loadComplete x => execLoadComplete x s
  | .issueRound c slice => execIssueRound c slice s
  | .storePerformedAtHome c seq => execStorePerformedAtHome c seq false s
  | .storeAnswer c seq => execStoreAnswer c seq s
  | .atomicAnswer c seq => execAtomicAnswer c seq s
  | .mmaComplete c => execMmaComplete c s
  | .matrixOpComplete t => execMatrixOpComplete t s
  | .barrierDelivery g gb core => execBarrierDelivery g gb core s
  | .ladleWatchdog part ladle => execLadleWatchdog part ladle s
  | .krevoke mb tag part slot => execKrevoke mb tag part slot s
  | .governorSample c => execGovernorSample c s
  | .voltageRampDone c => execVoltageRampDone c s
  | .sliceHoldEnd c slice => execSliceHoldEnd c slice s
  | .budgetInterval c energy => execBudgetInterval c energy s
  | .wcEntryTimeout c id => execWcEntryTimeout c id s
  | .leaseExpiry c line => execLeaseExpiry c line s
  | .regBankWakeDone c slice row lane => execRegBankWakeDone c slice row lane s
  | .regBankRetention c slice row lane => execRegBankRetention c slice row lane s
  | .scrBankWakeDone c bank => execScrBankWakeDone c bank s
  | .scrBankRetention c bank => execScrBankRetention c bank s
  | .tileWakeDone c tile => execTileWakeDone c tile s
  | .kickTaken t => execKickTaken t s
  | .sleepDeadline t => execSleepDeadline t s
  | .waitaddrDeadline t => execWaitaddrDeadline t s
  | .linkTrainFail l => execLinkTrainFail l s
  | .linkRetrainTimer l => execLinkRetrainTimer l s
  | .fabricRequestTimeout die tag => execFabricRequestTimeout die tag s
  | .fabricResendTimeout die tag => execFabricResendTimeout die tag s
  | .lidAckDeadline => execLidAckDeadline s

/-- One tick of the counter: while an offset is slewed out, one tick in 10,000 counts twice or not at all (R35). DEDUCED: log 65. -/
def Time.tick (t : Time) : Time :=
  if t.slew = 0 then { t with gtime := t.gtime + 1 }
  else if t.slewC + 1 < 10000 then { t with gtime := t.gtime + 1, slewC := t.slewC + 1 }
  else if 0 < t.slew then { t with gtime := t.gtime + 2, slew := t.slew - 1, slewC := 0 }
  else { t with slew := t.slew + 1, slewC := 0 }

/-- The FIFOs of every core deliver. -/
def State.deliverAll (s : State) : State :=
  { s with cores := s.cores.map fun e : CoreRef × Core =>
      (e.1, e.2.deliver (s.coreTime e.1) fun i => (Config.freeWord (s.fresh + 576 + 12 * coreIndex e.1 + i)).toNat) }

/-- A tick passes: GTIME advances, FIFOs deliver, ports at a flit boundary send, and what has become due goes on the agenda. DESIGN CHOICE: log 1. -/
def State.tick (s : State) : State :=
  let s := (s.modTime Time.tick).deliverAll.sendFlits
  { s with agenda := s.due, fresh := s.fresh + 7488 }

end Sys2Proof.Machine
end

