-- ==== Sys2Proof/Machine/CrossLane.lean ====
section
/-! DEFINITION. Rendezvous among the threads of a lane set, and PRESENT (06_control.md R149 to R157). -/
namespace Sys2Proof.Machine
open Sys2Proof

/-- The member mask (R149). -/
def memberMask (x : Thread) (c : Option VReg) : Word :=
  (match c with | some r => x.rd r | none => 0xFFFFFFFF) ||| BitVec.ofNat 32 (2 ^ htidLane x.htid)

/-- A present member: its lane and the operands it latched. -/
structure Member where
  lane : Nat
  a    : Word
  b    : Word
  deriving DecidableEq, Repr

/-- The bits of a list of lanes. -/
def laneBits (l : List Nat) : Word := l.foldl (fun w i => w ||| BitVec.ofNat 32 (2 ^ i)) 0

def memberVal (ms : List Member) (lane : Nat) : Option Word := (ms.find? fun m => m.lane == lane).map (·.a)

/-- The source lane of a SHFL as an exact integer (R153). -/
def shflLane (op : ShflOp) (lane : Nat) (b : Word) : Int :=
  match op with
  | .idx => (b.toNat % 32 : Nat)
  | .up => (lane : Int) - (b.toNat : Int)
  | .down => (lane : Int) + (b.toNat : Int)
  | .xor => (Nat.xor lane (b.toNat % 32) : Nat)

/-- D and the valid value of a SHFL (R153). -/
def shflVal (op : ShflOp) (ms : List Member) (lane : Nat) (own b : Word) : Word × Bool :=
  let j := shflLane op lane b
  if j < 0 ∨ 31 < j then (own, false)
  else
    match memberVal ms j.toNat with
    | some v => (v, true)
    | none => (0, false)

/-- Whether two values match in MATCH: by bits, or by binary32 value where a NaN matches nothing (R153). -/
def lanesMatch (fl : Bool) (a b : Word) : Bool :=
  if fl then !f32.isNan a.toNat && !f32.isNan b.toNat && f32.cmpKey a.toNat == f32.cmpKey b.toNat else a == b

/-- MATCH's result for a lane (R153). -/
def matchVal (op : MatchOp) (fl : Bool) (ms : List Member) (lane : Nat) (own : Word) : Word :=
  match op with
  | .any => laneBits ((ms.filter fun m => m.lane == lane || lanesMatch fl m.a own).map (·.lane))
  | .all => if ms.all fun m => ms.all fun n => m.lane == n.lane || lanesMatch fl m.a n.a then laneBits (ms.map (·.lane)) else 0

/-- One application of an operator, with the flags it raises (R154, R156; DEDUCED, log 13). -/
structure RVal where
  w  : Word
  ff : BitVec 5
  lx : BitVec 5
  deriving DecidableEq, Repr

/-- The smaller or larger of two level-index values; the left operand is the lower lane's and wins a tie (R154). DEDUCED: log 13. -/
def sliMinMax (max : Bool) (a b : Nat) : Nat :=
  let a := sCanon a
  let b := sCanon b
  if sIsNan a || sIsNan b then sNan
  else if max then (if sKey a < sKey b then b else a)
  else if sKey b < sKey a then b else a

/-- DEDUCED: log 13. -/
def redApply (op : RedOp) (ty : LTy) (x y : Word) : RVal :=
  match op, ty with
  | .add, .b32 | .add, .n32 => ⟨x + y, 0, 0⟩
  | .add, .f32 => let r := fadd f32 .rn false x.toNat y.toNat; ⟨BitVec.ofNat 32 r.code, r.flags, 0⟩
  | .add, .sli => let r := sadd x.toNat y.toNat; ⟨BitVec.ofNat 32 r.code, 0, r.flags⟩
  | .min, .b32 => ⟨iminW false x y, 0, 0⟩
  | .min, .n32 => ⟨iminW true x y, 0, 0⟩
  | .max, .b32 => ⟨imaxW false x y, 0, 0⟩
  | .max, .n32 => ⟨imaxW true x y, 0, 0⟩
  | .min, .f32 => let r := fminmax f32 false false x.toNat y.toNat; ⟨BitVec.ofNat 32 r.code, r.flags, 0⟩
  | .max, .f32 => let r := fminmax f32 true false x.toNat y.toNat; ⟨BitVec.ofNat 32 r.code, r.flags, 0⟩
  | .min, .sli => ⟨BitVec.ofNat 32 (sliMinMax false x.toNat y.toNat), 0, 0⟩
  | .max, .sli => ⟨BitVec.ofNat 32 (sliMinMax true x.toNat y.toNat), 0, 0⟩
  | .and, _ => ⟨x &&& y, 0, 0⟩
  | .or, _ => ⟨x ||| y, 0, 0⟩
  | .xor, _ => ⟨x ^^^ y, 0, 0⟩

def redJoin (op : RedOp) (ty : LTy) (x y : RVal) : RVal :=
  let r := redApply op ty x.w y.w
  ⟨r.w, x.ff ||| y.ff ||| r.ff, x.lx ||| y.lx ||| r.lx⟩

/-- One stage of the tree: neighbours combine, an odd last one passes. -/
def redStage (op : RedOp) (ty : LTy) : List RVal → List RVal
  | x :: y :: l => redJoin op ty x y :: redStage op ty l
  | l => l

/-- The tree of R155 over at most 32 values: five stages. -/
def redTree (op : RedOp) (ty : LTy) (xs : List Word) : RVal :=
  let st := redStage op ty
  (st (st (st (st (st (xs.map fun w => ⟨w, 0, 0⟩)))))).headD ⟨0, 0, 0⟩

/-- The identities of exclusive SCAN (R155). -/
def scanIdentity (op : RedOp) (ty : LTy) : Word :=
  match op, ty with
  | .min, .b32 => 0x7FFFFFFF
  | .min, .n32 => 0xFFFFFFFF
  | .min, .f32 => 0x7F800000
  | .min, .sli => 0x3FFFFFFF
  | .max, .b32 => 0x80000000
  | .max, .f32 => 0xFF800000
  | .max, .sli => 0xBFFFFFFF
  | .and, _ => 0xFFFFFFFF
  | _, _ => 0

def redRes (d : VReg) (r : RVal) : Res := { vs := [(d, r.w)], ff := r.ff, lx := r.lx }

def scanVal (op : RedOp) (ty : LTy) (exc : Bool) (ms : List Member) (lane : Nat) : RVal :=
  let xs := (ms.filter fun m => if exc then decide (m.lane < lane) else decide (m.lane ≤ lane)).map (·.a)
  if xs.isEmpty then ⟨scanIdentity op ty, 0, 0⟩ else redTree op ty xs

/-- What a member takes when its rendezvous completes (R153 to R156). -/
def memberRes (i : Instr) (ms : List Member) (m : Member) : Res :=
  match i with
  | .shfl _ op vp d _ _ _ =>
    let r := shflVal op ms m.lane m.a m.b
    { vs := [(d, r.1)], ps := match vp with | some p => [(p, r.2)] | none => [] }
  | .vote _ op d _ _ =>
    let vs := ms.map fun m => m.a != 0
    { ps := [(d, match op with | .all => vs.all id | .any => vs.any id | .uni => vs.all id || vs.all (!·))] }
  | .ballot _ d _ _ => vRes d (laneBits ((ms.filter fun m => m.a != 0).map (·.lane)))
  | .matchLanes _ op fl d _ _ => vRes d (matchVal op fl ms m.lane m.a)
  | .redux _ op ty d _ _ => redRes d (redTree op ty (ms.map (·.a)))
  | .scan _ op ty exc d _ _ => redRes d (scanVal op ty exc ms m.lane)
  | .elect _ d _ => { ps := [(d, (ms.head?.map (·.lane)) == some m.lane)] }
  | _ => {}

/-- A thread that waits at a rendezvous, at a PC and with a mask. -/
def Thread.meets (x : Thread) (pc : Pc) (mask : Word) : Option (Word × Word) :=
  match x.ph with
  | .rendezvous m a b => if m = mask ∧ x.pc = pc ∧ x.st = .wait then some (a, b) else none
  | _ => none

/-- Complete the rendezvous of a PC and a mask in a lane set when every lane of the mask waits there or is absent (R150). -/
def State.rendezvousCheck (s : State) (g : GRef) (set : Nat) (pc : Pc) (mask : Word) : State :=
  let lanes := (List.range 32).filter fun l => mask.getLsbD l
  let look := fun l => (s.thread? (g.thread (32 * set + l))).filter fun x => x.st != .exited
  let ms := lanes.filterMap fun l => (look l).bind fun x => (x.meets pc mask).map fun p => (⟨l, p.1, p.2⟩ : Member)
  if ms.isEmpty || lanes.any fun l => (look l).any fun x => (x.meets pc mask).isNone then s
  else ms.foldl (fun s m =>
    match s.thread? (g.thread (32 * set + m.lane)) with
    | some x => s.finish (g.thread (32 * set + m.lane)) (match x.cur with | some i => memberRes i ms m | none => {})
    | none => s) s

/-- Every rendezvous that waits in a lane set, for when a lane has become absent. -/
def State.rendezvousAll (s : State) (g : GRef) (set : Nat) : State :=
  (List.range 32).foldl (fun s l =>
    match s.thread? (g.thread (32 * set + l)) with
    | some x => match x.ph with
      | .rendezvous m _ _ => s.rendezvousCheck g set x.pc m
      | _ => s
    | none => s) s

/-- Arrive at a rendezvous with latched operands (R150). -/
def rendezvous (s : State) (i : Instr) (c : Option VReg) (a b : Thread → Word) : Out State Fault Refusal :=
  issue s i fun t x _ =>
    let m := memberMask x c
    .next ((s.await t x i (.rendezvous m (a x) (b x)) none).rendezvousCheck t.group (t.rank / 32) x.pc m)

def boolWord (b : Bool) : Word := if b then 1 else 0

/-- SHFL (R153). -/
def execShfl (h : Hints) (op : ShflOp) (vp : Option PReg) (d : VReg) (a b : Src) (c : Option VReg) (s : State) :
    Out State Fault Refusal :=
  rendezvous s (.shfl h op vp d a b c) c (fun x => x.src a) fun x => x.src b

/-- VOTE (R153). -/
def execVote (h : Hints) (op : VoteOp) (d a : PReg) (c : Option VReg) (s : State) : Out State Fault Refusal :=
  rendezvous s (.vote h op d a c) c (fun x => boolWord (x.prd a)) fun _ => 0

/-- BALLOT (R153). -/
def execBallot (h : Hints) (d : VReg) (a : PReg) (c : Option VReg) (s : State) : Out State Fault Refusal :=
  rendezvous s (.ballot h d a c) c (fun x => boolWord (x.prd a)) fun _ => 0

/-- MATCH (R153). -/
def execMatchLanes (h : Hints) (op : MatchOp) (f32 : Bool) (d a : VReg) (c : Option VReg) (s : State) : Out State Fault Refusal :=
  rendezvous s (.matchLanes h op f32 d a c) c (fun x => x.rd a) fun _ => 0

/-- REDUX (R155). -/
def execRedux (h : Hints) (op : RedOp) (ty : LTy) (d a : VReg) (c : Option VReg) (s : State) : Out State Fault Refusal :=
  rendezvous s (.redux h op ty d a c) c (fun x => x.rd a) fun _ => 0

/-- SCAN (R155). -/
def execScan (h : Hints) (op : RedOp) (ty : LTy) (exc : Bool) (d a : VReg) (c : Option VReg) (s : State) :
    Out State Fault Refusal :=
  rendezvous s (.scan h op ty exc d a c) c (fun x => x.rd a) fun _ => 0

/-- ELECT (R153). -/
def execElect (h : Hints) (d : PReg) (c : Option VReg) (s : State) : Out State Fault Refusal :=
  rendezvous s (.elect h d c) c (fun _ => 0) fun _ => 0

/-- The lanes of a thread's lane set whose threads are not EXITED. -/
def State.presentLanes (s : State) (t : TRef) : Word :=
  laneBits ((List.range 32).filter fun l => (s.thread? (t.group.thread (t.rank / 32 * 32 + l))).any fun x => x.st != .exited)

/-- PRESENT (R157). -/
def execPresent (h : Hints) (d : VReg) (c : Option VReg) (s : State) : Out State Fault Refusal :=
  issue s (.present h d c) fun t x _ => .next (s.retire t x h (vRes d (memberMask x c &&& s.presentLanes t)))

end Sys2Proof.Machine
end

