-- ==== Sys2Proof/Machine/Exit.lean ====
section
/-! DEFINITION. EXIT (06_control.md R142, 05_group.md R118, R120, R122). -/
namespace Sys2Proof.Machine
open Sys2Proof

/-- The record of a thread that has exited. -/
def Thread.exited (x : Thread) : Thread :=
  { x with st := .exited, ph := .none, cur := none, deadline := none, live := 0, regs := [], jbE := 0, jbA := 0, deferred := [] }

/-- The group of a thread whose last thread has exited is RETIRING (R118). -/
def State.lastExit (s : State) (g : GRef) : State :=
  if (s.alive g).isEmpty then s.modGroup g fun y => { y with st := .retiring } else s

/-- What follows a thread's exit for the rest of its group. -/
def State.afterExit (s : State) (t : TRef) (x : Thread) : State :=
  let s := (s.rejoinAll t.group).rendezvousAll t.group (t.rank / 32)
  let s := (s.mmaCheckAll t.group).barExit t x
  ((s.freeDelivered t).lastExit t.group)

/-- The thread exits. -/
def State.exitNow (s : State) (t : TRef) (x : Thread) : State :=
  let s := (s.setThread t x.exited).settleWindows t x.htid x.live
  ({ s with regPois := s.regPois.filter fun e => e.1 ≠ t }).afterExit t x

/-- EXIT (R142): held while instructions of the thread are parked or loads are under way. DEDUCED: log 27. -/
def execExitThread (h : Hints) (s : State) : Out State Fault Refusal :=
  issue s (.exitThread h) fun t x _ =>
    if decide (0 < s.npark t) || s.unretired t then .next (s.hold t) else .next (s.exitNow t x)

end Sys2Proof.Machine
end

