-- ==== Sys2Proof/Machine/Float.lean ====
section
/-! DEFINITION. Floating, packed, narrow and conversion instructions (08_float.md R182 to R201), but for QCVT, which writes the
scratchpad. -/
namespace Sys2Proof.Machine
open Sys2Proof

/-- A 16-bit scalar operand is bits [15:0] of its register (R182). -/
def fmtCode (f : Fmt) (w : Word) : Nat := w.toNat % 2 ^ (fmtOf f).width

/-- An integer operand of I2F: extended by its signedness (R194). -/
def i2fInt (x : Thread) (t : ITy) (a : VReg) : Int :=
  match t with
  | .i64 => (x.rdPair a).toInt
  | .n64 => ((x.rdPair a).toNat : Int)
  | _ => if itySigned t then signExt (x.rd a).toNat (ityBits t) else (((x.rd a).toNat % 2 ^ ityBits t : Nat) : Int)

/-- An integer result of F2I (R193). -/
def f2iRes (d : VReg) (t : ITy) (r : Int × Flags) : Res :=
  match t with
  | .i64 | .n64 =>
    let w := BitVec.ofInt 64 r.1
    { vs := [(d, w.setWidth 32), (d + 1, (w >>> 32).setWidth 32)], ff := r.2 }
  | _ => { vs := [(d, BitVec.ofInt 32 r.1)], ff := r.2 }

/-- The value of an element of four codes in one register (R200). -/
def dqByte (t : Store) (w : Word) (e : Nat) : Word := BitVec.ofNat 32 (storeToF32 t (bitsOf w.toNat (8 * e + 7) (8 * e)))

/-- Narrow of two bf16 elements of each source into four bytes (R201). -/
def qpackRes (t : Store) (a b : Word) : FRes :=
  let r := fun w => narrowFlags t .rn (bf16.val w)
  let e0 := r (half0 a.toNat)
  let e1 := r (half1 a.toNat)
  let e2 := r (half0 b.toNat)
  let e3 := r (half1 b.toNat)
  ⟨e0.code + e1.code * 2 ^ 8 + e2.code * 2 ^ 16 + e3.code * 2 ^ 24, e0.flags ||| e1.flags ||| e2.flags ||| e3.flags⟩

/-- The storage format of an SF field; the fields of well-formed words are all of them formats (R59, R104). -/
def sfStore (sf : BitVec 6) : Store := (storeOf sf.toNat).getD (.int 8 true)

/-- FADD (R185). -/
def execFadd (h : Hints) (rm : Rm) (ftz : Bool) (d : VReg) (a b : Src) (s : State) : Out State Fault Refusal :=
  compute s (.fadd h rm ftz d a b) fun x => ffRes d (fadd f32 rm ftz (x.fsrc f32 a) (x.fsrc f32 b))

/-- FADD_IMM (R185). -/
def execFaddImm (h : Hints) (rm : Rm) (ftz : Bool) (d : VReg) (a : Src) (imm : Word) (s : State) : Out State Fault Refusal :=
  compute s (.faddImm h rm ftz d a imm) fun x => ffRes d (fadd f32 rm ftz (x.fsrc f32 a) imm.toNat)

/-- FSUB (R185). -/
def execFsub (h : Hints) (rm : Rm) (ftz : Bool) (d : VReg) (a b : Src) (s : State) : Out State Fault Refusal :=
  compute s (.fsub h rm ftz d a b) fun x => ffRes d (fsub f32 rm ftz (x.fsrc f32 a) (x.fsrc f32 b))

/-- FSUB_IMM (R185). -/
def execFsubImm (h : Hints) (rm : Rm) (ftz : Bool) (d : VReg) (a : Src) (imm : Word) (s : State) : Out State Fault Refusal :=
  compute s (.fsubImm h rm ftz d a imm) fun x => ffRes d (fsub f32 rm ftz (x.fsrc f32 a) imm.toNat)

/-- FMUL (R185). -/
def execFmul (h : Hints) (rm : Rm) (ftz : Bool) (d : VReg) (a b : Src) (s : State) : Out State Fault Refusal :=
  compute s (.fmul h rm ftz d a b) fun x => ffRes d (fmul f32 rm ftz (x.fsrc f32 a) (x.fsrc f32 b))

/-- FMUL_IMM (R185). -/
def execFmulImm (h : Hints) (rm : Rm) (ftz : Bool) (d : VReg) (a : Src) (imm : Word) (s : State) : Out State Fault Refusal :=
  compute s (.fmulImm h rm ftz d a imm) fun x => ffRes d (fmul f32 rm ftz (x.fsrc f32 a) imm.toNat)

/-- FDIV (R185). -/
def execFdiv (h : Hints) (rm : Rm) (ftz : Bool) (d : VReg) (a b : Src) (s : State) : Out State Fault Refusal :=
  compute s (.fdiv h rm ftz d a b) fun x => ffRes d (fdiv f32 rm ftz (x.fsrc f32 a) (x.fsrc f32 b))

/-- FDIV_IMM (R185). -/
def execFdivImm (h : Hints) (rm : Rm) (ftz : Bool) (d : VReg) (a : Src) (imm : Word) (s : State) : Out State Fault Refusal :=
  compute s (.fdivImm h rm ftz d a imm) fun x => ffRes d (fdiv f32 rm ftz (x.fsrc f32 a) imm.toNat)

/-- FFMA (R185). -/
def execFfma (h : Hints) (rm : Rm) (ftz : Bool) (d a : VReg) (b c : Src) (s : State) : Out State Fault Refusal :=
  compute s (.ffma h rm ftz d a b c) fun x => ffRes d (ffma f32 rm ftz (x.rd a).toNat (x.fsrc f32 b) (x.fsrc f32 c))

/-- FMIN (R187). -/
def execFmin (h : Hints) (ftz : Bool) (d : VReg) (a b : Src) (s : State) : Out State Fault Refusal :=
  compute s (.fmin h ftz d a b) fun x => ffRes d (fminmax f32 false ftz (x.fsrc f32 a) (x.fsrc f32 b))

/-- FMIN_IMM (R187). -/
def execFminImm (h : Hints) (ftz : Bool) (d : VReg) (a : Src) (imm : Word) (s : State) : Out State Fault Refusal :=
  compute s (.fminImm h ftz d a imm) fun x => ffRes d (fminmax f32 false ftz (x.fsrc f32 a) imm.toNat)

/-- FMAX (R187). -/
def execFmax (h : Hints) (ftz : Bool) (d : VReg) (a b : Src) (s : State) : Out State Fault Refusal :=
  compute s (.fmax h ftz d a b) fun x => ffRes d (fminmax f32 true ftz (x.fsrc f32 a) (x.fsrc f32 b))

/-- FMAX_IMM (R187). -/
def execFmaxImm (h : Hints) (ftz : Bool) (d : VReg) (a : Src) (imm : Word) (s : State) : Out State Fault Refusal :=
  compute s (.fmaxImm h ftz d a imm) fun x => ffRes d (fminmax f32 true ftz (x.fsrc f32 a) imm.toNat)

/-- FSET (R188). -/
def execFset (h : Hints) (ftz : Bool) (fn : Fn) (d : DstVP) (a : VReg) (b : Src) (s : State) : Out State Fault Refusal :=
  compute s (.fset h ftz fn d a b) fun x => { boolRes d (fset ftz fn (x.rd a).toNat (x.fsrc f32 b)).1 with ff := (fset ftz fn (x.rd a).toNat (x.fsrc f32 b)).2 }

/-- FSET_IMM (R188). -/
def execFsetImm (h : Hints) (ftz : Bool) (fn : Fn) (d : DstVP) (a : VReg) (imm : Word) (s : State) : Out State Fault Refusal :=
  compute s (.fsetImm h ftz fn d a imm) fun x => { boolRes d (fset ftz fn (x.rd a).toNat imm.toNat).1 with ff := (fset ftz fn (x.rd a).toNat imm.toNat).2 }

/-- FCLASS (R189). -/
def execFclass (h : Hints) (d a : VReg) (s : State) : Out State Fault Refusal :=
  compute s (.fclass h d a) fun x => { vs := [(d, BitVec.ofNat 32 (fclass (x.rd a).toNat))] }

/-- FRND (R190). -/
def execFrnd (h : Hints) (rm : Rm) (ftz : Bool) (d a : VReg) (s : State) : Out State Fault Refusal :=
  compute s (.frnd h rm ftz d a) fun x => ffRes d (frnd f32 rm ftz (x.rd a).toNat)

/-- FSQRT (R185). -/
def execFsqrt (h : Hints) (rm : Rm) (ftz : Bool) (d a : VReg) (s : State) : Out State Fault Refusal :=
  compute s (.fsqrt h rm ftz d a) fun x => ffRes d (fsqrt f32 rm ftz (x.rd a).toNat)

/-- FRCP (R191). -/
def execFrcp (h : Hints) (ftz : Bool) (d a : VReg) (s : State) : Out State Fault Refusal :=
  compute s (.frcp h ftz d a) fun x => ffRes d (frcp ftz (x.rd a).toNat)

/-- FRSQ (R191). -/
def execFrsq (h : Hints) (ftz : Bool) (d a : VReg) (s : State) : Out State Fault Refusal :=
  compute s (.frsq h ftz d a) fun x => ffRes d (frsq ftz (x.rd a).toNat)

/-- FEX2 (R191). -/
def execFex2 (h : Hints) (ftz : Bool) (d a : VReg) (s : State) : Out State Fault Refusal :=
  compute s (.fex2 h ftz d a) fun x => ffRes d (fex2 ftz (x.rd a).toNat)

/-- FLG2 (R191). -/
def execFlg2 (h : Hints) (ftz : Bool) (d a : VReg) (s : State) : Out State Fault Refusal :=
  compute s (.flg2 h ftz d a) fun x => ffRes d (flg2 ftz (x.rd a).toNat)

/-- FSIN (R191). -/
def execFsin (h : Hints) (ftz : Bool) (d a : VReg) (s : State) : Out State Fault Refusal :=
  compute s (.fsin h ftz d a) fun x => ffRes d (fsin ftz (x.rd a).toNat)

/-- FCOS (R191). -/
def execFcos (h : Hints) (ftz : Bool) (d a : VReg) (s : State) : Out State Fault Refusal :=
  compute s (.fcos h ftz d a) fun x => ffRes d (fcos ftz (x.rd a).toNat)

/-- FTANH (R191). -/
def execFtanh (h : Hints) (ftz : Bool) (d a : VReg) (s : State) : Out State Fault Refusal :=
  compute s (.ftanh h ftz d a) fun x => ffRes d (ftanh ftz (x.rd a).toNat)

/-- HADD2 (R192). -/
def execHadd2 (h : Hints) (f : Half) (rm : Rm) (ftz : Bool) (d : VReg) (a b : Src) (s : State) : Out State Fault Refusal :=
  compute s (.hadd2 h f rm ftz d a b) fun x => ffRes d (packed2 (fadd (halfFmt f) rm ftz) (x.hsrc (halfFmt f) a) (x.hsrc (halfFmt f) b))

/-- HADD2_IMM (R192). -/
def execHadd2Imm (h : Hints) (f : Half) (rm : Rm) (ftz : Bool) (d : VReg) (a : Src) (imm : Word) (s : State) : Out State Fault Refusal :=
  compute s (.hadd2Imm h f rm ftz d a imm) fun x => ffRes d (packed2 (fadd (halfFmt f) rm ftz) (x.hsrc (halfFmt f) a) imm.toNat)

/-- HMUL2 (R192). -/
def execHmul2 (h : Hints) (f : Half) (rm : Rm) (ftz : Bool) (d : VReg) (a b : Src) (s : State) : Out State Fault Refusal :=
  compute s (.hmul2 h f rm ftz d a b) fun x => ffRes d (packed2 (fmul (halfFmt f) rm ftz) (x.hsrc (halfFmt f) a) (x.hsrc (halfFmt f) b))

/-- HMUL2_IMM (R192). -/
def execHmul2Imm (h : Hints) (f : Half) (rm : Rm) (ftz : Bool) (d : VReg) (a : Src) (imm : Word) (s : State) : Out State Fault Refusal :=
  compute s (.hmul2Imm h f rm ftz d a imm) fun x => ffRes d (packed2 (fmul (halfFmt f) rm ftz) (x.hsrc (halfFmt f) a) imm.toNat)

/-- HFMA2 (R192). -/
def execHfma2 (h : Hints) (f : Half) (rm : Rm) (ftz : Bool) (d a : VReg) (b c : Src) (s : State) : Out State Fault Refusal :=
  compute s (.hfma2 h f rm ftz d a b c) fun x => ffRes d (packed3 (ffma (halfFmt f) rm ftz) (x.rd a).toNat (x.hsrc (halfFmt f) b) (x.hsrc (halfFmt f) c))

/-- HMNX2 (R187). -/
def execHmnx2 (h : Hints) (f : Half) (max ftz : Bool) (d : VReg) (a b : Src) (s : State) : Out State Fault Refusal :=
  compute s (.hmnx2 h f max ftz d a b) fun x => ffRes d (packed2 (fminmax (halfFmt f) max ftz) (x.hsrc (halfFmt f) a) (x.hsrc (halfFmt f) b))

/-- HMNX2_IMM (R187). -/
def execHmnx2Imm (h : Hints) (f : Half) (max ftz : Bool) (d : VReg) (a : Src) (imm : Word) (s : State) : Out State Fault Refusal :=
  compute s (.hmnx2Imm h f max ftz d a imm) fun x => ffRes d (packed2 (fminmax (halfFmt f) max ftz) (x.hsrc (halfFmt f) a) imm.toNat)

/-- F2I (R193). -/
def execF2i (h : Hints) (rm : Rm) (ft : Fmt) (it : ITy) (d a : VReg) (s : State) : Out State Fault Refusal :=
  compute s (.f2i h rm ft it d a) fun x => f2iRes d it (f2i (fmtOf ft) it rm (fmtCode ft (x.rd a)))

/-- I2F (R194). -/
def execI2f (h : Hints) (rm : Rm) (ft : Fmt) (it : ITy) (d a : VReg) (s : State) : Out State Fault Refusal :=
  compute s (.i2f h rm ft it d a) fun x => ffRes d (i2f (fmtOf ft) rm (i2fInt x it a))

/-- F2F (R195). -/
def execF2f (h : Hints) (rm : Rm) (ftz : Bool) (fd fs : Fmt) (d a : VReg) (s : State) : Out State Fault Refusal :=
  compute s (.f2f h rm ftz fd fs d a) fun x => ffRes d (f2f (fmtOf fd) (fmtOf fs) rm ftz (fmtCode fs (x.rd a)))

/-- DQCVT (R200). -/
def execDqcvt (h : Hints) (sf : BitVec 6) (d a : VReg) (s : State) : Out State Fault Refusal :=
  compute s (.dqcvt h sf d a) fun x => { vs := (List.range 4).map fun e => (d + BitVec.ofNat 7 e, dqByte (sfStore sf) (x.rd a) e) }

/-- QPACK (R201). -/
def execQpack (h : Hints) (sf : BitVec 6) (d a b : VReg) (s : State) : Out State Fault Refusal :=
  compute s (.qpack h sf d a b) fun x => ffRes d (qpackRes (sfStore sf) (x.rd a) (x.rd b))

/-- FDOT2 (R186). -/
def execFdot2 (h : Hints) (rm : Rm) (ftz : Bool) (d a b c : VReg) (s : State) : Out State Fault Refusal :=
  compute s (.fdot2 h rm ftz d a b c) fun x => ffRes d (fdot2 rm ftz (x.rd a).toNat (x.rd b).toNat (x.rd c).toNat)

/-- FSCALE (R185). -/
def execFscale (h : Hints) (rm : Rm) (ftz : Bool) (d a : VReg) (b : Src) (s : State) : Out State Fault Refusal :=
  compute s (.fscale h rm ftz d a b) fun x => ffRes d (fscale f32 rm ftz (x.rd a).toNat (x.src b).toInt)

/-- FSCALE_IMM (R185). -/
def execFscaleImm (h : Hints) (rm : Rm) (ftz : Bool) (d a : VReg) (imm : Word) (s : State) : Out State Fault Refusal :=
  compute s (.fscaleImm h rm ftz d a imm) fun x => ffRes d (fscale f32 rm ftz (x.rd a).toNat imm.toInt)

/-! ### PAIR (R98 to R101) -/

/-- A slot's operand in an integer position (R91). -/
def pInt (x : Thread) : PSrc → Word
  | .reg r => x.rd r
  | .imm v => v.signExtend 32

def pF32 (x : Thread) : PSrc → Nat
  | .reg r => (x.rd r).toNat
  | .imm v => immCode f32 v.toInt

def pHalf (f : FFmt) (x : Thread) : PSrc → Nat
  | .reg r => (x.rd r).toNat
  | .imm v => immCode f v.toInt * (2 ^ 16 + 1)

/-- The value and the FFLAGS of a slot: the named instruction with every modifier 0 (R100). -/
def slotRes (x : Thread) (p : PSlot) : FRes :=
  let w := fun (v : Word) => (⟨v.toNat, 0⟩ : FRes)
  let a := pInt x p.a
  let b := pInt x p.b
  match p.op with
  | .iadd => w (iaddW false false a b)
  | .isub => w (isubW false false a b)
  | .imul => w (imulW false a b)
  | .iminS => w (iminW false a b)
  | .iminU => w (iminW true a b)
  | .imaxS => w (imaxW false a b)
  | .imaxU => w (imaxW true a b)
  | .and => w (a &&& b)
  | .or => w (a ||| b)
  | .xor => w (a ^^^ b)
  | .andn => w (a &&& ~~~b)
  | .shl => w (shlW a b)
  | .shr => w (shrW a b)
  | .sar => w (sarW a b)
  | .mov => w a
  | .fadd => fadd f32 .rn false (pF32 x p.a) (pF32 x p.b)
  | .fmul => fmul f32 .rn false (pF32 x p.a) (pF32 x p.b)
  | .ffma => ffma f32 .rn false (pF32 x p.a) (pF32 x p.b) (x.rd p.d).toNat
  | .fmin => fminmax f32 false false (pF32 x p.a) (pF32 x p.b)
  | .fmax => fminmax f32 true false (pF32 x p.a) (pF32 x p.b)
  | .hadd2 f => packed2 (fadd (halfFmt f) .rn false) (pHalf (halfFmt f) x p.a) (pHalf (halfFmt f) x p.b)
  | .hmul2 f => packed2 (fmul (halfFmt f) .rn false) (pHalf (halfFmt f) x p.a) (pHalf (halfFmt f) x p.b)
  | .hfma2 f => packed3 (ffma (halfFmt f) .rn false) (pHalf (halfFmt f) x p.a) (pHalf (halfFmt f) x p.b) (x.rd p.d).toNat
  | .hmin2 f => packed2 (fminmax (halfFmt f) false false) (pHalf (halfFmt f) x p.a) (pHalf (halfFmt f) x p.b)
  | .hmax2 f => packed2 (fminmax (halfFmt f) true false) (pHalf (halfFmt f) x p.a) (pHalf (halfFmt f) x p.b)

/-- PAIR (R101): both slots read before either writes. -/
def execPair (h : Hints) (p q : PSlot) (s : State) : Out State Fault Refusal :=
  compute s (.pair h p q) fun x =>
    { vs := [(p.d, BitVec.ofNat 32 (slotRes x p).code), (q.d, BitVec.ofNat 32 (slotRes x q).code)]
      ff := (slotRes x p).flags ||| (slotRes x q).flags }

end Sys2Proof.Machine
end

