-- ==== Sys2Proof/Machine/Quantise.lean ====
section
/-! DEFINITION. QCVT: four binary32 values narrowed to one register of codes, the outliers to the side list (08_float.md R196 to R199). -/
namespace Sys2Proof.Machine
open Sys2Proof

/-- What one element gives: whether it is an outlier, its byte, its side entry and its flags (R197). -/
structure QElem where
  out   : Bool
  byte  : Nat
  side  : Option Nat
  flags : Flags
  deriving DecidableEq, Repr

/-- One element against the threshold's magnitude. -/
def quantElem (t : Store) (rm : Rm) (thr x : Nat) : QElem :=
  if !f32.isNan x && !f32.isNan thr && decide (f32.mag thr < f32.mag x) then
    let r := f2f bf16 f32 .rn false x
    { out := true, byte := 0, side := some r.code, flags := r.flags &&& fNX }
  else
    let r := narrowFlags t rm (f32.val x)
    { out := false, byte := r.code, side := none, flags := r.flags }

/-- QCVT (R197 to R199). -/
def execQcvt (h : Hints) (rm : Rm) (sf : BitVec 6) (d a : VReg) (b : PReg) (s : State) : Out State Fault Refusal :=
  issue s (.qcvt h rm sf d a b) fun t x g =>
    let es := (x.rdMany a 4).map fun w => quantElem (sfStore sf) rm g.sidethr.toNat w.toNat
    let code := es.foldr (fun e acc => e.byte + 256 * acc) 0
    let r : Res :=
      { vs := [(d, BitVec.ofNat 32 code)]
        ps := es.zipIdx.map fun e => (b + BitVec.ofNat 4 e.2, e.1.out)
        ff := es.foldl (fun f e => f ||| e.flags) 0 }
    .next ((s.sideList t (es.filterMap (·.side))).retire t x h r)

end Sys2Proof.Machine
end

