-- ==== Sys2Proof/Machine/Dispatch.lean ====
section
/-! DEFINITION. The meaning of every constructor of Instr, arm by arm. -/
namespace Sys2Proof.Machine
open Sys2Proof

/-- The meaning of an instruction, or of a step of another agent. -/
def exec (i : Instr) (s : State) : Host.Outcome State Fault Refusal :=
  match i with
  | .nop h => Sys2Proof.Machine.execNop h s
  | .bra h off => Sys2Proof.Machine.execBra h off s
  | .brx h a off => Sys2Proof.Machine.execBrx h a off s
  | .call h d off => Sys2Proof.Machine.execCall h d off s
  | .callx h d a off => Sys2Proof.Machine.execCallx h d a off s
  | .ret h a => Sys2Proof.Machine.execRet h a s
  | .exitThread h => Sys2Proof.Machine.execExitThread h s
  | .jenrol h jb => Sys2Proof.Machine.execJenrol h jb s
  | .jwait h jb => Sys2Proof.Machine.execJwait h jb s
  | .jdrop h jb => Sys2Proof.Machine.execJdrop h jb s
  | .jstat h d jb => Sys2Proof.Machine.execJstat h d jb s
  | .sleep h a imm => Sys2Proof.Machine.execSleep h a imm s
  | .bkptN h imm => Sys2Proof.Machine.execBkptN h imm s
  | .trapN h imm => Sys2Proof.Machine.execTrapN h imm s
  | .enter h imm => Sys2Proof.Machine.execEnter h imm s
  | .shfl h op vp d a b c => Sys2Proof.Machine.execShfl h op vp d a b c s
  | .vote h op d a c => Sys2Proof.Machine.execVote h op d a c s
  | .ballot h d a c => Sys2Proof.Machine.execBallot h d a c s
  | .matchLanes h op f32 d a c => Sys2Proof.Machine.execMatchLanes h op f32 d a c s
  | .redux h op ty d a c => Sys2Proof.Machine.execRedux h op ty d a c s
  | .scan h op ty exc d a c => Sys2Proof.Machine.execScan h op ty exc d a c s
  | .elect h d c => Sys2Proof.Machine.execElect h d c s
  | .present h d c => Sys2Proof.Machine.execPresent h d c s
  | .iadd h u sat d a b => Sys2Proof.Machine.execIadd h u sat d a b s
  | .iaddImm h u sat d a imm => Sys2Proof.Machine.execIaddImm h u sat d a imm s
  | .isub h u sat d a b => Sys2Proof.Machine.execIsub h u sat d a b s
  | .isubImm h u sat d a imm => Sys2Proof.Machine.execIsubImm h u sat d a imm s
  | .imul h u d a b => Sys2Proof.Machine.execImul h u d a b s
  | .imulImm h u d a imm => Sys2Proof.Machine.execImulImm h u d a imm s
  | .imulh h u d a b => Sys2Proof.Machine.execImulh h u d a b s
  | .imulhImm h u d a imm => Sys2Proof.Machine.execImulhImm h u d a imm s
  | .imad h u sat d a b c => Sys2Proof.Machine.execImad h u sat d a b c s
  | .imin h u d a b => Sys2Proof.Machine.execImin h u d a b s
  | .iminImm h u d a imm => Sys2Proof.Machine.execIminImm h u d a imm s
  | .imax h u d a b => Sys2Proof.Machine.execImax h u d a b s
  | .imaxImm h u d a imm => Sys2Proof.Machine.execImaxImm h u d a imm s
  | .iabs h sat d a => Sys2Proof.Machine.execIabs h sat d a s
  | .ineg h sat d a => Sys2Proof.Machine.execIneg h sat d a s
  | .andW h d a b => Sys2Proof.Machine.execAndW h d a b s
  | .andWImm h d a imm => Sys2Proof.Machine.execAndWImm h d a imm s
  | .orW h d a b => Sys2Proof.Machine.execOrW h d a b s
  | .orWImm h d a imm => Sys2Proof.Machine.execOrWImm h d a imm s
  | .xorW h d a b => Sys2Proof.Machine.execXorW h d a b s
  | .xorWImm h d a imm => Sys2Proof.Machine.execXorWImm h d a imm s
  | .andnW h d a b => Sys2Proof.Machine.execAndnW h d a b s
  | .andnWImm h d a imm => Sys2Proof.Machine.execAndnWImm h d a imm s
  | .notW h d a => Sys2Proof.Machine.execNotW h d a s
  | .popc h d a => Sys2Proof.Machine.execPopc h d a s
  | .clz h d a => Sys2Proof.Machine.execClz h d a s
  | .brev h d a => Sys2Proof.Machine.execBrev h d a s
  | .shl h d a b => Sys2Proof.Machine.execShl h d a b s
  | .shlImm h d a imm => Sys2Proof.Machine.execShlImm h d a imm s
  | .shr h d a b => Sys2Proof.Machine.execShr h d a b s
  | .shrImm h d a imm => Sys2Proof.Machine.execShrImm h d a imm s
  | .sar h d a b => Sys2Proof.Machine.execSar h d a b s
  | .sarImm h d a imm => Sys2Proof.Machine.execSarImm h d a imm s
  | .rot h d a b => Sys2Proof.Machine.execRot h d a b s
  | .rotImm h d a imm => Sys2Proof.Machine.execRotImm h d a imm s
  | .funnel h right d a b c => Sys2Proof.Machine.execFunnel h right d a b c s
  | .bfe h u d a b => Sys2Proof.Machine.execBfe h u d a b s
  | .bfeImm h u d a imm => Sys2Proof.Machine.execBfeImm h u d a imm s
  | .bfi h d a b c => Sys2Proof.Machine.execBfi h d a b c s
  | .perm h d a b c => Sys2Proof.Machine.execPerm h d a b c s
  | .sel h d a b c => Sys2Proof.Machine.execSel h d a b c s
  | .iset h u cmp d a b => Sys2Proof.Machine.execIset h u cmp d a b s
  | .isetImm h u cmp d a imm => Sys2Proof.Machine.execIsetImm h u cmp d a imm s
  | .plop h lut d a b c => Sys2Proof.Machine.execPlop h lut d a b c s
  | .mov h d a => Sys2Proof.Machine.execMov h d a s
  | .movi h d imm => Sys2Proof.Machine.execMovi h d imm s
  | .lea h u sh d a b => Sys2Proof.Machine.execLea h u sh d a b s
  | .iadd64 h d a b => Sys2Proof.Machine.execIadd64 h d a b s
  | .iadd64Imm h d a imm => Sys2Proof.Machine.execIadd64Imm h d a imm s
  | .idiv h u rem d a b => Sys2Proof.Machine.execIdiv h u rem d a b s
  | .dot4 h sat ua ub d a b c => Sys2Proof.Machine.execDot4 h sat ua ub d a b c s
  | .fadd h rm ftz d a b => Sys2Proof.Machine.execFadd h rm ftz d a b s
  | .faddImm h rm ftz d a imm => Sys2Proof.Machine.execFaddImm h rm ftz d a imm s
  | .fsub h rm ftz d a b => Sys2Proof.Machine.execFsub h rm ftz d a b s
  | .fsubImm h rm ftz d a imm => Sys2Proof.Machine.execFsubImm h rm ftz d a imm s
  | .fmul h rm ftz d a b => Sys2Proof.Machine.execFmul h rm ftz d a b s
  | .fmulImm h rm ftz d a imm => Sys2Proof.Machine.execFmulImm h rm ftz d a imm s
  | .fdiv h rm ftz d a b => Sys2Proof.Machine.execFdiv h rm ftz d a b s
  | .fdivImm h rm ftz d a imm => Sys2Proof.Machine.execFdivImm h rm ftz d a imm s
  | .ffma h rm ftz d a b c => Sys2Proof.Machine.execFfma h rm ftz d a b c s
  | .fmin h ftz d a b => Sys2Proof.Machine.execFmin h ftz d a b s
  | .fminImm h ftz d a imm => Sys2Proof.Machine.execFminImm h ftz d a imm s
  | .fmax h ftz d a b => Sys2Proof.Machine.execFmax h ftz d a b s
  | .fmaxImm h ftz d a imm => Sys2Proof.Machine.execFmaxImm h ftz d a imm s
  | .fset h ftz fn d a b => Sys2Proof.Machine.execFset h ftz fn d a b s
  | .fsetImm h ftz fn d a imm => Sys2Proof.Machine.execFsetImm h ftz fn d a imm s
  | .fclass h d a => Sys2Proof.Machine.execFclass h d a s
  | .frnd h rm ftz d a => Sys2Proof.Machine.execFrnd h rm ftz d a s
  | .fsqrt h rm ftz d a => Sys2Proof.Machine.execFsqrt h rm ftz d a s
  | .frcp h ftz d a => Sys2Proof.Machine.execFrcp h ftz d a s
  | .frsq h ftz d a => Sys2Proof.Machine.execFrsq h ftz d a s
  | .fex2 h ftz d a => Sys2Proof.Machine.execFex2 h ftz d a s
  | .flg2 h ftz d a => Sys2Proof.Machine.execFlg2 h ftz d a s
  | .fsin h ftz d a => Sys2Proof.Machine.execFsin h ftz d a s
  | .fcos h ftz d a => Sys2Proof.Machine.execFcos h ftz d a s
  | .ftanh h ftz d a => Sys2Proof.Machine.execFtanh h ftz d a s
  | .hadd2 h f rm ftz d a b => Sys2Proof.Machine.execHadd2 h f rm ftz d a b s
  | .hadd2Imm h f rm ftz d a imm => Sys2Proof.Machine.execHadd2Imm h f rm ftz d a imm s
  | .hmul2 h f rm ftz d a b => Sys2Proof.Machine.execHmul2 h f rm ftz d a b s
  | .hmul2Imm h f rm ftz d a imm => Sys2Proof.Machine.execHmul2Imm h f rm ftz d a imm s
  | .hfma2 h f rm ftz d a b c => Sys2Proof.Machine.execHfma2 h f rm ftz d a b c s
  | .hmnx2 h f max ftz d a b => Sys2Proof.Machine.execHmnx2 h f max ftz d a b s
  | .hmnx2Imm h f max ftz d a imm => Sys2Proof.Machine.execHmnx2Imm h f max ftz d a imm s
  | .f2i h rm ft it d a => Sys2Proof.Machine.execF2i h rm ft it d a s
  | .i2f h rm ft it d a => Sys2Proof.Machine.execI2f h rm ft it d a s
  | .f2f h rm ftz fd fs d a => Sys2Proof.Machine.execF2f h rm ftz fd fs d a s
  | .qcvt h rm sf d a b => Sys2Proof.Machine.execQcvt h rm sf d a b s
  | .dqcvt h sf d a => Sys2Proof.Machine.execDqcvt h sf d a s
  | .qpack h sf d a b => Sys2Proof.Machine.execQpack h sf d a b s
  | .fdot2 h rm ftz d a b c => Sys2Proof.Machine.execFdot2 h rm ftz d a b c s
  | .fscale h rm ftz d a b => Sys2Proof.Machine.execFscale h rm ftz d a b s
  | .fscaleImm h rm ftz d a imm => Sys2Proof.Machine.execFscaleImm h rm ftz d a imm s
  | .sadd h d a b => Sys2Proof.Machine.execSadd h d a b s
  | .ssub h d a b => Sys2Proof.Machine.execSsub h d a b s
  | .smul h d a b => Sys2Proof.Machine.execSmul h d a b s
  | .sdiv h d a b => Sys2Proof.Machine.execSdiv h d a b s
  | .ssq h d a => Sys2Proof.Machine.execSsq h d a s
  | .sexp h d a => Sys2Proof.Machine.execSexp h d a s
  | .sln h d a => Sys2Proof.Machine.execSln h d a s
  | .scmp h cmp d a b => Sys2Proof.Machine.execScmp h cmp d a b s
  | .sclass h d a => Sys2Proof.Machine.execSclass h d a s
  | .scvtSliF32 h d a => Sys2Proof.Machine.execScvtSliF32 h d a s
  | .scvtF32Sli h d a => Sys2Proof.Machine.execScvtF32Sli h d a s
  | .srecip h d a => Sys2Proof.Machine.execSrecip h d a s
  | .ld h sz ord d a b off => Sys2Proof.Machine.execLd h sz ord d a b off s
  | .ldSp h sz ordCore d a b off => Sys2Proof.Machine.execLdSp h sz ordCore d a b off s
  | .st h sz ord d a b off => Sys2Proof.Machine.execSt h sz ord d a b off s
  | .stSp h sz ordCore d a b off => Sys2Proof.Machine.execStSp h sz ordCore d a b off s
  | .atom h op ty ord sc d a off b => Sys2Proof.Machine.execAtom h op ty ord sc d a off b s
  | .cas h ty ord sc d a off b => Sys2Proof.Machine.execCas h ty ord sc d a off b s
  | .red h op ty ord sc a off b => Sys2Proof.Machine.execRed h op ty ord sc a off b s
  | .fence h sc => Sys2Proof.Machine.execFence h sc s
  | .waitaddr h a off b => Sys2Proof.Machine.execWaitaddr h a off b s
  | .sptest h d a => Sys2Proof.Machine.execSptest h d a s
  | .spcastGen h d a => Sys2Proof.Machine.execSpcastGen h d a s
  | .spcastSp h d a => Sys2Proof.Machine.execSpcastSp h d a s
  | .pref h l2 a b off => Sys2Proof.Machine.execPref h l2 a b off s
  | .cctlInv h a off => Sys2Proof.Machine.execCctlInv h a off s
  | .cctlWb h a off => Sys2Proof.Machine.execCctlWb h a off s
  | .cctlInvall h => Sys2Proof.Machine.execCctlInvall h s
  | .wcflush h => Sys2Proof.Machine.execWcflush h s
  | .sdrop h first count => Sys2Proof.Machine.execSdrop h first count s
  | .swake h first count => Sys2Proof.Machine.execSwake h first count s
  | .gwmax h d => Sys2Proof.Machine.execGwmax h d s
  | .tcopy h ch a => Sys2Proof.Machine.execTcopy h ch a s
  | .tstore h ch a => Sys2Proof.Machine.execTstore h ch a s
  | .tcopys h ch a => Sys2Proof.Machine.execTcopys h ch a s
  | .chptr h d ch b => Sys2Proof.Machine.execChptr h d ch b s
  | .chwait h ch b => Sys2Proof.Machine.execChwait h ch b s
  | .chdrain h ch => Sys2Proof.Machine.execChdrain h ch s
  | .chstat h d ch => Sys2Proof.Machine.execChstat h d ch s
  | .ringinit h rg b c => Sys2Proof.Machine.execRinginit h rg b c s
  | .ringacqProd h d rg => Sys2Proof.Machine.execRingacqProd h d rg s
  | .ringacqCons h d rg => Sys2Proof.Machine.execRingacqCons h d rg s
  | .ringrelProd h rg => Sys2Proof.Machine.execRingrelProd h rg s
  | .ringrelCons h rg => Sys2Proof.Machine.execRingrelCons h rg s
  | .ringwaitProd h rg b => Sys2Proof.Machine.execRingwaitProd h rg b s
  | .ringwaitCons h rg b => Sys2Proof.Machine.execRingwaitCons h rg b s
  | .mma h kind k cv a b c => Sys2Proof.Machine.execMma h kind k cv a b c s
  | .mdecl h cv a b => Sys2Proof.Machine.execMdecl h cv a b s
  | .mwait h cv => Sys2Proof.Machine.execMwait h cv s
  | .mfence h cv => Sys2Proof.Machine.execMfence h cv s
  | .mzero h a => Sys2Proof.Machine.execMzero h a s
  | .mload h i32 a b => Sys2Proof.Machine.execMload h i32 a b s
  | .mstore h cell a b => Sys2Proof.Machine.execMstore h cell a b s
  | .mlive h mask => Sys2Proof.Machine.execMlive h mask s
  | .mstat h d => Sys2Proof.Machine.execMstat h d s
  | .mmaIssueOnRoom c => Sys2Proof.Machine.execMmaIssueOnRoom c s
  | .mmaComplete c => Sys2Proof.Machine.execMmaComplete c s
  | .matrixOpComplete t => Sys2Proof.Machine.execMatrixOpComplete t s
  | .barinit h sc bar a => Sys2Proof.Machine.execBarinit h sc bar a s
  | .bararv h bar => Sys2Proof.Machine.execBararv h bar s
  | .barwait h bar => Sys2Proof.Machine.execBarwait h bar s
  | .barsync h bar => Sys2Proof.Machine.execBarsync h bar s
  | .barstat h d bar => Sys2Proof.Machine.execBarstat h d bar s
  | .barset h bar b => Sys2Proof.Machine.execBarset h bar b s
  | .gbar h gb => Sys2Proof.Machine.execGbar h gb s
  | .barrierArrivalCounted t => Sys2Proof.Machine.execBarrierArrivalCounted t s
  | .barrierDelivery g gb core => Sys2Proof.Machine.execBarrierDelivery g gb core s
  | .wpop h d => Sys2Proof.Machine.execWpop h d s
  | .wpush h a b => Sys2Proof.Machine.execWpush h a b s
  | .launch h a => Sys2Proof.Machine.execLaunch h a s
  | .signalSet h a b => Sys2Proof.Machine.execSignalSet h a b s
  | .signalAdd h a b => Sys2Proof.Machine.execSignalAdd h a b s
  | .sigwait h cmp a b => Sys2Proof.Machine.execSigwait h cmp a b s
  | .gswap h cmp a b => Sys2Proof.Machine.execGswap h cmp a b s
  | .qroom h d a => Sys2Proof.Machine.execQroom h d a s
  | .pair h x y => Sys2Proof.Machine.execPair h x y s
  | .sysr h d n => Sys2Proof.Machine.execSysr h d n s
  | .sysw h a n => Sys2Proof.Machine.execSysw h a n s
  | .tret h => Sys2Proof.Machine.execTret h s
  | .tswr h d a => Sys2Proof.Machine.execTswr h d a s
  | .tsww h a b => Sys2Proof.Machine.execTsww h a b s
  | .ologr h d a b => Sys2Proof.Machine.execOlogr h d a b s
  | .xgetPred h d => Sys2Proof.Machine.execXgetPred h d s
  | .xgetStruct h d a => Sys2Proof.Machine.execXgetStruct h d a s
  | .xsetPred h b => Sys2Proof.Machine.execXsetPred h b s
  | .xsetStruct h a b => Sys2Proof.Machine.execXsetStruct h a b s
  | .placeCore h d a => Sys2Proof.Machine.execPlaceCore h d a s
  | .placeDie h d a => Sys2Proof.Machine.execPlaceDie h d a s
  | .placePort h d a => Sys2Proof.Machine.execPlacePort h d a s
  | .issueRound c slice => Sys2Proof.Machine.execIssueRound c slice s
  | .kickTaken t => Sys2Proof.Machine.execKickTaken t s
  | .deferredTrapDelivery t => Sys2Proof.Machine.execDeferredTrapDelivery t s
  | .walkComplete c vpn => Sys2Proof.Machine.execWalkComplete c vpn s
  | .parkedReplay c entry => Sys2Proof.Machine.execParkedReplay c entry s
  | .fltackReplay c all entry => Sys2Proof.Machine.execFltackReplay c all entry s
  | .fltackDeliver c all entry => Sys2Proof.Machine.execFltackDeliver c all entry s
  | .fltackFault c all entry => Sys2Proof.Machine.execFltackFault c all entry s
  | .fltackIgnored c all entry => Sys2Proof.Machine.execFltackIgnored c all entry s
  | .invalComplete q => Sys2Proof.Machine.execInvalComplete q s
  | .storePerformedAtHome c seq evicted => Sys2Proof.Machine.execStorePerformedAtHome c seq evicted s
  | .storeAnswer c seq => Sys2Proof.Machine.execStoreAnswer c seq s
  | .atomicAnswer c seq => Sys2Proof.Machine.execAtomicAnswer c seq s
  | .loadResponse c seq => Sys2Proof.Machine.execLoadResponse c seq s
  | .leaseExpiry c line => Sys2Proof.Machine.execLeaseExpiry c line s
  | .wcEntryTimeout c id => Sys2Proof.Machine.execWcEntryTimeout c id s
  | .fenceComplete t => Sys2Proof.Machine.execFenceComplete t s
  | .waitaddrWake t => Sys2Proof.Machine.execWaitaddrWake t s
  | .waitaddrDeadline t => Sys2Proof.Machine.execWaitaddrDeadline t s
  | .sleepDeadline t => Sys2Proof.Machine.execSleepDeadline t s
  | .signalWaitWake t => Sys2Proof.Machine.execSignalWaitWake t s
  | .copyStart c ch => Sys2Proof.Machine.execCopyStart c ch s
  | .copyGranuleDelivered c ch => Sys2Proof.Machine.execCopyGranuleDelivered c ch s
  | .launchDecision c => Sys2Proof.Machine.execLaunchDecision c s
  | .groupPlace k => Sys2Proof.Machine.execGroupPlace k s
  | .groupDrained g => Sys2Proof.Machine.execGroupDrained g s
  | .gswapSwapOut g => Sys2Proof.Machine.execGswapSwapOut g s
  | .gswapSwapIn g => Sys2Proof.Machine.execGswapSwapIn g s
  | .regBankRetention c slice row lane => Sys2Proof.Machine.execRegBankRetention c slice row lane s
  | .regBankWakeDone c slice row lane => Sys2Proof.Machine.execRegBankWakeDone c slice row lane s
  | .scrBankRetention c bank => Sys2Proof.Machine.execScrBankRetention c bank s
  | .scrBankWakeDone c bank => Sys2Proof.Machine.execScrBankWakeDone c bank s
  | .tileWakeDone c tile => Sys2Proof.Machine.execTileWakeDone c tile s
  | .ptpMeasurement port offset => Sys2Proof.Machine.execPtpMeasurement port offset s
  | .syncTimeout next => Sys2Proof.Machine.execSyncTimeout next s
  | .holdoverLimit => Sys2Proof.Machine.execHoldoverLimit s
  | .heartbeatSend => Sys2Proof.Machine.execHeartbeatSend s
  | .heartbeatReceive pkg verified => Sys2Proof.Machine.execHeartbeatReceive pkg verified s
  | .schedulerTakeover => Sys2Proof.Machine.execSchedulerTakeover s
  | .timetableEntry m => Sys2Proof.Machine.execTimetableEntry m s
  | .maskMessage m => Sys2Proof.Machine.execMaskMessage m s
  | .maskEffect => Sys2Proof.Machine.execMaskEffect s
  | .preemptionRequest m => Sys2Proof.Machine.execPreemptionRequest m s
  | .stagingStart x => Sys2Proof.Machine.execStagingStart x s
  | .stagingComplete x => Sys2Proof.Machine.execStagingComplete x s
  | .entryStart part => Sys2Proof.Machine.execEntryStart part s
  | .entryEnd part => Sys2Proof.Machine.execEntryEnd part s
  | .preemptionStart part => Sys2Proof.Machine.execPreemptionStart part s
  | .preemptionEnd part => Sys2Proof.Machine.execPreemptionEnd part s
  | .haltIssueStopped x => Sys2Proof.Machine.execHaltIssueStopped x s
  | .drainComplete x => Sys2Proof.Machine.execDrainComplete x s
  | .imageSealed x => Sys2Proof.Machine.execImageSealed x s
  | .loadComplete x => Sys2Proof.Machine.execLoadComplete x s
  | .placeRequest mb tag part tab die vals => Sys2Proof.Machine.execPlaceRequest mb tag part tab die vals s
  | .partopForm mb tag part dpt cpt ppt => Sys2Proof.Machine.execPartopForm mb tag part dpt cpt ppt s
  | .partopReset mb tag part => Sys2Proof.Machine.execPartopReset mb tag part s
  | .partopDissolve mb tag part => Sys2Proof.Machine.execPartopDissolve mb tag part s
  | .partopCoreRemap mb tag part core val => Sys2Proof.Machine.execPartopCoreRemap mb tag part core val s
  | .partopLaneDegrade mb tag part die port lanes => Sys2Proof.Machine.execPartopLaneDegrade mb tag part die port lanes s
  | .kgen mb tag part slot => Sys2Proof.Machine.execKgen mb tag part slot s
  | .krevoke mb tag part slot => Sys2Proof.Machine.execKrevoke mb tag part slot s
  | .kexport mb tag part slot => Sys2Proof.Machine.execKexport mb tag part slot s
  | .kimport mb tag part slot wrapped => Sys2Proof.Machine.execKimport mb tag part slot wrapped s
  | .kmask mb tag part ctx mask => Sys2Proof.Machine.execKmask mb tag part ctx mask s
  | .ctxsetInstall mb tag part ctx ctxsa => Sys2Proof.Machine.execCtxsetInstall mb tag part ctx ctxsa s
  | .ctxsetDiscard mb tag part ctx => Sys2Proof.Machine.execCtxsetDiscard mb tag part ctx s
  | .attest mb tag part nonce => Sys2Proof.Machine.execAttest mb tag part nonce s
  | .hwinRequest mb tag part idx val => Sys2Proof.Machine.execHwinRequest mb tag part idx val s
  | .poolwinRequest mb tag part idx val => Sys2Proof.Machine.execPoolwinRequest mb tag part idx val s
  | .lidaddrRequest mb tag part val => Sys2Proof.Machine.execLidaddrRequest mb tag part val s
  | .configMemcfg mb tag part idx val => Sys2Proof.Machine.execConfigMemcfg mb tag part idx val s
  | .configGtepoch mb tag part idx val => Sys2Proof.Machine.execConfigGtepoch mb tag part idx val s
  | .configPtpDomain mb tag part idx val => Sys2Proof.Machine.execConfigPtpDomain mb tag part idx val s
  | .configAsymmetry mb tag part idx val => Sys2Proof.Machine.execConfigAsymmetry mb tag part idx val s
  | .mailboxBadRequest mb req => Sys2Proof.Machine.execMailboxBadRequest mb req s
  | .svnRaise bank svn => Sys2Proof.Machine.execSvnRaise bank svn s
  | .coldReset => Sys2Proof.Machine.execColdReset s
  | .qtailDoorbell q tail => Sys2Proof.Machine.execQtailDoorbell q tail s
  | .queueEnable q => Sys2Proof.Machine.execQueueEnable q s
  | .queueDisable q => Sys2Proof.Machine.execQueueDisable q s
  | .packetStart q => Sys2Proof.Machine.execPacketStart q s
  | .packetFeed q => Sys2Proof.Machine.execPacketFeed q s
  | .packetSignal q => Sys2Proof.Machine.execPacketSignal q s
  | .packetWaitall q => Sys2Proof.Machine.execPacketWaitall q s
  | .packetWaitany q => Sys2Proof.Machine.execPacketWaitany q s
  | .packetTimemark q => Sys2Proof.Machine.execPacketTimemark q s
  | .packetInval q => Sys2Proof.Machine.execPacketInval q s
  | .packetNop q => Sys2Proof.Machine.execPacketNop q s
  | .queueWake q => Sys2Proof.Machine.execQueueWake q s
  | .waitPeriodicEvaluation q => Sys2Proof.Machine.execWaitPeriodicEvaluation q s
  | .eventDispatch part ladle => Sys2Proof.Machine.execEventDispatch part ladle s
  | .handlerComplete part ladle => Sys2Proof.Machine.execHandlerComplete part ladle s
  | .ladleWatchdog part ladle => Sys2Proof.Machine.execLadleWatchdog part ladle s
  | .linkEnable l => Sys2Proof.Machine.execLinkEnable l s
  | .linkTrained l lanes => Sys2Proof.Machine.execLinkTrained l lanes s
  | .linkTrainFail l => Sys2Proof.Machine.execLinkTrainFail l s
  | .linkRetrainTimer l => Sys2Proof.Machine.execLinkRetrainTimer l s
  | .flitCrcReplay l good => Sys2Proof.Machine.execFlitCrcReplay l good s
  | .fabricPacketReceive die port hdr payload => Sys2Proof.Machine.execFabricPacketReceive die port hdr payload s
  | .closedLinkDiscard l => Sys2Proof.Machine.execClosedLinkDiscard l s
  | .fabricRequestTimeout die tag => Sys2Proof.Machine.execFabricRequestTimeout die tag s
  | .fabricResendTimeout die tag => Sys2Proof.Machine.execFabricResendTimeout die tag s
  | .affswWrite part swt => Sys2Proof.Machine.execAffswWrite part swt s
  | .affinityEntryWrite part bank idx val => Sys2Proof.Machine.execAffinityEntryWrite part bank idx val s
  | .affinityFlip part => Sys2Proof.Machine.execAffinityFlip part s
  | .governorSample c => Sys2Proof.Machine.execGovernorSample c s
  | .voltageRampDone c => Sys2Proof.Machine.execVoltageRampDone c s
  | .sliceHoldEnd c slice => Sys2Proof.Machine.execSliceHoldEnd c slice s
  | .budgetInterval c energy => Sys2Proof.Machine.execBudgetInterval c energy s
  | .pwrctlWrite c val => Sys2Proof.Machine.execPwrctlWrite c val s
  | .timingErrorDetect t => Sys2Proof.Machine.execTimingErrorDetect t s
  | .supplyWarn => Sys2Proof.Machine.execSupplyWarn s
  | .lidAckDeadline => Sys2Proof.Machine.execLidAckDeadline s
  | .patrolScrub x uncorrectable => Sys2Proof.Machine.execPatrolScrub x uncorrectable s
  | .hostWindowAccess part pa write len => Sys2Proof.Machine.execHostWindowAccess part pa write len s
  | .registerWrite w part r val => Sys2Proof.Machine.execRegisterWrite w part r val s
  | .delayReq => Sys2Proof.Machine.execDelayReq s

end Sys2Proof.Machine
end

