-- ==== Sys2Proof/Machine/Run.lean ====
section
/-! DEFINITION. What a step does: the issuing thread's fetch, decode and execution, and an agent's move; and the setting up of a place
where the next step fetches. -/
namespace Sys2Proof.Machine
open Sys2Proof

/-- The issuing thread fetches, decodes and executes one word (R80, R82, R97). -/
def State.runHead (s : State) (t : TRef) : Out State Fault Refusal :=
  match s.thread? t with
  | none => .next s
  | some x =>
    if !s.canIssue t x then .next s
    else
      let r := s.fetchWord t x.pc.toNat
      match r.2 with
      | .word w =>
        match decode w with
        | .ok i => exec i r.1
        | .error _ => .next (r.1.trapHere t x .undef)
      | .park m va => .next (r.1.fetchPark t m va false)
      | .poison => .next (r.1.precise t x .mcheck (pcWord x.pc) (pcWord x.pc) 0)
      | .wait => .next (r.1.hold t)

/-- Where GTIME has stepped, what has become due happens before anything else (R35, R48). DESIGN CHOICE: log 1. -/
def State.afterStep (s : State) (was : DWord) : State := if s.time.gtime = was then s else { s with agenda := s.due }

/-- Perform a move: a tick, or an agent's event; a thread's instruction is no event of its own and counts as a tick. DESIGN CHOICE: log 1. -/
def State.move (s : State) (m : Move) : Out State Fault Refusal :=
  match m with
  | .tick => .next s.tick
  | .event i =>
    if i.isThread then .next s.tick
    else match exec i s with
      | .next s' => .next (s'.afterStep s.time.gtime)
      | r => r

/-! ### Placing a program (log 12) -/

/-- The role of the group that a word is placed for: one that may issue it (R102). DESIGN CHOICE: log 12. -/
def roleFor (w : BitVec 96) : Role :=
  match decode w with
  | .ok i => if i.roleOk .general then .general else if i.roleOk .copy then .copy else .matrix
  | .error _ => .general

/-- DESIGN CHOICE: log 12. -/
def demoGroup (role : Role) : Group :=
  { kidx := 0, gnum := 0, gang := 0, grank := 0, gangN := 1, role := role, w := 8, gsz := 32, st := .resident,
    handler := 0x200000, sidethr := 0x7F800000, sideptr := 0, banks := 1, first := 0, count := 1, chans := 1, rings := 1, tiles := [0],
    mlive := 1, mexc := 0, cvs := List.replicate 8 CvRec.clear, nbs := List.replicate 16 BarRec.clear, uncov := [], latch := none,
    slots := [(0, 0)], pbase := 0x400000, psize := 0x100 }

/-- DESIGN CHOICE: log 12. -/
def demoKernel (role : Role) : Kernel :=
  { handle := 0x300000, st := .resident, entry := 0x100000, role := role, lat := 0, w := 8, gsz := 32, scrb := 1, fbank := 0xFF,
    tiles := 1, chans := 1, gangN := 1, psize := 0x100, rings := List.replicate 8 none, ngrp := 1, cbase := 0, cspan := 1,
    priv := 0x400000, args := [], donesig := 0, doneadd := 0, qaddr := 0, qlog := 0, head := 0, tail := 0, closed := true,
    nplaced := 1, nfree := 0, popNext := 0, wct := 0 }

/-- DESIGN CHOICE: log 12. -/
def demoHolding : Holding :=
  { Holding.empty with
    banks := [(0, { grp := 0, live := true })], tiles := [(0, 0)], rows := List.replicate 6 (List.range 8),
    chans := [(0, { grp := 0, q := [], st := .idle, err := 0, sat := false, miss := none, wp := [0, 0, 0, 0], start := 0,
                    started := false, ct := 0 })],
    rings := [(0, { base := 0, m := 0, slots := 0, k := 0, pcnt := 0, ccnt := 0, ph := 0, phold := false, chold := false,
                    init := false })] }

/-- DESIGN CHOICE: log 12. -/
def demoCtx : CtxRef := { part := 0, ctx := 1 }
def demoCC : CCRef := { part := 0, ctx := 1, core := 0 }
def demoThread : TRef := { part := 0, ctx := 1, core := 0, grp := 0, rank := 0 }

/-- The state with partition 0 formed of die 0, context 1 ACTIVE on it with one page of 1 GiB at address 0, and a group of 32
threads on core 0 that stand at 0x100000. DESIGN CHOICE: log 12. -/
def State.demo (s : State) (role : Role) : State :=
  let s := s.modDie 0 fun d => { d with diepart := 0x80000000, cpt := modNth d.cpt 0 fun _ => 0x80000000 }
  let s := s.modPart 0 fun p => { p with
    dpt := modNth p.dpt 0 fun _ => 0x80000000, keylive := p.keylive ||| 1, keys := modNth p.keys 0 fun _ => some 0, running := some 1 }
  let s := s.setCtx demoCtx { Ctx.reset with
    ctxsa := 0x8000000000000000, st := .active, keymask := 1, ptroot := 0x8000000000010000, handler := 0x200000 }
  let s := (s.homePut 0 0 0x10000 (bytesOfNat 8 0x8000000000020000)).homePut 0 0 0x20000 (bytesOfNat 8 0xC00000000000001C)
  let s := (s.setGroup demoThread.group (demoGroup role)).setHolding demoCC demoHolding
  let s := s.setKernel { part := 0, ctx := 1, kidx := 0 } (demoKernel role)
  let s := s.setGang { part := 0, ctx := 1, kidx := 0, gang := 0 }
    { lat := 0, cores := [0], grps := [0], gbs := List.replicate 4 BarRec.clear, latch := none }
  let s := (List.range 32).foldl (fun s i => s.setThread (demoThread.group.thread i) (Thread.start i 0x100000 8)) s
  { s with issueQ := [demoThread] }

/-- Where the next step fetches, when the thread at the head of the issue queue may issue and its word lies in local memory of one
page. DESIGN CHOICE: log 12. -/
def State.fetchPlace (s : State) : Option (CtxRef × Nat × Nat) :=
  match s.issueQ with
  | [] => none
  | t :: _ =>
    match s.thread? t with
    | none => none
    | some x =>
      if s.canIssue t x && firstPart x.pc.toNat == 12 then
        match (s.translate t.ctxRef t.core x.pc.toNat .fetch).2 with
        | .ok (.mem pa k _ false) => some (t.ctxRef, k, pa)
        | _ => none
      else none

end Sys2Proof.Machine
end

