-- ==== Sys2Proof/Machine/Step.lean ====
section
/-! DEFINITION. One step of the package: the next thread of an issue group fetches and executes its word, or an event that is due
happens, or the agents' free choice is taken (log 1). And the placing of an instruction where the next step fetches it. -/
namespace Sys2Proof.Machine
open Sys2Proof

/-- One step of the machine. DESIGN CHOICE: log 1. -/
def step (s : State) : Out State Fault Refusal :=
  match s.issueQ with
  | t :: q => { s with issueQ := q, cur := some t }.runHead t
  | [] =>
    match s.agenda with
    | d :: ds => d.run { s with agenda := ds }
    | [] => { s with moves := s.moves + 1 }.move (Config.nextMove s.moves)

/-- The state with a word stored where the next step fetches: at the head thread's PC, or, where no thread is about to issue, at the PC of a
group that is set up for it (DESIGN CHOICE, log 12). -/
def State.withFetchWord (s : State) (nbits w : Nat) : State :=
  let bs := bytesOfNat 12 (w % 2 ^ nbits)
  match s.fetchPlace with
  | some (x, k, pa) => s.homePut x.part k pa bs
  | none => (s.demo (roleFor (BitVec.ofNat 96 (w % 2 ^ nbits)))).homePut 0 0 0x100000 bs

end Sys2Proof.Machine
end

