-- ==== Sys2Proof/Machine/Registers.lean ====
section
/-! DEFINITION. What a Ladle core, a host window or the Pestle reads from a register: each word laid out by its table, and who reaches it
(01_package.md R18, R19, R25, R26, R28, R29, 17_queue.md R371, R390, 19_context.md R411, 21_link.md R438, R447, R450, 22_power.md R462, R474,
23_trust.md R489). -/
namespace Sys2Proof.Machine
open Sys2Proof

/-! ### The words -/

/-- STATE of PORTSTAT (R438). -/
def LSt.code : LSt → Nat
  | .down => 0
  | .training => 1
  | .up => 2
  | .degraded => 3
  | .quiesced => 4
  | .fenced => 5

/-- PORTSTAT (R438). -/
def Link.portstat (l : Link) : Nat :=
  min l.retrains 63 * 2 ^ 24 + min l.drops 0xFFFF * 2 ^ 8 + l.lanes.toNat * 2 ^ 4 + l.st.code

/-- STATE of QCTL (R371). -/
def QSt.code : QSt → Nat
  | .disabled => 0
  | .idle => 1
  | .running => 2
  | .blocked => 3
  | .error => 4

/-- QCTL (R371). -/
def Queue.qctlWord (y : Queue) : Nat :=
  (if y.en then 2 ^ 31 else 0) + y.st.code * 2 ^ 24 + y.err % 256 * 2 ^ 16 + (if y.st = .blocked then y.hold % 16 else 0) * 2 ^ 12 + y.qlog % 32

/-- TRACECFG (R390). -/
def Part.tracecfgWord (p : Part) : Nat := (if p.traceEn then 2 ^ 31 else 0) + (if p.traceOvf then 2 ^ 30 else 0) + p.tlog % 32

/-- STATE of CTXSTAT (R411). -/
def CSt.code : CSt → Nat
  | .empty => 0
  | .staging => 1
  | .staged => 2
  | .active => 3
  | .halting => 4
  | .saving => 5
  | .saved => 6
  | .loading => 7
  | .revoked => 8
  | .faulted => 9

/-- CTXSTAT of a context (R411). -/
def Ctx.statWord (c : Ctx) (ctx : Nat) : Nat := ctx % 2 ^ 16 * 2 ^ 16 + c.gen.toNat * 2 ^ 8 + c.st.code

/-- AFFCTL (R450). -/
def Part.affctlWord (p : Part) : Nat := (if p.affPend then 2 ^ 31 else 0) + (if p.affAct then 1 else 0)

/-- PWRSTAT: VCUR, VTGT, VOK and DENY (R462). -/
def Core.pwrstatWord (k : Core) (now : DWord) : Nat :=
  k.vnow now % 2 ^ 10 * 2 ^ 22 + k.vtgt % 2 ^ 10 * 2 ^ 12 + (if k.vnow now = k.vtgt then 2 ^ 8 else 0) + min k.deny 255

/-- SLCLK: HOLD, the entries of the two FIFOs, REPL and TGT (R462). -/
def Slice.slclkWord (x : Slice) (now : DWord) : Nat :=
  (if x.holding now then 2 ^ 31 else 0) + min x.xrq 16 * 2 ^ 24 + min x.xiq 16 * 2 ^ 16 + min x.repl 255 * 2 ^ 8 + x.tgt % 32

/-! ### Who reads them -/

/-- The dies of a link or port. -/
def LinkRef.dies : LinkRef → List Nat
  | .port d _ => [d]
  | .d2d l => if l < 4 then let e := linkEnds.getD l (0, 0); [e.1, e.2] else [l - 4]

/-- The Pestle reads every register; a Ladle core and a host window those of their own partition and its dies (R28, R29, R389, R438); FWLINK is the
Pestle's, and HWSTAT is read through the partition's mailbox (R489). DEDUCED: log 63. -/
def State.mayRead (s : State) (w : Writer) (part : Nat) (r : RegName) : Bool :=
  Writer.isPestle w || (Writer.reaches w part && match r with
    | .fwlink _ => false
    | .portstat l => (LinkRef.dies l).any (s.partDies part).contains
    | .cpt d _ | .ppt d _ | .diepart d => (s.partDies part).contains d
    | _ => true)

/-- The word a register holds. DEDUCED: log 63. -/
def State.regWord (s : State) (part : Nat) (r : RegName) : DWord :=
  let p := s.part part
  let now := s.dieTime ((s.partDies part).headD 0)
  match r with
  | .qbase q => (s.queue { part := part, q := q }).qbase
  | .qctl q => BitVec.ofNat 64 (s.queue { part := part, q := q }).qctlWord
  | .qctx q => BitVec.ofNat 64 ((s.queue { part := part, q := q }).qctx % 2 ^ 16)
  | .qhead q => BitVec.ofNat 64 ((s.queue { part := part, q := q }).head % 2 ^ 32)
  | .tracecfg => BitVec.ofNat 64 p.tracecfgWord
  | .tbase => p.tbase
  | .tcount => BitVec.ofNat 64 (p.tcount % 2 ^ 32)
  | .fwlink l => BitVec.ofNat 64 (s.link (.d2d l)).fwlink
  | .portstat l => BitVec.ofNat 64 (s.link l).portstat
  | .cpt d i => ((s.die d).cpt.getD i 0).zeroExtend 64
  | .dpt i => (p.dpt.getD i 0).zeroExtend 64
  | .ppt d i => ((s.die d).ppt.getD i 0).zeroExtend 64
  | .diepart d => (s.die d).diepart.zeroExtend 64
  | .memcfg => p.memcfg.zeroExtend 64
  | .keymask c => (s.ctx { part := part, ctx := c }).keymask
  | .keylive => p.keylive
  | .ctxsa c => (s.ctx { part := part, ctx := c }).ctxsa
  | .ctxstat c => BitVec.ofNat 64 ((s.ctx { part := part, ctx := c }).statWord c)
  | .poolwin i => p.poolwin.getD i 0
  | .hwin i => p.hwin.getD i 0
  | .hwstat => BitVec.ofNat 64 (min p.hwDrops 0xFFFF)
  | .lidaddr => p.lidaddr
  | .affctl => BitVec.ofNat 64 p.affctlWord
  | .gtime => now
  | .epsilon => BitVec.ofNat 64 s.epsilon
  | .timestat => s.timestat.zeroExtend 64
  | .pwrstat c => BitVec.ofNat 64 ((s.core { part := part, core := c }).pwrstatWord now)
  | .slclk c i => BitVec.ofNat 64 (((s.core { part := part, core := c }).slices.getD i Slice.reset).slclkWord now)

/-- A read of a register: `none` where the reader does not reach it. -/
def State.readReg (s : State) (w : Writer) (part : Nat) (r : RegName) : Option DWord :=
  if s.mayRead w part r then some (s.regWord part r) else none

end Sys2Proof.Machine
end

