-- ==== Sys2Proof/Safety.lean ====
section
/-! DEFINITION. What counts as a safe step, and the terms the statements use: when an instruction runs, what its retirement gives its
thread, and what it leaves unchanged. -/
namespace Sys2Proof
open Sys2Proof.Machine

/-- A step that goes on: neither a fault nor a refusal. -/
def Goes (o : Out State Fault Refusal) : Prop := ∃ t, o = .next t

/-- A state whose memory keeps its canonical form. -/
def Canonical (s : State) : Prop := Memory.wf s.mem = true

/-! ### Running an instruction -/

/-- Thread t, of record x and group record g, is the issuing thread of s, and the checks of R97 let i execute. -/
structure Runs (s : State) (i : Instr) (t : TRef) (x : Thread) (g : Group) : Prop where
  cur    : s.cur = some t
  thread : s.thread? t = some x
  group  : s.group? t.group = some g
  gate   : s.gate t x g i = .run

/-- The value an instruction writes to a register: the last of its writes to it. -/
def written (vs : List (VReg × Word)) (n : VReg) : Option Word := (vs.reverse.find? fun e => e.1 = n).map (·.2)

/-- The value an instruction writes to a predicate. -/
def writtenP (ps : List (PReg × Bool)) (p : PReg) : Option Bool := (ps.reverse.find? fun e => e.1 = p).map (·.2)

/-- The thread's record y after an instruction with hints h that gives results r retires from record x: the written registers, then the
windows WDROP names dead, with their registers lost (R94, R129, R130); predicates, pt discarding (R89); flags accrued by OR (R56, R77);
PC (R80); hints (R93); nothing else (R117). -/
structure Retires (x y : Thread) (h : Hints) (r : Res) : Prop where
  regs  : ∀ n : VReg, y.rd n = if h.wdrop.getLsbD n.window then 0 else (written r.vs n).getD (x.rd n)
  live  : ∀ w < 8, y.live.getLsbD w = ((x.live.getLsbD w || r.vs.any fun v => v.1.window == w) && !h.wdrop.getLsbD w)
  preds : ∀ p : PReg, y.prd p = (p == 15 || (writtenP r.ps p).getD (x.prd p))
  flags : y.fflags = x.fflags ||| r.ff ∧ y.lxflags = x.lxflags ||| r.lx
  pc    : y.pc = r.pc.getD (x.pc + 12)
  rest  : y = { x with regs := y.regs, live := y.live, preds := y.preds, fflags := y.fflags, lxflags := y.lxflags, pc := y.pc,
                       gap := x.gapOf h, yld := h.yld, ph := .none, cur := none, deadline := none }

/-- What an instruction that touches only its own thread leaves unchanged: every other thread, every byte of memory, every group, kernel,
context, partition, die and device record, scratchpads and accumulators; of the cores only the power state of register banks may change
(R134, R135), and of the register errors some may go (R394). -/
structure OnlyThread (s s' : State) (t : TRef) : Prop where
  others : ∀ u, u ≠ t → s'.thread? u = s.thread? u
  memory : ∀ a, s'.memByte a = s.memByte a
  cores  : ∀ c, s'.core c = { s.core c with regPow := (s'.core c).regPow }
  errors : ∀ e ∈ s'.regPois, e ∈ s.regPois
  rest   : s' = { s with threads := s'.threads, cores := s'.cores, regPois := s'.regPois }

/-- The state after an instruction of thread t has retired: as it is, or, for a stepping thread outside a trap, after the trap STEP with EPC
the next instruction (R400). -/
def afterStep (s : State) (t : TRef) (x : Thread) (pc : Pc) : State :=
  if x.step && !x.h then s.takeTrap t .step (pcWord pc) 0 0 else s

/-- Instruction i of thread t completes in s with results r for the record x, and touches only its own thread of s0: s itself, or s after
what else the instruction does before it retires. -/
def CompletesFrom (s0 s : State) (i : Instr) (t : TRef) (x : Thread) (r : Res) : Prop :=
  ∃ s' y, s'.thread? t = some y ∧ Retires x y i.hints r ∧ OnlyThread s0 s' t ∧ exec i s = .next (afterStep s' t x y.pc)

/-- So does it, and f follows: what its retirement lets others do. -/
def CompletesThen (s0 s : State) (i : Instr) (t : TRef) (x : Thread) (r : Res) (f : State → State) : Prop :=
  ∃ s' y, s'.thread? t = some y ∧ Retires x y i.hints r ∧ OnlyThread s0 s' t ∧ exec i s = .next (f (afterStep s' t x y.pc))

/-- A thread that stands in state WAIT at instruction i. -/
def waiting (s : State) (x : Thread) (i : Instr) (ph : Phase) (deadline : Option DWord) : Thread :=
  { x with st := .wait, ph := ph, cur := some i, deadline := deadline, waitFrom := s.time.gtime, gap := x.gapOf i.hints }

/-- Instruction i of thread t completes with results r and touches only its own thread. -/
def Completes (s : State) (i : Instr) (t : TRef) (x : Thread) (r : Res) : Prop := CompletesFrom s s i t x r

/-- A thread that stands at instruction i without waiting in state WAIT (R500). -/
def standing (x : Thread) (i : Instr) (ph : Phase) : Thread := { x with ph := ph, cur := some i, gap := x.gapOf i.hints }

/-- Instruction i of thread t stops it where it stands: the record becomes y and nothing else changes. -/
def Stands (s : State) (i : Instr) (t : TRef) (y : Thread) : Prop :=
  ∃ s', s'.thread? t = some y ∧ OnlyThread s s' t ∧ exec i s = .next s'

/-- A thread back from WAIT: READY, or TRAPPED while H = 1 (R120). -/
def awake (x : Thread) : Thread :=
  { x with st := if x.st = .wait then (if x.h then .trapped else .ready) else x.st, ph := .none, cur := none, deadline := none }

/-- Thread t, of record x in s, ends its wait or hold in o: the instruction it stood at retires with results r, its register banks
leave retention (R120, R134), and its response has gone through its slice's return FIFO (R460). -/
def Finishes (s o : State) (t : TRef) (x : Thread) (r : Res) : Prop :=
  ∃ s' y, s'.thread? t = some y ∧ Retires (awake x) y x.curHints r ∧ OnlyThread s s' t ∧ o = ((afterStep s' t x y.pc).wakeThreadBanks t).respond t

/-- Wherever i runs, it completes with the results that f gives of its thread's registers. -/
def Gives (i : Instr) (f : Thread → Res) : Prop := ∀ s t x g, Runs s i t x g → Completes s i t x (f x)

/-- The threads of s' are those of s, but for what their fences note of writebacks under way (R232). -/
def SameThreads (s s' : State) : Prop :=
  ∀ t, (s'.thread? t).map (fun x => { x with ph := .none }) = (s.thread? t).map (fun x => { x with ph := .none }) ∧
    ∀ x, s.thread? t = some x → (∀ sc seqs wbs nxt, x.ph ≠ .fence sc seqs wbs nxt) → s'.thread? t = some x

/-! ### Cross-lane members -/

/-- The members of a rendezvous of a lane set at a PC and mask: the lanes of the mask whose threads wait there, in rising order, with the
operands they latched (R149, R150). -/
def membersOf (s : State) (g : GRef) (set : Nat) (pc : Pc) (mask : Word) : List Member :=
  ((List.range 32).filter fun l => mask.getLsbD l).filterMap fun l =>
    ((s.thread? (g.thread (32 * set + l))).filter fun x => x.st != .exited).bind fun x =>
      (x.meets pc mask).map fun p => (⟨l, p.1, p.2⟩ : Member)

/-! ### Scratchpads and memory operations -/

/-- A byte of a scratchpad. -/
def scrByte (s : State) (c : CCRef) (off : Nat) : Byte := Tab.get 0 (s.holding c).scratch off

/-- Of the cores, only the power state of scratchpad banks and the write numbering have changed; free values may have been used up. -/
structure OnlyBankState (s s' : State) : Prop where
  cores : ∀ c, s'.core c = { s.core c with scrPow := (s'.core c).scrPow, seq := (s'.core c).seq }
  rest  : s' = { s with cores := s'.cores, fresh := s'.fresh }

/-- Bytes stored at an offset of the scratchpad that context-core c holds: exactly they change. -/
structure ScratchStored (s s' : State) (c : CCRef) (off : Nat) (bytes : List Byte) : Prop where
  stored : ∀ a, scrByte s' c a = if off ≤ a ∧ a < off + bytes.length then bytes.getD (a - off) 0 else scrByte s c a
  others : ∀ d, d ≠ c → s'.holding d = s.holding d
  same   : s'.holding c = { s.holding c with scratch := (s'.holding c).scratch, wseq := (s'.holding c).wseq, banks := (s'.holding c).banks }
  cores  : ∀ d, s'.core d = { s.core d with scrPow := (s'.core d).scrPow, seq := (s'.core d).seq }
  rest   : s' = { s with holds := s'.holds, cores := s'.cores, scrPois := s'.scrPois, fresh := s'.fresh, notes := s'.notes }

/-- A core has handed an operation to the memory system: it stands last among the operations not yet answered. Banks that the operation needs
may have begun to wake (R134, R254). -/
structure Sent (s s' : State) (c : CoreRef) (m : MOp) : Prop where
  core   : s'.core c = { s.core c with seq := (s.core c).seq + 1, mops := (s.core c).mops ++ [m], bytes := (s'.core c).bytes,
                                       regPow := (s'.core c).regPow, scrPow := (s'.core c).scrPow }
  others : ∀ d, d ≠ c → s'.core d = s.core d
  rest   : s' = { s with cores := s'.cores }

/-- The outcome o: instruction i has handed an operation to the memory system from state s0, and its thread stands until the answer (R238, R253). -/
def SendsAndStands (s0 : State) (o : Out State Fault Refusal) (i : Instr) (t : TRef) (x : Thread) (p : MOp → Prop) : Prop :=
  ∃ s1 s2 m, Sent s0 s1 t.coreRef m ∧ m.seq = (s0.core t.coreRef).seq ∧ m.thr = t ∧ m.instr = i ∧ m.entry = none ∧ m.ans = .pending ∧ p m ∧
    OnlyThread s1 s2 t ∧ s2.thread? t = some (standing x i (.answer m.seq)) ∧ o = .next s2

/-- The state in which the home of local memory serves an operation: the L2 has made room for the line and holds it (R227, R241). -/
def homeUse (s : State) (m : MOp) (load : Bool) : State :=
  (s.l2Ready m.thr.ctxRef m.loc (if load then m.instr.chAt m.ea else 0) load).1.l2Use m.thr.ctxRef m.loc (m.instr.chAt m.ea) load

/-- Whether the L2 has that room now. -/
def homeRoom (s : State) (m : MOp) (load : Bool) : Bool := (s.l2Ready m.thr.ctxRef m.loc (if load then m.instr.chAt m.ea else 0) load).2

/-- A sector of local memory reads as it was written: under the same key, or nothing has been written to it (R485). -/
def plainAt (u : State) (part slot a : Nat) : Prop := u.sectorPlain (u.sectorKey part slot (a / 64)) (a / 64) = true

/-- A home reads n bytes of local memory as they stand: in sectors that read as written, and none of them a TSTORE still has to write (R305). -/
def readsPlain (u : State) (part slot pa n : Nat) : Prop := ∀ i < n, plainAt u part slot (pa + i) ∧ pa + i ∉ u.owedMem part

/-- LD, ST, ATOM, CAS and RED, and the SP forms of LD and ST (R250, R259, R261). -/
def isAccess : Instr → Bool
  | .ld .. | .st .. | .ldSp .. | .stSp .. | .atom .. | .cas .. | .red .. => true
  | _ => false

/-! ### Mailbox requests -/

/-- A request is answered: with the status of the first of its checks that applies, and then nothing else changes; with 00, and the state
that its effect leaves, where none applies (R482). -/
def Serves (s : State) (i : Instr) (mb : Mailbox) (tag : Word) (checks : List (Bool × Nat)) (t : State) : Prop :=
  exec i s = .next (match checks.find? (·.1) with
    | some c => s.reply mb tag c.2 []
    | none => t.reply mb tag 0 [])

/-! ### Exact results -/

/-- Saturation into i32 and into n32 (R11 Sat, R163). -/
def satI32 (v : Int) : Word := BitVec.ofInt 32 (max (-2 ^ 31) (min v (2 ^ 31 - 1)))
def satN32 (v : Int) : Word := BitVec.ofInt 32 (max 0 (min v (2 ^ 32 - 1)))

/-- The word whose bit i is f i. -/
def ofBits (f : Nat → Bool) : Word := BitVec.ofNat 32 ((List.range 32).foldr (fun i n => (if f i then 1 else 0) + 2 * n) 0)

/-- How a comparison code of R104 compares two integers. -/
def holds (c : Cmp) (a b : Int) : Bool :=
  match c with
  | .eq => a == b
  | .ne => a != b
  | .lt => decide (a < b)
  | .le => !decide (b < a)
  | .gt => decide (b < a)
  | .ge => !decide (a < b)

end Sys2Proof
end

