-- ==== Sys2Proof/Certificates/Slice0/Obligations.lean ====
section
/-! DEFINITION. The statements for the provers, one Prop each, from the numbered rules of spec/ (the docstrings name them). `Runs` says that the
issuing thread's checks let an instruction execute, `Gives` and `Completes` that it then answers a next state with the given results and touches
nothing but its thread, `Finishes` that a waiting one ends so (Sys2Proof/Safety.lean). -/
open Sys2Proof Sys2Proof.Machine

/-- R9, R12, R41, R47, R226, R454, R462, R477: the package after cold reset, before its boot chain runs: time stands at 0 in state UNSET, no core is
valid, no link is up, the links to the host with them, no context, group or thread exists, every core's registers read as their tables say, and memory
lists nothing. The register values come from the reset columns; that memory reads 0 where nothing has been written is the model's choice (log 3), and
so is that the queues, tables and side records start empty (log 4). -/
def Obligations.ResetState : Prop :=
  let s := State.reset
  Memory.wf s.mem = true ∧ (∀ a, s.memByte a = 0) ∧ s.time.gtime = 0 ∧ s.time.st = .unset ∧ s.inReset = false ∧
  s.pestle.booted = false ∧ s.whisk.elig = [] ∧ s.whisk.newest = none ∧
  (∀ d < 4, (s.die d).diepart = 0 ∧ (∀ w ∈ (s.die d).cpt, w = 0) ∧ ∀ w ∈ (s.die d).ppt, w = 0) ∧
  (∀ p < 4, (s.part p).memcfg = 0x0000FA00 ∧ (s.part p).keylive = 0 ∧ (∀ w ∈ (s.part p).hwin, w = 0) ∧ (s.part p).running = none ∧
    (∀ q < 64, (s.queue { part := p, q := q }).en = false ∧ (s.queue { part := p, q := q }).st = .disabled)) ∧
  (∀ l : LinkRef, (s.link l).st = .down ∧ (s.link l).queue = [] ∧ (s.link l).en = false) ∧
  (∀ c : CoreRef, (s.core c).pwrctl = 0x0D059004000C ∧ (s.core c).vcur = 750 ∧ (s.core c).vtgt = 750 ∧
    ∀ n < 6, ∃ x, (s.core c).slices[n]? = some x ∧ x.n = 12 ∧ x.tgt = 12 ∧ x.stall &&& 0xFFFFFF00 = 0) ∧
  (∀ c : CtxRef, (s.ctx c).st = .empty) ∧ (∀ t : TRef, s.thread? t = none) ∧ (∀ g : GRef, s.group? g = none)

/-- R80, R84 to R89, R103 to R106: words written out in the chapters of the spec decode to the instructions they stand for. -/
def Obligations.DecodeSanityWords : Prop :=
  let h := Hints.none
  decode 0x00000000001FFE014018F690 = .ok (.ld h .b128 none 12 10 none 0) ∧
  decode 0x00008000081FFE00800AF490 = .ok (.ld h .b32 (some .pkg) 5 4 none 0x40) ∧
  decode 0x0000400001000601400EFC92 = .ok (.atom h .add .n32 .acqrel .die 7 10 8 3) ∧
  decode 0x0000A000001FFFFFFFFEF095 = .ok (.fence h .pod) ∧
  decode 0x00003000024022021000F1B0 = .ok (.mma h .w 3 0 16 17 18) ∧
  decode 0x00009001FFE01000E404F04A = .ok (.iset h true .lt (.p 2) 7 (.reg 8)) ∧
  decode 0x00000007FFE006018014F04E = .ok (.lea h false 3 10 12 3) ∧
  decode 0x00000001FFE00E00C00AF080 = .ok (.sadd h 5 6 7) ∧
  decode 0x00000041FFFFFE006008F024 = .ok (.redux h .add .n32 4 3 none) ∧
  decode 0x00000001FFFFFE009204F0A0 = .ok (.tcopy h 2 4) ∧
  decode 0x00000001FFFFFEC01180F2C0 = .ok (.barinit h .die (.gb 0) (.imm 0)) ∧
  decode 0x00000001FFEC02009FFEF1D3 = .ok (.signalAdd h 4 (.imm 1)) ∧
  decode 0x00000000000041FFE038F0E1 = .ok (.sysr h 28 0x020) ∧
  decode 0x0000000000000000FFFEF000 = .error .unassignedMajor ∧
  decode 0x40000001FFFFFFFFFFFEF0E3 = .error .reservedBits

/-- R80, R82, R97: a step of the machine. A thread at the head of an issue group that may issue fetches at its PC: a word that decodes is executed
from the state the fetch leaves, and one that does not traps UNDEF; a fetch that fails its check parks the thread at its PC, one that reads poison
traps MCHECK, one of a pooled line on its way has the thread hold. With no issue group left the instants that have come are acted on, and then one
free move is made, a tick or an event (log 1); where an event steps GTIME, what becomes due stands on the agenda. The PC is moved by the instruction
itself. -/
def Obligations.StepRunsDecoded : Prop :=
  (∀ (s : State) (t : TRef) (q : List TRef), s.issueQ = t :: q → let s0 : State := { s with issueQ := q, cur := some t }
    (s0.thread? t = none → step s = .next s0) ∧
    (∀ x : Thread, s0.thread? t = some x → let f := s0.fetchWord t x.pc.toNat
      (s0.canIssue t x = false → step s = .next s0) ∧
      (s0.canIssue t x = true →
        (∀ w i, f.2 = .word w → decode w = .ok i → step s = exec i f.1) ∧
        (∀ w e, f.2 = .word w → decode w = .error e → step s = .next (f.1.trapHere t x .undef)) ∧
        (∀ m va, f.2 = .park m va → ∃ s' y, step s = .next s' ∧ s'.thread? t = some y ∧
          y = { x with st := .parked, fpark := some { miss := m, va := va, call := false } } ∧ ∀ a, s'.memByte a = s.memByte a) ∧
        (f.2 = .poison → step s = .next (f.1.precise t x .mcheck (x.pc.setWidth 64) (x.pc.setWidth 64) 0)) ∧
        (f.2 = .wait → step s = .next (f.1.hold t))))) ∧
  (∀ (s : State) (d : Due) (ds : List Due), s.issueQ = [] → s.agenda = d :: ds → step s = d.run { s with agenda := ds }) ∧
  (∀ s : State, s.issueQ = [] → s.agenda = [] → let s0 : State := { s with moves := s.moves + 1 }
    (Config.nextMove s.moves = .tick → step s = .next s0.tick) ∧
    (∀ i, Config.nextMove s.moves = .event i → i.isThread = true → step s = .next s0.tick) ∧
    (∀ i o, Config.nextMove s.moves = .event i → i.isThread = false → exec i s0 = .next o →
      step s = .next (if o.time.gtime = s.time.gtime then o else { o with agenda := o.due })))

/-- R84 to R89, R96, R98 to R106: decoding the word of a well-formed instruction of a thread gives that instruction back, with every operand, modifier
and hint at every value. -/
def Obligations.DecodeEncodeRoundTrip : Prop :=
  ∀ i : Instr, i.isThread = true → i.wf = true → decode (encode i) = .ok i

/-- R84 to R89, R96: what decodes is a well-formed instruction of a thread, and its word is that instruction's, bit for bit; only the offset field of
CCTL.invall, which no rule gives a use, may hold anything (log 21). -/
def Obligations.OneWordPerInstruction : Prop :=
  ∀ (w : BitVec 96) (i : Instr), decode w = .ok i →
    i.isThread = true ∧ i.wf = true ∧ ((∀ h, i ≠ .cctlInvall h) → encode i = w)

/-- R6, R227, R485, R494: the memory of HBM keeps one canonical form: a step that goes on, whatever it does, leaves it and the tables of key tags and
of poison beside it so, in states no run reaches too. -/
def Obligations.StepKeepsCanonicalMemory : Prop :=
  ∀ s s' : State, Canonical s → Tab.wf 0 s.keyTag = true → Tab.wf false s.poison = true → step s = .next s' →
    Canonical s' ∧ Tab.wf 0 s'.keyTag = true ∧ Tab.wf false s'.poison = true

/-- R96: no instruction, no event and no step is ever refused, and the only stop is a reference to an object that is not there; with a thread that
issues, whose group and kernel exist, every instruction goes on, and so does every event in any state. -/
def Obligations.EveryInstructionGoesOn : Prop :=
  (∀ (s : State) (r : Refusal), step s ≠ .refused r) ∧ (∀ (s : State) (f : Fault), step s = .fault f → f = .danglingRef) ∧
  (∀ (i : Instr) (s : State), i.isThread = false → Goes (exec i s)) ∧
  (∀ (i : Instr) (s : State) (t : TRef) (x : Thread) (g : Group) (k : Kernel), i.isThread = true → s.cur = some t → s.thread? t = some x →
    s.group? t.group = some g → s.kernel? (g.kref t.group) = some k → Goes (exec i s))

/-- R6, R82, R227, R485: bytes written at a home under a key slot stand there and read back under that slot; every other byte stays, but in a sector
last written under another key, which is read under the new one first: deciphered with the wrong key; nothing else of the machine changes. That the
key is that of the slot under which the L2 holds the line is log 9 (the model's choice). Fetching a word changes no thread, no byte of memory, and
nothing but what the walker and the pool home keep, the packets that wait at ports, and the free values used up (log 6). -/
def Obligations.HomeMemory : Prop :=
  (∀ (s : State) (part slot pa : Nat) (bytes : List Byte), let s' := s.homePut part slot pa bytes
    (∀ k < bytes.length, s'.memByte (pa + k) = bytes.getD k 0) ∧
    (∀ a, (a < pa ∨ pa + bytes.length ≤ a) → s.sectorPlain (s.sectorKey part slot (a / 64)) (a / 64) = true → s'.memByte a = s.memByte a) ∧
    (∀ a, (∀ b, pa ≤ b → b < pa + bytes.length → b / 64 ≠ a / 64) → s'.memByte a = s.memByte a) ∧
    (bytes ≠ [] → s'.homeRead part slot pa bytes.length = (s', bytes)) ∧ (Canonical s → Canonical s') ∧
    s' = { s with mem := s'.mem, keyTag := s'.keyTag, poison := s'.poison, fresh := s'.fresh }) ∧
  (∀ (s : State) (key q fresh : Nat), let t := Tab.get 0 s.keyTag q
    let plain := (List.range 64).map fun i => s.memByte (q * 64 + i)
    ((t = 0 ∨ t = key) → s.sectorUnder key q fresh = plain) ∧
    (t ≠ 0 → t ≠ key → key ≠ 0 → t ≠ lostTag → s.sectorUnder key q fresh = xts true (key - 1) q (xts false (t - 1) q plain))) ∧
  (∀ (s : State) (part slot q : Nat), let r := s.line (q * 64 / 128)
    s.sectorKey part slot q = s.keyOf part (if r.held = true then r.key else slot)) ∧
  (∀ (s : State) (t : TRef) (va : Nat), let s' := (s.fetchWord t va).1
    (∀ a, s'.memByte a = s.memByte a) ∧ (∀ p l, (s'.poolLine p l).bytes = (s.poolLine p l).bytes) ∧
    (∀ c, s'.core c = { s.core c with tlb := (s'.core c).tlb, walkc := (s'.core c).walkc, bytes := (s'.core c).bytes }) ∧
    (∀ d, s'.die d = { s.die d with ports := (s'.die d).ports }) ∧
    s' = { s with cores := s'.cores, fresh := s'.fresh, pool := s'.pool, freqs := s'.freqs, nextTag := s'.nextTag, dies := s'.dies })

/-- R163 to R166: what the arithmetic instructions write, exactly and narrowed once, modulo 2^32 or saturated. R165, R166: division truncated toward
zero with its two corners, and the sum of four byte products. -/
def Obligations.IntegerArithmeticResults : Prop :=
  ((∀ h u d a b, Gives (.iadd h u false d a b) fun x => vRes d (x.src a + x.src b)) ∧
   (∀ h d a b, Gives (.iadd h false true d a b) fun x => vRes d (satI32 ((x.src a).toInt + (x.src b).toInt))) ∧
   (∀ h d a b, Gives (.iadd h true true d a b) fun x => vRes d (satN32 ((x.src a).toNat + (x.src b).toNat))) ∧
   (∀ h u d a c, Gives (.iaddImm h u false d a c) fun x => vRes d (x.src a + c)) ∧
   (∀ h d a c, Gives (.iaddImm h false true d a c) fun x => vRes d (satI32 ((x.src a).toInt + c.toInt))) ∧
   (∀ h d a c, Gives (.iaddImm h true true d a c) fun x => vRes d (satN32 ((x.src a).toNat + c.toNat))) ∧
   (∀ h u d a b, Gives (.isub h u false d a b) fun x => vRes d (x.src a - x.src b)) ∧
   (∀ h d a b, Gives (.isub h false true d a b) fun x => vRes d (satI32 ((x.src a).toInt - (x.src b).toInt))) ∧
   (∀ h d a b, Gives (.isub h true true d a b) fun x => vRes d (satN32 ((x.src a).toNat - (x.src b).toNat : Int))) ∧
   (∀ h u d a c, Gives (.isubImm h u false d a c) fun x => vRes d (x.src a - c)) ∧
   (∀ h d a c, Gives (.isubImm h false true d a c) fun x => vRes d (satI32 ((x.src a).toInt - c.toInt))) ∧
   (∀ h d a c, Gives (.isubImm h true true d a c) fun x => vRes d (satN32 ((x.src a).toNat - c.toNat : Int))) ∧
   (∀ h u d a b, Gives (.imul h u d a b) fun x => vRes d (x.src a * x.src b)) ∧
   (∀ h u d a c, Gives (.imulImm h u d a c) fun x => vRes d (x.src a * c)) ∧
   (∀ h d a b, Gives (.imulh h false d a b) fun x => vRes d (BitVec.ofInt 32 ((x.src a).toInt * (x.src b).toInt / 2 ^ 32))) ∧
   (∀ h d a b, Gives (.imulh h true d a b) fun x => vRes d (BitVec.ofNat 32 ((x.src a).toNat * (x.src b).toNat / 2 ^ 32))) ∧
   (∀ h d a c, Gives (.imulhImm h false d a c) fun x => vRes d (BitVec.ofInt 32 ((x.src a).toInt * c.toInt / 2 ^ 32))) ∧
   (∀ h d a c, Gives (.imulhImm h true d a c) fun x => vRes d (BitVec.ofNat 32 ((x.src a).toNat * c.toNat / 2 ^ 32))) ∧
   (∀ h u d a b c, Gives (.imad h u false d a b c) fun x => vRes d (x.rd a * x.src b + x.src c)) ∧
   (∀ h d a b c, Gives (.imad h false true d a b c) fun x => vRes d (satI32 ((x.rd a).toInt * (x.src b).toInt + (x.src c).toInt))) ∧
   (∀ h d a b c, Gives (.imad h true true d a b c) fun x => vRes d (satN32 ((x.rd a).toNat * (x.src b).toNat + (x.src c).toNat))) ∧
   (∀ h d a, Gives (.iabs h false d a) fun x => vRes d (if (x.rd a).msb then -(x.rd a) else x.rd a)) ∧
   (∀ h d a, Gives (.iabs h true d a) fun x => vRes d (satI32 (x.rd a).toInt.natAbs)) ∧
   (∀ h d a, Gives (.ineg h false d a) fun x => vRes d (-(x.rd a))) ∧
   (∀ h d a, Gives (.ineg h true d a) fun x => vRes d (satI32 (-(x.rd a).toInt))) ∧
   (∀ h d a b, Gives (.imin h false d a b) fun x => vRes d (BitVec.ofInt 32 (min (x.src a).toInt (x.src b).toInt))) ∧
   (∀ h d a b, Gives (.imin h true d a b) fun x => vRes d (BitVec.ofNat 32 (min (x.src a).toNat (x.src b).toNat))) ∧
   (∀ h d a c, Gives (.iminImm h false d a c) fun x => vRes d (BitVec.ofInt 32 (min (x.src a).toInt c.toInt))) ∧
   (∀ h d a c, Gives (.iminImm h true d a c) fun x => vRes d (BitVec.ofNat 32 (min (x.src a).toNat c.toNat))) ∧
   (∀ h d a b, Gives (.imax h false d a b) fun x => vRes d (BitVec.ofInt 32 (max (x.src a).toInt (x.src b).toInt))) ∧
   (∀ h d a b, Gives (.imax h true d a b) fun x => vRes d (BitVec.ofNat 32 (max (x.src a).toNat (x.src b).toNat))) ∧
   (∀ h d a c, Gives (.imaxImm h false d a c) fun x => vRes d (BitVec.ofInt 32 (max (x.src a).toInt c.toInt))) ∧
   (∀ h d a c, Gives (.imaxImm h true d a c) fun x => vRes d (BitVec.ofNat 32 (max (x.src a).toNat c.toNat)))) ∧
  ((∀ h d a b, Gives (.idiv h true false d a b) fun x =>
     vRes d (if x.rd b = 0 then BitVec.allOnes 32 else BitVec.ofNat 32 ((x.rd a).toNat / (x.rd b).toNat))) ∧
   (∀ h d a b, Gives (.idiv h true true d a b) fun x =>
     vRes d (if x.rd b = 0 then x.rd a else BitVec.ofNat 32 ((x.rd a).toNat % (x.rd b).toNat))) ∧
   (∀ h d a b, Gives (.idiv h false false d a b) fun x =>
     vRes d (if x.rd b = 0 then BitVec.allOnes 32 else if x.rd a = 0x80000000 ∧ x.rd b = 0xFFFFFFFF then 0x80000000
       else BitVec.ofInt 32 ((x.rd a).toInt.tdiv (x.rd b).toInt))) ∧
   (∀ h d a b, Gives (.idiv h false true d a b) fun x =>
     vRes d (if x.rd b = 0 then x.rd a else if x.rd a = 0x80000000 ∧ x.rd b = 0xFFFFFFFF then 0
       else BitVec.ofInt 32 ((x.rd a).toInt.tmod (x.rd b).toInt))) ∧
   (∀ h sat ua ub d a b c, Gives (.dot4 h sat ua ub d a b c) fun x =>
     let p (i : Nat) : Int :=
       (if ua then (((x.rd a).extractLsb' (8 * i) 8).toNat : Int) else ((x.rd a).extractLsb' (8 * i) 8).toInt) *
       (if ub then (((x.rd b).extractLsb' (8 * i) 8).toNat : Int) else ((x.rd b).extractLsb' (8 * i) 8).toInt)
     let v := (x.rd c).toInt + p 0 + p 1 + p 2 + p 3
     vRes d (if sat then satI32 v else BitVec.ofInt 32 v)))

/-- R168 to R174: logic, shifts, counts and bit fields, bit by bit. -/
def Obligations.LogicShiftFieldResults : Prop :=
  (∀ h d a b, Gives (.andW h d a b) fun x => vRes d (ofBits fun i => (x.src a).getLsbD i && (x.src b).getLsbD i)) ∧
  (∀ h d a c, Gives (.andWImm h d a c) fun x => vRes d (ofBits fun i => (x.src a).getLsbD i && c.getLsbD i)) ∧
  (∀ h d a b, Gives (.orW h d a b) fun x => vRes d (ofBits fun i => (x.src a).getLsbD i || (x.src b).getLsbD i)) ∧
  (∀ h d a c, Gives (.orWImm h d a c) fun x => vRes d (ofBits fun i => (x.src a).getLsbD i || c.getLsbD i)) ∧
  (∀ h d a b, Gives (.xorW h d a b) fun x => vRes d (ofBits fun i => (x.src a).getLsbD i != (x.src b).getLsbD i)) ∧
  (∀ h d a c, Gives (.xorWImm h d a c) fun x => vRes d (ofBits fun i => (x.src a).getLsbD i != c.getLsbD i)) ∧
  (∀ h d a b, Gives (.andnW h d a b) fun x => vRes d (ofBits fun i => (x.src a).getLsbD i && !(x.src b).getLsbD i)) ∧
  (∀ h d a c, Gives (.andnWImm h d a c) fun x => vRes d (ofBits fun i => (x.src a).getLsbD i && !c.getLsbD i)) ∧
  (∀ h d a, Gives (.notW h d a) fun x => vRes d (ofBits fun i => !(x.rd a).getLsbD i)) ∧
  (∀ h d a, Gives (.popc h d a) fun x => vRes d (BitVec.ofNat 32 ((List.range 32).filter fun i => (x.rd a).getLsbD i).length)) ∧
  (∀ h d a, Gives (.clz h d a) fun x => vRes d (if x.rd a = 0 then 32 else BitVec.ofNat 32 (31 - (x.rd a).toNat.log2))) ∧
  (∀ h d a, Gives (.brev h d a) fun x => vRes d (ofBits fun i => (x.rd a).getLsbD (31 - i))) ∧
  (∀ h d a b, Gives (.shl h d a b) fun x =>
    vRes d (if (x.src b).toNat < 32 then BitVec.ofNat 32 ((x.src a).toNat * 2 ^ (x.src b).toNat) else 0)) ∧
  (∀ h d a c, Gives (.shlImm h d a c) fun x => vRes d (if c.toNat < 32 then BitVec.ofNat 32 ((x.src a).toNat * 2 ^ c.toNat) else 0)) ∧
  (∀ h d a b, Gives (.shr h d a b) fun x =>
    vRes d (if (x.src b).toNat < 32 then BitVec.ofNat 32 ((x.src a).toNat / 2 ^ (x.src b).toNat) else 0)) ∧
  (∀ h d a c, Gives (.shrImm h d a c) fun x => vRes d (if c.toNat < 32 then BitVec.ofNat 32 ((x.src a).toNat / 2 ^ c.toNat) else 0)) ∧
  (∀ h d a b, Gives (.sar h d a b) fun x =>
    vRes d (if (x.src b).toNat < 32 then BitVec.ofInt 32 ((x.src a).toInt / (2 ^ (x.src b).toNat : Nat))
      else if (x.src a).msb then BitVec.allOnes 32 else 0)) ∧
  (∀ h d a c, Gives (.sarImm h d a c) fun x =>
    vRes d (if c.toNat < 32 then BitVec.ofInt 32 ((x.src a).toInt / (2 ^ c.toNat : Nat))
      else if (x.src a).msb then BitVec.allOnes 32 else 0)) ∧
  (∀ h d a b, Gives (.rot h d a b) fun x =>
    vRes d (ofBits fun i => (x.src a).getLsbD ((i + 32 - (x.src b).toNat % 32) % 32))) ∧
  (∀ h d a c, Gives (.rotImm h d a c) fun x => vRes d (ofBits fun i => (x.src a).getLsbD ((i + 32 - c.toNat % 32) % 32))) ∧
  (∀ h d a b c, Gives (.funnel h false d a b c) fun x =>
    vRes d (BitVec.ofNat 32 (((x.rd a).toNat * 2 ^ 32 + (x.rd b).toNat) * 2 ^ min (x.src c).toNat 32 / 2 ^ 32))) ∧
  (∀ h d a b c, Gives (.funnel h true d a b c) fun x =>
    vRes d (BitVec.ofNat 32 (((x.rd a).toNat * 2 ^ 32 + (x.rd b).toNat) / 2 ^ min (x.src c).toNat 32))) ∧
  (∀ h d a b, Gives (.bfe h true d a b) fun x =>
    vRes d (BitVec.ofNat 32 ((x.rd a).toNat / 2 ^ ((x.rd b).toNat % 256) % 2 ^ min ((x.rd b).toNat / 256 % 256) 32))) ∧
  (∀ h d a c, Gives (.bfeImm h true d a c) fun x =>
    vRes d (BitVec.ofNat 32 ((x.rd a).toNat / 2 ^ (c.toNat % 256) % 2 ^ min (c.toNat / 256 % 256) 32))) ∧
  (∀ h d a b, Gives (.bfe h false d a b) fun x =>
    let pos := (x.rd b).toNat % 256
    let len := min ((x.rd b).toNat / 256 % 256) 32
    vRes d (ofBits fun i => len != 0 && (x.rd a).getLsbD (min (pos + min i (len - 1)) 31))) ∧
  (∀ h d a c, Gives (.bfeImm h false d a c) fun x =>
    let pos := c.toNat % 256
    let len := min (c.toNat / 256 % 256) 32
    vRes d (ofBits fun i => len != 0 && (x.rd a).getLsbD (min (pos + min i (len - 1)) 31))) ∧
  (∀ h d a b c, Gives (.bfi h d a b c) fun x =>
    let pos := (x.src c).toNat % 256
    let len := min ((x.src c).toNat / 256 % 256) 32
    vRes d (ofBits fun i => if pos ≤ i ∧ i < pos + len then (x.rd b).getLsbD (i - pos) else (x.rd a).getLsbD i)) ∧
  (∀ h d a b c, Gives (.perm h d a b c) fun x =>
    vRes d (ofBits fun i =>
      let n := (x.rd c).toNat / 16 ^ (i / 8) % 16
      let byte (j : Nat) := if n % 8 < 4 then (x.rd a).getLsbD (8 * (n % 8) + j) else (x.rd b).getLsbD (8 * (n % 8 - 4) + j)
      if n < 8 then byte (i % 8) else byte 7))

/-- R167, R175 to R178: selection, comparison, predicates, moves and 64-bit addresses. -/
def Obligations.SelectMoveAddressResults : Prop :=
  (∀ h d a b c, Gives (.sel h d a b c) fun x => vRes d (if x.prd c then x.src a else x.src b)) ∧
  (∀ h c d a b, Gives (.iset h false c d a b) fun x => boolRes d (holds c (x.rd a).toInt (x.src b).toInt)) ∧
  (∀ h c d a b, Gives (.iset h true c d a b) fun x => boolRes d (holds c (x.rd a).toNat (x.src b).toNat)) ∧
  (∀ h c d a m, Gives (.isetImm h false c d a m) fun x => boolRes d (holds c (x.rd a).toInt m.toInt)) ∧
  (∀ h c d a m, Gives (.isetImm h true c d a m) fun x => boolRes d (holds c (x.rd a).toNat m.toNat)) ∧
  (∀ h lut d a b c, Gives (.plop h lut d a b c) fun x =>
    ({ ps := [(d, lut.getLsbD (4 * (x.prd a).toNat + 2 * (x.prd b).toNat + (x.prd c).toNat))] } : Res)) ∧
  (∀ h d a, Gives (.mov h (.v d) (.v a)) fun x => vRes d (x.rd a)) ∧
  (∀ h d v, Gives (.mov h (.v d) (.imm v)) fun _ => vRes d (v.signExtend 32)) ∧
  (∀ h d a, Gives (.mov h (.v d) (.p a)) fun x => vRes d (if x.prd a then 1 else 0)) ∧
  (∀ h d a, Gives (.mov h (.p d) (.v a)) fun x => ({ ps := [(d, decide (x.rd a ≠ 0))] } : Res)) ∧
  (∀ h d a, Gives (.mov h (.p d) (.p a)) fun x => ({ ps := [(d, x.prd a)] } : Res)) ∧
  (∀ h d v, Gives (.mov h (.p d) (.imm v)) fun _ => ({ ps := [(d, decide (v ≠ 0))] } : Res)) ∧
  (∀ h d m, Gives (.movi h d m) fun _ => vRes d m) ∧
  (∀ h k d a b, Gives (.lea h false k d a b) fun x =>
    dRes d (BitVec.ofInt 64 ((x.rdPair a).toNat + (x.rd b).toInt * 2 ^ k.toNat))) ∧
  (∀ h k d a b, Gives (.lea h true k d a b) fun x =>
    dRes d (BitVec.ofNat 64 ((x.rdPair a).toNat + (x.rd b).toNat * 2 ^ k.toNat))) ∧
  (∀ h d a b, Gives (.iadd64 h d a b) fun x => dRes d (BitVec.ofNat 64 ((x.rdPair a).toNat + (x.rdPair b).toNat))) ∧
  (∀ h d a m, Gives (.iadd64Imm h d a m) fun x => dRes d (BitVec.ofInt 64 ((x.rdPair a).toNat + m.toInt)))

/-- R185, R186, R190, R191: the arithmetic, rounding and transcendental rows write the code of the one rounding and accrue its flags. R182, R187 to
R189, R192 to R195, R200, R201: minimum, maximum, comparison, class, packed elements and conversions. Each element of a packed row is computed as the
scalar row computes it, in the element format. -/
def Obligations.FloatResults : Prop :=
  ((∀ h rm z d a b, Gives (.fadd h rm z d a b) fun x => ffRes d (fadd f32 rm z (x.fsrc f32 a) (x.fsrc f32 b))) ∧
   (∀ h rm z d a m, Gives (.faddImm h rm z d a m) fun x => ffRes d (fadd f32 rm z (x.fsrc f32 a) m.toNat)) ∧
   (∀ h rm z d a b, Gives (.fsub h rm z d a b) fun x => ffRes d (fsub f32 rm z (x.fsrc f32 a) (x.fsrc f32 b))) ∧
   (∀ h rm z d a m, Gives (.fsubImm h rm z d a m) fun x => ffRes d (fsub f32 rm z (x.fsrc f32 a) m.toNat)) ∧
   (∀ h rm z d a b, Gives (.fmul h rm z d a b) fun x => ffRes d (fmul f32 rm z (x.fsrc f32 a) (x.fsrc f32 b))) ∧
   (∀ h rm z d a m, Gives (.fmulImm h rm z d a m) fun x => ffRes d (fmul f32 rm z (x.fsrc f32 a) m.toNat)) ∧
   (∀ h rm z d a b, Gives (.fdiv h rm z d a b) fun x => ffRes d (fdiv f32 rm z (x.fsrc f32 a) (x.fsrc f32 b))) ∧
   (∀ h rm z d a m, Gives (.fdivImm h rm z d a m) fun x => ffRes d (fdiv f32 rm z (x.fsrc f32 a) m.toNat)) ∧
   (∀ h rm z d a b c, Gives (.ffma h rm z d a b c) fun x => ffRes d (ffma f32 rm z (x.rd a).toNat (x.fsrc f32 b) (x.fsrc f32 c))) ∧
   (∀ h rm z d a b c, Gives (.fdot2 h rm z d a b c) fun x => ffRes d (fdot2 rm z (x.rd a).toNat (x.rd b).toNat (x.rd c).toNat)) ∧
   (∀ h rm z d a b, Gives (.fscale h rm z d a b) fun x => ffRes d (fscale f32 rm z (x.rd a).toNat (x.src b).toInt)) ∧
   (∀ h rm z d a m, Gives (.fscaleImm h rm z d a m) fun x => ffRes d (fscale f32 rm z (x.rd a).toNat m.toInt)) ∧
   (∀ h rm z d a, Gives (.frnd h rm z d a) fun x => ffRes d (frnd f32 rm z (x.rd a).toNat)) ∧
   (∀ h rm z d a, Gives (.fsqrt h rm z d a) fun x => ffRes d (fsqrt f32 rm z (x.rd a).toNat)) ∧
   (∀ h z d a, Gives (.frcp h z d a) fun x => ffRes d (frcp z (x.rd a).toNat)) ∧
   (∀ h z d a, Gives (.frsq h z d a) fun x => ffRes d (frsq z (x.rd a).toNat)) ∧
   (∀ h z d a, Gives (.fex2 h z d a) fun x => ffRes d (fex2 z (x.rd a).toNat)) ∧
   (∀ h z d a, Gives (.flg2 h z d a) fun x => ffRes d (flg2 z (x.rd a).toNat)) ∧
   (∀ h z d a, Gives (.fsin h z d a) fun x => ffRes d (fsin z (x.rd a).toNat)) ∧
   (∀ h z d a, Gives (.fcos h z d a) fun x => ffRes d (fcos z (x.rd a).toNat)) ∧
   (∀ h z d a, Gives (.ftanh h z d a) fun x => ffRes d (ftanh z (x.rd a).toNat))) ∧
  ((∀ h z d a b, Gives (.fmin h z d a b) fun x => ffRes d (fminmax f32 false z (x.fsrc f32 a) (x.fsrc f32 b))) ∧
   (∀ h z d a m, Gives (.fminImm h z d a m) fun x => ffRes d (fminmax f32 false z (x.fsrc f32 a) m.toNat)) ∧
   (∀ h z d a b, Gives (.fmax h z d a b) fun x => ffRes d (fminmax f32 true z (x.fsrc f32 a) (x.fsrc f32 b))) ∧
   (∀ h z d a m, Gives (.fmaxImm h z d a m) fun x => ffRes d (fminmax f32 true z (x.fsrc f32 a) m.toNat)) ∧
   (∀ h z n d a b, Gives (.fset h z n d a b) fun x =>
     { boolRes d (fset z n (x.rd a).toNat (x.fsrc f32 b)).1 with ff := (fset z n (x.rd a).toNat (x.fsrc f32 b)).2 }) ∧
   (∀ h z n d a m, Gives (.fsetImm h z n d a m) fun x =>
     { boolRes d (fset z n (x.rd a).toNat m.toNat).1 with ff := (fset z n (x.rd a).toNat m.toNat).2 }) ∧
   (∀ h d a, Gives (.fclass h d a) fun x => vRes d (BitVec.ofNat 32 (fclass (x.rd a).toNat))) ∧
   (∀ h f rm z d a b, Gives (.hadd2 h f rm z d (.reg a) (.reg b)) fun x =>
     let e (i : Nat) := fadd (halfFmt f) rm z ((x.rd a).extractLsb' (16 * i) 16).toNat ((x.rd b).extractLsb' (16 * i) 16).toNat
     ({ vs := [(d, BitVec.ofNat 16 (e 1).code ++ BitVec.ofNat 16 (e 0).code)], ff := (e 0).flags ||| (e 1).flags } : Res)) ∧
   (∀ h f rm z d a b, Gives (.hadd2 h f rm z d a b) fun x =>
     ffRes d (packed2 (fadd (halfFmt f) rm z) (x.hsrc (halfFmt f) a) (x.hsrc (halfFmt f) b))) ∧
   (∀ h f rm z d a m, Gives (.hadd2Imm h f rm z d a m) fun x =>
     ffRes d (packed2 (fadd (halfFmt f) rm z) (x.hsrc (halfFmt f) a) m.toNat)) ∧
   (∀ h f rm z d a b, Gives (.hmul2 h f rm z d a b) fun x =>
     ffRes d (packed2 (fmul (halfFmt f) rm z) (x.hsrc (halfFmt f) a) (x.hsrc (halfFmt f) b))) ∧
   (∀ h f rm z d a m, Gives (.hmul2Imm h f rm z d a m) fun x =>
     ffRes d (packed2 (fmul (halfFmt f) rm z) (x.hsrc (halfFmt f) a) m.toNat)) ∧
   (∀ h f rm z d a b c, Gives (.hfma2 h f rm z d a b c) fun x =>
     ffRes d (packed3 (ffma (halfFmt f) rm z) (x.rd a).toNat (x.hsrc (halfFmt f) b) (x.hsrc (halfFmt f) c))) ∧
   (∀ h f k z d a b, Gives (.hmnx2 h f k z d a b) fun x =>
     ffRes d (packed2 (fminmax (halfFmt f) k z) (x.hsrc (halfFmt f) a) (x.hsrc (halfFmt f) b))) ∧
   (∀ h f k z d a m, Gives (.hmnx2Imm h f k z d a m) fun x =>
     ffRes d (packed2 (fminmax (halfFmt f) k z) (x.hsrc (halfFmt f) a) m.toNat)) ∧
   (∀ h rm ft it d a, Gives (.f2i h rm ft it d a) fun x => f2iRes d it (f2i (fmtOf ft) it rm (fmtCode ft (x.rd a)))) ∧
   (∀ h rm ft it d a, Gives (.i2f h rm ft it d a) fun x => ffRes d (i2f (fmtOf ft) rm (i2fInt x it a))) ∧
   (∀ h rm z fd fs d a, Gives (.f2f h rm z fd fs d a) fun x => ffRes d (f2f (fmtOf fd) (fmtOf fs) rm z (fmtCode fs (x.rd a)))) ∧
   (∀ h sf d a, Gives (.dqcvt h sf d a) fun x =>
     let e (i : Nat) := BitVec.ofNat 32 (storeToF32 (sfStore sf) ((x.rd a).extractLsb' (8 * i) 8).toNat)
     ({ vs := [(d, e 0), (d + 1, e 1), (d + 2, e 2), (d + 3, e 3)] } : Res)) ∧
   (∀ h sf d a b, Gives (.qpack h sf d a b) fun x => ffRes d (qpackRes (sfStore sf) (x.rd a) (x.rd b))))

/-- R54, R185 to R190: what NaNs, infinities and zeros give in every format and mode: any NaN operand of an arithmetic row gives the canonical NaN,
with NV for a signalling one; ∞ − ∞, 0 × ∞, 0 / 0, ∞ / ∞ and the root of a negative value give it with NV; a finite nonzero value over zero gives ∞
with DZ; minimum and maximum deliver the other operand of a NaN; and the same of the products and sums of FFMA and FDOT2. The NV of 0 × ∞, and none
for opposite infinities, beside a NaN operand is the model's choice: log 87. R52: a value m / 2^d rounds to an integer n: .rz, .rd and .ru by their
direction, .rn to the nearest, a tie to the even one; NX when it is no integer. -/
def Obligations.FloatSpecialOperands : Prop :=
  ((∀ (f : FFmt) (rm : Rm) (z : Bool) (a b c : Nat), f ∈ [f32, f16, bf16] → a < 2 ^ f.width → b < 2 ^ f.width → c < 2 ^ f.width →
     let nv (p : Bool) : Flags := if p then fNV else 0
     let sn := nv (f.isSnan a || f.isSnan b)
     let inf (w : Nat) := decide (f.mag w = f.infCode)
     let zero (w : Nat) := decide (f.mag (f.flush z w) = 0)
     let sgn := f.signBit (f.neg a != f.neg b)
     let bad := inf a && zero b || zero a && inf b
     ((f.isNan a || f.isNan b) = true →
       fadd f rm z a b = ⟨f.nan, sn⟩ ∧ fsub f rm z a b = ⟨f.nan, sn⟩ ∧ fmul f rm z a b = ⟨f.nan, sn⟩ ∧ fdiv f rm z a b = ⟨f.nan, sn⟩) ∧
     (f.isNan a = true →
       fsqrt f rm z a = ⟨f.nan, nv (f.isSnan a)⟩ ∧ frnd f rm z a = ⟨f.nan, nv (f.isSnan a)⟩ ∧
       ∀ n, fscale f rm z a n = ⟨f.nan, nv (f.isSnan a)⟩) ∧
     (∀ k, f.isNan a = true → f.isNan b = false → fminmax f k z a b = ⟨f.flush z b, nv (f.isSnan a)⟩) ∧
     (∀ k, f.isNan a = false → f.isNan b = true → fminmax f k z a b = ⟨f.flush z a, nv (f.isSnan b)⟩) ∧
     (∀ k, f.isNan a = true → f.isNan b = true → fminmax f k z a b = ⟨f.nan, sn⟩) ∧
     ((f.isNan a || f.isNan b || f.isNan c) = true → ffma f rm z a b c = ⟨f.nan, nv (f.isSnan a || f.isSnan b || f.isSnan c || bad)⟩) ∧
     ((f.isNan a || f.isNan b || f.isNan c) = false →
       (bad → ffma f rm z a b c = ⟨f.nan, fNV⟩) ∧
       (bad = false → (inf a || inf b) && inf c && ((f.neg a != f.neg b) != f.neg c) → ffma f rm z a b c = ⟨f.nan, fNV⟩)) ∧
     ((f.isNan a || f.isNan b) = false →
       (inf a && inf b && (f.neg a != f.neg b) → fadd f rm z a b = ⟨f.nan, fNV⟩) ∧
       (inf a && inf b && (f.neg a == f.neg b) → fsub f rm z a b = ⟨f.nan, fNV⟩) ∧
       (bad → fmul f rm z a b = ⟨f.nan, fNV⟩) ∧
       (inf a && inf b || zero a && zero b → fdiv f rm z a b = ⟨f.nan, fNV⟩) ∧
       (!inf a && !zero a && zero b → fdiv f rm z a b = ⟨sgn + f.infCode, fDZ⟩) ∧
       (inf a && !inf b → fdiv f rm z a b = ⟨sgn + f.infCode, 0⟩) ∧
       (!inf a && inf b → fdiv f rm z a b = ⟨sgn, 0⟩) ∧
       (f.neg a && !zero a → fsqrt f rm z a = ⟨f.nan, fNV⟩) ∧
       (zero a → fsqrt f rm z a = ⟨f.signBit (f.neg a), 0⟩))) ∧
   (∀ (rm : Rm) (z : Bool) (a b c : Nat), a < 2 ^ 32 → b < 2 ^ 32 → c < 2 ^ 32 →
     let e (w i : Nat) := w / 2 ^ (16 * i) % 2 ^ 16
     let es := [e a 0, e a 1, e b 0, e b 1]
     let inf (w : Nat) := decide (bf16.mag w = bf16.infCode)
     let zero (w : Nat) := decide (bf16.mag (bf16.flush z w) = 0)
     let bad := [0, 1].any fun i => inf (e a i) && zero (e b i) || zero (e a i) && inf (e b i)
     let nan := es.any bf16.isNan || f32.isNan c
     let infs := (([0, 1].filter fun i => inf (e a i) || inf (e b i)).map fun i => bf16.neg (e a i) != bf16.neg (e b i))
       ++ (if f32.mag c = f32.infCode then [f32.neg c] else [])
     (nan = true → fdot2 rm z a b c = ⟨f32.nan, if es.any bf16.isSnan || f32.isSnan c || bad then fNV else 0⟩) ∧
     (nan = false → bad = true ∨ (true ∈ infs ∧ false ∈ infs) → fdot2 rm z a b c = ⟨f32.nan, fNV⟩))) ∧
  (∀ (rm : Rm) (neg : Bool) (m d : Nat),
     let r := roundShift rm neg m d false
     (r.2 = true ↔ m % 2 ^ d ≠ 0) ∧
     (rm = .rz → r.1 = m / 2 ^ d) ∧
     (rm = .rd → r.1 = if neg then (m + 2 ^ d - 1) / 2 ^ d else m / 2 ^ d) ∧
     (rm = .ru → r.1 = if neg then m / 2 ^ d else (m + 2 ^ d - 1) / 2 ^ d) ∧
     (rm = .rn → 2 * (m - r.1 * 2 ^ d) ≤ 2 ^ d ∧ 2 * (r.1 * 2 ^ d - m) ≤ 2 ^ d ∧
       ((2 * (m - r.1 * 2 ^ d) = 2 ^ d ∨ 2 * (r.1 * 2 ^ d - m) = 2 ^ d) → r.1 % 2 = 0)))

/-- R100, R196 to R199: QCVT narrows four values to one register, marks the outliers in four predicates and puts their binary bfloat16 values on the
side list; a PAIR gives its two slots' results at once, from the registers as they were. -/
def Obligations.QcvtAndPairResults : Prop :=
  (∀ h rm sf d a b s t x g, Runs s (.qcvt h rm sf d a b) t x g →
    let thr := g.sidethr.toNat
    let v (k : Nat) : Nat := (x.rd (a + BitVec.ofNat 7 k)).toNat
    let out (k : Nat) : Bool := !f32.isNan (v k) && !f32.isNan thr && decide (f32.mag thr < f32.mag (v k))
    let e (k : Nat) : FRes := narrowFlags (sfStore sf) rm (f32.val (v k))
    let side (k : Nat) : FRes := f2f bf16 f32 .rn false (v k)
    let byte (k : Nat) : Nat := if out k then 0 else (e k).code
    let flags (k : Nat) : Flags := if out k then (side k).flags &&& fNX else (e k).flags
    CompletesFrom (s.sideList t (([0, 1, 2, 3].filter out).map fun k => (side k).code)) s (.qcvt h rm sf d a b) t x
      { vs := [(d, BitVec.ofNat 32 (byte 0 + 2 ^ 8 * byte 1 + 2 ^ 16 * byte 2 + 2 ^ 24 * byte 3))]
        ps := [(b, out 0), (b + 1, out 1), (b + 2, out 2), (b + 3, out 3)]
        ff := flags 0 ||| flags 1 ||| flags 2 ||| flags 3 }) ∧
  (∀ h p q, Gives (.pair h p q) fun x =>
    { vs := [(p.d, BitVec.ofNat 32 (slotRes x p).code), (q.d, BitVec.ofNat 32 (slotRes x q).code)]
      ff := (slotRes x p).flags ||| (slotRes x q).flags })

/-- R205 to R213: the level-index rows write their result and accrue LXFLAGS, or FFLAGS where they give a binary32. R72, R73, R208 to R210: the
special operands of the level-index rows. -/
def Obligations.LevelIndexResults : Prop :=
  ((∀ h d a b, Gives (.sadd h d a b) fun x => lxRes d (sadd (x.rd a).toNat (x.rd b).toNat)) ∧
   (∀ h d a b, Gives (.ssub h d a b) fun x => lxRes d (sadd (x.rd a).toNat (sCanon (x.rd b).toNat ^^^ 2 ^ 31))) ∧
   (∀ h d a b, Gives (.smul h d a b) fun x => lxRes d (smul (x.rd a).toNat (x.rd b).toNat)) ∧
   (∀ h d a b, Gives (.sdiv h d a b) fun x => lxRes d (sdiv (x.rd a).toNat (x.rd b).toNat)) ∧
   (∀ h d a, Gives (.ssq h d a) fun x => lxRes d (smul (x.rd a).toNat (x.rd a).toNat)) ∧
   (∀ h d a, Gives (.sexp h d a) fun x => lxRes d (sexp (x.rd a).toNat)) ∧
   (∀ h d a, Gives (.sln h d a) fun x => lxRes d (sln (x.rd a).toNat)) ∧
   (∀ h c d a b, Gives (.scmp h c d a b) fun x => boolRes d (scmp c (x.rd a).toNat (x.rd b).toNat)) ∧
   (∀ h d a, Gives (.sclass h d a) fun x => vRes d (BitVec.ofNat 32 (sclass (x.rd a).toNat))) ∧
   (∀ h d a, Gives (.scvtSliF32 h d a) fun x => lxRes d (sliOfF32 (x.rd a).toNat)) ∧
   (∀ h d a, Gives (.scvtF32Sli h d a) fun x => ffRes d (sliToF32 (x.rd a).toNat)) ∧
   (∀ h d a, Gives (.srecip h d a) fun x =>
     vRes d (if sIsNan (x.rd a).toNat then 1
       else if sIsOne (x.rd a).toNat then (if (x.rd a).msb then 0x88000000 else 0x08000000)
       else if sIsZero (x.rd a).toNat then (if (x.rd a).msb then 0xBFFFFFFF else 0x3FFFFFFF)
       else x.rd a ^^^ 0x40000000))) ∧
  (∀ a b : Nat, a < 2 ^ 32 → b < 2 ^ 32 →
     ((sIsNan a || sIsNan b) = true →
       (sadd a b).code = 1 ∧ (ssub a b).code = 1 ∧ (smul a b).code = 1 ∧ (sdiv a b).code = 1 ∧
       (sadd a b).flags = 0 ∧ (ssub a b).flags = 0 ∧ (smul a b).flags = 0 ∧ (sdiv a b).flags = 0) ∧
     ((sIsNan a || sIsNan b) = false →
       (sIsZero a = true → sIsZero b = false → sadd a b = ⟨sCanon b, 0⟩) ∧
       (sIsZero b = true → sIsZero a = false → sadd a b = ⟨sCanon a, 0⟩) ∧
       (sIsZero a = true → sIsZero b = true → sadd a b = ⟨0, 0⟩ ∧ sdiv a b = ⟨1, lxN⟩) ∧
       ((sIsZero a || sIsZero b) = true → smul a b = ⟨0, 0⟩) ∧
       (sIsZero a = true → sIsZero b = false → sdiv a b = ⟨0, 0⟩) ∧
       (sIsZero a = false → sIsZero b = true →
         sdiv a b = ⟨(if sSign a != sSign b then 0xBFFFFFFF else 0x3FFFFFFF), lxS⟩) ∧
       (sIsZero a = false → ssub a a = ⟨0, 0⟩)) ∧
     (sIsZero a = true → sexp a = ⟨0x08000000, 0⟩ ∧ sln a = ⟨0xBFFFFFFF, lxS⟩) ∧
     (sIsNan a = false → sIsZero a = false → sSign a = true → sln a = ⟨1, lxN⟩) ∧
     (sIsOne a = true → sSign a = false → sln a = ⟨0, 0⟩))

/-- R80, R139, R141, R143: NOP, the branches, RET and ENTER: where the PC goes, and which check of the target traps. R139, R140: CALL and CALLX fetch
the target word, transfer only to an ENTER that the group's windows hold, and link to the next word; what fetching the target does to the state beside
comes first. IsEnter ignores the guard and the hints of the target word: log 11. -/
def Obligations.BranchAndCallResults : Prop :=
  ((∀ h, Gives (.nop h) fun _ => {}) ∧
   (∀ h off, Gives (.bra h off) fun x => ({ pc := some (x.pc + BitVec.ofInt 56 (12 * off.toInt)) } : Res)) ∧
   (∀ s t x g h a off, Runs s (.brx h a off) t x g →
     let v := x.rdPair a + BitVec.ofInt 64 (12 * off.toInt)
     (v.toNat % 4 = 0 → v.toNat < 2 ^ 56 → Completes s (.brx h a off) t x { pc := some (BitVec.ofNat 56 v.toNat) }) ∧
     (v.toNat % 4 ≠ 0 → exec (.brx h a off) s = .next (s.trapHere t x .align)) ∧
     (v.toNat % 4 = 0 → 2 ^ 56 ≤ v.toNat → exec (.brx h a off) s = .next (s.trapHere t x .badwin))) ∧
   (∀ s t x g h a, Runs s (.ret h a) t x g →
     let v := x.rdPair a
     (v.toNat % 4 = 0 → v.toNat < 2 ^ 56 → Completes s (.ret h a) t x { pc := some (BitVec.ofNat 56 v.toNat) }) ∧
     (v.toNat % 4 ≠ 0 → exec (.ret h a) s = .next (s.trapHere t x .align)) ∧
     (v.toNat % 4 = 0 → 2 ^ 56 ≤ v.toNat → exec (.ret h a) s = .next (s.trapHere t x .badwin))) ∧
   (∀ s t x g h m, Runs s (.enter h m) t x g →
     (m.toNat ≤ g.w → Completes s (.enter h m) t x {}) ∧
     (g.w < m.toNat → exec (.enter h m) s = .next (s.trapHere t x .budget)))) ∧
  (∀ s t x g h d a off,
     let link (v : Pc) : Res := { vs := [(d, (x.pc + 12).setWidth 32), (d + 1, (pcWord (x.pc + 12) >>> 32).setWidth 32)], pc := some v }
     (Runs s (.call h d off) t x g →
       let v := x.pc + BitVec.ofInt 56 (12 * off.toInt)
       let f := s.fetchWord t v.toNat
       ∀ w, f.2 = .word w →
         (∀ n, enterOf w = some n → n ≤ g.w → CompletesFrom f.1 s (.call h d off) t x (link v)) ∧
         (∀ n, enterOf w = some n → g.w < n → exec (.call h d off) s = .next (f.1.trapHere t x .budget)) ∧
         (enterOf w = none → exec (.call h d off) s = .next (f.1.trapHere t x .badtarget))) ∧
     (Runs s (.callx h d a off) t x g →
       let v := x.rdPair a + BitVec.ofInt 64 (12 * off.toInt)
       let f := s.fetchWord t v.toNat
       (v.toNat % 4 ≠ 0 → exec (.callx h d a off) s = .next (s.trapHere t x .align)) ∧
       (v.toNat % 4 = 0 → 2 ^ 56 ≤ v.toNat → exec (.callx h d a off) s = .next (s.trapHere t x .badwin)) ∧
       ∀ w, v.toNat % 4 = 0 → v.toNat < 2 ^ 56 → f.2 = .word w →
         (∀ n, enterOf w = some n → n ≤ g.w → CompletesFrom f.1 s (.callx h d a off) t x (link (BitVec.ofNat 56 v.toNat))) ∧
         (∀ n, enterOf w = some n → g.w < n → exec (.callx h d a off) s = .next (f.1.trapHere t x .budget)) ∧
         (enterOf w = none → exec (.callx h d a off) s = .next (f.1.trapHere t x .badtarget))))

/-- R144, R146, R148: SLEEP (which is over at once for no ticks, or for a thread that has come back to it past its deadline), and the rejoin barriers
as far as the executing thread goes; a change of an enrolled or arrived set is followed by the release check. R146: a rejoin barrier with a thread
enrolled and not arrived, or with none arrived, does nothing; when the arrived threads are all of the enrolled ones, every one of them leaves both
sets and goes on behind its JWAIT, and no other thread changes. -/
def Obligations.RejoinBarriersAndSleep : Prop :=
  ((∀ s t x g h jb, Runs s (.jenrol h jb) t x g → ∃ s' y, s'.thread? t = some y ∧ Retires (x.enrol jb) y h {} ∧ OnlyThread s s' t ∧
     exec (.jenrol h jb) s = .next ((afterStep s' t x y.pc).rejoinCheck t.group jb)) ∧
   (∀ s t x g h jb, Runs s (.jdrop h jb) t x g → ∃ s' y, s'.thread? t = some y ∧ Retires (x.withdraw jb) y h {} ∧ OnlyThread s s' t ∧
     exec (.jdrop h jb) s = .next ((afterStep s' t x y.pc).rejoinCheck t.group jb)) ∧
   (∀ s t x g h jb, Runs s (.jwait h jb) t x g →
     (x.enrolled jb = false → Completes s (.jwait h jb) t x {}) ∧
     (x.enrolled jb = true → ∃ s', OnlyThread s s' t ∧ exec (.jwait h jb) s = .next (s'.rejoinCheck t.group jb) ∧
       s'.thread? t = some (waiting s (x.arrive jb) (.jwait h jb) (.rejoin jb.toNat) none))) ∧
   (∀ s t x g h d jb, Runs s (.jstat h d jb) t x g →
     let n (f : Thread → Bool) := ((s.groupThreads t.group).filter fun p => f p.2).length
     Completes s (.jstat h d jb) t x (vRes d (BitVec.ofNat 32
       ((if x.enrolled jb then 2 ^ 31 else 0) + n (fun y => y.arrived jb) * 2 ^ 16 + n (fun y => y.enrolled jb))))) ∧
   (∀ s t x g h a m, Runs s (.sleep h a m) t x g →
     let d := min (m.toNat + (match a with | some r => (x.rd r).toNat | none => 0)) (2 ^ 32 - 1)
     (d = 0 ∨ s.deadlineDue t x = true → Completes s (.sleep h a m) t x {}) ∧
     (d ≠ 0 → s.deadlineDue t x = false → Stands s (.sleep h a m) t (waiting s x (.sleep h a m) .sleep
       (some (s.ctxVtime t.ctxRef (s.coreTime t.coreRef) + BitVec.ofNat 64 ((d * 64 + 8) / 9))))))) ∧
  (∀ (s : State) (g : GRef) (jb : BitVec 4),
     ((∃ e ∈ s.threads, e.1.group = g ∧ e.2.enrolled jb = true ∧ e.2.arrived jb = false) → s.rejoinCheck g jb = s) ∧
     ((∀ e ∈ s.threads, e.1.group = g → e.2.enrolled jb = true → e.2.arrived jb = false) → s.rejoinCheck g jb = s) ∧
     ((s.threads.map (·.1)).Nodup →
       (∀ e ∈ s.threads, e.1.group = g → e.2.enrolled jb = true →
         e.2.arrived jb = true ∧ e.2.ph = .rejoin jb.toNat ∧ e.2.st = .wait ∧ e.2.step = false) →
       ∀ t x, s.thread? t = some x →
         (t.group = g ∧ x.enrolled jb = true → ∃ y, (s.rejoinCheck g jb).thread? t = some y ∧ y.enrolled jb = false ∧
           y.arrived jb = false ∧ y.st = x.back ∧ y.ph = .none ∧ y.pc = x.pc + 12) ∧
         (t.group ≠ g ∨ x.enrolled jb = false → (s.rejoinCheck g jb).thread? t = some x)))

/-- R396, R397: taking a trap writes EPC, TADDR, TINFO and CAUSE, sets H, and goes to the group's HANDLER in state TRAPPED; no register, predicate,
flag, window or memory location changes, and the handler's first instruction may issue eight slice cycles later. With no handler, or in a handler, the
context becomes FAULTED and a record of class trap with the cause and the HTID goes to the partition's ring. R145, R396: BKPT and TRAP trap with their
own cause and IMM32 in TINFO, the saved PC being that of BKPT itself or of the word after TRAP; their own effect is the trap. -/
def Obligations.TrapEntry : Prop :=
  (∀ (s : State) (t : TRef) (x : Thread) (g : Group) (c : Cause) (epc taddr : DWord) (tinfo : Word),
     s.thread? t = some x → s.group? t.group = some g →
     (x.h = false → g.handler ≠ 0 → OnlyThread s (s.takeTrap t c epc taddr tinfo) t ∧
       (s.takeTrap t c epc taddr tinfo).thread? t = some { x with
         epc := epc, taddr := taddr, tinfo := tinfo, cause := c.code, h := true, st := .trapped, pc := g.handler,
         ph := .none, cur := none, deadline := none, gap := 7 }) ∧
     ((x.h = true ∨ g.handler = 0) → (s.ctx t.ctxRef).st = .active → t.part < s.parts.length →
       ((s.takeTrap t c epc taddr tinfo).ctx t.ctxRef).st = .faulted ∧
       (∀ a, (s.takeTrap t c epc taddr tinfo).memByte a = s.memByte a) ∧
       (∀ u, u.ctxRef = t.ctxRef → (s.takeTrap t c epc taddr tinfo).thread? u = none) ∧
       ∃ r ∈ ((s.takeTrap t c epc taddr tinfo).part t.part).mc,
         r.extractLsb' 240 16 = BitVec.ofNat 16 t.ctx ∧ r.extractLsb' 184 8 = 4 ∧ r.extractLsb' 320 8 = c.code ∧
         r.extractLsb' 336 12 = BitVec.ofNat 12 x.htid)) ∧
  (∀ s t x g h m, g.handler ≠ 0 → x.h = false → x.st ≠ .parked → s.unretired t = false →
     let trapped (c : BitVec 8) (epc : Pc) : Thread :=
       { x with epc := epc.setWidth 64, taddr := 0, tinfo := m, cause := c, h := true, st := .trapped, pc := g.handler,
                ph := .none, cur := none, deadline := none, gap := 7 }
     (Runs s (.bkptN h m) t x g → Stands s (.bkptN h m) t (trapped 0x11 x.pc)) ∧
     (Runs s (.trapN h m) t x g → Stands s (.trapN h m) t (trapped 0x12 (x.pc + 12))))

/-- R97, R394: the order of the checks before issue for every thread instruction: UNDEF, ROLE, BUDGET, whatever the guard is; MCHECK where the guard
itself is in error (log 62); a guarded-off instruction then has no effect but retiring; an executing one that reads a dead window traps DEADREG, else
one that reads a register in error MCHECK. Every one of these traps is precise: the saved PC is the word's own. -/
def Obligations.IssueChecksInOrder : Prop :=
  ∀ (s : State) (i : Instr) (t : TRef) (x : Thread) (g : Group), i.isThread = true →
    s.cur = some t → s.thread? t = some x → s.group? t.group = some g → s.canIssue t x = true →
    let free := !((s.parkedEntries t).any fun e => e.2.instr.holdsBack i.isAccess) && !(x.st == .parked && !i.parkedOk) && !(x.step && !x.h && !(s.pendingInstrs t).isEmpty)
      && !((s.pendingInstrs t).any fun j => conflicts i j) && !s.bankBusy t x i
    (i.wf = false → exec i s = .next (s.trapHere t x .undef)) ∧
    (i.wf = true → i.roleOk g.role = false → exec i s = .next (s.trapHere t x .role)) ∧
    (i.wf = true → i.roleOk g.role = true → overBudget i g.w = true → exec i s = .next (s.trapHere t x .budget)) ∧
    (i.wf = true → i.roleOk g.role = true → overBudget i g.w = false → free = true →
      let bad := i.hints.gp ≠ 15 ∧ (t, 128 + i.hints.gp.toNat) ∈ s.regPois
      (bad → exec i s = .next (s.trapHere t x .mcheck)) ∧
      (¬ bad → x.guard i.hints = false → Completes s i t x {}) ∧
      (¬ bad → x.guard i.hints = true → readsDead i x.live = true → exec i s = .next (s.trapHere t x .deadreg)) ∧
      (¬ bad → x.guard i.hints = true → readsDead i x.live = false → s.readsPoison t i = true →
        exec i s = .next (s.trapHere t x .mcheck)) ∧
      (¬ bad → x.guard i.hints = true → readsDead i x.live = false → s.readsPoison t i = false → Runs s i t x g)) ∧
    (∀ c, x.st ≠ .parked → s.unretired t = false → s.trapHere t x c = s.takeTrap t c (x.pc.setWidth 64) 0 0)

/-- R118, R122, R142, R146, R150: EXIT of a thread with nothing parked and no load under way: the thread is EXITED, its windows are dead and it has
left every rejoin barrier, in one step, and no error of its registers is left; what that releases for others follows. -/
def Obligations.ThreadExit : Prop :=
  ∀ s t x g h, Runs s (.exitThread h) t x g → s.npark t = 0 → s.unretired t = false →
    ∃ s', OnlyThread s s' t ∧ exec (.exitThread h) s = .next (s'.afterExit t x) ∧ (∀ e ∈ s'.regPois, e.1 ≠ t) ∧
      s'.thread? t = some { x with st := .exited, ph := .none, cur := none, deadline := none, live := 0, regs := [], jbE := 0, jbA := 0,
                                   deferred := [] }

/-- R149, R150, R157: a cross-lane instruction waits at its PC with its member mask and latched operands, and the rendezvous is checked at once;
PRESENT retires at once. R150, R152: a rendezvous with a present lane of its mask that does not wait at the same PC with the same mask goes on
waiting; when all of them do, every member retires with its own result and no other thread changes. -/
def Obligations.CrossLaneRendezvous : Prop :=
  (let arrives (i : Instr) (c : Option VReg) (a b : Thread → Word) : Prop := ∀ s t x g, Runs s i t x g →
     let mask := (match c with | some r => x.rd r | none => 0xFFFFFFFF) ||| BitVec.ofNat 32 (2 ^ (x.htid % 32))
     ∃ s', OnlyThread s s' t ∧ exec i s = .next (s'.rendezvousCheck t.group (t.rank / 32) x.pc mask) ∧
       s'.thread? t = some (waiting s x i (.rendezvous mask (a x) (b x)) none)
   let bit (p : PReg) (x : Thread) : Word := if x.prd p then 1 else 0
   (∀ h op vp d a b c, arrives (.shfl h op vp d a b c) c (fun x => x.src a) fun x => x.src b) ∧
   (∀ h op d a c, arrives (.vote h op d a c) c (bit a) fun _ => 0) ∧
   (∀ h d a c, arrives (.ballot h d a c) c (bit a) fun _ => 0) ∧
   (∀ h op f d a c, arrives (.matchLanes h op f d a c) c (fun x => x.rd a) fun _ => 0) ∧
   (∀ h op ty d a c, arrives (.redux h op ty d a c) c (fun x => x.rd a) fun _ => 0) ∧
   (∀ h op ty e d a c, arrives (.scan h op ty e d a c) c (fun x => x.rd a) fun _ => 0) ∧
   (∀ h d c, arrives (.elect h d c) c (fun _ => 0) fun _ => 0) ∧
   (∀ s t x g h d c, Runs s (.present h d c) t x g →
     let mask := (match c with | some r => x.rd r | none => 0xFFFFFFFF) ||| BitVec.ofNat 32 (2 ^ (x.htid % 32))
     Completes s (.present h d c) t x (vRes d (ofBits fun l => mask.getLsbD l &&
       (s.thread? (t.group.thread (t.rank / 32 * 32 + l))).any fun y => y.st != .exited)))) ∧
  (∀ (s : State) (g : GRef) (set : Nat) (pc : Pc) (mask : Word),
     let at' (l : Nat) := s.thread? (g.thread (32 * set + l))
     ((∃ l < 32, ∃ x, mask.getLsbD l = true ∧ at' l = some x ∧ x.st ≠ .exited ∧ x.meets pc mask = none) →
       s.rendezvousCheck g set pc mask = s) ∧
     ((∀ l < 32, ∀ x, mask.getLsbD l = true → at' l = some x → x.st ≠ .exited →
         (∃ p, x.meets pc mask = some p) ∧ x.step = false ∧ ∃ i, x.cur = some i) →
       let s' := s.rendezvousCheck g set pc mask
       (∀ a, s'.memByte a = s.memByte a) ∧ s' = { s with threads := s'.threads, cores := s'.cores, regPois := s'.regPois } ∧
       (∀ l < 32, ∀ x, mask.getLsbD l = true → at' l = some x → x.st ≠ .exited →
         ∃ y m i, s'.thread? (g.thread (32 * set + l)) = some y ∧ m ∈ membersOf s g set pc mask ∧ m.lane = l ∧ x.cur = some i ∧
           Retires (awake x) y x.curHints (memberRes i (membersOf s g set pc mask) m)) ∧
       (∀ u, (∀ l < 32, mask.getLsbD l = true → u ≠ g.thread (32 * set + l)) → s'.thread? u = s.thread? u)))

/-- R153 to R156: what a member takes: SHFL in each of its modes the value and the valid bit of its source lane, its own value where that lane is out
of range, 0 where it is no member; the votes; the ballot; the lanes that match, by bits or by binary32 value; the lowest member; REDUX folds all
members and SCAN those up to its own lane or below it, by the tree of R155 for every operator and type, each member taking the flags of the whole
tree; integers need no tree; an empty SCAN gives the identity of the table. That .min and .max of level-index values raise no flag is the model's
reading: log 13. -/
def Obligations.CrossLaneResults : Prop :=
  ∀ (h : Hints) (ms : List Member) (m : Member) (c : Option VReg), m ∈ ms → (ms.map (·.lane)).Pairwise (· < ·) →
    (∀ n ∈ ms, n.lane < 32) →
    let vals := ms.map (·.a)
    let upto := (ms.filter fun n => decide (n.lane ≤ m.lane)).map (·.a)
    let below := (ms.filter fun n => decide (n.lane < m.lane)).map (·.a)
    let bits (f : Member → Bool) : Word := ofBits fun l => ms.any fun n => n.lane == l && f n
    let eqF (a b : Word) : Bool := !f32.isNan a.toNat && !f32.isNan b.toNat && (a == b || (a <<< 1 == 0 && b <<< 1 == 0))
    let tree (d : VReg) (r : RVal) : Res := { vs := [(d, r.w)], ff := r.ff, lx := r.lx }
    (∀ op vp d a b,
      let j : Int := match op with
        | .idx => (m.b.toNat % 32 : Nat)
        | .up => (m.lane : Int) - m.b.toNat
        | .down => (m.lane : Int) + m.b.toNat
        | .xor => (m.lane ^^^ (m.b.toNat % 32) : Nat)
      let gives (v : Word) (ok : Bool) : Prop :=
        memberRes (.shfl h op vp d a b c) ms m = { vs := [(d, v)], ps := match vp with | some p => [(p, ok)] | none => [] }
      (j < 0 ∨ 31 < j → gives m.a false) ∧ (∀ n ∈ ms, (n.lane : Int) = j → gives n.a true) ∧
      (0 ≤ j → j ≤ 31 → (∀ n ∈ ms, (n.lane : Int) ≠ j) → gives 0 false)) ∧
    (∀ d a, memberRes (.ballot h d a c) ms m = vRes d (bits fun n => n.a != 0)) ∧
    (∀ d a, memberRes (.vote h .all d a c) ms m = { ps := [(d, ms.all fun n => n.a != 0)] }) ∧
    (∀ d a, memberRes (.vote h .any d a c) ms m = { ps := [(d, ms.any fun n => n.a != 0)] }) ∧
    (∀ d a, memberRes (.vote h .uni d a c) ms m = { ps := [(d, (ms.all fun n => n.a != 0) || ms.all fun n => n.a == 0)] }) ∧
    (∀ d, memberRes (.elect h d c) ms m = { ps := [(d, ms.all fun n => decide (m.lane ≤ n.lane))] }) ∧
    (∀ d a, memberRes (.matchLanes h .any false d a c) ms m = vRes d (bits fun n => n.a == m.a)) ∧
    (∀ d a, memberRes (.matchLanes h .all false d a c) ms m = vRes d (if ms.all fun n => n.a == m.a then bits fun _ => true else 0)) ∧
    (∀ d a, memberRes (.matchLanes h .any true d a c) ms m = vRes d (bits fun n => n.lane == m.lane || eqF n.a m.a)) ∧
    (∀ d a, memberRes (.matchLanes h .all true d a c) ms m =
      vRes d (if ms.all fun n => n.lane == m.lane || eqF n.a m.a then bits fun _ => true else 0)) ∧
    (∀ op ty d a, memberRes (.redux h op ty d a c) ms m = tree d (redTree op ty vals)) ∧
    (∀ op ty d a, memberRes (.scan h op ty false d a c) ms m = tree d (redTree op ty upto)) ∧
    (∀ op ty d a, below ≠ [] → memberRes (.scan h op ty true d a c) ms m = tree d (redTree op ty below)) ∧
    (∀ d a, below = [] → ∀ e ∈ ([(.add, .b32, 0), (.add, .n32, 0), (.add, .f32, 0), (.add, .sli, 0), (.min, .b32, 0x7FFFFFFF),
        (.min, .n32, 0xFFFFFFFF), (.min, .f32, 0x7F800000), (.min, .sli, 0x3FFFFFFF), (.max, .b32, 0x80000000), (.max, .n32, 0),
        (.max, .f32, 0xFF800000), (.max, .sli, 0xBFFFFFFF), (.and, .b32, 0xFFFFFFFF), (.and, .n32, 0xFFFFFFFF), (.or, .b32, 0),
        (.or, .n32, 0), (.xor, .b32, 0), (.xor, .n32, 0)] : List (RedOp × LTy × Word)),
      memberRes (.scan h e.1 e.2.1 true d a c) ms m = vRes d e.2.2) ∧
    (∀ op ty v, redTree op ty [v] = ⟨v, 0, 0⟩) ∧
    (∀ op ty k, ∀ xs : List Word, 2 ^ k < xs.length → xs.length ≤ 2 ^ (k + 1) → xs.length ≤ 32 →
      let l := redTree op ty (xs.take (2 ^ k))
      let r := redTree op ty (xs.drop (2 ^ k))
      let o := redApply op ty l.w r.w
      redTree op ty xs = ⟨o.w, l.ff ||| r.ff ||| o.ff, l.lx ||| r.lx ||| o.lx⟩) ∧
    (∀ x y : Word,
      (let r := fadd f32 .rn false x.toNat y.toNat
       redApply .add .f32 x y = ⟨BitVec.ofNat 32 r.code, r.flags, 0⟩) ∧
      (let r := sadd x.toNat y.toNat
       redApply .add .sli x y = ⟨BitVec.ofNat 32 r.code, 0, r.flags⟩) ∧
      (∀ mx : Bool,
        let r := fminmax f32 mx false x.toNat y.toNat
        redApply (if mx then .max else .min) .f32 x y = ⟨BitVec.ofNat 32 r.code, r.flags, 0⟩) ∧
      (∀ mx : Bool,
        let a := sCanon x.toNat
        let b := sCanon y.toNat
        let second := if mx then decide (sKey a < sKey b) else decide (sKey b < sKey a)
        redApply (if mx then .max else .min) .sli x y =
          ⟨if sIsNan a || sIsNan b then 1 else if second then BitVec.ofNat 32 b else BitVec.ofNat 32 a, 0, 0⟩)) ∧
    (∀ ty ∈ [LTy.b32, LTy.n32],
      let int (w : Word) : Int := if ty = .b32 then w.toInt else w.toNat
      let folds (xs : List Word) (f : RedOp → Res) (d : VReg) : Prop :=
        f .add = vRes d (xs.foldl (· + ·) 0) ∧ f .and = vRes d (xs.foldl (· &&& ·) 0xFFFFFFFF) ∧
        f .or = vRes d (xs.foldl (· ||| ·) 0) ∧ f .xor = vRes d (xs.foldl (· ^^^ ·) 0) ∧
        (∀ v ∈ xs, (∀ w ∈ xs, int v ≤ int w) → f .min = vRes d v) ∧ (∀ v ∈ xs, (∀ w ∈ xs, int w ≤ int v) → f .max = vRes d v)
      ∀ d a, folds vals (fun op => memberRes (.redux h op ty d a c) ms m) d ∧
        folds upto (fun op => memberRes (.scan h op ty false d a c) ms m) d ∧
        folds below (fun op => memberRes (.scan h op ty true d a c) ms m) d)

/-- R222, R246, R250, R254, R259, R261: an access that falls in the executing core's own scratchpad and passes every check of R247 completes at once
where the banks it reads have full power: a load takes the bytes that stand there, an unordered store writes its bytes, an atomic does both in one
step and returns the old value. A byte that a copy has still to write reads as a free value (R242). A load, ATOM or CAS of a bank without full power
is sent and its thread stands (log 77); a release first does its fence, an acquire of scope .pod its writebacks. -/
def Obligations.OwnScratchpadAccess : Prop :=
  ∀ s t x g i r off, Runs s i t x g → s.slotBusy t x = false → reqOf t.core x i = some r → s.window t g r.ea r.size = .ok (.loc off) →
    isAccess i = true → r.ea.toNat % r.size = 0 → (r.acc.rd = true → s.scrDead t.ccRef off r.size = false ∧ s.scrPoisoned t.ccRef off r.size = false) →
    (i.podOrdered = true → s.podOk = true) → (trapsLate i = true → s.unretired t = false) →
    (∀ sc, i.relScope = some sc → exec i s = .next (s.startFence t x i (some sc) true (.send (.scr t.core off)))) ∧
    (i.relScope = none → i.acqScope = some .pod → exec i s = .next (s.acquirePod t x i (.scr t.core off))) ∧
    (i.relScope = none → i.acqScope ≠ some .pod →
    let full := ∀ b, off / 0x8000 ≤ b → b ≤ (off + r.size - 1) / 0x8000 → s.scrPower t.coreRef b = .full
    (¬ full → (i.isLoad = true ∨ (i.isAtomic = true ∧ i.isRed = false)) → ∃ s0, OnlyBankState s s0 ∧ (s0.core t.coreRef).seq = (s.core t.coreRef).seq ∧
      SendsAndStands s0 (exec i s) i t x fun m => m.loc = .scr t.core off ∧ m.size = r.size ∧ (i.isAtomic = true → m.kind = .atomic ∧ m.data = dataBytes r.data)) ∧
    ((full ∨ (i.isLoad = false ∧ (i.isAtomic = true → i.isRed = true))) →
    let read (bs : List Byte) := bs.length = r.size ∧
      ∀ k < r.size, s.shadowed t.ccRef (off + k) = false → bs.getD k 0 = scrByte s t.ccRef (off + k)
    (∀ h sz ord d a b c, i = .ld h sz ord d a b c → ∃ s1 bs, OnlyBankState s s1 ∧ read bs ∧ CompletesFrom s1 s i t x (loadRes i bs)) ∧
    (∀ h sz ord d a b c, i = .ldSp h sz ord d a b c →
      ∃ s1 bs, OnlyBankState s s1 ∧ read bs ∧ CompletesFrom s1 s i t x (loadRes i bs)) ∧
    (∀ h sz d a b c, i = .st h sz none d a b c →
      ∃ s1, ScratchStored s s1 t.ccRef off ((dataBytes r.data).take r.size) ∧ CompletesFrom s1 s i t x {}) ∧
    (∀ h sz d a b c, i = .stSp h sz false d a b c →
      ∃ s1, ScratchStored s s1 t.ccRef off ((dataBytes r.data).take r.size) ∧ CompletesFrom s1 s i t x {}) ∧
    (∀ h op ty ord sc d a c b, i = .atom h op ty ord sc d a c b → ∃ s1 bs, read bs ∧
      ScratchStored s s1 t.ccRef off (leBytes (aopNew op ty (leNat bs) (wordsNat r.data)) r.size) ∧
      CompletesFrom s1 s i t x (loadRes i bs)) ∧
    (∀ h op ty ord sc a c b, i = .red h op ty ord sc a c b → ∃ s1 bs, read bs ∧
      ScratchStored s s1 t.ccRef off (leBytes (aopNew op ty (leNat bs) (wordsNat r.data)) r.size) ∧ CompletesFrom s1 s i t x {}) ∧
    (∀ h ty ord sc d a c b, i = .cas h ty ord sc d a c b → ∃ s1 bs, read bs ∧ CompletesFrom s1 s i t x (loadRes i bs) ∧
      (leNat bs = wordsNat (x.rdMany b ty.regs) →
        ScratchStored s s1 t.ccRef off (leBytes (wordsNat (x.rdMany (b + BitVec.ofNat 7 ty.regs) ty.regs)) r.size)) ∧
      (leNat bs ≠ wordsNat (x.rdMany b ty.regs) → OnlyBankState s s1))))

/-- R228, R235, R250, R251, R265: a load of memory that the core's L1 holds under a lease completes at once with the line's bytes under the core's own
unanswered stores, raises WCTMAX and sets the load marker (that WLINE is a virtual line is the model's reading: log 16), and orders its thread after
the queued writes it has seen; where those bytes hold an error, nothing is written and MCHECK is delivered later; any other is handed to the memory
system and the thread goes on; an acquire is sent and its thread stands, after the writebacks of scope .pod (R232). R229, R231, R234, R236, R238,
R239: a store to memory of the core's own die retires and leaves an unanswered store behind; one to another die or to pooled memory goes through the
write-combining buffer; an atomic is sent and its thread stands until the answer; a release first does its fence. Where a store needs an entry of the
buffer and none is free, the oldest entry drains and the store waits, and with it the stores of the later lanes of its issue group. -/
def Obligations.GlobalAccessIssue : Prop :=
  (∀ s t x g h sz d a b off va loc ord, let i : Instr := .ld h sz ord d a b off
     Runs s i t x g → s.slotBusy t x = false → s.window t g (eaOf x a b off) sz.bytes = .ok (.glob va) →
     (eaOf x a b off).toNat % sz.bytes = 0 → s.probe t x g i va .read = .place loc →
     (ord = some .pod → s.podOk = true) → (ord ≠ none → s.unretired t = false) →
     (ord = some .pod → exec i s = .next (s.acquirePod t x i loc)) ∧
     (∀ sc, ord = some sc → sc ≠ .pod → (∀ c o, loc ≠ .scr c o) → SendsAndStands s (exec i s) i t x fun m => m.kind = .acquire ∧ m.loc = loc ∧ m.size = sz.bytes) ∧
     (ord = none →
     (∀ pa k q p, loc = .mem pa k q p → ∀ l,
       (s.core t.coreRef).l1Hit (loc.lineNo t.part) (s.coreTime t.coreRef) = some l →
       (l.bad (pa % 128) sz.bytes = true → ∃ s', OnlyThread s s' t ∧ exec i s = .next s' ∧ s'.thread? t = some { x with
         pc := x.pc + 12, gap := h.gap.toNat, yld := h.yld, ph := .none, cur := none,
         deferred := x.deferred ++ [{ cause := .mcheck, taddr := eaOf x a b off, entry := none }] }) ∧
       (l.bad (pa % 128) sz.bytes = false → ∃ s1, s1 = s.modCore t.coreRef (fun c => (c.l1Touch (loc.lineNo t.part)
         (if (eaOf x a b off).toNat / 2 ^ 56 = 0xFE then 0 else h.ch)).noteRead t loc sz.bytes) ∧ ∃ s' y, s'.thread? t = some y ∧
         Retires { x with wctmax := dmax x.wctmax (dmax l.lwct l.pwct), wline := BitVec.ofNat 64 (va / 128 * 128), wseen := l.lwct } y h
           (loadRes i ((s.core t.coreRef).overlay loc ((l.bytes.drop (pa % 128)).take sz.bytes))) ∧
         OnlyThread s1 s' t ∧ exec i s = .next (afterStep s' t x y.pc))) ∧
     (∀ pa k q p, loc = .mem pa k q p →
       (s.core t.coreRef).l1Hit (loc.lineNo t.part) (s.coreTime t.coreRef) = none →
       ∃ s1 m, Sent s s1 t.coreRef m ∧ m.seq = (s.core t.coreRef).seq ∧ m.thr = t ∧ m.kind = .load ∧ m.instr = i ∧ m.loc = loc ∧
         m.size = sz.bytes ∧ m.ans = .pending ∧
         exec i s = .next (s1.setThread t { x with pc := x.pc + 12, gap := h.gap.toNat, yld := h.yld, ph := .none, cur := none })))) ∧
  (∀ s t x g i r va pa k q p, let loc : Place := .mem pa k q p
     Runs s i t x g → s.slotBusy t x = false → reqOf t.core x i = some r → isAccess i = true → s.window t g r.ea r.size = .ok (.glob va) →
     r.ea.toNat % r.size = 0 → s.probe t x g i va r.acc = .place loc →
     (i.podOrdered = true → s.podOk = true) → (trapsLate i = true → s.unretired t = false) →
     (∀ h sz d a b c, i = .st h sz none d a b c →
       (s.viaWc t loc = false → ∃ s1 m, Sent s s1 t.coreRef m ∧ m.thr = t ∧ m.kind = .store ∧ m.loc = loc ∧ m.ans = .pending ∧
         m.data = (dataBytes (x.rdMany d sz.regs)).take sz.bytes ∧ m.mask = List.replicate sz.bytes true ∧ CompletesFrom s1 s i t x {}) ∧
       (s.viaWc t loc = true → (s.core t.coreRef).wcFull loc = true → exec i s = .next ((s.drainOldest t.coreRef).holdGroup t)) ∧
       (s.viaWc t loc = true → (s.core t.coreRef).wcFull loc = false →
         CompletesFrom (s.wcStore t loc ((dataBytes (x.rdMany d sz.regs)).take sz.bytes) (i.chAt r.ea)) s i t x {})) ∧
     (∀ h sz sc d a b c, i = .st h sz (some sc) d a b c → exec i s = .next (s.startFence t x i (some sc) true (.send loc))) ∧
     (i.isAtomic = true → (∀ sc, i.relScope = some sc → exec i s = .next (s.startFence t x i (some sc) true (.send loc))) ∧
       (i.relScope = none → i.acqScope = some .pod → exec i s = .next (s.acquirePod t x i loc)) ∧
       (i.relScope = none → i.acqScope ≠ some .pod →
         SendsAndStands (s.drainWhere t.coreRef (fun w => loc.overlap r.size w.loc 128) none) (exec i s) i t x fun m =>
           m.kind = .atomic ∧ m.loc = loc ∧ m.size = r.size ∧ m.data = dataBytes r.data)))

/-- R246 to R249, R285: what stops an access before it leaves its thread: no window takes the address, or it is not aligned, or it reads a dead bank
of the core's own scratchpad, or poison there, or .pod ordering has been lost: a trap, but for the last with TADDR the address; a granule that the TLB
does not hold is walked; a failed check of the page: the access parks in the operand log and the thread goes on PARKED behind it. The order in which
TIMELOST comes after the other checks, and TADDR of the SP forms, are the model's choice: logs 31 and 50. -/
def Obligations.AccessChecksAndParks : Prop :=
  ∀ s t x g i r, Runs s i t x g → s.slotBusy t x = false → reqOf t.core x i = some r → isAccess i = true →
    (trapsLate i = true → s.unretired t = false) →
    (∀ c, s.window t g r.ea r.size = .error c → exec i s = .next (s.precise t x c (x.pc.setWidth 64) r.ea 0)) ∧
    (∀ w, s.window t g r.ea r.size = .ok w → r.ea.toNat % r.size ≠ 0 →
      exec i s = .next (s.precise t x .align (x.pc.setWidth 64) r.ea 0)) ∧
    (∀ off, s.window t g r.ea r.size = .ok (.loc off) → r.ea.toNat % r.size = 0 → r.acc.rd = true → s.scrDead t.ccRef off r.size = true →
      exec i s = .next (s.precise t x .deadscr (x.pc.setWidth 64) r.ea 0)) ∧
    (∀ off, s.window t g r.ea r.size = .ok (.loc off) → r.ea.toNat % r.size = 0 → r.acc.rd = true → s.scrDead t.ccRef off r.size = false →
      s.scrPoisoned t.ccRef off r.size = true → exec i s = .next (s.precise t x .mcheck (x.pc.setWidth 64) (BitVec.ofNat 64 off) 0)) ∧
    (∀ w, s.window t g r.ea r.size = .ok w → r.ea.toNat % r.size = 0 → i.podOrdered = true → s.podOk = false →
      (∀ off, w = .loc off → r.acc.rd = true → s.scrDead t.ccRef off r.size = false ∧ s.scrPoisoned t.ccRef off r.size = false) →
      exec i s = .next (s.trapHere t x .timelost)) ∧
    (∀ va, s.window t g r.ea r.size = .ok (.glob va) → r.ea.toNat % r.size = 0 → i.podOrdered = false →
      (s.probe t x g i va r.acc = .hold → exec i s = .next (s.holdGroup t)) ∧
      (s.probe t x g i va r.acc = .walk → exec i s = .next (s.startWalk t x i va))) ∧
    (∀ va m, s.window t g r.ea r.size = .ok (.glob va) → r.ea.toNat % r.size = 0 → i.podOrdered = false →
      s.probe t x g i va r.acc = .park m →
      ∃ s' e o, e < 256 ∧ exec i s = .next s' ∧ (∀ a, s'.memByte a = s.memByte a) ∧
        s'.thread? t = some { x with st := .parked, ph := .none, cur := none, pc := x.pc + 12, gap := i.hints.gap.toNat, yld := i.hints.yld } ∧
        (s.holding t.ccRef).olog.get? e = none ∧ (s'.holding t.ccRef).olog.get? e = some o ∧ o.instr = i ∧ o.ea = r.ea ∧ o.data = r.data ∧
        o.pc = x.pc ∧ o.ccls = m.cause ∧ o.sub = m.sub ∧ o.stat = .waiting ∧ o.grp = t.grp ∧ o.rank = t.rank)

/-- R221, R222, R253: an access through the gang window to another core's scratchpad: a load waits for the answer, an unordered store goes through the
write-combining buffer, an atomic without release, a RED too, is sent and waits (R238); a release first does its fence, an acquire of scope .pod its
writebacks. -/
def Obligations.GangScratchpadAccess : Prop :=
  ∀ s t x g i r core off, Runs s i t x g → s.slotBusy t x = false → reqOf t.core x i = some r → isAccess i = true →
    s.window t g r.ea r.size = .ok (.gang core off) → r.ea.toNat % r.size = 0 → (i.podOrdered = true → s.podOk = true) →
    s.unretired t = false → core ≠ t.core → let loc : Place := .scr core off
    (∀ sc, i.relScope = some sc → exec i s = .next (s.startFence t x i (some sc) true (.send loc))) ∧
    (i.relScope = none → i.acqScope = some .pod → exec i s = .next (s.acquirePod t x i loc)) ∧
    (i.relScope = none → i.acqScope ≠ some .pod →
      (i.isLoad = true → SendsAndStands s (exec i s) i t x fun m => m.loc = loc ∧ m.size = r.size ∧ m.kind = if i.acqScope.isSome then .acquire else .load) ∧
      (∀ h sz d a b c, i = .st h sz none d a b c →
        ((s.core t.coreRef).wcFull loc = true → exec i s = .next ((s.drainOldest t.coreRef).holdGroup t)) ∧
        ((s.core t.coreRef).wcFull loc = false →
          CompletesFrom (s.wcStore t loc ((dataBytes (x.rdMany d sz.regs)).take sz.bytes) (i.chAt r.ea)) s i t x {})) ∧
      (i.isAtomic = true → SendsAndStands (s.drainWhere t.coreRef (fun w => loc.overlap r.size w.loc 128) none) (exec i s) i t x fun m =>
        m.kind = .atomic ∧ m.loc = loc ∧ m.size = r.size ∧ m.data = dataBytes r.data))

/-- R227, R229, R236, R485: a store performed at the home of local memory puts exactly its masked bytes there, one at its byte address; every other
byte reads as before where its sector reads as it was written, or the store leaves that sector alone; the line takes the write's completion time, and
the operation its answer. Threads, groups and scratchpads do not change. An access that the line's scope record refuses writes nothing (R237); one for
whose line the L2 has no room yet stays unanswered (R241). R229, R236, R259, R261: an atomic performed at the home of local memory reads the old value
and writes the new one in one step, and its answer carries the old bytes; a CAS that does not match writes nothing. R259 to R261: what an atomic
operation writes for an old value and an operand. -/
def Obligations.WritesPerformedAtHome : Prop :=
  (∀ (s : State) (c : CoreRef) (seq : Nat) (ev : Bool) (m : MOp) (pa k pri : Nat),
     (s.core c).mop? seq = some m → (m.kind = .store ∨ m.kind = .wc ∨ m.kind = .release) → m.ans = .pending → (s.core c).olderWrite m = false →
     m.loc = .mem pa k pri false → s.homeReaches c m.loc = true →
     let s0 := if ev then s.l2Drop (pa / 128) else s
     (ev = false → s.scopeRefuses m = true → exec (.storePerformedAtHome c seq ev) s = .next (s.modMop c seq fun m => { m with ans := .refused })) ∧
     ((ev = true ∨ s.scopeRefuses m = false) → homeRoom s0 m false = false →
       exec (.storePerformedAtHome c seq ev) s = .next (s0.l2Ready m.thr.ctxRef m.loc 0 false).1) ∧
     ((ev = true ∨ s.scopeRefuses m = false) → homeRoom s0 m false = true → m.mask.length = m.data.length → pa % 128 + m.data.length ≤ 128 →
     let hit (a : Nat) : Bool := decide (pa ≤ a) && decide (a < pa + m.data.length) && m.mask.getD (a - pa) false
     let l := pa / 128
     let w := dmax (s.homeTime pa) (s.line l).llast
     ∃ s', exec (.storePerformedAtHome c seq ev) s = .next s' ∧
       (∀ a, hit a = true → s'.memByte a = m.data.getD (a - pa) 0) ∧
       (∀ a, hit a = false →
         (plainAt (homeUse s0 m false) m.thr.part k a ∨ (∀ b, b / 64 = a / 64 → hit b = false)) → s'.memByte a = s.memByte a) ∧
       (s'.line l).lwct = w ∧ (s'.line l).llast = (s.line l).llast ∧ (s'.line l).writes = (s.line l).writes + 1 ∧ SameThreads s s' ∧
       s'.groups = s.groups ∧ s'.holds = s.holds ∧
       (∃ n, (s'.core c).mop? seq = some n ∧ n.ans = .done w [] ∧ n = { m with ans := n.ans }))) ∧
  (∀ (s : State) (c : CoreRef) (seq : Nat) (ev : Bool) (m : MOp) (pa k pri : Nat),
     (s.core c).mop? seq = some m → m.kind = .atomic → m.ans = .pending → (s.core c).olderWrite m = false → m.loc = .mem pa k pri false →
     s.homeReaches c m.loc = true → (ev = true ∨ s.scopeRefuses m = false) → s.poisoned pa m.size = false → 0 < m.size → m.size ≤ 8 → pa % m.size = 0 →
     let s0 := if ev then s.l2Drop (pa / 128) else s
     homeRoom s0 m false = true → readsPlain ((homeUse s0 m false).noteScope m) m.thr.part k pa m.size →
     let old := (List.range m.size).map fun i => s.memByte (pa + i)
     ∃ s', exec (.storePerformedAtHome c seq ev) s = .next s' ∧ SameThreads s s' ∧ s'.groups = s.groups ∧ s'.holds = s.holds ∧
       (∃ n w, (s'.core c).mop? seq = some n ∧ n.ans = .done w old) ∧
       (∀ v, atomicNew m.instr (bytesWords m.data) (leNat old) = some v →
         (∀ i < m.size, s'.memByte (pa + i) = (leBytes v m.size).getD i 0) ∧
         (∀ a, (a < pa ∨ pa + m.size ≤ a) → s'.memByte a = s.memByte a)) ∧
       (atomicNew m.instr (bytesWords m.data) (leNat old) = none → ∀ a, s'.memByte a = s.memByte a)) ∧
  ((∀ old b : BitVec 32,
     aopNew .add .n32 old.toNat b.toNat = (old + b).toNat ∧ aopNew .add .i32 old.toNat b.toNat = (old + b).toNat ∧
     aopNew .min .n32 old.toNat b.toNat = min old.toNat b.toNat ∧ aopNew .max .n32 old.toNat b.toNat = max old.toNat b.toNat ∧
     aopNew .min .i32 old.toNat b.toNat = (BitVec.ofInt 32 (min old.toInt b.toInt)).toNat ∧
     aopNew .max .i32 old.toNat b.toNat = (BitVec.ofInt 32 (max old.toInt b.toInt)).toNat ∧
     aopNew .and .n32 old.toNat b.toNat = (old &&& b).toNat ∧ aopNew .or .n32 old.toNat b.toNat = (old ||| b).toNat ∧
     aopNew .xor .n32 old.toNat b.toNat = (old ^^^ b).toNat ∧ aopNew .exch .n32 old.toNat b.toNat = b.toNat ∧
     aopNew .inc .n32 old.toNat b.toNat = (if b.toNat ≤ old.toNat then 0 else old.toNat + 1) ∧
     aopNew .dec .n32 old.toNat b.toNat = (if old = 0 ∨ b.toNat < old.toNat then b.toNat else old.toNat - 1)) ∧
   (∀ old b : BitVec 64,
     aopNew .add .n64 old.toNat b.toNat = (old + b).toNat ∧ aopNew .exch .i64 old.toNat b.toNat = b.toNat ∧
     aopNew .max .i64 old.toNat b.toNat = (BitVec.ofInt 64 (max old.toInt b.toInt)).toNat ∧
     aopNew .min .n64 old.toNat b.toNat = min old.toNat b.toNat) ∧
   (∀ h ty ord sc d a c b (ws : List Word) (old : Nat), ws.length = 2 * ty.regs →
     atomicNew (.cas h ty ord sc d a c b) ws old =
       if old = wordsNat (ws.take ty.regs) then some (wordsNat (ws.drop ty.regs)) else none))

/-- R230, R233, R238, R495: the answer of a plain store raises WCTMAX of its thread; the answer of an atomic or of a release that a thread stands for
does so too, and the instruction retires with the old value; one that the scope checker refused traps SCOPE with the line's address, one of a dead
bank DEADSCR, one that met an error MCHECK. An acquire reads at its home past every lease; one that met an error retires with nothing written, and
MCHECK is delivered later. A full return FIFO holds the answer (R460). That an answer event whose answer is pending changes nothing, and that WLINE is
a virtual line, are the model's choice: logs 2 and 16. R228, R230, R235, R251, R265: a load of local memory returns: its destination takes the bytes
that stand at the home, under the core's own unanswered stores, WCTMAX rises to the line's LWCT and the load marker is set; the PC does not move and
no byte of memory changes. A load of another core's scratchpad completes where the bank has full power, and traps DEADSCR where it is dead. A load
that finds its line in the L1 under a lease by then takes it from there; one beside an error there is not written, and MCHECK is delivered later. That
WLINE is a virtual line is the model's reading: log 16. -/
def Obligations.AnswersToThreads : Prop :=
  (∀ (s : State) (c : CoreRef) (seq : Nat) (m : MOp) (x : Thread) (g : Group),
     (s.core c).mop? seq = some m → m.thr.coreRef = c → s.thread? m.thr = some x → s.group? m.thr.group = some g →
     let s0 := s.dropMop c seq
     (m.kind = .store → m.contrib = [] → ∀ w old, m.ans = .done w old →
       exec (.storeAnswer c seq) s = .next ((s.setThread m.thr { x with wctmax := dmax x.wctmax w }).dropMop c seq)) ∧
     (m.silent = false → s.returnFull m.thr = true → exec (.atomicAnswer c seq) s = .next s) ∧
     ((m.kind = .release ∨ m.kind = .atomic) → m.silent = false → m.entry = none → s.returnFull m.thr = false →
       (∀ w old, m.ans = .done w old → ∃ o, exec (.atomicAnswer c seq) s = .next o ∧
         Finishes (s0.setThread m.thr { x with wctmax := dmax x.wctmax w }) o m.thr { x with wctmax := dmax x.wctmax w }
           (loadRes m.instr old)) ∧
       (m.ans = .refused → exec (.atomicAnswer c seq) s = .next (s0.finishTrap m.thr .scope (m.ea &&& ~~~127))) ∧
       (m.ans = .dead → exec (.atomicAnswer c seq) s = .next (s0.finishTrap m.thr .deadscr m.ea)) ∧
       (m.ans = .failed → ∀ pa k q p, m.loc = .mem pa k q p → exec (.atomicAnswer c seq) s = .next (s0.finishTrap m.thr .mcheck m.ea)) ∧
       (m.ans = .pending → exec (.atomicAnswer c seq) s = .next s)) ∧
     (m.kind = .acquire → m.entry = none → s.returnFull m.thr = false → m.gen = (s.ctx m.thr.ctxRef).gen → m.ans = .failed → x.step = false →
       (∃ pa k q p, m.loc = .mem pa k q p) → ∃ s' y, exec (.atomicAnswer c seq) s = .next s' ∧ (∀ a, s'.memByte a = s.memByte a) ∧
         s'.thread? m.thr = some y ∧ y.pc = x.pc + 12 ∧ (∀ n, y.rd n = if x.curHints.wdrop.getLsbD n.window then 0 else x.rd n) ∧
         y.deferred = x.deferred ++ [{ cause := .mcheck, taddr := m.ea, entry := none }]) ∧
     (∀ pa k pri, m.kind = .acquire → m.entry = none → s.returnFull m.thr = false → m.loc = .mem pa k pri false → m.ans = .pending → x.ph = .answer seq →
       m.gen = (s.ctx m.thr.ctxRef).gen → (s.core c).budgetHeld = false → s.homeReaches c m.loc = true → s.scopeRefuses m = false → s.poisoned pa m.size = false →
       homeRoom s m true = true → readsPlain ((homeUse s m true).noteScope m) m.thr.part k pa m.size →
       ∃ (s1 o : State), exec (.atomicAnswer c seq) s = .next o ∧ (∀ a, s1.memByte a = s.memByte a) ∧ SameThreads s s1 ∧
         let l := s.line (pa / 128)
         let y : Thread := { x with wctmax := dmax x.wctmax (dmax l.lwct l.pwct), wseen := l.lwct,
                                    wline := BitVec.ofNat 64 (vaOf g m.thr.rank m.ea / 128 * 128) }
         (∀ e ∈ (s1.core c).l1, e.line ≠ pa / 128) ∧
         Finishes (s1.setThread m.thr y) o m.thr y
           (loadRes m.instr ((s0.core c).overlay m.loc ((List.range m.size).map fun i => s.memByte (pa + i)))))) ∧
  (∀ (s : State) (c : CoreRef) (seq : Nat) (m : MOp) (x : Thread) (g : Group) (pa k pri : Nat),
     (s.core c).mop? seq = some m → m.thr.coreRef = c → s.thread? m.thr = some x → s.group? m.thr.group = some g →
     m.kind = .load → m.instr.prefL2 = false → m.entry = none → s.returnFull m.thr = false → m.gen = (s.ctx m.thr.ctxRef).gen → s.homeReaches c m.loc = true →
     let s0 := s.dropMop c seq
     (∀ core off, m.loc = .scr core off → let cc : CCRef := { part := c.part, ctx := m.thr.ctx, core := core }
       (s.scrDead cc off m.size = true → exec (.loadResponse c seq) s = .next (s0.finishTrap m.thr .deadscr m.ea)) ∧
       (s.scrDead cc off m.size = false → s.scrPoisoned cc off m.size = false →
         (∀ b, off / 0x8000 ≤ b → b ≤ (off + m.size - 1) / 0x8000 → s.scrPower cc.coreRef b = .full) → ∃ s1 o bs, exec (.loadResponse c seq) s = .next o ∧
         OnlyBankState s0 s1 ∧ bs.length = m.size ∧ (∀ k < m.size, s.shadowed cc (off + k) = false → bs.getD k 0 = scrByte s cc (off + k)) ∧
         Finishes (s1.noteRead m.thr m.loc m.size) o m.thr x (loadRes m.instr ((s0.core c).overlay m.loc bs)))) ∧
     (m.loc = .mem pa k pri false → x.step = false → (s.core c).budgetHeld = false → s.poisoned (pa / 128 * 128) 128 = false → pa % 128 + m.size ≤ 128 →
     let hit := (s.core c).l1Hit (pa / 128) (s.coreTime c)
     (hit.any (fun l => l.bad (pa % 128) m.size) = true → ∃ s' y, exec (.loadResponse c seq) s = .next s' ∧ (∀ a, s'.memByte a = s.memByte a) ∧
       s'.thread? m.thr = some y ∧ (s'.core c).mop? seq = none ∧
       y = { x with deferred := x.deferred ++ [{ cause := .mcheck, taddr := m.ea, entry := none }] }) ∧
     (hit.any (fun l => l.bad (pa % 128) m.size) = false → homeRoom s m true = true →
     let returns (line : List Byte) (lw pw : DWord) : Prop :=
       let bs := (s0.core c).overlay m.loc ((line.drop (pa % 128)).take m.size)
       ∃ (s' : State) (y : Thread), exec (.loadResponse c seq) s = .next s' ∧ s'.thread? m.thr = some y ∧
         (∀ a, s'.memByte a = s.memByte a) ∧ (∃ s1, SameThreads s s1 ∧ ∀ u, u ≠ m.thr → s'.thread? u = s1.thread? u) ∧
         (∀ n, y.rd n = if m.instr.hints.wdrop.getLsbD n.window then 0 else (written (loadRes m.instr bs).vs n).getD (x.rd n)) ∧
         y.pc = x.pc ∧ y.st = x.st ∧ y.wctmax = dmax x.wctmax (dmax lw pw) ∧ y.wseen = lw ∧
         y.wline = BitVec.ofNat 64 (vaOf g m.thr.rank m.ea / 128 * 128) ∧ (s'.core c).mop? seq = none
     (∀ l, hit = some l → returns l.bytes l.lwct l.pwct) ∧
     (hit = none → readsPlain (homeUse s m true) m.thr.part k (pa / 128 * 128) 128 →
       returns ((List.range 128).map fun i => s.memByte (pa / 128 * 128 + i)) (s.line (pa / 128)).lwct (s.line (pa / 128)).pwct))))

/-- R231, R232, R234, R240, R263, R264: FENCE, WCFLUSH and GWMAX drain what their scope drains and stand at their fence; the fence notes the thread's
writes not yet answered, WCFLUSH what it drained; no byte of memory changes. FENCE.pod without pod time traps TIMELOST. R39, R231, R249, R264: a fence
is over once none of the noted writes is unanswered, no load of the thread is under way, its pooled writebacks are done and its scope's clock
condition holds; FENCE and WCFLUSH then retire, GWMAX writes WCTMAX once the thread owes no write, and a release performs its access, after those of
lower lanes. A fence of scope .pod traps TIMELOST without pod time. -/
def Obligations.Fences : Prop :=
  ((∀ s t x g h sc, Runs s (.fence h sc) t x g → s.slotBusy t x = false →
     (sc = .pod → s.podOk = false → exec (.fence h sc) s = .next (s.trapHere t x .timelost)) ∧
     ((sc = .pod → s.podOk = true ∧ s.unretired t = false) →
       exec (.fence h sc) s = .next (s.startFence t x (.fence h sc) (some sc) (sc != .core) .retire))) ∧
   (∀ s t x g h, Runs s (.wcflush h) t x g → s.slotBusy t x = false →
     exec (.wcflush h) s = .next (s.startFence t x (.wcflush h) none true .retire)) ∧
   (∀ s t x g h d, Runs s (.gwmax h d) t x g → s.slotBusy t x = false →
     exec (.gwmax h d) s = .next (s.startFence t x (.gwmax h d) none false .gwmax)) ∧
   (∀ (s : State) (t : TRef) (x : Thread) (i : Instr) (sc : Option Scope) (drain : Bool) (nxt : After), s.thread? t = some x → let s' := s.startFence t x i sc drain nxt
     (∀ a, s'.memByte a = s.memByte a) ∧ (drain = true → (s'.core t.coreRef).wc = []) ∧ s'.groups = s.groups ∧ s'.holds = s.holds ∧
     ∃ seqs wbs, s'.thread? t = some (standing x i (.fence sc seqs wbs nxt)) ∧
       (sc ≠ some .core → (sc ≠ none ∨ drain = false) → ∀ m ∈ (s'.core t.coreRef).mops, m.ofThread t = true → m.seq ∈ seqs) ∧
       (drain = true → (∀ m ∈ (s.core t.coreRef).mops, m.seq < (s.core t.coreRef).seq) → ∀ m ∈ (s'.core t.coreRef).mops, m.kind = .wc → (s.core t.coreRef).seq ≤ m.seq → m.seq ∈ seqs))) ∧
  (∀ (s : State) (t : TRef) (x : Thread) (g : Group) (i : Instr) (sc : Option Scope) (seqs : List Nat) (wbs : List (Nat × Bool)), s.thread? t = some x → s.group? t.group = some g → s.ctxRuns t.ctxRef = true → x.cur = some i →
     let now := (s.coreTime t.coreRef).toNat
     (∀ nxt, x.ph = .fence (some .pod) seqs wbs nxt → s.podOk = false → exec (.fenceComplete t) s = .next (s.finishTrap t .timelost 0)) ∧
     ((∀ q ∈ seqs, ∀ m ∈ (s.core t.coreRef).mops, m.seq ≠ q) → (sc ≠ none → s.unretired t = false) → wbs = [] → (sc = some .pod → seqs = []) →
     (sc = some .quad ∨ sc = some .die → x.wctmax.toNat ≤ now) → (sc = some .pkg → x.wctmax.toNat + 16 ≤ now) →
     (sc = some .pod → s.podOk = true ∧ x.wctmax.toNat + s.epsilon ≤ now) →
     (x.ph = .fence sc seqs wbs .retire → ∃ o, exec (.fenceComplete t) s = .next o ∧ Finishes s o t x {}) ∧
     (∀ loc r, x.ph = .fence sc seqs wbs (.send loc) → reqOf t.core x i = some r → s.lowerLane t x (.send loc) = false →
       exec (.fenceComplete t) s = .next (s.perform t { x with ph := .none } i none r loc (vaOf g t.rank r.ea)) ∧
       ∀ pa k q p, loc = .mem pa k q p →
         (i.isAtomic = true → SendsAndStands (s.drainWhere t.coreRef (fun w => loc.overlap r.size w.loc 128) none) (exec (.fenceComplete t) s) i t x
           fun m => m.kind = .atomic ∧ m.loc = loc ∧ m.size = r.size ∧ m.data = dataBytes r.data) ∧
         (∀ h sz sc d a b c, i = .st h sz (some sc) d a b c → SendsAndStands s (exec (.fenceComplete t) s) i t x
           fun m => m.kind = .release ∧ m.loc = loc ∧ m.size = r.size ∧ m.data = (dataBytes r.data).take r.size)) ∧
     (∀ h d, x.ph = .fence sc seqs wbs .gwmax → i = .gwmax h d → (s.core t.coreRef).owes t = false →
       ∃ o, exec (.fenceComplete t) s = .next o ∧
         Finishes s o t x { vs := [(d, x.wctmax.setWidth 32), (d + 1, (x.wctmax >>> 32).setWidth 32)] })))

/-- R144, R265, R266, R427: WAITADDR arms the line at the value its thread last saw, and ends at once for a timeout of 0; the wait ends by a write
performed at the line's home since, or by the deadline; SLEEP ends by its deadline. Outside global memory WAITADDR traps BADWIN. After a restore a
wait looks for its line's home again (R427), and a thread whose instruction could not be fetched there is READY at it, its deadline past. That WLINE
is a virtual line is the model's reading: log 16. An event whose condition does not hold changes nothing: the model's choice, log 2. -/
def Obligations.AddressWaits : Prop :=
  (∀ s t x g h a off b, let ea := x.rdPair a + off.signExtend 64
    Runs s (.waitaddr h a off b) t x g → s.slotBusy t x = false → (∀ va, s.window t g ea 1 ≠ .ok (.glob va)) →
    exec (.waitaddr h a off b) s = .next (s.precise t x .badwin (x.pc.setWidth 64) ea 0)) ∧
  (∀ s t x g h a off b va loc, let i : Instr := .waitaddr h a off b
    let ea := x.rdPair a + off.signExtend 64
    Runs s i t x g → s.slotBusy t x = false → s.window t g ea 1 = .ok (.glob va) → s.probe t x g i va .read = .place loc →
    ((s.core t.coreRef).budgetHeld = false ∨ s.deadlineDue t x = true) →
    let l := s.line (loc.lineNo t.part)
    let l0 := if x.wline.toNat = va / 128 * 128 then x.wseen else l.lwct
    let waits (dl : Option DWord) : Thread :=
      waiting s x i (.address ea (loc.lineNo t.part) l0 (if l0 = l.lwct then l.writes else l.writes + 1)) dl
    (s.deadlineDue t x = true → Completes s i t x {}) ∧
    (s.deadlineDue t x = false → b = none → Stands s i t (waits none)) ∧
    (∀ r, (s.core t.coreRef).budgetHeld = false → b = some r → x.rd r = 0 → Completes s i t x {}) ∧
    (∀ r, s.deadlineDue t x = false → b = some r → x.rd r ≠ 0 → Stands s i t (waits (some (s.deadlineOf t (x.rd r).toNat))))) ∧
  (∀ (s : State) (t : TRef) (x : Thread), s.thread? t = some x → x.st = .wait → s.ctxRuns t.ctxRef = true →
    let ends (i : Instr) : Prop :=
      (x.cur.isSome = true → ∃ o, exec i s = .next o ∧ Finishes s o t x {}) ∧
      (x.cur = none → exec i s = .next (s.setThread t { x with st := x.back, ph := .none, deadline := some 0 }))
    (∀ ea line l0 n, s.rehome t x.ph = .address ea line l0 n →
      (s.returnFull t = true → exec (.waitaddrWake t) s = .next s) ∧
      (s.returnFull t = false → (s.line line).writes ≠ n → ends (.waitaddrWake t)) ∧
      (s.returnFull t = false → (s.line line).writes = n →
        exec (.waitaddrWake t) s = .next (s.setThread t { x with ph := .address ea line l0 n }))) ∧
    (∀ ea line l0 n, x.ph = .address ea line l0 n →
      (s.deadlineDue t x = true → ends (.waitaddrDeadline t)) ∧ (s.deadlineDue t x = false → exec (.waitaddrDeadline t) s = .next s) ∧
      (line ≠ noLine → s.rehome t x.ph = x.ph) ∧
      ∀ g, s.group? t.group = some g → line = noLine →
        (∀ loc, (s.translate t.ctxRef t.core (vaOf g t.rank ea) .read).2 = .ok loc → let l := s.line (loc.lineNo t.part)
          s.rehome t x.ph = .address ea (loc.lineNo t.part) l0 (if l0 = l.lwct then l.writes else l.writes + 1)) ∧
        (∀ e, (s.translate t.ctxRef t.core (vaOf g t.rank ea) .read).2 = .error e → s.rehome t x.ph = x.ph)) ∧
    (x.ph = .sleep → (s.deadlineDue t x = true → ends (.sleepDeadline t)) ∧
      (s.deadlineDue t x = false → exec (.sleepDeadline t) s = .next s)))

/-- R267 to R270: the window instructions give the window of an address and move between the two forms; hints on lines retire whatever they find, and
change no byte of memory. -/
def Obligations.WindowAndHintResults : Prop :=
  (∀ s t x g h d a, Runs s (.sptest h d a) t x g → s.slotBusy t x = false → let e := (x.rdPair a).toNat
    Completes s (.sptest h d a) t x (vRes d (if e < 2 ^ 56 then 0 else if e / 2 ^ 56 = 0xFC then 1
      else if e / 2 ^ 56 = 0xFD then (if e / 2 ^ 32 % 2 ^ 12 = t.core then 2 else 3) else if e / 2 ^ 56 = 0xFE then 4 else 15))) ∧
  (∀ s t x g h d a, Runs s (.spcastGen h d a) t x g → s.slotBusy t x = false →
    Completes s (.spcastGen h d a) t x
      (dRes d (BitVec.ofNat 64 (0xFD * 2 ^ 56 + t.core % 2 ^ 12 * 2 ^ 32 + (x.rd a).toNat % 2 ^ 22)))) ∧
  (∀ s t x g h d a, Runs s (.spcastSp h d a) t x g → s.slotBusy t x = false → let e := (x.rdPair a).toNat
    Completes s (.spcastSp h d a) t x (vRes d
      (if (e / 2 ^ 56 = 0xFD ∧ e / 2 ^ 32 % 2 ^ 12 = t.core) ∨ (e / 2 ^ 56 = 0xFC ∧ e / 2 ^ 44 % 2 ^ 12 = g.grank)
        then BitVec.ofNat 32 (e % 2 ^ 22) else 0xFFFFFFFF))) ∧
  (∀ s t x g h k a b off, Runs s (.pref h k a b off) t x g → s.slotBusy t x = false →
    ∃ s1 : State, (∀ p, s1.memByte p = s.memByte p) ∧ SameThreads s s1 ∧ s1.groups = s.groups ∧ s1.holds = s.holds ∧
      CompletesFrom s1 s (.pref h k a b off) t x {}) ∧
  (∀ s t x g h a off, Runs s (.cctlInv h a off) t x g → s.slotBusy t x = false →
    ∃ s1 : State, (∀ p, s1.memByte p = s.memByte p) ∧ s1.threads = s.threads ∧
      (∀ va loc, s.window t g (x.rdPair a + off.signExtend 64) 1 = .ok (.glob va) → s.walkCut t.ctxRef t.core va = false →
        (s.translate t.ctxRef t.core va .hint).2 = .ok loc → ∀ l ∈ (s1.core t.coreRef).l1, l.line ≠ loc.lineNo t.part) ∧
      CompletesFrom s1 s (.cctlInv h a off) t x {}) ∧
  (∀ s t x g h a off, Runs s (.cctlWb h a off) t x g → s.slotBusy t x = false →
    ∃ s1 : State, (∀ p, s1.memByte p = s.memByte p) ∧ SameThreads s s1 ∧ s1.groups = s.groups ∧ s1.holds = s.holds ∧
      CompletesFrom s1 s (.cctlWb h a off) t x {}) ∧
  (∀ s t x g h, Runs s (.cctlInvall h) t x g → s.slotBusy t x = false →
    CompletesFrom (s.modCore t.coreRef fun c => { c with l1 := [] }) s (.cctlInvall h) t x {})

/-- R254 to R258: SDROP and SWAKE of banks that the group holds complete: SDROP, once the thread's older scratchpad accesses have been performed,
kills exactly the banks it names, and SWAKE begins their wake; of banks that it does not all hold they trap BADWIN. R228, R240: an L1 line whose lease
has run out is dropped, and no other; a write-combining entry that has stood 32,000 ticks is sent as one store with its bytes and mask. -/
def Obligations.BanksLeasesAndTimers : Prop :=
  (∀ s t x g h (first count : BitVec 7),
     let named (b : Nat) : Prop := first.toNat ≤ b ∧ b < first.toNat + count.toNat
     let held := ∀ b, named b → (s.holding t.ccRef).owns t.grp b = true
     (Runs s (.sdrop h first count) t x g → s.slotBusy t x = false → s.scrOwed t = true → exec (.sdrop h first count) s = .next (s.hold t)) ∧
     (Runs s (.sdrop h first count) t x g → s.slotBusy t x = false → s.scrOwed t = false →
       (held → ∃ s1 : State, (∀ p, s1.memByte p = s.memByte p) ∧ s1.threads = s.threads ∧
         (∀ b, named b → (s1.holding t.ccRef).bankLive b = false) ∧
         (∀ b, ¬ named b → (s1.holding t.ccRef).bankLive b = (s.holding t.ccRef).bankLive b) ∧
         (∀ off, ¬ named (off / 0x8000) → scrByte s1 t.ccRef off = scrByte s t.ccRef off) ∧
         CompletesFrom s1 s (.sdrop h first count) t x {}) ∧
       (¬ held → exec (.sdrop h first count) s = .next (s.trapHere t x .badwin))) ∧
     (Runs s (.swake h first count) t x g → s.slotBusy t x = false →
       (held → ∃ s1, OnlyBankState s s1 ∧ (∀ b, named b → (s.holding t.ccRef).bankLive b = true → s1.scrPower t.coreRef b ≠ .off ∧
           s1.scrPower t.coreRef b ≠ .retention) ∧ CompletesFrom s1 s (.swake h first count) t x {}) ∧
       (¬ held → exec (.swake h first count) s = .next (s.trapHere t x .badwin)))) ∧
  ((∀ (s : State) (c : CoreRef) (line : Nat), ∃ s' : State, exec (.leaseExpiry c line) s = .next s' ∧ s' = { s with cores := s'.cores } ∧ (∀ d, d ≠ c → s'.core d = s.core d) ∧
     ∀ l, l ∈ (s'.core c).l1 ↔ l ∈ (s.core c).l1 ∧ ¬ (l.line = line ∧ l.lexp.toNat ≤ (s.coreTime c).toNat)) ∧
   (∀ (s : State) (c : CoreRef) (id : Nat) (w : WcEntry) (pre rest : List WcEntry), (s.core c).wc = pre ++ w :: rest → w.id = id →
     (∀ e ∈ pre ++ rest, e.id ≠ id) → w.first.toNat + 32000 ≤ s.time.gtime.toNat →
     ∃ (s' : State) (m : MOp), exec (.wcEntryTimeout c id) s = .next s' ∧ s' = { s with cores := s'.cores } ∧ (s'.core c).wc = pre ++ rest ∧
       (s'.core c).mops = (s.core c).mops ++ [m] ∧ m.kind = .wc ∧ m.loc = w.loc ∧ m.data = w.bytes ∧ m.mask = w.mask ∧ m.ans = .pending))

/-- R294, R295, R299: TCOPY, TSTORE and TCOPYS read the descriptor at V[A] at its home, the core's own stores over it, and append one copy to the
channel's queue, which an ERROR channel discards and an IDLE one refuses at once; with four copies queued the thread waits. A channel not granted
traps BADWIN, an address that is no multiple of 64 traps ALIGN, one outside global memory BADWIN, a poisoned descriptor MCHECK. The descriptor's line
takes the instruction's hint (R95), and while the L2 has no room for it the instruction waits, with the later lanes of its group. R294, R307, R326:
CHPTR, CHWAIT, CHDRAIN and CHSTAT on a granted channel; on another they trap BADWIN. A CHWAIT notes what its group's next MFENCE covers. -/
def Obligations.CopyChannelInstructions : Prop :=
  (∀ (s : State) (t : TRef) (x : Thread) (g : Group) (h : Hints) (ch : BitVec 3) (a : VReg) (kind : CopyKind) (i : Instr),
     (i, kind) ∈ [(Instr.tcopy h ch a, CopyKind.tcopy), (.tstore h ch a, .tstore), (.tcopys h ch a, .tcopys)] → Runs s i t x g →
     let ea := x.rdPair a
     (g.chans.getLsbD ch.toNat = false → exec i s = .next (s.trapHere t x .badwin)) ∧
     (g.chans.getLsbD ch.toNat = true →
       (∀ va, s.window t g ea 64 = .ok (.glob va) → ea.toNat % 64 ≠ 0 → exec i s = .next (s.precise t x .align (x.pc.setWidth 64) ea 0)) ∧
       ((∀ va, s.window t g ea 64 ≠ .ok (.glob va)) → exec i s = .next (s.precise t x .badwin (x.pc.setWidth 64) ea 0)) ∧
       (∀ va, s.window t g ea 64 = .ok (.glob va) → ea.toNat % 64 = 0 → s.probe t x g i va .read = .hold → exec i s = .next (s.holdGroup t)) ∧
       (∀ va m, s.window t g ea 64 = .ok (.glob va) → ea.toNat % 64 = 0 → s.probe t x g i va .read = .park m →
         ∃ s' e o, exec i s = .next s' ∧ (s'.holding t.ccRef).olog.get? e = some o ∧ o.instr = i ∧ o.ea = ea ∧ o.pc = x.pc ∧
           o.ccls = m.cause ∧ o.sub = m.sub ∧ o.stat = .waiting) ∧
       ∀ va pa k pri, let loc : Place := .mem pa k pri false
         s.window t g ea 64 = .ok (.glob va) → ea.toNat % 64 = 0 → s.probe t x g i va .read = .place loc →
         (s.homeBad t.part loc 64 = true → exec i s = .next (s.precise t x .mcheck (x.pc.setWidth 64) ea 0)) ∧
         (s.homeBad t.part loc 64 = false → (s.l2Ready t.ctxRef loc (i.chAt ea) true).2 = false →
           exec i s = .next ((s.l2Ready t.ctxRef loc (i.chAt ea) true).1.holdGroup t)) ∧
         (s.homeBad t.part loc 64 = false → (s.l2Ready t.ctxRef loc (i.chAt ea) true).2 = true →
           let u := (s.l2Ready t.ctxRef loc (i.chAt ea) true).1.l2Use t.ctxRef loc (i.chAt ea) true
           readsPlain u t.part k pa 64 →
           let bytes := (s.core t.coreRef).overlay loc ((List.range 64).map fun j => s.memByte (pa + j))
           let s0 := u.modCore t.coreRef fun c => { c with bytes := c.bytes + 64 }
           let old := s.chan t.ccRef ch.toNat
           let new : Copy := { kind := kind, desc := leNat bytes, rank := t.rank, grp := t.grp, ch := h.ch, since := u.fresh }
           let ends (k' : Chan) := CompletesThen { s0.modChan t.ccRef ch.toNat fun _ => k' with fresh := u.fresh + 1 } s i t x {} fun s =>
             if (s.chan t.ccRef ch.toNat).st = .error then s.wakeChan t.ccRef ch.toNat else s
           (old.st = .error → ends old) ∧
           (old.st = .idle → ∀ code, s.copyRefused t.ccRef new = some code →
             ends { old with st := .error, err := code, q := [], started := false, miss := none }) ∧
           (old.st = .idle → s.copyRefused t.ccRef new = none → ends { old with q := [new], st := .busy, started := false }) ∧
           ((old.st = .busy ∨ old.st = .parked) → old.q.length < 4 → ends { old with q := old.q ++ [new] }) ∧
           ((old.st = .busy ∨ old.st = .parked) → 4 ≤ old.q.length →
             ∃ s', s'.thread? t = some (waiting s x i (.chanRoom ch.toNat bytes) none) ∧ OnlyThread s0 s' t ∧ exec i s = .next s')))) ∧
  (∀ (s : State) (t : TRef) (x : Thread) (g : Group) (h : Hints) (d b : VReg) (ch : BitVec 3) (c : Src),
     let k := s.chan t.ccRef ch.toNat
     let reached := k.st = .error ∨ ∀ p ∈ k.wp, (p + 2 ^ 32 - (x.rd b).toNat) % 2 ^ 32 < 2 ^ 31
     let quiet := k.st = .idle ∨ k.st = .error
     (∀ i, i ∈ [Instr.chptr h d ch c, .chwait h ch b, .chdrain h ch, .chstat h d ch] → Runs s i t x g → g.chans.getLsbD ch.toNat = false →
       exec i s = .next (s.trapHere t x .badwin)) ∧
     (g.chans.getLsbD ch.toNat = true →
       (Runs s (.chptr h d ch c) t x g →
         Completes s (.chptr h d ch c) t x (vRes d (BitVec.ofNat 32 (k.wp.getD ((x.src c).toNat % 4) 0)))) ∧
       (Runs s (.chwait h ch b) t x g →
         (reached → CompletesFrom (s.coverCopy t.ccRef t.grp ch.toNat (x.rd b).toNat) s (.chwait h ch b) t
           { x with wctmax := dmax x.wctmax k.ct } {}) ∧
         (¬ reached → Stands s (.chwait h ch b) t (waiting s x (.chwait h ch b) (.chanPtr ch.toNat (x.rd b)) none))) ∧
       (Runs s (.chdrain h ch) t x g →
         (quiet → CompletesThen (s.modChan t.ccRef ch.toNat fun k => { k with sat := false, err := 0, st := .idle, q := [], started := false })
           s (.chdrain h ch) t { x with wctmax := dmax x.wctmax k.ct } {} fun s => s.wakeChan t.ccRef ch.toNat) ∧
         (¬ quiet → Stands s (.chdrain h ch) t (waiting s x (.chdrain h ch) (.chanDrain ch.toNat) none))) ∧
       (Runs s (.chstat h d ch) t x g → ∃ n, Completes s (.chstat h d ch) t x (vRes d (BitVec.ofNat 32 n)) ∧
         n % 8 = (match k.st with | .idle => 1 | .busy => 2 | .parked => 3 | .error => 4) ∧ (n / 8 % 2 = 1 ↔ k.sat = true) ∧
         (k.q.length ≤ 4 → n / 16 % 8 = k.q.length) ∧ n / 128 % 2 = 0 ∧ n / 2 ^ 22 = 0 ∧
         (k.err < 256 → n / 256 % 256 = if k.st = .error then k.err else 0) ∧
         (∀ m va, k.st = .parked → k.miss = some (m, va) → n / 2 ^ 16 % 4 = m.cause.ccls ∧ n / 2 ^ 18 % 16 = m.sub))))

/-- R294, R311 to R313, R497: the ring instructions, each with its trap, its wait and its effect on the ring; on a ring that is not initialised every
one but RINGINIT traps RINGPHASE; a RINGWAIT keeps the counter it waits for. -/
def Obligations.RingInstructions : Prop :=
  ∀ (s : State) (t : TRef) (x : Thread) (g : Group) (h : Hints) (d : VReg) (rg : BitVec 3) (b : VReg) (c : Src),
    let r := s.ring t.ccRef rg.toNat
    let dist (p q : Nat) := (p + 2 * r.k - q) % (2 * r.k)
    let slotAt (n : Nat) : Word := BitVec.ofNat 32 (r.base + n % r.k * r.m)
    let ends (i : Instr) (r' : Ring) (res : Res) := CompletesThen (s.setRing t.ccRef rg.toNat r') s i t x res fun s => s.wakeRing t.ccRef rg.toNat
    let waits (i : Instr) (c : Nat) := s.unretired t = false → Stands s i t (waiting s x i (.ring rg.toNat c) none)
    let traps (i : Instr) (c : Cause) := exec i s = .next (s.trapHere t x c)
    let granted := g.rings.getLsbD rg.toNat = true
    let lap := (List.range (2 * r.k)).find? fun n => (r.pcnt + n) % (2 * r.k) % r.k == (x.src c).toNat
    let clap := (List.range (2 * r.k)).find? fun n => (r.ccnt + n) % (2 * r.k) % r.k == (x.src c).toNat
    (∀ i, i ∈ [Instr.ringinit h rg b c, .ringacqProd h d rg, .ringacqCons h d rg, .ringrelProd h rg, .ringrelCons h rg,
        .ringwaitProd h rg c, .ringwaitCons h rg c] → Runs s i t x g → ¬ granted → traps i .badwin) ∧
    (granted → r.init = false → ∀ i, i ∈ [Instr.ringacqProd h d rg, .ringacqCons h d rg, .ringrelProd h rg, .ringrelCons h rg,
        .ringwaitProd h rg c, .ringwaitCons h rg c] → Runs s i t x g → traps i .ringphase) ∧
    (granted → r.k ≤ 64 → r.pcnt < 2 * r.k → r.ccnt < 2 * r.k →
      (∀ i, i = .ringacqProd h d rg → Runs s i t x g →
        (r.init = false → traps i .ringphase) ∧
        (r.init = true → r.phold = false → dist r.pcnt r.ccnt < r.k → ends i { r with phold := true } (vRes d (slotAt r.pcnt))) ∧
        (r.init = true → (r.phold = true ∨ r.k ≤ dist r.pcnt r.ccnt) → waits i 0)) ∧
      (∀ i, i = .ringrelProd h rg → Runs s i t x g →
        ((r.init = false ∨ r.phold = false) → traps i .ringphase) ∧
        (r.init = true → r.phold = true → ∃ ph, (∀ n < 64, ph.getLsbD n = (r.ph.getLsbD n != (n == r.pcnt % r.k))) ∧
          ends i { r with ph := ph, phold := false, pcnt := (r.pcnt + 1) % (2 * r.k) } {})) ∧
      (∀ i, i = .ringacqCons h d rg → Runs s i t x g →
        (r.init = false → traps i .ringphase) ∧
        (r.init = true → (r.chold = true ∨ r.ccnt = r.pcnt) → waits i 0) ∧
        (r.init = true → r.chold = false → r.ccnt ≠ r.pcnt →
          (r.ph.getLsbD (r.ccnt % r.k) = decide (r.ccnt / r.k % 2 = 0) → ends i { r with chold := true } (vRes d (slotAt r.ccnt))) ∧
          (r.ph.getLsbD (r.ccnt % r.k) ≠ decide (r.ccnt / r.k % 2 = 0) → traps i .ringphase))) ∧
      (∀ i, i = .ringrelCons h rg → Runs s i t x g →
        ((r.init = false ∨ r.chold = false) → traps i .ringphase) ∧
        (r.init = true → r.chold = true → ends i { r with chold := false, ccnt := (r.ccnt + 1) % (2 * r.k) } {})) ∧
      (∀ i, i = .ringwaitProd h rg c → Runs s i t x g →
        ((r.init = false ∨ r.k ≤ (x.src c).toNat) → traps i .ringphase) ∧
        (∀ n, r.init = true → (x.src c).toNat < r.k → lap = some n →
          (dist (r.pcnt + n) r.ccnt < r.k → ends i r {}) ∧ (r.k ≤ dist (r.pcnt + n) r.ccnt → waits i ((r.pcnt + n) % (2 * r.k))))) ∧
      (∀ i, i = .ringwaitCons h rg c → Runs s i t x g →
        ((r.init = false ∨ r.k ≤ (x.src c).toNat) → traps i .ringphase) ∧
        (∀ n, r.init = true → (x.src c).toNat < r.k → clap = some n →
          (dist (r.ccnt + n) r.ccnt < dist r.pcnt r.ccnt → ends i r {}) ∧ (dist r.pcnt r.ccnt ≤ dist (r.ccnt + n) r.ccnt → waits i ((r.ccnt + n) % (2 * r.k)))))) ∧
    (∀ i, i = .ringinit h rg b c → granted → Runs s i t x g →
      let k := (x.src c).toNat
      let base := (x.rd b).toNat
      let ready := r.phold = false ∧ r.chold = false ∧ r.pcnt = r.ccnt ∧ 0 < k ∧ k ≤ r.slots
      let fits := base % 512 = 0 ∧ base + k * r.m ≤ 0x300000 ∧
        ∀ n, base / 0x8000 ≤ n → n * 0x8000 < base + k * r.m → s.ringBank t.ccRef rg.toNat n = true
      (¬ ready → traps i .ringphase) ∧ (ready → ¬ fits → 0 < r.m → traps i .badwin) ∧
      (ready → fits → 0 < r.m → ends i { r with base := base, k := k, pcnt := 0, ccnt := 0, ph := 0, init := true } {}))

/-- R295, R300 to R306, R308, R310, R497: the copy at the head of an idle engine is refused with its channel in ERROR and the queue discarded, or
begins. A granule's bytes land in order at every granted destination that has not had them (those of a TSTORE at the places of their addresses), and
the pointers move there; no other byte of any scratchpad changes, and of memory none by TCOPY and TCOPYS, and by TSTORE only what it stores to; once
every destination has all bytes the copy leaves the queue, and bytes that others have written meanwhile, or that a TCOPYS reads too, hold no stated
values then. A dead source bank ends it in ERROR with code 09, a poisoned source with 0A and a record, a line that does not translate parks the
channel, and what is not ready leaves it; neither event touches a channel that is idle, parked or in ERROR. An event whose condition does not hold
changes nothing: the model's choice, log 2. That a granule reaches all destinations in one step: log 33. -/
def Obligations.CopyEngine : Prop :=
  ∀ (s : State) (c : CoreRef) (ch : BitVec 3), let cc := s.heldBy c
    let k := s.chan cc ch.toNat
    (∀ cp rest, k.q = cp :: rest → k.started = false → k.st = .busy → s.ctxRuns cc.ctxRef = true →
      (∀ code, s.copyRefused cc cp = some code →
        exec (.copyStart c ch) s = .next ((s.modChan cc ch.toNat fun k =>
          { k with st := .error, err := code, q := [], started := false, miss := none }).wakeChan cc ch.toNat)) ∧
      (s.copyRefused cc cp = none →
        exec (.copyStart c ch) s = .next (s.modChan cc ch.toNat fun k => { k with started := true, start := k.wp.getD 0 0 }))) ∧
    ((k.st ≠ .busy ∨ k.q = []) → exec (.copyStart c ch) s = .next s ∧ exec (.copyGranuleDelivered c ch) s = .next s) ∧
    (∀ cp rest, k.q = cp :: rest → k.started = true → k.st = .busy → s.ctxRuns cc.ctxRef = true → (∀ e ∈ s.threads, e.2.st ≠ .wait) →
      let pos := k.least cp.dests
      let len := cp.granule pos
      let r := (match cp.kind with
        | .tcopy => s.tcopyGranule cc cp pos len
        | .tcopys => s.tcopysGranule cc cp pos len
        | .tstore => s.tstoreGranule cc cp pos len).2
      let off := cp.destOff pos
      let had (d : Nat) : Bool := decide (pos < (k.wp.getD d 0 + 2 ^ 32 - k.start) % 2 ^ 32)
      let lands (q : CCRef) : Prop := ∃ d core grp, d < cp.dests ∧ s.copyDest cc cp d = some (core, grp) ∧ q = { cc with core := core } ∧
        had d = false ∧ s.copyGranted cc core grp off len = true
      (∀ gr, r = .ok gr → ∃ s' : State, exec (.copyGranuleDelivered c ch) s = .next s' ∧ SameThreads s s' ∧ s'.groups = s.groups ∧
        let k' := s'.chan cc ch.toNat
        let whole := ∀ d < cp.dests, cp.total ≤ (k'.wp.getD d 0 + 2 ^ 32 - k.start) % 2 ^ 32
        k'.ct = dmax k.ct gr.ct ∧ k'.sat = (k.sat || gr.sat) ∧
        (∀ d < cp.dests, k'.wp.getD d 0 = if had d then k.wp.getD d 0 else (k.wp.getD d 0 + len) % 2 ^ 32) ∧
        (whole → k'.q = rest ∧ k'.started = false ∧ k'.st = if rest = [] then .idle else .busy) ∧
        (¬ whole → k'.q = k.q ∧ k'.started = true ∧ k'.st = .busy) ∧
        (cp.kind ≠ .tstore → gr.bytes.length = len → (∀ a, s'.memByte a = s.memByte a) ∧ ∀ (q : CCRef) (b : Nat),
          (whole → b ∉ s.foreignBytes cc ch.toNat cp (some q) ∧ (cp.kind = .tcopys → cp.srcSeqOf b = none)) →
          (lands q → off ≤ b → b < off + len → scrByte s' q b = gr.bytes.getD (b - off) 0) ∧
          (¬ (lands q ∧ off ≤ b ∧ b < off + len) → scrByte s' q b = scrByte s q b)) ∧
        (cp.kind = .tstore → (∀ (q : CCRef) (b : Nat), scrByte s' q b = scrByte s q b) ∧
          let vas := (List.range len).map fun i => s.copyVa cc cp (storeEa cp (pos + i))
          let t := (s.tstoreBytes cc cp pos len).1.copyLines cc .copyWrite (linesOf vas)
          ∀ m, t.2 = .ok m → (whole → s.foreignBytes cc ch.toNat cp none = []) → gr.bytes.length = len →
            let u := m.foldl (fun s e => s.l2Use cc.ctxRef e.2 (cp.hint (dGaddr cp.desc)) false) (t.1.linesReady cc vas m).1
            let put (i slot pa : Nat) : Prop := i < len ∧ ∃ pri, placeOf m (vas.getD i 0) = .mem pa slot pri false
            (∀ i slot pa, put i slot pa → s'.memByte pa = gr.bytes.getD i 0) ∧
            ∀ a, (∀ i slot pa, put i slot pa → pa ≠ a ∧ (pa / 64 = a / 64 → plainAt u cc.part slot a)) → s'.memByte a = s.memByte a)) ∧
      (r = .error .dead → ∃ s' : State, exec (.copyGranuleDelivered c ch) s = .next s' ∧ SameThreads s s' ∧
        (s'.chan cc ch.toNat).st = .error ∧ (s'.chan cc ch.toNat).err = 9 ∧ (s'.chan cc ch.toNat).q = []) ∧
      (∀ a, r = .error (.poison a) → cc.part < s.parts.length → ∃ s' : State, exec (.copyGranuleDelivered c ch) s = .next s' ∧ SameThreads s s' ∧
        (s'.chan cc ch.toNat).st = .error ∧ (s'.chan cc ch.toNat).err = 10 ∧ (s'.chan cc ch.toNat).q = [] ∧
        ∃ e ∈ (s'.part cc.part).mc, e.extractLsb' 184 8 = 1 ∧ e.extractLsb' 384 64 = BitVec.ofNat 64 a) ∧
      (r = .error .wait → ∃ s' : State, exec (.copyGranuleDelivered c ch) s = .next s' ∧ SameThreads s s' ∧ s'.chan cc ch.toNat = k ∧
        ∀ a, s'.memByte a = s.memByte a) ∧
      (∀ m va, r = .error (.fault m va) → ∃ s' : State, exec (.copyGranuleDelivered c ch) s = .next s' ∧ SameThreads s s' ∧
        (s'.chan cc ch.toNat) = { k with st := .parked, miss := some (m, va) }))

/-- R322, R323, R326 to R328, R331 to R333: the matrix instructions as far as the executing thread goes: what traps, what waits, what retires, and
what each does to its convergence register and to the live tiles; a tile that MLIVE kills loses the cells of its completed MMAs. R323 to R325: a
signed set that is not complete changes nothing; a complete one that differs in kind, depth, columns or region traps MISMATCH in every signer; one
that agrees, whose operands lie in its granted banks, is accepted by an engine with room as one operation, with the operand words in rank order, and
every signer retires. That a set with an exited member completes at once: log 38. -/
def Obligations.MatrixInstructions : Prop :=
  (∀ (s : State) (t : TRef) (x : Thread) (g : Group) (h : Hints) (cv : BitVec 3) (d a b c : VReg) (k : BitVec 4) (kind : MmaKind)
       (cell : MCell) (i32 : Bool) (mask : BitVec 8) (u v : Src),
     let r := g.cv cv.toNat
     let traps (i : Instr) (c : Cause) := exec i s = .next (s.trapHere t x c)
     let stands (i : Instr) (ph : Phase) (f : State → State) := ∃ s', OnlyThread s s' t ∧ s'.thread? t = some (waiting s x i ph none) ∧
       exec i s = .next (f s')
     let cvSet (r' : CvRec) : State := s.setGroup t.group (g.setCv cv.toNat r')
     let mine := (s.core t.coreRef).mmas.filter fun m => m.ctx == t.ctx && m.grp == t.grp
     (∀ i, i = .mma h kind k cv a b c → Runs s i t x g →
       let member := r.decl = true ∧ r.base ≤ t.rank ∧ t.rank < r.base + r.count
       (¬ member → traps i .mismatch) ∧
       (member → s.unretired t = false →
         stands i (.sign cv.toNat kind k (x.rd a) (x.rd b) (x.rd c)) fun s => s.mmaCheck t.group cv.toNat)) ∧
     (∀ i, i = .mdecl h cv u v → Runs s i t x g →
       let n := (x.src u).toInt
       let base := (x.src v).toInt
       let fits := 16 ≤ n ∧ n ≤ 128 ∧ n % 16 = 0 ∧ 0 ≤ base ∧ base + n ≤ g.gsz
       (¬ fits → traps i .badwin) ∧
       let signed := ∃ e ∈ s.threads, e.1.group = t.group ∧ e.2.signed cv.toNat ≠ none
       (fits → signed → traps i .mismatch) ∧
       (fits → ¬ signed →
         ((∀ m ∈ mine, m.cv ≠ cv.toNat) → CompletesFrom (cvSet { r with decl := true, count := n.toNat, base := base.toNat }) s i t x {}) ∧
         ((∃ m ∈ mine, m.cv = cv.toNat) → stands i (.cvIdle cv.toNat) fun s => s))) ∧
     (∀ i, i = .mwait h cv → Runs s i t x g →
       let seqs := (mine.filter fun m => m.cv == cv.toNat).map (·.seq)
       let s1 := s.covered t.group cv.toNat fun q => !seqs.contains q
       (s1.threads = s.threads ∧ (∀ p, s1.memByte p = s.memByte p) ∧
         s1.group? t.group = some { g with uncov := g.uncov.filter fun e => e.cv != cv.toNat || seqs.contains e.seq } ∧
         ((∀ u ∈ g.uncov, u.lost = true ∨ s.tainted t.ccRef u.seq (mmaCb u.kind / 256) (mmaTiles u.kind u.k u.reg.n u.rows u.b) = []) → s1.holds = s.holds)) ∧
       (seqs = [] → CompletesFrom s1 s i t x {}) ∧
       (seqs ≠ [] → ∃ s', OnlyThread s1 s' t ∧ s'.thread? t = some (waiting s x i (.mwait cv.toNat seqs) none) ∧ exec i s = .next s')) ∧
     (Runs s (.mfence h cv) t x g →
       CompletesFrom ((s.modCore t.coreRef fun c => { c with seq := c.seq + 1 }).setGroup t.group
         (g.setCv cv.toNat { r with ready := true, fence := (s.core t.coreRef).seq })) s (.mfence h cv) t x {}) ∧
     (∀ i, i = .mzero h a → Runs s i t x g →
       (regionOk (x.rd a) g.tiles.length = false → traps i .badwin) ∧
       (regionOk (x.rd a) g.tiles.length = true → stands i .matOp fun s => s.reviveTile t.group (regionOf (x.rd a)).tile)) ∧
     (∀ i, i = .mload h i32 a b → Runs s i t x g →
       (s.moveOk t g (x.rd a) (x.rd b) 1024 = false → traps i .badwin) ∧
       (s.moveOk t g (x.rd a) (x.rd b) 1024 = true → stands i .matOp fun s => s.reviveTile t.group (regionOf (x.rd a)).tile)) ∧
     (∀ i, i = .mstore h cell a b → Runs s i t x g → let cb := if cell = .bf16 then 512 else 1024
       (s.moveOk t g (x.rd a) (x.rd b) cb = false → traps i .badwin) ∧
       (s.moveOk t g (x.rd a) (x.rd b) cb = true → stands i .matOp fun s => s)) ∧
     (∀ i, i = .mlive h mask → Runs s i t x g →
       (2 ^ g.tiles.length ≤ mask.toNat → traps i .badwin) ∧
       (mask.toNat < 2 ^ g.tiles.length →
         (s.tilesBusy t.group (g.mlive &&& ~~~mask) = true → stands i (.mlive mask) fun s => s) ∧
         (s.tilesBusy t.group (g.mlive &&& ~~~mask) = false → ∃ s1 : State, s1.threads = s.threads ∧ (∀ p, s1.memByte p = s.memByte p) ∧
           (∃ y, s1.group? t.group = some y ∧ (∀ n < 8, y.mlive.getLsbD n = mask.getLsbD n) ∧
             y = { g with mlive := y.mlive
                          uncov := g.uncov.map fun u => if u.reg.tile < 8 ∧ g.mlive.getLsbD u.reg.tile = true ∧ mask.getLsbD u.reg.tile = false
                            then { u with lost := true } else u }) ∧
           CompletesFrom s1 s i t x {}))) ∧
     (Runs s (.mstat h d) t x g → ∃ n, CompletesFrom (s.setGroup t.group { g with mexc := 0 }) s (.mstat h d) t x (vRes d (BitVec.ofNat 32 n)) ∧
       n % 256 = g.mlive.toNat ∧ (mine.length < 256 → n / 256 % 256 = mine.length ∧ n / 2 ^ 16 = g.mexc.toNat))) ∧
  (∀ (s : State) (g : GRef) (y : Group) (n : Nat), s.group? g = some y → n < 8 → n < y.cvs.length →
     let r := y.cv n
     let sg := s.signers g r n
     let ms := s.cvMembers g r
     ((r.decl = false ∨ sg = [] ∨ (sg.length ≠ r.count ∧ ∀ e ∈ ms, e.2.st ≠ .exited)) → s.mmaCheck g n = s) ∧
     (∀ t q rest, sg = (t, q) :: rest → r.decl = true → sg.length = r.count → (∀ e ∈ ms, e.2.st ≠ .exited) → (sg.map (·.1)).Nodup →
       let agree := (∀ e ∈ sg, e.2.kind = q.kind ∧ e.2.k = q.k ∧ e.2.b = q.b ∧ e.2.c = q.c) ∧ (regionOf q.c).m = r.count
       (¬ agree → s.mmaCheck g n = sg.foldl (fun s e => s.finishTrap e.1 .mismatch 0) s) ∧
       (agree → s.sigsBad g y (sg.map (·.2)) = true → s.mmaCheck g n = sg.foldl (fun s e => s.finishTrap e.1 .badwin 0) s) ∧
       (agree → s.sigsBad g y (sg.map (·.2)) = false → (s.core g.coreRef).mmas.length < 4 → (∀ e ∈ sg, ∀ z, s.thread? e.1 = some z → z.step = false) →
         ∃ m, ((s.mmaCheck g n).core g.coreRef).mmas = (s.core g.coreRef).mmas ++ [m] ∧ m.ctx = g.ctx ∧ m.grp = g.grp ∧ m.cv = n ∧
           m.kind = q.kind ∧ m.k = q.k ∧ m.rows = sg.map (·.2.a) ∧ m.b = q.b ∧ m.reg = regionOf q.c ∧ m.ready = r.ready ∧
           (∀ e ∈ sg, ∀ z, s.thread? e.1 = some z → ∃ z', (s.mmaCheck g n).thread? e.1 = some z' ∧ z'.pc = z.pc + 12 ∧ z'.st = z.back ∧ z'.ph = .none) ∧
           (∃ y', (s.mmaCheck g n).group? g = some y' ∧ y'.cv n = { r with ready := false } ∧
             y'.mexc = if r.ready then y.mexc else y.mexc ||| xNOFEN)) ∧
       (agree → s.sigsBad g y (sg.map (·.2)) = false → 4 ≤ (s.core g.coreRef).mmas.length → s.mmaCheck g n = s)))

/-- R64, R65, R324, R325, R330, R331, R495: the engine takes an accepted set when there is room, completes its operations in order once their
operands' banks have full power, and MZERO, MLOAD and MSTORE retire when their work is done; nothing happens where there is nothing to do. A completed
MMA leaves in each cell of its region the old cell (+0 where that held an error, which is gone then) with the products of its row and column added;
MZERO leaves +0 in every cell of its region. An event whose condition does not hold changes nothing: the model's choice, log 2. -/
def Obligations.MatrixEngine : Prop :=
  (∀ (s : State) (c : CoreRef) (g : GRef) (y : Group) (n : Nat), (∀ e ∈ s.threads, e.2.step = false) → (s.core c).mmas.length < 4 →
    s.ctxRuns (s.heldBy c).ctxRef = true → s.roomSet (s.heldBy c) = some (g, y, n) →
    ∃ s' : State, exec (.mmaIssueOnRoom c) s = .next s' ∧ (∀ a, s'.memByte a = s.memByte a) ∧
      ∃ m, (s'.core c).mmas = (s.core c).mmas ++ [m] ∧ m.grp = g.grp ∧ m.cv = n ∧ m.ready = (y.cv n).ready) ∧
  (∀ (s : State) (c : CoreRef), (4 ≤ (s.core c).mmas.length ∨ s.roomSet (s.heldBy c) = none) → exec (.mmaIssueOnRoom c) s = .next s) ∧
  (∀ (s : State) (c : CoreRef), (s.core c).mmas = [] → exec (.mmaComplete c) s = .next s) ∧
  (∀ (s : State) (c : CoreRef) (m : Mma) (rest : List Mma), (s.core c).mmas = m :: rest → (∀ e ∈ s.threads, e.2.step = false) →
    let cc : CCRef := { part := c.part, ctx := m.ctx, core := c.core }
    let full := ∀ b ∈ (m.b.toNat :: m.rows.map rowPlace).flatMap tileBanks, (s.holding cc).bankLive b = true → s.scrPower c b = .full
    (¬ full → ∃ s', exec (.mmaComplete c) s = .next s' ∧ OnlyBankState s s') ∧
    (full → ∃ s' : State, exec (.mmaComplete c) s = .next s' ∧ (∃ l, (s'.core c).mmas = rest ++ l) ∧ (∀ a, s'.memByte a = s.memByte a) ∧
      ∀ y, s.group? (cc.group m.grp) = some y → (∀ e ∈ s.threads, e.2.st ≠ .wait) → s'.threads = s.threads ∧
        (m.spoil = [] → m.reg.row0 % 128 + m.rows.length ≤ 128 → m.reg.col0 % 128 + m.reg.n ≤ 128 → ∀ i < m.rows.length, ∀ j < m.reg.n,
          let ix := y.cellIx (m.reg.row0 + i) (m.reg.col0 + j)
          let old := if (cc, ix / 2) ∈ s.accPois then 0 else Tab.get 0 (s.holding cc).acc ix
          (cc, ix / 2) ∉ s'.accPois ∧ Tab.get 0 (s'.holding cc).acc ix = BitVec.ofNat 32
            (mmaCell m.kind old.toNat ((s.operands cc m).rows.getD i []) ((s.operands cc m).cols.getD j [])).1))) ∧
  (∀ (s : State) (t : TRef) (x : Thread) (y : Group), s.thread? t = some x → s.group? t.group = some y →
    ((x.ph ≠ .matOp ∨ s.returnFull t = true) → exec (.matrixOpComplete t) s = .next s) ∧
    (x.ph = .matOp → s.returnFull t = false → (∀ b ∈ x.loadTile.flatMap tileBanks, (s.holding t.ccRef).bankLive b = true → s.scrPower t.coreRef b = .full) →
      ∃ (s1 o : State), exec (.matrixOpComplete t) s = .next (o.wakeMat t.ccRef) ∧ Finishes s1 o t x {} ∧ s1.threads = s.threads ∧
        (∀ p, s1.memByte p = s.memByte p) ∧
        (∀ h a, x.cur = some (.mzero h a) → s1.groups = s.groups ∧
          (y.uncov = [] → ∀ row col, (regionOf (x.rd a)).has row col = true → Tab.get 0 (s1.holding t.ccRef).acc (y.cellIx row col) = 0))))

/-- R338, R339, R341, R343 to R345: the barrier instructions: what each requires of the barrier and its count, what a fence precedes, what waits, and
what retires. R339 to R342: an arrival that does not complete a named barrier leaves its thread waiting with its bit pending; the one that does clears
the count, toggles the phase, and lets every waiting thread go on. A gang barrier's release reaches the groups of one core at a time, once their
return FIFOs have room (R460); a STATE that an XSET has written meanwhile stays. An event whose condition does not hold changes nothing: the model's
choice, log 2. -/
def Obligations.Barriers : Prop :=
  (∀ (s : State) (t : TRef) (x : Thread) (g : Group) (h : Hints) (d : VReg) (bar : Bar) (sc : BScope) (a : Src) (gb : BitVec 2),
     let r := s.bar t.group bar
     let c : Int := match a with | .reg v => ((x.rd v).toNat : Int) | .imm v => v.toInt
     let fits := 0 ≤ c ∧ c ≤ (match bar with | .nb _ => 4095 | .gb _ => (g.gangN : Int))
     let spans (sc : BScope) := match bar with | .nb _ => true | .gb _ => bscopeCovers sc (s.gangLat t.group)
     let traps (i : Instr) (c : Cause) := exec i s = .next (s.trapHere t x c)
     (∀ i, i = .barinit h sc bar a → Runs s i t x g →
       (¬ fits → traps i .badwin) ∧ (fits → spans sc = false → traps i .scope) ∧
       (fits → spans sc = true →
         ((r.init = false ∨ r.st = .idle) →
           CompletesFrom (s.modBar t.group bar fun r => { r with init := true, cnt := c.toNat, scope := sc }) s i t x {}) ∧
         (r.init = true → r.st ≠ .idle → r.cnt = c.toNat → r.scope = sc → CompletesFrom (s.modBar t.group bar fun _ => r) s i t x {}) ∧
         (r.init = true → r.st ≠ .idle → ¬ (r.cnt = c.toNat ∧ r.scope = sc) → traps i .mismatch))) ∧
     (∀ i, i ∈ [Instr.bararv h bar, .barsync h bar] → Runs s i t x g →
       (r.init = false → traps i .mismatch) ∧
       (r.init = true → r.scope = .pod → s.podOk = false → traps i .timelost) ∧
       (r.init = true → (r.scope = .pod → s.podOk = true ∧ s.unretired t = false) →
         exec i s = .next (s.startFence t x i (some (match r.scope with
           | .grp => .core | .quad => .quad | .die => .die | .pkg => .pkg | .pod => .pod)) (r.scope != .grp) .arrive))) ∧
     (∀ i, i = .barwait h bar → Runs s i t x g →
       (x.pend bar = true → Stands s i t (waiting s x i (.barrier bar) none)) ∧ (x.pend bar = false → Completes s i t x {})) ∧
     (∀ i, i = .barstat h d bar → Runs s i t x g → ∃ n, Completes s i t x (vRes d (BitVec.ofNat 32 n)) ∧
       (r.arr < 4096 → r.cnt < 4096 → (n / 2 ^ 31 % 2 = 1 ↔ r.init = true) ∧ n % 4096 = r.cnt ∧ n / 4096 % 4096 = r.arr ∧ (n / 2 ^ 24 % 2 = 1 ↔ x.pend bar = true) ∧
         n / 2 ^ 25 % 8 = (match r.scope with | .grp => 0 | .quad => 1 | .die => 2 | .pkg => 3 | .pod => 4) ∧
         n / 2 ^ 28 % 4 = (match r.st with | .idle => 0 | .counting => 1 | .released => 2) ∧ (n / 2 ^ 30 % 2 = 1 ↔ r.ph = true))) ∧
     (∀ i, i = .barset h bar a → Runs s i t x g →
       (r.init = false → traps i .mismatch) ∧ (r.init = true → ¬ fits → traps i .badwin) ∧
       (r.init = true → fits → r.st = .released → Stands s i t (standing x i .arrive)) ∧
       (r.init = true → fits → r.st ≠ .released →
         CompletesThen (s.modBar t.group bar fun r => { r with cnt := c.toNat }) s i t x {} fun s => s.barCheck t.group bar)) ∧
     (∀ i, i = .gbar h gb → Runs s i t x g → let b := s.bar t.group (.gb gb)
       let s1 := if b.init then s else s.modBar t.group (.gb gb) fun r => { r with
         init := true, cnt := 0, scope := match s.gangLat t.group with | 0 => .quad | 1 => .quad | 2 => .die | _ => .pkg }
       let sc := (s1.bar t.group (.gb gb)).scope
       (sc = .pod → s.podOk = false → exec i s = .next (s1.trapHere t x .timelost)) ∧
       ((sc = .pod → s.podOk = true ∧ s.unretired t = false) → exec i s = .next (s1.startFence t x i (some (match sc with
         | .grp => .core | .quad => .quad | .die => .die | .pkg => .pkg | .pod => .pod)) (sc != .grp) .arrive)))) ∧
  ((∀ (s : State) (t : TRef) (x : Thread) (y : Group) (h : Hints) (n : BitVec 4),
     let i : Instr := .barsync h (.nb n)
     let r := y.nbs.getD n.toNat BarRec.clear
     let e := if r.cnt ≠ 0 then r.cnt else ((s.groupThreads t.group).filter fun e => e.2.st != .exited).length
     s.thread? t = some x → s.group? t.group = some y → x.ph = .arrive → x.cur = some i → x.st ≠ .exited → s.ctxRuns t.ctxRef = true →
     n.toNat < y.nbs.length → r.init = true → r.st ≠ .released → (s.threads.map (·.1)).Nodup → (∀ e ∈ s.threads, e.2.step = false) →
     ∃ s' y', exec (.barrierArrivalCounted t) s = .next s' ∧ s'.group? t.group = some y' ∧ y' = { y with nbs := y'.nbs } ∧
       (∀ k, k ≠ n.toNat → y'.nbs.getD k BarRec.clear = y.nbs.getD k BarRec.clear) ∧
       (r.arr + 1 < e → y'.nbs.getD n.toNat BarRec.clear = { r with arr := r.arr + 1, st := .counting } ∧
         s'.thread? t = some (waiting s (x.setPend (.nb n) true) i (.barrier (.nb n)) none) ∧ ∀ u, u ≠ t → s'.thread? u = s.thread? u) ∧
       (e ≤ r.arr + 1 → y'.nbs.getD n.toNat BarRec.clear = { r with ph := !r.ph, arr := 0, st := .idle } ∧
         (∃ x', s'.thread? t = some x' ∧ x'.pc = x.pc + 12 ∧ x'.pend (.nb n) = false ∧ x'.ph = .none) ∧
         ∀ u z, u ≠ t → s.thread? u = some z →
           (u.group = t.group → z.pend (.nb n) = true → ∃ z', s'.thread? u = some z' ∧ z'.pend (.nb n) = false ∧
             z'.pc = if z.ph = .barrier (.nb n) ∧ z.st = .wait then z.pc + 12 else z.pc) ∧
           ((u.group ≠ t.group ∨ z.pend (.nb n) = false) → s'.thread? u = some z))) ∧
   (∀ (s : State) (g : GangRef) (k : Gang) (gb : BitVec 2) (core : Nat), s.gang? g = some k → gb.toNat < k.gbs.length →
     (s.threads.map (·.1)).Nodup → (∀ e ∈ s.threads, e.2.step = false) →
     let r := k.gbs.getD gb.toNat BarRec.clear
     let full := ∃ e ∈ s.threads, e.1.group ∈ k.groups g ∧ e.1.core = core ∧ s.returnFull e.1 = true
     ((core ∉ r.deliver ∨ full) → exec (.barrierDelivery g gb core) s = .next s) ∧
     (core ∈ r.deliver → ¬ full → ∃ s' k', exec (.barrierDelivery g gb core) s = .next s' ∧ s'.gang? g = some k' ∧
       k'.gbs.getD gb.toNat BarRec.clear = { r with
         deliver := r.deliver.filter (· != core), st := if r.deliver.all (· == core) ∧ r.st = .released then .idle else r.st } ∧
       ∀ u z, s.thread? u = some z →
         (u.group ∈ k.groups g → u.core = core → z.pend (.gb gb) = true → ∃ z', s'.thread? u = some z' ∧ z'.pend (.gb gb) = false) ∧
         ((u.group ∉ k.groups g ∨ u.core ≠ core) → s'.thread? u = some z))))

/-- R356, R358 to R362: WPUSH and LAUNCH do their fence first; WPOP takes the record at the head, or END of a closed queue, or waits in its place;
QROOM gives the room of the queue at an address. LAUNCH traps outside global memory and off a multiple of 128. R356, R358, R359, R362: what a push or
a launch does when its fence is over: a push to a kernel that takes none, or to a closed queue, traps BADTARGET, END closes the queue, a push with
room appends its record and retires, one to a full queue waits; a record whose place is not ready at its home is asked for; a launch enters its core's
pending-launch queue after those of the lower lanes of its group, or waits while four entries stand in it. -/
def Obligations.WorkQueueInstructions : Prop :=
  (∀ (s : State) (t : TRef) (x : Thread) (g : Group) (h : Hints) (d a : VReg) (b : Option VReg),
     (∀ i, i = .wpush h a b → Runs s i t x g → s.unretired t = false →
       exec i s = .next (s.startFence t x i (some .pkg) true .push)) ∧
     (∀ i, i = .launch h a → Runs s i t x g → s.slotBusy t x = false → let ea := x.rdPair a
       ((∀ va, s.window t g ea 128 ≠ .ok (.glob va)) → exec i s = .next (s.precise t x .badwin (x.pc.setWidth 64) ea 0)) ∧
       (∀ va, s.window t g ea 128 = .ok (.glob va) → ea.toNat % 128 ≠ 0 →
         exec i s = .next (s.precise t x .align (x.pc.setWidth 64) ea 0)) ∧
       (∀ va loc, s.window t g ea 128 = .ok (.glob va) → ea.toNat % 128 = 0 → s.probe t x g i va .both = .place loc →
         exec i s = .next (s.startFence t x i (some .pkg) true .launch))) ∧
     (∀ i k, i = .wpop h d → Runs s i t x g → s.kernel? (g.kref t.group) = some k → s.popWaiters (g.kref t.group) = [] →
       s.pushWaiters (g.kref t.group) = [] →
       let kr := g.kref t.group
       let s1 := (s.setThread t (waiting s x i (.pop k.popNext) none)).setKernel kr { k with popNext := k.popNext + 1 }
       let ended : Res := { vs := [(d, 0xFFFFFFFF), (d + 1, 0xFFFFFFFF), (d + 2, 0xFFFFFFFF), (d + 3, 0xFFFFFFFF)] }
       let cnt := (k.tail + 2 ^ 32 - k.head) % 2 ^ 32
       (cnt = 0 → k.closed = true → ∃ o, exec i s = .next o ∧ Finishes s1 o t (waiting s x i (.pop k.popNext) none) ended) ∧
       (cnt = 0 → k.closed = false → exec i s = .next s1) ∧
       (∀ s2 bs w, 0 < cnt → s1.popRead t.ctxRef (k.qaddr.toNat + 16 * (k.head % max 1 k.qcap)) = (s2, .ok (bs, w)) →
         s2.pushWaiters kr = [] → s2.popWaiters kr = [(k.popNext, t)] → s2.threads = s1.threads → s2.kernels = s1.kernels →
         s2.groups = s1.groups →
         let y := { waiting s x i (.pop k.popNext) none with wctmax := dmax x.wctmax w }
         ∃ s3 o, exec i s = .next o ∧ Finishes s3 o t y { vs := wordRegs d (leNat bs) 4 } ∧ (∀ p, s3.memByte p = s2.memByte p) ∧
           ∃ k', s3.kernel? kr = some k' ∧ k'.head = (k.head + 1) % 2 ^ 32 ∧ k'.tail = k.tail ∧
             (k.st = .fed → k'.st = if (k.head + 1) % 2 ^ 32 = k.tail then .resident else .fed))) ∧
     (∀ i, i = .qroom h d a → Runs s i t x g →
       let named := s.kernels.filter fun e => e.1.part == t.part && e.1.ctx == t.ctx && e.2.st != .retired && e.2.qaddr == x.rdPair a
       (named = [] → Completes s i t x (vRes d 0xFFFFFFFF)) ∧
       (∀ e rest, named = e :: rest → Completes s i t x (vRes d (BitVec.ofNat 32
         (if e.2.closed then 2 ^ 31 else (if e.2.qlog = 0 then 0 else 2 ^ e.2.qlog) - (e.2.tail + 2 ^ 32 - e.2.head) % 2 ^ 32)))))) ∧
  (∀ (s : State) (t : TRef) (x : Thread) (g : Group) (h : Hints) (a : VReg) (b : Option VReg) (seqs : List Nat),
     s.thread? t = some x → s.group? t.group = some g → s.ctxRuns t.ctxRef = true → s.fenceHolds t x (some .pkg) seqs [] = true →
     (∀ i, i = .wpush h a b → x.cur = some i → x.ph = .fence (some .pkg) seqs [] .push → s.lowerPush t x .push = false →
       let kr := match b with
         | some b => s.feedKernel t.ctxRef (x.rdPair b)
         | none => (s.kernel? (g.kref t.group)).bind fun y => if y.st.feeds then some (g.kref t.group) else none
       (kr = none → exec (.fenceComplete t) s = .next (s.finishTrap t .badtarget 0)) ∧
       (∀ k y, kr = some k → s.kernel? k = some y → x.rdMany a 4 ≠ List.replicate 4 0xFFFFFFFF →
         (y.closed = true → exec (.fenceComplete t) s = .next (s.finishTrap t .badtarget 0)) ∧
         let cnt := (y.tail + 2 ^ 32 - y.head) % 2 ^ 32
         (y.closed = false → cnt < y.qcap → (∀ s', s.appendRec k (x.rdMany a 4) = some s' →
           exec (.fenceComplete t) s = .next (s'.finish t {})) ∧
           (s.appendRec k (x.rdMany a 4) = none → exec (.fenceComplete t) s = .next (s.askRec k))) ∧
         (y.closed = false → y.qcap ≤ cnt → exec (.fenceComplete t) s = .next
           (s.setThread t (waiting s x i (.pushRoom k (x.rdMany a 4)) none)))) ∧
       (∀ k y, kr = some k → s.kernel? k = some y → x.rdMany a 4 = List.replicate 4 0xFFFFFFFF →
         (∀ e ∈ s.threads, e.2.step = false ∧ (∀ k r, e.2.ph ≠ .pushRoom k r) ∧ ∀ n, e.2.ph ≠ .pop n) →
         ∃ s' y', exec (.fenceComplete t) s = .next s' ∧ s'.kernel? k = some y' ∧ y'.closed = true ∧
           ((y.st = .resident ∨ y.st = .fed) → y'.st = .draining) ∧ (∃ z, s'.thread? t = some z ∧ z.pc = x.pc + 12))) ∧
     (∀ i, i = .launch h a → x.cur = some i → x.ph = .fence (some .pkg) seqs [] .launch →
       let q := (s.holding t.ccRef).plq
       (s.lowerLane t x .launch = true → exec (.fenceComplete t) s = .next s) ∧
       (s.lowerLane t x .launch = false → q.length < 4 → ∃ s1 o, exec (.fenceComplete t) s = .next o ∧ Finishes s1 o t x {} ∧ s1.threads = s.threads ∧
         (∀ p, s1.memByte p = s.memByte p) ∧ (s1.holding t.ccRef).plq = q ++ [BitVec.ofNat 64 (vaOf g t.rank (x.rdPair a))]) ∧
       (s.lowerLane t x .launch = false → 4 ≤ q.length → exec (.fenceComplete t) s = .next
         (s.setThread t (waiting s x i (.launchRoom (BitVec.ofNat 64 (vaOf g t.rank (x.rdPair a)))) none)))))

/-- R364 to R366: SIGNAL_SET and SIGNAL_ADD write and add to their word as releases of scope .pkg: their fence comes first; SIGWAIT and GSWAP read
theirs as an acquire of that scope, retire when the comparison holds, raising WCTMAX, and else wait for it, a GSWAP as an arrival at its group's
latch; outside global memory they trap BADWIN, off a multiple of 4 ALIGN, where the scope record refuses SCOPE. A waiting thread goes on when its
comparison has been met. R226, R237, R365: reading a signal at its home in local memory gives the four bytes that stand there under the core's own
unanswered stores, and the completion time of the line; the line keeps the reader's scope, the core no L1 copy, and no byte of memory changes. A line
whose scope record refuses stops it. An awaited comparison is made at a write performed at the home of its line, and the first that meets it ends the
wait. -/
def Obligations.SignalInstructions : Prop :=
  ((∀ s t x g i va loc, (∃ h a b, i = .signalSet h a b ∨ i = .signalAdd h a b) → Runs s i t x g → s.slotBusy t x = false → s.unretired t = false →
     ∀ r, reqOf t.core x i = some r → s.window t g r.ea 4 = .ok (.glob va) → r.ea.toNat % 4 = 0 → s.probe t x g i va .write = .place loc →
     ∃ s' seqs wbs, exec i s = .next s' ∧ s' = s.startFence t x i (some .pkg) true (.send loc) ∧ (∀ p, s'.memByte p = s.memByte p) ∧
       s'.thread? t = some (standing x i (.fence (some .pkg) seqs wbs (.send loc)))) ∧
   (∀ h a b (old : Nat) (w : Word), atomicNew (.signalAdd h a b) [w] old = some ((BitVec.ofNat 32 old + w).toNat) ∧
     atomicNew (.signalSet h a b) [w] old = some w.toNat) ∧
   ∀ (s : State) (t : TRef) (x : Thread) (g : Group) (h : Hints) (a : VReg) (b : Src) (cmp : Cmp),
     let ea := x.rdPair a
     let traps (i : Instr) (c : Cause) := exec i s = .next (s.precise t x c (x.pc.setWidth 64) ea 0)
     (∀ i, i ∈ [Instr.signalSet h a b, .signalAdd h a b, .sigwait h cmp a b, .gswap h cmp a b] → Runs s i t x g → s.slotBusy t x = false →
       s.unretired t = false →
       ((∀ va, s.window t g ea 4 ≠ .ok (.glob va)) → traps i .badwin) ∧
       (∀ va, s.window t g ea 4 = .ok (.glob va) → ea.toNat % 4 ≠ 0 → traps i .align)) ∧
     (∀ i va loc, i ∈ [Instr.sigwait h cmp a b, .gswap h cmp a b] → Runs s i t x g → s.slotBusy t x = false → s.unretired t = false →
       s.window t g ea 4 = .ok (.glob va) → ea.toNat % 4 = 0 → s.probe t x g i va .read = .place loc →
       let wat : SigWatch := { thr := t, va := va, loc := some loc, cmp := cmp, b := x.src b, due := false, hit := none }
       (∀ s1 v w, s.sigRead t loc = (s1, .val v w) → holds cmp v (x.src b).toNat = true →
         CompletesFrom s1 s i t { x with wctmax := dmax x.wctmax w } {}) ∧
       (∀ s1 v w, s.sigRead t loc = (s1, .val v w) → holds cmp v (x.src b).toNat = false →
         (i = .sigwait h cmp a b → exec i s = .next ((s1.watchSig wat).setThread t (waiting s1 x i (.signal ea cmp (x.src b)) none))) ∧
         (i = .gswap h cmp a b → g.gangN ≤ 1 → s1.groups = s.groups →
           (g.latch = none → exec i s = .next (((s1.setGroup t.group { g with latch := some ⟨ea, cmp, x.src b⟩ }).watchSig wat).setThread t
             (waiting s1 x i (.swapArr ea cmp (x.src b)) none))) ∧
           (∀ l, g.latch = some l → l = ⟨ea, cmp, x.src b⟩ →
             exec i s = .next ((s1.watchSig wat).setThread t (waiting s1 x i (.swapArr ea cmp (x.src b)) none))) ∧
           (∀ l, g.latch = some l → l ≠ ⟨ea, cmp, x.src b⟩ → exec i s = .next (s1.trapHere t x .mismatch)))) ∧
       (∀ s1, s.sigRead t loc = (s1, .wait) → exec i s = .next (s1.hold t)) ∧
       (∀ s1, s.sigRead t loc = (s1, .bad) → exec i s = .next (s1.precise t x .mcheck (x.pc.setWidth 64) ea 0)) ∧
       (∀ s1, s.sigRead t loc = (s1, .refused) → exec i s = .next (s1.precise t x .scope (x.pc.setWidth 64) (ea &&& ~~~127) 0))) ∧
     (∀ w, s.thread? t = some x → s.group? t.group = some g → s.ctxRuns t.ctxRef = true → x.st = .wait → x.ph = .signal ea cmp (x.src b) →
       s.sigs.find? (fun v => v.thr == t) = some w → let q := s.sigOutcome w
       (∀ v wct, q.2 = .val v wct → ∃ o, exec (.signalWaitWake t) s = .next o ∧
         Finishes ((q.1.unwatch fun u => u == t).setThread t { x with wctmax := dmax x.wctmax wct }) o t { x with wctmax := dmax x.wctmax wct } {}) ∧
       (q.2 = .wait → exec (.signalWaitWake t) s = .next q.1))) ∧
  ((∀ (s : State) (t : TRef) (pa k pri : Nat), let loc : Place := .mem pa k pri false
     let c := t.ccRef
     let l := s.line (pa / 128)
     (s.core c.coreRef).budgetHeld = false → s.homeReaches c.coreRef loc = true →
     (l.refuses c.ctx c.core .pkg = true → s.sigRead t loc = (s, .refused)) ∧
     (l.refuses c.ctx c.core .pkg = false → s.homeBad c.part loc 4 = false → (s.l2Ready c.ctxRef loc 0 true).2 = true →
       readsPlain (((s.l2Ready c.ctxRef loc 0 true).1.l2Use c.ctxRef loc 0 true).scopeNote (pa / 128) (c.core, .pkg, c.ctx)) c.part k pa 4 →
       ∃ s1, s.sigRead t loc = (s1, .val (leNat ((s.core c.coreRef).overlay loc ((List.range 4).map fun j => s.memByte (pa + j))))
           (dmax l.lwct l.pwct)) ∧
         (∀ a, s1.memByte a = s.memByte a) ∧ SameThreads s s1 ∧ s1.groups = s.groups ∧ s1.holds = s.holds ∧
         (∀ e ∈ (s1.core c.coreRef).l1, e.line ≠ pa / 128) ∧ (s1.line (pa / 128)).scope = some (c.core, .pkg, c.ctx))) ∧
   (∀ (s : State) (w : SigWatch) (pa k pri : Nat), let loc : Place := .mem pa k pri false
     w.loc = some loc → w.hit = none → s.homeBad w.thr.part loc 4 = false →
     readsPlain s w.thr.part k pa 4 →
     (s.seeSig w.thr.part (pa / 128) w).hit =
       if holds w.cmp (leNat ((List.range 4).map fun j => s.memByte (pa + j))) w.b.toNat
       then some (false, dmax (s.line (pa / 128)).lwct (s.line (pa / 128)).pwct) else none))

/-- R40, R116, R395, R404, R405, R461, R465, R467: what SYSR reads of every register, and what SYSW writes. Reading VTIME notes it, so that it never
runs back; reading ENERGY latches ENERGYHI. SYSW of a register with no field that can be written writes nothing. -/
def Obligations.SystemRegisters : Prop :=
  (∀ (s : State) (t : TRef) (x : Thread) (g : Group) (h : Hints) (d : VReg),
    let k := s.core t.coreRef
    let n32 (v : Nat) : Word := BitVec.ofNat 32 v
    (∀ e ∈ ([(0x000, n32 t.rank), (0x001, n32 g.gsz), (0x002, n32 (x.htid % 32)), (0x003, n32 (x.htid / 512)), (0x004, n32 t.core),
        (0x005, n32 (t.core / 36 * 9 + t.core % 36 / 4)), (0x006, n32 (t.core / 36)), (0x007, s.pestle.pkg.setWidth 32), (0x008, n32 g.grank),
        (0x009, n32 t.ctx), (0x00A, (s.ctx t.ctxRef).gen.setWidth 32), (0x00B, n32 x.htid),
        (0x00C, n32 (g.rings.toNat * 2 ^ 24 + g.chans.toNat * 2 ^ 16 + g.count * 2 ^ 7 + if g.count = 0 then 0 else g.first)),
        (0x012, n32 s.epsilon), (0x013, n32 (min s.time.lostcnt 0xFFFF * 2 ^ 8 + s.refPort * 2 ^ 3 + s.time.st.code)),
        (0x020, tswWord x (s.npark t)), (0x023, x.tinfo), (0x025, x.fflags.setWidth 32), (0x026, x.lxflags.setWidth 32),
        (0x027, n32 (g.w * 2 ^ 8 + x.live.toNat)), (0x030, g.sidethr), (0x031, g.sideptr), (0x047, x.elatch.getD k.energyHi),
        (0x048, n32 (min (k.bytes / 64) 0xFFFF * 2 ^ 16 + k.pwrctl.toNat / 2 ^ 32 % 2 ^ 16))] : List (BitVec 12 × Word)),
      Runs s (.sysr h d e.1) t x g → Completes s (.sysr h d e.1) t x (vRes d e.2)) ∧
    (∀ (n : BitVec 12) (sl : Slice), 0x040 ≤ n.toNat → n.toNat ≤ 0x045 → k.slices[n.toNat - 0x40]? = some sl →
      Runs s (.sysr h d n) t x g → Completes s (.sysr h d n) t x (vRes d ((sl.stall &&& 0xFFFFFF00) ||| BitVec.ofNat 32 sl.n))) ∧
    (∀ e ∈ ([(0x010, s.coreTime t.coreRef), (0x014, x.wctmax), (0x021, x.epc), (0x022, x.taddr), (0x024, g.handler.setWidth 64)]
        : List (BitVec 12 × DWord)),
      Runs s (.sysr h d e.1) t x g → Completes s (.sysr h d e.1) t x { vs := [(d, e.2.setWidth 32), (d + 1, (e.2 >>> 32).setWidth 32)] }) ∧
    (Runs s (.sysr h d 0x011) t x g → let v := dmax (s.ctxVtime t.ctxRef (s.coreTime t.coreRef)) x.lastVt
      Completes s (.sysr h d 0x011) t { x with lastVt := v } { vs := [(d, v.setWidth 32), (d + 1, (v >>> 32).setWidth 32)] }) ∧
    (Runs s (.sysr h d 0x046) t x g → Completes s (.sysr h d 0x046) t
      { x with elatch := some (BitVec.ofNat 32 ((if k.wrap then 2 ^ 31 else 0) + k.energy.toNat / 2 ^ 32)) } (vRes d (k.energy.setWidth 32)))) ∧
  (∀ (s : State) (t : TRef) (x : Thread) (g : Group) (h : Hints) (a : VReg),
    let w := x.rd a
    (∀ e ∈ ([(0x020, { x with step := w.getLsbD 0 }), (0x021, { x with epc := x.rdPair a }), (0x025, { x with fflags := w.setWidth 5 }),
        (0x026, { x with lxflags := w.setWidth 5 })] : List (BitVec 12 × Thread)),
      Runs s (.sysw h a e.1) t x g → CompletesFrom (s.setGroup t.group g) s (.sysw h a e.1) t e.2 {}) ∧
    (∀ e ∈ ([(0x024, { g with handler := (x.rdPair a).setWidth 56 &&& ~~~3 }), (0x030, { g with sidethr := w }),
        (0x031, { g with sideptr := w &&& 0x803FFFFE })] : List (BitVec 12 × Group)),
      Runs s (.sysw h a e.1) t x g → CompletesFrom (s.setGroup t.group e.2) s (.sysw h a e.1) t x {}) ∧
    (∀ n : BitVec 12, n ∉ [0x020, 0x021, 0x024, 0x025, 0x026, 0x030, 0x031] →
      Runs s (.sysw h a n) t x g → CompletesFrom (s.setGroup t.group g) s (.sysw h a n) t x {}))

/-- R285, R395, R398, R401, R405, R406: TRET, TSWR, TSWW and OLOGR trap UNDEF outside a handler; in one, TRET goes to EPC with H = 0 and waits 12
slice cycles, or is a double trap where EPC is no fetch address; TSWR reads and TSWW writes the TSW of a thread of the group, and a kick that is due
there is taken at once; OLOGR reads a word of an operand-log entry. -/
def Obligations.HandlerInstructions : Prop :=
  ∀ (s : State) (t : TRef) (x : Thread) (g : Group) (h : Hints) (d a b : VReg) (c : Src),
    (∀ i, i ∈ [Instr.tret h, .tswr h d a, .tsww h a b, .ologr h d a c] → Runs s i t x g → x.h = false →
      exec i s = .next (s.trapHere t x .undef)) ∧
    (x.h = true →
      (∀ i, i = .tret h → Runs s i t x g →
        (x.epc.toNat % 4 ≠ 0 → exec i s = .next (s.doubleTrap t x.htid .align)) ∧
        (x.epc.toNat % 4 = 0 → 2 ^ 56 ≤ x.epc.toNat → exec i s = .next (s.doubleTrap t x.htid .badwin)) ∧
        (x.epc.toNat % 4 = 0 → x.epc.toNat < 2 ^ 56 → ∃ s1 y s', s1.thread? t = some y ∧ OnlyThread s s1 t ∧
          Retires x y h { pc := some (x.epc.setWidth 56) } ∧ exec i s = .next s' ∧
          s'.thread? t = some { y with h := false, st := if 0 < s1.npark t then .parked else .ready, gap := max y.gap 11 } ∧
          (∀ u, u ≠ t → s'.thread? u = s.thread? u) ∧ (∀ p, s'.memByte p = s.memByte p) ∧ s'.groups = s.groups)) ∧
      (∀ i, i = .tswr h d a → Runs s i t x g →
        ((∀ e ∈ s.threads, e.1.group = t.group → e.2.htid ≠ (x.rd a).toNat) → exec i s = .next (s.trapHere t x .badwin)) ∧
        (∀ u y, s.htidThread t.group (x.rd a).toNat = some (u, y) → s.npark u < 16 → ∃ n : Nat,
          Completes s i t x (vRes d (BitVec.ofNat 32 n)) ∧ (n % 2 = 1 ↔ y.step = true) ∧ (n / 2 % 2 = 1 ↔ y.h = true) ∧ n / 4 % 1024 = 0 ∧
          n / 2 ^ 12 % 16 = s.npark u ∧ n / 2 ^ 16 % 16 = y.st.code ∧ n / 2 ^ 20 % 16 = y.reasonCode ∧ n / 2 ^ 24 = y.cause.toNat)) ∧
      (∀ i, i = .tsww h a b → Runs s i t x g →
        ((∀ e ∈ s.threads, e.1.group = t.group → e.2.htid ≠ (x.rd a).toNat) → exec i s = .next (s.trapHere t x .badwin)) ∧
        (∀ u y, s.htidThread t.group (x.rd a).toNat = some (u, y) → CompletesThen s s i t x {} fun s => (s.modThread u fun z =>
          { z with step := (x.rd b).getLsbD 0, kick := z.kick || ((x.rd b).getLsbD 2 && z.st != .exited) }).takeKick u)) ∧
      (∀ i, i = .ologr h d a c → Runs s i t x g → let e := (x.rd a).toNat
        let w := (x.src c).toNat
        ((255 < e ∨ 15 < w) → exec i s = .next (s.trapHere t x .badwin)) ∧
        (e ≤ 255 → w ≤ 15 →
          (∀ o, (s.holding t.ccRef).olog.get? e = some o → o.grp = t.grp →
            Completes s i t x (vRes d (BitVec.ofNat 32 (o.bits / 2 ^ (32 * w))))) ∧
          ((∀ o, (s.holding t.ccRef).olog.get? e = some o → o.grp ≠ t.grp) → Completes s i t x (vRes d 0)))))

/-- R144, R322, R345, R407, R408: XGET and XSET of the predicates, of barriers, of rejoin barriers and of convergence registers. -/
def Obligations.StructuredRegisters : Prop :=
  ∀ (s : State) (t : TRef) (x : Thread) (g : Group) (h : Hints) (d b : VReg) (n : BitVec 4) (m : BitVec 2) (q : BitVec 3),
    (Runs s (.xgetPred h d) t x g → Completes s (.xgetPred h d) t x (vRes d (x.preds.setWidth 32))) ∧
    (Runs s (.xsetPred h b) t x g → ∃ y, (∀ i < 15, y.prd (BitVec.ofNat 4 i) = (x.rd b).getLsbD i) ∧ y.prd 15 = true ∧
      ∃ s', s'.thread? t = some y ∧ OnlyThread s s' t ∧ y.pc = x.pc + 12 ∧ exec (.xsetPred h b) s = .next (afterStep s' t x y.pc)) ∧
    (∀ bar, bar ∈ [Bar.nb n, Bar.gb m] → let sr : SReg := match bar with | .nb k => .nb k | .gb k => .gb k
      (Runs s (.xgetStruct h d sr) t x g →
        Completes s (.xgetStruct h d sr) t x (vRes d (BitVec.ofNat 32 ((s.bar t.group bar).word (x.pend bar))))) ∧
      (Runs s (.xsetStruct h sr b) t x g → let w := (x.rd b).toNat
        ∃ r, (r.init = decide (w / 2 ^ 31 = 1) ∧ r.ph = decide (w / 2 ^ 30 % 2 = 1) ∧ r.arr = w / 4096 % 4096 ∧ r.cnt = w % 4096 ∧
          r.deliver = (s.bar t.group bar).deliver ∧
          r.st = (if w / 2 ^ 28 % 4 = 1 then .counting else if w / 2 ^ 28 % 4 = 2 ∧ r.deliver ≠ [] then .released else .idle) ∧ (w / 2 ^ 25 % 8 = 0 → r.scope = .grp) ∧
          (w / 2 ^ 25 % 8 = 1 → r.scope = .quad) ∧ (w / 2 ^ 25 % 8 = 2 → r.scope = .die) ∧ (w / 2 ^ 25 % 8 = 3 → r.scope = .pkg)) ∧
          CompletesThen (s.modBar t.group bar fun _ => r) s (.xsetStruct h sr b) t x {} fun s => s.barCheck t.group bar)) ∧
    (Runs s (.xgetStruct h d (.jb n)) t x g →
      let count (f : Thread → Bool) := ((s.groupThreads t.group).filter fun p => f p.2).length
      Completes s (.xgetStruct h d (.jb n)) t x (vRes d (BitVec.ofNat 32 ((if x.enrolled n then 2 ^ 31 else 0)
        + (if x.arrived n then 2 ^ 30 else 0) + count (fun y => y.arrived n) * 2 ^ 16 + count (fun y => y.enrolled n))))) ∧
    (Runs s (.xsetStruct h (.jb n) b) t x g → CompletesThen s s (.xsetStruct h (.jb n) b) t
      (if (x.rd b).getLsbD 31 then x.enrol n else x.withdraw n) {} fun s => s.rejoinCheck t.group n) ∧
    (Runs s (.xgetStruct h d (.cv q)) t x g → let r := g.cv q.toNat
      let left := ((s.core t.coreRef).mmas.filter fun e => e.ctx == t.ctx && e.grp == t.grp && e.cv == q.toNat).length
      Completes s (.xgetStruct h d (.cv q)) t x (vRes d (BitVec.ofNat 32 ((if r.decl then 2 ^ 31 else 0)
        + (if (x.signed q.toNat).isSome then 2 ^ 30 else 0) + min left 7 * 2 ^ 27 + r.count % 256 * 2 ^ 16 + r.base % 4096)))) ∧
    (∀ i, i = .xsetStruct h (.cv q) b → Runs s i t x g → let w := (x.rd b).toNat
      let c := w / 2 ^ 16 % 256
      let fits := 16 ≤ c ∧ c ≤ 128 ∧ c % 16 = 0 ∧ w % 4096 + c ≤ g.gsz
      (w / 2 ^ 31 = 1 → ¬ fits → exec i s = .next (s.trapHere t x .badwin)) ∧
      ((w / 2 ^ 31 = 0 ∨ fits) → ((∃ e ∈ s.threads, e.1.group = t.group ∧ e.2.signed q.toNat ≠ none) → exec i s = .next (s.trapHere t x .mismatch)) ∧
        ((∀ e ∈ s.threads, e.1.group = t.group → e.2.signed q.toNat = none) →
          ((s.core t.coreRef).mmaOn t.group q.toNat = true → Stands s i t (waiting s x i (.cvIdle q.toNat) none)) ∧
          ((s.core t.coreRef).mmaOn t.group q.toNat = false → CompletesFrom (s.setGroup t.group (g.setCv q.toNat
            (if w / 2 ^ 31 = 0 then { CvRec.clear with fence := (g.cv q.toNat).fence } else { g.cv q.toNat with decl := true, count := c, base := w % 4096, ready := false })))
            s i t x {}))))

/-- R18, R409: PLACE gives the place of a core, a die or a port of the partition and its distance, and 0 for one the partition does not have. -/
def Obligations.PlaceResults : Prop :=
  ∀ (s : State) (t : TRef) (x : Thread) (g : Group) (h : Hints) (d : VReg) (a : Src),
    let n := (x.src a).toNat
    let dies := s.partDies t.part
    let far (e : Nat) := if t.core / 36 = e then 2 else
      if ((dies.getD (t.core / 36) 0, dies.getD e 0) ∈ linkEnds ∨ (dies.getD e 0, dies.getD (t.core / 36) 0) ∈ linkEnds) then 3 else 4
    (Runs s (.placeCore h d a) t x g →
      (s.coreValid t.part n = false → Completes s (.placeCore h d a) t x (vRes d 0)) ∧
      (s.coreValid t.part n = true → Completes s (.placeCore h d a) t x (vRes d (BitVec.ofNat 32 (2 ^ 31
        + (if n = t.core then 0 else if n / 36 = t.core / 36 ∧ n % 36 / 4 = t.core % 36 / 4 then 1 else far (n / 36)) * 2 ^ 28
        + n / 36 * 2 ^ 16 + (n / 36 * 9 + n % 36 / 4) * 2 ^ 8))))) ∧
    (Runs s (.placeDie h d a) t x g →
      (dies.length ≤ n → Completes s (.placeDie h d a) t x (vRes d 0)) ∧
      (n < dies.length → Completes s (.placeDie h d a) t x (vRes d (BitVec.ofNat 32
        (2 ^ 31 + (if n = t.core / 36 then 0 else far n) * 2 ^ 28 + n * 2 ^ 16))))) ∧
    (Runs s (.placePort h d a) t x g → let w := (s.die (dies.getD (n / 6) 0)).ppt.getD (n % 6) 0
      ((dies.length ≤ n / 6 ∨ w.getLsbD 31 = false) → Completes s (.placePort h d a) t x (vRes d 0)) ∧
      (n / 6 < dies.length → w.getLsbD 31 = true → Completes s (.placePort h d a) t x (vRes d (BitVec.ofNat 32
        (2 ^ 31 + w.toNat / 16 % 16 * 2 ^ 24 + n / 6 * 2 ^ 16)))))

/-- R48, R93, R123 to R125, R249, R344, R345, R457, R460, R461, R469: one slice cycle. Its issue group is eligible threads of one PC table entry, one
a lane, the lowest slot of each: threads that may issue, whose GAP has run down, whose next instruction the scoreboard clears and needs no unit that
is held; a yielding thread only where every such thread yields; no entry of such a thread is before it. A thread that did not issue keeps the age of
its entry; one that has come back to where it issued from is at an entry of this round (log 83). They take effect in lane order, those of a barrier
instruction or an XSET of a barrier in ascending HTID. A slice whose clock is held passes no cycle; one whose issue FIFO is full, and a core that a
START has reached, form no group; one that replays forms none while it is stopped, and then the group of the error again. GAP runs down by one, and
the counters count the cycle. R399, R401: a kick traps TRAP with TINFO all ones a READY thread whose instruction has had no effect yet or one in a
wait that a kick ends, and is then spent; a READY thread whose access is at its home takes it later (log 84); a deferred trap is delivered to a thread
outside its handler that has nothing under way, the lowest entry first. Else neither happens. An event whose condition does not hold changes nothing:
the model's choice, log 2. -/
def Obligations.IssueRoundsAndKicks : Prop :=
  (∀ (s : State) (c : CoreRef) (n : Nat) (sl : Slice), let cc := s.heldBy c
     let s1 := s.retryReplays cc
     (s.core c).slices[n]? = some sl → s.issueQ = [] → s.ctxRuns cc.ctxRef = true → (s.part c.part).running = some cc.ctx →
     let held := ∃ d, sl.hold = some d ∧ d.toNat ≤ (s.coreTime c).toNat + 228
     let replays := sl.err ≠ none ∧ sl.again ≠ []
     let inSlice (s : State) := s.threads.filter fun e => e.1.ccRef == cc && e.2.htid / 512 == n
     (held → exec (.issueRound c n) s = .next s) ∧
     (¬ held → replays → (s.threads.map (·.1)).Nodup → ∃ s' sl', exec (.issueRound c n) s = .next s' ∧ (s'.core c).slices[n]? = some sl' ∧
       (∀ a, s'.memByte a = s.memByte a) ∧ sl'.stop = sl.stop - 1 ∧
       (0 < sl.stop → s'.issueQ = [] ∧ sl'.err = sl.err ∧ sl'.again = sl.again) ∧
       (sl.stop = 0 → sl'.err = none ∧ s'.issueQ = sl.again.filter fun t => (inSlice s).any fun e => e.1 == t && s.canIssue e.1 e.2)) ∧
     (¬ held → ¬ replays → s.startReached c = true → exec (.issueRound c n) s = .next s) ∧
     (¬ held → ¬ replays → s.startReached c = false → (s1.core c).slices[n]? = some sl → (s1.threads.map (·.1)).Nodup →
     let ts := inSlice s1
     let can := ts.filter fun e => s1.canIssue e.1 e.2 && e.2.gap == 0 && !s1.unitBlocked sl e && !s1.blocked e.1 e.2
     let word (t : TRef) (x : Thread) (p : BitVec 96 → Prop) : Prop := ∀ w, (s1.fetchWord t x.pc.toNat).2 = .word w → p w
     let barrier (w : BitVec 96) : Prop := (0xC0 ≤ w.toNat % 256 ∧ w.toNat % 256 ≤ 0xC6) ∨
       ∃ h b, (∃ n, decode w = .ok (.xsetStruct h (.nb n) b)) ∨ ∃ m, decode w = .ok (.xsetStruct h (.gb m) b)
     let at' (o : PcEntry) (e : TRef × Thread) : Prop := o.grp = e.1.grp ∧ o.pc = e.2.pc ∧ e.2.htid ∈ o.htids
     ∃ s' sl', exec (.issueRound c n) s = .next s' ∧ (s'.core c).slices[n]? = some sl' ∧ (∀ a, s'.memByte a = s1.memByte a) ∧ s'.groups = s1.groups ∧
       s'.holds = s1.holds ∧
       (sl.xiq = 16 → s'.issueQ = []) ∧ (sl.xiq ≠ 16 → can ≠ [] → s'.issueQ ≠ []) ∧ sl'.stop = sl.stop - 1 ∧
       (∀ e ∈ ts, (e.2.st = .ready ∨ e.2.st = .parked ∨ e.2.st = .trapped) → ∃ o ∈ sl'.table, at' o e) ∧
       (∀ e ∈ ts, (e.2.st = .ready ∨ e.2.st = .parked ∨ e.2.st = .trapped) → ∀ p ∈ sl.table, at' p e →
         (e.2.htid ∉ sl.issued → ∃ o ∈ sl'.table, at' o e ∧ o.age = p.age) ∧ (e.2.htid ∈ sl.issued → ∃ o ∈ sl'.table, at' o e ∧ o.age = sl.round)) ∧
       (s'.issueQ ≠ [] → ∃ o ∈ sl'.table, ∀ t ∈ s'.issueQ, ∃ x, (t, x) ∈ can ∧ at' o (t, x) ∧
         (word t x fun w => ∀ i g, decode w = .ok i → s1.group? t.group = some g → s1.gate t x g i ≠ .hold) ∧
         (x.yld = true → ∀ e ∈ can, e.2.yld = true) ∧
         (∀ e ∈ can, at' o e → e.2.yld = x.yld → e.2.htid % 32 = x.htid % 32 → x.htid ≤ e.2.htid) ∧
         (∀ e ∈ can, e.2.yld = x.yld → ∀ p ∈ sl'.table, at' p e → entryBefore (s1.gnumAt cc) p o = false)) ∧
       (s'.issueQ.filterMap fun t => (s1.thread? t).map fun x => x.htid % 32).Nodup ∧
       ((∀ t ∈ s'.issueQ, ∀ x, s1.thread? t = some x → word t x fun w => ¬ barrier w) →
         (s'.issueQ.filterMap fun t => (s1.thread? t).map fun x => x.htid % 32).Pairwise (· < ·)) ∧
       ((∀ t ∈ s'.issueQ, ∀ x, s1.thread? t = some x → ∃ w, (s1.fetchWord t x.pc.toNat).2 = .word w ∧ barrier w) →
         (s'.issueQ.filterMap fun t => (s1.thread? t).map fun x => x.htid).Pairwise (· < ·)) ∧
       (∀ e ∈ ts, ∃ y, s'.thread? e.1 = some y ∧ y = { e.2 with gap := e.2.gap - 1, yld := e.2.yld && s'.issueQ.isEmpty }) ∧
       sl'.cAll = sl.cAll + 1 ∧ sl'.cIss = sl.cIss + (if s'.issueQ.isEmpty then 0 else 1) ∧
       sl'.round = sl.round + (if s'.issueQ.isEmpty then 0 else 1))) ∧
  (∀ (s : State) (t : TRef) (x : Thread), s.thread? t = some x → s.ctxRuns t.ctxRef = true →
     let due := x.kick = true ∧ x.h = false ∧ ((x.st = .ready ∧ (x.ph = .none ∨ (∃ sc q w f, x.ph = .fence sc q w f) ∨
         (∃ v, x.ph = .walk v) ∨ ∃ v m, x.ph = .walked v m)) ∨
       (x.st = .wait ∧ (x.ph = .sleep ∨ (∃ jb, x.ph = .rejoin jb) ∨ (∃ m a b, x.ph = .rendezvous m a b) ∨ (∃ a l w n, x.ph = .address a l w n))))
     let after (s : State) : State := match x.cur with | some i => s.settleDests t x i | none => s
     (due → (∀ jb, x.ph ≠ .rejoin jb) →
       exec (.kickTaken t) s = .next (after ((s.setThread t { x with kick := false }).takeTrap t .trap (x.pc.setWidth 64) 0 0xFFFFFFFF))) ∧
     (∀ jb, due → x.ph = .rejoin jb → exec (.kickTaken t) s = .next (after ((s.setThread t { x with
       kick := false, jbA := x.jbA &&& ~~~(BitVec.ofNat 16 (2 ^ jb)) }).takeTrap t .trap (x.pc.setWidth 64) 0 0xFFFFFFFF))) ∧
     (∀ q, x.st = .ready → x.ph = .answer q → exec (.kickTaken t) s = .next s) ∧
     ((x.kick = false ∨ x.h = true) → exec (.kickTaken t) s = .next s) ∧
     (x.kick = true → x.h = false → x.st = .ready → s.canIssue t x = false) ∧
     (x.deferred = [] → exec (.deferredTrapDelivery t) s = .next s) ∧ (x.h = true → exec (.deferredTrapDelivery t) s = .next s) ∧
     (∀ d, x.deferred = [d] → x.h = false → (x.st = .ready ∨ x.st = .parked) → x.ph = .none → s.unretired t = false →
       let s1 := s.setThread t { x with deferred := [], fpark := none }
       (d.entry = none → exec (.deferredTrapDelivery t) s = .next (s1.takeTrap t d.cause (x.pc.setWidth 64) d.taddr 0)) ∧
       (∀ e o, d.entry = some e → (s.holding t.ccRef).olog.get? e = some o →
         exec (.deferredTrapDelivery t) s = .next (s1.takeTrap t d.cause (x.pc.setWidth 64) d.taddr
           (BitVec.ofNat 32 (e * 2 ^ 8 + o.ccls.ccls * 2 ^ 4 + o.sub % 16))))))

/-- R279, R283, R285 to R288: a walk that ends lets the instruction of a slice go on once no other granule of it walks, and where it failed its lanes
park; a released entry whose check fails again waits for service, one whose store passes is sent and leaves the log, and the PC does not move; a write
of FLTACK releases, delivers or ignores exactly the entries it names that await service. No walk goes on that no link lets through (R13). No byte of
memory changes. An event whose condition does not hold changes nothing: the model's choice, log 2. -/
def Obligations.FaultService : Prop :=
  (∀ (s : State) (c : CoreRef) (vpn : Nat), let cc := s.heldBy c
    let walking (e : TRef × Thread) (v : Nat) : Prop := e.1.ccRef = cc ∧ e.2.ph = .walk v
    ((vpn ∉ (s.core c).walks.take 8 ∨ s.walkCut cc.ctxRef c.core (vpn * 2 ^ 16) = true) → (∀ e ∈ s.threads, e.1.ccRef = cc → e.2.ph.probing = false) → exec (.walkComplete c vpn) s = .next s) ∧
    (vpn ∈ (s.core c).walks.take 8 → s.walkCut cc.ctxRef c.core (vpn * 2 ^ 16) = false → s.ctxRuns cc.ctxRef = true → (s.threads.map (·.1)).Nodup →
      (∀ e ∈ s.threads, e.1.ccRef = cc → e.2.htid < 3072 ∧ ∀ v m, e.2.ph ≠ .walked v m) →
      ∀ s1 r, (s.modCore c fun k => { k with walks := k.walks.filter fun v => v != vpn }).findLeaf cc.ctxRef c.core (vpn * 2 ^ 16) = (s1, r) →
      s1.threads = s.threads → s1.groups = s.groups → ∃ s', exec (.walkComplete c vpn) s = .next s' ∧ (s'.core c).walks = (s1.core c).walks ∧
        (∀ leaf, r = .ok leaf → (∀ a, s'.memByte a = s1.memByte a) ∧ ∀ t x, s.thread? t = some x →
          let others := ∃ e ∈ s.threads, ∃ v, v ≠ vpn ∧ walking e v ∧ e.2.htid / 512 = x.htid / 512
          (walking (t, x) vpn → ¬ others → t ∈ s'.issueQ ∧ s'.thread? t = some { x with ph := .none, cur := none }) ∧
          (walking (t, x) vpn → others → s'.thread? t = some { x with ph := .walked vpn none }) ∧ (¬ walking (t, x) vpn → s'.thread? t = some x)) ∧
        (∀ m t x i q g, r = .error m → s.thread? t = some x → walking (t, x) vpn → (∀ e ∈ s.threads, ∀ v, walking e v → e.1 = t) → x.cur = some i →
          reqOf t.core { x with ph := .walked vpn (some m) } i = some q → s.group? t.group = some g → s1.logFull t = false →
          ∃ y e o, s'.thread? t = some y ∧ y.st = .parked ∧ y.pc = x.pc + 12 ∧ (s'.holding cc).olog.get? e = some o ∧ o.grp = t.grp ∧ o.rank = t.rank ∧
            o.instr = i ∧ o.ea = q.ea ∧ o.data = q.data ∧ o.stat = .waiting ∧ o.ccls = m.cause ∧ o.sub = m.sub))) ∧
  (∀ (s : State) (c : CoreRef) (e : Nat) (o : OEntry) (x : Thread) (g : Group), let cc := s.heldBy c
    let t := (cc.group o.grp).thread o.rank
    let va := vaOf g t.rank o.ea
    ((∀ o, (s.holding cc).olog.get? e = some o → o.stat ≠ .released) → exec (.parkedReplay c e) s = .next s) ∧
    (∀ h sz d a b off, (s.holding cc).olog.get? e = some o → s.thread? t = some x → s.group? t.group = some g → s.ctxRuns cc.ctxRef = true →
      o.stat = .released → o.instr = .st h sz none d a b off → s.replaySent t e = false → s.olderEntry t g e va = false →
      (s.walkCut cc.ctxRef c.core va = true → exec (.parkedReplay c e) s = .next s) ∧
      (s.walkCut cc.ctxRef c.core va = false →
      (∀ s1 m, s.translate cc.ctxRef c.core va .write = (s1, .error m) → (s1.holding cc).olog = (s.holding cc).olog →
        ∃ s', exec (.parkedReplay c e) s = .next s' ∧ (∀ a, s'.memByte a = s1.memByte a) ∧ s'.threads = s1.threads ∧
          (s'.holding cc).olog.get? e = some { o with stat := .waiting, ccls := m.cause, sub := m.sub }) ∧
      (∀ s1 pa k pri, s.translate cc.ctxRef c.core va .write = (s1, .ok (.mem pa k pri false)) → s1.threads = s.threads → s1.groups = s.groups →
        s1.holds = s.holds → s1.loadPending t (.mem pa k pri false) = false → s1.viaWc t (.mem pa k pri false) = false → x.step = false →
        ∃ s' y m, exec (.parkedReplay c e) s = .next s' ∧ (∀ a, s'.memByte a = s1.memByte a) ∧ s'.thread? t = some y ∧ y.pc = x.pc ∧
          (s'.holding cc).olog.get? e = none ∧ (s'.core c).mops = (s1.core c).mops ++ [m] ∧ m.thr = t ∧ m.kind = .store ∧
          m.loc = .mem pa k pri false ∧ m.data = (dataBytes o.data).take sz.bytes ∧ m.ans = .pending)))) ∧
  (∀ (s : State) (c : CoreRef) (all : Bool) (n : Nat) (o : OEntry), let cc := s.heldBy c
    (s.part c.part).running = some cc.ctx → (s.holding cc).olog.get? n = some o → ((s.holding cc).olog.map (·.1)).Nodup →
    let acted (e : Nat) (p : OEntry) : Prop := o.stat = .waiting ∧ p.stat = .waiting ∧ (e = n ∨ (all = true ∧ p.ea.toNat / 2 ^ 16 = o.ea.toNat / 2 ^ 16))
    (∃ s' : State, exec (.fltackReplay c all n) s = .next s' ∧ ∀ e p, (s.holding cc).olog.get? e = some p →
      (acted e p → (s'.holding cc).olog.get? e = some { p with stat := .released }) ∧ (¬ acted e p → (s'.holding cc).olog.get? e = some p)) ∧
    (∃ s' : State, exec (.fltackDeliver c all n) s = .next s' ∧ ∀ e p, (s.holding cc).olog.get? e = some p →
      (acted e p → (s'.holding cc).olog.get? e = some { p with stat := .delivering }) ∧ (¬ acted e p → (s'.holding cc).olog.get? e = some p)) ∧
    (∃ s' : State, exec (.fltackIgnored c all n) s = .next s' ∧ (s'.holding cc).olog = (s.holding cc).olog) ∧
    (∃ s' : State, exec (.fltackFault c all n) s = .next s' ∧ (o.stat = .waiting → (s.ctx cc.ctxRef).st = .active → (s'.ctx cc.ctxRef).st = .faulted) ∧
      (o.stat ≠ .waiting → (s'.holding cc).olog = (s.holding cc).olog)))

/-- R114 to R118, R353 to R357, R362: a core's head launch is decided 16,000 ticks after it came there, and leaves the queue; what a core grants is
free on it and within the context's footprint; the next group or gang of a LOADED kernel is placed where its cores have all it asks, and otherwise
not; an allocated group whose banks are awake starts every thread at the kernel's entry with its start registers; a retiring group with nothing under
way returns all it held, and the last of a kernel retires it, once 16 ticks have passed after what its groups wrote and read where it signals. A
record that cannot be written gets no STATUS; one that can be written and not read gets STATUS 01 (logs 44, 45, the model's choice, for the front
end's reads). R231, R366, R367, R423: a group, or every group of a gang, whose every thread has arrived goes once nothing of it is under way and its
buffers are empty, unless the condition has been met before: SWAPPED, with no slot, row, bank or tile. It comes back, RESIDENT, once its condition has
been met and every group of it finds its slots, tiles and banks; the read that found the condition true is an acquire for each of its threads, and the
GSWAP of a stepping thread retires with the trap STEP. An uncorrectable error in what a swap-in reads faults the context (log 62, the model's choice);
the places a swap takes and leaves rest on log 19, and the order of a met condition and the swap-out on log 66. An event whose condition does not hold
changes nothing: the model's choice, log 2. -/
def Obligations.LaunchPlacementAndSwaps : Prop :=
  ((∀ (s : State) (c : CoreRef), let cc := s.heldBy c
     let y := s.holding cc
     ((y.plq = [] ∨ (s.coreTime c).toNat < y.plqAt.toNat + 16000) → exec (.launchDecision c) s = .next s) ∧
     (∀ va rest s1 code k s2, y.plq = va :: rest → y.plqAt.toNat + 16000 ≤ (s.coreTime c).toNat → s.ctxRuns cc.ctxRef = true →
       (∀ e ∈ s2.threads, ∀ a, e.2.ph ≠ .launchRoom a) → s.decideLaunch cc.ctxRef va.toNat = (s1, .status code k) →
       s1.launched cc.ctxRef va.toNat code k = some s2 → (s2.holding cc).plq = y.plq →
       ∃ s', exec (.launchDecision c) s = .next s' ∧ (s'.holding cc).plq = rest ∧ s'.threads = s2.threads ∧ s'.kernels = s2.kernels ∧
         ∀ a, s'.memByte a = s2.memByte a) ∧
     (∀ va rest s1, y.plq = va :: rest → y.plqAt.toNat + 16000 ≤ (s.coreTime c).toNat → s.ctxRuns cc.ctxRef = true →
       (∀ e ∈ s1.threads, ∀ a, e.2.ph ≠ .launchRoom a) → s.decideLaunch cc.ctxRef va.toNat = (s1, .mute) → (s1.holding cc).plq = y.plq →
       ∃ s', exec (.launchDecision c) s = .next s' ∧ (s'.holding cc).plq = rest ∧ s'.kernels = s1.kernels ∧ ∀ a, s'.memByte a = s1.memByte a) ∧
     (∀ va rest s1 code k, y.plq = va :: rest → y.plqAt.toNat + 16000 ≤ (s.coreTime c).toNat → s.ctxRuns cc.ctxRef = true →
       s.decideLaunch cc.ctxRef va.toNat = (s1, .status code k) → s1.launched cc.ctxRef va.toNat code k = none →
       exec (.launchDecision c) s = .next (s1.frontAsk cc.ctxRef (va.toNat + 124) 4 false)) ∧
     (∀ va rest s1, y.plq = va :: rest → y.plqAt.toNat + 16000 ≤ (s.coreTime c).toNat → s.ctxRuns cc.ctxRef = true →
       s.decideLaunch cc.ctxRef va.toNat = (s1, .wait) → exec (.launchDecision c) s = .next s1)) ∧
   (∀ (s : State) (x : CtxRef) (rec : Nat),
     ((rec % 128 ≠ 0 ∨ inGlobal rec 128 = false ∨ (s.frontCheck x rec 128 .write).isSome = true) → s.decideLaunch x rec = (s, .mute)) ∧
     (rec % 128 = 0 → inGlobal rec 128 = true → s.frontCheck x rec 128 .write = none → (s.frontCheck x rec 128 .both).isSome = true →
       s.decideLaunch x rec = (s, .status 0x01 none))) ∧
   (∀ (foot : Nat) (need : Need) (own all : Taken) (p : Grant), fit foot need own all = some p →
     let inSlice (l : List (Nat × Nat)) (n : Nat) := (l.filter fun u => u.1 = n).length
     p.slots.length = need.sets ∧ p.slots.Nodup ∧
     (∀ u ∈ p.slots, u.1 < 6 ∧ u.2 < 16 ∧ u ∉ all.slots ∧ need.w ≤ foot / 2 ^ (8 * u.1 + 48) % 256) ∧
     (∀ n < 6, inSlice p.slots n ≠ 0 → inSlice own.slots n + inSlice p.slots n ≤ foot / 2 ^ (8 * n) % 256) ∧
     (need.banks ≠ 0 → (∀ b, p.first ≤ b → b < p.first + need.banks → b < 96 ∧ b ∉ all.banks) ∧ (∀ b, need.fbank = some b → p.first = b)) ∧
     p.chans.length = need.chans ∧ p.tiles.length = need.tiles ∧ (∀ i ∈ p.chans, i < 8 ∧ i ∉ all.chans) ∧ (∀ i ∈ p.tiles, i < 8 ∧ i ∉ all.tiles) ∧
     own.banks.length + need.banks ≤ foot / 2 ^ 96 % 128 ∧ own.tiles.length + need.tiles ≤ foot / 2 ^ 116 % 16 ∧
     own.chans.length + need.chans ≤ foot / 2 ^ 120 % 16 ∧
     ∀ n m b d, (n, m, b) ∈ own.rings → need.rings.getD n none = some d → d.slots = m ∧ d.bytes = b) ∧
   (∀ (s : State) (kr : KRef) (k : Kernel), s.kernel? kr = some k →
     ((k.st ≠ .loaded ∨ k.ngrp ≤ k.nplaced ∨ s.gangFit kr k = none) → exec (.groupPlace kr) s = .next s) ∧
     (∀ ps, k.st = .loaded → k.nplaced < k.ngrp → s.ctxRuns { part := kr.part, ctx := kr.ctx } = true → s.gangFit kr k = some ps →
       ∃ s' k', exec (.groupPlace kr) s = .next s' ∧ (∀ a, s'.memByte a = s.memByte a) ∧ (∀ h y, s.group? h = some y → s'.group? h = some y) ∧
         s'.kernel? kr = some k' ∧ k'.nplaced = k.nplaced + k.gangN ∧ ps.length = k.gangN ∧
         ∀ i p, ps[i]? = some p → ∃ g y, s.group? g = none ∧ g.part = kr.part ∧ g.ctx = kr.ctx ∧ g.core = k.cbase + (k.nplaced + i) % k.cspan ∧
           s'.group? g = some y ∧ (y.st = .allocated ∨ y.st = .resident) ∧
           y = { y with kidx := kr.kidx, gnum := k.nplaced + i, gang := (k.nplaced + i) / k.gangN, grank := (k.nplaced + i) % k.gangN, gangN := k.gangN,
                        role := k.role, w := k.w, gsz := k.gsz, slots := p.slots, tiles := p.tiles, count := k.scrb, first := p.first, mlive := 0,
                        sidethr := 0x7F800000, sideptr := 0, handler := (s.ctx { part := kr.part, ctx := kr.ctx }).handler.setWidth 56 })) ∧
   (∀ (s : State) (g : GRef) (y : Group) (k : Kernel), s.group? g = some y → s.kernel? (y.kref g) = some k → y.st = .allocated →
     (s.groupWaking g y = true → s.tryStart g = s) ∧
     (s.groupWaking g y = false → (∃ y', (s.tryStart g).group? g = some y' ∧ y' = { y with st := .resident }) ∧
       ∀ r < y.gsz, ∃ x, (s.tryStart g).thread? (g.thread r) = some x ∧ x.pc = k.entry ∧ x.st = .ready ∧ x.htid = y.htidOf r ∧ x.preds = 0 ∧
         x.h = false ∧ x.step = false ∧ x.wctmax = 0 ∧ x.jbE = 0 ∧ x.nbPend = 0 ∧ x.fflags = 0 ∧ x.live = BitVec.ofNat 8 (2 ^ y.w - 1) ∧
         (∀ i < 12, x.rd (BitVec.ofNat 7 i) = k.args.getD i 0) ∧ x.rd 12 = BitVec.ofNat 32 y.gnum ∧ x.rd 13 = BitVec.ofNat 32 k.ngrp ∧
         x.rd 14 = k.handle.setWidth 32 ∧ x.rd 15 = (k.handle >>> 32).setWidth 32 ∧ ∀ i, 16 ≤ i → i < 128 → x.rd (BitVec.ofNat 7 i) = 0)) ∧
   (∀ (s : State) (g : GRef) (y : Group) (k : Kernel), s.group? g = some y → s.kernel? (y.kref g) = some k →
     ((y.st ≠ .retiring ∨ s.groupQuiet g y = false) → exec (.groupDrained g) s = .next s) ∧
     (y.st = .retiring → s.ctxRuns g.ctxRef = true → s.groupQuiet g y = true → k.ngrp ≤ k.nfree + 1 → k.donesig ≠ 0 →
       s.time.gtime.toNat < (max k.wct.toNat (s.groupWct g y).toNat) + 16 →
       exec (.groupDrained g) s = .next (s.frontAsk g.ctxRef k.donesig.toNat 4 true)) ∧
     (∀ s1 : State, y.st = .retiring → s.ctxRuns g.ctxRef = true → s.groupQuiet g y = true → k.ngrp ≤ k.nfree + 1 → k.donesig ≠ 0 →
       (s.freeGroup g y).frontSignal { part := g.part, ctx := g.ctx } k.donesig.toNat true k.doneadd.toNat = (s1, .error .wait) →
       exec (.groupDrained g) s = .next (s.frontAsk g.ctxRef k.donesig.toNat 4 true)) ∧
     (∀ s1 : State, y.st = .retiring → s.ctxRuns g.ctxRef = true → s.groupQuiet g y = true → k.ngrp ≤ k.nfree + 1 → k.donesig ≠ 0 →
       (max k.wct.toNat (s.groupWct g y).toNat) + 16 ≤ s.time.gtime.toNat → s1.kernel? (y.kref g) = (s.freeGroup g y).kernel? (y.kref g) →
       (s.freeGroup g y).frontSignal { part := g.part, ctx := g.ctx } k.donesig.toNat true k.doneadd.toNat = (s1, .ok ()) →
       ∃ s' k', exec (.groupDrained g) s = .next s' ∧ s'.kernel? (y.kref g) = some k' ∧ k'.st = .retired ∧ ∀ a, s'.memByte a = s1.memByte a) ∧
     (y.st = .retiring → s.ctxRuns g.ctxRef = true → s.groupQuiet g y = true →
       (k.nfree + 1 < k.ngrp ∨ (k.donesig = 0 ∧ ∀ e ∈ s.threads, ∀ r, e.2.ph ≠ .pushRoom (y.kref g) r)) →
       ∃ s' k', exec (.groupDrained g) s = .next s' ∧ s'.group? g = none ∧ (∀ t : TRef, t.group = g → s'.thread? t = none) ∧
         (∀ t : TRef, t.group ≠ g → s'.thread? t = s.thread? t) ∧ (∀ b ∈ y.bankList, (s'.holding g.ccRef).banks.get? b = none) ∧
         (∀ p ∈ y.tiles, (s'.holding g.ccRef).tiles.get? p = none) ∧ (∀ a, s'.memByte a = s.memByte a) ∧
         s'.kernel? (y.kref g) = some k' ∧ k'.nfree = k.nfree + 1 ∧
         (∀ t x, s.thread? t = some x → t.group = g → x.wctmax.toNat ≤ k'.wct.toNat) ∧ (k.ngrp ≤ k.nfree + 1 → k'.st = .retired)))) ∧
  (∀ (s : State) (g : GRef) (y : Group), s.group? g = some y → s.ctxRuns g.ctxRef = true → (s.threads.map (·.1)).Nodup →
     let gs := s.swapGroups g
     (gs.map (·.core)).Nodup → (y.gangN ≤ 1 → gs = [g]) ∧
     (((∃ w ∈ s.sigs, w.thr.group ∈ gs ∧ w.hit ≠ none) ∨
       (∃ q ∈ gs, (∀ z, s.group? q = some z → z.st ≠ .resident) ∨
         ∃ e ∈ s.threads, e.1.group = q ∧ e.2.st ≠ .exited ∧ ∀ a c w, e.2.ph ≠ .swapArr a c w)) → exec (.gswapSwapOut g) s = .next s) ∧
     (gs ≠ [] → (∀ w ∈ s.sigs, w.thr.group ∈ gs → w.hit = none) →
       (∀ q ∈ gs, (s.core q.coreRef).wc = [] ∧ s.gangDelivering q = false ∧ (∃ z, s.group? q = some z ∧ z.st = .resident ∧ s.groupQuiet q z = true) ∧
         (∃ e ∈ s.threads, e.1.group = q ∧ e.2.st ≠ .exited) ∧
         ∀ e ∈ s.threads, e.1.group = q → e.2.st ≠ .exited → ∃ a c w, e.2.ph = .swapArr a c w) →
       ∃ s', exec (.gswapSwapOut g) s = .next s' ∧ (∀ t : TRef, t.group ∉ gs → s'.thread? t = s.thread? t) ∧
         (∀ q z, q ∈ gs → s.group? q = some z → s'.group? q = some { z with st := .swapped, slots := [], tiles := [], mlive := 0 } ∧
           ∀ b ∈ z.bankList, (s'.holding q.ccRef).banks.get? b = none) ∧
         ∀ t x, s.thread? t = some x → t.group ∈ gs → x.st ≠ .exited → ∃ z, s'.thread? t = some z ∧ z.st = .swapped ∧ z.live = 0 ∧ z.jbE = 0 ∧
           z.wctmax = x.wctmax ∧ z.h = x.h) ∧
     ((y.st ≠ .swapped ∨ ∀ w ∈ s.sigs, w.thr.group ∈ gs → w.hit = none ∧ w.due = false) → exec (.gswapSwapIn g) s = .next s) ∧
     (∀ s1 w, y.st = .swapped → s.swapHolds gs = (s1, some w) →
       ((∃ q z, q ∈ gs ∧ s1.group? q = some z ∧ s1.swapFit q z = none) → exec (.gswapSwapIn g) s = .next s1) ∧
       ((∀ q z, q ∈ gs → s1.group? q = some z → s1.swapFit q z ≠ none) → (∃ q z, q ∈ gs ∧ s1.group? q = some z ∧ s1.swapBad q z = true) →
         exec (.gswapSwapIn g) s = .next (s1.faultCtx g.ctxRef 0x13)) ∧
       ((∀ q z, q ∈ gs → s1.group? q = some z → s1.swapFit q z ≠ none ∧ s1.swapBad q z = false ∧ z.handler ≠ 0) →
         ∃ s', exec (.gswapSwapIn g) s = .next s' ∧
         (∀ a, s'.memByte a = s1.memByte a) ∧ (∀ t : TRef, t.group ∉ gs → s'.thread? t = s1.thread? t) ∧ (∀ v ∈ s'.sigs, v.thr.group ∉ gs) ∧
         ∀ q z slots tiles, q ∈ gs → s1.group? q = some z → s1.swapFit q z = some (slots, tiles) →
           (∃ z', s'.group? q = some z' ∧ z'.st = .resident ∧ z'.slots = slots ∧ z'.tiles = tiles ∧ (z.gangN ≤ 1 → z'.latch = none)) ∧
           (∀ b ∈ z.bankList, ∃ r, (s'.holding q.ccRef).banks.get? b = some r ∧ r.grp = q.grp) ∧
           ∀ r < z.gsz, ∀ x, s1.thread? (q.thread r) = some x → x.st ≠ .exited → ∃ u, s'.thread? (q.thread r) = some u ∧
             (u.st = .exited ∨ u.wctmax = dmax x.wctmax w ∧ u.ph = .none ∧
               (u.st = .ready ∧ (u.step = false ∨ u.h = true) ∨
                u.st = .trapped ∧ u.step = true ∧ u.h = true ∧ u.cause = Cause.step.code ∧ u.pc = z.handler)))))

/-- R455 to R458, R461 to R463: at a sample boundary the counters are latched as ratios and start again, and the governor gives each slice the ratio
of R463's table; VCUR slews 25 mV in 16,000 ticks, and a ramp that is over lets the waiting raises switch, each holding its clock for 228 ticks from
an edge of its own clock; a slice whose hold is over runs at its new ratio; a write of PWRCTL takes legal values only, and a VTRIM that asks for a
voltage outside 550 to 900 mV is denied. Where in a slice cycle a command falls is free, and the order of ramps and switches rests on log 64
(DEDUCED). An event whose condition does not hold changes nothing: the model's choice, log 2. -/
def Obligations.GovernorAndVoltage : Prop :=
  ∀ (s : State) (c : CoreRef), let k := s.core c
    let now := s.coreTime c
    ((s.coreUp c = false ∨ now.toNat / 160000 ≤ k.sampleAt) → exec (.governorSample c) s = .next s) ∧
    (s.coreUp c = true → k.sampleAt < now.toNat / 160000 → ∃ s' : State, exec (.governorSample c) s = .next s' ∧ s'.threads = s.threads ∧
      (∀ a, s'.memByte a = s.memByte a) ∧ (s'.core c).sampleAt = now.toNat / 160000 ∧
      (∀ (n : Nat) (x : Slice), k.slices[n]? = some x → ∃ y : Slice, (s'.core c).slices[n]? = some y ∧ y.cAll = 0 ∧ y.cIss = 0 ∧ y.cMem = 0 ∧ y.cEng = 0 ∧ y.det = 0 ∧
        y.repl = min 255 x.det ∧ y.n = x.n ∧
        (let ratio (n : Nat) := if x.cAll = 0 then 0 else min 255 (256 * n / x.cAll)
         y.stall = BitVec.ofNat 32 (ratio x.cIss * 2 ^ 24 + ratio x.cMem * 2 ^ 16 + ratio x.cEng * 2 ^ 8)) ∧
        (s.mayGovern c = false → y.tgt = x.tgt ∧ y.hold = x.hold))) ∧
    (∀ (x : Slice) (p : DWord), let clamp (n : Nat) := max (p.toNat / 2 ^ 16 % 32) (min (p.toNat / 2 ^ 24 % 32) n)
      let iss := x.stall.toNat / 2 ^ 24
      let mem := x.stall.toNat / 2 ^ 16 % 256
      let eng := x.stall.toNat / 2 ^ 8 % 256
      (p.getLsbD 31 = false → x.decide p = clamp (p.toNat % 32)) ∧
      (p.getLsbD 31 = true → 16 ≤ x.repl → x.decide p = clamp (x.n - 2)) ∧
      (p.getLsbD 31 = true → x.repl < 16 → mem < 64 → 160 ≤ iss + eng → x.decide p = clamp (x.n + 2)) ∧
      (p.getLsbD 31 = true → x.repl < 16 → (64 ≤ mem ∨ iss + eng < 160) →
        x.decide p = clamp (if iss + eng < 64 then x.n - 2 else x.n))) ∧
    (s.rampOver c = false → exec (.voltageRampDone c) s = .next s) ∧
    (∀ a d : Nat, k.rampAt = some (BitVec.ofNat 64 a) → a < 2 ^ 64 → a + d = now.toNat →
      (k.vcur ≤ k.vtgt → k.vnow now = min k.vtgt (k.vcur + 25 * d / 16000)) ∧ (k.vtgt ≤ k.vcur → k.vnow now = max k.vtgt (k.vcur - 25 * d / 16000))) ∧
    (∀ a d : Nat, s.coreUp c = true → k.rampAt = some (BitVec.ofNat 64 a) → a < 2 ^ 64 → a + d = now.toNat →
      16000 * (max k.vcur k.vtgt - min k.vcur k.vtgt) ≤ 25 * d → ∃ s' : State, exec (.voltageRampDone c) s = .next s' ∧
      s' = { s with cores := s'.cores, fresh := s'.fresh } ∧ (s'.core c).vcur = k.vtgt ∧ (s'.core c).rampAt = none ∧ (s'.core c).raises = [] ∧
      ∀ r ∈ k.raises, (k.raises.map (·.1)).Nodup → ∀ x, k.slices[r.1]? = some x → 4 ≤ x.n → x.n ≤ 16 →
        ∃ w, 229 ≤ w ∧ w ≤ 228 + ceilCycles ((15 + x.n) / x.n) ∧
          (s'.core c).slices[r.1]? = some { x with tgt := r.2, hold := some (now + BitVec.ofNat 64 w) }) ∧
    (∀ n, s.holdOver c n = false → exec (.sliceHoldEnd c n) s = .next s) ∧
    (∀ (n : Nat) (x : Slice) (d : DWord), s.coreUp c = true → k.slices[n]? = some x → x.hold = some d → d.toNat ≤ now.toNat →
      ∃ s' : State, exec (.sliceHoldEnd c n) s = .next s' ∧ s' = { s with cores := s'.cores } ∧
        (s'.core c).slices[n]? = some { x with n := x.tgt, hold := none }) ∧
    (∀ v : DWord, let ok (n : Nat) := 4 ≤ n ∧ n ≤ 16
      let legal := ok (v.toNat % 32) ∧ ok (v.toNat / 2 ^ 16 % 32) ∧ ok (v.toNat / 2 ^ 24 % 32) ∧ v.toNat / 2 ^ 16 % 32 ≤ v.toNat / 2 ^ 24 % 32
      (¬ legal → exec (.pwrctlWrite c v) s = .next s) ∧
      (legal → s.coreUp c = true → v.toNat / 2 ^ 8 % 256 = k.pwrctl.toNat / 2 ^ 8 % 256 →
        exec (.pwrctlWrite c v) s = .next (s.modCore c fun k => { k with pwrctl := v &&& 0x0000FFFF9F1FFF1F })) ∧
      (legal → s.coreUp c = true → v.toNat / 2 ^ 8 % 256 ≠ k.pwrctl.toNat / 2 ^ 8 % 256 → let vt := vtOf (k.slices.map (·.tgt)) (pwVtrim v)
        ∃ s' : State, exec (.pwrctlWrite c v) s = .next s' ∧ s'.threads = s.threads ∧ (∀ a, s'.memByte a = s.memByte a) ∧
          (550 ≤ vt → vt ≤ 900 → (s'.core c).pwrctl = v &&& 0x0000FFFF9F1FFF1F ∧ (s'.core c).vcur = k.vnow now ∧
            ((∃ x ∈ k.slices, x.hold ≠ none) → vt.toNat < k.vnow now → (s'.core c).lower = some vt.toNat ∧ (s'.core c).rampAt = none) ∧
            (((∀ x ∈ k.slices, x.hold = none) ∨ k.vnow now ≤ vt.toNat) → (s'.core c).vtgt = vt.toNat ∧ (s'.core c).lower = none ∧
              (s'.core c).rampAt = if vt.toNat = k.vnow now then none else some now)) ∧
          ((vt < 550 ∨ 900 < vt) → (s'.core c).pwrctl = (v &&& 0x0000FFFF9F1F001F) ||| (k.pwrctl &&& 0xFF00) ∧
            (s'.core c).deny = min 255 (k.deny + 1) ∧ (s'.core c).slices = k.slices ∧ (s'.core c).vtgt = k.vtgt ∧ (s'.core c).rampAt = k.rampAt)))

/-- R464 to R466, R469, R470: at an interval boundary the budget is charged and the metered energy added; a timing error stops its slice for four
cycles, and a second one at the same word sends it to NMIN; at NMIN it is recorded. An error is detected only in an issue group that a slice
re-executes or forms next, and none while its clock is held or a replay stops it. When an error comes is not for the spec to say: log 51 (DEDUCED)
places it. R117, R133 to R135, R254, R318: a register bank whose threads have all waited more than 32,000 ticks, with no transfer to it in flight and
no group about to start on it, and a scratchpad bank untouched for 64,000, go to retention; a wake that is due leaves its bank or tile at full power,
or a register bank that nothing holds any more off; nothing loses contents, and nothing happens before its time or in a reset. An event whose
condition does not hold changes nothing: the model's choice, log 2. The energy unit: log 52. -/
def Obligations.BudgetsErrorsAndBanks : Prop :=
  ((∀ (s : State) (c : CoreRef) (e : Nat), let k := s.core c
     let now := (s.coreTime c).toNat / 16000
     ((s.coreUp c = false ∨ now ≤ k.budgetAt) → exec (.budgetInterval c e) s = .next s) ∧
     (s.coreUp c = true → k.budgetAt < now → ∃ s' : State, exec (.budgetInterval c e) s = .next s' ∧ s' = { s with cores := s'.cores } ∧
       let k' := s'.core c
       k' = { k with budgetAt := now, bytes := k'.bytes, energy := k'.energy, wrap := k'.wrap, erem := k'.erem } ∧
       k'.bytes = (if k.pwrctl.toNat / 2 ^ 32 % 2 ^ 16 = 0 then 0 else k.bytes - 64 * (k.pwrctl.toNat / 2 ^ 32 % 2 ^ 16)) ∧
       ((k.energy.toNat * 65536 + k.erem + e) / 65536 < 2 ^ 63 → k.erem < 65536 →
         k'.energy.toNat * 65536 + k'.erem = k.energy.toNat * 65536 + k.erem + e ∧ k'.erem < 65536 ∧ k'.wrap = k.wrap))) ∧
   (∀ (s : State) (t : TRef) (x : Thread) (y : Slice), s.thread? t = some x → (s.core t.coreRef).slices[x.htid / 512]? = some y →
     let low := (s.core t.coreRef).pwrctl.toNat / 2 ^ 16 % 32
     let q := s.errorGroup t.ccRef (x.htid / 512) y
     (t ∉ q → exec (.timingErrorDetect t) s = .next s) ∧
     ((y.stop ≠ 0 ∨ ∃ d, y.hold = some d ∧ d.toNat ≤ (s.coreTime t.coreRef).toNat + 228) → q = []) ∧
     (t ∈ q → ∃ s' z, exec (.timingErrorDetect t) s = .next s' ∧ (s'.core t.coreRef).slices[x.htid / 512]? = some z ∧ z.stop = 4 ∧ z.det = y.det + 1 ∧
       z.n = y.n ∧ z.again = q ∧ z.err = some x.pc ∧ s'.threads = s.threads ∧ (∀ a, s'.memByte a = s.memByte a) ∧
       (y.err = some x.pc → y.n ≠ low → z.tgt = low ∧ (∀ d, y.hold = some d → z.hold = some d) ∧ (y.hold = none → 4 ≤ y.n → y.n ≤ 16 →
         ∃ w, 229 ≤ w ∧ w ≤ 228 + ceilCycles ((15 + y.n) / y.n) ∧ z.hold = some (s.coreTime t.coreRef + BitVec.ofNat 64 w))) ∧
       ((y.err ≠ some x.pc ∨ y.n = low) → z.hold = y.hold ∧ z.tgt = y.tgt) ∧
       (y.n = low → t.part < s.parts.length → ∃ r ∈ (s'.part t.part).mc, r.extractLsb' 184 8 = 6)))) ∧
  (∀ (s : State) (c : CoreRef), let k := s.core c
     let now := s.coreTime c
     (s.inReset = true → ∀ n sl row lane, exec (.regBankRetention c sl row lane) s = .next s ∧ exec (.scrBankRetention c n) s = .next s ∧
       exec (.regBankWakeDone c sl row lane) s = .next s ∧ exec (.scrBankWakeDone c n) s = .next s ∧ exec (.tileWakeDone c n) s = .next s) ∧
     (s.inReset = false →
       (∀ sl row lane, let b := (sl, row, lane)
         let held (e : TRef × Thread) : Prop := e.1.coreRef = c ∧ e.2.liveAt (s.holding e.1.ccRef) b = true
         let idle : Prop := (∃ e ∈ s.threads, held e) ∧ s.transferIn c b = false ∧
           (∀ e ∈ s.threads, held e → e.2.st = .wait ∧ s.ctxRuns e.1.ctxRef = true ∧ e.2.waitFrom.toNat + 32000 < now.toNat) ∧
           ∀ e ∈ s.groups, e.1.coreRef = c → e.2.startsAt (s.holding e.1.ccRef) b = false
         (s.bankPower c b = .full → idle →
           exec (.regBankRetention c sl row lane) s = .next (s.modCore c fun k => { k with regPow := k.regPow.set b .retention })) ∧
         ((s.bankPower c b ≠ .full ∨ ¬ idle) → exec (.regBankRetention c sl row lane) s = .next s) ∧
         (∀ off d, k.regPow.getD b .off = .waking off d → d.toNat ≤ now.toNat → ∃ s' : State, exec (.regBankWakeDone c sl row lane) s = .next s' ∧
           (s'.core c).regPow.get? b = (if s.bankHeld c b = true ∨ s.transferIn c b = true then some .full else none) ∧ s'.mem = s.mem) ∧
         (∀ off d, k.regPow.getD b .off = .waking off d → now.toNat < d.toNat → exec (.regBankWakeDone c sl row lane) s = .next s)) ∧
       (∀ n p, k.scrPow.getD n (.off, 0) = p →
         (p.1 = .full → p.2.toNat + 64000 ≤ now.toNat →
           exec (.scrBankRetention c n) s = .next (s.modCore c fun k => { k with scrPow := k.scrPow.set n (.retention, p.2) })) ∧
         ((p.1 ≠ .full ∨ now.toNat < p.2.toNat + 64000) → exec (.scrBankRetention c n) s = .next s) ∧
         (∀ off d, p.1 = .waking off d → d.toNat ≤ now.toNat → ∃ s' : State, exec (.scrBankWakeDone c n) s = .next s' ∧
           ((s'.core c).scrPow.getD n (.off, 0)).1 = .full ∧ s'.mem = s.mem) ∧
         (∀ off d, p.1 = .waking off d → now.toNat < d.toNat → exec (.scrBankWakeDone c n) s = .next s)) ∧
       (∀ n off d, k.tilePow.getD n .off = .waking off d →
         (d.toNat ≤ now.toNat → exec (.tileWakeDone c n) s = .next (s.modCore c fun k => { k with tilePow := k.tilePow.set n .full })) ∧
         (now.toNat < d.toNat → exec (.tileWakeDone c n) s = .next s))))

/-- R36 to R38, R451: of the ports that are UP and announce a grandmaster of the domain the best-master comparison names one, ties going to the lower;
a measurement of the reference port, corrected by the port's asymmetry, moves the time state by R38's table (a move into ACQUIRING begins a new run of
good ones: the model's choice, log 79); three Sync intervals without one end a run of good ones or discipline and move the reference on; EPSILON at
4,000 ends HOLDOVER in LOST, which counts and is recorded. A Follow_Up completes the Sync of its sequence identifier and no other, a Delay_Resp
answers the Delay_Req sent last, and a measurement takes the offset that the last Sync of its port then gives (layouts and the delay: log 72, the
model's choice). R36, R41, R437, R440, R441: a heartbeat joins a port's queue every 500 µs in a booted package with a port that carries management, a
Delay_Req that of the reference port; a verified package is scheduler where no live verified one is lower and the scheduler is no lower or silent; a
package with no lower live peer takes over once no verified heartbeat of the scheduler has come for 4 ms (the four missed heartbeats and the 2 ms
after them: log 73, DEDUCED), in the epoch after the newest it knows. An event whose condition does not hold changes nothing: the model's choice, log
2. Corrections and packet bytes: logs 65 and 70. -/
def Obligations.TimeAndElection : Prop :=
  ((∀ (ms : List (Option Master)) (ps : List Nat), ps.Pairwise (· < ·) →
     (∀ (p q : Nat) (m n : Master), ms.getD p none = some m → ms.getD q none = some n → m.gm = n.gm → m.prio = n.prio) →
     (bestMaster ms ps = none → ∀ p ∈ ps, ms.getD p none = none) ∧
     (∀ p m, bestMaster ms ps = some (p, m) → p ∈ ps ∧ ms.getD p none = some m ∧
       ∀ q ∈ ps, ∀ n, ms.getD q none = some n → n.before m = false ∧ (q < p → m.before n = true))) ∧
   (∀ (t : Time) (p : Nat) (load : List Byte) (y : SyncIn), t.syncs.getD p none = some y →
     (y.seq = seqOf load → y.t1 = none →
       (t.followArrives p load).syncs.getD p none = some { y with t1 := some (t.stampOf load + corrOf load + y.corr) }) ∧
     (y.seq ≠ seqOf load → (t.followArrives p load).syncs = t.syncs) ∧
     (seqOf load + 1 ≠ t.seqId → t.respArrives p load = t) ∧
     (y.used = true → t.offset p = none) ∧
     (∀ t1 d, y.used = false → y.t1 = some t1 → t.delay = some d → t.offset p = some (y.t2.toNat - t1 - d))) ∧
   (∀ (s : State) (p : Nat), s.refOk p = true ↔ p < 24 ∧
     ((s.link (.port (p / 6) (p % 6))).st = .up ∨ (s.link (.port (p / 6) (p % 6))).st = .degraded ∨ (s.link (.port (p / 6) (p % 6))).st = .quiesced)) ∧
   (∀ (s : State) (port : Nat) (off : Int), let t := s.time
     let o := off + (t.asym.getD port 0).toInt
     let good := o.natAbs ≤ 320
     let fair := 320 < o.natAbs ∧ o.natAbs ≤ s.epsilon
     let counts := t.offset port = some off ∧ s.refOk port = true ∧ (t.st = .unset → ∀ b, s.bestRef = some b → port = b) ∧
       (t.st ≠ .unset → port = if s.refOk t.port = true then t.port else s.bestRef.getD t.port)
     ((s.inReset = true ∨ ¬ counts) → exec (.ptpMeasurement port off) s = .next s) ∧
     (s.inReset = false → counts →
       ∃ s' : State, exec (.ptpMeasurement port off) s = .next s' ∧ (∀ a, s'.memByte a = s.memByte a) ∧
         let u := s'.time
         u.port = port ∧ u.offset port = none ∧
         (t.st = .unset → u.st = .acquiring ∧ u.run = 0 ∧ (t.everAct = false → u.gtime = BitVec.ofInt 64 (t.gtime.toNat - o))) ∧
         (t.st = .acquiring → good → u.run = t.run + 1 ∧ u.gtime = t.gtime ∧ (8 ≤ t.run + 1 → u.st = .disciplined) ∧
           (t.run + 1 < 8 → u.st = .acquiring)) ∧
         (t.st = .acquiring → ¬ good → u.run = 0 ∧ u.st = .acquiring) ∧
         ((t.st = .disciplined ∨ t.st = .holdover) → (good ∨ fair) → u.st = .disciplined ∧ u.slew = -o ∧ u.gtime = t.gtime) ∧
         ((t.st = .disciplined ∨ t.st = .holdover) → ¬ good → ¬ fair → t.lostcnt < 0xFFFF → u.st = .lost ∧ u.lostcnt = t.lostcnt + 1) ∧
         (t.st = .lost → u.st = .acquiring ∧ u.run = 0) ∧
         ((t.st = .acquiring ∨ t.st = .lost) → ¬ good → (o < -640 → u.gtime = BitVec.ofInt 64 (t.gtime.toNat - o)) ∧
           (-640 ≤ o → u.gtime = t.gtime ∧ u.slew = -o)))) ∧
   (∀ (s : State) (next : Nat), let t := s.time
     let other := (bestMaster t.masters ((List.range 24).filter fun p => (s.link (.port (p / 6) (p % 6))).st == .up && p != t.port)).map (·.1)
     ((s.inReset = true ∨ t.gtime.toNat < t.lastAny.toNat + 375000000 ∨ next ≠ other.getD t.port) → exec (.syncTimeout next) s = .next s) ∧
     (s.inReset = false → t.lastAny.toNat + 375000000 ≤ t.gtime.toNat → next = other.getD t.port → ∃ s' : State,
       exec (.syncTimeout next) s = .next s' ∧ s' = { s with time := s'.time } ∧ s'.time.gtime = t.gtime ∧ s'.time.port = next ∧
       (t.st = .disciplined → s'.time.st = .holdover) ∧ (t.st = .acquiring → s'.time.run = 0) ∧ (t.st ≠ .disciplined → s'.time.st = t.st))) ∧
   (∀ s : State, ((s.time.st ≠ .holdover ∨ s.epsilon < 4000) → exec .holdoverLimit s = .next s) ∧
     (s.time.st = .holdover → 4000 ≤ s.epsilon → s.inReset = false → ∃ s' : State, exec .holdoverLimit s = .next s' ∧ s'.time.st = .lost ∧
       (s.time.lostcnt < 0xFFFF → s'.time.lostcnt = s.time.lostcnt + 1) ∧ ∃ r ∈ s'.pestle.mc, r.extractLsb' 184 8 = 3))) ∧
  (∀ (s : State), let w := s.whisk
     let me := s.pestle.pkg
     let queue (s : State) (p : Nat) := (s.link (.port (p / 6) (p % 6))).queue
     ((s.inReset = true ∨ s.pestle.booted = false ∨ s.time.gtime.toNat < w.lastHb.toNat + 8000000) → exec .heartbeatSend s = .next s) ∧
     (s.inReset = false → s.pestle.booted = true → w.lastHb.toNat + 8000000 ≤ s.time.gtime.toNat → ∃ s' : State, exec .heartbeatSend s = .next s' ∧
       s'.whisk.lastHb = s.time.gtime ∧ s'.threads = s.threads ∧ s'.outbox = s.outbox ∧
       (s.mgmtPorts = [] → s' = { s with whisk := { w with lastHb := s.time.gtime } }) ∧
       (∀ p l, s.mgmtPorts = p :: l → ∃ o, queue s' p = queue s p ++ [o] ∧ o.hdr.toNat / 2 ^ 97 % 8 = 3 ∧ o.hdr.toNat / 2 ^ 100 % 16 = 7 ∧
         o.hdr.toNat / 2 ^ 124 % 2 ^ 18 = me.toNat ∧ ∀ q, q < 24 → q ≠ p → queue s' q = queue s q)) ∧
     (s.inReset = false → s.refOk s.time.port = true → ∃ s' o, exec .delayReq s = .next s' ∧ queue s' s.time.port = queue s s.time.port ++ [o] ∧
       o.hdr.toNat / 2 ^ 97 % 8 = 2 ∧ o.hdr.toNat / 2 ^ 100 % 16 = 6 ∧ s'.time.seqId = s.time.seqId + 1 ∧ s'.time.reqOut = true ∧ s'.time.egress = none ∧ s'.time.gtime = s.time.gtime) ∧
     ((s.inReset = true ∨ s.refOk s.time.port = false) → exec .delayReq s = .next s) ∧
     (∀ (pkg : BitVec 18) (v : Bool), s.inReset = false →
       let lower := ∃ q ∈ w.peers, q.pkg.toNat < pkg.toNat ∧ s.peerLive q = true
       let held := ∃ p, w.sched = some p ∧ p.toNat < pkg.toNat ∧ (p = me ∨ ∃ q ∈ w.peers, q.pkg = p ∧ s.peerLive q = true)
       ∃ s' : State, exec (.heartbeatReceive pkg v) s = .next s' ∧ s' = { s with whisk := s'.whisk } ∧
         (∃ q ∈ s'.whisk.peers, q.pkg = pkg ∧ q.last = s.time.gtime ∧ q.good = v) ∧
         (v = true → s'.whisk.sched = some pkg → s'.whisk.heard = s.time.gtime) ∧
         ((v = false ∨ s'.whisk.sched ≠ some pkg) → s'.whisk.heard = w.heard) ∧
         (v = true → pkg.toNat < me.toNat → ¬ lower → ¬ held → s'.whisk.sched = some pkg) ∧
         ((v = false ∨ me.toNat ≤ pkg.toNat ∨ lower ∨ held) → s'.whisk.sched = w.sched)) ∧
     (s.inReset = true → ∀ pkg v, exec (.heartbeatReceive pkg v) s = .next s) ∧
     (let newest := match w.newest with
         | none => w.epoch
         | some n => if 1 ≤ (n - w.epoch).toNat ∧ (n - w.epoch).toNat ≤ 32767 then n else w.epoch
       let lower := ∃ q ∈ w.peers, q.pkg.toNat < me.toNat ∧ s.peerLive q = true
       let silent := w.heard.toNat + 64000000 ≤ s.time.gtime.toNat
       (s.inReset = false → s.pestle.booted = true → ¬ lower → w.sched ≠ some me → silent →
         exec .schedulerTakeover s = .next { s with whisk := { w with sched := some me, epoch := newest + 1, heard := s.time.gtime } }) ∧
       ((s.inReset = true ∨ s.pestle.booted = false ∨ lower ∨ w.sched = some me ∨ ¬ silent) → exec .schedulerTakeover s = .next s)) ∧
     (∀ p, p ∈ s.mgmtPorts ↔ p < 24 ∧
       ((s.link (.port (p / 6) (p % 6))).st = .up ∨ (s.link (.port (p / 6) (p % 6))).st = .degraded ∨ (s.link (.port (p / 6) (p % 6))).st = .quiesced)))

/-- R41, R43, R45, R47, R430: the answers to the messages of the scheduler. Reserved bits give 08 and a stale epoch 06, and neither is noted as the
newest epoch; a context no partition holds gives 07; then the message's own rules, in their order; one that passes them all is kept. An event whose
condition does not hold changes nothing: the model's choice, log 2. Which partition a message names: log 55. -/
def Obligations.WhiskMessages : Prop :=
  ∀ (s : State) (m : BitVec 256), s.inReset = false →
    let n := m.toNat
    let now := s.time.gtime.toNat
    let start := n % 2 ^ 64
    let quantum := n / 2 ^ 64 % 2 ^ 32
    let stop := start + 16 * quantum
    let ctx := n / 2 ^ 96 % 2 ^ 16
    let answers (i : Instr) (code : Nat) : Prop := ∃ s' : State, exec i s = .next s' ∧ s'.whisk.statuses = code :: s.whisk.statuses ∧
      s'.threads = s.threads ∧ (∀ a, s'.memByte a = s.memByte a)
    let keeps (i : Instr) : Prop := ∃ s' : State, exec i s = .next s' ∧ s'.parts.map (·.table) = s.parts.map (·.table) ∧
      s'.parts.map (·.preempt) = s.parts.map (·.preempt) ∧ s'.whisk.masks = s.whisk.masks
    (let te : Instr := .timetableEntry m
     let epoch : BitVec 16 := BitVec.ofNat 16 (n / 2 ^ 136)
     let reserved := n / 2 ^ 160 ≠ 0 ∨ n / 2 ^ 130 % 2 ^ 6 ≠ 0
     (reserved → answers te 8 ∧ keeps te) ∧
     (¬ reserved → s.whisk.stale epoch = true → answers te 6 ∧ keeps te) ∧
     (¬ reserved → s.whisk.stale epoch = false →
       (s.holder ctx = none → answers te 7 ∧ keeps te) ∧
       ∀ p, s.holder ctx = some p → let x : CtxRef := { part := p, ctx := ctx }
         (s.nameable x = false → answers te 7 ∧ keeps te) ∧
         (s.nameable x = true →
           (quantum = 0 → answers te 1 ∧ keeps te) ∧
           (quantum ≠ 0 → 16 * quantum < s.tMin (s.outgoing p start) x → answers te 2 ∧ keeps te) ∧
           (quantum ≠ 0 → s.tMin (s.outgoing p start) x ≤ 16 * quantum →
             (start < now + 1600000 → answers te 4 ∧ keeps te) ∧
             (now + 1600000 ≤ start →
               let clash := ∃ e ∈ (s.part p).table, e.bits.toNat % 2 ^ 64 < stop ∧
                 start < e.bits.toNat % 2 ^ 64 + 16 * (e.bits.toNat / 2 ^ 64 % 2 ^ 32)
               (clash → answers te 3 ∧ keeps te) ∧
               (¬ clash → 64 ≤ (s.part p).table.length → answers te 5 ∧ keeps te) ∧
               (¬ clash → (s.part p).table.length < 64 → p < s.parts.length → answers te 0 ∧ ∃ s' : State, exec te s = .next s' ∧
                 s'.whisk.newest = some epoch ∧ ∀ e, e ∈ (s'.part p).table ↔ e = ⟨m, false⟩ ∨ e ∈ (s.part p).table)))))) ∧
    (let mk : Instr := .maskMessage m
     let epoch : BitVec 16 := BitVec.ofNat 16 (n / 2 ^ 80)
     let reserved := n / 2 ^ 112 % 2 ^ 16 ≠ 0 ∨ n / 2 ^ 64 % 2 ^ 16 ≠ 0 ∨ n / 2 ^ 96 % 2 ^ 16 % 128 ≠ 0
     (reserved → answers mk 8 ∧ keeps mk) ∧ (¬ reserved → s.whisk.stale epoch = true → answers mk 6 ∧ keeps mk) ∧
     (¬ reserved → s.whisk.stale epoch = false → start < now + 1600000 → answers mk 4 ∧ keeps mk) ∧
     (¬ reserved → s.whisk.stale epoch = false → now + 1600000 ≤ start → answers mk 0 ∧ ∃ s' u, exec mk s = .next s' ∧
       s'.whisk.masks = s.whisk.masks ++ [u] ∧ u.effect.toNat = start ∧ u.base = n / 2 ^ 96 % 2 ^ 16 ∧ u.bits = BitVec.ofNat 128 (n / 2 ^ 128))) ∧
    (let pe : Instr := .preemptionRequest m
     let epoch : BitVec 16 := BitVec.ofNat 16 (n / 2 ^ 128)
     let reserved := n / 2 ^ 145 ≠ 0
     (reserved → answers pe 8 ∧ keeps pe) ∧ (¬ reserved → s.whisk.stale epoch = true → answers pe 6 ∧ keeps pe) ∧
     (¬ reserved → s.whisk.stale epoch = false → s.holder ctx = none → answers pe 7 ∧ keeps pe) ∧
     (∀ p, ¬ reserved → s.whisk.stale epoch = false → s.holder ctx = some p → let x : CtxRef := { part := p, ctx := ctx }
       (s.nameable x = false → answers pe 7 ∧ keeps pe) ∧
       (s.nameable x = true → s.notOot x = true → answers pe 9 ∧ keeps pe) ∧
       (s.nameable x = true → s.notOot x = false → s.preempting = true → answers pe 10 ∧ keeps pe) ∧
       (s.nameable x = true → s.notOot x = false → s.preempting = false → quantum = 0 → answers pe 1 ∧ keeps pe) ∧
       (s.nameable x = true → s.notOot x = false → s.preempting = false → quantum ≠ 0 →
         (16 * quantum < s.tMin (s.runsAt p start) x → answers pe 2 ∧ keeps pe) ∧
         (s.tMin (s.runsAt p start) x ≤ 16 * quantum → start < now + 16000 → answers pe 4 ∧ keeps pe) ∧
         (s.tMin (s.runsAt p start) x ≤ 16 * quantum → now + 16000 ≤ start → p < s.parts.length → answers pe 0 ∧
           ∃ s' : State, exec pe s = .next s' ∧ (s'.part p).preempt = some ⟨m, false⟩)))) ∧
    ((∀ u ∈ s.whisk.masks, now < u.effect.toNat) → exec .maskEffect s = .next s) ∧
    ((∃ u ∈ s.whisk.masks, u.effect.toNat ≤ now) → ∃ s' : State, exec .maskEffect s = .next s' ∧ s' = { s with whisk := s'.whisk } ∧
      s'.whisk.elig = s.whisk.eligAt now ∧ ∀ u, u ∈ s'.whisk.masks ↔ u ∈ s.whisk.masks ∧ now < u.effect.toNat)

/-- R40, R43, R46, R48, R49, R413, R428, R430, R432, R433: staging begins for a SAVED context that is named and fits and ends STAGED; bringing in
another context halts the running one, which may begin its pause, and decides whether the next comes by a flip; an entry or a pre-emption acts when
its START is reached, one that needs pod time without it is skipped; entries leave at their end, and nothing happens before these instants. That the
context that runs already goes on, and that a covered entry is tested at the pre-emption's end against the pre-empting context, whose pause is that of
PAUSE = 1: the model's choice, log 78; that staging ends once nothing on the cores has declared what it reads into: log 55 (DEDUCED). An event whose
condition does not hold changes nothing: the model's choice, log 2. What a skipped or resumed entry does: log 55. -/
def Obligations.EntriesAndStaging : Prop :=
  (∀ (s : State) (x : CtxRef),
    ((s.inReset = true ∨ (s.ctx x).st ≠ .saved ∨ s.stagesFor x = false ∨ s.imageOk x = false ∨ s.coresThere x = false) →
      exec (.stagingStart x) s = .next s) ∧
    (s.inReset = false → (s.ctx x).st = .saved → s.stagesFor x = true → s.imageOk x = true → s.coresThere x = true →
      exec (.stagingStart x) s = .next (s.setCtx x { s.ctx x with st := .staging, since := s.time.gtime })) ∧
    ((s.inReset = true ∨ (s.ctx x).st ≠ .staging ∨ s.allFit x.part (x :: s.residents x) = false) → exec (.stagingComplete x) s = .next s) ∧
    (s.inReset = false → (s.ctx x).st = .staging → s.allFit x.part (x :: s.residents x) = true → ∃ s' : State, exec (.stagingComplete x) s = .next s' ∧ (∀ a, s'.memByte a = s.memByte a) ∧
      ((s.directory x).1.imageBad x (s.directory x).2 = false → (s'.ctx x).st = .staged) ∧
      ((s.directory x).1.imageBad x (s.directory x).2 = true → ((s.directory x).1.ctx x).st = .staging → (s'.ctx x).st = .faulted))) ∧
  (∀ (s : State) (p r : Nat) (to' : Option Nat) (pause : Bool), let x : CtxRef := { part := p, ctx := r }
    let y := s.ctx x
    let s' := s.switchTo p to' pause
    (s.part p).running = some r → y.st = .active → p < s.parts.length →
      (to' = some r → s' = s) ∧
      (to' ≠ some r → (s'.ctx x).st = .halting ∧ (s'.ctx x).issueOff = false ∧ (s'.part p).running = some r ∧ (s'.part p).next = to' ∧
        s'.threads = s.threads ∧ (pause = false → (s'.ctx x).paused = y.paused ∧ ∀ a, s'.memByte a = s.memByte a) ∧
        (pause = true → (s'.ctx x).paused = true ∧ (y.paused = false → (s'.ctx x).vhalt = s.time.gtime - y.pauseoff)) ∧
        (∀ n, to' = some n → (s.ctx { part := p, ctx := n }).st = .staging → (s'.ctx { part := p, ctx := n }).st = .loading) ∧
        (∀ n, to' = some n → (s.ctx { part := p, ctx := n }).st = .staged →
          (s'.part p).flip = s'.flipOk x { part := p, ctx := n }))) ∧
  (∀ (s : State) (p : Nat), let now := s.time.gtime.toNat
    let field (m : BitVec 256) (lo w : Nat) := m.toNat / 2 ^ lo % 2 ^ w
    let begun (s : State) (m : BitVec 256) := (s.markBegun p m).trace { part := p, ctx := field m 96 16 } 3 (field m 0 64)
      (field m 96 16 * 2 ^ 16 + field m 112 16) 0
    (s.startingEntry p = none → exec (.entryStart p) s = .next s) ∧
    (∀ m, s.startingEntry p = some m → p < s.parts.length →
      (m.getLsbD 128 = true → s.podOk = false → ∃ s' : State, exec (.entryStart p) s = .next s' ∧ s'.whisk.skipped = m :: s.whisk.skipped ∧
        s'.threads = s.threads ∧ (s'.part p).running = (s.part p).running ∧ ∀ e ∈ (s'.part p).table, e.bits = m → e.begun = true) ∧
      ((m.getLsbD 128 = false ∨ s.podOk = true) →
        exec (.entryStart p) s = .next ((begun s m).switchTo p ((begun s m).target p ((begun s m).choose p m (begun s m).time.gtime.toNat)) (m.getLsbD 129)))) ∧
    (s.inReset = false → p < s.parts.length → ∃ s' : State, exec (.entryEnd p) s = .next s' ∧ s'.threads = s.threads ∧
      ∀ e, e ∈ (s'.part p).table ↔ e ∈ (s.part p).table ∧ now < e.bits.toNat % 2 ^ 64 + 16 * (e.bits.toNat / 2 ^ 64 % 2 ^ 32)) ∧
    (s.startingPreempt p = none → exec (.preemptionStart p) s = .next s) ∧
    (∀ m, s.startingPreempt p = some m → p < s.parts.length → ∃ s' : State, exec (.preemptionStart p) s = .next s' ∧
      (m.getLsbD 144 = true → s.podOk = false → (s'.part p).preempt = none ∧ s'.whisk.skipped = m :: s.whisk.skipped) ∧
      ((m.getLsbD 144 = false ∨ s.podOk = true) → let s1 := s.modPart p fun q => { q with preempt := some ⟨m, true⟩ }
        s' = s1.switchTo p (s1.target p (some (m.toNat / 2 ^ 96 % 2 ^ 16))) false)) ∧
    (s.endingPreempt p = none → exec (.preemptionEnd p) s = .next s) ∧
    (∀ m, s.endingPreempt p = some m → let s1 := s.modPart p fun q => { q with preempt := none }
      (s1.covering p = none → exec (.preemptionEnd p) s = .next (s1.switchTo p none false)) ∧
      (∀ e, s1.covering p = some e → e.begun = true →
        exec (.preemptionEnd p) s = .next (s1.switchTo p (s1.target p (s1.choose p e.bits now)) false)) ∧
      (∀ e, s1.covering p = some e → e.begun = false →
        let passed := s1.tMin (some { part := p, ctx := field m 96 16 }) { part := p, ctx := field e.bits 96 16 } ≤
          field e.bits 0 64 + 16 * field e.bits 64 32 - now ∧ (e.bits.getLsbD 128 = false ∨ s1.podOk = true)
        (¬ passed → exec (.preemptionEnd p) s = .next (((s1.markBegun p e.bits).skip p e.bits).switchTo p none false)) ∧
        (passed → let s2 := begun s1 e.bits
          exec (.preemptionEnd p) s = .next (s2.switchTo p (s2.target p (s2.choose p e.bits s2.time.gtime.toNat)) (e.bits.getLsbD 129))))))

/-- R219, R271, R403, R413, R414, R424 to R429: a halt stops the context's issue, after a replay under way and a trap that can be taken; the drain
ends once nothing of the context is under way, lists its loads to be replayed, closes its ports and leaves it SAVING, and a successor that flips
becomes ACTIVE; the seal leaves it SAVED with no group and no thread left, or FAULTED after an error, and the next context begins to load; a loaded
context becomes ACTIVE in the next generation, once nothing that an ended context had under way is left. Before its turn each changes nothing. A
STAGED context flips as well where its predecessor has been saved or has ended, which with the checks of a flip rests on log 55 (DEDUCED). An event
whose condition does not hold changes nothing: the model's choice, log 2. -/
def Obligations.ContextSwitch : Prop :=
  ∀ (s : State) (x : CtxRef), let y := s.ctx x
    let still : Prop := ∀ e ∈ s.cores, e.1.part = x.part → e.2.mops = [] ∧ e.2.wc = []
    ((y.st ≠ .halting ∨ y.issueOff = true ∨ s.inReset = true ∨ s.replayUnderWay x = true) → exec (.haltIssueStopped x) s = .next s) ∧
    (y.st = .halting → y.issueOff = false → s.inReset = false → s.replayUnderWay x = false → (∀ e ∈ s.threads, e.1.ctxRef = x → e.2.deferred = []) →
      (s.threads.map (·.1)).Nodup →
      ∃ s' : State, exec (.haltIssueStopped x) s = .next s' ∧ (s'.ctx x) = { y with issueOff := true, since := s.time.gtime } ∧ (∀ a, s'.memByte a = s.memByte a) ∧
        (∀ t ∈ s'.issueQ, t.ctxRef ≠ x) ∧ (∀ t, t.ctxRef ≠ x → s'.thread? t = s.thread? t) ∧
        ∀ t z, t.ctxRef = x → s.thread? t = some z → ∃ z', s'.thread? t = some z' ∧ z'.pc = z.pc ∧ z'.regs = z.regs ∧ z'.st = z.st ∧
          z'.preds = z.preds) ∧
    (∀ t z g d, y.st = .halting → y.issueOff = false → s.inReset = false → (s.threads.map (·.1)).Nodup → t.ctxRef = x → s.thread? t = some z →
      s.group? t.group = some g → g.handler ≠ 0 → z.deferred = [d] → d.entry = none → z.h = false → z.ph = .none → (z.st = .ready ∨ z.st = .parked) →
      s.unretired t = false → (∀ e ∈ s.threads, e.1.ctxRef = x → e.1 ≠ t → e.2.deferred = []) →
      exec (.haltIssueStopped x) s = exec (.haltIssueStopped x)
        ((s.setThread t { z with deferred := [], fpark := none }).takeTrap t d.cause (z.pc.setWidth 64) d.taddr 0)) ∧
    ((y.st ≠ .halting ∨ y.issueOff = false ∨ s.inReset = true ∨ s.settledCtx x = false) → exec (.drainComplete x) s = .next s) ∧
    (y.st = .halting → y.issueOff = true → s.inReset = false → s.settledCtx x = true → x.part < s.parts.length →
      let staged (n : Nat) := (s.part x.part).next = some n ∧ (s.ctx { part := x.part, ctx := n }).st = .staged
      let flips (n : Nat) (s1 : State) := staged n ∧ (s.part x.part).flip = true ∧ s1.flipOk x { part := x.part, ctx := n } = true
      ∃ s1 : State, (s1.ctx x) = { y with st := .saving, since := s.time.gtime } ∧ (s1.part x.part).drained = true ∧
        (∀ a, s1.memByte a = s.memByte a) ∧ (∀ t, t.ctxRef ≠ x → s1.thread? t = s.thread? t) ∧
        (∀ c ∈ s.ctxCores x, ∀ m ∈ (s.core c).mops, m.thr.ctxRef = x → (m.kind = .load ∨ m.kind = .acquire) → m.entry = none →
          (∃ pa k q b, m.loc = .mem pa k q b) → ∃ r ∈ (s1.holding { part := x.part, ctx := x.ctx, core := c.core }).replay,
            r.ea = m.ea ∧ r.instr = m.instr ∧ r.grp = m.thr.grp ∧ r.rank = m.thr.rank) ∧
        (∀ n, flips n s1 → exec (.drainComplete x) s = .next (s1.activate { part := x.part, ctx := n })) ∧
        (∀ n, staged n → ¬ flips n s1 → exec (.drainComplete x) s = .next (s1.modPart x.part fun p => { p with flip := false })) ∧
        ((∀ n, ¬ staged n) → exec (.drainComplete x) s = .next s1)) ∧
    ((y.st ≠ .saving ∨ s.inReset = true) → exec (.imageSealed x) s = .next s) ∧
    (y.st = .saving → s.inReset = false → x.part < s.parts.length → s.ctxPoisoned x = false → ∀ n, (s.part x.part).next = some n →
      (s.ctx { part := x.part, ctx := n }).st = .staged → ∃ s1 : State, (∀ t, t.ctxRef = x → s1.thread? t = none) ∧ (s1.ctx x).st = .saved ∧
        (∀ t, t.ctxRef ≠ x → s1.thread? t = s.thread? t) ∧ (∀ g : GRef, g.ctxRef = x → s1.group? g = none) ∧
        (s1.mayFlip { part := x.part, ctx := n } = true → exec (.imageSealed x) s = .next (s1.activate { part := x.part, ctx := n })) ∧
        (s1.mayFlip { part := x.part, ctx := n } = false → exec (.imageSealed x) s = .next (s1.startLoad x.part))) ∧
    (y.st = .saving → s.inReset = false → x.part < s.parts.length →
      (∀ n, (s.part x.part).next = some n → (s.ctx { part := x.part, ctx := n }).st ≠ .staged ∨ s.ctxPoisoned x = true) →
      ∃ s' : State, exec (.imageSealed x) s = .next s' ∧ (∀ t, t.ctxRef = x → s'.thread? t = none) ∧
        (∀ t, t.ctxRef ≠ x → s'.thread? t = s.thread? t) ∧ (∀ g : GRef, g.ctxRef = x → s'.group? g = none) ∧
        (s'.part x.part).running ≠ some x.ctx ∧ (s.ctxPoisoned x = true → (s'.ctx x).st = .faulted) ∧
        (s.ctxPoisoned x = false → (s.part x.part).next ≠ some x.ctx → (s'.ctx x).st = .saved) ∧
        (s.ctxPoisoned x = false → (s.ctxs.map (·.1)).Nodup → (∀ e ∈ s.ctxs, e.1.part = x.part → e.1 ≠ x → e.2.st ≠ .halting ∧ e.2.st ≠ .saving) →
          ((s.part x.part).running = some x.ctx ∨ (s.part x.part).running = none) → ∀ n, (s.part x.part).next = some n →
          (n = x.ctx ∨ (s.ctx { part := x.part, ctx := n }).st = .saved ∨ (s.ctx { part := x.part, ctx := n }).st = .staging) → (s'.ctx { part := x.part, ctx := n }).st = .loading)) ∧
    ((y.st ≠ .loading ∧ s.mayFlip x = false ∨ (s.part x.part).running ≠ none ∨ s.inReset = true ∨ ¬ still) → exec (.loadComplete x) s = .next s) ∧
    (y.st = .loading → (∃ e ∈ s.ctxs, e.1.part = x.part ∧ (e.2.st = .halting ∨ e.2.st = .saving)) → exec (.loadComplete x) s = .next s) ∧
    (y.st = .loading → (∀ e ∈ s.ctxs, e.1.part = x.part → e.2.st ≠ .halting ∧ e.2.st ≠ .saving) → (s.part x.part).running = none →
      s.inReset = false → still → exec (.loadComplete x) s = .next (s.activate x)) ∧
    (s.mayFlip x = true → exec (.loadComplete x) s = .next (s.activate x)) ∧
    (s.mayFlip x = true ↔ y.st = .staged ∧ (s.part x.part).next = some x.ctx ∧ (s.part x.part).flip = true ∧ (s.part x.part).running = none ∧
      s.inReset = false ∧ still ∧ ∀ o ∈ s.residents x, (s.ctx o).st = .staged ∨ s.flipOk o x = true) ∧
    (∀ s1 bs s2 dir, s.saRead x 0 256 = (s1, bs) → s1.directory x = (s2, dir) → s2.imageBad x dir = false → dir = [] → x.part < s2.parts.length →
      (s2.ctxThreads x) = [] → (s2.ctxGroups x) = [] → (∀ e ∈ s2.holds, e.1.ctxRef ≠ x) →
      ((s.activate x).ctx x).st = .active ∧ ((s.activate x).ctx x).gen = ((s2.ctx x).ofHeader (leNat bs)).gen + 1 ∧
      ((s.activate x).part x.part).running = some x.ctx ∧ ∀ c : CoreRef, c.part = x.part → ((s.activate x).core c).l1 = [])

/-- R19 to R21, R24, R25, R27, R30, R32, R486, R487: the requests on place tables, partitions and key slots, each with its checks in order and its
effect. A mailbox that may not name the partition, or a partition that is not formed, is answered 06; before the host cores run there is no answer.
The answers to an index beyond its table, to KIMPORT into a full slot, to Form of an identifier in use, to a partition not formed, and to a remap or a
degrade of an entry with V = 0, and that LDIE follows a permutation of the DPT only at the next Reset: the model's choices, log 74; that NOTOWNER of a
DPT request looks at entries with V = 1: log 57. R413, R414, R487: KREVOKE clears the slot's KEYLIVE bit and revokes every context whose save area
lies under the slot; where nothing is under way under it, the slot is zeroised, its L1 and L2 lines go and the request is answered at once; else at a
later step, when that has been performed and dirty lines of the slot have been written back. Another request for the slot waits, and is answered NOKEY
then. That the revocation goes in steps, and this answer, rest on log 20 (DEDUCED). The order of the checks where the spec gives none, and the two
steps of KREVOKE: logs 57 and 20. -/
def Obligations.PlacementAndKeyRequests : Prop :=
  (∀ (s : State) (mb : Mailbox) (tag : Word) (part die core port : Nat) (vals : List (Nat × Word)) (v : Word) (lanes : BitVec 4) (slot : BitVec 6)
       (wrapped : BitVec 576) (tab : PlaceTable) (dpt : List Word) (cpt ppt : List (Nat × List Word)),
     let all : List Instr := [.placeRequest mb tag part tab die vals, .partopReset mb tag part, .partopDissolve mb tag part, .partopCoreRemap mb tag part core v,
       .partopLaneDegrade mb tag part die port lanes, .kgen mb tag part slot, .kexport mb tag part slot, .kimport mb tag part slot wrapped]
     (s.hostUp = false → ∀ i ∈ all, exec i s = .next s) ∧
     (s.hostUp = true → (Mailbox.mayName mb part = false ∨ s.formed part = false) → ∀ i ∈ all, exec i s = .next (s.reply mb tag 6 [])) ∧
     (s.hostUp = true → part < 4 → Mailbox.isOperator mb = false → exec (.partopForm mb tag part dpt cpt ppt) s = .next (s.reply mb tag 6 [])) ∧
     (s.hostUp = true → part < 4 → Mailbox.isOperator mb = true → exec (.partopForm mb tag part dpt cpt ppt) s =
       .next ((s.formPart part dpt cpt ppt).1.reply mb tag (s.formPart part dpt cpt ppt).2 [])) ∧
     (∀ s1, s.formPart part dpt cpt ppt = (s1, 0) → part < s.parts.length → s.dies.length = 4 →
       s1.threads = s.threads ∧ (∀ a, s1.memByte a = s.memByte a) ∧ (s1.part part).dpt = ((List.range 4).map fun i => dpt.getD i 0 &&& 0x80000003) ∧
       ∀ i < 4, (dpt.getD i 0).getLsbD 31 = true → (s1.die ((dpt.getD i 0).toNat % 4)).diepart = BitVec.ofNat 32 (2 ^ 31 + i * 16 + part)) ∧
     (s.hostUp = true → Mailbox.mayName mb part = true → s.formed part = true →
       let there := (s.partDies part).contains die
       let fill (k : BitVec 512) := s.modPart part fun p => { p with
         keys := modNth p.keys slot.toNat fun _ => some k, keylive := p.keylive ||| BitVec.ofNat 64 (2 ^ slot.toNat) }
       let used := ((s.part part).keys.getD slot.toNat none)
       (let t := putEntries cptEntry (s.die die).cpt vals
        Serves s (.placeRequest mb tag part .cpt die vals) mb tag [(!there, 6), (vals.any fun v => decide (36 ≤ v.1) || decide (37 < v.2.toNat % 64), 2),
          (dupIn cptSlot t, 3), (vals.any fun v => s.pestle.retired.contains (die, v.2.toNat % 64), 4), (!s.allSaved part, 5)] (s.modDie die fun d => { d with cpt := t })) ∧
       (let t := putEntries pptEntry (s.die die).ppt vals
        Serves s (.placeRequest mb tag part .ppt die vals) mb tag [(!there, 6), (vals.any fun v => decide (6 ≤ v.1) || decide (5 < v.2.toNat % 16) ||
            !(v.2.toNat / 16 % 16 == 0xF || v.2.toNat / 16 % 16 == 0x3 || v.2.toNat / 16 % 16 == 0xC), 2),
          (dupIn pptPort t, 3), (vals.any fun v => s.pestle.retPorts.contains (die, v.2.toNat % 16), 4), (!s.allSaved part, 5)] ((s.modDie die fun d => { d with ppt := t }).relink)) ∧
       (let t := putEntries dptEntry (s.part part).dpt vals
        Serves s (.placeRequest mb tag part .dpt die vals) mb tag [(t.any fun e => e.getLsbD 31 && !(s.partDies part).contains (e.toNat % 4), 6),
          (!dptShape t (s.partDies part).length, 1), (vals.any (fun v => 4 ≤ v.1), 2), (dupIn dptDie t, 3), (!s.allSaved part, 5)]
          (s.modPart part fun p => { p with dpt := t })) ∧
       Serves s (.partopReset mb tag part) mb tag [] (s.resetPart part) ∧
       Serves s (.partopDissolve mb tag part) mb tag [(!(s.ctxsAre part fun c => c.idle || c == .faulted), 5)] ((s.resetPart part).dissolvePart part) ∧
       ((s.partDies part).length ≤ core / 36 → exec (.partopCoreRemap mb tag part core v) s = .next (s.reply mb tag 6 [])) ∧
       (core / 36 < (s.partDies part).length → let d := (s.partDies part).getD (core / 36) 0
         let old := (s.die d).cpt.getD (core % 36) 0
         let r := s.placeCpt part d [(core % 36, v)]
         (r.2 ≠ 0 → exec (.partopCoreRemap mb tag part core v) s = .next (s.reply mb tag r.2 [])) ∧
         (r.2 = 0 → old.getLsbD 31 = true → exec (.partopCoreRemap mb tag part core v) s =
           .next ((r.1.modPestle fun p => { p with retired := p.retired ++ [(d, old.toNat % 64)] }).reply mb tag 0 [])) ∧
         (r.2 = 0 → old.getLsbD 31 = false →
           exec (.partopCoreRemap mb tag part core v) s = .next (r.1.reply mb tag 0 []))) ∧
       (let e := (s.die die).ppt.getD port 0
        let was := e.toNat / 16 % 16
        Serves s (.partopLaneDegrade mb tag part die port lanes) mb tag [(!there, 6), (decide (6 ≤ port) || !e.getLsbD 31 ||
            !(lanes.toNat == 0xF || lanes.toNat == 0x3 || lanes.toNat == 0xC) || lanes &&& ~~~(BitVec.ofNat 4 was) != 0 ||
            lanes.toNat == was, 2), (!s.allSaved part, 5)]
          ((s.modDie die fun d => { d with ppt := modNth d.ppt port fun e => e &&& 0xFFFFFF0F ||| BitVec.ofNat 32 (lanes.toNat * 16) }).modLink
            (.port die (e.toNat % 16)) fun l => if l.st = .down then l else l.train s.time.gtime)) ∧
       Serves s (.kgen mb tag part slot) mb tag [(used.isSome, 7)]
         ((fill (Config.drbgKey s.pestle.drbg)).modPestle fun p => { p with drbg := p.drbg + 1 }) ∧
       (used.isSome = true → exec (.kimport mb tag part slot wrapped) s = .next (s.reply mb tag 7 [])) ∧
       (used = none → unwrapKey wrapped = none → exec (.kimport mb tag part slot wrapped) s = .next (s.reply mb tag 11 [])) ∧
       (∀ k, used = none → unwrapKey wrapped = some k → exec (.kimport mb tag part slot wrapped) s = .next ((fill k).reply mb tag 0 [])) ∧
       (used = none → exec (.kexport mb tag part slot) s = .next (s.reply mb tag 9 [])) ∧
       (∀ k, used = some k → exec (.kexport mb tag part slot) s = .next (s.reply mb tag 0 (wrapKey k))))) ∧
  ((∀ (s : State) (mb mb' : Mailbox) (tag tag' : Word) (part : Nat) (slot : BitVec 6),
     (s.part part).keyDrain.find? (fun e => e.1 == slot.toNat) = some (slot.toNat, mb', tag') → (mb', tag') ≠ (mb, tag) →
     (s.hostUp = false → exec (.krevoke mb tag part slot) s = .next s) ∧
     (s.hostUp = true → (Mailbox.mayName mb part = false ∨ s.formed part = false) → exec (.krevoke mb tag part slot) s = .next (s.reply mb tag 6 [])) ∧
     (s.hostUp = true → Mailbox.mayName mb part = true → s.formed part = true →
       ((slot.toNat, mb, tag) ∈ (s.part part).keyDrain → exec (.krevoke mb tag part slot) s = .next s) ∧
       ((slot.toNat, mb, tag) ∉ (s.part part).keyDrain → exec (.krevoke mb tag part slot) s =
         .next (s.modPart part fun p => { p with keyDrain := p.keyDrain ++ [(slot.toNat, mb, tag)] })))) ∧
   (∀ (s : State) (mb : Mailbox) (tag : Word) (part : Nat) (slot : BitVec 6),
     (s.part part).keyDrain.find? (fun e => e.1 == slot.toNat) = some (slot.toNat, mb, tag) →
     ((s.inReset = true ∨ s.slotBusyKey part slot = true) → exec (.krevoke mb tag part slot) s = .next s) ∧
     (s.inReset = false → s.slotBusyKey part slot = false → part < s.parts.length → slot.toNat < (s.part part).keys.length →
       (∀ e ∈ s.lines, e.2.held = true → e.2.key = slot.toNat → e.1 < 2 ^ 60) →
       ∃ s' : State, exec (.krevoke mb tag part slot) s = .next s' ∧ (s'.part part).keys.getD slot.toNat none = none ∧
         (∀ e ∈ (s'.part part).keyDrain, e.1 ≠ slot.toNat) ∧ (∀ a, s'.memByte a = s.memByte a) ∧
         (∀ l, (s'.line l).held = true → (s'.line l).key = slot.toNat → s.ownsLine part l = false) ∧
         ∃ l a, s'.pestle.answers = l ++ a :: s.pestle.answers ∧ a.mb = mb ∧ a.tag = tag ∧ a.status = 0 ∧
           l.length + 1 = ((s.part part).keyDrain.filter fun e => e.1 == slot.toNat).length ∧ ∀ b ∈ l, b.status = 9) ∧
     (∀ e ∈ s.lines, e.2.held = true → e.2.key = slot.toNat → 2 ^ 60 ≤ e.1 → e.1 / 2 ^ 60 = part + 1 → (s.poolLine part (e.1 % 2 ^ 60)).req.isSome = true →
       s.inReset = false → s.slotBusyKey part slot = false →
       ∃ s' : State, exec (.krevoke mb tag part slot) s = .next s' ∧ (s'.part part).keys = (s.part part).keys ∧ s'.pestle = s.pestle ∧
         (s'.poolLine part (e.1 % 2 ^ 60)).dirty = (s.poolLine part (e.1 % 2 ^ 60)).dirty)) ∧
   ∀ (s : State) (mb : Mailbox) (tag : Word) (part : Nat) (slot : BitVec 6) (k : BitVec 512), s.hostUp = true → part < s.parts.length →
     Mailbox.mayName mb part = true → s.formed part = true → (∀ e ∈ (s.part part).keyDrain, e.1 ≠ slot.toNat) → slot.toNat < (s.part part).keys.length →
     let i : Instr := .krevoke mb tag part slot
     ((s.part part).keys.getD slot.toNat none = none → exec i s = .next (s.reply mb tag 9 [])) ∧
     ((s.part part).keys.getD slot.toNat none = some k → ∃ s' : State, exec i s = .next s' ∧
       (s'.part part).keylive.getLsbD slot.toNat = false ∧ (∀ n, n ≠ slot.toNat → (s'.part part).keylive.getLsbD n = (s.part part).keylive.getLsbD n) ∧
       (∀ x : CtxRef, x.part = part → (s.ctx x).ikey = slot.toNat → (s.ctx x).st.canFault = true → (s'.ctx x).st = .revoked) ∧
       (∀ a, s'.memByte a = s.memByte a) ∧
       ((∀ e ∈ s.cores, e.1.part = part → e.2.mops = [] ∧ e.2.wc = []) →
         (∀ e ∈ s.threads, e.1.part = part → ∀ sc seqs wbs l, e.2.ph ≠ .fence sc seqs wbs (.send l)) →
         (∀ e ∈ s.lines, e.2.held = true → e.2.key = slot.toNat → e.1 < 2 ^ 60) →
         (s'.part part).keys.getD slot.toNat none = none ∧ (∀ c : CoreRef, c.part = part → ∀ l ∈ (s'.core c).l1, l.key ≠ slot.toNat) ∧
         ∃ a, s'.pestle.answers = a :: s.pestle.answers ∧ a.mb = mb ∧ a.tag = tag ∧ a.status = 0)))

/-- R33, R36, R37, R413, R433, R447, R474, R478, R480 to R482, R484, R489: the requests on contexts, windows and configuration, the attestation, and a
request that is none. The answers to a wrong CONFIG index and to a 257th context: the model's choice, log 74. The order of the checks where the spec
gives none: log 57. -/
def Obligations.ContextAndConfigRequests : Prop :=
  ∀ (s : State) (mb : Mailbox) (tag : Word) (part ctx : Nat) (mask val : DWord) (idx4 : BitVec 4) (idx8 : BitVec 8) (nonce : BitVec 256) (req : BitVec 512),
    let x : CtxRef := { part := part, ctx := ctx }
    let all : List Instr := [.kmask mb tag part ctx mask, .ctxsetInstall mb tag part ctx val, .ctxsetDiscard mb tag part ctx, .poolwinRequest mb tag part idx4 val,
      .lidaddrRequest mb tag part val, .configMemcfg mb tag part idx8 val]
    let oper : List Instr := [.configGtepoch mb tag part idx8 val, .configPtpDomain mb tag part idx8 val, .configAsymmetry mb tag part idx8 val]
    (s.hostUp = false → ∀ i ∈ .attest mb tag part nonce :: .hwinRequest mb tag part idx4 val :: .mailboxBadRequest mb req :: (all ++ oper),
      exec i s = .next s) ∧
    (s.hostUp = true → (Mailbox.mayName mb part = false ∨ s.formed part = false) → ∀ i ∈ all, exec i s = .next (s.reply mb tag 6 [])) ∧
    (s.hostUp = true → Mailbox.mayName mb part = false → exec (.hwinRequest mb tag part idx4 val) s = .next (s.reply mb tag 6 [])) ∧
    (s.hostUp = true → Mailbox.isOperator mb = false → ∀ i ∈ oper, exec i s = .next (s.reply mb tag 6 [])) ∧
    (s.hostUp = true → Mailbox.isOperator mb = true →
      Serves s (.configGtepoch mb tag part idx8 val) mb tag [(idx8 != 0, 2), (s.time.everAct, 7)] (s.modTime fun t => { t with epoch := val }) ∧
      Serves s (.configPtpDomain mb tag part idx8 val) mb tag [(idx8 != 0 || decide (127 < val.toNat), 2)]
        (s.modTime fun t => { t with
          domain := val.toNat, masters := List.replicate 24 none, syncs := List.replicate 24 none, follows := List.replicate 24 none, egress := none,
          delay := none, reqOut := false }) ∧
      Serves s (.configAsymmetry mb tag part idx8 val) mb tag [(decide (23 < idx8.toNat) || decide (65535 < val.toNat), 2)]
        (s.modTime fun t => { t with asym := modNth t.asym idx8.toNat fun _ => val.setWidth 16 })) ∧
    (s.hostUp = true → Mailbox.mayName mb part = true → s.formed part = true →
      let base := val.toNat / 2 ^ 16 % 2 ^ 36 * 2 ^ 16
      let size := 2 ^ 16 * 2 ^ (val.toNat / 2 ^ 52 % 16)
      Serves s (.kmask mb tag part ctx mask) mb tag [(!s.ctxExists x, 6)] (s.modCtx x fun y => { y with keymask := mask }) ∧
      ((s.ctx x).st.idle = false → (s.ctx x).st ≠ .revoked → (s.ctx x).st ≠ .faulted →
        exec (.ctxsetDiscard mb tag part ctx) s = .next (s.reply mb tag 5 [])) ∧
      (((s.ctx x).st.idle = true ∨ (s.ctx x).st = .revoked ∨ (s.ctx x).st = .faulted) → ∃ s1 : State,
        exec (.ctxsetDiscard mb tag part ctx) s = .next (s1.reply mb tag 0 []) ∧ (s1.ctx x).st = .empty ∧ (s1.ctx x).ctxsa.getLsbD 63 = false ∧
        (∀ a, s1.memByte a = s.memByte a) ∧ s1.threads = s.threads) ∧
      let used (s0 : State) := leNat (s0.saRead x 0 256).2 / 2 ^ 576 % 2 ^ 64
      ((s.ctx x).st ≠ .empty → (s.ctx x).st ≠ .saved → s.areaLocal part (val.toNat / 2 ^ 16 % 2 ^ 36 * 2 ^ 16) (used s) = true →
        exec (.ctxsetInstall mb tag part ctx val) s = .next (s.reply mb tag 5 [])) ∧
      (let s0 := s.setCtx x { Ctx.reset with
         ctxsa := val &&& 0x7F0FFFFFFFFF0000 ||| 0x8000000000000000, st := .saved, keymask := (s.ctx x).keymask }
       (s.ctx x).st = .empty → s.areaLocal part (val.toNat / 2 ^ 16 % 2 ^ 36 * 2 ^ 16) (used s0) = true → s0.imageOk x = true →
       (s.ctxs.filter fun e => e.1.part == part && e.1 != x && e.2.ctxsa.getLsbD 63).length < 256 → ∃ s1 : State,
         exec (.ctxsetInstall mb tag part ctx val) s = .next (s1.reply mb tag 0 []) ∧ (s1.ctx x).st = .saved ∧ (s1.ctx x).ctxsa.getLsbD 63 = true ∧
         (s1.ctx x).keymask = (s.ctx x).keymask ∧ s1.threads = s.threads ∧ ∀ a, s1.memByte a = s.memByte a) ∧
      (let sa := val &&& 0x7F0FFFFFFFFF0000 ||| 0x8000000000000000
       let y := s.ctx x
       let s0 := if y.st = .empty then s.setCtx x { Ctx.reset with ctxsa := sa, st := .saved, keymask := y.keymask } else s
       let base (w : DWord) := w.toNat / 2 ^ 16 % 2 ^ 36
       Serves s (.ctxsetInstall mb tag part ctx val) mb tag [(!s.areaLocal part (base val * 2 ^ 16) (used s0), 6), (!y.st.idle, 5),
         (y.st == .saved && base val != base y.ctxsa, 5), (!s0.imageOk x, 2),
         (y.st == .empty && decide (256 ≤ (s.ctxs.filter fun e => e.1.part == part && e.1 != x && e.2.ctxsa.getLsbD 63).length), 7)]
         ((if y.st = .empty then (s0.saRead x 0 256).1.rekey (areaOwner part (base val * 2 ^ 16)) x else (s0.saRead x 0 256).1).modCtx x
           fun y => y.ofHeader (leNat (s0.saRead x 0 256).2))) ∧
      ((∀ n, s.areaLocal part (val.toNat / 2 ^ 16 % 2 ^ 36 * 2 ^ 16) n = false) → exec (.ctxsetInstall mb tag part ctx val) s = .next (s.reply mb tag 6 [])) ∧
      (part < s.parts.length → ∃ s1 code, exec (.hwinRequest mb tag part idx4 val) s = .next s1 ∧ (s1.part part).hwDrops = 0 ∧
        (∃ a, s1.pestle.answers = a :: s.pestle.answers ∧ a.tag = tag ∧ a.status = code) ∧
        (code = if !s.windowInside part base size then 6 else if base % size != 0 then 2 else 0) ∧
        (code ≠ 0 → (s1.part part).hwin = (s.part part).hwin) ∧
        (code = 0 → (s1.part part).hwin = modNth (s.part part).hwin idx4.toNat fun _ => val &&& 0xFFFFFFFFFFFF0000)) ∧
      (let v := val &&& 0xE3FFFFFFFFFFFFFF
       let cls := v.toNat / 2 ^ 61 % 4
       let lo (w : DWord) := w.toNat % 2 ^ 22
       let n (w : DWord) := w.toNat / 2 ^ 22 % 2 ^ 18
       Serves s (.poolwinRequest mb tag part idx4 val) mb tag
         [(v.getLsbD 63 && (cls == 3 || n v == 0), 2),
          (v.getLsbD 63 && (s.part part).poolwin.zipIdx.any fun e => e.2 != idx4.toNat && e.1.getLsbD 63
             && decide (lo e.1 < lo v + n v) && decide (lo v < lo e.1 + n e.1), 3)]
         (s.modPart part fun p => { p with poolwin := modNth p.poolwin idx4.toNat fun _ => v })) ∧
      (let v := val &&& 0x800FFFFFFFFFFF80
       Serves s (.lidaddrRequest mb tag part val) mb tag [(v.getLsbD 63 && (s.poolWinOf part (v.toNat % 2 ^ 52)).isNone, 2)]
         (s.modPart part fun p => { p with lidaddr := v })) ∧
      Serves s (.configMemcfg mb tag part idx8 val) mb tag [(idx8 != 0 || val &&& 0xFFFFFFFFFF0000F8 != 0, 2), (!s.allSaved part, 5)]
        (s.modPart part fun p => { p with memcfg := val.setWidth 32 })) ∧
    (s.hostUp = true → (Mailbox.isOperator mb = true ∨ (Mailbox.mayName mb part = true ∧ s.formed part = true)) →
      (1048576 ≤ s.pestle.sigcnt → exec (.attest mb tag part nonce) s = .next (s.reply mb tag 10 [])) ∧
      (s.pestle.sigcnt < 1048576 → ∃ (s1 : State) (body : List Byte), exec (.attest mb tag part nonce) s = .next (s1.reply mb tag 0 (body ++ leBytes (Config.hssSign s.pestle.sigcnt body).toNat 5076)) ∧
        s1.pestle.sigcnt = s.pestle.sigcnt + 1 ∧ s1.threads = s.threads ∧ body.length = 192 ∧ leNat body / 2 ^ 1280 = nonce.toNat)) ∧
    (let r := req.toNat
     let bad := r % 256 = 0 ∨ 13 < r % 256 ∨ r / 2 ^ 10 % 2 ^ 22 ≠ 0 ∨
       (r % 256 = 13 ∧ (r / 2 ^ 64 % 256 = 0 ∨ 4 < r / 2 ^ 64 % 256 ∨ r / 2 ^ 80 % 2 ^ 48 ≠ 0))
     s.hostUp = true → (bad → exec (.mailboxBadRequest mb req) s = .next (s.reply mb (BitVec.ofNat 32 (r / 2 ^ 32)) 8 [])) ∧
       (¬ bad → exec (.mailboxBadRequest mb req) s = .next s)) ∧
    (∀ (bank : Nat) (svn : Word),
      (s.hostUp = true → s.pestle.verifies bank = true → Config.imageSvn (s.pestle.image bank) = svn → (s.pestle.svnMin.getD bank 0).toNat < svn.toNat →
        exec (.svnRaise bank svn) s = .next (s.modPestle fun p => { p with svnMin := modNth p.svnMin bank fun _ => svn })) ∧
      ((s.hostUp = false ∨ s.pestle.verifies bank = false ∨ Config.imageSvn (s.pestle.image bank) ≠ svn ∨ svn.toNat ≤ (s.pestle.svnMin.getD bank 0).toNat) →
        exec (.svnRaise bank svn) s = .next s))

/-- R30, R32, R477, R478, R480: a partition Reset leaves no context of it running and no host window open; Dissolve clears its dies' memory and the
ACTIVE bit of each of its dies, which unforms it; a cold reset keeps what the Pestle's non-volatile storage holds and comes back as after reset, with
what stands in memory under no key that is left (log 56, the model's choice). After a Reset LDIE is the logical number again (log 74, the model's
choice). What a cold reset keeps, and how old ciphertext reads: log 56. -/
def Obligations.PartitionAndPackageResets : Prop :=
  (∀ (s : State) (part : Nat), part < s.parts.length → let r := s.resetPart part
    (r.part part).running = none ∧ (r.part part).next = none ∧ (∀ w ∈ (r.part part).hwin, w = 0) ∧
    (∀ x : CtxRef, x.part = part → (s.ctx x).st.canFault = true → (r.ctx x).st = .faulted ∨ (r.ctx x).st = .saved) ∧
    (∀ d, (r.partDies d) = (s.partDies d)) ∧
    (∀ a, zeroised (s.partDies part) a = true → (r.dissolvePart part).memByte a = 0) ∧
    (∀ a, zeroised (s.partDies part) a = false → (r.dissolvePart part).memByte a = r.memByte a) ∧ (r.dissolvePart part).formed part = false ∧
    (∀ d ∈ s.partDies part, d < s.dies.length → ((r.dissolvePart part).die d).diepart = (r.die d).diepart &&& 0x7FFFFFFF) ∧
    (∀ i d, (s.partDies part)[i]? = some d → (s.partDies part).Nodup → i < 4 → (r.die d).diepart.toNat / 16 % 4 = i)) ∧
  (∀ s : State, ∃ t : State, exec .coldReset s = .next t ∧ t.threads = [] ∧ t.groups = [] ∧ t.ctxs = [] ∧ t.time = State.reset.time ∧ t.parts = State.reset.parts ∧
    t.links = State.reset.links ∧ t.issueQ = [] ∧ t.pestle.svnMin = s.pestle.svnMin ∧ t.pestle.sigcnt = s.pestle.sigcnt ∧ t.pestle.drbg = s.pestle.drbg ∧
    t.mem = s.mem ∧ (∀ c ∈ s.mem, Tab.get 0 t.keyTag (c.1 / 64) = lostTag) ∧ t.pestle.retired = s.pestle.retired ∧ t.pestle.retPorts = s.pestle.retPorts ∧ (t.pestle.booted = true ↔ ∀ b < 3, t.pestle.verifies b = true))

/-- R372 to R374, R385: a doorbell sets QTAIL, starts an IDLE queue that has a whole packet and goes to the Ladle pool; Enable takes a DISABLED queue
that R372 allows; Disable stops one, with a packet in progress first; consuming a packet advances QHEAD by its slots. R290, R374 to R384: what taking
the head packet of a queue that is served does, as it stands at HEAD or as it was read when it was held. The refusal rule that applies puts the queue
in ERROR, but a held packet other than a FEED holds on (log 60, DEDUCED); START and FEED hold for a context that is not ACTIVE; SIGNAL, TIMEMARK, NOP,
WAITALL, WAITANY, FEED and START are consumed, or hold, by their own conditions, one that releases or starts once 16 ticks have passed after what
comes before it; INVAL drops the translations of its range first; a packet of another type is left alone; and a context that is gone resets the queue.
An event whose condition does not hold changes nothing: the model's choice, log 2. When a packet is looked at: log 60. -/
def Obligations.QueuesAndPackets : Prop :=
  (∀ (s : State) (q : QRef) (tail : Word), let y := s.queue q
     s.inReset = false → q.part < s.parts.length → q.q < (s.part q.part).queues.length →
     (∃ s' : State, exec (.qtailDoorbell q tail) s = .next s' ∧ (s'.queue q).tail = tail.toNat ∧ (s'.queue q).head = y.head ∧ s'.threads = s.threads ∧
       ((LEvent.doorbell q.q, none) ∈ (s'.part q.part).events ∨ .doorbell q.q ∈ (s'.part q.part).heldEv) ∧
       (y.st ≠ .idle → s'.queue q = { y with tail := tail.toNat, wct := dmax y.wct (s.lastWct q.part) }) ∧
       (y.st = .idle → let z := { y with tail := tail.toNat, wct := dmax y.wct (s.lastWct q.part) }
         (s'.queue q).st = if (s.modQueue q fun _ => z).wholePacket q z then .running else .idle)) ∧
     ((y.en = true ∨ y.st ≠ .disabled ∨ s.queueMayRun q y = false) → exec (.queueEnable q) s = .next s) ∧
     (s.queueMayRun q y = true ↔ (4 ≤ y.qlog ∧ y.qlog ≤ 16 ∧ y.qbase.toNat % (64 * 2 ^ y.qlog) = 0 ∧ y.qbase.toNat < 2 ^ 56 ∧
       s.ctxExists { part := q.part, ctx := y.qctx } = true)) ∧
     (y.en = false → y.st = .disabled → s.queueMayRun q y = true → ∃ s' : State, exec (.queueEnable q) s = .next s' ∧ (s'.queue q).en = true ∧
       (s'.queue q).err = 0 ∧ (s'.queue q).head = y.head ∧ ((s'.queue q).st = .idle ∨ (s'.queue q).st = .running) ∧ s'.threads = s.threads) ∧
     (y.en = false → exec (.queueDisable q) s = .next s) ∧
     (y.en = true → ∃ s' : State, exec (.queueDisable q) s = .next s' ∧ (s'.queue q).en = false ∧ (s'.queue q).head = y.head ∧
       (y.inval = none → (s'.queue q).st = .disabled ∧ (s'.queue q).hold = 0) ∧ (∀ m, y.inval = some m → s'.queue q = { y with en := false })) ∧
     (∀ bs, (s.part q.part).traceEn = false → let z := (s.consume q bs).queue q
       let n := (bs.getD 1 0).toNat % 4 + 1
       z.head = (y.head + n) % 2 ^ 32 ∧ z.hold = 0 ∧ z.inval = none ∧ (y.en = false → z.st = .disabled) ∧
       (y.en = true → z.st = .running ∨ z.st = .idle) ∧ z.err = y.err ∧ y.wct.toNat ≤ z.wct.toNat)) ∧
  (∀ (s s1 : State) (q : QRef) (bs : List Byte), let y := s.queue q
     let x : CtxRef := { part := q.part, ctx := y.qctx }
     let gone := (s.ctx x).st = .empty ∨ (s.ctx x).st = .revoked ∨ (s.ctx x).st = .faulted
     let p := leNat bs
     let type := p % 256
     let d := pkDecode p
     let takers : List (Nat × Instr) := [(1, .packetStart q), (2, .packetFeed q), (3, .packetSignal q), (4, .packetWaitall q), (5, .packetWaitany q),
       (6, .packetTimemark q), (7, .packetInval q), (8, .packetNop q)]
     let ran (n : Nat) (s' : State) : Prop := ∀ e ∈ takers, e.1 = n → exec e.2 s = .next s'
     let held := y.st = .blocked
     s.inReset = false →
     ((s.served q = false ∨ y.inval ≠ none ∨ (y.st ≠ .running ∧ y.st ≠ .blocked)) → ∀ e ∈ takers, exec e.2 s = .next s) ∧
     (s.served q = true → y.inval = none → (y.st = .running ∨ y.st = .blocked) →
       (gone → ∀ e ∈ takers, exec e.2 s = .next (s.modQueue q Queue.reset')) ∧
       (¬ gone → ¬ held → s.wholePacket q y = false → ∀ e ∈ takers, exec e.2 s = .next (s.modQueue q fun y => { y.settled with st := .idle })) ∧
       (∀ m, ¬ gone → s.wholePacket q y = true → ¬ held → s.headPacket q y = (s1, .error m) → m ≠ .wait →
         ∀ e ∈ takers, exec e.2 s = .next (s.modQueue q fun y => y.fail 4)) ∧
       (¬ gone → (held ∨ s.wholePacket q y = true) → (¬ held → s.headPacket q y = (s1, .ok bs)) → (held → s1 = s ∧ bs = y.held) → s1.parts = s.parts →
       let waits := (type = 1 ∨ type = 2) ∧ (s.ctx x).st ≠ .active
       let refused := ¬ held ∧ s1.pkRefusal x p ≠ 0
       let past := y.wct.toNat + 16 ≤ s1.time.gtime.toNat
       (refused → ∀ e ∈ takers, exec e.2 s = .next (s1.modQueue q fun y => y.fail (s1.pkRefusal x p))) ∧
       (¬ refused → 1 ≤ type → type ≤ 8 → ∀ e ∈ takers, e.1 ≠ type → exec e.2 s = .next s) ∧
       (¬ refused → waits → ∀ e ∈ takers, e.1 = type → exec e.2 s = .next (s1.holdPacket q 4 [] bs)) ∧
       let w := if y.st = .blocked then s1.modQueue q fun z => { z with st := .running } else s1
       (¬ waits → ¬ refused →
         (type = 8 → ran 8 (w.consume q bs)) ∧
         ((type = 1 ∨ type = 2 ∨ type = 3) → ¬ past → ran type s1) ∧
         (∀ add v a s2, type = 3 → d = .signal add v a → past →
           (w.frontSignal x a add v = (s2, .ok ()) → ran 3 (s2.consume q bs)) ∧
           (∀ m, w.frontSignal x a add v = (s2, .error (.fault m)) →
             (held → ran 3 (w.modQueue q fun z => { z with st := .blocked, todo := false })) ∧ (¬ held → ran 3 (w.modQueue q fun y => y.fail 4)))) ∧
         (∀ virt a b, type = 6 → d = .timemark virt a b →
           (a ≠ 0 → ¬ past → ran 6 s1) ∧
           ((a = 0 ∨ past) → b ≠ 0 → s1.time.gtime.toNat < b → ran 6 (w.holdPacket q 3 [] bs)) ∧
           ((b = 0 ∨ b ≤ s1.time.gtime.toNat) → a = 0 → ran 6 (w.consume q bs)) ∧
           (∀ s2, (b = 0 ∨ b ≤ s1.time.gtime.toNat) → a ≠ 0 → past →
             w.frontWrite x a (leBytes (if virt then s1.ctxVtime x s1.time.gtime else s1.time.gtime).toNat 8) true = (s2, .ok ()) →
               ran 6 (s2.consume q bs))) ∧
         (∀ all es s2 m, (type = 4 ∨ type = 5) → d = .wait all es → w.waitReads x es = (s2, .error (.fault m)) →
           ran type (s2.holdPacket q 1 (s2.waitWatch x es) bs)) ∧
         (∀ all es s2 vs, (type = 4 ∨ type = 5) → d = .wait all es → w.waitReads x es = (s2, .ok vs) →
           let meets := (es.zip vs).map fun e => holds e.1.2.2 e.2.1 e.1.2.1
           (all = (type == 4)) ∧
           ((if all then ∀ m ∈ meets, m = true else ∃ m ∈ meets, m = true) →
             ran type (((es.zip vs).foldl (fun s e => s.trace x 2 e.1.1 e.2.1 0) s2).consume q bs)) ∧
           (¬ (if all then ∀ m ∈ meets, m = true else ∃ m ∈ meets, m = true) → ran type (s2.holdPacket q 1 (vs.map (·.2)) bs))) ∧
         (∀ n h a k, type = 2 → d = .feed n h a → past → s1.feedTarget x h = some k → k.2.qcap < k.2.count + n → ran 2 (w.holdPacket q 2 [] bs)) ∧
         (∀ n h a, type = 2 → d = .feed n h a → past → s1.feedTarget x h = none → ran 2 (w.modQueue q fun y => y.fail 5)) ∧
         (∀ n h a k s2 ds s3, type = 2 → d = .feed n h a → past → s1.feedTarget x h = some k → k.2.count + n ≤ k.2.qcap →
           w.frontRead x 16 .read a n = (s2, .ok ds) → (s2.traceInput x a ds).feedAll k.1 (recordsOf ds n) = some s3 → ran 2 (s3.consume q bs)) ∧
         (∀ r s2 rs, type = 1 → d = .start r → past → w.frontRead x 128 .read r 1 = (s2, .ok rs) → let s3 := s2.traceInput x r rs
           (lrDecided (leNat rs) = true → ran 1 (s3.consume q bs)) ∧
           (∀ s4 code k s5, lrDecided (leNat rs) = false → s3.decideLaunch x r = (s4, .status code k) → s4.launched x r code k = some s5 →
             ran 1 (s5.consume q bs))) ∧
         (∀ n b e, type = 7 → d = .inval n b e → ∃ s2, ran 7 s2 ∧ (s1.queue q = y → q.part < s1.parts.length → q.q < (s1.part q.part).queues.length →
             (s2.queue q).held = bs ∧ (s2.queue q).inval ≠ none) ∧
           ∀ c : CoreRef, c.part = q.part → ∀ l ∈ (s2.core c).tlb, l.ctx = (s1.queue q).qctx →
           let lo := if n = 0 then 0 else b
           let hi := if n = 0 then 2 ^ 56 else b + 2 ^ 16 * n
           hi ≤ l.vpn * 2 ^ levelShift l.level ∨ (l.vpn + 1) * 2 ^ levelShift l.level ≤ lo)))))

/-- R290, R380, R381, R385 to R387: an INVAL ends once every older access has been performed, and adds to its signal once 16 ticks have passed after
those; a held packet is looked at again when a write to a signal, its instant, its kernel's queue or its context allows, or every 10 µs; a pending
event whose lock is free goes to an idle Ladle core whose die's host link is up, and its completion frees both; a handler that runs beyond 1 ms starts
again from the verified image, with its event first. An event whose condition does not hold changes nothing: the model's choice, log 2. When a handler
may complete: log 60. -/
def Obligations.LadlePool : Prop :=
  (∀ (s : State) (q : QRef), let y := s.queue q
    let x : CtxRef := { part := q.part, ctx := y.qctx }
    (y.inval = none → exec (.invalComplete q) s = .next s) ∧
    (∀ m, y.inval = some m → s.invalSettled x m = false → exec (.invalComplete q) s = .next s) ∧
    (∀ m n b d, y.inval = some m → s.inReset = false → s.served q = true → s.invalSettled x m = true → pkDecode (leNat y.held) = .inval n b d →
      let s1 := s.releaseMigrate x (if n = 0 then 0 else b) (if n = 0 then 2 ^ 56 else b + 2 ^ 16 * n)
      (d = 0 → exec (.invalComplete q) s = .next (s1.consume q y.held)) ∧
      (d ≠ 0 → s.time.gtime.toNat < y.wct.toNat + 16 → exec (.invalComplete q) s = .next s) ∧
      (∀ s2, d ≠ 0 → y.wct.toNat + 16 ≤ s.time.gtime.toNat → s1.frontSignal x d true 1 = (s2, .ok ()) →
        exec (.invalComplete q) s = .next (s2.consume q y.held))) ∧
    (y.st = .blocked →
      (y.hold = 1 → (s.wakeable q = true ↔ ∃ w ∈ y.watch, (s.line w.1).writes ≠ w.2)) ∧ (y.hold = 4 → (s.wakeable q = true ↔ (s.ctx x).st = .active)) ∧
      (∀ v a b, y.hold = 3 → pkDecode (leNat y.held) = .timemark v a b → (s.wakeable q = true ↔ b ≤ s.time.gtime.toNat)) ∧
      (∀ n h a k, y.hold = 2 → pkDecode (leNat y.held) = .feed n h a → s.feedTarget x h = some k →
        (s.wakeable q = true ↔ k.2.count + n ≤ k.2.qcap))) ∧
    ((s.wakeable q = false → (s.served q = false ∨ y.st ≠ .blocked) → exec (.queueWake q) s = .next s)) ∧
    (s.inReset = false → s.wakeable q = true → s.served q = false → exec (.queueWake q) s = .next (s.ladleEvent q.part (.wake q.q))) ∧
    (s.inReset = false → y.st = .blocked → s.served q = true → exec (.queueWake q) s = .next (s.take q fun _ => true)) ∧
    ((y.st ≠ .blocked ∨ y.hold ≠ 1 ∨ s.time.gtime.toNat < y.evalAt.toNat + 160000) → exec (.waitPeriodicEvaluation q) s = .next s) ∧
    (y.st = .blocked → y.hold = 1 → y.evalAt.toNat + 160000 ≤ s.time.gtime.toNat → s.inReset = false →
      (s.served q = false → exec (.waitPeriodicEvaluation q) s = .next (s.ladleEvent q.part (.wake q.q))) ∧
      (s.served q = true → exec (.waitPeriodicEvaluation q) s = .next (s.take q fun _ => true)))) ∧
  (∀ (s : State) (part n : Nat), let p := s.part part
    (p.ladles[n]? ≠ some none → exec (.eventDispatch part n) s = .next s) ∧ (p.nextEvent = none → exec (.eventDispatch part n) s = .next s) ∧
    (s.ladleLinked part n = false → exec (.eventDispatch part n) s = .next s ∧ exec (.handlerComplete part n) s = .next s) ∧
    (s.ladleLinked part n = true ↔ ∃ d, (s.partDies part)[n / 3]? = some d ∧
      ((s.link (.d2d (4 + d))).st = .up ∨ (s.link (.d2d (4 + d))).st = .degraded)) ∧
    (∀ e, p.ladles[n]? = some none → p.nextEvent = some e → s.ladleLinked part n = true → s.inReset = false → part < s.parts.length → (∀ v ∈ p.events, v.2 ≠ some n) →
      ∃ s' : State, exec (.eventDispatch part n) s = .next s' ∧ (s'.part part).ladles[n]? = some (some s.time.gtime) ∧
        (s'.part part).handled n = some e ∧ s'.threads = s.threads ∧
        (∀ l, e.lock = some l → ∀ v ∈ p.events, v.2.isSome = true → v.1.lock ≠ some l)) ∧
    (p.handled n = none → exec (.handlerComplete part n) s = .next s ∧ exec (.ladleWatchdog part n) s = .next s) ∧
    (∀ e, p.handled n = some e → s.inReset = false → s.ladleLinked part n = true → part < s.parts.length →
      (∀ q, e.queue = some q → (s.queue { part := part, q := q }).todo = true → exec (.handlerComplete part n) s = .next s) ∧
      ((∀ q, e.queue = some q → (s.queue { part := part, q := q }).todo = false) → ∃ s' : State, exec (.handlerComplete part n) s = .next s' ∧
        (n < p.ladles.length → (s'.part part).ladles[n]? = some none) ∧ (s'.part part).handled n = none ∧ s'.threads = s.threads)) ∧
    (∀ (e : LEvent) (t : DWord), p.handled n = some e → p.ladles[n]? = some (some t) → s.inReset = false → part < s.parts.length → s.pestle.verifies 2 = true →
      (s.time.gtime.toNat ≤ t.toNat + 16000000 → exec (.ladleWatchdog part n) s = .next s) ∧
      (t.toNat + 16000000 < s.time.gtime.toNat → ∃ s' r, exec (.ladleWatchdog part n) s = .next s' ∧ (s'.part part).events.head? = some (e, none) ∧
        (s'.part part).ladles[n]? = some none ∧ (s'.part part).ladleMem[n]? = some s.pestle.ladleImg ∧ (s'.part part).handled n = none ∧ r ∈ (s'.part part).mc ∧ r.extractLsb' 184 8 = 8)))

/-- R26, R27, R436, R437, R499: the states of a link: it trains when enabled, ends UP, DEGRADED or QUIESCED by its lanes and its partition, fails
after 10 ms, tries again 1 ms later, and trains again at the sixteenth bad replay in a row; a packet on a closed link is discarded, counted and
recorded. R437, R439, R441: a tick at a fabric port. With nothing queued nothing happens; credits come back; while a flit is on the wire, and where no
class is ready, no flit leaves; else one flit leaves of the first ready class, timing before management before response before request, collective and
parameter in rotation, with a credit of its class, and is on the wire for 10 ticks; a packet has left with its last flit, its BORN set at its first.
How many credits come back is a free value (log 71). The first flit of a Delay_Req takes its egress timestamp (R451). R36, R438 to R446, R450, R499:
packets and requests of the fabric. A packet with a reserved field, one born a millisecond ago in pod time, one for another partition, and an answer
to nothing are dropped and counted; an Announce message of the domain is kept for its port; data answers its request and frees its tag, but brings
nothing where it is for another context or generation; the acknowledgement of a writeback gives its completion time to the fences that wait; a request
without an answer joins a port's queue once more, the same where there is no other, and then fails, poisoning its line; and a bank of the affinity
table is written only while inactive and flips at its time on each die. Where a resend counts its time from: log 58; the port: log 10 (both DEDUCED).
An event whose condition does not hold changes nothing: the model's choice, log 2. What the model does with packets that ask something of it, and with
stale data: log 58. -/
def Obligations.LinksAndFabric : Prop :=
  (∀ (s : State) (l : LinkRef) (lanes : BitVec 4), s.inReset = false →
     let x := s.link l
     let now := s.time.gtime
     let goes (i : Instr) (y : Link) : Prop := exec i s = .next (s.modLink l fun _ => y)
     let stays (i : Instr) : Prop := exec i s = .next s
     ((s.linkEnabled l = false ∨ x.en = true) → stays (.linkEnable l)) ∧
     (s.linkEnabled l = true → x.en = false → x.st = .down →
       goes (.linkEnable l) { x with en := true, st := .training, since := now, retrains := 0, replays := 0 }) ∧
     (s.linkEnabled l = true → x.en = false → x.st ≠ .down → goes (.linkEnable l) { x with en := true, retrains := 0 }) ∧
     ((x.st ≠ .training ∨ s.widthOk l lanes = false) → stays (.linkTrained l lanes)) ∧
     (x.st = .training → s.widthOk l lanes = true → goes (.linkTrained l lanes) { x with
       lanes := lanes, since := now, replays := 0, st := if s.portQuiet l then .quiesced else if lanes = 15 then .up else .degraded }) ∧
     ((x.st ≠ .training ∨ now.toNat < x.since.toNat + 160000000) → stays (.linkTrainFail l)) ∧
     (x.st = .training → x.since.toNat + 160000000 ≤ now.toNat → goes (.linkTrainFail l) { x with st := .down, since := now, lanes := 0 }) ∧
     ((x.st ≠ .down ∨ x.en = false ∨ now.toNat < x.since.toNat + 16000000) → stays (.linkRetrainTimer l)) ∧
     (x.st = .down → x.en = true → s.linkEnabled l = true → x.since.toNat + 16000000 ≤ now.toNat →
       goes (.linkRetrainTimer l) { x with st := .training, since := now, retrains := min 63 (x.retrains + 1), replays := 0 }) ∧
     ((x.st = .up ∨ x.st = .degraded ∨ x.st = .quiesced) →
       goes (.flitCrcReplay l true) { x with replays := 0 } ∧
       (x.replays < 15 → goes (.flitCrcReplay l false) { x with replays := x.replays + 1 }) ∧
       (15 ≤ x.replays → goes (.flitCrcReplay l false) { x with st := .training, since := now, retrains := min 63 (x.retrains + 1), replays := 0 })) ∧
     ((x.st = .down ∨ x.st = .training ∨ x.st = .fenced) → ∀ g, stays (.flitCrcReplay l g)) ∧
     (∀ n < 4, let y := s.link (.d2d n)
       (y.fwOpen = true → exec (.closedLinkDiscard n) s = .next s) ∧
       (y.fwOpen = false → ∃ s' : State, exec (.closedLinkDiscard n) s = .next s' ∧ s'.links = (s.modLink (.d2d n) fun y => { y with fwDrops := min 0xFFFF (y.fwDrops + 1) }).links ∧
         s'.threads = s.threads ∧ ∃ r ∈ s'.pestle.mc, r.extractLsb' 184 8 = 2 ∧ r.extractLsb' 208 16 = BitVec.ofNat 16 n))) ∧
  (∀ (s : State) (die port : Nat), let here : LinkRef := .port die port
     let cls (p : QPkt) := p.hdr.toNat / 2 ^ 97 % 8
     let l := (s.creditsReturn die port).link here
     let s' := s.portTick die port
     let l' := s'.link here
     ((s.link here).queue = [] → s' = s) ∧
     (l.queue = (s.link here).queue ∧ l.st = (s.link here).st ∧ ∀ n, (s.link here).credits.getD n 0 ≤ l.credits.getD n 0) ∧
     ((s.link here).queue ≠ [] → s.time.gtime.toNat < l.wire.toNat → s' = s.creditsReturn die port) ∧
     ((s.link here).queue ≠ [] → (∀ n < 6, l.ready n = false) → s' = s.creditsReturn die port) ∧
     (∀ n, n < 6 → l.ready n = true → l.credits.getD n 0 ≠ 0 ∧ (∃ p ∈ l.queue, cls p = n) ∧ l.st ≠ .down ∧ l.st ≠ .training ∧ l.st ≠ .fenced ∧
       (l.st = .quiesced → n = 1 ∨ n = 2 ∨ n = 3)) ∧
     (∀ n, n < 6 → (s.link here).queue ≠ [] → l.wire.toNat ≤ s.time.gtime.toNat → l.ready n = true →
       let turn (a : Nat) := if l.turn = 0 then [0, 4, 5].idxOf a else if l.turn = 1 then [4, 5, 0].idxOf a else [5, 0, 4].idxOf a
       (n ≠ 2 → l.ready 2 = false) → (n ≠ 2 → n ≠ 3 → l.ready 3 = false) → (n = 0 ∨ n = 4 ∨ n = 5 → l.ready 1 = false) →
       (n = 0 ∨ n = 4 ∨ n = 5 → ∀ a, (a = 0 ∨ a = 4 ∨ a = 5) → turn a < turn n → l.ready a = false) →
       ∃ pre p post, l.queue = pre ++ p :: post ∧ cls p = n ∧ (∀ q ∈ pre, cls q ≠ n) ∧
         l'.credits = modNth l.credits n (· - 1) ∧ l'.wire = s.time.gtime + 10 ∧
         l'.turn = (if n = 0 then 1 else if n = 4 then 2 else if n = 5 then 0 else l.turn) ∧
         (p.left = packetFlits p.load → 1 < p.left → ∀ q, l'.queue[pre.length]? = some q → q.hdr.toNat % 2 ^ 64 = (s.dieTime die).toNat) ∧
         (n = 2 → p.left = packetFlits p.load → (p.load.getD 0 0).toNat % 16 = 1 → s'.time.egress = some s.time.gtime) ∧
         (1 < p.left → s'.outbox = s.outbox ∧ ∃ q, l'.queue = pre ++ q :: post ∧ q.left = p.left - 1 ∧ q.load = p.load ∧ cls q = n) ∧
         (p.left ≤ 1 → l'.queue = pre ++ post ∧ ∃ o, s'.outbox = s.outbox ++ [o] ∧ o.die = die ∧ o.port = port ∧ o.load = p.load))) ∧
  (let quiet (s : State) (f : FReq) : Prop := (s.poolLine f.part f.line).want = none ∧ ∀ e ∈ s.threads, e.1.part = f.part → ∀ sc seqs wbs nxt,
     e.2.ph = .fence sc seqs wbs nxt → (f.line, false) ∉ wbs
   (∀ (s : State) (die port : Nat) (hdr : BitVec 256) (load : List Byte),
     let h := hdr.toNat
     let up := (s.link (.port die port)).st = .up ∨ (s.link (.port die port)).st = .degraded ∨ (s.link (.port die port)).st = .quiesced
     let op := h / 2 ^ 100 % 16
     let cls := h / 2 ^ 97 % 8
     let part := h / 2 ^ 94 % 4
     let reserved := 7 < op ∨ 5 < cls ∨ h / 2 ^ 240 ≠ 0 ∨ h / 2 ^ 104 % 2 ^ 14 ≠ 0 ∨ h / 2 ^ 88 % 2 ^ 6 ≠ 0
     let old := s.podOk = true ∧ h % 2 ^ 64 + 16000000 < s.time.gtime.toNat
     let i : Instr := .fabricPacketReceive die port hdr load
     let dropped : Prop := exec i s = .next (s.modLink (.port die port) fun x => { x with drops := min 0xFFFF (x.drops + 1) })
     (¬ up → exec i s = .next s) ∧
     (up → s.inReset = false → ((reserved ∨ old) → dropped) ∧
       (¬ reserved → ¬ old → ((cls = 2 ∧ op ≠ 6) ∨ (cls = 3 ∧ op ≠ 7)) → dropped) ∧
       (¬ reserved → ¬ old → cls = 2 → op = 6 →
         ((load.getD 4 0).toNat ≠ s.time.domain → exec i s = .next s) ∧
         ((load.getD 4 0).toNat = s.time.domain → (load.getD 0 0).toNat % 16 = 11 →
           exec i s = .next (s.modTime fun t => { t with masters := modNth t.masters (die * 6 + port) fun _ => some (masterOf load) })) ∧
         ((load.getD 4 0).toNat = s.time.domain →
           ((load.getD 0 0).toNat % 16 = 0 → exec i s = .next (s.modTime fun t => t.syncArrives (die * 6 + port) load)) ∧
           ((load.getD 0 0).toNat % 16 = 8 → exec i s = .next (s.modTime fun t => t.followArrives (die * 6 + port) load)) ∧
           ((load.getD 0 0).toNat % 16 = 9 → exec i s = .next (s.modTime fun t => t.respArrives (die * 6 + port) load)))) ∧
       (¬ reserved → ¬ old → cls ≠ 2 → cls ≠ 3 →
         (((s.die die).active = false ∨ part ≠ (s.die die).part) → dropped) ∧
         ((s.die die).active = true → part = (s.die die).part →
           (cls ≠ 1 → exec i s = .next s) ∧
           (cls = 1 → (∀ f ∈ s.freqs, ¬ ((f.die = h / 2 ^ 122 % 4 ∨ f.via.1 = h / 2 ^ 122 % 4) ∧ f.tag = h / 2 ^ 224 % 2 ^ 16 ∧ f.part = part)) → dropped) ∧
           (∀ f rest, cls = 1 → s.freqs = f :: rest → (f.die = h / 2 ^ 122 % 4 ∨ f.via.1 = h / 2 ^ 122 % 4) → f.tag = h / 2 ^ 224 % 2 ^ 16 → f.part = part →
             (∀ g ∈ rest, g.tag ≠ f.tag) → f.op = opRD → op = opDATA →
             (h / 2 ^ 72 % 2 ^ 16 ≠ f.hdr.toNat / 2 ^ 72 % 2 ^ 16 ∨ h / 2 ^ 64 % 2 ^ 8 ≠ (s.ctx { part := part, ctx := h / 2 ^ 72 % 2 ^ 16 }).gen.toNat ∨
               (f.held = true ∧ (s.part part).running ≠ some (h / 2 ^ 72 % 2 ^ 16))) → quiet s f →
             exec i s = .next ({ s with freqs := rest }.modPool f.part f.line fun p => { p with req := none })) ∧
           (∀ f rest, cls = 1 → s.freqs = f :: rest → (f.die = h / 2 ^ 122 % 4 ∨ f.via.1 = h / 2 ^ 122 % 4) → f.tag = h / 2 ^ 224 % 2 ^ 16 → f.part = part →
             (∀ g ∈ rest, g.tag ≠ f.tag) → f.op = opRD → op = opDATA → h / 2 ^ 72 % 2 ^ 16 = f.hdr.toNat / 2 ^ 72 % 2 ^ 16 →
             h / 2 ^ 64 % 2 ^ 8 = (s.ctx { part := part, ctx := h / 2 ^ 72 % 2 ^ 16 }).gen.toNat →
             (f.held = true → (s.part part).running = some (h / 2 ^ 72 % 2 ^ 16)) →
             ∃ s' : State, exec i s = .next s' ∧ (∃ more, s'.freqs = rest ++ more) ∧
               (quiet s f → s'.freqs = rest ∧ (s'.poolLine f.part f.line).req = none ∧ s'.threads = s.threads) ∧
               (∀ a, s'.memByte a = s.memByte a) ∧ ∀ k < 128, (s.poolLine f.part f.line).dirty.getD k false = false →
                 (s'.poolLine f.part f.line).bytes.getD k 0 = load.getD k 0) ∧
           (∀ f rest, cls = 1 → s.freqs = f :: rest → (f.die = h / 2 ^ 122 % 4 ∨ f.via.1 = h / 2 ^ 122 % 4) → f.tag = h / 2 ^ 224 % 2 ^ 16 → f.part = part →
             (∀ g ∈ rest, g.tag ≠ f.tag) → f.op = opWR → op = opACK →
             ∃ s' : State, exec i s = .next s' ∧ (∃ more, s'.freqs = rest ++ more) ∧ (∀ a, s'.memByte a = s.memByte a) ∧
               ∀ t x sc seqs wbs nxt, s.thread? t = some x → t.part = f.part → x.ph = .fence sc seqs wbs nxt → (f.line, true) ∈ wbs →
                 ∃ y, s'.thread? t = some y ∧ x.wctmax.toNat ≤ y.wctmax.toNat ∧ h / 2 ^ 160 % 2 ^ 64 ≤ y.wctmax.toNat))))) ∧
   (∀ (s : State) (die : Nat) (tag : BitVec 16),
     (s.reqAt die tag = none → exec (.fabricRequestTimeout die tag) s = .next s ∧ exec (.fabricResendTimeout die tag) s = .next s) ∧
     (∀ f, s.reqAt die tag = some f →
       ((f.resent.isSome = true ∨ s.isQueued f = true ∨ s.time.gtime.toNat < f.sent.toNat + 32000000) → exec (.fabricRequestTimeout die tag) s = .next s) ∧
       (∀ d p, s.inReset = false → f.resent = none → f.sent.toNat + 32000000 ≤ s.time.gtime.toNat → s.isQueued f = false →
         s.resendPort f = (d, p) → d < s.dies.length → p < (s.die d).ports.length →
         ((d, p) ≠ f.via → (s.link (.port d p)).st.carries = true) ∧
         ((d, p) = f.via → hClass f.hdr.toNat = 0 → ∀ q ∈ s.requestPorts f.part (s.placeDie f.part (.mem (f.line * lineSize) 0 0 true)), q = f.via) ∧
         ∃ s' o, exec (.fabricRequestTimeout die tag) s = .next s' ∧
           (s'.link (.port d p)).queue = (s.link (.port d p)).queue ++ [o] ∧ o.load = f.load ∧ o.hdr.toNat / 2 ^ 124 = f.hdr.toNat / 2 ^ 124 ∧ o.hdr.toNat / 2 ^ 122 % 4 = d % 4 ∧ o.hdr.toNat / 2 ^ 119 % 8 = p % 8 ∧
           ∃ g ∈ s'.freqs, g.die = f.die ∧ g.tag = f.tag ∧ g.via = (d, p) ∧ g.resent.isSome = true) ∧
       (f.resent = none → exec (.fabricResendTimeout die tag) s = .next s) ∧
       (∀ t, f.resent = some t → s.time.gtime.toNat < t.toNat + 32000000 → exec (.fabricResendTimeout die tag) s = .next s) ∧
       (∀ t, f.resent = some t → t.toNat + 32000000 ≤ s.time.gtime.toNat → s.inReset = false → f.part < s.parts.length →
         ∃ s' r, exec (.fabricResendTimeout die tag) s = .next s' ∧ (quiet s f → ∀ g ∈ s'.freqs, g.tag ≠ f.tag) ∧
           (s'.poolLine f.part f.line).poison = [true, true] ∧ r ∈ (s'.part f.part).mc ∧ r.extractLsb' 184 8 = 7))) ∧
   (∀ (s : State) (part : Nat) (swt : DWord) (bank : Bool) (idx : BitVec 6) (v : Byte), let p := s.part part
     s.inReset = false → part < s.parts.length →
     (swt.toNat ≤ s.time.gtime.toNat → exec (.affswWrite part swt) s = .next (s.modPart part fun p => { p with affsw := swt, affPend := false, affAct := !p.affAct })) ∧
     (s.time.gtime.toNat < swt.toNat → exec (.affswWrite part swt) s = .next (s.modPart part fun p => { p with affsw := swt, affPend := true })) ∧
     (bank = p.affAct → exec (.affinityEntryWrite part bank idx v) s = .next s) ∧
     ((∃ d ∈ s.partDies part, s.affActive part d = bank) → exec (.affinityEntryWrite part bank idx v) s = .next s) ∧
     (bank ≠ p.affAct → (∀ d ∈ s.partDies part, s.affActive part d ≠ bank) → exec (.affinityEntryWrite part bank idx v) s = .next (s.modPart part fun p => { p with
       aff := modNth p.aff (if bank then 1 else 0) fun b => modNth b idx.toNat fun _ => v &&& 0x9F })) ∧
     (∀ d, (p.affPend = true → p.affsw.toNat ≤ (s.dieTime d).toNat → s.affActive part d = !p.affAct) ∧
       ((p.affPend = false ∨ (s.dieTime d).toNat < p.affsw.toNat) → s.affActive part d = p.affAct)) ∧
     ((p.affPend = false ∨ ∃ d ∈ s.partDies part, (s.dieTime d).toNat < p.affsw.toNat) → exec (.affinityFlip part) s = .next s) ∧
     (p.affPend = true → (∀ d ∈ s.partDies part, p.affsw.toNat ≤ (s.dieTime d).toNat) →
       exec (.affinityFlip part) s = .next (s.modPart part fun p => { p with affAct := !p.affAct, affPend := false }))))

/-- R4, R9, R12, R26, R372, R373, R390, R411, R438, R472 to R475, R489, R490, R493, R494: a supply warning, 8,000 ticks after its edge, stops the
package, its ramps and its issue, lets pooled stores alone go on to their homes and begins to send dirty pooled lines; the markers follow once these
and the WRs sent before are answered or the time is over, each saying how many lines it lists, how many are acknowledged and whether all are; a host
access goes over the host link of its die through a valid window with a live key, and completes with its bytes, or is refused, counted and completes
with an error; a scrub poisons what it finds uncorrectable; a register write reaches only the fields its writer may write, and a read gives the word
its table lays out, to those it reaches. How the Lid goes on in steps: log 61; the registers' reach: log 63 (both DEDUCED). An event whose condition
does not hold changes nothing: the model's choice, log 2. The package stands still from the warning on: log 61. How a window access completes: log 62.
-/
def Obligations.LidHostAndRegisters : Prop :=
  (∀ s : State,
    ((s.lid.isSome = true ∨ s.inReset = true) → exec .supplyWarn s = .next s) ∧
    (s.lid = none → s.inReset = false → ∃ s' : State, exec .supplyWarn s = .next s' ∧ s'.inReset = true ∧ s'.issueQ = [] ∧
      (∃ l, s'.lid = some l ∧ l.t0 = s.time.gtime - 8000 ∧ (∀ e ∈ l.sent, e.acked = false) ∧ l.marked = false ∧
        l.early = (s.freqs.filter fun f => f.op == opWR).map fun f => (f.part, f.tag)) ∧ s'.time.gtime = s.time.gtime ∧
      ∀ c k, (c, k) ∈ s.cores → (s'.core c).wc = [] ∧ (s'.core c).rampAt = none ∧
        ∀ m ∈ (s'.core c).mops, m.loc.pooled = true ∧ m.kind.writes = true ∧ m.ans = .pending) ∧
    (s.lid = none → exec .lidAckDeadline s = .next s) ∧
    (∀ l, s.lid = some l → l.marked = true → l.marks = [] → exec .lidAckDeadline s = .next s) ∧
    (∀ l, s.lid = some l → l.marked = false → s.time.gtime.toNat < l.t0.toNat + 1600000 → (∀ e ∈ s.pool, e.2.anyDirty = false) →
      (∀ e ∈ s.cores, e.2.mops = [] ∧ e.2.wc = []) →
      let all := l.early = [] ∧ ∀ e ∈ l.sent, e.acked = true
      (¬ all → ∃ s' : State, exec .lidAckDeadline s = .next s' ∧ s'.lid = some l ∧ (∀ a, s'.memByte a = s.memByte a) ∧ s'.freqs = s.freqs) ∧
      (all → ∃ s' : State, ∃ ms, exec .lidAckDeadline s = .next s' ∧ s'.lid = some { l with marked := true, marks := ms } ∧
        (∀ p ∈ ms, p < 4 ∧ (s.part p).lidaddr.getLsbD 63 = true) ∧ ∀ a, s'.memByte a = s.memByte a)) ∧
    (∀ l, s.lid = some l → l.marked = false → l.t0.toNat + 1600000 ≤ s.time.gtime.toNat → ∃ s' : State, ∃ ms, exec .lidAckDeadline s = .next s' ∧
      s'.lid = some { l with marked := true, marks := ms } ∧ (∀ p ∈ ms, p < 4 ∧ (s.part p).lidaddr.getLsbD 63 = true) ∧
      (∀ a, s'.memByte a = s.memByte a) ∧
      ((∀ p < 4, (s.part p).lidaddr.getLsbD 63 = false) → s'.outbox = s.outbox ∧ ∀ f ∈ s'.freqs, f.op ≠ opWR)) ∧
    (∀ l p, p < 4 → let m := leNat (s.marker l p)
      let mine := l.sent.filter fun e => e.part == p
      (s.marker l p).length = 128 ∧ m % 2 ^ 64 = 1 ∧ m / 2 ^ 64 % 2 ^ 16 = (s.lastCtx p).ctx % 2 ^ 16 ∧ m / 2 ^ 80 % 2 ^ 8 = (s.ctx (s.lastCtx p)).gen.toNat ∧
      m / 2 ^ 88 % 4 = p ∧ (m / 2 ^ 92 % 2 = 1 ↔ s.lidWhole l p = true) ∧ m / 2 ^ 192 % 2 ^ 64 = s.time.gtime.toNat ∧
      m / 2 ^ 256 % 2 ^ 32 = (mine.filter (·.acked)).length % 2 ^ 32 ∧ m / 2 ^ 288 % 2 ^ 32 = mine.length % 2 ^ 32) ∧
    (∀ l p, s.lidWhole l p = true ↔ (∀ e ∈ l.sent, e.part = p → e.acked = true) ∧ (∀ e ∈ l.early, e.1 ≠ p) ∧
      (∀ e ∈ s.pool, e.1.1 = p → e.2.anyDirty = false) ∧
      ∀ e ∈ s.cores, e.1.part = p → ∀ m ∈ e.2.mops, m.loc.pooled = true → m.kind.writes = true → m.ans ≠ .pending)) ∧
  (∀ (s : State) (part pa len : Nat) (bs : List Byte), s.inReset = false → s.formed part = true → part < s.parts.length →
    (s.windowOf part pa len = none → ∃ s' : State, exec (.hostWindowAccess part pa none len) s = .next s' ∧
      (s'.part part).hwDrops = min 0xFFFF ((s.part part).hwDrops + 1) ∧ s'.hostAns = (part, pa, none) :: s.hostAns ∧ ∀ a, s'.memByte a = s.memByte a) ∧
    let up := (s.link (hostLink (pa / 0x3000000000))).st.carries = true
    (¬ up → ∀ n w write, s.windowOf part pa (match write with | some b => b.length | none => len) = some (n, w) →
      exec (.hostWindowAccess part pa write len) s = .next s) ∧
    (∀ n w, up → s.windowOf part pa len = some (n, w) → (s.part part).keylive.getLsbD (w.toNat / 2 ^ 56 % 64) = false →
      ∃ s' : State, exec (.hostWindowAccess part pa none len) s = .next s' ∧ (∀ a, s'.memByte a = s.memByte a) ∧
        s'.hostAns = (part, pa, none) :: s.hostAns ∧ (s'.part part).hwDrops = min 0xFFFF ((s.part part).hwDrops + 1)) ∧
    (∀ n w s1 bs, up → s.windowOf part pa len = some (n, w) → (s.part part).keylive.getLsbD (w.toNat / 2 ^ 56 % 64) = true →
      s.homeBytes part (.mem pa (w.toNat / 2 ^ 56 % 64) 0 false) len = (s1, bs) →
      exec (.hostWindowAccess part pa none len) s = .next { s1 with hostAns := (part, pa, some bs) :: s1.hostAns }) ∧
    (∀ n w, up → s.windowOf part pa bs.length = some (n, w) → (w.getLsbD 62 = false ∨ (s.part part).keylive.getLsbD (w.toNat / 2 ^ 56 % 64) = false) →
      ∃ s' : State, exec (.hostWindowAccess part pa (some bs) len) s = .next s' ∧ (∀ a, s'.memByte a = s.memByte a) ∧
        s'.hostAns = (part, pa, none) :: s.hostAns ∧ (s'.part part).hwDrops = min 0xFFFF ((s.part part).hwDrops + 1)) ∧
    (∀ n w, up → s.windowOf part pa bs.length = some (n, w) → w.getLsbD 62 = true → (s.part part).keylive.getLsbD (w.toNat / 2 ^ 56 % 64) = true →
      pa % 128 + bs.length ≤ 128 → bs ≠ [] →
      ∃ s' : State, exec (.hostWindowAccess part pa (some bs) len) s = .next s' ∧ s'.threads = s.threads ∧ s'.hostAns = (part, pa, some []) :: s.hostAns ∧
        ∀ k < bs.length, s'.memByte (pa + k) = bs.getD k 0)) ∧
  (∀ (s : State) (unc : Bool), s.inReset = false →
    (∀ pa, ∃ s' : State, exec (.patrolScrub (.mem pa) unc) s = .next s' ∧ (∀ a, s'.memByte a = s.memByte a) ∧ s'.threads = s.threads ∧
      (unc = false → s'.poison = s.poison) ∧ (unc = true → Tab.get false s'.poison (pa / 64) = true)) ∧
    (∀ t x (r : VReg), s.thread? t = some x → ∃ s' : State, exec (.patrolScrub (.reg t r) unc) s = .next s' ∧ s'.threads = s.threads ∧
      (unc = true → (t, r.toNat) ∈ s'.regPois) ∧ (unc = false → s'.regPois = s.regPois)) ∧
    (∀ t x (p : PReg), s.thread? t = some x → ∃ s' : State, exec (.patrolScrub (.pred t p) unc) s = .next s' ∧ s'.threads = s.threads ∧
      (unc = true → (t, 128 + p.toNat) ∈ s'.regPois) ∧ (unc = false → s'.regPois = s.regPois)) ∧
    (∀ c off, (s.holding c).bankLive (off / 0x8000) = true → ∃ s' : State, exec (.patrolScrub (.scratch c off) unc) s = .next s' ∧
      (unc = true → (c, off / 8) ∈ s'.scrPois) ∧ (unc = false → s'.scrPois = s.scrPois)) ∧
    (∀ c line word, ((∀ l ∈ (s.core c).l1, l.line ≠ line) ∨ 16 ≤ word) → exec (.patrolScrub (.l1 c line word) unc) s = .next s) ∧
    (∀ c line word, (∃ l ∈ (s.core c).l1, l.line = line) → word < 16 → ∃ s' : State, exec (.patrolScrub (.l1 c line word) unc) s = .next s' ∧
      s'.threads = s.threads ∧ (∀ a, s'.memByte a = s.memByte a) ∧ (unc = false → (s'.core c).l1 = (s.core c).l1) ∧
      (unc = true → ∀ l ∈ (s'.core c).l1, l.line = line → word ∈ l.pois)) ∧
    (∀ c word, ((s.holding c).tiles.any fun t => t.1 == word / 8192) = true → ∃ s' : State, exec (.patrolScrub (.acc c word) unc) s = .next s' ∧
      (unc = true → (c, word) ∈ s'.accPois) ∧ (unc = false → s'.accPois = s.accPois))) ∧
  (∀ (s : State) (w : Writer) (part : Nat), let word (r : RegName) (v : DWord) := s.readReg w part r = some v
    (∀ r, Writer.reaches w part = false → s.readReg w part r = none) ∧
    (∀ r, Writer.isPestle w = true → (s.readReg w part r).isSome = true) ∧
    (∀ l, Writer.isPestle w = false → s.readReg w part (.fwlink l) = none) ∧
    (∀ l v, word (.portstat l) v → let x := s.link l
      let code := match x.st with | .down => 0 | .training => 1 | .up => 2 | .degraded => 3 | .quiesced => 4 | .fenced => 5
      v.toNat % 16 = code ∧ v.toNat / 2 ^ 4 % 16 = x.lanes.toNat ∧ v.toNat / 2 ^ 8 % 2 ^ 16 = min x.drops 0xFFFF ∧ v.toNat / 2 ^ 24 = min x.retrains 63) ∧
    (∀ q v, word (.qctl q) v → let y := s.queue { part := part, q := q }
      let code := match y.st with | .disabled => 0 | .idle => 1 | .running => 2 | .blocked => 3 | .error => 4
      v.toNat % 32 = y.qlog % 32 ∧ v.toNat / 2 ^ 12 % 16 = (if y.st = .blocked then y.hold % 16 else 0) ∧ v.toNat / 2 ^ 16 % 256 = y.err % 256 ∧
        v.toNat / 2 ^ 24 % 8 = code ∧ v.getLsbD 31 = y.en) ∧
    (∀ n v, word (.ctxstat n) v → let y := s.ctx { part := part, ctx := n }
      v.toNat / 2 ^ 16 = n % 2 ^ 16 ∧ v.toNat / 2 ^ 8 % 2 ^ 8 = y.gen.toNat ∧ (y.st = .active → v.toNat % 2 ^ 8 = 3) ∧ (y.st = .empty → v.toNat % 2 ^ 8 = 0))) ∧
  (∀ (s : State) (w : Writer) (part q : Nat) (v : DWord), s.inReset = false → let y := s.queue { part := part, q := q }
    (Writer.reaches w part = false → ∀ r, exec (.registerWrite w part r v) s = .next s) ∧
    (Writer.reaches w part = true →
      (∀ r, r ∈ [RegName.tcount, .memcfg, .keylive, .hwstat, .lidaddr, .affctl, .gtime, .epsilon, .timestat] → exec (.registerWrite w part r v) s = .next s) ∧
      (let r : QRef := { part := part, q := q }
       let s1 := s.modQueue r fun y => if y.en then y else { y with qlog := v.toNat % 32 }
       exec (.registerWrite w part (.qctl q) v) s = if v.getLsbD 31 then exec (.queueEnable r) s1 else exec (.queueDisable r) s1) ∧
      (Writer.isHost w = true → exec (.registerWrite w part .tracecfg v) s = .next (s.modPart part fun p => { p with
        traceOvf := p.traceOvf && !v.getLsbD 30, tlog := if p.traceEn then p.tlog else v.toNat % 32,
        tcount := if v.getLsbD 31 && !p.traceEn then 0 else p.tcount, traceEn := v.getLsbD 31 })) ∧
      (∀ l < 4, Writer.isPestle w = true → exec (.registerWrite w part (.fwlink l) v) s =
        .next (s.modLink (.d2d l) fun x => { x with fwDrops := x.fwDrops &&& (0xFFFF - v.toNat / 2 ^ 8 % 2 ^ 16) })) ∧
      (∀ l, Writer.isPestle w = false → exec (.registerWrite w part (.fwlink l) v) s = .next s) ∧
      (y.en = false → part < s.parts.length → q < (s.part part).queues.length →
        exec (.registerWrite w part (.qbase q) v) s = .next (s.modQueue { part := part, q := q } fun y => { y with qbase := v &&& 0x00FFFFFFFFFFFFFF }) ∧
        exec (.registerWrite w part (.qctx q) v) s = .next (s.modQueue { part := part, q := q } fun y => { y with qctx := v.toNat % 2 ^ 16 }) ∧
        exec (.registerWrite w part (.qhead q) v) s = .next (s.modQueue { part := part, q := q } fun y => { y with head := v.toNat % 2 ^ 32 })) ∧
      (y.en = true → ∀ r, r ∈ [RegName.qbase q, .qctx q, .qhead q] → exec (.registerWrite w part r v) s = .next s)))
end

