-- ==== Sys2Proof/Laws/Codec.lean ====
section
/-! SUPPORT. Reading back what the encoder writes: each field of a body and of a word, each operand class and each code (R84 to R88, R98 to
R106). -/
namespace Sys2Proof.Laws
open Sys2Proof

/-! ### A field of a concatenation -/

theorem ext_hi {w v : Nat} (x : BitVec w) (y : BitVec v) (s l : Nat) (h : v ≤ s) : (x ++ y).extractLsb' s l = x.extractLsb' (s - v) l :=
  BitVec.extractLsb'_append_eq_of_le h
theorem ext_lo {w v : Nat} (x : BitVec w) (y : BitVec v) (s l : Nat) (h : s + l ≤ v) : (x ++ y).extractLsb' s l = y.extractLsb' s l :=
  BitVec.extractLsb'_append_eq_of_add_le h
theorem ext_all {w : Nat} (x : BitVec w) : x.extractLsb' 0 w = x := by simp

/-- A bit read as a field of width 1. -/
theorem getLsbD_of_ext {w : Nat} {x : BitVec w} {k : Nat} {u : Bool} (h : x.extractLsb' k 1 = bit u) : x.getLsbD k = u := by
  have e := congrArg (fun y : BitVec 1 => y.getLsbD 0) h
  simp only [BitVec.getLsbD_extractLsb', Nat.add_zero, Nat.zero_lt_one, decide_true, Bool.true_and] at e
  rw [e]
  cases u <;> rfl

/-! ### Fields of bodies and words -/

theorem fM7_bodyR (m : BitVec 7) (x : BitVec 8) (c b a d : BitVec 12) : fM7 (bodyR m x c b a d) = m :=
  (ext_hi _ d 56 7 (by decide)).trans ((ext_hi _ a 44 7 (by decide)).trans ((ext_hi _ b 32 7 (by decide)).trans ((ext_hi _ c 20 7 (by decide)).trans ((ext_hi _ x 8 7 (by decide)).trans ((ext_all m))))))
theorem fX8_bodyR (m : BitVec 7) (x : BitVec 8) (c b a d : BitVec 12) : fX8 (bodyR m x c b a d) = x :=
  (ext_hi _ d 48 8 (by decide)).trans ((ext_hi _ a 36 8 (by decide)).trans ((ext_hi _ b 24 8 (by decide)).trans ((ext_hi _ c 12 8 (by decide)).trans ((ext_lo _ x 0 8 (by decide)).trans ((ext_all x))))))
theorem fC_bodyR (m : BitVec 7) (x : BitVec 8) (c b a d : BitVec 12) : fC (bodyR m x c b a d) = c :=
  (ext_hi _ d 36 12 (by decide)).trans ((ext_hi _ a 24 12 (by decide)).trans ((ext_hi _ b 12 12 (by decide)).trans ((ext_lo _ c 0 12 (by decide)).trans ((ext_all c)))))
theorem fB_bodyR (m : BitVec 7) (x : BitVec 8) (c b a d : BitVec 12) : fB (bodyR m x c b a d) = b :=
  (ext_hi _ d 24 12 (by decide)).trans ((ext_hi _ a 12 12 (by decide)).trans ((ext_lo _ b 0 12 (by decide)).trans ((ext_all b))))
theorem fA_bodyR (m : BitVec 7) (x : BitVec 8) (c b a d : BitVec 12) : fA (bodyR m x c b a d) = a :=
  (ext_hi _ d 12 12 (by decide)).trans ((ext_lo _ a 0 12 (by decide)).trans ((ext_all a)))
theorem fD_bodyR (m : BitVec 7) (x : BitVec 8) (c b a d : BitVec 12) : fD (bodyR m x c b a d) = d :=
  (ext_lo _ d 0 12 (by decide)).trans ((ext_all d))
theorem fM7_bodyI (m : BitVec 7) (v : BitVec 32) (a d : BitVec 12) : fM7 (bodyI m v a d) = m :=
  (ext_hi _ d 56 7 (by decide)).trans ((ext_hi _ a 44 7 (by decide)).trans ((ext_hi _ v 32 7 (by decide)).trans ((ext_all m))))
theorem fImm_bodyI (m : BitVec 7) (v : BitVec 32) (a d : BitVec 12) : fImm (bodyI m v a d) = v :=
  (ext_hi _ d 24 32 (by decide)).trans ((ext_hi _ a 12 32 (by decide)).trans ((ext_lo _ v 0 32 (by decide)).trans ((ext_all v))))
theorem fA_bodyI (m : BitVec 7) (v : BitVec 32) (a d : BitVec 12) : fA (bodyI m v a d) = a :=
  (ext_hi _ d 12 12 (by decide)).trans ((ext_lo _ a 0 12 (by decide)).trans ((ext_all a)))
theorem fD_bodyI (m : BitVec 7) (v : BitVec 32) (a d : BitVec 12) : fD (bodyI m v a d) = d :=
  (ext_lo _ d 0 12 (by decide)).trans ((ext_all d))
theorem fOrd_bodyM (o : BitVec 3) (v : BitVec 24) (b a d : BitVec 12) : fOrd (bodyM o v b a d) = o :=
  (ext_hi _ d 60 3 (by decide)).trans ((ext_hi _ a 48 3 (by decide)).trans ((ext_hi _ b 36 3 (by decide)).trans ((ext_hi _ v 24 3 (by decide)).trans ((ext_all o)))))
theorem fOff_bodyM (o : BitVec 3) (v : BitVec 24) (b a d : BitVec 12) : fOff (bodyM o v b a d) = v :=
  (ext_hi _ d 36 24 (by decide)).trans ((ext_hi _ a 24 24 (by decide)).trans ((ext_hi _ b 12 24 (by decide)).trans ((ext_lo _ v 0 24 (by decide)).trans ((ext_all v)))))
theorem fB_bodyM (o : BitVec 3) (v : BitVec 24) (b a d : BitVec 12) : fB (bodyM o v b a d) = b :=
  (ext_hi _ d 24 12 (by decide)).trans ((ext_hi _ a 12 12 (by decide)).trans ((ext_lo _ b 0 12 (by decide)).trans ((ext_all b))))
theorem fA_bodyM (o : BitVec 3) (v : BitVec 24) (b a d : BitVec 12) : fA (bodyM o v b a d) = a :=
  (ext_hi _ d 12 12 (by decide)).trans ((ext_lo _ a 0 12 (by decide)).trans ((ext_all a)))
theorem fD_bodyM (o : BitVec 3) (v : BitVec 24) (b a d : BitVec 12) : fD (bodyM o v b a d) = d :=
  (ext_lo _ d 0 12 (by decide)).trans ((ext_all d))
theorem bodyP_z (y x : BitVec 31) : (bodyP y x).extractLsb' 62 1 = 0#1 :=
  (ext_hi _ x 62 1 (by decide)).trans ((ext_hi _ y 31 1 (by decide)).trans ((ext_all 0#1)))
theorem bodyP_y (y x : BitVec 31) : (bodyP y x).extractLsb' 31 31 = y :=
  (ext_hi _ x 31 31 (by decide)).trans ((ext_lo _ y 0 31 (by decide)).trans ((ext_all y)))
theorem bodyP_x (y x : BitVec 31) : (bodyP y x).extractLsb' 0 31 = x :=
  (ext_lo _ x 0 31 (by decide)).trans ((ext_all x))
theorem packWord_maj (h : Hints) (b : BitVec 63) (s : BitVec 4) (m : BitVec 8) : (packWord h b s m).extractLsb' 0 8 = m :=
  (ext_lo _ m 0 8 (by decide)).trans ((ext_all m))
theorem packWord_sub (h : Hints) (b : BitVec 63) (s : BitVec 4) (m : BitVec 8) : (packWord h b s m).extractLsb' 8 4 = s :=
  (ext_hi _ m 8 4 (by decide)).trans ((ext_lo _ s 0 4 (by decide)).trans ((ext_all s)))
theorem packWord_gp (h : Hints) (b : BitVec 63) (s : BitVec 4) (m : BitVec 8) : (packWord h b s m).extractLsb' 12 4 = h.gp :=
  (ext_hi _ m 12 4 (by decide)).trans ((ext_hi _ s 4 4 (by decide)).trans ((ext_lo _ h.gp 0 4 (by decide)).trans ((ext_all h.gp))))
theorem packWord_gn (h : Hints) (b : BitVec 63) (s : BitVec 4) (m : BitVec 8) : (packWord h b s m).extractLsb' 16 1 = (bit h.gn) :=
  (ext_hi _ m 16 1 (by decide)).trans ((ext_hi _ s 8 1 (by decide)).trans ((ext_hi _ h.gp 4 1 (by decide)).trans ((ext_lo _ (bit h.gn) 0 1 (by decide)).trans ((ext_all (bit h.gn))))))
theorem packWord_body (h : Hints) (b : BitVec 63) (s : BitVec 4) (m : BitVec 8) : (packWord h b s m).extractLsb' 17 63 = b :=
  (ext_hi _ m 17 63 (by decide)).trans ((ext_hi _ s 9 63 (by decide)).trans ((ext_hi _ h.gp 5 63 (by decide)).trans ((ext_hi _ (bit h.gn) 1 63 (by decide)).trans ((ext_lo _ b 0 63 (by decide)).trans ((ext_all b))))))
theorem packWord_gap (h : Hints) (b : BitVec 63) (s : BitVec 4) (m : BitVec 8) : (packWord h b s m).extractLsb' 80 3 = h.gap :=
  (ext_hi _ m 80 3 (by decide)).trans ((ext_hi _ s 72 3 (by decide)).trans ((ext_hi _ h.gp 68 3 (by decide)).trans ((ext_hi _ (bit h.gn) 64 3 (by decide)).trans ((ext_hi _ b 63 3 (by decide)).trans ((ext_lo _ h.gap 0 3 (by decide)).trans ((ext_all h.gap)))))))
theorem packWord_yld (h : Hints) (b : BitVec 63) (s : BitVec 4) (m : BitVec 8) : (packWord h b s m).extractLsb' 83 1 = (bit h.yld) :=
  (ext_hi _ m 83 1 (by decide)).trans ((ext_hi _ s 75 1 (by decide)).trans ((ext_hi _ h.gp 71 1 (by decide)).trans ((ext_hi _ (bit h.gn) 67 1 (by decide)).trans ((ext_hi _ b 66 1 (by decide)).trans ((ext_hi _ h.gap 3 1 (by decide)).trans ((ext_lo _ (bit h.yld) 0 1 (by decide)).trans ((ext_all (bit h.yld)))))))))
theorem packWord_wdrop (h : Hints) (b : BitVec 63) (s : BitVec 4) (m : BitVec 8) : (packWord h b s m).extractLsb' 84 8 = h.wdrop :=
  (ext_hi _ m 84 8 (by decide)).trans ((ext_hi _ s 76 8 (by decide)).trans ((ext_hi _ h.gp 72 8 (by decide)).trans ((ext_hi _ (bit h.gn) 68 8 (by decide)).trans ((ext_hi _ b 67 8 (by decide)).trans ((ext_hi _ h.gap 4 8 (by decide)).trans ((ext_hi _ (bit h.yld) 1 8 (by decide)).trans ((ext_lo _ h.wdrop 0 8 (by decide)).trans ((ext_all h.wdrop)))))))))
theorem packWord_ch (h : Hints) (b : BitVec 63) (s : BitVec 4) (m : BitVec 8) : (packWord h b s m).extractLsb' 92 2 = h.ch :=
  (ext_hi _ m 92 2 (by decide)).trans ((ext_hi _ s 84 2 (by decide)).trans ((ext_hi _ h.gp 80 2 (by decide)).trans ((ext_hi _ (bit h.gn) 76 2 (by decide)).trans ((ext_hi _ b 75 2 (by decide)).trans ((ext_hi _ h.gap 12 2 (by decide)).trans ((ext_hi _ (bit h.yld) 9 2 (by decide)).trans ((ext_hi _ h.wdrop 8 2 (by decide)).trans ((ext_lo _ h.ch 0 2 (by decide)).trans ((ext_all h.ch))))))))))
theorem packWord_zero (h : Hints) (b : BitVec 63) (s : BitVec 4) (m : BitVec 8) : (packWord h b s m).extractLsb' 94 2 = 0#2 :=
  (ext_hi _ m 94 2 (by decide)).trans ((ext_hi _ s 86 2 (by decide)).trans ((ext_hi _ h.gp 82 2 (by decide)).trans ((ext_hi _ (bit h.gn) 78 2 (by decide)).trans ((ext_hi _ b 77 2 (by decide)).trans ((ext_hi _ h.gap 14 2 (by decide)).trans ((ext_hi _ (bit h.yld) 11 2 (by decide)).trans ((ext_hi _ h.wdrop 10 2 (by decide)).trans ((ext_hi _ h.ch 2 2 (by decide)).trans ((ext_all 0#2))))))))))

theorem hintsOf_packWord (h : Hints) (b : BitVec 63) (s : BitVec 4) (m : BitVec 8) : hintsOf (packWord h b s m) = h := by
  unfold hintsOf
  rw [packWord_ch, packWord_wdrop, packWord_gap, packWord_gp, getLsbD_of_ext (packWord_yld h b s m), getLsbD_of_ext (packWord_gn h b s m)]

/-- A word decodes to what its row reads, when that is well-formed. -/
theorem decode_packWord {h : Hints} {b : BitVec 63} {s : BitVec 4} {m : BitVec 8} {r : Option Instr} {i : Instr}
    (hm : decodeMajor m s h b = some r) (hr : r = some i) (hw : i.wf = true) : decode (packWord h b s m) = .ok i := by
  unfold decode
  rw [packWord_zero, packWord_maj, packWord_sub, packWord_body, hintsOf_packWord, hm, hr]
  simp only [if_true, hw]

/-! ### Operand classes and codes -/

theorem sub8 : (8#4 = 0#4) = False := by decide
theorem sub1 : (1#4 = 0#4) = False := by decide
theorem sub2 : (2#4 = 0#4) = False := by decide
theorem sub2' : (2#4 = 1#4) = False := by decide
theorem bit_ne : (true = false) = False := by decide
theorem sub_hfma2 (f : Half) : BitVec.extractLsb' (n := 4) 1 3 (0#1 ++ 0#2 ++ f.code) = 0#3 := by cases f <;> rfl
theorem isAbsent_absent : isAbsent absent = some () := rfl
theorem isZero_zero {n : Nat} : isZero (0#n) = some () := by simp only [isZero, if_true]
theorem zero_part {s l n : Nat} : BitVec.extractLsb' s l (0#n) = 0#l := by simp
theorem dV_eV (r : VReg) : dV (eV r) = some r := by
  unfold dV eV
  rw [ext_hi (0#5) r 7 5 (by decide), ext_lo (0#5) r 0 7 (by decide), ext_all r]
  rfl
theorem dP_eP (r : PReg) : dP (eP r) = some r := by revert r; decide
theorem dV_eP (r : PReg) : dV (eP r) = none := by revert r; decide
theorem dV_eImm (v : BitVec 9) : dV (eImm v) = none := by revert v; decide +kernel
theorem dP_eImm (v : BitVec 9) : dP (eImm v) = none := by revert v; decide +kernel
theorem dImm_eImm (v : BitVec 9) : dImm (eImm v) = some v := by
  unfold dImm eImm
  rw [ext_hi (3#3) v 9 3 (by decide), ext_lo (3#3) v 0 9 (by decide), ext_all v]
  rfl
theorem dSrc_eSrc (x : Src) : dSrc (eSrc x) = some x := by
  cases x with
  | reg r => simp only [dSrc, eSrc, dV_eV]
  | imm v => simp only [dSrc, eSrc, dV_eImm, dImm_eImm]
theorem dSrc_eV (r : VReg) : dSrc (eV r) = some (.reg r) := by simp only [dSrc, dV_eV]
theorem dOV_eOV (x : Option VReg) : dOV (eOV x) = some x := by
  cases x with
  | none => rfl
  | some r =>
    have h : eV r ≠ absent := fun h => by
      have e := dV_eV r
      have z : dV absent = none := rfl
      rw [h, z] at e
      cases e
    simp only [dOV, eOV, if_neg h, dV_eV]
theorem dOV_eV (r : VReg) : dOV (eV r) = some (some r) := dOV_eOV (some r)
theorem dVP_eVP (x : DstVP) : dVP (eVP x) = some x := by
  cases x with
  | v r => simp only [dVP, eVP, dV_eV]
  | p r => simp only [dVP, eVP, dV_eP, dP_eP]
theorem dSVP_eSVP (x : SrcVP) : dSVP (eSVP x) = some x := by
  cases x with
  | v r => simp only [dSVP, eSVP, dV_eV]
  | p r => simp only [dSVP, eSVP, dV_eP, dP_eP]
  | imm v => simp only [dSVP, eSVP, dV_eImm, dP_eImm, dImm_eImm]
theorem dCv_eCv (n : BitVec 3) : dCv (eCv n) = some n := by revert n; decide
theorem dJb_eJb (n : BitVec 4) : dJb (eJb n) = some n := by revert n; decide
theorem dNb_eNb (n : BitVec 4) : dNb (eNb n) = some n := by revert n; decide
theorem dGb_eGb (n : BitVec 2) : dGb (eGb n) = some n := by revert n; decide
theorem dCh_eCh (n : BitVec 3) : dCh (eCh n) = some n := by revert n; decide
theorem dRg_eRg (n : BitVec 3) : dRg (eRg n) = some n := by revert n; decide
theorem dBar_eBar (b : Bar) : dBar (eBar b) = some b := by
  cases b with
  | nb n => revert n; decide
  | gb n => revert n; decide
theorem dSReg_eSReg (r : SReg) : dSReg (eSReg r) = some r := by
  cases r with
  | cv n => revert n; decide
  | jb n => revert n; decide
  | nb n => revert n; decide
  | gb n => revert n; decide
theorem vpOf_vpBits (x : Option PReg) : vpOf (0#3 ++ vpBits x) = some x := by
  cases x with
  | none => rfl
  | some r => revert r; decide
theorem ordOf_ordBits (x : Option Scope) : ordOf (ordBits x) = some x := by
  cases x with
  | none => rfl
  | some s => cases s <;> rfl
theorem fenceScope_ordBits (s : Scope) : fenceScope (ordBits (some s)) = some s := by cases s <;> rfl
theorem mloadSub_bits (i : Bool) : mloadSub (0#2 ++ bit i ++ bit i) = some i := by cases i <;> rfl
theorem matchTy_bits (f : Bool) : matchTy ((bif f then 0x40#8 else 0#8).extractLsb' 5 3) = some f := by cases f <;> rfl
theorem matchRest_bits (f : Bool) : (bif f then 0x40#8 else 0#8).extractLsb' 0 5 = 0#5 := by cases f <;> rfl
theorem pairOp_code (x : PairOp) : PairOp.ofCode x.code = some x := by
  cases x with
  | hadd2 h => cases h <;> rfl
  | hmul2 h => cases h <;> rfl
  | hfma2 h => cases h <;> rfl
  | hmin2 h => cases h <;> rfl
  | hmax2 h => cases h <;> rfl
  | _ => rfl
theorem dPSrc_ePSrc (x : PSrc) : dPSrc (ePSrc x) = x := by
  cases x with
  | reg r => revert r; decide
  | imm v => revert v; decide
theorem slotOf_eSlot (p : PSlot) : slotOf (eSlot p) = some p := by
  have h1 : (eSlot p).extractLsb' 24 7 = p.op.code :=
    (ext_hi _ (ePSrc p.b) 24 7 (by decide)).trans ((ext_hi _ (ePSrc p.a) 16 7 (by decide)).trans
      ((ext_hi _ (0#1 ++ p.d) 8 7 (by decide)).trans (ext_all _)))
  have h2 : (eSlot p).extractLsb' 23 1 = 0#1 :=
    (ext_hi _ (ePSrc p.b) 23 1 (by decide)).trans ((ext_hi _ (ePSrc p.a) 15 1 (by decide)).trans
      ((ext_lo _ (0#1 ++ p.d) 7 1 (by decide)).trans ((ext_hi 0#1 p.d 7 1 (by decide)).trans (ext_all _))))
  have h3 : (eSlot p).extractLsb' 16 7 = p.d :=
    (ext_hi _ (ePSrc p.b) 16 7 (by decide)).trans ((ext_hi _ (ePSrc p.a) 8 7 (by decide)).trans
      ((ext_lo _ (0#1 ++ p.d) 0 7 (by decide)).trans ((ext_lo 0#1 p.d 0 7 (by decide)).trans (ext_all _))))
  have h4 : (eSlot p).extractLsb' 8 8 = ePSrc p.a :=
    (ext_hi _ (ePSrc p.b) 8 8 (by decide)).trans ((ext_lo _ (ePSrc p.a) 0 8 (by decide)).trans (ext_all _))
  have h5 : (eSlot p).extractLsb' 0 8 = ePSrc p.b := (ext_lo _ (ePSrc p.b) 0 8 (by decide)).trans (ext_all _)
  simp only [slotOf, h1, h2, h3, h4, h5, pairOp_code, isZero_zero, dPSrc_ePSrc, Option.bind_eq_bind, Option.bind_some]
theorem shflOp_code (x : ShflOp) : ShflOp.ofCode x.code = some x := by cases x <;> rfl
theorem voteOp_code (x : VoteOp) : VoteOp.ofCode x.code = some x := by cases x <;> rfl
theorem matchOp_code (x : MatchOp) : MatchOp.ofCode x.code = some x := by cases x <;> rfl
theorem redOp_code (x : RedOp) : RedOp.ofCode x.code = some x := by cases x <;> rfl
theorem lTy_code (x : LTy) : LTy.ofCode x.code = some x := by cases x <;> rfl
theorem cmp_code (x : Cmp) : Cmp.ofCode x.code = some x := by cases x <;> rfl
theorem fn_code (x : Fn) : Fn.ofCode x.code = some x := by cases x <;> rfl
theorem rm_code (x : Rm) : Rm.ofCode x.code = some x := by cases x <;> rfl
theorem fmt_code (x : Fmt) : Fmt.ofCode x.code = some x := by cases x <;> rfl
theorem iTy_code (x : ITy) : ITy.ofCode x.code = some x := by cases x <;> rfl
theorem half_code (x : Half) : Half.ofCode x.code = some x := by cases x <;> rfl
theorem sz_code (x : Sz) : Sz.ofCode x.code = some x := by cases x <;> rfl
theorem aop_code (x : Aop) : Aop.ofCode x.code = some x := by cases x <;> rfl
theorem aTy_code (x : ATy) : ATy.ofCode x.code = some x := by cases x <;> rfl
theorem scope_code (x : Scope) : Scope.ofCode x.code = some x := by cases x <;> rfl
theorem aOrd_code (x : AOrd) : AOrd.ofCode x.code = some x := by cases x <;> rfl
theorem mmaKind_code (x : MmaKind) : MmaKind.ofCode x.code = some x := by cases x <;> rfl
theorem mCell_code (x : MCell) : MCell.ofCode x.code = some x := by cases x <;> rfl
theorem bScope_code (x : BScope) : BScope.ofCode x.code = some x := by cases x <;> rfl

/-! ### Fields made of several parts -/

theorem part0 (ty : LTy) : BitVec.extractLsb' (n := 8) 0 5 (ty.code ++ 0#5) = 0#5 :=
  ((ext_lo _ 0#5 0 5 (by decide)).trans (ext_all 0#5))
theorem part1 (ty : LTy) : BitVec.extractLsb' (n := 8) 5 3 (ty.code ++ 0#5) = ty.code :=
  ((ext_hi _ 0#5 5 3 (by decide)).trans (ext_all ty.code))
theorem part2 (exc : Bool) : BitVec.extractLsb' (n := 7) 0 6 (bit exc ++ 0#6) = 0#6 :=
  ((ext_lo _ 0#6 0 6 (by decide)).trans (ext_all 0#6))
theorem part3 (exc : Bool) : BitVec.getLsbD (w := 7) (bit exc ++ 0#6) 6 = exc :=
  getLsbD_of_ext ((ext_hi _ 0#6 6 1 (by decide)).trans (ext_all (bit exc)))
theorem part4 (u : Bool) (sat : Bool) : BitVec.extractLsb' (n := 7) 0 5 (bit u ++ bit sat ++ 0#5) = 0#5 :=
  ((ext_lo _ 0#5 0 5 (by decide)).trans (ext_all 0#5))
theorem part5 (u : Bool) (sat : Bool) : BitVec.getLsbD (w := 7) (bit u ++ bit sat ++ 0#5) 5 = sat :=
  getLsbD_of_ext ((ext_hi _ 0#5 5 1 (by decide)).trans ((ext_lo _ (bit sat) 0 1 (by decide)).trans (ext_all (bit sat))))
theorem part6 (u : Bool) (sat : Bool) : BitVec.getLsbD (w := 7) (bit u ++ bit sat ++ 0#5) 6 = u :=
  getLsbD_of_ext ((ext_hi _ 0#5 6 1 (by decide)).trans ((ext_hi _ (bit sat) 1 1 (by decide)).trans (ext_all (bit u))))
theorem part7 (u : Bool) : BitVec.extractLsb' (n := 7) 0 6 (bit u ++ 0#6) = 0#6 :=
  ((ext_lo _ 0#6 0 6 (by decide)).trans (ext_all 0#6))
theorem part8 (u : Bool) : BitVec.getLsbD (w := 7) (bit u ++ 0#6) 6 = u :=
  getLsbD_of_ext ((ext_hi _ 0#6 6 1 (by decide)).trans (ext_all (bit u)))
theorem part9 (sat : Bool) : BitVec.extractLsb' (n := 7) 0 5 (0#1 ++ bit sat ++ 0#5) = 0#5 :=
  ((ext_lo _ 0#5 0 5 (by decide)).trans (ext_all 0#5))
theorem part10 (sat : Bool) : BitVec.extractLsb' (n := 7) 6 1 (0#1 ++ bit sat ++ 0#5) = 0#1 :=
  ((ext_hi _ 0#5 6 1 (by decide)).trans ((ext_hi _ (bit sat) 1 1 (by decide)).trans (ext_all 0#1)))
theorem part11 (sat : Bool) : BitVec.getLsbD (w := 7) (0#1 ++ bit sat ++ 0#5) 5 = sat :=
  getLsbD_of_ext ((ext_hi _ 0#5 5 1 (by decide)).trans ((ext_lo _ (bit sat) 0 1 (by decide)).trans (ext_all (bit sat))))
theorem part12 (right : Bool) : BitVec.extractLsb' (n := 4) 1 3 (0#3 ++ bit right) = 0#3 :=
  ((ext_hi _ (bit right) 1 3 (by decide)).trans (ext_all 0#3))
theorem part13 (right : Bool) : BitVec.getLsbD (w := 4) (0#3 ++ bit right) 0 = right :=
  getLsbD_of_ext ((ext_lo _ (bit right) 0 1 (by decide)).trans (ext_all (bit right)))
theorem part14 (u : Bool) (cmp : Cmp) : BitVec.extractLsb' (n := 7) 0 2 (bit u ++ 0#1 ++ cmp.code ++ 0#2) = 0#2 :=
  ((ext_lo _ 0#2 0 2 (by decide)).trans (ext_all 0#2))
theorem part15 (u : Bool) (cmp : Cmp) : BitVec.extractLsb' (n := 7) 2 3 (bit u ++ 0#1 ++ cmp.code ++ 0#2) = cmp.code :=
  ((ext_hi _ 0#2 2 3 (by decide)).trans ((ext_lo _ cmp.code 0 3 (by decide)).trans (ext_all cmp.code)))
theorem part16 (u : Bool) (cmp : Cmp) : BitVec.extractLsb' (n := 7) 5 1 (bit u ++ 0#1 ++ cmp.code ++ 0#2) = 0#1 :=
  ((ext_hi _ 0#2 5 1 (by decide)).trans ((ext_hi _ cmp.code 3 1 (by decide)).trans ((ext_lo _ 0#1 0 1 (by decide)).trans (ext_all 0#1))))
theorem part17 (u : Bool) (cmp : Cmp) : BitVec.getLsbD (w := 7) (bit u ++ 0#1 ++ cmp.code ++ 0#2) 6 = u :=
  getLsbD_of_ext ((ext_hi _ 0#2 6 1 (by decide)).trans ((ext_hi _ cmp.code 4 1 (by decide)).trans ((ext_hi _ 0#1 1 1 (by decide)).trans (ext_all (bit u)))))
theorem part18 (sh : BitVec 3) : BitVec.extractLsb' (n := 8) 0 3 (0#5 ++ sh) = sh :=
  ((ext_lo _ sh 0 3 (by decide)).trans (ext_all sh))
theorem part19 (sh : BitVec 3) : BitVec.extractLsb' (n := 8) 3 5 (0#5 ++ sh) = 0#5 :=
  ((ext_hi _ sh 3 5 (by decide)).trans (ext_all 0#5))
theorem part20 (rem : Bool) : BitVec.extractLsb' (n := 4) 1 3 (0#3 ++ bit rem) = 0#3 :=
  ((ext_hi _ (bit rem) 1 3 (by decide)).trans (ext_all 0#3))
theorem part21 (rem : Bool) : BitVec.getLsbD (w := 4) (0#3 ++ bit rem) 0 = rem :=
  getLsbD_of_ext ((ext_lo _ (bit rem) 0 1 (by decide)).trans (ext_all (bit rem)))
theorem part22 (ua : Bool) (ub : Bool) : BitVec.extractLsb' (n := 8) 2 6 (0#6 ++ bit ua ++ bit ub) = 0#6 :=
  ((ext_hi _ (bit ub) 2 6 (by decide)).trans ((ext_hi _ (bit ua) 1 6 (by decide)).trans (ext_all 0#6)))
theorem part23 (ua : Bool) (ub : Bool) : BitVec.getLsbD (w := 8) (0#6 ++ bit ua ++ bit ub) 0 = ub :=
  getLsbD_of_ext ((ext_lo _ (bit ub) 0 1 (by decide)).trans (ext_all (bit ub)))
theorem part24 (ua : Bool) (ub : Bool) : BitVec.getLsbD (w := 8) (0#6 ++ bit ua ++ bit ub) 1 = ua :=
  getLsbD_of_ext ((ext_hi _ (bit ub) 1 1 (by decide)).trans ((ext_lo _ (bit ua) 0 1 (by decide)).trans (ext_all (bit ua))))
theorem part25 (rm : Rm) (ftz : Bool) : BitVec.extractLsb' (n := 7) 0 4 (rm.code ++ bit ftz ++ 0#4) = 0#4 :=
  ((ext_lo _ 0#4 0 4 (by decide)).trans (ext_all 0#4))
theorem part26 (rm : Rm) (ftz : Bool) : BitVec.extractLsb' (n := 7) 5 2 (rm.code ++ bit ftz ++ 0#4) = rm.code :=
  ((ext_hi _ 0#4 5 2 (by decide)).trans ((ext_hi _ (bit ftz) 1 2 (by decide)).trans (ext_all rm.code)))
theorem part27 (rm : Rm) (ftz : Bool) : BitVec.getLsbD (w := 7) (rm.code ++ bit ftz ++ 0#4) 4 = ftz :=
  getLsbD_of_ext ((ext_hi _ 0#4 4 1 (by decide)).trans ((ext_lo _ (bit ftz) 0 1 (by decide)).trans (ext_all (bit ftz))))
theorem part28 (ftz : Bool) : BitVec.extractLsb' (n := 7) 0 4 (0#2 ++ bit ftz ++ 0#4) = 0#4 :=
  ((ext_lo _ 0#4 0 4 (by decide)).trans (ext_all 0#4))
theorem part29 (ftz : Bool) : BitVec.extractLsb' (n := 7) 5 2 (0#2 ++ bit ftz ++ 0#4) = 0#2 :=
  ((ext_hi _ 0#4 5 2 (by decide)).trans ((ext_hi _ (bit ftz) 1 2 (by decide)).trans (ext_all 0#2)))
theorem part30 (ftz : Bool) : BitVec.getLsbD (w := 7) (0#2 ++ bit ftz ++ 0#4) 4 = ftz :=
  getLsbD_of_ext ((ext_hi _ 0#4 4 1 (by decide)).trans ((ext_lo _ (bit ftz) 0 1 (by decide)).trans (ext_all (bit ftz))))
theorem part31 (ftz : Bool) (fn : Fn) : BitVec.extractLsb' (n := 7) 0 4 (0#2 ++ bit ftz ++ fn.code) = fn.code :=
  ((ext_lo _ fn.code 0 4 (by decide)).trans (ext_all fn.code))
theorem part32 (ftz : Bool) (fn : Fn) : BitVec.extractLsb' (n := 7) 5 2 (0#2 ++ bit ftz ++ fn.code) = 0#2 :=
  ((ext_hi _ fn.code 5 2 (by decide)).trans ((ext_hi _ (bit ftz) 1 2 (by decide)).trans (ext_all 0#2)))
theorem part33 (ftz : Bool) (fn : Fn) : BitVec.getLsbD (w := 7) (0#2 ++ bit ftz ++ fn.code) 4 = ftz :=
  getLsbD_of_ext ((ext_hi _ fn.code 4 1 (by decide)).trans ((ext_lo _ (bit ftz) 0 1 (by decide)).trans (ext_all (bit ftz))))
theorem part34 (f : Half) : BitVec.extractLsb' (n := 4) 0 1 (0#1 ++ 0#2 ++ f.code) = f.code :=
  ((ext_lo _ f.code 0 1 (by decide)).trans (ext_all f.code))
theorem part35 (f : Half) : BitVec.extractLsb' (n := 4) 1 2 (0#1 ++ 0#2 ++ f.code) = 0#2 :=
  ((ext_hi _ f.code 1 2 (by decide)).trans ((ext_lo _ 0#2 0 2 (by decide)).trans (ext_all 0#2)))
theorem part36 (f : Half) : BitVec.getLsbD (w := 4) (0#1 ++ 0#2 ++ f.code) 3 = false :=
  (getLsbD_of_ext (u := false) ((ext_hi _ f.code 3 1 (by decide)).trans ((ext_hi _ 0#2 2 1 (by decide)).trans (ext_all 0#1))))
theorem part37 (f : Half) : BitVec.extractLsb' (n := 4) 0 1 (1#1 ++ 0#2 ++ f.code) = f.code :=
  ((ext_lo _ f.code 0 1 (by decide)).trans (ext_all f.code))
theorem part38 (f : Half) : BitVec.extractLsb' (n := 4) 1 2 (1#1 ++ 0#2 ++ f.code) = 0#2 :=
  ((ext_hi _ f.code 1 2 (by decide)).trans ((ext_lo _ 0#2 0 2 (by decide)).trans (ext_all 0#2)))
theorem part39 (f : Half) : BitVec.getLsbD (w := 4) (1#1 ++ 0#2 ++ f.code) 3 = true :=
  (getLsbD_of_ext (u := true) ((ext_hi _ f.code 3 1 (by decide)).trans ((ext_hi _ 0#2 2 1 (by decide)).trans (ext_all 1#1))))
theorem part40 (max : Bool) (f : Half) : BitVec.extractLsb' (n := 4) 0 1 (0#1 ++ 0#1 ++ bit max ++ f.code) = f.code :=
  ((ext_lo _ f.code 0 1 (by decide)).trans (ext_all f.code))
theorem part41 (max : Bool) (f : Half) : BitVec.extractLsb' (n := 4) 2 1 (0#1 ++ 0#1 ++ bit max ++ f.code) = 0#1 :=
  ((ext_hi _ f.code 2 1 (by decide)).trans ((ext_hi _ (bit max) 1 1 (by decide)).trans ((ext_lo _ 0#1 0 1 (by decide)).trans (ext_all 0#1))))
theorem part42 (max : Bool) (f : Half) : BitVec.getLsbD (w := 4) (0#1 ++ 0#1 ++ bit max ++ f.code) 1 = max :=
  getLsbD_of_ext ((ext_hi _ f.code 1 1 (by decide)).trans ((ext_lo _ (bit max) 0 1 (by decide)).trans (ext_all (bit max))))
theorem part43 (max : Bool) (f : Half) : BitVec.getLsbD (w := 4) (0#1 ++ 0#1 ++ bit max ++ f.code) 3 = false :=
  (getLsbD_of_ext (u := false) ((ext_hi _ f.code 3 1 (by decide)).trans ((ext_hi _ (bit max) 2 1 (by decide)).trans ((ext_hi _ 0#1 1 1 (by decide)).trans (ext_all 0#1)))))
theorem part44 (max : Bool) (f : Half) : BitVec.extractLsb' (n := 4) 0 1 (1#1 ++ 0#1 ++ bit max ++ f.code) = f.code :=
  ((ext_lo _ f.code 0 1 (by decide)).trans (ext_all f.code))
theorem part45 (max : Bool) (f : Half) : BitVec.extractLsb' (n := 4) 2 1 (1#1 ++ 0#1 ++ bit max ++ f.code) = 0#1 :=
  ((ext_hi _ f.code 2 1 (by decide)).trans ((ext_hi _ (bit max) 1 1 (by decide)).trans ((ext_lo _ 0#1 0 1 (by decide)).trans (ext_all 0#1))))
theorem part46 (max : Bool) (f : Half) : BitVec.getLsbD (w := 4) (1#1 ++ 0#1 ++ bit max ++ f.code) 1 = max :=
  getLsbD_of_ext ((ext_hi _ f.code 1 1 (by decide)).trans ((ext_lo _ (bit max) 0 1 (by decide)).trans (ext_all (bit max))))
theorem part47 (max : Bool) (f : Half) : BitVec.getLsbD (w := 4) (1#1 ++ 0#1 ++ bit max ++ f.code) 3 = true :=
  (getLsbD_of_ext (u := true) ((ext_hi _ f.code 3 1 (by decide)).trans ((ext_hi _ (bit max) 2 1 (by decide)).trans ((ext_hi _ 0#1 1 1 (by decide)).trans (ext_all 1#1)))))
theorem part48 (rm : Rm) : BitVec.extractLsb' (n := 7) 0 5 (rm.code ++ 0#5) = 0#5 :=
  ((ext_lo _ 0#5 0 5 (by decide)).trans (ext_all 0#5))
theorem part49 (rm : Rm) : BitVec.extractLsb' (n := 7) 5 2 (rm.code ++ 0#5) = rm.code :=
  ((ext_hi _ 0#5 5 2 (by decide)).trans (ext_all rm.code))
theorem part50 (ft : Fmt) (it : ITy) : BitVec.extractLsb' (n := 8) 0 3 (ft.code ++ 0#3 ++ it.code) = it.code :=
  ((ext_lo _ it.code 0 3 (by decide)).trans (ext_all it.code))
theorem part51 (ft : Fmt) (it : ITy) : BitVec.extractLsb' (n := 8) 3 3 (ft.code ++ 0#3 ++ it.code) = 0#3 :=
  ((ext_hi _ it.code 3 3 (by decide)).trans ((ext_lo _ 0#3 0 3 (by decide)).trans (ext_all 0#3)))
theorem part52 (ft : Fmt) (it : ITy) : BitVec.extractLsb' (n := 8) 6 2 (ft.code ++ 0#3 ++ it.code) = ft.code :=
  ((ext_hi _ it.code 6 2 (by decide)).trans ((ext_hi _ 0#3 3 2 (by decide)).trans (ext_all ft.code)))
theorem part53 (fd : Fmt) (fs : Fmt) : BitVec.extractLsb' (n := 8) 0 4 (fd.code ++ fs.code ++ 0#4) = 0#4 :=
  ((ext_lo _ 0#4 0 4 (by decide)).trans (ext_all 0#4))
theorem part54 (fd : Fmt) (fs : Fmt) : BitVec.extractLsb' (n := 8) 4 2 (fd.code ++ fs.code ++ 0#4) = fs.code :=
  ((ext_hi _ 0#4 4 2 (by decide)).trans ((ext_lo _ fs.code 0 2 (by decide)).trans (ext_all fs.code)))
theorem part55 (fd : Fmt) (fs : Fmt) : BitVec.extractLsb' (n := 8) 6 2 (fd.code ++ fs.code ++ 0#4) = fd.code :=
  ((ext_hi _ 0#4 6 2 (by decide)).trans ((ext_hi _ fs.code 2 2 (by decide)).trans (ext_all fd.code)))
theorem part56 (sf : BitVec 6) : BitVec.extractLsb' (n := 8) 0 6 (0#2 ++ sf) = sf :=
  ((ext_lo _ sf 0 6 (by decide)).trans (ext_all sf))
theorem part57 (sf : BitVec 6) : BitVec.extractLsb' (n := 8) 6 2 (0#2 ++ sf) = 0#2 :=
  ((ext_hi _ sf 6 2 (by decide)).trans (ext_all 0#2))
theorem part58 (cmp : Cmp) : BitVec.extractLsb' (n := 7) 0 2 (0#2 ++ cmp.code ++ 0#2) = 0#2 :=
  ((ext_lo _ 0#2 0 2 (by decide)).trans (ext_all 0#2))
theorem part59 (cmp : Cmp) : BitVec.extractLsb' (n := 7) 2 3 (0#2 ++ cmp.code ++ 0#2) = cmp.code :=
  ((ext_hi _ 0#2 2 3 (by decide)).trans ((ext_lo _ cmp.code 0 3 (by decide)).trans (ext_all cmp.code)))
theorem part60 (cmp : Cmp) : BitVec.extractLsb' (n := 7) 5 2 (0#2 ++ cmp.code ++ 0#2) = 0#2 :=
  ((ext_hi _ 0#2 5 2 (by decide)).trans ((ext_hi _ cmp.code 3 2 (by decide)).trans (ext_all 0#2)))
theorem part61 (sz : Sz) : BitVec.extractLsb' (n := 4) 0 3 (0#1 ++ sz.code) = sz.code :=
  ((ext_lo _ sz.code 0 3 (by decide)).trans (ext_all sz.code))
theorem part62 (sz : Sz) : BitVec.getLsbD (w := 4) (0#1 ++ sz.code) 3 = false :=
  (getLsbD_of_ext (u := false) ((ext_hi _ sz.code 3 1 (by decide)).trans (ext_all 0#1)))
theorem part63 (ordCore : Bool) : BitVec.extractLsb' (n := 3) 1 2 (0#2 ++ bit ordCore) = 0#2 :=
  ((ext_hi _ (bit ordCore) 1 2 (by decide)).trans (ext_all 0#2))
theorem part64 (ordCore : Bool) : BitVec.getLsbD (w := 3) (0#2 ++ bit ordCore) 0 = ordCore :=
  getLsbD_of_ext ((ext_lo _ (bit ordCore) 0 1 (by decide)).trans (ext_all (bit ordCore)))
theorem part65 (sz : Sz) : BitVec.extractLsb' (n := 4) 0 3 (1#1 ++ sz.code) = sz.code :=
  ((ext_lo _ sz.code 0 3 (by decide)).trans (ext_all sz.code))
theorem part66 (sz : Sz) : BitVec.getLsbD (w := 4) (1#1 ++ sz.code) 3 = true :=
  (getLsbD_of_ext (u := true) ((ext_hi _ sz.code 3 1 (by decide)).trans (ext_all 1#1)))
theorem part67 (op : Aop) (ty : ATy) (off : BitVec 16) : BitVec.extractLsb' (n := 24) 0 16 (op.code ++ ty.code ++ 0#1 ++ off) = off :=
  ((ext_lo _ off 0 16 (by decide)).trans (ext_all off))
theorem part68 (op : Aop) (ty : ATy) (off : BitVec 16) : BitVec.extractLsb' (n := 24) 16 1 (op.code ++ ty.code ++ 0#1 ++ off) = 0#1 :=
  ((ext_hi _ off 16 1 (by decide)).trans ((ext_lo _ 0#1 0 1 (by decide)).trans (ext_all 0#1)))
theorem part69 (op : Aop) (ty : ATy) (off : BitVec 16) : BitVec.extractLsb' (n := 24) 17 3 (op.code ++ ty.code ++ 0#1 ++ off) = ty.code :=
  ((ext_hi _ off 17 3 (by decide)).trans ((ext_hi _ 0#1 1 3 (by decide)).trans ((ext_lo _ ty.code 0 3 (by decide)).trans (ext_all ty.code))))
theorem part70 (op : Aop) (ty : ATy) (off : BitVec 16) : BitVec.extractLsb' (n := 24) 20 4 (op.code ++ ty.code ++ 0#1 ++ off) = op.code :=
  ((ext_hi _ off 20 4 (by decide)).trans ((ext_hi _ 0#1 4 4 (by decide)).trans ((ext_hi _ ty.code 3 4 (by decide)).trans (ext_all op.code))))
theorem part71 (ord : AOrd) : BitVec.extractLsb' (n := 4) 0 2 (ord.code ++ 0#2) = 0#2 :=
  ((ext_lo _ 0#2 0 2 (by decide)).trans (ext_all 0#2))
theorem part72 (ord : AOrd) : BitVec.extractLsb' (n := 4) 2 2 (ord.code ++ 0#2) = ord.code :=
  ((ext_hi _ 0#2 2 2 (by decide)).trans (ext_all ord.code))
theorem part73 (ty : ATy) (off : BitVec 16) : BitVec.extractLsb' (n := 24) 0 16 (0#4 ++ ty.code ++ 0#1 ++ off) = off :=
  ((ext_lo _ off 0 16 (by decide)).trans (ext_all off))
theorem part74 (ty : ATy) (off : BitVec 16) : BitVec.extractLsb' (n := 24) 16 1 (0#4 ++ ty.code ++ 0#1 ++ off) = 0#1 :=
  ((ext_hi _ off 16 1 (by decide)).trans ((ext_lo _ 0#1 0 1 (by decide)).trans (ext_all 0#1)))
theorem part75 (ty : ATy) (off : BitVec 16) : BitVec.extractLsb' (n := 24) 17 3 (0#4 ++ ty.code ++ 0#1 ++ off) = ty.code :=
  ((ext_hi _ off 17 3 (by decide)).trans ((ext_hi _ 0#1 1 3 (by decide)).trans ((ext_lo _ ty.code 0 3 (by decide)).trans (ext_all ty.code))))
theorem part76 (ty : ATy) (off : BitVec 16) : BitVec.extractLsb' (n := 24) 20 4 (0#4 ++ ty.code ++ 0#1 ++ off) = 0#4 :=
  ((ext_hi _ off 20 4 (by decide)).trans ((ext_hi _ 0#1 4 4 (by decide)).trans ((ext_hi _ ty.code 3 4 (by decide)).trans (ext_all 0#4))))
theorem part77 (l2 : Bool) : BitVec.extractLsb' (n := 4) 1 3 (0#3 ++ bit l2) = 0#3 :=
  ((ext_hi _ (bit l2) 1 3 (by decide)).trans (ext_all 0#3))
theorem part78 (l2 : Bool) : BitVec.getLsbD (w := 4) (0#3 ++ bit l2) 0 = l2 :=
  getLsbD_of_ext ((ext_lo _ (bit l2) 0 1 (by decide)).trans (ext_all (bit l2)))
theorem part79 (count : BitVec 7) (first : BitVec 7) : BitVec.extractLsb' (n := 32) 0 7 (0#17 ++ count ++ 0#1 ++ first) = first :=
  ((ext_lo _ first 0 7 (by decide)).trans (ext_all first))
theorem part80 (count : BitVec 7) (first : BitVec 7) : BitVec.extractLsb' (n := 32) 15 17 (0#17 ++ count ++ 0#1 ++ first) = 0#17 :=
  ((ext_hi _ first 15 17 (by decide)).trans ((ext_hi _ 0#1 8 17 (by decide)).trans ((ext_hi _ count 7 17 (by decide)).trans (ext_all 0#17))))
theorem part81 (count : BitVec 7) (first : BitVec 7) : BitVec.extractLsb' (n := 32) 7 1 (0#17 ++ count ++ 0#1 ++ first) = 0#1 :=
  ((ext_hi _ first 7 1 (by decide)).trans ((ext_lo _ 0#1 0 1 (by decide)).trans (ext_all 0#1)))
theorem part82 (count : BitVec 7) (first : BitVec 7) : BitVec.extractLsb' (n := 32) 8 7 (0#17 ++ count ++ 0#1 ++ first) = count :=
  ((ext_hi _ first 8 7 (by decide)).trans ((ext_hi _ 0#1 1 7 (by decide)).trans ((ext_lo _ count 0 7 (by decide)).trans (ext_all count))))
theorem part83 (k : BitVec 4) : BitVec.extractLsb' (n := 7) 0 3 (k ++ 0#3) = 0#3 :=
  ((ext_lo _ 0#3 0 3 (by decide)).trans (ext_all 0#3))
theorem part84 (k : BitVec 4) : BitVec.extractLsb' (n := 7) 3 4 (k ++ 0#3) = k :=
  ((ext_hi _ 0#3 3 4 (by decide)).trans (ext_all k))
theorem part85 (mask : BitVec 8) : BitVec.extractLsb' (n := 32) 0 8 (0#24 ++ mask) = mask :=
  ((ext_lo _ mask 0 8 (by decide)).trans (ext_all mask))
theorem part86 (mask : BitVec 8) : BitVec.extractLsb' (n := 32) 8 24 (0#24 ++ mask) = 0#24 :=
  ((ext_hi _ mask 8 24 (by decide)).trans (ext_all 0#24))
theorem part87 (n : BitVec 12) : BitVec.extractLsb' (n := 32) 0 12 (0#20 ++ n) = n :=
  ((ext_lo _ n 0 12 (by decide)).trans (ext_all n))
theorem part88 (n : BitVec 12) : BitVec.extractLsb' (n := 32) 12 20 (0#20 ++ n) = 0#20 :=
  ((ext_hi _ n 12 20 (by decide)).trans (ext_all 0#20))

end Sys2Proof.Laws
end

