-- ==== Sys2Proof/Laws/Tab.lean ====
section
/-! SUPPORT. Laws of numbered and keyed tables: reading after writing, and that every operation keeps the canonical form. -/
namespace Sys2Proof.Machine

variable {α : Type} {κ : Type}

theorem Tab.get_drop (d : α) (t : Tab α) (k n : Nat) : Tab.get d (Tab.drop t k) n = if n = k then d else Tab.get d t n := by
  induction t with
  | nil => simp [Tab.drop, Tab.get]
  | cons e t ih =>
    obtain ⟨j, w⟩ := e
    simp only [Tab.drop, Tab.get]
    split <;> simp_all [Tab.get] <;> split <;> simp_all <;> omega

theorem Tab.get_drop_self (d : α) (t : Tab α) (k : Nat) : Tab.get d (Tab.drop t k) k = d := by simp [Tab.get_drop]

theorem Tab.mem_drop (t : Tab α) (k : Nat) (e : Nat × α) : e ∈ Tab.drop t k ↔ e ∈ t ∧ e.1 ≠ k := by
  induction t with
  | nil => simp [Tab.drop]
  | cons f t ih =>
    obtain ⟨j, w⟩ := f
    simp only [Tab.drop]
    split
    · next h =>
      subst h
      rw [ih]
      constructor
      · rintro ⟨a, b⟩; exact ⟨List.mem_cons_of_mem _ a, b⟩
      · rintro ⟨a, b⟩; rcases List.mem_cons.1 a with rfl | a
        · exact absurd rfl b
        · exact ⟨a, b⟩
    · next h =>
      rw [List.mem_cons, List.mem_cons, ih]
      constructor
      · rintro (rfl | ⟨a, b⟩)
        · exact ⟨.inl rfl, h⟩
        · exact ⟨.inr a, b⟩
      · rintro ⟨rfl | a, b⟩
        · exact .inl rfl
        · exact .inr ⟨a, b⟩

theorem Tab.get_ins (d : α) (t : Tab α) (k n : Nat) (v : α) (h : ∀ e ∈ t, e.1 ≠ k) :
    Tab.get d (Tab.ins t k v) n = if n = k then v else Tab.get d t n := by
  induction t with
  | nil => simp [Tab.ins, Tab.get, eq_comm]
  | cons e t ih =>
    obtain ⟨j, w⟩ := e
    simp only [List.mem_cons, forall_eq_or_imp] at h
    simp only [Tab.ins]
    split
    · simp [Tab.get, eq_comm]
    · simp only [Tab.get, ih h.2]
      split <;> simp_all

/-- Reading an entry after writing one. -/
theorem Tab.get_put [DecidableEq α] (d : α) (t : Tab α) (k n : Nat) (v : α) :
    Tab.get d (Tab.put d t k v) n = if n = k then v else Tab.get d t n := by
  unfold Tab.put
  split
  · next h => simp [Tab.get_drop, h]
  · rw [Tab.get_ins _ _ _ _ _ fun e he => ((Tab.mem_drop t k e).1 he).2, Tab.get_drop]
    split <;> rfl

theorem Tab.get_put_self [DecidableEq α] (d : α) (t : Tab α) (k : Nat) (v : α) : Tab.get d (Tab.put d t k v) k = v := by
  simp [Tab.get_put]

theorem Tab.get_put_ne [DecidableEq α] (d : α) (t : Tab α) {k n : Nat} (v : α) (h : n ≠ k) :
    Tab.get d (Tab.put d t k v) n = Tab.get d t n := by
  simp [Tab.get_put, h]

theorem Tab.get_filter (d : α) (t : Tab α) (p : Nat → Bool) (n : Nat) :
    Tab.get d (t.filter fun e => p e.1) n = if p n then Tab.get d t n else d := by
  induction t with
  | nil => simp [Tab.get]
  | cons e t ih =>
    obtain ⟨j, w⟩ := e
    simp only [List.filter_cons]
    split <;> simp_all [Tab.get] <;> split <;> simp_all <;> intro h <;> simp_all

theorem Tab.wfFrom_mono [DecidableEq α] (d : α) {a b : Nat} {t : Tab α} (h : Tab.wfFrom d b t = true) (ab : a ≤ b) :
    Tab.wfFrom d a t = true := by
  cases t with
  | nil => rfl
  | cons e t => simp only [Tab.wfFrom, Bool.and_eq_true, decide_eq_true_eq] at *; exact ⟨⟨by omega, h.1.2⟩, h.2⟩

theorem Tab.wfFrom_drop [DecidableEq α] (d : α) {a : Nat} {t : Tab α} (k : Nat) (h : Tab.wfFrom d a t = true) :
    Tab.wfFrom d a (Tab.drop t k) = true := by
  induction t generalizing a with
  | nil => rfl
  | cons e t ih =>
    obtain ⟨j, w⟩ := e
    simp only [Tab.wfFrom, Bool.and_eq_true, decide_eq_true_eq] at h
    simp only [Tab.drop]
    split
    · exact Tab.wfFrom_mono d (ih h.2) (by omega)
    · simp only [Tab.wfFrom, Bool.and_eq_true, decide_eq_true_eq]; exact ⟨h.1, ih h.2⟩

theorem Tab.wfFrom_ins [DecidableEq α] (d : α) {a : Nat} {t : Tab α} {k : Nat} {v : α} (h : Tab.wfFrom d a t = true)
    (ak : a ≤ k) (vd : v ≠ d) (hk : ∀ e ∈ t, e.1 ≠ k) : Tab.wfFrom d a (Tab.ins t k v) = true := by
  induction t generalizing a with
  | nil => simp [Tab.ins, Tab.wfFrom, ak, vd]
  | cons e t ih =>
    obtain ⟨j, w⟩ := e
    simp only [Tab.wfFrom, Bool.and_eq_true, decide_eq_true_eq] at h
    simp only [List.mem_cons, forall_eq_or_imp] at hk
    simp only [Tab.ins]
    split
    · simp only [Tab.wfFrom, Bool.and_eq_true, decide_eq_true_eq]
      exact ⟨⟨ak, by simp [vd]⟩, ⟨by omega, h.1.2⟩, h.2⟩
    · simp only [Tab.wfFrom, Bool.and_eq_true, decide_eq_true_eq]
      exact ⟨h.1, ih h.2 (by omega) hk.2⟩

/-- Writing keeps the canonical form. -/
theorem Tab.wf_put [DecidableEq α] (d : α) {t : Tab α} (k : Nat) (v : α) (h : Tab.wf d t = true) : Tab.wf d (Tab.put d t k v) = true := by
  unfold Tab.wf Tab.put at *
  split
  · exact Tab.wfFrom_drop d k h
  · next hv => exact Tab.wfFrom_ins d (Tab.wfFrom_drop d k h) (Nat.zero_le k) hv fun e he => ((Tab.mem_drop t k e).1 he).2

theorem Tab.wfFrom_filter [DecidableEq α] (d : α) {a : Nat} {t : Tab α} (p : Nat × α → Bool) (h : Tab.wfFrom d a t = true) :
    Tab.wfFrom d a (t.filter p) = true := by
  induction t generalizing a with
  | nil => rfl
  | cons e t ih =>
    obtain ⟨j, w⟩ := e
    simp only [Tab.wfFrom, Bool.and_eq_true, decide_eq_true_eq] at h
    simp only [List.filter_cons]
    split
    · simp only [Tab.wfFrom, Bool.and_eq_true, decide_eq_true_eq]; exact ⟨h.1, ih h.2⟩
    · exact Tab.wfFrom_mono d (ih h.2) (by omega)

/-- Removing entries keeps the canonical form. -/
theorem Tab.wf_filter [DecidableEq α] (d : α) {t : Tab α} (p : Nat × α → Bool) (h : Tab.wf d t = true) : Tab.wf d (t.filter p) = true :=
  Tab.wfFrom_filter d p h

/-! ### Keyed tables -/

@[simp] theorem Dict.get?_set_self [DecidableEq κ] (t : Dict κ α) (k : κ) (v : α) : (t.set k v).get? k = some v := by
  induction t with
  | nil => simp [Dict.set, Dict.get?]
  | cons e t ih => obtain ⟨j, w⟩ := e; simp only [Dict.set]; split <;> simp_all [Dict.get?]

theorem Dict.get?_set_ne [DecidableEq κ] (t : Dict κ α) {k j : κ} (v : α) (h : j ≠ k) : (t.set k v).get? j = t.get? j := by
  induction t with
  | nil => simp [Dict.set, Dict.get?, h.symm]
  | cons e t ih => obtain ⟨i, w⟩ := e; simp only [Dict.set]; split <;> simp_all [Dict.get?, eq_comm]

theorem Dict.get?_set [DecidableEq κ] (t : Dict κ α) (k j : κ) (v : α) : (t.set k v).get? j = if j = k then some v else t.get? j := by
  split
  · next h => rw [h, Dict.get?_set_self]
  · next h => exact Dict.get?_set_ne t v h

theorem Dict.getD_set [DecidableEq κ] (t : Dict κ α) (k j : κ) (v d : α) : (t.set k v).getD j d = if j = k then v else t.getD j d := by
  unfold Dict.getD
  rw [Dict.get?_set]
  split <;> rfl

end Sys2Proof.Machine
end

