-- ==== Sys2Proof/Laws/State.lean ====
section
/-! SUPPORT. Laws of the accessors of State: reading an object after writing one. -/
namespace Sys2Proof.Machine
open Sys2Proof

/-! ### Threads, groups, cores, holdings, contexts, kernels, gangs -/

@[simp] theorem State.thread?_setThread_self (s : State) (t : TRef) (x : Thread) : (s.setThread t x).thread? t = some x :=
  Dict.get?_set_self _ _ _

theorem State.thread?_setThread_ne (s : State) {t u : TRef} (x : Thread) (h : u ≠ t) : (s.setThread t x).thread? u = s.thread? u :=
  Dict.get?_set_ne _ _ h

@[simp] theorem State.group?_setGroup_self (s : State) (t : GRef) (x : Group) : (s.setGroup t x).group? t = some x :=
  Dict.get?_set_self _ _ _

theorem State.group?_setGroup_ne (s : State) {t u : GRef} (x : Group) (h : u ≠ t) : (s.setGroup t x).group? u = s.group? u :=
  Dict.get?_set_ne _ _ h

theorem State.core_setCore (s : State) (c d : CoreRef) (x : Core) : (s.setCore c x).core d = if d = c then x else s.core d :=
  Dict.getD_set _ _ _ _ _

theorem State.holding_setHolding (s : State) (c d : CCRef) (x : Holding) : (s.setHolding c x).holding d = if d = c then x else s.holding d :=
  Dict.getD_set _ _ _ _ _

theorem State.ctx_setCtx (s : State) (c d : CtxRef) (x : Ctx) : (s.setCtx c x).ctx d = if d = c then x else s.ctx d :=
  Dict.getD_set _ _ _ _ _

@[simp] theorem State.kernel?_setKernel_self (s : State) (k : KRef) (x : Kernel) : (s.setKernel k x).kernel? k = some x :=
  Dict.get?_set_self _ _ _

@[simp] theorem State.gang?_setGang_self (s : State) (k : GangRef) (x : Gang) : (s.setGang k x).gang? k = some x :=
  Dict.get?_set_self _ _ _

end Sys2Proof.Machine
end

