-- ==== Sys2Proof/Laws/Frame.lean ====
section
/-! SUPPORT. One law for each field, and each accessor, and each update of State that leaves it alone. -/
namespace Sys2Proof.Machine
open Sys2Proof

/-! ### setThread -/

@[simp] theorem State.setThread_time (s : State) (t : TRef) (x : Thread) : (s.setThread t x).time = s.time := rfl
@[simp] theorem State.setThread_whisk (s : State) (t : TRef) (x : Thread) : (s.setThread t x).whisk = s.whisk := rfl
@[simp] theorem State.setThread_pestle (s : State) (t : TRef) (x : Thread) : (s.setThread t x).pestle = s.pestle := rfl
@[simp] theorem State.setThread_lid (s : State) (t : TRef) (x : Thread) : (s.setThread t x).lid = s.lid := rfl
@[simp] theorem State.setThread_inReset (s : State) (t : TRef) (x : Thread) : (s.setThread t x).inReset = s.inReset := rfl
@[simp] theorem State.setThread_dies (s : State) (t : TRef) (x : Thread) : (s.setThread t x).dies = s.dies := rfl
@[simp] theorem State.setThread_links (s : State) (t : TRef) (x : Thread) : (s.setThread t x).links = s.links := rfl
@[simp] theorem State.setThread_parts (s : State) (t : TRef) (x : Thread) : (s.setThread t x).parts = s.parts := rfl
@[simp] theorem State.setThread_ctxs (s : State) (t : TRef) (x : Thread) : (s.setThread t x).ctxs = s.ctxs := rfl
@[simp] theorem State.setThread_kernels (s : State) (t : TRef) (x : Thread) : (s.setThread t x).kernels = s.kernels := rfl
@[simp] theorem State.setThread_gangs (s : State) (t : TRef) (x : Thread) : (s.setThread t x).gangs = s.gangs := rfl
@[simp] theorem State.setThread_groups (s : State) (t : TRef) (x : Thread) : (s.setThread t x).groups = s.groups := rfl
@[simp] theorem State.setThread_holds (s : State) (t : TRef) (x : Thread) : (s.setThread t x).holds = s.holds := rfl
@[simp] theorem State.setThread_cores (s : State) (t : TRef) (x : Thread) : (s.setThread t x).cores = s.cores := rfl
@[simp] theorem State.setThread_mem (s : State) (t : TRef) (x : Thread) : (s.setThread t x).mem = s.mem := rfl
@[simp] theorem State.setThread_keyTag (s : State) (t : TRef) (x : Thread) : (s.setThread t x).keyTag = s.keyTag := rfl
@[simp] theorem State.setThread_poison (s : State) (t : TRef) (x : Thread) : (s.setThread t x).poison = s.poison := rfl
@[simp] theorem State.setThread_regPois (s : State) (t : TRef) (x : Thread) : (s.setThread t x).regPois = s.regPois := rfl
@[simp] theorem State.setThread_scrPois (s : State) (t : TRef) (x : Thread) : (s.setThread t x).scrPois = s.scrPois := rfl
@[simp] theorem State.setThread_accPois (s : State) (t : TRef) (x : Thread) : (s.setThread t x).accPois = s.accPois := rfl
@[simp] theorem State.setThread_hostAns (s : State) (t : TRef) (x : Thread) : (s.setThread t x).hostAns = s.hostAns := rfl
@[simp] theorem State.setThread_lines (s : State) (t : TRef) (x : Thread) : (s.setThread t x).lines = s.lines := rfl
@[simp] theorem State.setThread_pool (s : State) (t : TRef) (x : Thread) : (s.setThread t x).pool = s.pool := rfl
@[simp] theorem State.setThread_poolAge (s : State) (t : TRef) (x : Thread) : (s.setThread t x).poolAge = s.poolAge := rfl
@[simp] theorem State.setThread_freqs (s : State) (t : TRef) (x : Thread) : (s.setThread t x).freqs = s.freqs := rfl
@[simp] theorem State.setThread_nextTag (s : State) (t : TRef) (x : Thread) : (s.setThread t x).nextTag = s.nextTag := rfl
@[simp] theorem State.setThread_outbox (s : State) (t : TRef) (x : Thread) : (s.setThread t x).outbox = s.outbox := rfl
@[simp] theorem State.setThread_cur (s : State) (t : TRef) (x : Thread) : (s.setThread t x).cur = s.cur := rfl
@[simp] theorem State.setThread_issueQ (s : State) (t : TRef) (x : Thread) : (s.setThread t x).issueQ = s.issueQ := rfl
@[simp] theorem State.setThread_agenda (s : State) (t : TRef) (x : Thread) : (s.setThread t x).agenda = s.agenda := rfl
@[simp] theorem State.setThread_fresh (s : State) (t : TRef) (x : Thread) : (s.setThread t x).fresh = s.fresh := rfl
@[simp] theorem State.setThread_moves (s : State) (t : TRef) (x : Thread) : (s.setThread t x).moves = s.moves := rfl
@[simp] theorem State.setThread_matMeta (s : State) (t : TRef) (x : Thread) : (s.setThread t x).matMeta = s.matMeta := rfl
@[simp] theorem State.setThread_copyMeta (s : State) (t : TRef) (x : Thread) : (s.setThread t x).copyMeta = s.copyMeta := rfl
@[simp] theorem State.setThread_swapMeta (s : State) (t : TRef) (x : Thread) : (s.setThread t x).swapMeta = s.swapMeta := rfl
@[simp] theorem State.setThread_vtMeta (s : State) (t : TRef) (x : Thread) : (s.setThread t x).vtMeta = s.vtMeta := rfl
@[simp] theorem State.setThread_codeOld (s : State) (t : TRef) (x : Thread) : (s.setThread t x).codeOld = s.codeOld := rfl
@[simp] theorem State.setThread_notes (s : State) (t : TRef) (x : Thread) : (s.setThread t x).notes = s.notes := rfl
@[simp] theorem State.setThread_sigs (s : State) (t : TRef) (x : Thread) : (s.setThread t x).sigs = s.sigs := rfl
@[simp] theorem State.group?_setThread (s : State) (t : TRef) (x : Thread) (h : GRef) : (s.setThread t x).group? h = s.group? h := rfl
@[simp] theorem State.kernel?_setThread (s : State) (t : TRef) (x : Thread) (j : KRef) : (s.setThread t x).kernel? j = s.kernel? j := rfl
@[simp] theorem State.gang?_setThread (s : State) (t : TRef) (x : Thread) (h : GangRef) : (s.setThread t x).gang? h = s.gang? h := rfl
@[simp] theorem State.holding_setThread (s : State) (t : TRef) (x : Thread) (d : CCRef) : (s.setThread t x).holding d = s.holding d := rfl
@[simp] theorem State.core_setThread (s : State) (t : TRef) (x : Thread) (d : CoreRef) : (s.setThread t x).core d = s.core d := rfl
@[simp] theorem State.ctx_setThread (s : State) (t : TRef) (x : Thread) (d : CtxRef) : (s.setThread t x).ctx d = s.ctx d := rfl
@[simp] theorem State.part_setThread (s : State) (t : TRef) (x : Thread) (n : Nat) : (s.setThread t x).part n = s.part n := rfl
@[simp] theorem State.die_setThread (s : State) (t : TRef) (x : Thread) (n : Nat) : (s.setThread t x).die n = s.die n := rfl
@[simp] theorem State.queue_setThread (s : State) (t : TRef) (x : Thread) (r : QRef) : (s.setThread t x).queue r = s.queue r := rfl
@[simp] theorem State.line_setThread (s : State) (t : TRef) (x : Thread) (n : Nat) : (s.setThread t x).line n = s.line n := rfl
@[simp] theorem State.poolLine_setThread (s : State) (t : TRef) (x : Thread) (n i : Nat) : (s.setThread t x).poolLine n i = s.poolLine n i := rfl
@[simp] theorem State.memByte_setThread (s : State) (t : TRef) (x : Thread) (a : Nat) : (s.setThread t x).memByte a = s.memByte a := rfl

/-! ### setGroup -/

@[simp] theorem State.setGroup_time (s : State) (g : GRef) (x : Group) : (s.setGroup g x).time = s.time := rfl
@[simp] theorem State.setGroup_whisk (s : State) (g : GRef) (x : Group) : (s.setGroup g x).whisk = s.whisk := rfl
@[simp] theorem State.setGroup_pestle (s : State) (g : GRef) (x : Group) : (s.setGroup g x).pestle = s.pestle := rfl
@[simp] theorem State.setGroup_lid (s : State) (g : GRef) (x : Group) : (s.setGroup g x).lid = s.lid := rfl
@[simp] theorem State.setGroup_inReset (s : State) (g : GRef) (x : Group) : (s.setGroup g x).inReset = s.inReset := rfl
@[simp] theorem State.setGroup_dies (s : State) (g : GRef) (x : Group) : (s.setGroup g x).dies = s.dies := rfl
@[simp] theorem State.setGroup_links (s : State) (g : GRef) (x : Group) : (s.setGroup g x).links = s.links := rfl
@[simp] theorem State.setGroup_parts (s : State) (g : GRef) (x : Group) : (s.setGroup g x).parts = s.parts := rfl
@[simp] theorem State.setGroup_ctxs (s : State) (g : GRef) (x : Group) : (s.setGroup g x).ctxs = s.ctxs := rfl
@[simp] theorem State.setGroup_kernels (s : State) (g : GRef) (x : Group) : (s.setGroup g x).kernels = s.kernels := rfl
@[simp] theorem State.setGroup_gangs (s : State) (g : GRef) (x : Group) : (s.setGroup g x).gangs = s.gangs := rfl
@[simp] theorem State.setGroup_threads (s : State) (g : GRef) (x : Group) : (s.setGroup g x).threads = s.threads := rfl
@[simp] theorem State.setGroup_holds (s : State) (g : GRef) (x : Group) : (s.setGroup g x).holds = s.holds := rfl
@[simp] theorem State.setGroup_cores (s : State) (g : GRef) (x : Group) : (s.setGroup g x).cores = s.cores := rfl
@[simp] theorem State.setGroup_mem (s : State) (g : GRef) (x : Group) : (s.setGroup g x).mem = s.mem := rfl
@[simp] theorem State.setGroup_keyTag (s : State) (g : GRef) (x : Group) : (s.setGroup g x).keyTag = s.keyTag := rfl
@[simp] theorem State.setGroup_poison (s : State) (g : GRef) (x : Group) : (s.setGroup g x).poison = s.poison := rfl
@[simp] theorem State.setGroup_regPois (s : State) (g : GRef) (x : Group) : (s.setGroup g x).regPois = s.regPois := rfl
@[simp] theorem State.setGroup_scrPois (s : State) (g : GRef) (x : Group) : (s.setGroup g x).scrPois = s.scrPois := rfl
@[simp] theorem State.setGroup_accPois (s : State) (g : GRef) (x : Group) : (s.setGroup g x).accPois = s.accPois := rfl
@[simp] theorem State.setGroup_hostAns (s : State) (g : GRef) (x : Group) : (s.setGroup g x).hostAns = s.hostAns := rfl
@[simp] theorem State.setGroup_lines (s : State) (g : GRef) (x : Group) : (s.setGroup g x).lines = s.lines := rfl
@[simp] theorem State.setGroup_pool (s : State) (g : GRef) (x : Group) : (s.setGroup g x).pool = s.pool := rfl
@[simp] theorem State.setGroup_poolAge (s : State) (g : GRef) (x : Group) : (s.setGroup g x).poolAge = s.poolAge := rfl
@[simp] theorem State.setGroup_freqs (s : State) (g : GRef) (x : Group) : (s.setGroup g x).freqs = s.freqs := rfl
@[simp] theorem State.setGroup_nextTag (s : State) (g : GRef) (x : Group) : (s.setGroup g x).nextTag = s.nextTag := rfl
@[simp] theorem State.setGroup_outbox (s : State) (g : GRef) (x : Group) : (s.setGroup g x).outbox = s.outbox := rfl
@[simp] theorem State.setGroup_cur (s : State) (g : GRef) (x : Group) : (s.setGroup g x).cur = s.cur := rfl
@[simp] theorem State.setGroup_issueQ (s : State) (g : GRef) (x : Group) : (s.setGroup g x).issueQ = s.issueQ := rfl
@[simp] theorem State.setGroup_agenda (s : State) (g : GRef) (x : Group) : (s.setGroup g x).agenda = s.agenda := rfl
@[simp] theorem State.setGroup_fresh (s : State) (g : GRef) (x : Group) : (s.setGroup g x).fresh = s.fresh := rfl
@[simp] theorem State.setGroup_moves (s : State) (g : GRef) (x : Group) : (s.setGroup g x).moves = s.moves := rfl
@[simp] theorem State.setGroup_matMeta (s : State) (g : GRef) (x : Group) : (s.setGroup g x).matMeta = s.matMeta := rfl
@[simp] theorem State.setGroup_copyMeta (s : State) (g : GRef) (x : Group) : (s.setGroup g x).copyMeta = s.copyMeta := rfl
@[simp] theorem State.setGroup_swapMeta (s : State) (g : GRef) (x : Group) : (s.setGroup g x).swapMeta = s.swapMeta := rfl
@[simp] theorem State.setGroup_vtMeta (s : State) (g : GRef) (x : Group) : (s.setGroup g x).vtMeta = s.vtMeta := rfl
@[simp] theorem State.setGroup_codeOld (s : State) (g : GRef) (x : Group) : (s.setGroup g x).codeOld = s.codeOld := rfl
@[simp] theorem State.setGroup_notes (s : State) (g : GRef) (x : Group) : (s.setGroup g x).notes = s.notes := rfl
@[simp] theorem State.setGroup_sigs (s : State) (g : GRef) (x : Group) : (s.setGroup g x).sigs = s.sigs := rfl
@[simp] theorem State.thread?_setGroup (s : State) (g : GRef) (x : Group) (u : TRef) : (s.setGroup g x).thread? u = s.thread? u := rfl
@[simp] theorem State.kernel?_setGroup (s : State) (g : GRef) (x : Group) (j : KRef) : (s.setGroup g x).kernel? j = s.kernel? j := rfl
@[simp] theorem State.gang?_setGroup (s : State) (g : GRef) (x : Group) (h : GangRef) : (s.setGroup g x).gang? h = s.gang? h := rfl
@[simp] theorem State.holding_setGroup (s : State) (g : GRef) (x : Group) (d : CCRef) : (s.setGroup g x).holding d = s.holding d := rfl
@[simp] theorem State.core_setGroup (s : State) (g : GRef) (x : Group) (d : CoreRef) : (s.setGroup g x).core d = s.core d := rfl
@[simp] theorem State.ctx_setGroup (s : State) (g : GRef) (x : Group) (d : CtxRef) : (s.setGroup g x).ctx d = s.ctx d := rfl
@[simp] theorem State.part_setGroup (s : State) (g : GRef) (x : Group) (n : Nat) : (s.setGroup g x).part n = s.part n := rfl
@[simp] theorem State.die_setGroup (s : State) (g : GRef) (x : Group) (n : Nat) : (s.setGroup g x).die n = s.die n := rfl
@[simp] theorem State.queue_setGroup (s : State) (g : GRef) (x : Group) (r : QRef) : (s.setGroup g x).queue r = s.queue r := rfl
@[simp] theorem State.line_setGroup (s : State) (g : GRef) (x : Group) (n : Nat) : (s.setGroup g x).line n = s.line n := rfl
@[simp] theorem State.poolLine_setGroup (s : State) (g : GRef) (x : Group) (n i : Nat) : (s.setGroup g x).poolLine n i = s.poolLine n i := rfl
@[simp] theorem State.memByte_setGroup (s : State) (g : GRef) (x : Group) (a : Nat) : (s.setGroup g x).memByte a = s.memByte a := rfl

/-! ### setHolding -/

@[simp] theorem State.setHolding_time (s : State) (c : CCRef) (x : Holding) : (s.setHolding c x).time = s.time := rfl
@[simp] theorem State.setHolding_whisk (s : State) (c : CCRef) (x : Holding) : (s.setHolding c x).whisk = s.whisk := rfl
@[simp] theorem State.setHolding_pestle (s : State) (c : CCRef) (x : Holding) : (s.setHolding c x).pestle = s.pestle := rfl
@[simp] theorem State.setHolding_lid (s : State) (c : CCRef) (x : Holding) : (s.setHolding c x).lid = s.lid := rfl
@[simp] theorem State.setHolding_inReset (s : State) (c : CCRef) (x : Holding) : (s.setHolding c x).inReset = s.inReset := rfl
@[simp] theorem State.setHolding_dies (s : State) (c : CCRef) (x : Holding) : (s.setHolding c x).dies = s.dies := rfl
@[simp] theorem State.setHolding_links (s : State) (c : CCRef) (x : Holding) : (s.setHolding c x).links = s.links := rfl
@[simp] theorem State.setHolding_parts (s : State) (c : CCRef) (x : Holding) : (s.setHolding c x).parts = s.parts := rfl
@[simp] theorem State.setHolding_ctxs (s : State) (c : CCRef) (x : Holding) : (s.setHolding c x).ctxs = s.ctxs := rfl
@[simp] theorem State.setHolding_kernels (s : State) (c : CCRef) (x : Holding) : (s.setHolding c x).kernels = s.kernels := rfl
@[simp] theorem State.setHolding_gangs (s : State) (c : CCRef) (x : Holding) : (s.setHolding c x).gangs = s.gangs := rfl
@[simp] theorem State.setHolding_groups (s : State) (c : CCRef) (x : Holding) : (s.setHolding c x).groups = s.groups := rfl
@[simp] theorem State.setHolding_threads (s : State) (c : CCRef) (x : Holding) : (s.setHolding c x).threads = s.threads := rfl
@[simp] theorem State.setHolding_cores (s : State) (c : CCRef) (x : Holding) : (s.setHolding c x).cores = s.cores := rfl
@[simp] theorem State.setHolding_mem (s : State) (c : CCRef) (x : Holding) : (s.setHolding c x).mem = s.mem := rfl
@[simp] theorem State.setHolding_keyTag (s : State) (c : CCRef) (x : Holding) : (s.setHolding c x).keyTag = s.keyTag := rfl
@[simp] theorem State.setHolding_poison (s : State) (c : CCRef) (x : Holding) : (s.setHolding c x).poison = s.poison := rfl
@[simp] theorem State.setHolding_regPois (s : State) (c : CCRef) (x : Holding) : (s.setHolding c x).regPois = s.regPois := rfl
@[simp] theorem State.setHolding_scrPois (s : State) (c : CCRef) (x : Holding) : (s.setHolding c x).scrPois = s.scrPois := rfl
@[simp] theorem State.setHolding_accPois (s : State) (c : CCRef) (x : Holding) : (s.setHolding c x).accPois = s.accPois := rfl
@[simp] theorem State.setHolding_hostAns (s : State) (c : CCRef) (x : Holding) : (s.setHolding c x).hostAns = s.hostAns := rfl
@[simp] theorem State.setHolding_lines (s : State) (c : CCRef) (x : Holding) : (s.setHolding c x).lines = s.lines := rfl
@[simp] theorem State.setHolding_pool (s : State) (c : CCRef) (x : Holding) : (s.setHolding c x).pool = s.pool := rfl
@[simp] theorem State.setHolding_poolAge (s : State) (c : CCRef) (x : Holding) : (s.setHolding c x).poolAge = s.poolAge := rfl
@[simp] theorem State.setHolding_freqs (s : State) (c : CCRef) (x : Holding) : (s.setHolding c x).freqs = s.freqs := rfl
@[simp] theorem State.setHolding_nextTag (s : State) (c : CCRef) (x : Holding) : (s.setHolding c x).nextTag = s.nextTag := rfl
@[simp] theorem State.setHolding_outbox (s : State) (c : CCRef) (x : Holding) : (s.setHolding c x).outbox = s.outbox := rfl
@[simp] theorem State.setHolding_cur (s : State) (c : CCRef) (x : Holding) : (s.setHolding c x).cur = s.cur := rfl
@[simp] theorem State.setHolding_issueQ (s : State) (c : CCRef) (x : Holding) : (s.setHolding c x).issueQ = s.issueQ := rfl
@[simp] theorem State.setHolding_agenda (s : State) (c : CCRef) (x : Holding) : (s.setHolding c x).agenda = s.agenda := rfl
@[simp] theorem State.setHolding_fresh (s : State) (c : CCRef) (x : Holding) : (s.setHolding c x).fresh = s.fresh := rfl
@[simp] theorem State.setHolding_moves (s : State) (c : CCRef) (x : Holding) : (s.setHolding c x).moves = s.moves := rfl
@[simp] theorem State.setHolding_matMeta (s : State) (c : CCRef) (x : Holding) : (s.setHolding c x).matMeta = s.matMeta := rfl
@[simp] theorem State.setHolding_copyMeta (s : State) (c : CCRef) (x : Holding) : (s.setHolding c x).copyMeta = s.copyMeta := rfl
@[simp] theorem State.setHolding_swapMeta (s : State) (c : CCRef) (x : Holding) : (s.setHolding c x).swapMeta = s.swapMeta := rfl
@[simp] theorem State.setHolding_vtMeta (s : State) (c : CCRef) (x : Holding) : (s.setHolding c x).vtMeta = s.vtMeta := rfl
@[simp] theorem State.setHolding_codeOld (s : State) (c : CCRef) (x : Holding) : (s.setHolding c x).codeOld = s.codeOld := rfl
@[simp] theorem State.setHolding_notes (s : State) (c : CCRef) (x : Holding) : (s.setHolding c x).notes = s.notes := rfl
@[simp] theorem State.setHolding_sigs (s : State) (c : CCRef) (x : Holding) : (s.setHolding c x).sigs = s.sigs := rfl
@[simp] theorem State.thread?_setHolding (s : State) (c : CCRef) (x : Holding) (u : TRef) : (s.setHolding c x).thread? u = s.thread? u := rfl
@[simp] theorem State.group?_setHolding (s : State) (c : CCRef) (x : Holding) (h : GRef) : (s.setHolding c x).group? h = s.group? h := rfl
@[simp] theorem State.kernel?_setHolding (s : State) (c : CCRef) (x : Holding) (j : KRef) : (s.setHolding c x).kernel? j = s.kernel? j := rfl
@[simp] theorem State.gang?_setHolding (s : State) (c : CCRef) (x : Holding) (h : GangRef) : (s.setHolding c x).gang? h = s.gang? h := rfl
@[simp] theorem State.core_setHolding (s : State) (c : CCRef) (x : Holding) (d : CoreRef) : (s.setHolding c x).core d = s.core d := rfl
@[simp] theorem State.ctx_setHolding (s : State) (c : CCRef) (x : Holding) (d : CtxRef) : (s.setHolding c x).ctx d = s.ctx d := rfl
@[simp] theorem State.part_setHolding (s : State) (c : CCRef) (x : Holding) (n : Nat) : (s.setHolding c x).part n = s.part n := rfl
@[simp] theorem State.die_setHolding (s : State) (c : CCRef) (x : Holding) (n : Nat) : (s.setHolding c x).die n = s.die n := rfl
@[simp] theorem State.queue_setHolding (s : State) (c : CCRef) (x : Holding) (r : QRef) : (s.setHolding c x).queue r = s.queue r := rfl
@[simp] theorem State.line_setHolding (s : State) (c : CCRef) (x : Holding) (n : Nat) : (s.setHolding c x).line n = s.line n := rfl
@[simp] theorem State.poolLine_setHolding (s : State) (c : CCRef) (x : Holding) (n i : Nat) : (s.setHolding c x).poolLine n i = s.poolLine n i := rfl
@[simp] theorem State.memByte_setHolding (s : State) (c : CCRef) (x : Holding) (a : Nat) : (s.setHolding c x).memByte a = s.memByte a := rfl

/-! ### modHolding -/

@[simp] theorem State.modHolding_time (s : State) (c : CCRef) (f : Holding → Holding) : (s.modHolding c f).time = s.time := rfl
@[simp] theorem State.modHolding_whisk (s : State) (c : CCRef) (f : Holding → Holding) : (s.modHolding c f).whisk = s.whisk := rfl
@[simp] theorem State.modHolding_pestle (s : State) (c : CCRef) (f : Holding → Holding) : (s.modHolding c f).pestle = s.pestle := rfl
@[simp] theorem State.modHolding_lid (s : State) (c : CCRef) (f : Holding → Holding) : (s.modHolding c f).lid = s.lid := rfl
@[simp] theorem State.modHolding_inReset (s : State) (c : CCRef) (f : Holding → Holding) : (s.modHolding c f).inReset = s.inReset := rfl
@[simp] theorem State.modHolding_dies (s : State) (c : CCRef) (f : Holding → Holding) : (s.modHolding c f).dies = s.dies := rfl
@[simp] theorem State.modHolding_links (s : State) (c : CCRef) (f : Holding → Holding) : (s.modHolding c f).links = s.links := rfl
@[simp] theorem State.modHolding_parts (s : State) (c : CCRef) (f : Holding → Holding) : (s.modHolding c f).parts = s.parts := rfl
@[simp] theorem State.modHolding_ctxs (s : State) (c : CCRef) (f : Holding → Holding) : (s.modHolding c f).ctxs = s.ctxs := rfl
@[simp] theorem State.modHolding_kernels (s : State) (c : CCRef) (f : Holding → Holding) : (s.modHolding c f).kernels = s.kernels := rfl
@[simp] theorem State.modHolding_gangs (s : State) (c : CCRef) (f : Holding → Holding) : (s.modHolding c f).gangs = s.gangs := rfl
@[simp] theorem State.modHolding_groups (s : State) (c : CCRef) (f : Holding → Holding) : (s.modHolding c f).groups = s.groups := rfl
@[simp] theorem State.modHolding_threads (s : State) (c : CCRef) (f : Holding → Holding) : (s.modHolding c f).threads = s.threads := rfl
@[simp] theorem State.modHolding_cores (s : State) (c : CCRef) (f : Holding → Holding) : (s.modHolding c f).cores = s.cores := rfl
@[simp] theorem State.modHolding_mem (s : State) (c : CCRef) (f : Holding → Holding) : (s.modHolding c f).mem = s.mem := rfl
@[simp] theorem State.modHolding_keyTag (s : State) (c : CCRef) (f : Holding → Holding) : (s.modHolding c f).keyTag = s.keyTag := rfl
@[simp] theorem State.modHolding_poison (s : State) (c : CCRef) (f : Holding → Holding) : (s.modHolding c f).poison = s.poison := rfl
@[simp] theorem State.modHolding_regPois (s : State) (c : CCRef) (f : Holding → Holding) : (s.modHolding c f).regPois = s.regPois := rfl
@[simp] theorem State.modHolding_scrPois (s : State) (c : CCRef) (f : Holding → Holding) : (s.modHolding c f).scrPois = s.scrPois := rfl
@[simp] theorem State.modHolding_accPois (s : State) (c : CCRef) (f : Holding → Holding) : (s.modHolding c f).accPois = s.accPois := rfl
@[simp] theorem State.modHolding_hostAns (s : State) (c : CCRef) (f : Holding → Holding) : (s.modHolding c f).hostAns = s.hostAns := rfl
@[simp] theorem State.modHolding_lines (s : State) (c : CCRef) (f : Holding → Holding) : (s.modHolding c f).lines = s.lines := rfl
@[simp] theorem State.modHolding_pool (s : State) (c : CCRef) (f : Holding → Holding) : (s.modHolding c f).pool = s.pool := rfl
@[simp] theorem State.modHolding_poolAge (s : State) (c : CCRef) (f : Holding → Holding) : (s.modHolding c f).poolAge = s.poolAge := rfl
@[simp] theorem State.modHolding_freqs (s : State) (c : CCRef) (f : Holding → Holding) : (s.modHolding c f).freqs = s.freqs := rfl
@[simp] theorem State.modHolding_nextTag (s : State) (c : CCRef) (f : Holding → Holding) : (s.modHolding c f).nextTag = s.nextTag := rfl
@[simp] theorem State.modHolding_outbox (s : State) (c : CCRef) (f : Holding → Holding) : (s.modHolding c f).outbox = s.outbox := rfl
@[simp] theorem State.modHolding_cur (s : State) (c : CCRef) (f : Holding → Holding) : (s.modHolding c f).cur = s.cur := rfl
@[simp] theorem State.modHolding_issueQ (s : State) (c : CCRef) (f : Holding → Holding) : (s.modHolding c f).issueQ = s.issueQ := rfl
@[simp] theorem State.modHolding_agenda (s : State) (c : CCRef) (f : Holding → Holding) : (s.modHolding c f).agenda = s.agenda := rfl
@[simp] theorem State.modHolding_fresh (s : State) (c : CCRef) (f : Holding → Holding) : (s.modHolding c f).fresh = s.fresh := rfl
@[simp] theorem State.modHolding_moves (s : State) (c : CCRef) (f : Holding → Holding) : (s.modHolding c f).moves = s.moves := rfl
@[simp] theorem State.modHolding_matMeta (s : State) (c : CCRef) (f : Holding → Holding) : (s.modHolding c f).matMeta = s.matMeta := rfl
@[simp] theorem State.modHolding_copyMeta (s : State) (c : CCRef) (f : Holding → Holding) : (s.modHolding c f).copyMeta = s.copyMeta := rfl
@[simp] theorem State.modHolding_swapMeta (s : State) (c : CCRef) (f : Holding → Holding) : (s.modHolding c f).swapMeta = s.swapMeta := rfl
@[simp] theorem State.modHolding_vtMeta (s : State) (c : CCRef) (f : Holding → Holding) : (s.modHolding c f).vtMeta = s.vtMeta := rfl
@[simp] theorem State.modHolding_codeOld (s : State) (c : CCRef) (f : Holding → Holding) : (s.modHolding c f).codeOld = s.codeOld := rfl
@[simp] theorem State.modHolding_notes (s : State) (c : CCRef) (f : Holding → Holding) : (s.modHolding c f).notes = s.notes := rfl
@[simp] theorem State.modHolding_sigs (s : State) (c : CCRef) (f : Holding → Holding) : (s.modHolding c f).sigs = s.sigs := rfl
@[simp] theorem State.thread?_modHolding (s : State) (c : CCRef) (f : Holding → Holding) (u : TRef) : (s.modHolding c f).thread? u = s.thread? u := rfl
@[simp] theorem State.group?_modHolding (s : State) (c : CCRef) (f : Holding → Holding) (h : GRef) : (s.modHolding c f).group? h = s.group? h := rfl
@[simp] theorem State.kernel?_modHolding (s : State) (c : CCRef) (f : Holding → Holding) (j : KRef) : (s.modHolding c f).kernel? j = s.kernel? j := rfl
@[simp] theorem State.gang?_modHolding (s : State) (c : CCRef) (f : Holding → Holding) (h : GangRef) : (s.modHolding c f).gang? h = s.gang? h := rfl
@[simp] theorem State.core_modHolding (s : State) (c : CCRef) (f : Holding → Holding) (d : CoreRef) : (s.modHolding c f).core d = s.core d := rfl
@[simp] theorem State.ctx_modHolding (s : State) (c : CCRef) (f : Holding → Holding) (d : CtxRef) : (s.modHolding c f).ctx d = s.ctx d := rfl
@[simp] theorem State.part_modHolding (s : State) (c : CCRef) (f : Holding → Holding) (n : Nat) : (s.modHolding c f).part n = s.part n := rfl
@[simp] theorem State.die_modHolding (s : State) (c : CCRef) (f : Holding → Holding) (n : Nat) : (s.modHolding c f).die n = s.die n := rfl
@[simp] theorem State.queue_modHolding (s : State) (c : CCRef) (f : Holding → Holding) (r : QRef) : (s.modHolding c f).queue r = s.queue r := rfl
@[simp] theorem State.line_modHolding (s : State) (c : CCRef) (f : Holding → Holding) (n : Nat) : (s.modHolding c f).line n = s.line n := rfl
@[simp] theorem State.poolLine_modHolding (s : State) (c : CCRef) (f : Holding → Holding) (n i : Nat) : (s.modHolding c f).poolLine n i = s.poolLine n i := rfl
@[simp] theorem State.memByte_modHolding (s : State) (c : CCRef) (f : Holding → Holding) (a : Nat) : (s.modHolding c f).memByte a = s.memByte a := rfl

/-! ### setCore -/

@[simp] theorem State.setCore_time (s : State) (c : CoreRef) (x : Core) : (s.setCore c x).time = s.time := rfl
@[simp] theorem State.setCore_whisk (s : State) (c : CoreRef) (x : Core) : (s.setCore c x).whisk = s.whisk := rfl
@[simp] theorem State.setCore_pestle (s : State) (c : CoreRef) (x : Core) : (s.setCore c x).pestle = s.pestle := rfl
@[simp] theorem State.setCore_lid (s : State) (c : CoreRef) (x : Core) : (s.setCore c x).lid = s.lid := rfl
@[simp] theorem State.setCore_inReset (s : State) (c : CoreRef) (x : Core) : (s.setCore c x).inReset = s.inReset := rfl
@[simp] theorem State.setCore_dies (s : State) (c : CoreRef) (x : Core) : (s.setCore c x).dies = s.dies := rfl
@[simp] theorem State.setCore_links (s : State) (c : CoreRef) (x : Core) : (s.setCore c x).links = s.links := rfl
@[simp] theorem State.setCore_parts (s : State) (c : CoreRef) (x : Core) : (s.setCore c x).parts = s.parts := rfl
@[simp] theorem State.setCore_ctxs (s : State) (c : CoreRef) (x : Core) : (s.setCore c x).ctxs = s.ctxs := rfl
@[simp] theorem State.setCore_kernels (s : State) (c : CoreRef) (x : Core) : (s.setCore c x).kernels = s.kernels := rfl
@[simp] theorem State.setCore_gangs (s : State) (c : CoreRef) (x : Core) : (s.setCore c x).gangs = s.gangs := rfl
@[simp] theorem State.setCore_groups (s : State) (c : CoreRef) (x : Core) : (s.setCore c x).groups = s.groups := rfl
@[simp] theorem State.setCore_threads (s : State) (c : CoreRef) (x : Core) : (s.setCore c x).threads = s.threads := rfl
@[simp] theorem State.setCore_holds (s : State) (c : CoreRef) (x : Core) : (s.setCore c x).holds = s.holds := rfl
@[simp] theorem State.setCore_mem (s : State) (c : CoreRef) (x : Core) : (s.setCore c x).mem = s.mem := rfl
@[simp] theorem State.setCore_keyTag (s : State) (c : CoreRef) (x : Core) : (s.setCore c x).keyTag = s.keyTag := rfl
@[simp] theorem State.setCore_poison (s : State) (c : CoreRef) (x : Core) : (s.setCore c x).poison = s.poison := rfl
@[simp] theorem State.setCore_regPois (s : State) (c : CoreRef) (x : Core) : (s.setCore c x).regPois = s.regPois := rfl
@[simp] theorem State.setCore_scrPois (s : State) (c : CoreRef) (x : Core) : (s.setCore c x).scrPois = s.scrPois := rfl
@[simp] theorem State.setCore_accPois (s : State) (c : CoreRef) (x : Core) : (s.setCore c x).accPois = s.accPois := rfl
@[simp] theorem State.setCore_hostAns (s : State) (c : CoreRef) (x : Core) : (s.setCore c x).hostAns = s.hostAns := rfl
@[simp] theorem State.setCore_lines (s : State) (c : CoreRef) (x : Core) : (s.setCore c x).lines = s.lines := rfl
@[simp] theorem State.setCore_pool (s : State) (c : CoreRef) (x : Core) : (s.setCore c x).pool = s.pool := rfl
@[simp] theorem State.setCore_poolAge (s : State) (c : CoreRef) (x : Core) : (s.setCore c x).poolAge = s.poolAge := rfl
@[simp] theorem State.setCore_freqs (s : State) (c : CoreRef) (x : Core) : (s.setCore c x).freqs = s.freqs := rfl
@[simp] theorem State.setCore_nextTag (s : State) (c : CoreRef) (x : Core) : (s.setCore c x).nextTag = s.nextTag := rfl
@[simp] theorem State.setCore_outbox (s : State) (c : CoreRef) (x : Core) : (s.setCore c x).outbox = s.outbox := rfl
@[simp] theorem State.setCore_cur (s : State) (c : CoreRef) (x : Core) : (s.setCore c x).cur = s.cur := rfl
@[simp] theorem State.setCore_issueQ (s : State) (c : CoreRef) (x : Core) : (s.setCore c x).issueQ = s.issueQ := rfl
@[simp] theorem State.setCore_agenda (s : State) (c : CoreRef) (x : Core) : (s.setCore c x).agenda = s.agenda := rfl
@[simp] theorem State.setCore_fresh (s : State) (c : CoreRef) (x : Core) : (s.setCore c x).fresh = s.fresh := rfl
@[simp] theorem State.setCore_moves (s : State) (c : CoreRef) (x : Core) : (s.setCore c x).moves = s.moves := rfl
@[simp] theorem State.setCore_matMeta (s : State) (c : CoreRef) (x : Core) : (s.setCore c x).matMeta = s.matMeta := rfl
@[simp] theorem State.setCore_copyMeta (s : State) (c : CoreRef) (x : Core) : (s.setCore c x).copyMeta = s.copyMeta := rfl
@[simp] theorem State.setCore_swapMeta (s : State) (c : CoreRef) (x : Core) : (s.setCore c x).swapMeta = s.swapMeta := rfl
@[simp] theorem State.setCore_vtMeta (s : State) (c : CoreRef) (x : Core) : (s.setCore c x).vtMeta = s.vtMeta := rfl
@[simp] theorem State.setCore_codeOld (s : State) (c : CoreRef) (x : Core) : (s.setCore c x).codeOld = s.codeOld := rfl
@[simp] theorem State.setCore_notes (s : State) (c : CoreRef) (x : Core) : (s.setCore c x).notes = s.notes := rfl
@[simp] theorem State.setCore_sigs (s : State) (c : CoreRef) (x : Core) : (s.setCore c x).sigs = s.sigs := rfl
@[simp] theorem State.thread?_setCore (s : State) (c : CoreRef) (x : Core) (u : TRef) : (s.setCore c x).thread? u = s.thread? u := rfl
@[simp] theorem State.group?_setCore (s : State) (c : CoreRef) (x : Core) (h : GRef) : (s.setCore c x).group? h = s.group? h := rfl
@[simp] theorem State.kernel?_setCore (s : State) (c : CoreRef) (x : Core) (j : KRef) : (s.setCore c x).kernel? j = s.kernel? j := rfl
@[simp] theorem State.gang?_setCore (s : State) (c : CoreRef) (x : Core) (h : GangRef) : (s.setCore c x).gang? h = s.gang? h := rfl
@[simp] theorem State.holding_setCore (s : State) (c : CoreRef) (x : Core) (d : CCRef) : (s.setCore c x).holding d = s.holding d := rfl
@[simp] theorem State.ctx_setCore (s : State) (c : CoreRef) (x : Core) (d : CtxRef) : (s.setCore c x).ctx d = s.ctx d := rfl
@[simp] theorem State.part_setCore (s : State) (c : CoreRef) (x : Core) (n : Nat) : (s.setCore c x).part n = s.part n := rfl
@[simp] theorem State.die_setCore (s : State) (c : CoreRef) (x : Core) (n : Nat) : (s.setCore c x).die n = s.die n := rfl
@[simp] theorem State.queue_setCore (s : State) (c : CoreRef) (x : Core) (r : QRef) : (s.setCore c x).queue r = s.queue r := rfl
@[simp] theorem State.line_setCore (s : State) (c : CoreRef) (x : Core) (n : Nat) : (s.setCore c x).line n = s.line n := rfl
@[simp] theorem State.poolLine_setCore (s : State) (c : CoreRef) (x : Core) (n i : Nat) : (s.setCore c x).poolLine n i = s.poolLine n i := rfl
@[simp] theorem State.memByte_setCore (s : State) (c : CoreRef) (x : Core) (a : Nat) : (s.setCore c x).memByte a = s.memByte a := rfl

/-! ### modCore -/

@[simp] theorem State.modCore_time (s : State) (c : CoreRef) (f : Core → Core) : (s.modCore c f).time = s.time := rfl
@[simp] theorem State.modCore_whisk (s : State) (c : CoreRef) (f : Core → Core) : (s.modCore c f).whisk = s.whisk := rfl
@[simp] theorem State.modCore_pestle (s : State) (c : CoreRef) (f : Core → Core) : (s.modCore c f).pestle = s.pestle := rfl
@[simp] theorem State.modCore_lid (s : State) (c : CoreRef) (f : Core → Core) : (s.modCore c f).lid = s.lid := rfl
@[simp] theorem State.modCore_inReset (s : State) (c : CoreRef) (f : Core → Core) : (s.modCore c f).inReset = s.inReset := rfl
@[simp] theorem State.modCore_dies (s : State) (c : CoreRef) (f : Core → Core) : (s.modCore c f).dies = s.dies := rfl
@[simp] theorem State.modCore_links (s : State) (c : CoreRef) (f : Core → Core) : (s.modCore c f).links = s.links := rfl
@[simp] theorem State.modCore_parts (s : State) (c : CoreRef) (f : Core → Core) : (s.modCore c f).parts = s.parts := rfl
@[simp] theorem State.modCore_ctxs (s : State) (c : CoreRef) (f : Core → Core) : (s.modCore c f).ctxs = s.ctxs := rfl
@[simp] theorem State.modCore_kernels (s : State) (c : CoreRef) (f : Core → Core) : (s.modCore c f).kernels = s.kernels := rfl
@[simp] theorem State.modCore_gangs (s : State) (c : CoreRef) (f : Core → Core) : (s.modCore c f).gangs = s.gangs := rfl
@[simp] theorem State.modCore_groups (s : State) (c : CoreRef) (f : Core → Core) : (s.modCore c f).groups = s.groups := rfl
@[simp] theorem State.modCore_threads (s : State) (c : CoreRef) (f : Core → Core) : (s.modCore c f).threads = s.threads := rfl
@[simp] theorem State.modCore_holds (s : State) (c : CoreRef) (f : Core → Core) : (s.modCore c f).holds = s.holds := rfl
@[simp] theorem State.modCore_mem (s : State) (c : CoreRef) (f : Core → Core) : (s.modCore c f).mem = s.mem := rfl
@[simp] theorem State.modCore_keyTag (s : State) (c : CoreRef) (f : Core → Core) : (s.modCore c f).keyTag = s.keyTag := rfl
@[simp] theorem State.modCore_poison (s : State) (c : CoreRef) (f : Core → Core) : (s.modCore c f).poison = s.poison := rfl
@[simp] theorem State.modCore_regPois (s : State) (c : CoreRef) (f : Core → Core) : (s.modCore c f).regPois = s.regPois := rfl
@[simp] theorem State.modCore_scrPois (s : State) (c : CoreRef) (f : Core → Core) : (s.modCore c f).scrPois = s.scrPois := rfl
@[simp] theorem State.modCore_accPois (s : State) (c : CoreRef) (f : Core → Core) : (s.modCore c f).accPois = s.accPois := rfl
@[simp] theorem State.modCore_hostAns (s : State) (c : CoreRef) (f : Core → Core) : (s.modCore c f).hostAns = s.hostAns := rfl
@[simp] theorem State.modCore_lines (s : State) (c : CoreRef) (f : Core → Core) : (s.modCore c f).lines = s.lines := rfl
@[simp] theorem State.modCore_pool (s : State) (c : CoreRef) (f : Core → Core) : (s.modCore c f).pool = s.pool := rfl
@[simp] theorem State.modCore_poolAge (s : State) (c : CoreRef) (f : Core → Core) : (s.modCore c f).poolAge = s.poolAge := rfl
@[simp] theorem State.modCore_freqs (s : State) (c : CoreRef) (f : Core → Core) : (s.modCore c f).freqs = s.freqs := rfl
@[simp] theorem State.modCore_nextTag (s : State) (c : CoreRef) (f : Core → Core) : (s.modCore c f).nextTag = s.nextTag := rfl
@[simp] theorem State.modCore_outbox (s : State) (c : CoreRef) (f : Core → Core) : (s.modCore c f).outbox = s.outbox := rfl
@[simp] theorem State.modCore_cur (s : State) (c : CoreRef) (f : Core → Core) : (s.modCore c f).cur = s.cur := rfl
@[simp] theorem State.modCore_issueQ (s : State) (c : CoreRef) (f : Core → Core) : (s.modCore c f).issueQ = s.issueQ := rfl
@[simp] theorem State.modCore_agenda (s : State) (c : CoreRef) (f : Core → Core) : (s.modCore c f).agenda = s.agenda := rfl
@[simp] theorem State.modCore_fresh (s : State) (c : CoreRef) (f : Core → Core) : (s.modCore c f).fresh = s.fresh := rfl
@[simp] theorem State.modCore_moves (s : State) (c : CoreRef) (f : Core → Core) : (s.modCore c f).moves = s.moves := rfl
@[simp] theorem State.modCore_matMeta (s : State) (c : CoreRef) (f : Core → Core) : (s.modCore c f).matMeta = s.matMeta := rfl
@[simp] theorem State.modCore_copyMeta (s : State) (c : CoreRef) (f : Core → Core) : (s.modCore c f).copyMeta = s.copyMeta := rfl
@[simp] theorem State.modCore_swapMeta (s : State) (c : CoreRef) (f : Core → Core) : (s.modCore c f).swapMeta = s.swapMeta := rfl
@[simp] theorem State.modCore_vtMeta (s : State) (c : CoreRef) (f : Core → Core) : (s.modCore c f).vtMeta = s.vtMeta := rfl
@[simp] theorem State.modCore_codeOld (s : State) (c : CoreRef) (f : Core → Core) : (s.modCore c f).codeOld = s.codeOld := rfl
@[simp] theorem State.modCore_notes (s : State) (c : CoreRef) (f : Core → Core) : (s.modCore c f).notes = s.notes := rfl
@[simp] theorem State.modCore_sigs (s : State) (c : CoreRef) (f : Core → Core) : (s.modCore c f).sigs = s.sigs := rfl
@[simp] theorem State.thread?_modCore (s : State) (c : CoreRef) (f : Core → Core) (u : TRef) : (s.modCore c f).thread? u = s.thread? u := rfl
@[simp] theorem State.group?_modCore (s : State) (c : CoreRef) (f : Core → Core) (h : GRef) : (s.modCore c f).group? h = s.group? h := rfl
@[simp] theorem State.kernel?_modCore (s : State) (c : CoreRef) (f : Core → Core) (j : KRef) : (s.modCore c f).kernel? j = s.kernel? j := rfl
@[simp] theorem State.gang?_modCore (s : State) (c : CoreRef) (f : Core → Core) (h : GangRef) : (s.modCore c f).gang? h = s.gang? h := rfl
@[simp] theorem State.holding_modCore (s : State) (c : CoreRef) (f : Core → Core) (d : CCRef) : (s.modCore c f).holding d = s.holding d := rfl
@[simp] theorem State.ctx_modCore (s : State) (c : CoreRef) (f : Core → Core) (d : CtxRef) : (s.modCore c f).ctx d = s.ctx d := rfl
@[simp] theorem State.part_modCore (s : State) (c : CoreRef) (f : Core → Core) (n : Nat) : (s.modCore c f).part n = s.part n := rfl
@[simp] theorem State.die_modCore (s : State) (c : CoreRef) (f : Core → Core) (n : Nat) : (s.modCore c f).die n = s.die n := rfl
@[simp] theorem State.queue_modCore (s : State) (c : CoreRef) (f : Core → Core) (r : QRef) : (s.modCore c f).queue r = s.queue r := rfl
@[simp] theorem State.line_modCore (s : State) (c : CoreRef) (f : Core → Core) (n : Nat) : (s.modCore c f).line n = s.line n := rfl
@[simp] theorem State.poolLine_modCore (s : State) (c : CoreRef) (f : Core → Core) (n i : Nat) : (s.modCore c f).poolLine n i = s.poolLine n i := rfl
@[simp] theorem State.memByte_modCore (s : State) (c : CoreRef) (f : Core → Core) (a : Nat) : (s.modCore c f).memByte a = s.memByte a := rfl

/-! ### setCtx -/

@[simp] theorem State.setCtx_time (s : State) (c : CtxRef) (x : Ctx) : (s.setCtx c x).time = s.time := rfl
@[simp] theorem State.setCtx_whisk (s : State) (c : CtxRef) (x : Ctx) : (s.setCtx c x).whisk = s.whisk := rfl
@[simp] theorem State.setCtx_pestle (s : State) (c : CtxRef) (x : Ctx) : (s.setCtx c x).pestle = s.pestle := rfl
@[simp] theorem State.setCtx_lid (s : State) (c : CtxRef) (x : Ctx) : (s.setCtx c x).lid = s.lid := rfl
@[simp] theorem State.setCtx_inReset (s : State) (c : CtxRef) (x : Ctx) : (s.setCtx c x).inReset = s.inReset := rfl
@[simp] theorem State.setCtx_dies (s : State) (c : CtxRef) (x : Ctx) : (s.setCtx c x).dies = s.dies := rfl
@[simp] theorem State.setCtx_links (s : State) (c : CtxRef) (x : Ctx) : (s.setCtx c x).links = s.links := rfl
@[simp] theorem State.setCtx_parts (s : State) (c : CtxRef) (x : Ctx) : (s.setCtx c x).parts = s.parts := rfl
@[simp] theorem State.setCtx_kernels (s : State) (c : CtxRef) (x : Ctx) : (s.setCtx c x).kernels = s.kernels := rfl
@[simp] theorem State.setCtx_gangs (s : State) (c : CtxRef) (x : Ctx) : (s.setCtx c x).gangs = s.gangs := rfl
@[simp] theorem State.setCtx_groups (s : State) (c : CtxRef) (x : Ctx) : (s.setCtx c x).groups = s.groups := rfl
@[simp] theorem State.setCtx_threads (s : State) (c : CtxRef) (x : Ctx) : (s.setCtx c x).threads = s.threads := rfl
@[simp] theorem State.setCtx_holds (s : State) (c : CtxRef) (x : Ctx) : (s.setCtx c x).holds = s.holds := rfl
@[simp] theorem State.setCtx_cores (s : State) (c : CtxRef) (x : Ctx) : (s.setCtx c x).cores = s.cores := rfl
@[simp] theorem State.setCtx_mem (s : State) (c : CtxRef) (x : Ctx) : (s.setCtx c x).mem = s.mem := rfl
@[simp] theorem State.setCtx_keyTag (s : State) (c : CtxRef) (x : Ctx) : (s.setCtx c x).keyTag = s.keyTag := rfl
@[simp] theorem State.setCtx_poison (s : State) (c : CtxRef) (x : Ctx) : (s.setCtx c x).poison = s.poison := rfl
@[simp] theorem State.setCtx_regPois (s : State) (c : CtxRef) (x : Ctx) : (s.setCtx c x).regPois = s.regPois := rfl
@[simp] theorem State.setCtx_scrPois (s : State) (c : CtxRef) (x : Ctx) : (s.setCtx c x).scrPois = s.scrPois := rfl
@[simp] theorem State.setCtx_accPois (s : State) (c : CtxRef) (x : Ctx) : (s.setCtx c x).accPois = s.accPois := rfl
@[simp] theorem State.setCtx_hostAns (s : State) (c : CtxRef) (x : Ctx) : (s.setCtx c x).hostAns = s.hostAns := rfl
@[simp] theorem State.setCtx_lines (s : State) (c : CtxRef) (x : Ctx) : (s.setCtx c x).lines = s.lines := rfl
@[simp] theorem State.setCtx_pool (s : State) (c : CtxRef) (x : Ctx) : (s.setCtx c x).pool = s.pool := rfl
@[simp] theorem State.setCtx_poolAge (s : State) (c : CtxRef) (x : Ctx) : (s.setCtx c x).poolAge = s.poolAge := rfl
@[simp] theorem State.setCtx_freqs (s : State) (c : CtxRef) (x : Ctx) : (s.setCtx c x).freqs = s.freqs := rfl
@[simp] theorem State.setCtx_nextTag (s : State) (c : CtxRef) (x : Ctx) : (s.setCtx c x).nextTag = s.nextTag := rfl
@[simp] theorem State.setCtx_outbox (s : State) (c : CtxRef) (x : Ctx) : (s.setCtx c x).outbox = s.outbox := rfl
@[simp] theorem State.setCtx_cur (s : State) (c : CtxRef) (x : Ctx) : (s.setCtx c x).cur = s.cur := rfl
@[simp] theorem State.setCtx_issueQ (s : State) (c : CtxRef) (x : Ctx) : (s.setCtx c x).issueQ = s.issueQ := rfl
@[simp] theorem State.setCtx_agenda (s : State) (c : CtxRef) (x : Ctx) : (s.setCtx c x).agenda = s.agenda := rfl
@[simp] theorem State.setCtx_fresh (s : State) (c : CtxRef) (x : Ctx) : (s.setCtx c x).fresh = s.fresh := rfl
@[simp] theorem State.setCtx_moves (s : State) (c : CtxRef) (x : Ctx) : (s.setCtx c x).moves = s.moves := rfl
@[simp] theorem State.setCtx_matMeta (s : State) (c : CtxRef) (x : Ctx) : (s.setCtx c x).matMeta = s.matMeta := rfl
@[simp] theorem State.setCtx_copyMeta (s : State) (c : CtxRef) (x : Ctx) : (s.setCtx c x).copyMeta = s.copyMeta := rfl
@[simp] theorem State.setCtx_swapMeta (s : State) (c : CtxRef) (x : Ctx) : (s.setCtx c x).swapMeta = s.swapMeta := rfl
@[simp] theorem State.setCtx_vtMeta (s : State) (c : CtxRef) (x : Ctx) : (s.setCtx c x).vtMeta = s.vtMeta := rfl
@[simp] theorem State.setCtx_codeOld (s : State) (c : CtxRef) (x : Ctx) : (s.setCtx c x).codeOld = s.codeOld := rfl
@[simp] theorem State.setCtx_notes (s : State) (c : CtxRef) (x : Ctx) : (s.setCtx c x).notes = s.notes := rfl
@[simp] theorem State.setCtx_sigs (s : State) (c : CtxRef) (x : Ctx) : (s.setCtx c x).sigs = s.sigs := rfl
@[simp] theorem State.thread?_setCtx (s : State) (c : CtxRef) (x : Ctx) (u : TRef) : (s.setCtx c x).thread? u = s.thread? u := rfl
@[simp] theorem State.group?_setCtx (s : State) (c : CtxRef) (x : Ctx) (h : GRef) : (s.setCtx c x).group? h = s.group? h := rfl
@[simp] theorem State.kernel?_setCtx (s : State) (c : CtxRef) (x : Ctx) (j : KRef) : (s.setCtx c x).kernel? j = s.kernel? j := rfl
@[simp] theorem State.gang?_setCtx (s : State) (c : CtxRef) (x : Ctx) (h : GangRef) : (s.setCtx c x).gang? h = s.gang? h := rfl
@[simp] theorem State.holding_setCtx (s : State) (c : CtxRef) (x : Ctx) (d : CCRef) : (s.setCtx c x).holding d = s.holding d := rfl
@[simp] theorem State.core_setCtx (s : State) (c : CtxRef) (x : Ctx) (d : CoreRef) : (s.setCtx c x).core d = s.core d := rfl
@[simp] theorem State.part_setCtx (s : State) (c : CtxRef) (x : Ctx) (n : Nat) : (s.setCtx c x).part n = s.part n := rfl
@[simp] theorem State.die_setCtx (s : State) (c : CtxRef) (x : Ctx) (n : Nat) : (s.setCtx c x).die n = s.die n := rfl
@[simp] theorem State.queue_setCtx (s : State) (c : CtxRef) (x : Ctx) (r : QRef) : (s.setCtx c x).queue r = s.queue r := rfl
@[simp] theorem State.line_setCtx (s : State) (c : CtxRef) (x : Ctx) (n : Nat) : (s.setCtx c x).line n = s.line n := rfl
@[simp] theorem State.poolLine_setCtx (s : State) (c : CtxRef) (x : Ctx) (n i : Nat) : (s.setCtx c x).poolLine n i = s.poolLine n i := rfl
@[simp] theorem State.memByte_setCtx (s : State) (c : CtxRef) (x : Ctx) (a : Nat) : (s.setCtx c x).memByte a = s.memByte a := rfl

/-! ### modCtx -/

@[simp] theorem State.modCtx_time (s : State) (c : CtxRef) (f : Ctx → Ctx) : (s.modCtx c f).time = s.time := rfl
@[simp] theorem State.modCtx_whisk (s : State) (c : CtxRef) (f : Ctx → Ctx) : (s.modCtx c f).whisk = s.whisk := rfl
@[simp] theorem State.modCtx_pestle (s : State) (c : CtxRef) (f : Ctx → Ctx) : (s.modCtx c f).pestle = s.pestle := rfl
@[simp] theorem State.modCtx_lid (s : State) (c : CtxRef) (f : Ctx → Ctx) : (s.modCtx c f).lid = s.lid := rfl
@[simp] theorem State.modCtx_inReset (s : State) (c : CtxRef) (f : Ctx → Ctx) : (s.modCtx c f).inReset = s.inReset := rfl
@[simp] theorem State.modCtx_dies (s : State) (c : CtxRef) (f : Ctx → Ctx) : (s.modCtx c f).dies = s.dies := rfl
@[simp] theorem State.modCtx_links (s : State) (c : CtxRef) (f : Ctx → Ctx) : (s.modCtx c f).links = s.links := rfl
@[simp] theorem State.modCtx_parts (s : State) (c : CtxRef) (f : Ctx → Ctx) : (s.modCtx c f).parts = s.parts := rfl
@[simp] theorem State.modCtx_kernels (s : State) (c : CtxRef) (f : Ctx → Ctx) : (s.modCtx c f).kernels = s.kernels := rfl
@[simp] theorem State.modCtx_gangs (s : State) (c : CtxRef) (f : Ctx → Ctx) : (s.modCtx c f).gangs = s.gangs := rfl
@[simp] theorem State.modCtx_groups (s : State) (c : CtxRef) (f : Ctx → Ctx) : (s.modCtx c f).groups = s.groups := rfl
@[simp] theorem State.modCtx_threads (s : State) (c : CtxRef) (f : Ctx → Ctx) : (s.modCtx c f).threads = s.threads := rfl
@[simp] theorem State.modCtx_holds (s : State) (c : CtxRef) (f : Ctx → Ctx) : (s.modCtx c f).holds = s.holds := rfl
@[simp] theorem State.modCtx_cores (s : State) (c : CtxRef) (f : Ctx → Ctx) : (s.modCtx c f).cores = s.cores := rfl
@[simp] theorem State.modCtx_mem (s : State) (c : CtxRef) (f : Ctx → Ctx) : (s.modCtx c f).mem = s.mem := rfl
@[simp] theorem State.modCtx_keyTag (s : State) (c : CtxRef) (f : Ctx → Ctx) : (s.modCtx c f).keyTag = s.keyTag := rfl
@[simp] theorem State.modCtx_poison (s : State) (c : CtxRef) (f : Ctx → Ctx) : (s.modCtx c f).poison = s.poison := rfl
@[simp] theorem State.modCtx_regPois (s : State) (c : CtxRef) (f : Ctx → Ctx) : (s.modCtx c f).regPois = s.regPois := rfl
@[simp] theorem State.modCtx_scrPois (s : State) (c : CtxRef) (f : Ctx → Ctx) : (s.modCtx c f).scrPois = s.scrPois := rfl
@[simp] theorem State.modCtx_accPois (s : State) (c : CtxRef) (f : Ctx → Ctx) : (s.modCtx c f).accPois = s.accPois := rfl
@[simp] theorem State.modCtx_hostAns (s : State) (c : CtxRef) (f : Ctx → Ctx) : (s.modCtx c f).hostAns = s.hostAns := rfl
@[simp] theorem State.modCtx_lines (s : State) (c : CtxRef) (f : Ctx → Ctx) : (s.modCtx c f).lines = s.lines := rfl
@[simp] theorem State.modCtx_pool (s : State) (c : CtxRef) (f : Ctx → Ctx) : (s.modCtx c f).pool = s.pool := rfl
@[simp] theorem State.modCtx_poolAge (s : State) (c : CtxRef) (f : Ctx → Ctx) : (s.modCtx c f).poolAge = s.poolAge := rfl
@[simp] theorem State.modCtx_freqs (s : State) (c : CtxRef) (f : Ctx → Ctx) : (s.modCtx c f).freqs = s.freqs := rfl
@[simp] theorem State.modCtx_nextTag (s : State) (c : CtxRef) (f : Ctx → Ctx) : (s.modCtx c f).nextTag = s.nextTag := rfl
@[simp] theorem State.modCtx_outbox (s : State) (c : CtxRef) (f : Ctx → Ctx) : (s.modCtx c f).outbox = s.outbox := rfl
@[simp] theorem State.modCtx_cur (s : State) (c : CtxRef) (f : Ctx → Ctx) : (s.modCtx c f).cur = s.cur := rfl
@[simp] theorem State.modCtx_issueQ (s : State) (c : CtxRef) (f : Ctx → Ctx) : (s.modCtx c f).issueQ = s.issueQ := rfl
@[simp] theorem State.modCtx_agenda (s : State) (c : CtxRef) (f : Ctx → Ctx) : (s.modCtx c f).agenda = s.agenda := rfl
@[simp] theorem State.modCtx_fresh (s : State) (c : CtxRef) (f : Ctx → Ctx) : (s.modCtx c f).fresh = s.fresh := rfl
@[simp] theorem State.modCtx_moves (s : State) (c : CtxRef) (f : Ctx → Ctx) : (s.modCtx c f).moves = s.moves := rfl
@[simp] theorem State.modCtx_matMeta (s : State) (c : CtxRef) (f : Ctx → Ctx) : (s.modCtx c f).matMeta = s.matMeta := rfl
@[simp] theorem State.modCtx_copyMeta (s : State) (c : CtxRef) (f : Ctx → Ctx) : (s.modCtx c f).copyMeta = s.copyMeta := rfl
@[simp] theorem State.modCtx_swapMeta (s : State) (c : CtxRef) (f : Ctx → Ctx) : (s.modCtx c f).swapMeta = s.swapMeta := rfl
@[simp] theorem State.modCtx_vtMeta (s : State) (c : CtxRef) (f : Ctx → Ctx) : (s.modCtx c f).vtMeta = s.vtMeta := rfl
@[simp] theorem State.modCtx_codeOld (s : State) (c : CtxRef) (f : Ctx → Ctx) : (s.modCtx c f).codeOld = s.codeOld := rfl
@[simp] theorem State.modCtx_notes (s : State) (c : CtxRef) (f : Ctx → Ctx) : (s.modCtx c f).notes = s.notes := rfl
@[simp] theorem State.modCtx_sigs (s : State) (c : CtxRef) (f : Ctx → Ctx) : (s.modCtx c f).sigs = s.sigs := rfl
@[simp] theorem State.thread?_modCtx (s : State) (c : CtxRef) (f : Ctx → Ctx) (u : TRef) : (s.modCtx c f).thread? u = s.thread? u := rfl
@[simp] theorem State.group?_modCtx (s : State) (c : CtxRef) (f : Ctx → Ctx) (h : GRef) : (s.modCtx c f).group? h = s.group? h := rfl
@[simp] theorem State.kernel?_modCtx (s : State) (c : CtxRef) (f : Ctx → Ctx) (j : KRef) : (s.modCtx c f).kernel? j = s.kernel? j := rfl
@[simp] theorem State.gang?_modCtx (s : State) (c : CtxRef) (f : Ctx → Ctx) (h : GangRef) : (s.modCtx c f).gang? h = s.gang? h := rfl
@[simp] theorem State.holding_modCtx (s : State) (c : CtxRef) (f : Ctx → Ctx) (d : CCRef) : (s.modCtx c f).holding d = s.holding d := rfl
@[simp] theorem State.core_modCtx (s : State) (c : CtxRef) (f : Ctx → Ctx) (d : CoreRef) : (s.modCtx c f).core d = s.core d := rfl
@[simp] theorem State.part_modCtx (s : State) (c : CtxRef) (f : Ctx → Ctx) (n : Nat) : (s.modCtx c f).part n = s.part n := rfl
@[simp] theorem State.die_modCtx (s : State) (c : CtxRef) (f : Ctx → Ctx) (n : Nat) : (s.modCtx c f).die n = s.die n := rfl
@[simp] theorem State.queue_modCtx (s : State) (c : CtxRef) (f : Ctx → Ctx) (r : QRef) : (s.modCtx c f).queue r = s.queue r := rfl
@[simp] theorem State.line_modCtx (s : State) (c : CtxRef) (f : Ctx → Ctx) (n : Nat) : (s.modCtx c f).line n = s.line n := rfl
@[simp] theorem State.poolLine_modCtx (s : State) (c : CtxRef) (f : Ctx → Ctx) (n i : Nat) : (s.modCtx c f).poolLine n i = s.poolLine n i := rfl
@[simp] theorem State.memByte_modCtx (s : State) (c : CtxRef) (f : Ctx → Ctx) (a : Nat) : (s.modCtx c f).memByte a = s.memByte a := rfl

/-! ### setKernel -/

@[simp] theorem State.setKernel_time (s : State) (k : KRef) (x : Kernel) : (s.setKernel k x).time = s.time := rfl
@[simp] theorem State.setKernel_whisk (s : State) (k : KRef) (x : Kernel) : (s.setKernel k x).whisk = s.whisk := rfl
@[simp] theorem State.setKernel_pestle (s : State) (k : KRef) (x : Kernel) : (s.setKernel k x).pestle = s.pestle := rfl
@[simp] theorem State.setKernel_lid (s : State) (k : KRef) (x : Kernel) : (s.setKernel k x).lid = s.lid := rfl
@[simp] theorem State.setKernel_inReset (s : State) (k : KRef) (x : Kernel) : (s.setKernel k x).inReset = s.inReset := rfl
@[simp] theorem State.setKernel_dies (s : State) (k : KRef) (x : Kernel) : (s.setKernel k x).dies = s.dies := rfl
@[simp] theorem State.setKernel_links (s : State) (k : KRef) (x : Kernel) : (s.setKernel k x).links = s.links := rfl
@[simp] theorem State.setKernel_parts (s : State) (k : KRef) (x : Kernel) : (s.setKernel k x).parts = s.parts := rfl
@[simp] theorem State.setKernel_ctxs (s : State) (k : KRef) (x : Kernel) : (s.setKernel k x).ctxs = s.ctxs := rfl
@[simp] theorem State.setKernel_gangs (s : State) (k : KRef) (x : Kernel) : (s.setKernel k x).gangs = s.gangs := rfl
@[simp] theorem State.setKernel_groups (s : State) (k : KRef) (x : Kernel) : (s.setKernel k x).groups = s.groups := rfl
@[simp] theorem State.setKernel_threads (s : State) (k : KRef) (x : Kernel) : (s.setKernel k x).threads = s.threads := rfl
@[simp] theorem State.setKernel_holds (s : State) (k : KRef) (x : Kernel) : (s.setKernel k x).holds = s.holds := rfl
@[simp] theorem State.setKernel_cores (s : State) (k : KRef) (x : Kernel) : (s.setKernel k x).cores = s.cores := rfl
@[simp] theorem State.setKernel_mem (s : State) (k : KRef) (x : Kernel) : (s.setKernel k x).mem = s.mem := rfl
@[simp] theorem State.setKernel_keyTag (s : State) (k : KRef) (x : Kernel) : (s.setKernel k x).keyTag = s.keyTag := rfl
@[simp] theorem State.setKernel_poison (s : State) (k : KRef) (x : Kernel) : (s.setKernel k x).poison = s.poison := rfl
@[simp] theorem State.setKernel_regPois (s : State) (k : KRef) (x : Kernel) : (s.setKernel k x).regPois = s.regPois := rfl
@[simp] theorem State.setKernel_scrPois (s : State) (k : KRef) (x : Kernel) : (s.setKernel k x).scrPois = s.scrPois := rfl
@[simp] theorem State.setKernel_accPois (s : State) (k : KRef) (x : Kernel) : (s.setKernel k x).accPois = s.accPois := rfl
@[simp] theorem State.setKernel_hostAns (s : State) (k : KRef) (x : Kernel) : (s.setKernel k x).hostAns = s.hostAns := rfl
@[simp] theorem State.setKernel_lines (s : State) (k : KRef) (x : Kernel) : (s.setKernel k x).lines = s.lines := rfl
@[simp] theorem State.setKernel_pool (s : State) (k : KRef) (x : Kernel) : (s.setKernel k x).pool = s.pool := rfl
@[simp] theorem State.setKernel_poolAge (s : State) (k : KRef) (x : Kernel) : (s.setKernel k x).poolAge = s.poolAge := rfl
@[simp] theorem State.setKernel_freqs (s : State) (k : KRef) (x : Kernel) : (s.setKernel k x).freqs = s.freqs := rfl
@[simp] theorem State.setKernel_nextTag (s : State) (k : KRef) (x : Kernel) : (s.setKernel k x).nextTag = s.nextTag := rfl
@[simp] theorem State.setKernel_outbox (s : State) (k : KRef) (x : Kernel) : (s.setKernel k x).outbox = s.outbox := rfl
@[simp] theorem State.setKernel_cur (s : State) (k : KRef) (x : Kernel) : (s.setKernel k x).cur = s.cur := rfl
@[simp] theorem State.setKernel_issueQ (s : State) (k : KRef) (x : Kernel) : (s.setKernel k x).issueQ = s.issueQ := rfl
@[simp] theorem State.setKernel_agenda (s : State) (k : KRef) (x : Kernel) : (s.setKernel k x).agenda = s.agenda := rfl
@[simp] theorem State.setKernel_fresh (s : State) (k : KRef) (x : Kernel) : (s.setKernel k x).fresh = s.fresh := rfl
@[simp] theorem State.setKernel_moves (s : State) (k : KRef) (x : Kernel) : (s.setKernel k x).moves = s.moves := rfl
@[simp] theorem State.setKernel_matMeta (s : State) (k : KRef) (x : Kernel) : (s.setKernel k x).matMeta = s.matMeta := rfl
@[simp] theorem State.setKernel_copyMeta (s : State) (k : KRef) (x : Kernel) : (s.setKernel k x).copyMeta = s.copyMeta := rfl
@[simp] theorem State.setKernel_swapMeta (s : State) (k : KRef) (x : Kernel) : (s.setKernel k x).swapMeta = s.swapMeta := rfl
@[simp] theorem State.setKernel_vtMeta (s : State) (k : KRef) (x : Kernel) : (s.setKernel k x).vtMeta = s.vtMeta := rfl
@[simp] theorem State.setKernel_codeOld (s : State) (k : KRef) (x : Kernel) : (s.setKernel k x).codeOld = s.codeOld := rfl
@[simp] theorem State.setKernel_notes (s : State) (k : KRef) (x : Kernel) : (s.setKernel k x).notes = s.notes := rfl
@[simp] theorem State.setKernel_sigs (s : State) (k : KRef) (x : Kernel) : (s.setKernel k x).sigs = s.sigs := rfl
@[simp] theorem State.thread?_setKernel (s : State) (k : KRef) (x : Kernel) (u : TRef) : (s.setKernel k x).thread? u = s.thread? u := rfl
@[simp] theorem State.group?_setKernel (s : State) (k : KRef) (x : Kernel) (h : GRef) : (s.setKernel k x).group? h = s.group? h := rfl
@[simp] theorem State.gang?_setKernel (s : State) (k : KRef) (x : Kernel) (h : GangRef) : (s.setKernel k x).gang? h = s.gang? h := rfl
@[simp] theorem State.holding_setKernel (s : State) (k : KRef) (x : Kernel) (d : CCRef) : (s.setKernel k x).holding d = s.holding d := rfl
@[simp] theorem State.core_setKernel (s : State) (k : KRef) (x : Kernel) (d : CoreRef) : (s.setKernel k x).core d = s.core d := rfl
@[simp] theorem State.ctx_setKernel (s : State) (k : KRef) (x : Kernel) (d : CtxRef) : (s.setKernel k x).ctx d = s.ctx d := rfl
@[simp] theorem State.part_setKernel (s : State) (k : KRef) (x : Kernel) (n : Nat) : (s.setKernel k x).part n = s.part n := rfl
@[simp] theorem State.die_setKernel (s : State) (k : KRef) (x : Kernel) (n : Nat) : (s.setKernel k x).die n = s.die n := rfl
@[simp] theorem State.queue_setKernel (s : State) (k : KRef) (x : Kernel) (r : QRef) : (s.setKernel k x).queue r = s.queue r := rfl
@[simp] theorem State.line_setKernel (s : State) (k : KRef) (x : Kernel) (n : Nat) : (s.setKernel k x).line n = s.line n := rfl
@[simp] theorem State.poolLine_setKernel (s : State) (k : KRef) (x : Kernel) (n i : Nat) : (s.setKernel k x).poolLine n i = s.poolLine n i := rfl
@[simp] theorem State.memByte_setKernel (s : State) (k : KRef) (x : Kernel) (a : Nat) : (s.setKernel k x).memByte a = s.memByte a := rfl

/-! ### setGang -/

@[simp] theorem State.setGang_time (s : State) (g : GangRef) (x : Gang) : (s.setGang g x).time = s.time := rfl
@[simp] theorem State.setGang_whisk (s : State) (g : GangRef) (x : Gang) : (s.setGang g x).whisk = s.whisk := rfl
@[simp] theorem State.setGang_pestle (s : State) (g : GangRef) (x : Gang) : (s.setGang g x).pestle = s.pestle := rfl
@[simp] theorem State.setGang_lid (s : State) (g : GangRef) (x : Gang) : (s.setGang g x).lid = s.lid := rfl
@[simp] theorem State.setGang_inReset (s : State) (g : GangRef) (x : Gang) : (s.setGang g x).inReset = s.inReset := rfl
@[simp] theorem State.setGang_dies (s : State) (g : GangRef) (x : Gang) : (s.setGang g x).dies = s.dies := rfl
@[simp] theorem State.setGang_links (s : State) (g : GangRef) (x : Gang) : (s.setGang g x).links = s.links := rfl
@[simp] theorem State.setGang_parts (s : State) (g : GangRef) (x : Gang) : (s.setGang g x).parts = s.parts := rfl
@[simp] theorem State.setGang_ctxs (s : State) (g : GangRef) (x : Gang) : (s.setGang g x).ctxs = s.ctxs := rfl
@[simp] theorem State.setGang_kernels (s : State) (g : GangRef) (x : Gang) : (s.setGang g x).kernels = s.kernels := rfl
@[simp] theorem State.setGang_groups (s : State) (g : GangRef) (x : Gang) : (s.setGang g x).groups = s.groups := rfl
@[simp] theorem State.setGang_threads (s : State) (g : GangRef) (x : Gang) : (s.setGang g x).threads = s.threads := rfl
@[simp] theorem State.setGang_holds (s : State) (g : GangRef) (x : Gang) : (s.setGang g x).holds = s.holds := rfl
@[simp] theorem State.setGang_cores (s : State) (g : GangRef) (x : Gang) : (s.setGang g x).cores = s.cores := rfl
@[simp] theorem State.setGang_mem (s : State) (g : GangRef) (x : Gang) : (s.setGang g x).mem = s.mem := rfl
@[simp] theorem State.setGang_keyTag (s : State) (g : GangRef) (x : Gang) : (s.setGang g x).keyTag = s.keyTag := rfl
@[simp] theorem State.setGang_poison (s : State) (g : GangRef) (x : Gang) : (s.setGang g x).poison = s.poison := rfl
@[simp] theorem State.setGang_regPois (s : State) (g : GangRef) (x : Gang) : (s.setGang g x).regPois = s.regPois := rfl
@[simp] theorem State.setGang_scrPois (s : State) (g : GangRef) (x : Gang) : (s.setGang g x).scrPois = s.scrPois := rfl
@[simp] theorem State.setGang_accPois (s : State) (g : GangRef) (x : Gang) : (s.setGang g x).accPois = s.accPois := rfl
@[simp] theorem State.setGang_hostAns (s : State) (g : GangRef) (x : Gang) : (s.setGang g x).hostAns = s.hostAns := rfl
@[simp] theorem State.setGang_lines (s : State) (g : GangRef) (x : Gang) : (s.setGang g x).lines = s.lines := rfl
@[simp] theorem State.setGang_pool (s : State) (g : GangRef) (x : Gang) : (s.setGang g x).pool = s.pool := rfl
@[simp] theorem State.setGang_poolAge (s : State) (g : GangRef) (x : Gang) : (s.setGang g x).poolAge = s.poolAge := rfl
@[simp] theorem State.setGang_freqs (s : State) (g : GangRef) (x : Gang) : (s.setGang g x).freqs = s.freqs := rfl
@[simp] theorem State.setGang_nextTag (s : State) (g : GangRef) (x : Gang) : (s.setGang g x).nextTag = s.nextTag := rfl
@[simp] theorem State.setGang_outbox (s : State) (g : GangRef) (x : Gang) : (s.setGang g x).outbox = s.outbox := rfl
@[simp] theorem State.setGang_cur (s : State) (g : GangRef) (x : Gang) : (s.setGang g x).cur = s.cur := rfl
@[simp] theorem State.setGang_issueQ (s : State) (g : GangRef) (x : Gang) : (s.setGang g x).issueQ = s.issueQ := rfl
@[simp] theorem State.setGang_agenda (s : State) (g : GangRef) (x : Gang) : (s.setGang g x).agenda = s.agenda := rfl
@[simp] theorem State.setGang_fresh (s : State) (g : GangRef) (x : Gang) : (s.setGang g x).fresh = s.fresh := rfl
@[simp] theorem State.setGang_moves (s : State) (g : GangRef) (x : Gang) : (s.setGang g x).moves = s.moves := rfl
@[simp] theorem State.setGang_matMeta (s : State) (g : GangRef) (x : Gang) : (s.setGang g x).matMeta = s.matMeta := rfl
@[simp] theorem State.setGang_copyMeta (s : State) (g : GangRef) (x : Gang) : (s.setGang g x).copyMeta = s.copyMeta := rfl
@[simp] theorem State.setGang_swapMeta (s : State) (g : GangRef) (x : Gang) : (s.setGang g x).swapMeta = s.swapMeta := rfl
@[simp] theorem State.setGang_vtMeta (s : State) (g : GangRef) (x : Gang) : (s.setGang g x).vtMeta = s.vtMeta := rfl
@[simp] theorem State.setGang_codeOld (s : State) (g : GangRef) (x : Gang) : (s.setGang g x).codeOld = s.codeOld := rfl
@[simp] theorem State.setGang_notes (s : State) (g : GangRef) (x : Gang) : (s.setGang g x).notes = s.notes := rfl
@[simp] theorem State.setGang_sigs (s : State) (g : GangRef) (x : Gang) : (s.setGang g x).sigs = s.sigs := rfl
@[simp] theorem State.thread?_setGang (s : State) (g : GangRef) (x : Gang) (u : TRef) : (s.setGang g x).thread? u = s.thread? u := rfl
@[simp] theorem State.group?_setGang (s : State) (g : GangRef) (x : Gang) (h : GRef) : (s.setGang g x).group? h = s.group? h := rfl
@[simp] theorem State.kernel?_setGang (s : State) (g : GangRef) (x : Gang) (j : KRef) : (s.setGang g x).kernel? j = s.kernel? j := rfl
@[simp] theorem State.holding_setGang (s : State) (g : GangRef) (x : Gang) (d : CCRef) : (s.setGang g x).holding d = s.holding d := rfl
@[simp] theorem State.core_setGang (s : State) (g : GangRef) (x : Gang) (d : CoreRef) : (s.setGang g x).core d = s.core d := rfl
@[simp] theorem State.ctx_setGang (s : State) (g : GangRef) (x : Gang) (d : CtxRef) : (s.setGang g x).ctx d = s.ctx d := rfl
@[simp] theorem State.part_setGang (s : State) (g : GangRef) (x : Gang) (n : Nat) : (s.setGang g x).part n = s.part n := rfl
@[simp] theorem State.die_setGang (s : State) (g : GangRef) (x : Gang) (n : Nat) : (s.setGang g x).die n = s.die n := rfl
@[simp] theorem State.queue_setGang (s : State) (g : GangRef) (x : Gang) (r : QRef) : (s.setGang g x).queue r = s.queue r := rfl
@[simp] theorem State.line_setGang (s : State) (g : GangRef) (x : Gang) (n : Nat) : (s.setGang g x).line n = s.line n := rfl
@[simp] theorem State.poolLine_setGang (s : State) (g : GangRef) (x : Gang) (n i : Nat) : (s.setGang g x).poolLine n i = s.poolLine n i := rfl
@[simp] theorem State.memByte_setGang (s : State) (g : GangRef) (x : Gang) (a : Nat) : (s.setGang g x).memByte a = s.memByte a := rfl

/-! ### modPart -/

@[simp] theorem State.modPart_time (s : State) (p : Nat) (f : Part → Part) : (s.modPart p f).time = s.time := rfl
@[simp] theorem State.modPart_whisk (s : State) (p : Nat) (f : Part → Part) : (s.modPart p f).whisk = s.whisk := rfl
@[simp] theorem State.modPart_pestle (s : State) (p : Nat) (f : Part → Part) : (s.modPart p f).pestle = s.pestle := rfl
@[simp] theorem State.modPart_lid (s : State) (p : Nat) (f : Part → Part) : (s.modPart p f).lid = s.lid := rfl
@[simp] theorem State.modPart_inReset (s : State) (p : Nat) (f : Part → Part) : (s.modPart p f).inReset = s.inReset := rfl
@[simp] theorem State.modPart_dies (s : State) (p : Nat) (f : Part → Part) : (s.modPart p f).dies = s.dies := rfl
@[simp] theorem State.modPart_links (s : State) (p : Nat) (f : Part → Part) : (s.modPart p f).links = s.links := rfl
@[simp] theorem State.modPart_ctxs (s : State) (p : Nat) (f : Part → Part) : (s.modPart p f).ctxs = s.ctxs := rfl
@[simp] theorem State.modPart_kernels (s : State) (p : Nat) (f : Part → Part) : (s.modPart p f).kernels = s.kernels := rfl
@[simp] theorem State.modPart_gangs (s : State) (p : Nat) (f : Part → Part) : (s.modPart p f).gangs = s.gangs := rfl
@[simp] theorem State.modPart_groups (s : State) (p : Nat) (f : Part → Part) : (s.modPart p f).groups = s.groups := rfl
@[simp] theorem State.modPart_threads (s : State) (p : Nat) (f : Part → Part) : (s.modPart p f).threads = s.threads := rfl
@[simp] theorem State.modPart_holds (s : State) (p : Nat) (f : Part → Part) : (s.modPart p f).holds = s.holds := rfl
@[simp] theorem State.modPart_cores (s : State) (p : Nat) (f : Part → Part) : (s.modPart p f).cores = s.cores := rfl
@[simp] theorem State.modPart_mem (s : State) (p : Nat) (f : Part → Part) : (s.modPart p f).mem = s.mem := rfl
@[simp] theorem State.modPart_keyTag (s : State) (p : Nat) (f : Part → Part) : (s.modPart p f).keyTag = s.keyTag := rfl
@[simp] theorem State.modPart_poison (s : State) (p : Nat) (f : Part → Part) : (s.modPart p f).poison = s.poison := rfl
@[simp] theorem State.modPart_regPois (s : State) (p : Nat) (f : Part → Part) : (s.modPart p f).regPois = s.regPois := rfl
@[simp] theorem State.modPart_scrPois (s : State) (p : Nat) (f : Part → Part) : (s.modPart p f).scrPois = s.scrPois := rfl
@[simp] theorem State.modPart_accPois (s : State) (p : Nat) (f : Part → Part) : (s.modPart p f).accPois = s.accPois := rfl
@[simp] theorem State.modPart_hostAns (s : State) (p : Nat) (f : Part → Part) : (s.modPart p f).hostAns = s.hostAns := rfl
@[simp] theorem State.modPart_lines (s : State) (p : Nat) (f : Part → Part) : (s.modPart p f).lines = s.lines := rfl
@[simp] theorem State.modPart_pool (s : State) (p : Nat) (f : Part → Part) : (s.modPart p f).pool = s.pool := rfl
@[simp] theorem State.modPart_poolAge (s : State) (p : Nat) (f : Part → Part) : (s.modPart p f).poolAge = s.poolAge := rfl
@[simp] theorem State.modPart_freqs (s : State) (p : Nat) (f : Part → Part) : (s.modPart p f).freqs = s.freqs := rfl
@[simp] theorem State.modPart_nextTag (s : State) (p : Nat) (f : Part → Part) : (s.modPart p f).nextTag = s.nextTag := rfl
@[simp] theorem State.modPart_outbox (s : State) (p : Nat) (f : Part → Part) : (s.modPart p f).outbox = s.outbox := rfl
@[simp] theorem State.modPart_cur (s : State) (p : Nat) (f : Part → Part) : (s.modPart p f).cur = s.cur := rfl
@[simp] theorem State.modPart_issueQ (s : State) (p : Nat) (f : Part → Part) : (s.modPart p f).issueQ = s.issueQ := rfl
@[simp] theorem State.modPart_agenda (s : State) (p : Nat) (f : Part → Part) : (s.modPart p f).agenda = s.agenda := rfl
@[simp] theorem State.modPart_fresh (s : State) (p : Nat) (f : Part → Part) : (s.modPart p f).fresh = s.fresh := rfl
@[simp] theorem State.modPart_moves (s : State) (p : Nat) (f : Part → Part) : (s.modPart p f).moves = s.moves := rfl
@[simp] theorem State.modPart_matMeta (s : State) (p : Nat) (f : Part → Part) : (s.modPart p f).matMeta = s.matMeta := rfl
@[simp] theorem State.modPart_copyMeta (s : State) (p : Nat) (f : Part → Part) : (s.modPart p f).copyMeta = s.copyMeta := rfl
@[simp] theorem State.modPart_swapMeta (s : State) (p : Nat) (f : Part → Part) : (s.modPart p f).swapMeta = s.swapMeta := rfl
@[simp] theorem State.modPart_vtMeta (s : State) (p : Nat) (f : Part → Part) : (s.modPart p f).vtMeta = s.vtMeta := rfl
@[simp] theorem State.modPart_codeOld (s : State) (p : Nat) (f : Part → Part) : (s.modPart p f).codeOld = s.codeOld := rfl
@[simp] theorem State.modPart_notes (s : State) (p : Nat) (f : Part → Part) : (s.modPart p f).notes = s.notes := rfl
@[simp] theorem State.modPart_sigs (s : State) (p : Nat) (f : Part → Part) : (s.modPart p f).sigs = s.sigs := rfl
@[simp] theorem State.thread?_modPart (s : State) (p : Nat) (f : Part → Part) (u : TRef) : (s.modPart p f).thread? u = s.thread? u := rfl
@[simp] theorem State.group?_modPart (s : State) (p : Nat) (f : Part → Part) (h : GRef) : (s.modPart p f).group? h = s.group? h := rfl
@[simp] theorem State.kernel?_modPart (s : State) (p : Nat) (f : Part → Part) (j : KRef) : (s.modPart p f).kernel? j = s.kernel? j := rfl
@[simp] theorem State.gang?_modPart (s : State) (p : Nat) (f : Part → Part) (h : GangRef) : (s.modPart p f).gang? h = s.gang? h := rfl
@[simp] theorem State.holding_modPart (s : State) (p : Nat) (f : Part → Part) (d : CCRef) : (s.modPart p f).holding d = s.holding d := rfl
@[simp] theorem State.core_modPart (s : State) (p : Nat) (f : Part → Part) (d : CoreRef) : (s.modPart p f).core d = s.core d := rfl
@[simp] theorem State.ctx_modPart (s : State) (p : Nat) (f : Part → Part) (d : CtxRef) : (s.modPart p f).ctx d = s.ctx d := rfl
@[simp] theorem State.die_modPart (s : State) (p : Nat) (f : Part → Part) (n : Nat) : (s.modPart p f).die n = s.die n := rfl
@[simp] theorem State.line_modPart (s : State) (p : Nat) (f : Part → Part) (n : Nat) : (s.modPart p f).line n = s.line n := rfl
@[simp] theorem State.poolLine_modPart (s : State) (p : Nat) (f : Part → Part) (n i : Nat) : (s.modPart p f).poolLine n i = s.poolLine n i := rfl
@[simp] theorem State.memByte_modPart (s : State) (p : Nat) (f : Part → Part) (a : Nat) : (s.modPart p f).memByte a = s.memByte a := rfl

/-! ### modDie -/

@[simp] theorem State.modDie_time (s : State) (m : Nat) (f : Die → Die) : (s.modDie m f).time = s.time := rfl
@[simp] theorem State.modDie_whisk (s : State) (m : Nat) (f : Die → Die) : (s.modDie m f).whisk = s.whisk := rfl
@[simp] theorem State.modDie_pestle (s : State) (m : Nat) (f : Die → Die) : (s.modDie m f).pestle = s.pestle := rfl
@[simp] theorem State.modDie_lid (s : State) (m : Nat) (f : Die → Die) : (s.modDie m f).lid = s.lid := rfl
@[simp] theorem State.modDie_inReset (s : State) (m : Nat) (f : Die → Die) : (s.modDie m f).inReset = s.inReset := rfl
@[simp] theorem State.modDie_links (s : State) (m : Nat) (f : Die → Die) : (s.modDie m f).links = s.links := rfl
@[simp] theorem State.modDie_parts (s : State) (m : Nat) (f : Die → Die) : (s.modDie m f).parts = s.parts := rfl
@[simp] theorem State.modDie_ctxs (s : State) (m : Nat) (f : Die → Die) : (s.modDie m f).ctxs = s.ctxs := rfl
@[simp] theorem State.modDie_kernels (s : State) (m : Nat) (f : Die → Die) : (s.modDie m f).kernels = s.kernels := rfl
@[simp] theorem State.modDie_gangs (s : State) (m : Nat) (f : Die → Die) : (s.modDie m f).gangs = s.gangs := rfl
@[simp] theorem State.modDie_groups (s : State) (m : Nat) (f : Die → Die) : (s.modDie m f).groups = s.groups := rfl
@[simp] theorem State.modDie_threads (s : State) (m : Nat) (f : Die → Die) : (s.modDie m f).threads = s.threads := rfl
@[simp] theorem State.modDie_holds (s : State) (m : Nat) (f : Die → Die) : (s.modDie m f).holds = s.holds := rfl
@[simp] theorem State.modDie_cores (s : State) (m : Nat) (f : Die → Die) : (s.modDie m f).cores = s.cores := rfl
@[simp] theorem State.modDie_mem (s : State) (m : Nat) (f : Die → Die) : (s.modDie m f).mem = s.mem := rfl
@[simp] theorem State.modDie_keyTag (s : State) (m : Nat) (f : Die → Die) : (s.modDie m f).keyTag = s.keyTag := rfl
@[simp] theorem State.modDie_poison (s : State) (m : Nat) (f : Die → Die) : (s.modDie m f).poison = s.poison := rfl
@[simp] theorem State.modDie_regPois (s : State) (m : Nat) (f : Die → Die) : (s.modDie m f).regPois = s.regPois := rfl
@[simp] theorem State.modDie_scrPois (s : State) (m : Nat) (f : Die → Die) : (s.modDie m f).scrPois = s.scrPois := rfl
@[simp] theorem State.modDie_accPois (s : State) (m : Nat) (f : Die → Die) : (s.modDie m f).accPois = s.accPois := rfl
@[simp] theorem State.modDie_hostAns (s : State) (m : Nat) (f : Die → Die) : (s.modDie m f).hostAns = s.hostAns := rfl
@[simp] theorem State.modDie_lines (s : State) (m : Nat) (f : Die → Die) : (s.modDie m f).lines = s.lines := rfl
@[simp] theorem State.modDie_pool (s : State) (m : Nat) (f : Die → Die) : (s.modDie m f).pool = s.pool := rfl
@[simp] theorem State.modDie_poolAge (s : State) (m : Nat) (f : Die → Die) : (s.modDie m f).poolAge = s.poolAge := rfl
@[simp] theorem State.modDie_freqs (s : State) (m : Nat) (f : Die → Die) : (s.modDie m f).freqs = s.freqs := rfl
@[simp] theorem State.modDie_nextTag (s : State) (m : Nat) (f : Die → Die) : (s.modDie m f).nextTag = s.nextTag := rfl
@[simp] theorem State.modDie_outbox (s : State) (m : Nat) (f : Die → Die) : (s.modDie m f).outbox = s.outbox := rfl
@[simp] theorem State.modDie_cur (s : State) (m : Nat) (f : Die → Die) : (s.modDie m f).cur = s.cur := rfl
@[simp] theorem State.modDie_issueQ (s : State) (m : Nat) (f : Die → Die) : (s.modDie m f).issueQ = s.issueQ := rfl
@[simp] theorem State.modDie_agenda (s : State) (m : Nat) (f : Die → Die) : (s.modDie m f).agenda = s.agenda := rfl
@[simp] theorem State.modDie_fresh (s : State) (m : Nat) (f : Die → Die) : (s.modDie m f).fresh = s.fresh := rfl
@[simp] theorem State.modDie_moves (s : State) (m : Nat) (f : Die → Die) : (s.modDie m f).moves = s.moves := rfl
@[simp] theorem State.modDie_matMeta (s : State) (m : Nat) (f : Die → Die) : (s.modDie m f).matMeta = s.matMeta := rfl
@[simp] theorem State.modDie_copyMeta (s : State) (m : Nat) (f : Die → Die) : (s.modDie m f).copyMeta = s.copyMeta := rfl
@[simp] theorem State.modDie_swapMeta (s : State) (m : Nat) (f : Die → Die) : (s.modDie m f).swapMeta = s.swapMeta := rfl
@[simp] theorem State.modDie_vtMeta (s : State) (m : Nat) (f : Die → Die) : (s.modDie m f).vtMeta = s.vtMeta := rfl
@[simp] theorem State.modDie_codeOld (s : State) (m : Nat) (f : Die → Die) : (s.modDie m f).codeOld = s.codeOld := rfl
@[simp] theorem State.modDie_notes (s : State) (m : Nat) (f : Die → Die) : (s.modDie m f).notes = s.notes := rfl
@[simp] theorem State.modDie_sigs (s : State) (m : Nat) (f : Die → Die) : (s.modDie m f).sigs = s.sigs := rfl
@[simp] theorem State.thread?_modDie (s : State) (m : Nat) (f : Die → Die) (u : TRef) : (s.modDie m f).thread? u = s.thread? u := rfl
@[simp] theorem State.group?_modDie (s : State) (m : Nat) (f : Die → Die) (h : GRef) : (s.modDie m f).group? h = s.group? h := rfl
@[simp] theorem State.kernel?_modDie (s : State) (m : Nat) (f : Die → Die) (j : KRef) : (s.modDie m f).kernel? j = s.kernel? j := rfl
@[simp] theorem State.gang?_modDie (s : State) (m : Nat) (f : Die → Die) (h : GangRef) : (s.modDie m f).gang? h = s.gang? h := rfl
@[simp] theorem State.holding_modDie (s : State) (m : Nat) (f : Die → Die) (d : CCRef) : (s.modDie m f).holding d = s.holding d := rfl
@[simp] theorem State.core_modDie (s : State) (m : Nat) (f : Die → Die) (d : CoreRef) : (s.modDie m f).core d = s.core d := rfl
@[simp] theorem State.ctx_modDie (s : State) (m : Nat) (f : Die → Die) (d : CtxRef) : (s.modDie m f).ctx d = s.ctx d := rfl
@[simp] theorem State.part_modDie (s : State) (m : Nat) (f : Die → Die) (n : Nat) : (s.modDie m f).part n = s.part n := rfl
@[simp] theorem State.queue_modDie (s : State) (m : Nat) (f : Die → Die) (r : QRef) : (s.modDie m f).queue r = s.queue r := rfl
@[simp] theorem State.line_modDie (s : State) (m : Nat) (f : Die → Die) (n : Nat) : (s.modDie m f).line n = s.line n := rfl
@[simp] theorem State.poolLine_modDie (s : State) (m : Nat) (f : Die → Die) (n i : Nat) : (s.modDie m f).poolLine n i = s.poolLine n i := rfl
@[simp] theorem State.memByte_modDie (s : State) (m : Nat) (f : Die → Die) (a : Nat) : (s.modDie m f).memByte a = s.memByte a := rfl

/-! ### modQueue -/

@[simp] theorem State.modQueue_time (s : State) (q : QRef) (f : Queue → Queue) : (s.modQueue q f).time = s.time := rfl
@[simp] theorem State.modQueue_whisk (s : State) (q : QRef) (f : Queue → Queue) : (s.modQueue q f).whisk = s.whisk := rfl
@[simp] theorem State.modQueue_pestle (s : State) (q : QRef) (f : Queue → Queue) : (s.modQueue q f).pestle = s.pestle := rfl
@[simp] theorem State.modQueue_lid (s : State) (q : QRef) (f : Queue → Queue) : (s.modQueue q f).lid = s.lid := rfl
@[simp] theorem State.modQueue_inReset (s : State) (q : QRef) (f : Queue → Queue) : (s.modQueue q f).inReset = s.inReset := rfl
@[simp] theorem State.modQueue_dies (s : State) (q : QRef) (f : Queue → Queue) : (s.modQueue q f).dies = s.dies := rfl
@[simp] theorem State.modQueue_links (s : State) (q : QRef) (f : Queue → Queue) : (s.modQueue q f).links = s.links := rfl
@[simp] theorem State.modQueue_ctxs (s : State) (q : QRef) (f : Queue → Queue) : (s.modQueue q f).ctxs = s.ctxs := rfl
@[simp] theorem State.modQueue_kernels (s : State) (q : QRef) (f : Queue → Queue) : (s.modQueue q f).kernels = s.kernels := rfl
@[simp] theorem State.modQueue_gangs (s : State) (q : QRef) (f : Queue → Queue) : (s.modQueue q f).gangs = s.gangs := rfl
@[simp] theorem State.modQueue_groups (s : State) (q : QRef) (f : Queue → Queue) : (s.modQueue q f).groups = s.groups := rfl
@[simp] theorem State.modQueue_threads (s : State) (q : QRef) (f : Queue → Queue) : (s.modQueue q f).threads = s.threads := rfl
@[simp] theorem State.modQueue_holds (s : State) (q : QRef) (f : Queue → Queue) : (s.modQueue q f).holds = s.holds := rfl
@[simp] theorem State.modQueue_cores (s : State) (q : QRef) (f : Queue → Queue) : (s.modQueue q f).cores = s.cores := rfl
@[simp] theorem State.modQueue_mem (s : State) (q : QRef) (f : Queue → Queue) : (s.modQueue q f).mem = s.mem := rfl
@[simp] theorem State.modQueue_keyTag (s : State) (q : QRef) (f : Queue → Queue) : (s.modQueue q f).keyTag = s.keyTag := rfl
@[simp] theorem State.modQueue_poison (s : State) (q : QRef) (f : Queue → Queue) : (s.modQueue q f).poison = s.poison := rfl
@[simp] theorem State.modQueue_regPois (s : State) (q : QRef) (f : Queue → Queue) : (s.modQueue q f).regPois = s.regPois := rfl
@[simp] theorem State.modQueue_scrPois (s : State) (q : QRef) (f : Queue → Queue) : (s.modQueue q f).scrPois = s.scrPois := rfl
@[simp] theorem State.modQueue_accPois (s : State) (q : QRef) (f : Queue → Queue) : (s.modQueue q f).accPois = s.accPois := rfl
@[simp] theorem State.modQueue_hostAns (s : State) (q : QRef) (f : Queue → Queue) : (s.modQueue q f).hostAns = s.hostAns := rfl
@[simp] theorem State.modQueue_lines (s : State) (q : QRef) (f : Queue → Queue) : (s.modQueue q f).lines = s.lines := rfl
@[simp] theorem State.modQueue_pool (s : State) (q : QRef) (f : Queue → Queue) : (s.modQueue q f).pool = s.pool := rfl
@[simp] theorem State.modQueue_poolAge (s : State) (q : QRef) (f : Queue → Queue) : (s.modQueue q f).poolAge = s.poolAge := rfl
@[simp] theorem State.modQueue_freqs (s : State) (q : QRef) (f : Queue → Queue) : (s.modQueue q f).freqs = s.freqs := rfl
@[simp] theorem State.modQueue_nextTag (s : State) (q : QRef) (f : Queue → Queue) : (s.modQueue q f).nextTag = s.nextTag := rfl
@[simp] theorem State.modQueue_outbox (s : State) (q : QRef) (f : Queue → Queue) : (s.modQueue q f).outbox = s.outbox := rfl
@[simp] theorem State.modQueue_cur (s : State) (q : QRef) (f : Queue → Queue) : (s.modQueue q f).cur = s.cur := rfl
@[simp] theorem State.modQueue_issueQ (s : State) (q : QRef) (f : Queue → Queue) : (s.modQueue q f).issueQ = s.issueQ := rfl
@[simp] theorem State.modQueue_agenda (s : State) (q : QRef) (f : Queue → Queue) : (s.modQueue q f).agenda = s.agenda := rfl
@[simp] theorem State.modQueue_fresh (s : State) (q : QRef) (f : Queue → Queue) : (s.modQueue q f).fresh = s.fresh := rfl
@[simp] theorem State.modQueue_moves (s : State) (q : QRef) (f : Queue → Queue) : (s.modQueue q f).moves = s.moves := rfl
@[simp] theorem State.modQueue_matMeta (s : State) (q : QRef) (f : Queue → Queue) : (s.modQueue q f).matMeta = s.matMeta := rfl
@[simp] theorem State.modQueue_copyMeta (s : State) (q : QRef) (f : Queue → Queue) : (s.modQueue q f).copyMeta = s.copyMeta := rfl
@[simp] theorem State.modQueue_swapMeta (s : State) (q : QRef) (f : Queue → Queue) : (s.modQueue q f).swapMeta = s.swapMeta := rfl
@[simp] theorem State.modQueue_vtMeta (s : State) (q : QRef) (f : Queue → Queue) : (s.modQueue q f).vtMeta = s.vtMeta := rfl
@[simp] theorem State.modQueue_codeOld (s : State) (q : QRef) (f : Queue → Queue) : (s.modQueue q f).codeOld = s.codeOld := rfl
@[simp] theorem State.modQueue_notes (s : State) (q : QRef) (f : Queue → Queue) : (s.modQueue q f).notes = s.notes := rfl
@[simp] theorem State.modQueue_sigs (s : State) (q : QRef) (f : Queue → Queue) : (s.modQueue q f).sigs = s.sigs := rfl
@[simp] theorem State.thread?_modQueue (s : State) (q : QRef) (f : Queue → Queue) (u : TRef) : (s.modQueue q f).thread? u = s.thread? u := rfl
@[simp] theorem State.group?_modQueue (s : State) (q : QRef) (f : Queue → Queue) (h : GRef) : (s.modQueue q f).group? h = s.group? h := rfl
@[simp] theorem State.kernel?_modQueue (s : State) (q : QRef) (f : Queue → Queue) (j : KRef) : (s.modQueue q f).kernel? j = s.kernel? j := rfl
@[simp] theorem State.gang?_modQueue (s : State) (q : QRef) (f : Queue → Queue) (h : GangRef) : (s.modQueue q f).gang? h = s.gang? h := rfl
@[simp] theorem State.holding_modQueue (s : State) (q : QRef) (f : Queue → Queue) (d : CCRef) : (s.modQueue q f).holding d = s.holding d := rfl
@[simp] theorem State.core_modQueue (s : State) (q : QRef) (f : Queue → Queue) (d : CoreRef) : (s.modQueue q f).core d = s.core d := rfl
@[simp] theorem State.ctx_modQueue (s : State) (q : QRef) (f : Queue → Queue) (d : CtxRef) : (s.modQueue q f).ctx d = s.ctx d := rfl
@[simp] theorem State.die_modQueue (s : State) (q : QRef) (f : Queue → Queue) (n : Nat) : (s.modQueue q f).die n = s.die n := rfl
@[simp] theorem State.line_modQueue (s : State) (q : QRef) (f : Queue → Queue) (n : Nat) : (s.modQueue q f).line n = s.line n := rfl
@[simp] theorem State.poolLine_modQueue (s : State) (q : QRef) (f : Queue → Queue) (n i : Nat) : (s.modQueue q f).poolLine n i = s.poolLine n i := rfl
@[simp] theorem State.memByte_modQueue (s : State) (q : QRef) (f : Queue → Queue) (a : Nat) : (s.modQueue q f).memByte a = s.memByte a := rfl

/-! ### modTime -/

@[simp] theorem State.modTime_whisk (s : State) (f : Time → Time) : (s.modTime f).whisk = s.whisk := rfl
@[simp] theorem State.modTime_pestle (s : State) (f : Time → Time) : (s.modTime f).pestle = s.pestle := rfl
@[simp] theorem State.modTime_lid (s : State) (f : Time → Time) : (s.modTime f).lid = s.lid := rfl
@[simp] theorem State.modTime_inReset (s : State) (f : Time → Time) : (s.modTime f).inReset = s.inReset := rfl
@[simp] theorem State.modTime_dies (s : State) (f : Time → Time) : (s.modTime f).dies = s.dies := rfl
@[simp] theorem State.modTime_links (s : State) (f : Time → Time) : (s.modTime f).links = s.links := rfl
@[simp] theorem State.modTime_parts (s : State) (f : Time → Time) : (s.modTime f).parts = s.parts := rfl
@[simp] theorem State.modTime_ctxs (s : State) (f : Time → Time) : (s.modTime f).ctxs = s.ctxs := rfl
@[simp] theorem State.modTime_kernels (s : State) (f : Time → Time) : (s.modTime f).kernels = s.kernels := rfl
@[simp] theorem State.modTime_gangs (s : State) (f : Time → Time) : (s.modTime f).gangs = s.gangs := rfl
@[simp] theorem State.modTime_groups (s : State) (f : Time → Time) : (s.modTime f).groups = s.groups := rfl
@[simp] theorem State.modTime_threads (s : State) (f : Time → Time) : (s.modTime f).threads = s.threads := rfl
@[simp] theorem State.modTime_holds (s : State) (f : Time → Time) : (s.modTime f).holds = s.holds := rfl
@[simp] theorem State.modTime_cores (s : State) (f : Time → Time) : (s.modTime f).cores = s.cores := rfl
@[simp] theorem State.modTime_mem (s : State) (f : Time → Time) : (s.modTime f).mem = s.mem := rfl
@[simp] theorem State.modTime_keyTag (s : State) (f : Time → Time) : (s.modTime f).keyTag = s.keyTag := rfl
@[simp] theorem State.modTime_poison (s : State) (f : Time → Time) : (s.modTime f).poison = s.poison := rfl
@[simp] theorem State.modTime_regPois (s : State) (f : Time → Time) : (s.modTime f).regPois = s.regPois := rfl
@[simp] theorem State.modTime_scrPois (s : State) (f : Time → Time) : (s.modTime f).scrPois = s.scrPois := rfl
@[simp] theorem State.modTime_accPois (s : State) (f : Time → Time) : (s.modTime f).accPois = s.accPois := rfl
@[simp] theorem State.modTime_hostAns (s : State) (f : Time → Time) : (s.modTime f).hostAns = s.hostAns := rfl
@[simp] theorem State.modTime_lines (s : State) (f : Time → Time) : (s.modTime f).lines = s.lines := rfl
@[simp] theorem State.modTime_pool (s : State) (f : Time → Time) : (s.modTime f).pool = s.pool := rfl
@[simp] theorem State.modTime_poolAge (s : State) (f : Time → Time) : (s.modTime f).poolAge = s.poolAge := rfl
@[simp] theorem State.modTime_freqs (s : State) (f : Time → Time) : (s.modTime f).freqs = s.freqs := rfl
@[simp] theorem State.modTime_nextTag (s : State) (f : Time → Time) : (s.modTime f).nextTag = s.nextTag := rfl
@[simp] theorem State.modTime_outbox (s : State) (f : Time → Time) : (s.modTime f).outbox = s.outbox := rfl
@[simp] theorem State.modTime_cur (s : State) (f : Time → Time) : (s.modTime f).cur = s.cur := rfl
@[simp] theorem State.modTime_issueQ (s : State) (f : Time → Time) : (s.modTime f).issueQ = s.issueQ := rfl
@[simp] theorem State.modTime_agenda (s : State) (f : Time → Time) : (s.modTime f).agenda = s.agenda := rfl
@[simp] theorem State.modTime_fresh (s : State) (f : Time → Time) : (s.modTime f).fresh = s.fresh := rfl
@[simp] theorem State.modTime_moves (s : State) (f : Time → Time) : (s.modTime f).moves = s.moves := rfl
@[simp] theorem State.modTime_matMeta (s : State) (f : Time → Time) : (s.modTime f).matMeta = s.matMeta := rfl
@[simp] theorem State.modTime_copyMeta (s : State) (f : Time → Time) : (s.modTime f).copyMeta = s.copyMeta := rfl
@[simp] theorem State.modTime_swapMeta (s : State) (f : Time → Time) : (s.modTime f).swapMeta = s.swapMeta := rfl
@[simp] theorem State.modTime_vtMeta (s : State) (f : Time → Time) : (s.modTime f).vtMeta = s.vtMeta := rfl
@[simp] theorem State.modTime_codeOld (s : State) (f : Time → Time) : (s.modTime f).codeOld = s.codeOld := rfl
@[simp] theorem State.modTime_notes (s : State) (f : Time → Time) : (s.modTime f).notes = s.notes := rfl
@[simp] theorem State.modTime_sigs (s : State) (f : Time → Time) : (s.modTime f).sigs = s.sigs := rfl
@[simp] theorem State.thread?_modTime (s : State) (f : Time → Time) (u : TRef) : (s.modTime f).thread? u = s.thread? u := rfl
@[simp] theorem State.group?_modTime (s : State) (f : Time → Time) (h : GRef) : (s.modTime f).group? h = s.group? h := rfl
@[simp] theorem State.kernel?_modTime (s : State) (f : Time → Time) (j : KRef) : (s.modTime f).kernel? j = s.kernel? j := rfl
@[simp] theorem State.gang?_modTime (s : State) (f : Time → Time) (h : GangRef) : (s.modTime f).gang? h = s.gang? h := rfl
@[simp] theorem State.holding_modTime (s : State) (f : Time → Time) (d : CCRef) : (s.modTime f).holding d = s.holding d := rfl
@[simp] theorem State.core_modTime (s : State) (f : Time → Time) (d : CoreRef) : (s.modTime f).core d = s.core d := rfl
@[simp] theorem State.ctx_modTime (s : State) (f : Time → Time) (d : CtxRef) : (s.modTime f).ctx d = s.ctx d := rfl
@[simp] theorem State.part_modTime (s : State) (f : Time → Time) (n : Nat) : (s.modTime f).part n = s.part n := rfl
@[simp] theorem State.die_modTime (s : State) (f : Time → Time) (n : Nat) : (s.modTime f).die n = s.die n := rfl
@[simp] theorem State.queue_modTime (s : State) (f : Time → Time) (r : QRef) : (s.modTime f).queue r = s.queue r := rfl
@[simp] theorem State.line_modTime (s : State) (f : Time → Time) (n : Nat) : (s.modTime f).line n = s.line n := rfl
@[simp] theorem State.poolLine_modTime (s : State) (f : Time → Time) (n i : Nat) : (s.modTime f).poolLine n i = s.poolLine n i := rfl
@[simp] theorem State.memByte_modTime (s : State) (f : Time → Time) (a : Nat) : (s.modTime f).memByte a = s.memByte a := rfl

/-! ### modWhisk -/

@[simp] theorem State.modWhisk_time (s : State) (f : Whisk → Whisk) : (s.modWhisk f).time = s.time := rfl
@[simp] theorem State.modWhisk_pestle (s : State) (f : Whisk → Whisk) : (s.modWhisk f).pestle = s.pestle := rfl
@[simp] theorem State.modWhisk_lid (s : State) (f : Whisk → Whisk) : (s.modWhisk f).lid = s.lid := rfl
@[simp] theorem State.modWhisk_inReset (s : State) (f : Whisk → Whisk) : (s.modWhisk f).inReset = s.inReset := rfl
@[simp] theorem State.modWhisk_dies (s : State) (f : Whisk → Whisk) : (s.modWhisk f).dies = s.dies := rfl
@[simp] theorem State.modWhisk_links (s : State) (f : Whisk → Whisk) : (s.modWhisk f).links = s.links := rfl
@[simp] theorem State.modWhisk_parts (s : State) (f : Whisk → Whisk) : (s.modWhisk f).parts = s.parts := rfl
@[simp] theorem State.modWhisk_ctxs (s : State) (f : Whisk → Whisk) : (s.modWhisk f).ctxs = s.ctxs := rfl
@[simp] theorem State.modWhisk_kernels (s : State) (f : Whisk → Whisk) : (s.modWhisk f).kernels = s.kernels := rfl
@[simp] theorem State.modWhisk_gangs (s : State) (f : Whisk → Whisk) : (s.modWhisk f).gangs = s.gangs := rfl
@[simp] theorem State.modWhisk_groups (s : State) (f : Whisk → Whisk) : (s.modWhisk f).groups = s.groups := rfl
@[simp] theorem State.modWhisk_threads (s : State) (f : Whisk → Whisk) : (s.modWhisk f).threads = s.threads := rfl
@[simp] theorem State.modWhisk_holds (s : State) (f : Whisk → Whisk) : (s.modWhisk f).holds = s.holds := rfl
@[simp] theorem State.modWhisk_cores (s : State) (f : Whisk → Whisk) : (s.modWhisk f).cores = s.cores := rfl
@[simp] theorem State.modWhisk_mem (s : State) (f : Whisk → Whisk) : (s.modWhisk f).mem = s.mem := rfl
@[simp] theorem State.modWhisk_keyTag (s : State) (f : Whisk → Whisk) : (s.modWhisk f).keyTag = s.keyTag := rfl
@[simp] theorem State.modWhisk_poison (s : State) (f : Whisk → Whisk) : (s.modWhisk f).poison = s.poison := rfl
@[simp] theorem State.modWhisk_regPois (s : State) (f : Whisk → Whisk) : (s.modWhisk f).regPois = s.regPois := rfl
@[simp] theorem State.modWhisk_scrPois (s : State) (f : Whisk → Whisk) : (s.modWhisk f).scrPois = s.scrPois := rfl
@[simp] theorem State.modWhisk_accPois (s : State) (f : Whisk → Whisk) : (s.modWhisk f).accPois = s.accPois := rfl
@[simp] theorem State.modWhisk_hostAns (s : State) (f : Whisk → Whisk) : (s.modWhisk f).hostAns = s.hostAns := rfl
@[simp] theorem State.modWhisk_lines (s : State) (f : Whisk → Whisk) : (s.modWhisk f).lines = s.lines := rfl
@[simp] theorem State.modWhisk_pool (s : State) (f : Whisk → Whisk) : (s.modWhisk f).pool = s.pool := rfl
@[simp] theorem State.modWhisk_poolAge (s : State) (f : Whisk → Whisk) : (s.modWhisk f).poolAge = s.poolAge := rfl
@[simp] theorem State.modWhisk_freqs (s : State) (f : Whisk → Whisk) : (s.modWhisk f).freqs = s.freqs := rfl
@[simp] theorem State.modWhisk_nextTag (s : State) (f : Whisk → Whisk) : (s.modWhisk f).nextTag = s.nextTag := rfl
@[simp] theorem State.modWhisk_outbox (s : State) (f : Whisk → Whisk) : (s.modWhisk f).outbox = s.outbox := rfl
@[simp] theorem State.modWhisk_cur (s : State) (f : Whisk → Whisk) : (s.modWhisk f).cur = s.cur := rfl
@[simp] theorem State.modWhisk_issueQ (s : State) (f : Whisk → Whisk) : (s.modWhisk f).issueQ = s.issueQ := rfl
@[simp] theorem State.modWhisk_agenda (s : State) (f : Whisk → Whisk) : (s.modWhisk f).agenda = s.agenda := rfl
@[simp] theorem State.modWhisk_fresh (s : State) (f : Whisk → Whisk) : (s.modWhisk f).fresh = s.fresh := rfl
@[simp] theorem State.modWhisk_moves (s : State) (f : Whisk → Whisk) : (s.modWhisk f).moves = s.moves := rfl
@[simp] theorem State.modWhisk_matMeta (s : State) (f : Whisk → Whisk) : (s.modWhisk f).matMeta = s.matMeta := rfl
@[simp] theorem State.modWhisk_copyMeta (s : State) (f : Whisk → Whisk) : (s.modWhisk f).copyMeta = s.copyMeta := rfl
@[simp] theorem State.modWhisk_swapMeta (s : State) (f : Whisk → Whisk) : (s.modWhisk f).swapMeta = s.swapMeta := rfl
@[simp] theorem State.modWhisk_vtMeta (s : State) (f : Whisk → Whisk) : (s.modWhisk f).vtMeta = s.vtMeta := rfl
@[simp] theorem State.modWhisk_codeOld (s : State) (f : Whisk → Whisk) : (s.modWhisk f).codeOld = s.codeOld := rfl
@[simp] theorem State.modWhisk_notes (s : State) (f : Whisk → Whisk) : (s.modWhisk f).notes = s.notes := rfl
@[simp] theorem State.modWhisk_sigs (s : State) (f : Whisk → Whisk) : (s.modWhisk f).sigs = s.sigs := rfl
@[simp] theorem State.thread?_modWhisk (s : State) (f : Whisk → Whisk) (u : TRef) : (s.modWhisk f).thread? u = s.thread? u := rfl
@[simp] theorem State.group?_modWhisk (s : State) (f : Whisk → Whisk) (h : GRef) : (s.modWhisk f).group? h = s.group? h := rfl
@[simp] theorem State.kernel?_modWhisk (s : State) (f : Whisk → Whisk) (j : KRef) : (s.modWhisk f).kernel? j = s.kernel? j := rfl
@[simp] theorem State.gang?_modWhisk (s : State) (f : Whisk → Whisk) (h : GangRef) : (s.modWhisk f).gang? h = s.gang? h := rfl
@[simp] theorem State.holding_modWhisk (s : State) (f : Whisk → Whisk) (d : CCRef) : (s.modWhisk f).holding d = s.holding d := rfl
@[simp] theorem State.core_modWhisk (s : State) (f : Whisk → Whisk) (d : CoreRef) : (s.modWhisk f).core d = s.core d := rfl
@[simp] theorem State.ctx_modWhisk (s : State) (f : Whisk → Whisk) (d : CtxRef) : (s.modWhisk f).ctx d = s.ctx d := rfl
@[simp] theorem State.part_modWhisk (s : State) (f : Whisk → Whisk) (n : Nat) : (s.modWhisk f).part n = s.part n := rfl
@[simp] theorem State.die_modWhisk (s : State) (f : Whisk → Whisk) (n : Nat) : (s.modWhisk f).die n = s.die n := rfl
@[simp] theorem State.queue_modWhisk (s : State) (f : Whisk → Whisk) (r : QRef) : (s.modWhisk f).queue r = s.queue r := rfl
@[simp] theorem State.line_modWhisk (s : State) (f : Whisk → Whisk) (n : Nat) : (s.modWhisk f).line n = s.line n := rfl
@[simp] theorem State.poolLine_modWhisk (s : State) (f : Whisk → Whisk) (n i : Nat) : (s.modWhisk f).poolLine n i = s.poolLine n i := rfl
@[simp] theorem State.memByte_modWhisk (s : State) (f : Whisk → Whisk) (a : Nat) : (s.modWhisk f).memByte a = s.memByte a := rfl

/-! ### modPestle -/

@[simp] theorem State.modPestle_time (s : State) (f : Pestle → Pestle) : (s.modPestle f).time = s.time := rfl
@[simp] theorem State.modPestle_whisk (s : State) (f : Pestle → Pestle) : (s.modPestle f).whisk = s.whisk := rfl
@[simp] theorem State.modPestle_lid (s : State) (f : Pestle → Pestle) : (s.modPestle f).lid = s.lid := rfl
@[simp] theorem State.modPestle_inReset (s : State) (f : Pestle → Pestle) : (s.modPestle f).inReset = s.inReset := rfl
@[simp] theorem State.modPestle_dies (s : State) (f : Pestle → Pestle) : (s.modPestle f).dies = s.dies := rfl
@[simp] theorem State.modPestle_links (s : State) (f : Pestle → Pestle) : (s.modPestle f).links = s.links := rfl
@[simp] theorem State.modPestle_parts (s : State) (f : Pestle → Pestle) : (s.modPestle f).parts = s.parts := rfl
@[simp] theorem State.modPestle_ctxs (s : State) (f : Pestle → Pestle) : (s.modPestle f).ctxs = s.ctxs := rfl
@[simp] theorem State.modPestle_kernels (s : State) (f : Pestle → Pestle) : (s.modPestle f).kernels = s.kernels := rfl
@[simp] theorem State.modPestle_gangs (s : State) (f : Pestle → Pestle) : (s.modPestle f).gangs = s.gangs := rfl
@[simp] theorem State.modPestle_groups (s : State) (f : Pestle → Pestle) : (s.modPestle f).groups = s.groups := rfl
@[simp] theorem State.modPestle_threads (s : State) (f : Pestle → Pestle) : (s.modPestle f).threads = s.threads := rfl
@[simp] theorem State.modPestle_holds (s : State) (f : Pestle → Pestle) : (s.modPestle f).holds = s.holds := rfl
@[simp] theorem State.modPestle_cores (s : State) (f : Pestle → Pestle) : (s.modPestle f).cores = s.cores := rfl
@[simp] theorem State.modPestle_mem (s : State) (f : Pestle → Pestle) : (s.modPestle f).mem = s.mem := rfl
@[simp] theorem State.modPestle_keyTag (s : State) (f : Pestle → Pestle) : (s.modPestle f).keyTag = s.keyTag := rfl
@[simp] theorem State.modPestle_poison (s : State) (f : Pestle → Pestle) : (s.modPestle f).poison = s.poison := rfl
@[simp] theorem State.modPestle_regPois (s : State) (f : Pestle → Pestle) : (s.modPestle f).regPois = s.regPois := rfl
@[simp] theorem State.modPestle_scrPois (s : State) (f : Pestle → Pestle) : (s.modPestle f).scrPois = s.scrPois := rfl
@[simp] theorem State.modPestle_accPois (s : State) (f : Pestle → Pestle) : (s.modPestle f).accPois = s.accPois := rfl
@[simp] theorem State.modPestle_hostAns (s : State) (f : Pestle → Pestle) : (s.modPestle f).hostAns = s.hostAns := rfl
@[simp] theorem State.modPestle_lines (s : State) (f : Pestle → Pestle) : (s.modPestle f).lines = s.lines := rfl
@[simp] theorem State.modPestle_pool (s : State) (f : Pestle → Pestle) : (s.modPestle f).pool = s.pool := rfl
@[simp] theorem State.modPestle_poolAge (s : State) (f : Pestle → Pestle) : (s.modPestle f).poolAge = s.poolAge := rfl
@[simp] theorem State.modPestle_freqs (s : State) (f : Pestle → Pestle) : (s.modPestle f).freqs = s.freqs := rfl
@[simp] theorem State.modPestle_nextTag (s : State) (f : Pestle → Pestle) : (s.modPestle f).nextTag = s.nextTag := rfl
@[simp] theorem State.modPestle_outbox (s : State) (f : Pestle → Pestle) : (s.modPestle f).outbox = s.outbox := rfl
@[simp] theorem State.modPestle_cur (s : State) (f : Pestle → Pestle) : (s.modPestle f).cur = s.cur := rfl
@[simp] theorem State.modPestle_issueQ (s : State) (f : Pestle → Pestle) : (s.modPestle f).issueQ = s.issueQ := rfl
@[simp] theorem State.modPestle_agenda (s : State) (f : Pestle → Pestle) : (s.modPestle f).agenda = s.agenda := rfl
@[simp] theorem State.modPestle_fresh (s : State) (f : Pestle → Pestle) : (s.modPestle f).fresh = s.fresh := rfl
@[simp] theorem State.modPestle_moves (s : State) (f : Pestle → Pestle) : (s.modPestle f).moves = s.moves := rfl
@[simp] theorem State.modPestle_matMeta (s : State) (f : Pestle → Pestle) : (s.modPestle f).matMeta = s.matMeta := rfl
@[simp] theorem State.modPestle_copyMeta (s : State) (f : Pestle → Pestle) : (s.modPestle f).copyMeta = s.copyMeta := rfl
@[simp] theorem State.modPestle_swapMeta (s : State) (f : Pestle → Pestle) : (s.modPestle f).swapMeta = s.swapMeta := rfl
@[simp] theorem State.modPestle_vtMeta (s : State) (f : Pestle → Pestle) : (s.modPestle f).vtMeta = s.vtMeta := rfl
@[simp] theorem State.modPestle_codeOld (s : State) (f : Pestle → Pestle) : (s.modPestle f).codeOld = s.codeOld := rfl
@[simp] theorem State.modPestle_notes (s : State) (f : Pestle → Pestle) : (s.modPestle f).notes = s.notes := rfl
@[simp] theorem State.modPestle_sigs (s : State) (f : Pestle → Pestle) : (s.modPestle f).sigs = s.sigs := rfl
@[simp] theorem State.thread?_modPestle (s : State) (f : Pestle → Pestle) (u : TRef) : (s.modPestle f).thread? u = s.thread? u := rfl
@[simp] theorem State.group?_modPestle (s : State) (f : Pestle → Pestle) (h : GRef) : (s.modPestle f).group? h = s.group? h := rfl
@[simp] theorem State.kernel?_modPestle (s : State) (f : Pestle → Pestle) (j : KRef) : (s.modPestle f).kernel? j = s.kernel? j := rfl
@[simp] theorem State.gang?_modPestle (s : State) (f : Pestle → Pestle) (h : GangRef) : (s.modPestle f).gang? h = s.gang? h := rfl
@[simp] theorem State.holding_modPestle (s : State) (f : Pestle → Pestle) (d : CCRef) : (s.modPestle f).holding d = s.holding d := rfl
@[simp] theorem State.core_modPestle (s : State) (f : Pestle → Pestle) (d : CoreRef) : (s.modPestle f).core d = s.core d := rfl
@[simp] theorem State.ctx_modPestle (s : State) (f : Pestle → Pestle) (d : CtxRef) : (s.modPestle f).ctx d = s.ctx d := rfl
@[simp] theorem State.part_modPestle (s : State) (f : Pestle → Pestle) (n : Nat) : (s.modPestle f).part n = s.part n := rfl
@[simp] theorem State.die_modPestle (s : State) (f : Pestle → Pestle) (n : Nat) : (s.modPestle f).die n = s.die n := rfl
@[simp] theorem State.queue_modPestle (s : State) (f : Pestle → Pestle) (r : QRef) : (s.modPestle f).queue r = s.queue r := rfl
@[simp] theorem State.line_modPestle (s : State) (f : Pestle → Pestle) (n : Nat) : (s.modPestle f).line n = s.line n := rfl
@[simp] theorem State.poolLine_modPestle (s : State) (f : Pestle → Pestle) (n i : Nat) : (s.modPestle f).poolLine n i = s.poolLine n i := rfl
@[simp] theorem State.memByte_modPestle (s : State) (f : Pestle → Pestle) (a : Nat) : (s.modPestle f).memByte a = s.memByte a := rfl

/-! ### modLine -/

@[simp] theorem State.modLine_time (s : State) (l : Nat) (f : LineRec → LineRec) : (s.modLine l f).time = s.time := rfl
@[simp] theorem State.modLine_whisk (s : State) (l : Nat) (f : LineRec → LineRec) : (s.modLine l f).whisk = s.whisk := rfl
@[simp] theorem State.modLine_pestle (s : State) (l : Nat) (f : LineRec → LineRec) : (s.modLine l f).pestle = s.pestle := rfl
@[simp] theorem State.modLine_lid (s : State) (l : Nat) (f : LineRec → LineRec) : (s.modLine l f).lid = s.lid := rfl
@[simp] theorem State.modLine_inReset (s : State) (l : Nat) (f : LineRec → LineRec) : (s.modLine l f).inReset = s.inReset := rfl
@[simp] theorem State.modLine_dies (s : State) (l : Nat) (f : LineRec → LineRec) : (s.modLine l f).dies = s.dies := rfl
@[simp] theorem State.modLine_links (s : State) (l : Nat) (f : LineRec → LineRec) : (s.modLine l f).links = s.links := rfl
@[simp] theorem State.modLine_parts (s : State) (l : Nat) (f : LineRec → LineRec) : (s.modLine l f).parts = s.parts := rfl
@[simp] theorem State.modLine_ctxs (s : State) (l : Nat) (f : LineRec → LineRec) : (s.modLine l f).ctxs = s.ctxs := rfl
@[simp] theorem State.modLine_kernels (s : State) (l : Nat) (f : LineRec → LineRec) : (s.modLine l f).kernels = s.kernels := rfl
@[simp] theorem State.modLine_gangs (s : State) (l : Nat) (f : LineRec → LineRec) : (s.modLine l f).gangs = s.gangs := rfl
@[simp] theorem State.modLine_groups (s : State) (l : Nat) (f : LineRec → LineRec) : (s.modLine l f).groups = s.groups := rfl
@[simp] theorem State.modLine_threads (s : State) (l : Nat) (f : LineRec → LineRec) : (s.modLine l f).threads = s.threads := rfl
@[simp] theorem State.modLine_holds (s : State) (l : Nat) (f : LineRec → LineRec) : (s.modLine l f).holds = s.holds := rfl
@[simp] theorem State.modLine_cores (s : State) (l : Nat) (f : LineRec → LineRec) : (s.modLine l f).cores = s.cores := rfl
@[simp] theorem State.modLine_mem (s : State) (l : Nat) (f : LineRec → LineRec) : (s.modLine l f).mem = s.mem := rfl
@[simp] theorem State.modLine_keyTag (s : State) (l : Nat) (f : LineRec → LineRec) : (s.modLine l f).keyTag = s.keyTag := rfl
@[simp] theorem State.modLine_poison (s : State) (l : Nat) (f : LineRec → LineRec) : (s.modLine l f).poison = s.poison := rfl
@[simp] theorem State.modLine_regPois (s : State) (l : Nat) (f : LineRec → LineRec) : (s.modLine l f).regPois = s.regPois := rfl
@[simp] theorem State.modLine_scrPois (s : State) (l : Nat) (f : LineRec → LineRec) : (s.modLine l f).scrPois = s.scrPois := rfl
@[simp] theorem State.modLine_accPois (s : State) (l : Nat) (f : LineRec → LineRec) : (s.modLine l f).accPois = s.accPois := rfl
@[simp] theorem State.modLine_hostAns (s : State) (l : Nat) (f : LineRec → LineRec) : (s.modLine l f).hostAns = s.hostAns := rfl
@[simp] theorem State.modLine_pool (s : State) (l : Nat) (f : LineRec → LineRec) : (s.modLine l f).pool = s.pool := rfl
@[simp] theorem State.modLine_poolAge (s : State) (l : Nat) (f : LineRec → LineRec) : (s.modLine l f).poolAge = s.poolAge := rfl
@[simp] theorem State.modLine_freqs (s : State) (l : Nat) (f : LineRec → LineRec) : (s.modLine l f).freqs = s.freqs := rfl
@[simp] theorem State.modLine_nextTag (s : State) (l : Nat) (f : LineRec → LineRec) : (s.modLine l f).nextTag = s.nextTag := rfl
@[simp] theorem State.modLine_outbox (s : State) (l : Nat) (f : LineRec → LineRec) : (s.modLine l f).outbox = s.outbox := rfl
@[simp] theorem State.modLine_cur (s : State) (l : Nat) (f : LineRec → LineRec) : (s.modLine l f).cur = s.cur := rfl
@[simp] theorem State.modLine_issueQ (s : State) (l : Nat) (f : LineRec → LineRec) : (s.modLine l f).issueQ = s.issueQ := rfl
@[simp] theorem State.modLine_agenda (s : State) (l : Nat) (f : LineRec → LineRec) : (s.modLine l f).agenda = s.agenda := rfl
@[simp] theorem State.modLine_fresh (s : State) (l : Nat) (f : LineRec → LineRec) : (s.modLine l f).fresh = s.fresh := rfl
@[simp] theorem State.modLine_moves (s : State) (l : Nat) (f : LineRec → LineRec) : (s.modLine l f).moves = s.moves := rfl
@[simp] theorem State.modLine_matMeta (s : State) (l : Nat) (f : LineRec → LineRec) : (s.modLine l f).matMeta = s.matMeta := rfl
@[simp] theorem State.modLine_copyMeta (s : State) (l : Nat) (f : LineRec → LineRec) : (s.modLine l f).copyMeta = s.copyMeta := rfl
@[simp] theorem State.modLine_swapMeta (s : State) (l : Nat) (f : LineRec → LineRec) : (s.modLine l f).swapMeta = s.swapMeta := rfl
@[simp] theorem State.modLine_vtMeta (s : State) (l : Nat) (f : LineRec → LineRec) : (s.modLine l f).vtMeta = s.vtMeta := rfl
@[simp] theorem State.modLine_codeOld (s : State) (l : Nat) (f : LineRec → LineRec) : (s.modLine l f).codeOld = s.codeOld := rfl
@[simp] theorem State.modLine_notes (s : State) (l : Nat) (f : LineRec → LineRec) : (s.modLine l f).notes = s.notes := rfl
@[simp] theorem State.modLine_sigs (s : State) (l : Nat) (f : LineRec → LineRec) : (s.modLine l f).sigs = s.sigs := rfl
@[simp] theorem State.thread?_modLine (s : State) (l : Nat) (f : LineRec → LineRec) (u : TRef) : (s.modLine l f).thread? u = s.thread? u := rfl
@[simp] theorem State.group?_modLine (s : State) (l : Nat) (f : LineRec → LineRec) (h : GRef) : (s.modLine l f).group? h = s.group? h := rfl
@[simp] theorem State.kernel?_modLine (s : State) (l : Nat) (f : LineRec → LineRec) (j : KRef) : (s.modLine l f).kernel? j = s.kernel? j := rfl
@[simp] theorem State.gang?_modLine (s : State) (l : Nat) (f : LineRec → LineRec) (h : GangRef) : (s.modLine l f).gang? h = s.gang? h := rfl
@[simp] theorem State.holding_modLine (s : State) (l : Nat) (f : LineRec → LineRec) (d : CCRef) : (s.modLine l f).holding d = s.holding d := rfl
@[simp] theorem State.core_modLine (s : State) (l : Nat) (f : LineRec → LineRec) (d : CoreRef) : (s.modLine l f).core d = s.core d := rfl
@[simp] theorem State.ctx_modLine (s : State) (l : Nat) (f : LineRec → LineRec) (d : CtxRef) : (s.modLine l f).ctx d = s.ctx d := rfl
@[simp] theorem State.part_modLine (s : State) (l : Nat) (f : LineRec → LineRec) (n : Nat) : (s.modLine l f).part n = s.part n := rfl
@[simp] theorem State.die_modLine (s : State) (l : Nat) (f : LineRec → LineRec) (n : Nat) : (s.modLine l f).die n = s.die n := rfl
@[simp] theorem State.queue_modLine (s : State) (l : Nat) (f : LineRec → LineRec) (r : QRef) : (s.modLine l f).queue r = s.queue r := rfl
@[simp] theorem State.poolLine_modLine (s : State) (l : Nat) (f : LineRec → LineRec) (n i : Nat) : (s.modLine l f).poolLine n i = s.poolLine n i := rfl
@[simp] theorem State.memByte_modLine (s : State) (l : Nat) (f : LineRec → LineRec) (a : Nat) : (s.modLine l f).memByte a = s.memByte a := rfl

/-! ### modPool -/

@[simp] theorem State.modPool_time (s : State) (p l : Nat) (f : PoolLine → PoolLine) : (s.modPool p l f).time = s.time := rfl
@[simp] theorem State.modPool_whisk (s : State) (p l : Nat) (f : PoolLine → PoolLine) : (s.modPool p l f).whisk = s.whisk := rfl
@[simp] theorem State.modPool_pestle (s : State) (p l : Nat) (f : PoolLine → PoolLine) : (s.modPool p l f).pestle = s.pestle := rfl
@[simp] theorem State.modPool_lid (s : State) (p l : Nat) (f : PoolLine → PoolLine) : (s.modPool p l f).lid = s.lid := rfl
@[simp] theorem State.modPool_inReset (s : State) (p l : Nat) (f : PoolLine → PoolLine) : (s.modPool p l f).inReset = s.inReset := rfl
@[simp] theorem State.modPool_dies (s : State) (p l : Nat) (f : PoolLine → PoolLine) : (s.modPool p l f).dies = s.dies := rfl
@[simp] theorem State.modPool_links (s : State) (p l : Nat) (f : PoolLine → PoolLine) : (s.modPool p l f).links = s.links := rfl
@[simp] theorem State.modPool_parts (s : State) (p l : Nat) (f : PoolLine → PoolLine) : (s.modPool p l f).parts = s.parts := rfl
@[simp] theorem State.modPool_ctxs (s : State) (p l : Nat) (f : PoolLine → PoolLine) : (s.modPool p l f).ctxs = s.ctxs := rfl
@[simp] theorem State.modPool_kernels (s : State) (p l : Nat) (f : PoolLine → PoolLine) : (s.modPool p l f).kernels = s.kernels := rfl
@[simp] theorem State.modPool_gangs (s : State) (p l : Nat) (f : PoolLine → PoolLine) : (s.modPool p l f).gangs = s.gangs := rfl
@[simp] theorem State.modPool_groups (s : State) (p l : Nat) (f : PoolLine → PoolLine) : (s.modPool p l f).groups = s.groups := rfl
@[simp] theorem State.modPool_threads (s : State) (p l : Nat) (f : PoolLine → PoolLine) : (s.modPool p l f).threads = s.threads := rfl
@[simp] theorem State.modPool_holds (s : State) (p l : Nat) (f : PoolLine → PoolLine) : (s.modPool p l f).holds = s.holds := rfl
@[simp] theorem State.modPool_cores (s : State) (p l : Nat) (f : PoolLine → PoolLine) : (s.modPool p l f).cores = s.cores := rfl
@[simp] theorem State.modPool_mem (s : State) (p l : Nat) (f : PoolLine → PoolLine) : (s.modPool p l f).mem = s.mem := rfl
@[simp] theorem State.modPool_keyTag (s : State) (p l : Nat) (f : PoolLine → PoolLine) : (s.modPool p l f).keyTag = s.keyTag := rfl
@[simp] theorem State.modPool_poison (s : State) (p l : Nat) (f : PoolLine → PoolLine) : (s.modPool p l f).poison = s.poison := rfl
@[simp] theorem State.modPool_regPois (s : State) (p l : Nat) (f : PoolLine → PoolLine) : (s.modPool p l f).regPois = s.regPois := rfl
@[simp] theorem State.modPool_scrPois (s : State) (p l : Nat) (f : PoolLine → PoolLine) : (s.modPool p l f).scrPois = s.scrPois := rfl
@[simp] theorem State.modPool_accPois (s : State) (p l : Nat) (f : PoolLine → PoolLine) : (s.modPool p l f).accPois = s.accPois := rfl
@[simp] theorem State.modPool_hostAns (s : State) (p l : Nat) (f : PoolLine → PoolLine) : (s.modPool p l f).hostAns = s.hostAns := rfl
@[simp] theorem State.modPool_lines (s : State) (p l : Nat) (f : PoolLine → PoolLine) : (s.modPool p l f).lines = s.lines := rfl
@[simp] theorem State.modPool_poolAge (s : State) (p l : Nat) (f : PoolLine → PoolLine) : (s.modPool p l f).poolAge = s.poolAge := rfl
@[simp] theorem State.modPool_freqs (s : State) (p l : Nat) (f : PoolLine → PoolLine) : (s.modPool p l f).freqs = s.freqs := rfl
@[simp] theorem State.modPool_nextTag (s : State) (p l : Nat) (f : PoolLine → PoolLine) : (s.modPool p l f).nextTag = s.nextTag := rfl
@[simp] theorem State.modPool_outbox (s : State) (p l : Nat) (f : PoolLine → PoolLine) : (s.modPool p l f).outbox = s.outbox := rfl
@[simp] theorem State.modPool_cur (s : State) (p l : Nat) (f : PoolLine → PoolLine) : (s.modPool p l f).cur = s.cur := rfl
@[simp] theorem State.modPool_issueQ (s : State) (p l : Nat) (f : PoolLine → PoolLine) : (s.modPool p l f).issueQ = s.issueQ := rfl
@[simp] theorem State.modPool_agenda (s : State) (p l : Nat) (f : PoolLine → PoolLine) : (s.modPool p l f).agenda = s.agenda := rfl
@[simp] theorem State.modPool_fresh (s : State) (p l : Nat) (f : PoolLine → PoolLine) : (s.modPool p l f).fresh = s.fresh := rfl
@[simp] theorem State.modPool_moves (s : State) (p l : Nat) (f : PoolLine → PoolLine) : (s.modPool p l f).moves = s.moves := rfl
@[simp] theorem State.modPool_matMeta (s : State) (p l : Nat) (f : PoolLine → PoolLine) : (s.modPool p l f).matMeta = s.matMeta := rfl
@[simp] theorem State.modPool_copyMeta (s : State) (p l : Nat) (f : PoolLine → PoolLine) : (s.modPool p l f).copyMeta = s.copyMeta := rfl
@[simp] theorem State.modPool_swapMeta (s : State) (p l : Nat) (f : PoolLine → PoolLine) : (s.modPool p l f).swapMeta = s.swapMeta := rfl
@[simp] theorem State.modPool_vtMeta (s : State) (p l : Nat) (f : PoolLine → PoolLine) : (s.modPool p l f).vtMeta = s.vtMeta := rfl
@[simp] theorem State.modPool_codeOld (s : State) (p l : Nat) (f : PoolLine → PoolLine) : (s.modPool p l f).codeOld = s.codeOld := rfl
@[simp] theorem State.modPool_notes (s : State) (p l : Nat) (f : PoolLine → PoolLine) : (s.modPool p l f).notes = s.notes := rfl
@[simp] theorem State.modPool_sigs (s : State) (p l : Nat) (f : PoolLine → PoolLine) : (s.modPool p l f).sigs = s.sigs := rfl
@[simp] theorem State.thread?_modPool (s : State) (p l : Nat) (f : PoolLine → PoolLine) (u : TRef) : (s.modPool p l f).thread? u = s.thread? u := rfl
@[simp] theorem State.group?_modPool (s : State) (p l : Nat) (f : PoolLine → PoolLine) (h : GRef) : (s.modPool p l f).group? h = s.group? h := rfl
@[simp] theorem State.kernel?_modPool (s : State) (p l : Nat) (f : PoolLine → PoolLine) (j : KRef) : (s.modPool p l f).kernel? j = s.kernel? j := rfl
@[simp] theorem State.gang?_modPool (s : State) (p l : Nat) (f : PoolLine → PoolLine) (h : GangRef) : (s.modPool p l f).gang? h = s.gang? h := rfl
@[simp] theorem State.holding_modPool (s : State) (p l : Nat) (f : PoolLine → PoolLine) (d : CCRef) : (s.modPool p l f).holding d = s.holding d := rfl
@[simp] theorem State.core_modPool (s : State) (p l : Nat) (f : PoolLine → PoolLine) (d : CoreRef) : (s.modPool p l f).core d = s.core d := rfl
@[simp] theorem State.ctx_modPool (s : State) (p l : Nat) (f : PoolLine → PoolLine) (d : CtxRef) : (s.modPool p l f).ctx d = s.ctx d := rfl
@[simp] theorem State.part_modPool (s : State) (p l : Nat) (f : PoolLine → PoolLine) (n : Nat) : (s.modPool p l f).part n = s.part n := rfl
@[simp] theorem State.die_modPool (s : State) (p l : Nat) (f : PoolLine → PoolLine) (n : Nat) : (s.modPool p l f).die n = s.die n := rfl
@[simp] theorem State.queue_modPool (s : State) (p l : Nat) (f : PoolLine → PoolLine) (r : QRef) : (s.modPool p l f).queue r = s.queue r := rfl
@[simp] theorem State.line_modPool (s : State) (p l : Nat) (f : PoolLine → PoolLine) (n : Nat) : (s.modPool p l f).line n = s.line n := rfl
@[simp] theorem State.memByte_modPool (s : State) (p l : Nat) (f : PoolLine → PoolLine) (a : Nat) : (s.modPool p l f).memByte a = s.memByte a := rfl

/-! ### modThread -/

@[simp] theorem State.modThread_time (s : State) (t : TRef) (f : Thread → Thread) : (s.modThread t f).time = s.time := by unfold State.modThread; split <;> rfl
@[simp] theorem State.modThread_whisk (s : State) (t : TRef) (f : Thread → Thread) : (s.modThread t f).whisk = s.whisk := by unfold State.modThread; split <;> rfl
@[simp] theorem State.modThread_pestle (s : State) (t : TRef) (f : Thread → Thread) : (s.modThread t f).pestle = s.pestle := by unfold State.modThread; split <;> rfl
@[simp] theorem State.modThread_lid (s : State) (t : TRef) (f : Thread → Thread) : (s.modThread t f).lid = s.lid := by unfold State.modThread; split <;> rfl
@[simp] theorem State.modThread_inReset (s : State) (t : TRef) (f : Thread → Thread) : (s.modThread t f).inReset = s.inReset := by unfold State.modThread; split <;> rfl
@[simp] theorem State.modThread_dies (s : State) (t : TRef) (f : Thread → Thread) : (s.modThread t f).dies = s.dies := by unfold State.modThread; split <;> rfl
@[simp] theorem State.modThread_links (s : State) (t : TRef) (f : Thread → Thread) : (s.modThread t f).links = s.links := by unfold State.modThread; split <;> rfl
@[simp] theorem State.modThread_parts (s : State) (t : TRef) (f : Thread → Thread) : (s.modThread t f).parts = s.parts := by unfold State.modThread; split <;> rfl
@[simp] theorem State.modThread_ctxs (s : State) (t : TRef) (f : Thread → Thread) : (s.modThread t f).ctxs = s.ctxs := by unfold State.modThread; split <;> rfl
@[simp] theorem State.modThread_kernels (s : State) (t : TRef) (f : Thread → Thread) : (s.modThread t f).kernels = s.kernels := by unfold State.modThread; split <;> rfl
@[simp] theorem State.modThread_gangs (s : State) (t : TRef) (f : Thread → Thread) : (s.modThread t f).gangs = s.gangs := by unfold State.modThread; split <;> rfl
@[simp] theorem State.modThread_groups (s : State) (t : TRef) (f : Thread → Thread) : (s.modThread t f).groups = s.groups := by unfold State.modThread; split <;> rfl
@[simp] theorem State.modThread_holds (s : State) (t : TRef) (f : Thread → Thread) : (s.modThread t f).holds = s.holds := by unfold State.modThread; split <;> rfl
@[simp] theorem State.modThread_cores (s : State) (t : TRef) (f : Thread → Thread) : (s.modThread t f).cores = s.cores := by unfold State.modThread; split <;> rfl
@[simp] theorem State.modThread_mem (s : State) (t : TRef) (f : Thread → Thread) : (s.modThread t f).mem = s.mem := by unfold State.modThread; split <;> rfl
@[simp] theorem State.modThread_keyTag (s : State) (t : TRef) (f : Thread → Thread) : (s.modThread t f).keyTag = s.keyTag := by unfold State.modThread; split <;> rfl
@[simp] theorem State.modThread_poison (s : State) (t : TRef) (f : Thread → Thread) : (s.modThread t f).poison = s.poison := by unfold State.modThread; split <;> rfl
@[simp] theorem State.modThread_regPois (s : State) (t : TRef) (f : Thread → Thread) : (s.modThread t f).regPois = s.regPois := by unfold State.modThread; split <;> rfl
@[simp] theorem State.modThread_scrPois (s : State) (t : TRef) (f : Thread → Thread) : (s.modThread t f).scrPois = s.scrPois := by unfold State.modThread; split <;> rfl
@[simp] theorem State.modThread_accPois (s : State) (t : TRef) (f : Thread → Thread) : (s.modThread t f).accPois = s.accPois := by unfold State.modThread; split <;> rfl
@[simp] theorem State.modThread_hostAns (s : State) (t : TRef) (f : Thread → Thread) : (s.modThread t f).hostAns = s.hostAns := by unfold State.modThread; split <;> rfl
@[simp] theorem State.modThread_lines (s : State) (t : TRef) (f : Thread → Thread) : (s.modThread t f).lines = s.lines := by unfold State.modThread; split <;> rfl
@[simp] theorem State.modThread_pool (s : State) (t : TRef) (f : Thread → Thread) : (s.modThread t f).pool = s.pool := by unfold State.modThread; split <;> rfl
@[simp] theorem State.modThread_poolAge (s : State) (t : TRef) (f : Thread → Thread) : (s.modThread t f).poolAge = s.poolAge := by unfold State.modThread; split <;> rfl
@[simp] theorem State.modThread_freqs (s : State) (t : TRef) (f : Thread → Thread) : (s.modThread t f).freqs = s.freqs := by unfold State.modThread; split <;> rfl
@[simp] theorem State.modThread_nextTag (s : State) (t : TRef) (f : Thread → Thread) : (s.modThread t f).nextTag = s.nextTag := by unfold State.modThread; split <;> rfl
@[simp] theorem State.modThread_outbox (s : State) (t : TRef) (f : Thread → Thread) : (s.modThread t f).outbox = s.outbox := by unfold State.modThread; split <;> rfl
@[simp] theorem State.modThread_cur (s : State) (t : TRef) (f : Thread → Thread) : (s.modThread t f).cur = s.cur := by unfold State.modThread; split <;> rfl
@[simp] theorem State.modThread_issueQ (s : State) (t : TRef) (f : Thread → Thread) : (s.modThread t f).issueQ = s.issueQ := by unfold State.modThread; split <;> rfl
@[simp] theorem State.modThread_agenda (s : State) (t : TRef) (f : Thread → Thread) : (s.modThread t f).agenda = s.agenda := by unfold State.modThread; split <;> rfl
@[simp] theorem State.modThread_fresh (s : State) (t : TRef) (f : Thread → Thread) : (s.modThread t f).fresh = s.fresh := by unfold State.modThread; split <;> rfl
@[simp] theorem State.modThread_moves (s : State) (t : TRef) (f : Thread → Thread) : (s.modThread t f).moves = s.moves := by unfold State.modThread; split <;> rfl
@[simp] theorem State.modThread_matMeta (s : State) (t : TRef) (f : Thread → Thread) : (s.modThread t f).matMeta = s.matMeta := by unfold State.modThread; split <;> rfl
@[simp] theorem State.modThread_copyMeta (s : State) (t : TRef) (f : Thread → Thread) : (s.modThread t f).copyMeta = s.copyMeta := by unfold State.modThread; split <;> rfl
@[simp] theorem State.modThread_swapMeta (s : State) (t : TRef) (f : Thread → Thread) : (s.modThread t f).swapMeta = s.swapMeta := by unfold State.modThread; split <;> rfl
@[simp] theorem State.modThread_vtMeta (s : State) (t : TRef) (f : Thread → Thread) : (s.modThread t f).vtMeta = s.vtMeta := by unfold State.modThread; split <;> rfl
@[simp] theorem State.modThread_codeOld (s : State) (t : TRef) (f : Thread → Thread) : (s.modThread t f).codeOld = s.codeOld := by unfold State.modThread; split <;> rfl
@[simp] theorem State.modThread_notes (s : State) (t : TRef) (f : Thread → Thread) : (s.modThread t f).notes = s.notes := by unfold State.modThread; split <;> rfl
@[simp] theorem State.modThread_sigs (s : State) (t : TRef) (f : Thread → Thread) : (s.modThread t f).sigs = s.sigs := by unfold State.modThread; split <;> rfl
@[simp] theorem State.group?_modThread (s : State) (t : TRef) (f : Thread → Thread) (h : GRef) : (s.modThread t f).group? h = s.group? h := by unfold State.modThread; split <;> rfl
@[simp] theorem State.kernel?_modThread (s : State) (t : TRef) (f : Thread → Thread) (j : KRef) : (s.modThread t f).kernel? j = s.kernel? j := by unfold State.modThread; split <;> rfl
@[simp] theorem State.gang?_modThread (s : State) (t : TRef) (f : Thread → Thread) (h : GangRef) : (s.modThread t f).gang? h = s.gang? h := by unfold State.modThread; split <;> rfl
@[simp] theorem State.holding_modThread (s : State) (t : TRef) (f : Thread → Thread) (d : CCRef) : (s.modThread t f).holding d = s.holding d := by unfold State.modThread; split <;> rfl
@[simp] theorem State.core_modThread (s : State) (t : TRef) (f : Thread → Thread) (d : CoreRef) : (s.modThread t f).core d = s.core d := by unfold State.modThread; split <;> rfl
@[simp] theorem State.ctx_modThread (s : State) (t : TRef) (f : Thread → Thread) (d : CtxRef) : (s.modThread t f).ctx d = s.ctx d := by unfold State.modThread; split <;> rfl
@[simp] theorem State.part_modThread (s : State) (t : TRef) (f : Thread → Thread) (n : Nat) : (s.modThread t f).part n = s.part n := by unfold State.modThread; split <;> rfl
@[simp] theorem State.die_modThread (s : State) (t : TRef) (f : Thread → Thread) (n : Nat) : (s.modThread t f).die n = s.die n := by unfold State.modThread; split <;> rfl
@[simp] theorem State.queue_modThread (s : State) (t : TRef) (f : Thread → Thread) (r : QRef) : (s.modThread t f).queue r = s.queue r := by unfold State.modThread; split <;> rfl
@[simp] theorem State.line_modThread (s : State) (t : TRef) (f : Thread → Thread) (n : Nat) : (s.modThread t f).line n = s.line n := by unfold State.modThread; split <;> rfl
@[simp] theorem State.poolLine_modThread (s : State) (t : TRef) (f : Thread → Thread) (n i : Nat) : (s.modThread t f).poolLine n i = s.poolLine n i := by unfold State.modThread; split <;> rfl
@[simp] theorem State.memByte_modThread (s : State) (t : TRef) (f : Thread → Thread) (a : Nat) : (s.modThread t f).memByte a = s.memByte a := by unfold State.modThread; split <;> rfl

/-! ### modGroup -/

@[simp] theorem State.modGroup_time (s : State) (g : GRef) (f : Group → Group) : (s.modGroup g f).time = s.time := by unfold State.modGroup; split <;> rfl
@[simp] theorem State.modGroup_whisk (s : State) (g : GRef) (f : Group → Group) : (s.modGroup g f).whisk = s.whisk := by unfold State.modGroup; split <;> rfl
@[simp] theorem State.modGroup_pestle (s : State) (g : GRef) (f : Group → Group) : (s.modGroup g f).pestle = s.pestle := by unfold State.modGroup; split <;> rfl
@[simp] theorem State.modGroup_lid (s : State) (g : GRef) (f : Group → Group) : (s.modGroup g f).lid = s.lid := by unfold State.modGroup; split <;> rfl
@[simp] theorem State.modGroup_inReset (s : State) (g : GRef) (f : Group → Group) : (s.modGroup g f).inReset = s.inReset := by unfold State.modGroup; split <;> rfl
@[simp] theorem State.modGroup_dies (s : State) (g : GRef) (f : Group → Group) : (s.modGroup g f).dies = s.dies := by unfold State.modGroup; split <;> rfl
@[simp] theorem State.modGroup_links (s : State) (g : GRef) (f : Group → Group) : (s.modGroup g f).links = s.links := by unfold State.modGroup; split <;> rfl
@[simp] theorem State.modGroup_parts (s : State) (g : GRef) (f : Group → Group) : (s.modGroup g f).parts = s.parts := by unfold State.modGroup; split <;> rfl
@[simp] theorem State.modGroup_ctxs (s : State) (g : GRef) (f : Group → Group) : (s.modGroup g f).ctxs = s.ctxs := by unfold State.modGroup; split <;> rfl
@[simp] theorem State.modGroup_kernels (s : State) (g : GRef) (f : Group → Group) : (s.modGroup g f).kernels = s.kernels := by unfold State.modGroup; split <;> rfl
@[simp] theorem State.modGroup_gangs (s : State) (g : GRef) (f : Group → Group) : (s.modGroup g f).gangs = s.gangs := by unfold State.modGroup; split <;> rfl
@[simp] theorem State.modGroup_threads (s : State) (g : GRef) (f : Group → Group) : (s.modGroup g f).threads = s.threads := by unfold State.modGroup; split <;> rfl
@[simp] theorem State.modGroup_holds (s : State) (g : GRef) (f : Group → Group) : (s.modGroup g f).holds = s.holds := by unfold State.modGroup; split <;> rfl
@[simp] theorem State.modGroup_cores (s : State) (g : GRef) (f : Group → Group) : (s.modGroup g f).cores = s.cores := by unfold State.modGroup; split <;> rfl
@[simp] theorem State.modGroup_mem (s : State) (g : GRef) (f : Group → Group) : (s.modGroup g f).mem = s.mem := by unfold State.modGroup; split <;> rfl
@[simp] theorem State.modGroup_keyTag (s : State) (g : GRef) (f : Group → Group) : (s.modGroup g f).keyTag = s.keyTag := by unfold State.modGroup; split <;> rfl
@[simp] theorem State.modGroup_poison (s : State) (g : GRef) (f : Group → Group) : (s.modGroup g f).poison = s.poison := by unfold State.modGroup; split <;> rfl
@[simp] theorem State.modGroup_regPois (s : State) (g : GRef) (f : Group → Group) : (s.modGroup g f).regPois = s.regPois := by unfold State.modGroup; split <;> rfl
@[simp] theorem State.modGroup_scrPois (s : State) (g : GRef) (f : Group → Group) : (s.modGroup g f).scrPois = s.scrPois := by unfold State.modGroup; split <;> rfl
@[simp] theorem State.modGroup_accPois (s : State) (g : GRef) (f : Group → Group) : (s.modGroup g f).accPois = s.accPois := by unfold State.modGroup; split <;> rfl
@[simp] theorem State.modGroup_hostAns (s : State) (g : GRef) (f : Group → Group) : (s.modGroup g f).hostAns = s.hostAns := by unfold State.modGroup; split <;> rfl
@[simp] theorem State.modGroup_lines (s : State) (g : GRef) (f : Group → Group) : (s.modGroup g f).lines = s.lines := by unfold State.modGroup; split <;> rfl
@[simp] theorem State.modGroup_pool (s : State) (g : GRef) (f : Group → Group) : (s.modGroup g f).pool = s.pool := by unfold State.modGroup; split <;> rfl
@[simp] theorem State.modGroup_poolAge (s : State) (g : GRef) (f : Group → Group) : (s.modGroup g f).poolAge = s.poolAge := by unfold State.modGroup; split <;> rfl
@[simp] theorem State.modGroup_freqs (s : State) (g : GRef) (f : Group → Group) : (s.modGroup g f).freqs = s.freqs := by unfold State.modGroup; split <;> rfl
@[simp] theorem State.modGroup_nextTag (s : State) (g : GRef) (f : Group → Group) : (s.modGroup g f).nextTag = s.nextTag := by unfold State.modGroup; split <;> rfl
@[simp] theorem State.modGroup_outbox (s : State) (g : GRef) (f : Group → Group) : (s.modGroup g f).outbox = s.outbox := by unfold State.modGroup; split <;> rfl
@[simp] theorem State.modGroup_cur (s : State) (g : GRef) (f : Group → Group) : (s.modGroup g f).cur = s.cur := by unfold State.modGroup; split <;> rfl
@[simp] theorem State.modGroup_issueQ (s : State) (g : GRef) (f : Group → Group) : (s.modGroup g f).issueQ = s.issueQ := by unfold State.modGroup; split <;> rfl
@[simp] theorem State.modGroup_agenda (s : State) (g : GRef) (f : Group → Group) : (s.modGroup g f).agenda = s.agenda := by unfold State.modGroup; split <;> rfl
@[simp] theorem State.modGroup_fresh (s : State) (g : GRef) (f : Group → Group) : (s.modGroup g f).fresh = s.fresh := by unfold State.modGroup; split <;> rfl
@[simp] theorem State.modGroup_moves (s : State) (g : GRef) (f : Group → Group) : (s.modGroup g f).moves = s.moves := by unfold State.modGroup; split <;> rfl
@[simp] theorem State.modGroup_matMeta (s : State) (g : GRef) (f : Group → Group) : (s.modGroup g f).matMeta = s.matMeta := by unfold State.modGroup; split <;> rfl
@[simp] theorem State.modGroup_copyMeta (s : State) (g : GRef) (f : Group → Group) : (s.modGroup g f).copyMeta = s.copyMeta := by unfold State.modGroup; split <;> rfl
@[simp] theorem State.modGroup_swapMeta (s : State) (g : GRef) (f : Group → Group) : (s.modGroup g f).swapMeta = s.swapMeta := by unfold State.modGroup; split <;> rfl
@[simp] theorem State.modGroup_vtMeta (s : State) (g : GRef) (f : Group → Group) : (s.modGroup g f).vtMeta = s.vtMeta := by unfold State.modGroup; split <;> rfl
@[simp] theorem State.modGroup_codeOld (s : State) (g : GRef) (f : Group → Group) : (s.modGroup g f).codeOld = s.codeOld := by unfold State.modGroup; split <;> rfl
@[simp] theorem State.modGroup_notes (s : State) (g : GRef) (f : Group → Group) : (s.modGroup g f).notes = s.notes := by unfold State.modGroup; split <;> rfl
@[simp] theorem State.modGroup_sigs (s : State) (g : GRef) (f : Group → Group) : (s.modGroup g f).sigs = s.sigs := by unfold State.modGroup; split <;> rfl
@[simp] theorem State.thread?_modGroup (s : State) (g : GRef) (f : Group → Group) (u : TRef) : (s.modGroup g f).thread? u = s.thread? u := by unfold State.modGroup; split <;> rfl
@[simp] theorem State.kernel?_modGroup (s : State) (g : GRef) (f : Group → Group) (j : KRef) : (s.modGroup g f).kernel? j = s.kernel? j := by unfold State.modGroup; split <;> rfl
@[simp] theorem State.gang?_modGroup (s : State) (g : GRef) (f : Group → Group) (h : GangRef) : (s.modGroup g f).gang? h = s.gang? h := by unfold State.modGroup; split <;> rfl
@[simp] theorem State.holding_modGroup (s : State) (g : GRef) (f : Group → Group) (d : CCRef) : (s.modGroup g f).holding d = s.holding d := by unfold State.modGroup; split <;> rfl
@[simp] theorem State.core_modGroup (s : State) (g : GRef) (f : Group → Group) (d : CoreRef) : (s.modGroup g f).core d = s.core d := by unfold State.modGroup; split <;> rfl
@[simp] theorem State.ctx_modGroup (s : State) (g : GRef) (f : Group → Group) (d : CtxRef) : (s.modGroup g f).ctx d = s.ctx d := by unfold State.modGroup; split <;> rfl
@[simp] theorem State.part_modGroup (s : State) (g : GRef) (f : Group → Group) (n : Nat) : (s.modGroup g f).part n = s.part n := by unfold State.modGroup; split <;> rfl
@[simp] theorem State.die_modGroup (s : State) (g : GRef) (f : Group → Group) (n : Nat) : (s.modGroup g f).die n = s.die n := by unfold State.modGroup; split <;> rfl
@[simp] theorem State.queue_modGroup (s : State) (g : GRef) (f : Group → Group) (r : QRef) : (s.modGroup g f).queue r = s.queue r := by unfold State.modGroup; split <;> rfl
@[simp] theorem State.line_modGroup (s : State) (g : GRef) (f : Group → Group) (n : Nat) : (s.modGroup g f).line n = s.line n := by unfold State.modGroup; split <;> rfl
@[simp] theorem State.poolLine_modGroup (s : State) (g : GRef) (f : Group → Group) (n i : Nat) : (s.modGroup g f).poolLine n i = s.poolLine n i := by unfold State.modGroup; split <;> rfl
@[simp] theorem State.memByte_modGroup (s : State) (g : GRef) (f : Group → Group) (a : Nat) : (s.modGroup g f).memByte a = s.memByte a := by unfold State.modGroup; split <;> rfl

/-! ### modKernel -/

@[simp] theorem State.modKernel_time (s : State) (k : KRef) (f : Kernel → Kernel) : (s.modKernel k f).time = s.time := by unfold State.modKernel; split <;> rfl
@[simp] theorem State.modKernel_whisk (s : State) (k : KRef) (f : Kernel → Kernel) : (s.modKernel k f).whisk = s.whisk := by unfold State.modKernel; split <;> rfl
@[simp] theorem State.modKernel_pestle (s : State) (k : KRef) (f : Kernel → Kernel) : (s.modKernel k f).pestle = s.pestle := by unfold State.modKernel; split <;> rfl
@[simp] theorem State.modKernel_lid (s : State) (k : KRef) (f : Kernel → Kernel) : (s.modKernel k f).lid = s.lid := by unfold State.modKernel; split <;> rfl
@[simp] theorem State.modKernel_inReset (s : State) (k : KRef) (f : Kernel → Kernel) : (s.modKernel k f).inReset = s.inReset := by unfold State.modKernel; split <;> rfl
@[simp] theorem State.modKernel_dies (s : State) (k : KRef) (f : Kernel → Kernel) : (s.modKernel k f).dies = s.dies := by unfold State.modKernel; split <;> rfl
@[simp] theorem State.modKernel_links (s : State) (k : KRef) (f : Kernel → Kernel) : (s.modKernel k f).links = s.links := by unfold State.modKernel; split <;> rfl
@[simp] theorem State.modKernel_parts (s : State) (k : KRef) (f : Kernel → Kernel) : (s.modKernel k f).parts = s.parts := by unfold State.modKernel; split <;> rfl
@[simp] theorem State.modKernel_ctxs (s : State) (k : KRef) (f : Kernel → Kernel) : (s.modKernel k f).ctxs = s.ctxs := by unfold State.modKernel; split <;> rfl
@[simp] theorem State.modKernel_gangs (s : State) (k : KRef) (f : Kernel → Kernel) : (s.modKernel k f).gangs = s.gangs := by unfold State.modKernel; split <;> rfl
@[simp] theorem State.modKernel_groups (s : State) (k : KRef) (f : Kernel → Kernel) : (s.modKernel k f).groups = s.groups := by unfold State.modKernel; split <;> rfl
@[simp] theorem State.modKernel_threads (s : State) (k : KRef) (f : Kernel → Kernel) : (s.modKernel k f).threads = s.threads := by unfold State.modKernel; split <;> rfl
@[simp] theorem State.modKernel_holds (s : State) (k : KRef) (f : Kernel → Kernel) : (s.modKernel k f).holds = s.holds := by unfold State.modKernel; split <;> rfl
@[simp] theorem State.modKernel_cores (s : State) (k : KRef) (f : Kernel → Kernel) : (s.modKernel k f).cores = s.cores := by unfold State.modKernel; split <;> rfl
@[simp] theorem State.modKernel_mem (s : State) (k : KRef) (f : Kernel → Kernel) : (s.modKernel k f).mem = s.mem := by unfold State.modKernel; split <;> rfl
@[simp] theorem State.modKernel_keyTag (s : State) (k : KRef) (f : Kernel → Kernel) : (s.modKernel k f).keyTag = s.keyTag := by unfold State.modKernel; split <;> rfl
@[simp] theorem State.modKernel_poison (s : State) (k : KRef) (f : Kernel → Kernel) : (s.modKernel k f).poison = s.poison := by unfold State.modKernel; split <;> rfl
@[simp] theorem State.modKernel_regPois (s : State) (k : KRef) (f : Kernel → Kernel) : (s.modKernel k f).regPois = s.regPois := by unfold State.modKernel; split <;> rfl
@[simp] theorem State.modKernel_scrPois (s : State) (k : KRef) (f : Kernel → Kernel) : (s.modKernel k f).scrPois = s.scrPois := by unfold State.modKernel; split <;> rfl
@[simp] theorem State.modKernel_accPois (s : State) (k : KRef) (f : Kernel → Kernel) : (s.modKernel k f).accPois = s.accPois := by unfold State.modKernel; split <;> rfl
@[simp] theorem State.modKernel_hostAns (s : State) (k : KRef) (f : Kernel → Kernel) : (s.modKernel k f).hostAns = s.hostAns := by unfold State.modKernel; split <;> rfl
@[simp] theorem State.modKernel_lines (s : State) (k : KRef) (f : Kernel → Kernel) : (s.modKernel k f).lines = s.lines := by unfold State.modKernel; split <;> rfl
@[simp] theorem State.modKernel_pool (s : State) (k : KRef) (f : Kernel → Kernel) : (s.modKernel k f).pool = s.pool := by unfold State.modKernel; split <;> rfl
@[simp] theorem State.modKernel_poolAge (s : State) (k : KRef) (f : Kernel → Kernel) : (s.modKernel k f).poolAge = s.poolAge := by unfold State.modKernel; split <;> rfl
@[simp] theorem State.modKernel_freqs (s : State) (k : KRef) (f : Kernel → Kernel) : (s.modKernel k f).freqs = s.freqs := by unfold State.modKernel; split <;> rfl
@[simp] theorem State.modKernel_nextTag (s : State) (k : KRef) (f : Kernel → Kernel) : (s.modKernel k f).nextTag = s.nextTag := by unfold State.modKernel; split <;> rfl
@[simp] theorem State.modKernel_outbox (s : State) (k : KRef) (f : Kernel → Kernel) : (s.modKernel k f).outbox = s.outbox := by unfold State.modKernel; split <;> rfl
@[simp] theorem State.modKernel_cur (s : State) (k : KRef) (f : Kernel → Kernel) : (s.modKernel k f).cur = s.cur := by unfold State.modKernel; split <;> rfl
@[simp] theorem State.modKernel_issueQ (s : State) (k : KRef) (f : Kernel → Kernel) : (s.modKernel k f).issueQ = s.issueQ := by unfold State.modKernel; split <;> rfl
@[simp] theorem State.modKernel_agenda (s : State) (k : KRef) (f : Kernel → Kernel) : (s.modKernel k f).agenda = s.agenda := by unfold State.modKernel; split <;> rfl
@[simp] theorem State.modKernel_fresh (s : State) (k : KRef) (f : Kernel → Kernel) : (s.modKernel k f).fresh = s.fresh := by unfold State.modKernel; split <;> rfl
@[simp] theorem State.modKernel_moves (s : State) (k : KRef) (f : Kernel → Kernel) : (s.modKernel k f).moves = s.moves := by unfold State.modKernel; split <;> rfl
@[simp] theorem State.modKernel_matMeta (s : State) (k : KRef) (f : Kernel → Kernel) : (s.modKernel k f).matMeta = s.matMeta := by unfold State.modKernel; split <;> rfl
@[simp] theorem State.modKernel_copyMeta (s : State) (k : KRef) (f : Kernel → Kernel) : (s.modKernel k f).copyMeta = s.copyMeta := by unfold State.modKernel; split <;> rfl
@[simp] theorem State.modKernel_swapMeta (s : State) (k : KRef) (f : Kernel → Kernel) : (s.modKernel k f).swapMeta = s.swapMeta := by unfold State.modKernel; split <;> rfl
@[simp] theorem State.modKernel_vtMeta (s : State) (k : KRef) (f : Kernel → Kernel) : (s.modKernel k f).vtMeta = s.vtMeta := by unfold State.modKernel; split <;> rfl
@[simp] theorem State.modKernel_codeOld (s : State) (k : KRef) (f : Kernel → Kernel) : (s.modKernel k f).codeOld = s.codeOld := by unfold State.modKernel; split <;> rfl
@[simp] theorem State.modKernel_notes (s : State) (k : KRef) (f : Kernel → Kernel) : (s.modKernel k f).notes = s.notes := by unfold State.modKernel; split <;> rfl
@[simp] theorem State.modKernel_sigs (s : State) (k : KRef) (f : Kernel → Kernel) : (s.modKernel k f).sigs = s.sigs := by unfold State.modKernel; split <;> rfl
@[simp] theorem State.thread?_modKernel (s : State) (k : KRef) (f : Kernel → Kernel) (u : TRef) : (s.modKernel k f).thread? u = s.thread? u := by unfold State.modKernel; split <;> rfl
@[simp] theorem State.group?_modKernel (s : State) (k : KRef) (f : Kernel → Kernel) (h : GRef) : (s.modKernel k f).group? h = s.group? h := by unfold State.modKernel; split <;> rfl
@[simp] theorem State.gang?_modKernel (s : State) (k : KRef) (f : Kernel → Kernel) (h : GangRef) : (s.modKernel k f).gang? h = s.gang? h := by unfold State.modKernel; split <;> rfl
@[simp] theorem State.holding_modKernel (s : State) (k : KRef) (f : Kernel → Kernel) (d : CCRef) : (s.modKernel k f).holding d = s.holding d := by unfold State.modKernel; split <;> rfl
@[simp] theorem State.core_modKernel (s : State) (k : KRef) (f : Kernel → Kernel) (d : CoreRef) : (s.modKernel k f).core d = s.core d := by unfold State.modKernel; split <;> rfl
@[simp] theorem State.ctx_modKernel (s : State) (k : KRef) (f : Kernel → Kernel) (d : CtxRef) : (s.modKernel k f).ctx d = s.ctx d := by unfold State.modKernel; split <;> rfl
@[simp] theorem State.part_modKernel (s : State) (k : KRef) (f : Kernel → Kernel) (n : Nat) : (s.modKernel k f).part n = s.part n := by unfold State.modKernel; split <;> rfl
@[simp] theorem State.die_modKernel (s : State) (k : KRef) (f : Kernel → Kernel) (n : Nat) : (s.modKernel k f).die n = s.die n := by unfold State.modKernel; split <;> rfl
@[simp] theorem State.queue_modKernel (s : State) (k : KRef) (f : Kernel → Kernel) (r : QRef) : (s.modKernel k f).queue r = s.queue r := by unfold State.modKernel; split <;> rfl
@[simp] theorem State.line_modKernel (s : State) (k : KRef) (f : Kernel → Kernel) (n : Nat) : (s.modKernel k f).line n = s.line n := by unfold State.modKernel; split <;> rfl
@[simp] theorem State.poolLine_modKernel (s : State) (k : KRef) (f : Kernel → Kernel) (n i : Nat) : (s.modKernel k f).poolLine n i = s.poolLine n i := by unfold State.modKernel; split <;> rfl
@[simp] theorem State.memByte_modKernel (s : State) (k : KRef) (f : Kernel → Kernel) (a : Nat) : (s.modKernel k f).memByte a = s.memByte a := by unfold State.modKernel; split <;> rfl

/-! ### modGang -/

@[simp] theorem State.modGang_time (s : State) (g : GangRef) (f : Gang → Gang) : (s.modGang g f).time = s.time := by unfold State.modGang; split <;> rfl
@[simp] theorem State.modGang_whisk (s : State) (g : GangRef) (f : Gang → Gang) : (s.modGang g f).whisk = s.whisk := by unfold State.modGang; split <;> rfl
@[simp] theorem State.modGang_pestle (s : State) (g : GangRef) (f : Gang → Gang) : (s.modGang g f).pestle = s.pestle := by unfold State.modGang; split <;> rfl
@[simp] theorem State.modGang_lid (s : State) (g : GangRef) (f : Gang → Gang) : (s.modGang g f).lid = s.lid := by unfold State.modGang; split <;> rfl
@[simp] theorem State.modGang_inReset (s : State) (g : GangRef) (f : Gang → Gang) : (s.modGang g f).inReset = s.inReset := by unfold State.modGang; split <;> rfl
@[simp] theorem State.modGang_dies (s : State) (g : GangRef) (f : Gang → Gang) : (s.modGang g f).dies = s.dies := by unfold State.modGang; split <;> rfl
@[simp] theorem State.modGang_links (s : State) (g : GangRef) (f : Gang → Gang) : (s.modGang g f).links = s.links := by unfold State.modGang; split <;> rfl
@[simp] theorem State.modGang_parts (s : State) (g : GangRef) (f : Gang → Gang) : (s.modGang g f).parts = s.parts := by unfold State.modGang; split <;> rfl
@[simp] theorem State.modGang_ctxs (s : State) (g : GangRef) (f : Gang → Gang) : (s.modGang g f).ctxs = s.ctxs := by unfold State.modGang; split <;> rfl
@[simp] theorem State.modGang_kernels (s : State) (g : GangRef) (f : Gang → Gang) : (s.modGang g f).kernels = s.kernels := by unfold State.modGang; split <;> rfl
@[simp] theorem State.modGang_groups (s : State) (g : GangRef) (f : Gang → Gang) : (s.modGang g f).groups = s.groups := by unfold State.modGang; split <;> rfl
@[simp] theorem State.modGang_threads (s : State) (g : GangRef) (f : Gang → Gang) : (s.modGang g f).threads = s.threads := by unfold State.modGang; split <;> rfl
@[simp] theorem State.modGang_holds (s : State) (g : GangRef) (f : Gang → Gang) : (s.modGang g f).holds = s.holds := by unfold State.modGang; split <;> rfl
@[simp] theorem State.modGang_cores (s : State) (g : GangRef) (f : Gang → Gang) : (s.modGang g f).cores = s.cores := by unfold State.modGang; split <;> rfl
@[simp] theorem State.modGang_mem (s : State) (g : GangRef) (f : Gang → Gang) : (s.modGang g f).mem = s.mem := by unfold State.modGang; split <;> rfl
@[simp] theorem State.modGang_keyTag (s : State) (g : GangRef) (f : Gang → Gang) : (s.modGang g f).keyTag = s.keyTag := by unfold State.modGang; split <;> rfl
@[simp] theorem State.modGang_poison (s : State) (g : GangRef) (f : Gang → Gang) : (s.modGang g f).poison = s.poison := by unfold State.modGang; split <;> rfl
@[simp] theorem State.modGang_regPois (s : State) (g : GangRef) (f : Gang → Gang) : (s.modGang g f).regPois = s.regPois := by unfold State.modGang; split <;> rfl
@[simp] theorem State.modGang_scrPois (s : State) (g : GangRef) (f : Gang → Gang) : (s.modGang g f).scrPois = s.scrPois := by unfold State.modGang; split <;> rfl
@[simp] theorem State.modGang_accPois (s : State) (g : GangRef) (f : Gang → Gang) : (s.modGang g f).accPois = s.accPois := by unfold State.modGang; split <;> rfl
@[simp] theorem State.modGang_hostAns (s : State) (g : GangRef) (f : Gang → Gang) : (s.modGang g f).hostAns = s.hostAns := by unfold State.modGang; split <;> rfl
@[simp] theorem State.modGang_lines (s : State) (g : GangRef) (f : Gang → Gang) : (s.modGang g f).lines = s.lines := by unfold State.modGang; split <;> rfl
@[simp] theorem State.modGang_pool (s : State) (g : GangRef) (f : Gang → Gang) : (s.modGang g f).pool = s.pool := by unfold State.modGang; split <;> rfl
@[simp] theorem State.modGang_poolAge (s : State) (g : GangRef) (f : Gang → Gang) : (s.modGang g f).poolAge = s.poolAge := by unfold State.modGang; split <;> rfl
@[simp] theorem State.modGang_freqs (s : State) (g : GangRef) (f : Gang → Gang) : (s.modGang g f).freqs = s.freqs := by unfold State.modGang; split <;> rfl
@[simp] theorem State.modGang_nextTag (s : State) (g : GangRef) (f : Gang → Gang) : (s.modGang g f).nextTag = s.nextTag := by unfold State.modGang; split <;> rfl
@[simp] theorem State.modGang_outbox (s : State) (g : GangRef) (f : Gang → Gang) : (s.modGang g f).outbox = s.outbox := by unfold State.modGang; split <;> rfl
@[simp] theorem State.modGang_cur (s : State) (g : GangRef) (f : Gang → Gang) : (s.modGang g f).cur = s.cur := by unfold State.modGang; split <;> rfl
@[simp] theorem State.modGang_issueQ (s : State) (g : GangRef) (f : Gang → Gang) : (s.modGang g f).issueQ = s.issueQ := by unfold State.modGang; split <;> rfl
@[simp] theorem State.modGang_agenda (s : State) (g : GangRef) (f : Gang → Gang) : (s.modGang g f).agenda = s.agenda := by unfold State.modGang; split <;> rfl
@[simp] theorem State.modGang_fresh (s : State) (g : GangRef) (f : Gang → Gang) : (s.modGang g f).fresh = s.fresh := by unfold State.modGang; split <;> rfl
@[simp] theorem State.modGang_moves (s : State) (g : GangRef) (f : Gang → Gang) : (s.modGang g f).moves = s.moves := by unfold State.modGang; split <;> rfl
@[simp] theorem State.modGang_matMeta (s : State) (g : GangRef) (f : Gang → Gang) : (s.modGang g f).matMeta = s.matMeta := by unfold State.modGang; split <;> rfl
@[simp] theorem State.modGang_copyMeta (s : State) (g : GangRef) (f : Gang → Gang) : (s.modGang g f).copyMeta = s.copyMeta := by unfold State.modGang; split <;> rfl
@[simp] theorem State.modGang_swapMeta (s : State) (g : GangRef) (f : Gang → Gang) : (s.modGang g f).swapMeta = s.swapMeta := by unfold State.modGang; split <;> rfl
@[simp] theorem State.modGang_vtMeta (s : State) (g : GangRef) (f : Gang → Gang) : (s.modGang g f).vtMeta = s.vtMeta := by unfold State.modGang; split <;> rfl
@[simp] theorem State.modGang_codeOld (s : State) (g : GangRef) (f : Gang → Gang) : (s.modGang g f).codeOld = s.codeOld := by unfold State.modGang; split <;> rfl
@[simp] theorem State.modGang_notes (s : State) (g : GangRef) (f : Gang → Gang) : (s.modGang g f).notes = s.notes := by unfold State.modGang; split <;> rfl
@[simp] theorem State.modGang_sigs (s : State) (g : GangRef) (f : Gang → Gang) : (s.modGang g f).sigs = s.sigs := by unfold State.modGang; split <;> rfl
@[simp] theorem State.thread?_modGang (s : State) (g : GangRef) (f : Gang → Gang) (u : TRef) : (s.modGang g f).thread? u = s.thread? u := by unfold State.modGang; split <;> rfl
@[simp] theorem State.group?_modGang (s : State) (g : GangRef) (f : Gang → Gang) (h : GRef) : (s.modGang g f).group? h = s.group? h := by unfold State.modGang; split <;> rfl
@[simp] theorem State.kernel?_modGang (s : State) (g : GangRef) (f : Gang → Gang) (j : KRef) : (s.modGang g f).kernel? j = s.kernel? j := by unfold State.modGang; split <;> rfl
@[simp] theorem State.holding_modGang (s : State) (g : GangRef) (f : Gang → Gang) (d : CCRef) : (s.modGang g f).holding d = s.holding d := by unfold State.modGang; split <;> rfl
@[simp] theorem State.core_modGang (s : State) (g : GangRef) (f : Gang → Gang) (d : CoreRef) : (s.modGang g f).core d = s.core d := by unfold State.modGang; split <;> rfl
@[simp] theorem State.ctx_modGang (s : State) (g : GangRef) (f : Gang → Gang) (d : CtxRef) : (s.modGang g f).ctx d = s.ctx d := by unfold State.modGang; split <;> rfl
@[simp] theorem State.part_modGang (s : State) (g : GangRef) (f : Gang → Gang) (n : Nat) : (s.modGang g f).part n = s.part n := by unfold State.modGang; split <;> rfl
@[simp] theorem State.die_modGang (s : State) (g : GangRef) (f : Gang → Gang) (n : Nat) : (s.modGang g f).die n = s.die n := by unfold State.modGang; split <;> rfl
@[simp] theorem State.queue_modGang (s : State) (g : GangRef) (f : Gang → Gang) (r : QRef) : (s.modGang g f).queue r = s.queue r := by unfold State.modGang; split <;> rfl
@[simp] theorem State.line_modGang (s : State) (g : GangRef) (f : Gang → Gang) (n : Nat) : (s.modGang g f).line n = s.line n := by unfold State.modGang; split <;> rfl
@[simp] theorem State.poolLine_modGang (s : State) (g : GangRef) (f : Gang → Gang) (n i : Nat) : (s.modGang g f).poolLine n i = s.poolLine n i := by unfold State.modGang; split <;> rfl
@[simp] theorem State.memByte_modGang (s : State) (g : GangRef) (f : Gang → Gang) (a : Nat) : (s.modGang g f).memByte a = s.memByte a := by unfold State.modGang; split <;> rfl

/-! ### modLink -/

@[simp] theorem State.modLink_time (s : State) (l : LinkRef) (f : Link → Link) : (s.modLink l f).time = s.time := by cases l <;> rfl
@[simp] theorem State.modLink_whisk (s : State) (l : LinkRef) (f : Link → Link) : (s.modLink l f).whisk = s.whisk := by cases l <;> rfl
@[simp] theorem State.modLink_pestle (s : State) (l : LinkRef) (f : Link → Link) : (s.modLink l f).pestle = s.pestle := by cases l <;> rfl
@[simp] theorem State.modLink_lid (s : State) (l : LinkRef) (f : Link → Link) : (s.modLink l f).lid = s.lid := by cases l <;> rfl
@[simp] theorem State.modLink_inReset (s : State) (l : LinkRef) (f : Link → Link) : (s.modLink l f).inReset = s.inReset := by cases l <;> rfl
@[simp] theorem State.modLink_parts (s : State) (l : LinkRef) (f : Link → Link) : (s.modLink l f).parts = s.parts := by cases l <;> rfl
@[simp] theorem State.modLink_ctxs (s : State) (l : LinkRef) (f : Link → Link) : (s.modLink l f).ctxs = s.ctxs := by cases l <;> rfl
@[simp] theorem State.modLink_kernels (s : State) (l : LinkRef) (f : Link → Link) : (s.modLink l f).kernels = s.kernels := by cases l <;> rfl
@[simp] theorem State.modLink_gangs (s : State) (l : LinkRef) (f : Link → Link) : (s.modLink l f).gangs = s.gangs := by cases l <;> rfl
@[simp] theorem State.modLink_groups (s : State) (l : LinkRef) (f : Link → Link) : (s.modLink l f).groups = s.groups := by cases l <;> rfl
@[simp] theorem State.modLink_threads (s : State) (l : LinkRef) (f : Link → Link) : (s.modLink l f).threads = s.threads := by cases l <;> rfl
@[simp] theorem State.modLink_holds (s : State) (l : LinkRef) (f : Link → Link) : (s.modLink l f).holds = s.holds := by cases l <;> rfl
@[simp] theorem State.modLink_cores (s : State) (l : LinkRef) (f : Link → Link) : (s.modLink l f).cores = s.cores := by cases l <;> rfl
@[simp] theorem State.modLink_mem (s : State) (l : LinkRef) (f : Link → Link) : (s.modLink l f).mem = s.mem := by cases l <;> rfl
@[simp] theorem State.modLink_keyTag (s : State) (l : LinkRef) (f : Link → Link) : (s.modLink l f).keyTag = s.keyTag := by cases l <;> rfl
@[simp] theorem State.modLink_poison (s : State) (l : LinkRef) (f : Link → Link) : (s.modLink l f).poison = s.poison := by cases l <;> rfl
@[simp] theorem State.modLink_regPois (s : State) (l : LinkRef) (f : Link → Link) : (s.modLink l f).regPois = s.regPois := by cases l <;> rfl
@[simp] theorem State.modLink_scrPois (s : State) (l : LinkRef) (f : Link → Link) : (s.modLink l f).scrPois = s.scrPois := by cases l <;> rfl
@[simp] theorem State.modLink_accPois (s : State) (l : LinkRef) (f : Link → Link) : (s.modLink l f).accPois = s.accPois := by cases l <;> rfl
@[simp] theorem State.modLink_hostAns (s : State) (l : LinkRef) (f : Link → Link) : (s.modLink l f).hostAns = s.hostAns := by cases l <;> rfl
@[simp] theorem State.modLink_lines (s : State) (l : LinkRef) (f : Link → Link) : (s.modLink l f).lines = s.lines := by cases l <;> rfl
@[simp] theorem State.modLink_pool (s : State) (l : LinkRef) (f : Link → Link) : (s.modLink l f).pool = s.pool := by cases l <;> rfl
@[simp] theorem State.modLink_poolAge (s : State) (l : LinkRef) (f : Link → Link) : (s.modLink l f).poolAge = s.poolAge := by cases l <;> rfl
@[simp] theorem State.modLink_freqs (s : State) (l : LinkRef) (f : Link → Link) : (s.modLink l f).freqs = s.freqs := by cases l <;> rfl
@[simp] theorem State.modLink_nextTag (s : State) (l : LinkRef) (f : Link → Link) : (s.modLink l f).nextTag = s.nextTag := by cases l <;> rfl
@[simp] theorem State.modLink_outbox (s : State) (l : LinkRef) (f : Link → Link) : (s.modLink l f).outbox = s.outbox := by cases l <;> rfl
@[simp] theorem State.modLink_cur (s : State) (l : LinkRef) (f : Link → Link) : (s.modLink l f).cur = s.cur := by cases l <;> rfl
@[simp] theorem State.modLink_issueQ (s : State) (l : LinkRef) (f : Link → Link) : (s.modLink l f).issueQ = s.issueQ := by cases l <;> rfl
@[simp] theorem State.modLink_agenda (s : State) (l : LinkRef) (f : Link → Link) : (s.modLink l f).agenda = s.agenda := by cases l <;> rfl
@[simp] theorem State.modLink_fresh (s : State) (l : LinkRef) (f : Link → Link) : (s.modLink l f).fresh = s.fresh := by cases l <;> rfl
@[simp] theorem State.modLink_moves (s : State) (l : LinkRef) (f : Link → Link) : (s.modLink l f).moves = s.moves := by cases l <;> rfl
@[simp] theorem State.modLink_matMeta (s : State) (l : LinkRef) (f : Link → Link) : (s.modLink l f).matMeta = s.matMeta := by cases l <;> rfl
@[simp] theorem State.modLink_copyMeta (s : State) (l : LinkRef) (f : Link → Link) : (s.modLink l f).copyMeta = s.copyMeta := by cases l <;> rfl
@[simp] theorem State.modLink_swapMeta (s : State) (l : LinkRef) (f : Link → Link) : (s.modLink l f).swapMeta = s.swapMeta := by cases l <;> rfl
@[simp] theorem State.modLink_vtMeta (s : State) (l : LinkRef) (f : Link → Link) : (s.modLink l f).vtMeta = s.vtMeta := by cases l <;> rfl
@[simp] theorem State.modLink_codeOld (s : State) (l : LinkRef) (f : Link → Link) : (s.modLink l f).codeOld = s.codeOld := by cases l <;> rfl
@[simp] theorem State.modLink_notes (s : State) (l : LinkRef) (f : Link → Link) : (s.modLink l f).notes = s.notes := by cases l <;> rfl
@[simp] theorem State.modLink_sigs (s : State) (l : LinkRef) (f : Link → Link) : (s.modLink l f).sigs = s.sigs := by cases l <;> rfl
@[simp] theorem State.thread?_modLink (s : State) (l : LinkRef) (f : Link → Link) (u : TRef) : (s.modLink l f).thread? u = s.thread? u := by cases l <;> rfl
@[simp] theorem State.group?_modLink (s : State) (l : LinkRef) (f : Link → Link) (h : GRef) : (s.modLink l f).group? h = s.group? h := by cases l <;> rfl
@[simp] theorem State.kernel?_modLink (s : State) (l : LinkRef) (f : Link → Link) (j : KRef) : (s.modLink l f).kernel? j = s.kernel? j := by cases l <;> rfl
@[simp] theorem State.gang?_modLink (s : State) (l : LinkRef) (f : Link → Link) (h : GangRef) : (s.modLink l f).gang? h = s.gang? h := by cases l <;> rfl
@[simp] theorem State.holding_modLink (s : State) (l : LinkRef) (f : Link → Link) (d : CCRef) : (s.modLink l f).holding d = s.holding d := by cases l <;> rfl
@[simp] theorem State.core_modLink (s : State) (l : LinkRef) (f : Link → Link) (d : CoreRef) : (s.modLink l f).core d = s.core d := by cases l <;> rfl
@[simp] theorem State.ctx_modLink (s : State) (l : LinkRef) (f : Link → Link) (d : CtxRef) : (s.modLink l f).ctx d = s.ctx d := by cases l <;> rfl
@[simp] theorem State.part_modLink (s : State) (l : LinkRef) (f : Link → Link) (n : Nat) : (s.modLink l f).part n = s.part n := by cases l <;> rfl
@[simp] theorem State.queue_modLink (s : State) (l : LinkRef) (f : Link → Link) (r : QRef) : (s.modLink l f).queue r = s.queue r := by cases l <;> rfl
@[simp] theorem State.line_modLink (s : State) (l : LinkRef) (f : Link → Link) (n : Nat) : (s.modLink l f).line n = s.line n := by cases l <;> rfl
@[simp] theorem State.poolLine_modLink (s : State) (l : LinkRef) (f : Link → Link) (n i : Nat) : (s.modLink l f).poolLine n i = s.poolLine n i := by cases l <;> rfl
@[simp] theorem State.memByte_modLink (s : State) (l : LinkRef) (f : Link → Link) (a : Nat) : (s.modLink l f).memByte a = s.memByte a := by cases l <;> rfl

end Sys2Proof.Machine
end

