-- ==== Sys2Proof/Laws/Memory.lean ====
section
/-! SUPPORT. Laws of memory: what each operation on the table of bytes leaves, and that the canonical form is kept (R6, R227, R485). -/
namespace Sys2Proof.Machine
open Sys2Proof

/-! ### Writing bytes under a mask -/

theorem memPut_wf (m : List Host.Cell) (pa : Nat) (bs : List Byte) (ks : List Bool) (h : Memory.wf m = true) :
    Memory.wf (memPut m pa bs ks) = true := by
  induction bs generalizing m pa ks with
  | nil => exact h
  | cons b bs ih =>
    cases ks with
    | nil => exact h
    | cons k ks =>
      simp only [memPut]
      apply ih
      split
      · exact Tab.wf_put _ _ _ h
      · exact h

/-- A byte below the written range stays. -/
theorem memPut_below (m : List Host.Cell) (pa a : Nat) (bs : List Byte) (ks : List Bool) (h : a < pa) :
    Tab.get memDefault (memPut m pa bs ks) a = Tab.get memDefault m a := by
  induction bs generalizing m pa ks with
  | nil => rfl
  | cons b bs ih =>
    cases ks with
    | nil => rfl
    | cons k ks =>
      simp only [memPut]
      rw [ih _ _ _ (by omega)]
      split
      · exact Tab.get_put_ne _ _ _ (by omega)
      · rfl

/-- What stands at an address after a masked write. -/
theorem memPut_get (m : List Host.Cell) (pa a : Nat) (bs : List Byte) (ks : List Bool) :
    Tab.get memDefault (memPut m pa bs ks) a =
      if pa ≤ a ∧ a < pa + bs.length ∧ ks.getD (a - pa) false = true then bs.getD (a - pa) 0 else Tab.get memDefault m a := by
  induction bs generalizing m pa ks with
  | nil =>
    rw [if_neg (by simp only [List.length_nil]; omega)]
    rfl
  | cons b bs ih =>
    cases ks with
    | nil => simp [memPut]
    | cons k ks =>
      simp only [memPut]
      by_cases e : a = pa
      · subst e
        rw [memPut_below _ _ _ _ _ (by omega)]
        cases k <;> simp [Tab.get_put_self]
      · rw [ih]
        by_cases lt : pa < a
        · have i : a - pa = (a - (pa + 1)) + 1 := by omega
          rw [i]
          simp only [List.getD_cons_succ, List.length_cons]
          have g : Tab.get memDefault (if k = true then Tab.put memDefault m pa b else m) a = Tab.get memDefault m a := by
            split
            · exact Tab.get_put_ne _ _ _ e
            · rfl
          rw [g]
          by_cases c : pa + 1 ≤ a ∧ a < pa + 1 + bs.length ∧ ks.getD (a - (pa + 1)) false = true
          · rw [if_pos c, if_pos ⟨by omega, by omega, c.2.2⟩]
          · rw [if_neg c, if_neg (fun h => c ⟨by omega, by omega, h.2.2⟩)]
        · have c : ¬ (pa + 1 ≤ a ∧ a < pa + 1 + bs.length ∧ ks.getD (a - (pa + 1)) false = true) := fun h => lt h.1
          have d : ¬ (pa ≤ a ∧ a < pa + (b :: bs).length ∧ (k :: ks).getD (a - pa) false = true) := fun h => lt (by omega)
          rw [if_neg c, if_neg d]
          cases k with
          | true => exact Tab.get_put_ne _ _ _ e
          | false => rfl

/-- A whole write: its bytes stand there. -/
theorem memPut_all (m : List Host.Cell) (pa k : Nat) (bs : List Byte) (h : k < bs.length) :
    Tab.get memDefault (memPut m pa bs (List.replicate bs.length true)) (pa + k) = bs.getD k 0 := by
  rw [memPut_get, if_pos]
  · rw [Nat.add_sub_cancel_left]
  · refine ⟨by omega, by omega, ?_⟩
    rw [Nat.add_sub_cancel_left]
    simp [List.getD_eq_getElem?_getD, h]

/-! ### Opening a sector, and writing at the home -/

/-- Opening a sector touches memory, its key tag and its poison mark, and uses up free values. -/
theorem State.openSector_rest (s : State) (key q pa : Nat) (mask : List Bool) :
    s.openSector key q pa mask = { s with mem := (s.openSector key q pa mask).mem, keyTag := (s.openSector key q pa mask).keyTag,
                                          poison := (s.openSector key q pa mask).poison, fresh := (s.openSector key q pa mask).fresh } := by
  unfold State.openSector
  split
  · rfl
  · dsimp only
    split <;> rfl

theorem State.openSector_wf (s : State) (key q pa : Nat) (mask : List Bool) (h : Memory.wf s.mem = true) :
    Memory.wf (s.openSector key q pa mask).mem = true := by
  unfold State.openSector
  split
  · exact h
  · dsimp only
    split
    · exact h
    · exact memPut_wf _ _ _ _ h

theorem State.foldl_openSector_wf (part slot pa : Nat) (mask : List Bool) (q : Nat) (l : List Nat) (s : State) (h : Memory.wf s.mem = true) :
    Memory.wf (l.foldl (fun s i => s.openSector (s.sectorKey part slot (q + i)) (q + i) pa mask) s).mem = true := by
  induction l generalizing s with
  | nil => exact h
  | cons i l ih => exact ih _ (State.openSector_wf _ _ _ _ _ h)

/-- A write at the home keeps the canonical form. -/
theorem State.homeWrite_wf (s : State) (part slot pa : Nat) (bytes : List Byte) (mask : List Bool) (h : Memory.wf s.mem = true) :
    Memory.wf (s.homeWrite part slot pa bytes mask).mem = true :=
  memPut_wf _ _ _ _ (State.foldl_openSector_wf _ _ _ _ _ _ _ h)

theorem State.homePut_wf (s : State) (part slot pa : Nat) (bytes : List Byte) (h : Memory.wf s.mem = true) :
    Memory.wf (s.homePut part slot pa bytes).mem = true := State.homeWrite_wf _ _ _ _ _ _ h

/-- The masked bytes of a write stand at their addresses. -/
theorem State.homeWrite_hit (s : State) (part slot pa a : Nat) (bytes : List Byte) (mask : List Bool) (h1 : pa ≤ a)
    (h2 : a < pa + bytes.length) (h3 : mask.getD (a - pa) false = true) :
    (s.homeWrite part slot pa bytes mask).memByte a = bytes.getD (a - pa) 0 := by
  show Tab.get memDefault (memPut _ pa bytes mask) a = _
  rw [memPut_get, if_pos ⟨h1, h2, h3⟩]

/-- A read at the home changes no byte, and nothing but the count of free values used. -/
theorem State.homeRead_rest (s : State) (part slot pa n : Nat) :
    (s.homeRead part slot pa n).1 = { s with fresh := (s.homeRead part slot pa n).1.fresh } := by
  unfold State.homeRead
  dsimp only
  split <;> rfl

theorem State.homeRead_length (s : State) (part slot pa n : Nat) : (s.homeRead part slot pa n).2.length = n := by
  unfold State.homeRead
  dsimp only
  split <;> simp

/-- A read of sectors that are in plain form gives the bytes that stand there. -/
theorem State.homeRead_plain (s : State) (part slot pa n : Nat)
    (h : ∀ i < (pa + n + sectorSize - 1) / sectorSize - pa / sectorSize,
      s.sectorPlain (s.sectorKey part slot (pa / sectorSize + i)) (pa / sectorSize + i) = true) :
    s.homeRead part slot pa n = (s, (List.range n).map fun i => s.memByte (pa + i)) := by
  unfold State.homeRead
  dsimp only
  rw [if_pos]
  simpa using h

/-- Reset's memory has the canonical form. -/
theorem reset_mem_wf : Memory.wf State.reset.mem = true := rfl

end Sys2Proof.Machine
end

