-- ==== Sys2Proof/Laws/PerInstr.lean ====
section
/-! SUPPORT. Statements about every instruction as syntax, one lemma per constructor: decoding the word the encoder gives an instruction of a
thread gives that instruction. -/
namespace Sys2Proof.Laws.RoundTrip
open Sys2Proof Sys2Proof.Laws

/-- A well-formed instruction of a thread is what its word decodes to. -/
def Statement (i : Instr) : Prop := i.isThread = true → i.wf = true → decode (encode i) = .ok i

theorem nop (h : Hints) : Statement (.nop h) := fun _ hw => decode_packWord rfl (by
  simp only [row01, fD_bodyR, fA_bodyR, fB_bodyR, fC_bodyR, fX8_bodyR, fM7_bodyR, isAbsent_absent, isZero_zero, zero_part, Option.bind_eq_bind, Option.bind_some, if_true]) hw
theorem bra (h : Hints) (off : Word) : Statement (.bra h off) := fun _ hw => decode_packWord rfl (by
  simp only [row02, fD_bodyI, fA_bodyI, fImm_bodyI, fM7_bodyI, isAbsent_absent, isZero_zero, zero_part, Option.bind_eq_bind, Option.bind_some, if_true]) hw
theorem brx (h : Hints) (a : VReg) (off : Word) : Statement (.brx h a off) := fun _ hw => decode_packWord rfl (by
  simp only [row03, fD_bodyI, fA_bodyI, fImm_bodyI, fM7_bodyI, isAbsent_absent, isZero_zero, zero_part, dV_eV, Option.bind_eq_bind, Option.bind_some, if_true]) hw
theorem call (h : Hints) (d : VReg) (off : Word) : Statement (.call h d off) := fun _ hw => decode_packWord rfl (by
  simp only [row04, fD_bodyI, fA_bodyI, fImm_bodyI, fM7_bodyI, isAbsent_absent, isZero_zero, zero_part, dV_eV, Option.bind_eq_bind, Option.bind_some, if_true]) hw
theorem callx (h : Hints) (d : VReg) (a : VReg) (off : Word) : Statement (.callx h d a off) := fun _ hw => decode_packWord rfl (by
  simp only [row05, fD_bodyI, fA_bodyI, fImm_bodyI, fM7_bodyI, isZero_zero, zero_part, dV_eV, Option.bind_eq_bind, Option.bind_some, if_true]) hw
theorem ret (h : Hints) (a : VReg) : Statement (.ret h a) := fun _ hw => decode_packWord rfl (by
  simp only [row06, fD_bodyI, fA_bodyI, fImm_bodyI, fM7_bodyI, isAbsent_absent, isZero_zero, zero_part, dV_eV, Option.bind_eq_bind, Option.bind_some, if_true]) hw
theorem exitThread (h : Hints) : Statement (.exitThread h) := fun _ hw => decode_packWord rfl (by
  simp only [row07, fD_bodyR, fA_bodyR, fB_bodyR, fC_bodyR, fX8_bodyR, fM7_bodyR, isAbsent_absent, isZero_zero, zero_part, Option.bind_eq_bind, Option.bind_some, if_true]) hw
theorem jenrol (h : Hints) (jb : BitVec 4) : Statement (.jenrol h jb) := fun _ hw => decode_packWord rfl (by
  simp only [row08, fD_bodyR, fA_bodyR, fB_bodyR, fC_bodyR, fX8_bodyR, fM7_bodyR, isAbsent_absent, isZero_zero, zero_part, dJb_eJb, Option.bind_eq_bind, Option.bind_some, if_true]) hw
theorem jwait (h : Hints) (jb : BitVec 4) : Statement (.jwait h jb) := fun _ hw => decode_packWord rfl (by
  simp only [row09, fD_bodyR, fA_bodyR, fB_bodyR, fC_bodyR, fX8_bodyR, fM7_bodyR, isAbsent_absent, isZero_zero, zero_part, dJb_eJb, Option.bind_eq_bind, Option.bind_some, if_true]) hw
theorem jdrop (h : Hints) (jb : BitVec 4) : Statement (.jdrop h jb) := fun _ hw => decode_packWord rfl (by
  simp only [row0A, fD_bodyR, fA_bodyR, fB_bodyR, fC_bodyR, fX8_bodyR, fM7_bodyR, isAbsent_absent, isZero_zero, zero_part, dJb_eJb, Option.bind_eq_bind, Option.bind_some, if_true]) hw
theorem jstat (h : Hints) (d : VReg) (jb : BitVec 4) : Statement (.jstat h d jb) := fun _ hw => decode_packWord rfl (by
  simp only [row0B, fD_bodyR, fA_bodyR, fB_bodyR, fC_bodyR, fX8_bodyR, fM7_bodyR, isAbsent_absent, isZero_zero, zero_part, dV_eV, dJb_eJb, Option.bind_eq_bind, Option.bind_some, if_true]) hw
theorem sleep (h : Hints) (a : Option VReg) (imm : Word) : Statement (.sleep h a imm) := fun _ hw => decode_packWord rfl (by
  simp only [row0C, fD_bodyI, fA_bodyI, fImm_bodyI, fM7_bodyI, isAbsent_absent, isZero_zero, zero_part, dOV_eOV, Option.bind_eq_bind, Option.bind_some, if_true]) hw
theorem bkptN (h : Hints) (imm : Word) : Statement (.bkptN h imm) := fun _ hw => decode_packWord rfl (by
  simp only [row0D, fD_bodyI, fA_bodyI, fImm_bodyI, fM7_bodyI, isAbsent_absent, isZero_zero, zero_part, Option.bind_eq_bind, Option.bind_some, if_true]) hw
theorem trapN (h : Hints) (imm : Word) : Statement (.trapN h imm) := fun _ hw => decode_packWord rfl (by
  simp only [row0E, fD_bodyI, fA_bodyI, fImm_bodyI, fM7_bodyI, isAbsent_absent, isZero_zero, zero_part, Option.bind_eq_bind, Option.bind_some, if_true]) hw
theorem enter (h : Hints) (imm : Word) : Statement (.enter h imm) := fun _ hw => decode_packWord rfl (by
  simp only [row0F, fD_bodyI, fA_bodyI, fImm_bodyI, fM7_bodyI, isAbsent_absent, isZero_zero, zero_part, Option.bind_eq_bind, Option.bind_some, if_true]) hw
theorem shfl (h : Hints) (op : ShflOp) (vp : Option PReg) (d : VReg) (a : Src) (b : Src) (c : Option VReg) : Statement (.shfl h op vp d a b c) := fun _ hw => decode_packWord rfl (by
  simp only [row20, fD_bodyR, fA_bodyR, fB_bodyR, fC_bodyR, fX8_bodyR, fM7_bodyR, isZero_zero, zero_part, dV_eV, dSrc_eSrc, dOV_eOV, shflOp_code, vpOf_vpBits, Option.bind_eq_bind, Option.bind_some]) hw
theorem vote (h : Hints) (op : VoteOp) (d : PReg) (a : PReg) (c : Option VReg) : Statement (.vote h op d a c) := fun _ hw => decode_packWord rfl (by
  simp only [row21, fD_bodyR, fA_bodyR, fB_bodyR, fC_bodyR, fX8_bodyR, fM7_bodyR, isAbsent_absent, isZero_zero, zero_part, dP_eP, dOV_eOV, voteOp_code, Option.bind_eq_bind, Option.bind_some]) hw
theorem ballot (h : Hints) (d : VReg) (a : PReg) (c : Option VReg) : Statement (.ballot h d a c) := fun _ hw => decode_packWord rfl (by
  simp only [row22, fD_bodyR, fA_bodyR, fB_bodyR, fC_bodyR, fX8_bodyR, fM7_bodyR, isAbsent_absent, isZero_zero, zero_part, dV_eV, dP_eP, dOV_eOV, Option.bind_eq_bind, Option.bind_some, if_true]) hw
theorem matchLanes (h : Hints) (op : MatchOp) (f32 : Bool) (d : VReg) (a : VReg) (c : Option VReg) : Statement (.matchLanes h op f32 d a c) := fun _ hw => decode_packWord rfl (by
  simp only [row23, fD_bodyR, fA_bodyR, fB_bodyR, fC_bodyR, fX8_bodyR, fM7_bodyR, isAbsent_absent, isZero_zero, zero_part, dV_eV, dOV_eOV, matchOp_code, matchTy_bits, matchRest_bits, Option.bind_eq_bind, Option.bind_some]) hw
theorem redux (h : Hints) (op : RedOp) (ty : LTy) (d : VReg) (a : VReg) (c : Option VReg) : Statement (.redux h op ty d a c) := fun _ hw => decode_packWord rfl (by
  simp only [row24, fD_bodyR, fA_bodyR, fB_bodyR, fC_bodyR, fX8_bodyR, fM7_bodyR, isAbsent_absent, isZero_zero, zero_part, dV_eV, dOV_eOV, redOp_code, lTy_code, part0, part1, Option.bind_eq_bind, Option.bind_some]) hw
theorem scan (h : Hints) (op : RedOp) (ty : LTy) (exc : Bool) (d : VReg) (a : VReg) (c : Option VReg) : Statement (.scan h op ty exc d a c) := fun _ hw => decode_packWord rfl (by
  simp only [row25, fD_bodyR, fA_bodyR, fB_bodyR, fC_bodyR, fX8_bodyR, fM7_bodyR, isAbsent_absent, isZero_zero, zero_part, dV_eV, dOV_eOV, redOp_code, lTy_code, part2, part3, part0, part1, Option.bind_eq_bind, Option.bind_some]) hw
theorem elect (h : Hints) (d : PReg) (c : Option VReg) : Statement (.elect h d c) := fun _ hw => decode_packWord rfl (by
  simp only [row26, fD_bodyR, fA_bodyR, fB_bodyR, fC_bodyR, fX8_bodyR, fM7_bodyR, isAbsent_absent, isZero_zero, zero_part, dP_eP, dOV_eOV, Option.bind_eq_bind, Option.bind_some, if_true]) hw
theorem present (h : Hints) (d : VReg) (c : Option VReg) : Statement (.present h d c) := fun _ hw => decode_packWord rfl (by
  simp only [row27, fD_bodyR, fA_bodyR, fB_bodyR, fC_bodyR, fX8_bodyR, fM7_bodyR, isAbsent_absent, isZero_zero, zero_part, dV_eV, dOV_eOV, Option.bind_eq_bind, Option.bind_some, if_true]) hw
theorem iadd (h : Hints) (u : Bool) (sat : Bool) (d : VReg) (a : Src) (b : Src) : Statement (.iadd h u sat d a b) := fun _ hw => decode_packWord rfl (by
  simp only [row30, fD_bodyR, fA_bodyR, fB_bodyR, fC_bodyR, fX8_bodyR, fM7_bodyR, isAbsent_absent, isZero_zero, zero_part, dV_eV, dSrc_eSrc, part4, part5, part6, Option.bind_eq_bind, Option.bind_some, if_true]) hw
theorem iaddImm (h : Hints) (u : Bool) (sat : Bool) (d : VReg) (a : Src) (imm : Word) : Statement (.iaddImm h u sat d a imm) := fun _ hw => decode_packWord rfl (by
  simp only [row30, fD_bodyI, fA_bodyI, fM7_bodyI, fImm_bodyI, isZero_zero, zero_part, dV_eV, dSrc_eSrc, part4, part5, part6, Option.bind_eq_bind, Option.bind_some, if_true, sub8, if_false]) hw
theorem isub (h : Hints) (u : Bool) (sat : Bool) (d : VReg) (a : Src) (b : Src) : Statement (.isub h u sat d a b) := fun _ hw => decode_packWord rfl (by
  simp only [row31, fD_bodyR, fA_bodyR, fB_bodyR, fC_bodyR, fX8_bodyR, fM7_bodyR, isAbsent_absent, isZero_zero, zero_part, dV_eV, dSrc_eSrc, part4, part5, part6, Option.bind_eq_bind, Option.bind_some, if_true]) hw
theorem isubImm (h : Hints) (u : Bool) (sat : Bool) (d : VReg) (a : Src) (imm : Word) : Statement (.isubImm h u sat d a imm) := fun _ hw => decode_packWord rfl (by
  simp only [row31, fD_bodyI, fA_bodyI, fM7_bodyI, fImm_bodyI, isZero_zero, zero_part, dV_eV, dSrc_eSrc, part4, part5, part6, Option.bind_eq_bind, Option.bind_some, if_true, sub8, if_false]) hw
theorem imul (h : Hints) (u : Bool) (d : VReg) (a : Src) (b : Src) : Statement (.imul h u d a b) := fun _ hw => decode_packWord rfl (by
  simp only [row32, fD_bodyR, fA_bodyR, fB_bodyR, fC_bodyR, fX8_bodyR, fM7_bodyR, isAbsent_absent, isZero_zero, zero_part, dV_eV, dSrc_eSrc, part7, part8, Option.bind_eq_bind, Option.bind_some, if_true]) hw
theorem imulImm (h : Hints) (u : Bool) (d : VReg) (a : Src) (imm : Word) : Statement (.imulImm h u d a imm) := fun _ hw => decode_packWord rfl (by
  simp only [row32, fD_bodyI, fA_bodyI, fM7_bodyI, fImm_bodyI, isZero_zero, zero_part, dV_eV, dSrc_eSrc, part7, part8, Option.bind_eq_bind, Option.bind_some, if_true, sub8, if_false]) hw
theorem imulh (h : Hints) (u : Bool) (d : VReg) (a : Src) (b : Src) : Statement (.imulh h u d a b) := fun _ hw => decode_packWord rfl (by
  simp only [row33, fD_bodyR, fA_bodyR, fB_bodyR, fC_bodyR, fX8_bodyR, fM7_bodyR, isAbsent_absent, isZero_zero, zero_part, dV_eV, dSrc_eSrc, part7, part8, Option.bind_eq_bind, Option.bind_some, if_true]) hw
theorem imulhImm (h : Hints) (u : Bool) (d : VReg) (a : Src) (imm : Word) : Statement (.imulhImm h u d a imm) := fun _ hw => decode_packWord rfl (by
  simp only [row33, fD_bodyI, fA_bodyI, fM7_bodyI, fImm_bodyI, isZero_zero, zero_part, dV_eV, dSrc_eSrc, part7, part8, Option.bind_eq_bind, Option.bind_some, if_true, sub8, if_false]) hw
theorem imad (h : Hints) (u : Bool) (sat : Bool) (d : VReg) (a : VReg) (b : Src) (c : Src) : Statement (.imad h u sat d a b c) := fun _ hw => decode_packWord rfl (by
  simp only [row34, fD_bodyR, fA_bodyR, fB_bodyR, fC_bodyR, fX8_bodyR, fM7_bodyR, isZero_zero, zero_part, dV_eV, dSrc_eSrc, part4, part5, part6, Option.bind_eq_bind, Option.bind_some, if_true]) hw
theorem imin (h : Hints) (u : Bool) (d : VReg) (a : Src) (b : Src) : Statement (.imin h u d a b) := fun _ hw => decode_packWord rfl (by
  simp only [row35, fD_bodyR, fA_bodyR, fB_bodyR, fC_bodyR, fX8_bodyR, fM7_bodyR, isAbsent_absent, isZero_zero, zero_part, dV_eV, dSrc_eSrc, part7, part8, Option.bind_eq_bind, Option.bind_some, if_true]) hw
theorem iminImm (h : Hints) (u : Bool) (d : VReg) (a : Src) (imm : Word) : Statement (.iminImm h u d a imm) := fun _ hw => decode_packWord rfl (by
  simp only [row35, fD_bodyI, fA_bodyI, fM7_bodyI, fImm_bodyI, isZero_zero, zero_part, dV_eV, dSrc_eSrc, part7, part8, Option.bind_eq_bind, Option.bind_some, if_true, sub8, if_false]) hw
theorem imax (h : Hints) (u : Bool) (d : VReg) (a : Src) (b : Src) : Statement (.imax h u d a b) := fun _ hw => decode_packWord rfl (by
  simp only [row36, fD_bodyR, fA_bodyR, fB_bodyR, fC_bodyR, fX8_bodyR, fM7_bodyR, isAbsent_absent, isZero_zero, zero_part, dV_eV, dSrc_eSrc, part7, part8, Option.bind_eq_bind, Option.bind_some, if_true]) hw
theorem imaxImm (h : Hints) (u : Bool) (d : VReg) (a : Src) (imm : Word) : Statement (.imaxImm h u d a imm) := fun _ hw => decode_packWord rfl (by
  simp only [row36, fD_bodyI, fA_bodyI, fM7_bodyI, fImm_bodyI, isZero_zero, zero_part, dV_eV, dSrc_eSrc, part7, part8, Option.bind_eq_bind, Option.bind_some, if_true, sub8, if_false]) hw
theorem iabs (h : Hints) (sat : Bool) (d : VReg) (a : VReg) : Statement (.iabs h sat d a) := fun _ hw => decode_packWord rfl (by
  simp only [row37, fD_bodyR, fA_bodyR, fB_bodyR, fC_bodyR, fX8_bodyR, fM7_bodyR, isAbsent_absent, isZero_zero, zero_part, dV_eV, part9, part10, part11, Option.bind_eq_bind, Option.bind_some, if_true]) hw
theorem ineg (h : Hints) (sat : Bool) (d : VReg) (a : VReg) : Statement (.ineg h sat d a) := fun _ hw => decode_packWord rfl (by
  simp only [row38, fD_bodyR, fA_bodyR, fB_bodyR, fC_bodyR, fX8_bodyR, fM7_bodyR, isAbsent_absent, isZero_zero, zero_part, dV_eV, part9, part10, part11, Option.bind_eq_bind, Option.bind_some, if_true]) hw
theorem andW (h : Hints) (d : VReg) (a : Src) (b : Src) : Statement (.andW h d a b) := fun _ hw => decode_packWord rfl (by
  simp only [row39, fD_bodyR, fA_bodyR, fB_bodyR, fC_bodyR, fX8_bodyR, fM7_bodyR, isAbsent_absent, isZero_zero, zero_part, dV_eV, dSrc_eSrc, Option.bind_eq_bind, Option.bind_some, if_true]) hw
theorem andWImm (h : Hints) (d : VReg) (a : Src) (imm : Word) : Statement (.andWImm h d a imm) := fun _ hw => decode_packWord rfl (by
  simp only [row39, fD_bodyI, fA_bodyI, fM7_bodyI, fImm_bodyI, isZero_zero, zero_part, dV_eV, dSrc_eSrc, Option.bind_eq_bind, Option.bind_some, if_true, sub8, if_false]) hw
theorem orW (h : Hints) (d : VReg) (a : Src) (b : Src) : Statement (.orW h d a b) := fun _ hw => decode_packWord rfl (by
  simp only [row3A, fD_bodyR, fA_bodyR, fB_bodyR, fC_bodyR, fX8_bodyR, fM7_bodyR, isAbsent_absent, isZero_zero, zero_part, dV_eV, dSrc_eSrc, Option.bind_eq_bind, Option.bind_some, if_true]) hw
theorem orWImm (h : Hints) (d : VReg) (a : Src) (imm : Word) : Statement (.orWImm h d a imm) := fun _ hw => decode_packWord rfl (by
  simp only [row3A, fD_bodyI, fA_bodyI, fM7_bodyI, fImm_bodyI, isZero_zero, zero_part, dV_eV, dSrc_eSrc, Option.bind_eq_bind, Option.bind_some, if_true, sub8, if_false]) hw
theorem xorW (h : Hints) (d : VReg) (a : Src) (b : Src) : Statement (.xorW h d a b) := fun _ hw => decode_packWord rfl (by
  simp only [row3B, fD_bodyR, fA_bodyR, fB_bodyR, fC_bodyR, fX8_bodyR, fM7_bodyR, isAbsent_absent, isZero_zero, zero_part, dV_eV, dSrc_eSrc, Option.bind_eq_bind, Option.bind_some, if_true]) hw
theorem xorWImm (h : Hints) (d : VReg) (a : Src) (imm : Word) : Statement (.xorWImm h d a imm) := fun _ hw => decode_packWord rfl (by
  simp only [row3B, fD_bodyI, fA_bodyI, fM7_bodyI, fImm_bodyI, isZero_zero, zero_part, dV_eV, dSrc_eSrc, Option.bind_eq_bind, Option.bind_some, if_true, sub8, if_false]) hw
theorem andnW (h : Hints) (d : VReg) (a : Src) (b : Src) : Statement (.andnW h d a b) := fun _ hw => decode_packWord rfl (by
  simp only [row3D, fD_bodyR, fA_bodyR, fB_bodyR, fC_bodyR, fX8_bodyR, fM7_bodyR, isAbsent_absent, isZero_zero, zero_part, dV_eV, dSrc_eSrc, Option.bind_eq_bind, Option.bind_some, if_true]) hw
theorem andnWImm (h : Hints) (d : VReg) (a : Src) (imm : Word) : Statement (.andnWImm h d a imm) := fun _ hw => decode_packWord rfl (by
  simp only [row3D, fD_bodyI, fA_bodyI, fM7_bodyI, fImm_bodyI, isZero_zero, zero_part, dV_eV, dSrc_eSrc, Option.bind_eq_bind, Option.bind_some, if_true, sub8, if_false]) hw
theorem notW (h : Hints) (d : VReg) (a : VReg) : Statement (.notW h d a) := fun _ hw => decode_packWord rfl (by
  simp only [row3C, fD_bodyR, fA_bodyR, fB_bodyR, fC_bodyR, fX8_bodyR, fM7_bodyR, isAbsent_absent, isZero_zero, zero_part, dV_eV, Option.bind_eq_bind, Option.bind_some, if_true]) hw
theorem popc (h : Hints) (d : VReg) (a : VReg) : Statement (.popc h d a) := fun _ hw => decode_packWord rfl (by
  simp only [row43, fD_bodyR, fA_bodyR, fB_bodyR, fC_bodyR, fX8_bodyR, fM7_bodyR, isAbsent_absent, isZero_zero, zero_part, dV_eV, Option.bind_eq_bind, Option.bind_some, if_true]) hw
theorem clz (h : Hints) (d : VReg) (a : VReg) : Statement (.clz h d a) := fun _ hw => decode_packWord rfl (by
  simp only [row44, fD_bodyR, fA_bodyR, fB_bodyR, fC_bodyR, fX8_bodyR, fM7_bodyR, isAbsent_absent, isZero_zero, zero_part, dV_eV, Option.bind_eq_bind, Option.bind_some, if_true]) hw
theorem brev (h : Hints) (d : VReg) (a : VReg) : Statement (.brev h d a) := fun _ hw => decode_packWord rfl (by
  simp only [row45, fD_bodyR, fA_bodyR, fB_bodyR, fC_bodyR, fX8_bodyR, fM7_bodyR, isAbsent_absent, isZero_zero, zero_part, dV_eV, Option.bind_eq_bind, Option.bind_some, if_true]) hw
theorem shl (h : Hints) (d : VReg) (a : Src) (b : Src) : Statement (.shl h d a b) := fun _ hw => decode_packWord rfl (by
  simp only [row3E, fD_bodyR, fA_bodyR, fB_bodyR, fC_bodyR, fX8_bodyR, fM7_bodyR, isAbsent_absent, isZero_zero, zero_part, dV_eV, dSrc_eSrc, Option.bind_eq_bind, Option.bind_some, if_true]) hw
theorem shlImm (h : Hints) (d : VReg) (a : Src) (imm : Word) : Statement (.shlImm h d a imm) := fun _ hw => decode_packWord rfl (by
  simp only [row3E, fD_bodyI, fA_bodyI, fM7_bodyI, fImm_bodyI, isZero_zero, zero_part, dV_eV, dSrc_eSrc, Option.bind_eq_bind, Option.bind_some, if_true, sub8, if_false]) hw
theorem shr (h : Hints) (d : VReg) (a : Src) (b : Src) : Statement (.shr h d a b) := fun _ hw => decode_packWord rfl (by
  simp only [row3F, fD_bodyR, fA_bodyR, fB_bodyR, fC_bodyR, fX8_bodyR, fM7_bodyR, isAbsent_absent, isZero_zero, zero_part, dV_eV, dSrc_eSrc, Option.bind_eq_bind, Option.bind_some, if_true]) hw
theorem shrImm (h : Hints) (d : VReg) (a : Src) (imm : Word) : Statement (.shrImm h d a imm) := fun _ hw => decode_packWord rfl (by
  simp only [row3F, fD_bodyI, fA_bodyI, fM7_bodyI, fImm_bodyI, isZero_zero, zero_part, dV_eV, dSrc_eSrc, Option.bind_eq_bind, Option.bind_some, if_true, sub8, if_false]) hw
theorem sar (h : Hints) (d : VReg) (a : Src) (b : Src) : Statement (.sar h d a b) := fun _ hw => decode_packWord rfl (by
  simp only [row40, fD_bodyR, fA_bodyR, fB_bodyR, fC_bodyR, fX8_bodyR, fM7_bodyR, isAbsent_absent, isZero_zero, zero_part, dV_eV, dSrc_eSrc, Option.bind_eq_bind, Option.bind_some, if_true]) hw
theorem sarImm (h : Hints) (d : VReg) (a : Src) (imm : Word) : Statement (.sarImm h d a imm) := fun _ hw => decode_packWord rfl (by
  simp only [row40, fD_bodyI, fA_bodyI, fM7_bodyI, fImm_bodyI, isZero_zero, zero_part, dV_eV, dSrc_eSrc, Option.bind_eq_bind, Option.bind_some, if_true, sub8, if_false]) hw
theorem rot (h : Hints) (d : VReg) (a : Src) (b : Src) : Statement (.rot h d a b) := fun _ hw => decode_packWord rfl (by
  simp only [row41, fD_bodyR, fA_bodyR, fB_bodyR, fC_bodyR, fX8_bodyR, fM7_bodyR, isAbsent_absent, isZero_zero, zero_part, dV_eV, dSrc_eSrc, Option.bind_eq_bind, Option.bind_some, if_true]) hw
theorem rotImm (h : Hints) (d : VReg) (a : Src) (imm : Word) : Statement (.rotImm h d a imm) := fun _ hw => decode_packWord rfl (by
  simp only [row41, fD_bodyI, fA_bodyI, fM7_bodyI, fImm_bodyI, isZero_zero, zero_part, dV_eV, dSrc_eSrc, Option.bind_eq_bind, Option.bind_some, if_true, sub8, if_false]) hw
theorem funnel (h : Hints) (right : Bool) (d : VReg) (a : VReg) (b : VReg) (c : Src) : Statement (.funnel h right d a b c) := fun _ hw => decode_packWord rfl (by
  simp only [row42, fD_bodyR, fA_bodyR, fB_bodyR, fC_bodyR, fX8_bodyR, fM7_bodyR, isZero_zero, zero_part, dV_eV, dSrc_eSrc, part12, part13, Option.bind_eq_bind, Option.bind_some]) hw
theorem bfe (h : Hints) (u : Bool) (d a b : VReg) : Statement (.bfe h u d a b) := fun _ hw => decode_packWord rfl (by
  simp only [row46, fD_bodyR, fA_bodyR, fB_bodyR, fC_bodyR, fX8_bodyR, fM7_bodyR, isAbsent_absent, isZero_zero, zero_part, dV_eV, part7, part8, Option.bind_eq_bind, Option.bind_some, if_true]) hw
theorem bfeImm (h : Hints) (u : Bool) (d a : VReg) (imm : Word) : Statement (.bfeImm h u d a imm) := fun _ hw => decode_packWord rfl (by
  simp only [row46, fD_bodyI, fA_bodyI, fM7_bodyI, fImm_bodyI, isZero_zero, zero_part, dV_eV, part7, part8, Option.bind_eq_bind, Option.bind_some, if_true, sub8, if_false]) hw
theorem bfi (h : Hints) (d : VReg) (a : VReg) (b : VReg) (c : Src) : Statement (.bfi h d a b c) := fun _ hw => decode_packWord rfl (by
  simp only [row47, fD_bodyR, fA_bodyR, fB_bodyR, fC_bodyR, fX8_bodyR, fM7_bodyR, isZero_zero, zero_part, dV_eV, dSrc_eSrc, Option.bind_eq_bind, Option.bind_some, if_true]) hw
theorem perm (h : Hints) (d : VReg) (a : VReg) (b : VReg) (c : VReg) : Statement (.perm h d a b c) := fun _ hw => decode_packWord rfl (by
  simp only [row48, fD_bodyR, fA_bodyR, fB_bodyR, fC_bodyR, fX8_bodyR, fM7_bodyR, isZero_zero, zero_part, dV_eV, Option.bind_eq_bind, Option.bind_some, if_true]) hw
theorem sel (h : Hints) (d : VReg) (a : Src) (b : Src) (c : PReg) : Statement (.sel h d a b c) := fun _ hw => decode_packWord rfl (by
  simp only [row49, fD_bodyR, fA_bodyR, fB_bodyR, fC_bodyR, fX8_bodyR, fM7_bodyR, isZero_zero, zero_part, dV_eV, dP_eP, dSrc_eSrc, Option.bind_eq_bind, Option.bind_some, if_true]) hw
theorem iset (h : Hints) (u : Bool) (cmp : Cmp) (d : DstVP) (a : VReg) (b : Src) : Statement (.iset h u cmp d a b) := fun _ hw => decode_packWord rfl (by
  simp only [row4A, fD_bodyR, fA_bodyR, fB_bodyR, fC_bodyR, fX8_bodyR, fM7_bodyR, isAbsent_absent, isZero_zero, zero_part, dV_eV, dSrc_eSrc, dVP_eVP, cmp_code, part14, part15, part16, part17, Option.bind_eq_bind, Option.bind_some, if_true]) hw
theorem isetImm (h : Hints) (u : Bool) (cmp : Cmp) (d : DstVP) (a : VReg) (imm : Word) : Statement (.isetImm h u cmp d a imm) := fun _ hw => decode_packWord rfl (by
  simp only [row4A, fD_bodyI, fA_bodyI, fM7_bodyI, fImm_bodyI, isZero_zero, zero_part, dV_eV, dVP_eVP, cmp_code, part14, part15, part16, part17, Option.bind_eq_bind, Option.bind_some, if_true, sub8, if_false]) hw
theorem plop (h : Hints) (lut : BitVec 8) (d : PReg) (a : PReg) (b : PReg) (c : PReg) : Statement (.plop h lut d a b c) := fun _ hw => decode_packWord rfl (by
  simp only [row4B, fD_bodyR, fA_bodyR, fB_bodyR, fC_bodyR, fX8_bodyR, fM7_bodyR, isZero_zero, zero_part, dP_eP, Option.bind_eq_bind, Option.bind_some, if_true]) hw
theorem mov (h : Hints) (d : DstVP) (a : SrcVP) : Statement (.mov h d a) := fun _ hw => decode_packWord rfl (by
  simp only [row4C, fD_bodyR, fA_bodyR, fB_bodyR, fC_bodyR, fX8_bodyR, fM7_bodyR, isAbsent_absent, isZero_zero, zero_part, dVP_eVP, dSVP_eSVP, Option.bind_eq_bind, Option.bind_some, if_true]) hw
theorem movi (h : Hints) (d : VReg) (imm : Word) : Statement (.movi h d imm) := fun _ hw => decode_packWord rfl (by
  simp only [row4D, fD_bodyI, fA_bodyI, fImm_bodyI, fM7_bodyI, isAbsent_absent, isZero_zero, zero_part, dV_eV, Option.bind_eq_bind, Option.bind_some, if_true]) hw
theorem lea (h : Hints) (u : Bool) (sh : BitVec 3) (d : VReg) (a : VReg) (b : VReg) : Statement (.lea h u sh d a b) := fun _ hw => decode_packWord rfl (by
  simp only [row4E, fD_bodyR, fA_bodyR, fB_bodyR, fC_bodyR, fX8_bodyR, fM7_bodyR, isAbsent_absent, isZero_zero, zero_part, dV_eV, part7, part8, part18, part19, Option.bind_eq_bind, Option.bind_some, if_true]) hw
theorem iadd64 (h : Hints) (d : VReg) (a : VReg) (b : VReg) : Statement (.iadd64 h d a b) := fun _ hw => decode_packWord rfl (by
  simp only [row4F, fD_bodyR, fA_bodyR, fB_bodyR, fC_bodyR, fX8_bodyR, fM7_bodyR, isAbsent_absent, isZero_zero, zero_part, dV_eV, Option.bind_eq_bind, Option.bind_some, if_true]) hw
theorem iadd64Imm (h : Hints) (d : VReg) (a : VReg) (imm : Word) : Statement (.iadd64Imm h d a imm) := fun _ hw => decode_packWord rfl (by
  simp only [row4F, fD_bodyI, fA_bodyI, fM7_bodyI, fImm_bodyI, isZero_zero, zero_part, dV_eV, Option.bind_eq_bind, Option.bind_some, if_true, sub8, if_false]) hw
theorem idiv (h : Hints) (u : Bool) (rem : Bool) (d : VReg) (a : VReg) (b : VReg) : Statement (.idiv h u rem d a b) := fun _ hw => decode_packWord rfl (by
  simp only [row50, fD_bodyR, fA_bodyR, fB_bodyR, fC_bodyR, fX8_bodyR, fM7_bodyR, isAbsent_absent, isZero_zero, zero_part, dV_eV, part7, part8, part20, part21, Option.bind_eq_bind, Option.bind_some]) hw
theorem dot4 (h : Hints) (sat : Bool) (ua : Bool) (ub : Bool) (d : VReg) (a : VReg) (b : VReg) (c : VReg) : Statement (.dot4 h sat ua ub d a b c) := fun _ hw => decode_packWord rfl (by
  simp only [row51, fD_bodyR, fA_bodyR, fB_bodyR, fC_bodyR, fX8_bodyR, fM7_bodyR, isZero_zero, zero_part, dV_eV, part9, part10, part11, part22, part23, part24, Option.bind_eq_bind, Option.bind_some, if_true]) hw
theorem fadd (h : Hints) (rm : Rm) (ftz : Bool) (d : VReg) (a : Src) (b : Src) : Statement (.fadd h rm ftz d a b) := fun _ hw => decode_packWord rfl (by
  simp only [row60, fD_bodyR, fA_bodyR, fB_bodyR, fC_bodyR, fX8_bodyR, fM7_bodyR, isAbsent_absent, isZero_zero, zero_part, dV_eV, dSrc_eSrc, rm_code, part25, part26, part27, Option.bind_eq_bind, Option.bind_some, if_true]) hw
theorem faddImm (h : Hints) (rm : Rm) (ftz : Bool) (d : VReg) (a : Src) (imm : Word) : Statement (.faddImm h rm ftz d a imm) := fun _ hw => decode_packWord rfl (by
  simp only [row60, fD_bodyI, fA_bodyI, fM7_bodyI, fImm_bodyI, isZero_zero, zero_part, dV_eV, dSrc_eSrc, rm_code, part25, part26, part27, Option.bind_eq_bind, Option.bind_some, if_true, sub8, if_false]) hw
theorem fsub (h : Hints) (rm : Rm) (ftz : Bool) (d : VReg) (a : Src) (b : Src) : Statement (.fsub h rm ftz d a b) := fun _ hw => decode_packWord rfl (by
  simp only [row61, fD_bodyR, fA_bodyR, fB_bodyR, fC_bodyR, fX8_bodyR, fM7_bodyR, isAbsent_absent, isZero_zero, zero_part, dV_eV, dSrc_eSrc, rm_code, part25, part26, part27, Option.bind_eq_bind, Option.bind_some, if_true]) hw
theorem fsubImm (h : Hints) (rm : Rm) (ftz : Bool) (d : VReg) (a : Src) (imm : Word) : Statement (.fsubImm h rm ftz d a imm) := fun _ hw => decode_packWord rfl (by
  simp only [row61, fD_bodyI, fA_bodyI, fM7_bodyI, fImm_bodyI, isZero_zero, zero_part, dV_eV, dSrc_eSrc, rm_code, part25, part26, part27, Option.bind_eq_bind, Option.bind_some, if_true, sub8, if_false]) hw
theorem fmul (h : Hints) (rm : Rm) (ftz : Bool) (d : VReg) (a : Src) (b : Src) : Statement (.fmul h rm ftz d a b) := fun _ hw => decode_packWord rfl (by
  simp only [row62, fD_bodyR, fA_bodyR, fB_bodyR, fC_bodyR, fX8_bodyR, fM7_bodyR, isAbsent_absent, isZero_zero, zero_part, dV_eV, dSrc_eSrc, rm_code, part25, part26, part27, Option.bind_eq_bind, Option.bind_some, if_true]) hw
theorem fmulImm (h : Hints) (rm : Rm) (ftz : Bool) (d : VReg) (a : Src) (imm : Word) : Statement (.fmulImm h rm ftz d a imm) := fun _ hw => decode_packWord rfl (by
  simp only [row62, fD_bodyI, fA_bodyI, fM7_bodyI, fImm_bodyI, isZero_zero, zero_part, dV_eV, dSrc_eSrc, rm_code, part25, part26, part27, Option.bind_eq_bind, Option.bind_some, if_true, sub8, if_false]) hw
theorem fdiv (h : Hints) (rm : Rm) (ftz : Bool) (d : VReg) (a : Src) (b : Src) : Statement (.fdiv h rm ftz d a b) := fun _ hw => decode_packWord rfl (by
  simp only [row71, fD_bodyR, fA_bodyR, fB_bodyR, fC_bodyR, fX8_bodyR, fM7_bodyR, isAbsent_absent, isZero_zero, zero_part, dV_eV, dSrc_eSrc, rm_code, part25, part26, part27, Option.bind_eq_bind, Option.bind_some, if_true]) hw
theorem fdivImm (h : Hints) (rm : Rm) (ftz : Bool) (d : VReg) (a : Src) (imm : Word) : Statement (.fdivImm h rm ftz d a imm) := fun _ hw => decode_packWord rfl (by
  simp only [row71, fD_bodyI, fA_bodyI, fM7_bodyI, fImm_bodyI, isZero_zero, zero_part, dV_eV, dSrc_eSrc, rm_code, part25, part26, part27, Option.bind_eq_bind, Option.bind_some, if_true, sub8, if_false]) hw
theorem ffma (h : Hints) (rm : Rm) (ftz : Bool) (d : VReg) (a : VReg) (b : Src) (c : Src) : Statement (.ffma h rm ftz d a b c) := fun _ hw => decode_packWord rfl (by
  simp only [row63, fD_bodyR, fA_bodyR, fB_bodyR, fC_bodyR, fX8_bodyR, fM7_bodyR, isZero_zero, zero_part, dV_eV, dSrc_eSrc, rm_code, part25, part26, part27, Option.bind_eq_bind, Option.bind_some, if_true]) hw
theorem fmin (h : Hints) (ftz : Bool) (d : VReg) (a : Src) (b : Src) : Statement (.fmin h ftz d a b) := fun _ hw => decode_packWord rfl (by
  simp only [row64, fD_bodyR, fA_bodyR, fB_bodyR, fC_bodyR, fX8_bodyR, fM7_bodyR, isAbsent_absent, isZero_zero, zero_part, dV_eV, dSrc_eSrc, part28, part29, part30, Option.bind_eq_bind, Option.bind_some, if_true]) hw
theorem fminImm (h : Hints) (ftz : Bool) (d : VReg) (a : Src) (imm : Word) : Statement (.fminImm h ftz d a imm) := fun _ hw => decode_packWord rfl (by
  simp only [row64, fD_bodyI, fA_bodyI, fM7_bodyI, fImm_bodyI, isZero_zero, zero_part, dV_eV, dSrc_eSrc, part28, part29, part30, Option.bind_eq_bind, Option.bind_some, if_true, sub8, if_false]) hw
theorem fmax (h : Hints) (ftz : Bool) (d : VReg) (a : Src) (b : Src) : Statement (.fmax h ftz d a b) := fun _ hw => decode_packWord rfl (by
  simp only [row65, fD_bodyR, fA_bodyR, fB_bodyR, fC_bodyR, fX8_bodyR, fM7_bodyR, isAbsent_absent, isZero_zero, zero_part, dV_eV, dSrc_eSrc, part28, part29, part30, Option.bind_eq_bind, Option.bind_some, if_true]) hw
theorem fmaxImm (h : Hints) (ftz : Bool) (d : VReg) (a : Src) (imm : Word) : Statement (.fmaxImm h ftz d a imm) := fun _ hw => decode_packWord rfl (by
  simp only [row65, fD_bodyI, fA_bodyI, fM7_bodyI, fImm_bodyI, isZero_zero, zero_part, dV_eV, dSrc_eSrc, part28, part29, part30, Option.bind_eq_bind, Option.bind_some, if_true, sub8, if_false]) hw
theorem fset (h : Hints) (ftz : Bool) (fn : Fn) (d : DstVP) (a : VReg) (b : Src) : Statement (.fset h ftz fn d a b) := fun _ hw => decode_packWord rfl (by
  simp only [row66, fD_bodyR, fA_bodyR, fB_bodyR, fC_bodyR, fX8_bodyR, fM7_bodyR, isAbsent_absent, isZero_zero, zero_part, dV_eV, dSrc_eSrc, dVP_eVP, fn_code, part31, part32, part33, Option.bind_eq_bind, Option.bind_some, if_true]) hw
theorem fsetImm (h : Hints) (ftz : Bool) (fn : Fn) (d : DstVP) (a : VReg) (imm : Word) : Statement (.fsetImm h ftz fn d a imm) := fun _ hw => decode_packWord rfl (by
  simp only [row66, fD_bodyI, fA_bodyI, fM7_bodyI, fImm_bodyI, isZero_zero, zero_part, dV_eV, dVP_eVP, fn_code, part31, part32, part33, Option.bind_eq_bind, Option.bind_some, if_true, sub8, if_false]) hw
theorem fclass (h : Hints) (d : VReg) (a : VReg) : Statement (.fclass h d a) := fun _ hw => decode_packWord rfl (by
  simp only [row67, fD_bodyR, fA_bodyR, fB_bodyR, fC_bodyR, fX8_bodyR, fM7_bodyR, isAbsent_absent, isZero_zero, zero_part, dV_eV, Option.bind_eq_bind, Option.bind_some, if_true]) hw
theorem frnd (h : Hints) (rm : Rm) (ftz : Bool) (d : VReg) (a : VReg) : Statement (.frnd h rm ftz d a) := fun _ hw => decode_packWord rfl (by
  simp only [row68, fD_bodyR, fA_bodyR, fB_bodyR, fC_bodyR, fX8_bodyR, fM7_bodyR, isAbsent_absent, isZero_zero, zero_part, dV_eV, rm_code, part25, part26, part27, Option.bind_eq_bind, Option.bind_some, if_true]) hw
theorem fsqrt (h : Hints) (rm : Rm) (ftz : Bool) (d : VReg) (a : VReg) : Statement (.fsqrt h rm ftz d a) := fun _ hw => decode_packWord rfl (by
  simp only [row6B, fD_bodyR, fA_bodyR, fB_bodyR, fC_bodyR, fX8_bodyR, fM7_bodyR, isAbsent_absent, isZero_zero, zero_part, dV_eV, rm_code, part25, part26, part27, Option.bind_eq_bind, Option.bind_some, if_true]) hw
theorem frcp (h : Hints) (ftz : Bool) (d : VReg) (a : VReg) : Statement (.frcp h ftz d a) := fun _ hw => decode_packWord rfl (by
  simp only [row69, fD_bodyR, fA_bodyR, fB_bodyR, fC_bodyR, fX8_bodyR, fM7_bodyR, isAbsent_absent, isZero_zero, zero_part, dV_eV, part28, part29, part30, Option.bind_eq_bind, Option.bind_some, if_true]) hw
theorem frsq (h : Hints) (ftz : Bool) (d : VReg) (a : VReg) : Statement (.frsq h ftz d a) := fun _ hw => decode_packWord rfl (by
  simp only [row6A, fD_bodyR, fA_bodyR, fB_bodyR, fC_bodyR, fX8_bodyR, fM7_bodyR, isAbsent_absent, isZero_zero, zero_part, dV_eV, part28, part29, part30, Option.bind_eq_bind, Option.bind_some, if_true]) hw
theorem fex2 (h : Hints) (ftz : Bool) (d : VReg) (a : VReg) : Statement (.fex2 h ftz d a) := fun _ hw => decode_packWord rfl (by
  simp only [row6C, fD_bodyR, fA_bodyR, fB_bodyR, fC_bodyR, fX8_bodyR, fM7_bodyR, isAbsent_absent, isZero_zero, zero_part, dV_eV, part28, part29, part30, Option.bind_eq_bind, Option.bind_some, if_true]) hw
theorem flg2 (h : Hints) (ftz : Bool) (d : VReg) (a : VReg) : Statement (.flg2 h ftz d a) := fun _ hw => decode_packWord rfl (by
  simp only [row6D, fD_bodyR, fA_bodyR, fB_bodyR, fC_bodyR, fX8_bodyR, fM7_bodyR, isAbsent_absent, isZero_zero, zero_part, dV_eV, part28, part29, part30, Option.bind_eq_bind, Option.bind_some, if_true]) hw
theorem fsin (h : Hints) (ftz : Bool) (d : VReg) (a : VReg) : Statement (.fsin h ftz d a) := fun _ hw => decode_packWord rfl (by
  simp only [row6E, fD_bodyR, fA_bodyR, fB_bodyR, fC_bodyR, fX8_bodyR, fM7_bodyR, isAbsent_absent, isZero_zero, zero_part, dV_eV, part28, part29, part30, Option.bind_eq_bind, Option.bind_some, if_true]) hw
theorem fcos (h : Hints) (ftz : Bool) (d : VReg) (a : VReg) : Statement (.fcos h ftz d a) := fun _ hw => decode_packWord rfl (by
  simp only [row6F, fD_bodyR, fA_bodyR, fB_bodyR, fC_bodyR, fX8_bodyR, fM7_bodyR, isAbsent_absent, isZero_zero, zero_part, dV_eV, part28, part29, part30, Option.bind_eq_bind, Option.bind_some, if_true]) hw
theorem ftanh (h : Hints) (ftz : Bool) (d : VReg) (a : VReg) : Statement (.ftanh h ftz d a) := fun _ hw => decode_packWord rfl (by
  simp only [row70, fD_bodyR, fA_bodyR, fB_bodyR, fC_bodyR, fX8_bodyR, fM7_bodyR, isAbsent_absent, isZero_zero, zero_part, dV_eV, part28, part29, part30, Option.bind_eq_bind, Option.bind_some, if_true]) hw
theorem hadd2 (h : Hints) (f : Half) (rm : Rm) (ftz : Bool) (d : VReg) (a : Src) (b : Src) : Statement (.hadd2 h f rm ftz d a b) := fun _ hw => decode_packWord rfl (by
  simp only [row72, fD_bodyR, fA_bodyR, fB_bodyR, fC_bodyR, fX8_bodyR, fM7_bodyR, isAbsent_absent, isZero_zero, zero_part, dV_eV, dSrc_eSrc, rm_code, half_code, part25, part26, part27, part34, part35, part36, Option.bind_eq_bind, Option.bind_some, if_true, bit_ne, if_false]) hw
theorem hadd2Imm (h : Hints) (f : Half) (rm : Rm) (ftz : Bool) (d : VReg) (a : Src) (imm : Word) : Statement (.hadd2Imm h f rm ftz d a imm) := fun _ hw => decode_packWord rfl (by
  simp only [row72, fD_bodyI, fA_bodyI, fM7_bodyI, fImm_bodyI, isZero_zero, zero_part, dV_eV, dSrc_eSrc, rm_code, half_code, part25, part26, part27, part37, part38, part39, Option.bind_eq_bind, Option.bind_some, if_true, bit_ne, if_false]) hw
theorem hmul2 (h : Hints) (f : Half) (rm : Rm) (ftz : Bool) (d : VReg) (a : Src) (b : Src) : Statement (.hmul2 h f rm ftz d a b) := fun _ hw => decode_packWord rfl (by
  simp only [row73, fD_bodyR, fA_bodyR, fB_bodyR, fC_bodyR, fX8_bodyR, fM7_bodyR, isAbsent_absent, isZero_zero, zero_part, dV_eV, dSrc_eSrc, rm_code, half_code, part25, part26, part27, part34, part35, part36, Option.bind_eq_bind, Option.bind_some, if_true, bit_ne, if_false]) hw
theorem hmul2Imm (h : Hints) (f : Half) (rm : Rm) (ftz : Bool) (d : VReg) (a : Src) (imm : Word) : Statement (.hmul2Imm h f rm ftz d a imm) := fun _ hw => decode_packWord rfl (by
  simp only [row73, fD_bodyI, fA_bodyI, fM7_bodyI, fImm_bodyI, isZero_zero, zero_part, dV_eV, dSrc_eSrc, rm_code, half_code, part25, part26, part27, part37, part38, part39, Option.bind_eq_bind, Option.bind_some, if_true, bit_ne, if_false]) hw
theorem hfma2 (h : Hints) (f : Half) (rm : Rm) (ftz : Bool) (d : VReg) (a : VReg) (b : Src) (c : Src) : Statement (.hfma2 h f rm ftz d a b c) := fun _ hw => decode_packWord rfl (by
  simp only [row74, fD_bodyR, fA_bodyR, fB_bodyR, fC_bodyR, fX8_bodyR, fM7_bodyR, isZero_zero, zero_part, dV_eV, dSrc_eSrc, rm_code, half_code, part25, part26, part27, part34, Option.bind_eq_bind, Option.bind_some, sub_hfma2]) hw
theorem hmnx2 (h : Hints) (f : Half) (max : Bool) (ftz : Bool) (d : VReg) (a : Src) (b : Src) : Statement (.hmnx2 h f max ftz d a b) := fun _ hw => decode_packWord rfl (by
  simp only [row75, fD_bodyR, fA_bodyR, fB_bodyR, fC_bodyR, fX8_bodyR, fM7_bodyR, isAbsent_absent, isZero_zero, zero_part, dV_eV, dSrc_eSrc, half_code, part28, part29, part30, part40, part41, part42, part43, Option.bind_eq_bind, Option.bind_some, if_true, bit_ne, if_false]) hw
theorem hmnx2Imm (h : Hints) (f : Half) (max : Bool) (ftz : Bool) (d : VReg) (a : Src) (imm : Word) : Statement (.hmnx2Imm h f max ftz d a imm) := fun _ hw => decode_packWord rfl (by
  simp only [row75, fD_bodyI, fA_bodyI, fM7_bodyI, fImm_bodyI, isZero_zero, zero_part, dV_eV, dSrc_eSrc, half_code, part28, part29, part30, part44, part45, part46, part47, Option.bind_eq_bind, Option.bind_some, if_true, bit_ne, if_false]) hw
theorem f2i (h : Hints) (rm : Rm) (ft : Fmt) (it : ITy) (d : VReg) (a : VReg) : Statement (.f2i h rm ft it d a) := fun _ hw => decode_packWord rfl (by
  simp only [row76, fD_bodyR, fA_bodyR, fB_bodyR, fC_bodyR, fX8_bodyR, fM7_bodyR, isAbsent_absent, isZero_zero, zero_part, dV_eV, rm_code, fmt_code, iTy_code, part48, part49, part50, part51, part52, Option.bind_eq_bind, Option.bind_some, if_true]) hw
theorem i2f (h : Hints) (rm : Rm) (ft : Fmt) (it : ITy) (d : VReg) (a : VReg) : Statement (.i2f h rm ft it d a) := fun _ hw => decode_packWord rfl (by
  simp only [row77, fD_bodyR, fA_bodyR, fB_bodyR, fC_bodyR, fX8_bodyR, fM7_bodyR, isAbsent_absent, isZero_zero, zero_part, dV_eV, rm_code, fmt_code, iTy_code, part48, part49, part50, part51, part52, Option.bind_eq_bind, Option.bind_some, if_true]) hw
theorem f2f (h : Hints) (rm : Rm) (ftz : Bool) (fd : Fmt) (fs : Fmt) (d : VReg) (a : VReg) : Statement (.f2f h rm ftz fd fs d a) := fun _ hw => decode_packWord rfl (by
  simp only [row78, fD_bodyR, fA_bodyR, fB_bodyR, fC_bodyR, fX8_bodyR, fM7_bodyR, isAbsent_absent, isZero_zero, zero_part, dV_eV, rm_code, fmt_code, part25, part26, part27, part53, part54, part55, Option.bind_eq_bind, Option.bind_some, if_true]) hw
theorem qcvt (h : Hints) (rm : Rm) (sf : BitVec 6) (d : VReg) (a : VReg) (b : PReg) : Statement (.qcvt h rm sf d a b) := fun _ hw => decode_packWord rfl (by
  simp only [row79, fD_bodyR, fA_bodyR, fB_bodyR, fC_bodyR, fX8_bodyR, fM7_bodyR, isAbsent_absent, isZero_zero, zero_part, dV_eV, dP_eP, rm_code, part48, part49, part56, part57, Option.bind_eq_bind, Option.bind_some, if_true]) hw
theorem dqcvt (h : Hints) (sf : BitVec 6) (d : VReg) (a : VReg) : Statement (.dqcvt h sf d a) := fun _ hw => decode_packWord rfl (by
  simp only [row7A, fD_bodyR, fA_bodyR, fB_bodyR, fC_bodyR, fX8_bodyR, fM7_bodyR, isAbsent_absent, isZero_zero, zero_part, dV_eV, part56, part57, Option.bind_eq_bind, Option.bind_some, if_true]) hw
theorem qpack (h : Hints) (sf : BitVec 6) (d : VReg) (a : VReg) (b : VReg) : Statement (.qpack h sf d a b) := fun _ hw => decode_packWord rfl (by
  simp only [row7B, fD_bodyR, fA_bodyR, fB_bodyR, fC_bodyR, fX8_bodyR, fM7_bodyR, isAbsent_absent, isZero_zero, zero_part, dV_eV, part56, part57, Option.bind_eq_bind, Option.bind_some, if_true]) hw
theorem fdot2 (h : Hints) (rm : Rm) (ftz : Bool) (d : VReg) (a : VReg) (b : VReg) (c : VReg) : Statement (.fdot2 h rm ftz d a b c) := fun _ hw => decode_packWord rfl (by
  simp only [row7C, fD_bodyR, fA_bodyR, fB_bodyR, fC_bodyR, fX8_bodyR, fM7_bodyR, isZero_zero, zero_part, dV_eV, rm_code, part25, part26, part27, Option.bind_eq_bind, Option.bind_some, if_true]) hw
theorem fscale (h : Hints) (rm : Rm) (ftz : Bool) (d : VReg) (a : VReg) (b : Src) : Statement (.fscale h rm ftz d a b) := fun _ hw => decode_packWord rfl (by
  simp only [row7D, fD_bodyR, fA_bodyR, fB_bodyR, fC_bodyR, fX8_bodyR, fM7_bodyR, isAbsent_absent, isZero_zero, zero_part, dV_eV, dSrc_eSrc, rm_code, part25, part26, part27, Option.bind_eq_bind, Option.bind_some, if_true]) hw
theorem fscaleImm (h : Hints) (rm : Rm) (ftz : Bool) (d : VReg) (a : VReg) (imm : Word) : Statement (.fscaleImm h rm ftz d a imm) := fun _ hw => decode_packWord rfl (by
  simp only [row7D, fD_bodyI, fA_bodyI, fM7_bodyI, fImm_bodyI, isZero_zero, zero_part, dV_eV, rm_code, part25, part26, part27, Option.bind_eq_bind, Option.bind_some, if_true, sub8, if_false]) hw
theorem sadd (h : Hints) (d : VReg) (a : VReg) (b : VReg) : Statement (.sadd h d a b) := fun _ hw => decode_packWord rfl (by
  simp only [row80, fD_bodyR, fA_bodyR, fB_bodyR, fC_bodyR, fX8_bodyR, fM7_bodyR, isAbsent_absent, isZero_zero, zero_part, dV_eV, Option.bind_eq_bind, Option.bind_some, if_true]) hw
theorem ssub (h : Hints) (d : VReg) (a : VReg) (b : VReg) : Statement (.ssub h d a b) := fun _ hw => decode_packWord rfl (by
  simp only [row81, fD_bodyR, fA_bodyR, fB_bodyR, fC_bodyR, fX8_bodyR, fM7_bodyR, isAbsent_absent, isZero_zero, zero_part, dV_eV, Option.bind_eq_bind, Option.bind_some, if_true]) hw
theorem smul (h : Hints) (d : VReg) (a : VReg) (b : VReg) : Statement (.smul h d a b) := fun _ hw => decode_packWord rfl (by
  simp only [row82, fD_bodyR, fA_bodyR, fB_bodyR, fC_bodyR, fX8_bodyR, fM7_bodyR, isAbsent_absent, isZero_zero, zero_part, dV_eV, Option.bind_eq_bind, Option.bind_some, if_true]) hw
theorem sdiv (h : Hints) (d : VReg) (a : VReg) (b : VReg) : Statement (.sdiv h d a b) := fun _ hw => decode_packWord rfl (by
  simp only [row83, fD_bodyR, fA_bodyR, fB_bodyR, fC_bodyR, fX8_bodyR, fM7_bodyR, isAbsent_absent, isZero_zero, zero_part, dV_eV, Option.bind_eq_bind, Option.bind_some, if_true]) hw
theorem ssq (h : Hints) (d : VReg) (a : VReg) : Statement (.ssq h d a) := fun _ hw => decode_packWord rfl (by
  simp only [row84, fD_bodyR, fA_bodyR, fB_bodyR, fC_bodyR, fX8_bodyR, fM7_bodyR, isAbsent_absent, isZero_zero, zero_part, dV_eV, Option.bind_eq_bind, Option.bind_some, if_true]) hw
theorem sexp (h : Hints) (d : VReg) (a : VReg) : Statement (.sexp h d a) := fun _ hw => decode_packWord rfl (by
  simp only [row85, fD_bodyR, fA_bodyR, fB_bodyR, fC_bodyR, fX8_bodyR, fM7_bodyR, isAbsent_absent, isZero_zero, zero_part, dV_eV, Option.bind_eq_bind, Option.bind_some, if_true]) hw
theorem sln (h : Hints) (d : VReg) (a : VReg) : Statement (.sln h d a) := fun _ hw => decode_packWord rfl (by
  simp only [row86, fD_bodyR, fA_bodyR, fB_bodyR, fC_bodyR, fX8_bodyR, fM7_bodyR, isAbsent_absent, isZero_zero, zero_part, dV_eV, Option.bind_eq_bind, Option.bind_some, if_true]) hw
theorem scmp (h : Hints) (cmp : Cmp) (d : DstVP) (a : VReg) (b : VReg) : Statement (.scmp h cmp d a b) := fun _ hw => decode_packWord rfl (by
  simp only [row87, fD_bodyR, fA_bodyR, fB_bodyR, fC_bodyR, fX8_bodyR, fM7_bodyR, isAbsent_absent, isZero_zero, zero_part, dV_eV, dVP_eVP, cmp_code, part58, part59, part60, Option.bind_eq_bind, Option.bind_some, if_true]) hw
theorem sclass (h : Hints) (d : VReg) (a : VReg) : Statement (.sclass h d a) := fun _ hw => decode_packWord rfl (by
  simp only [row88, fD_bodyR, fA_bodyR, fB_bodyR, fC_bodyR, fX8_bodyR, fM7_bodyR, isAbsent_absent, isZero_zero, zero_part, dV_eV, Option.bind_eq_bind, Option.bind_some, if_true]) hw
theorem scvtSliF32 (h : Hints) (d : VReg) (a : VReg) : Statement (.scvtSliF32 h d a) := fun _ hw => decode_packWord rfl (by
  simp only [row89, fD_bodyR, fA_bodyR, fB_bodyR, fC_bodyR, fX8_bodyR, fM7_bodyR, isAbsent_absent, isZero_zero, zero_part, dV_eV, Option.bind_eq_bind, Option.bind_some, if_true]) hw
theorem scvtF32Sli (h : Hints) (d : VReg) (a : VReg) : Statement (.scvtF32Sli h d a) := fun _ hw => decode_packWord rfl (by
  simp only [row89, fD_bodyR, fA_bodyR, fB_bodyR, fC_bodyR, fX8_bodyR, fM7_bodyR, isAbsent_absent, isZero_zero, zero_part, dV_eV, Option.bind_eq_bind, Option.bind_some, if_true, sub1, if_false]) hw
theorem srecip (h : Hints) (d : VReg) (a : VReg) : Statement (.srecip h d a) := fun _ hw => decode_packWord rfl (by
  simp only [row8A, fD_bodyR, fA_bodyR, fB_bodyR, fC_bodyR, fX8_bodyR, fM7_bodyR, isAbsent_absent, isZero_zero, zero_part, dV_eV, Option.bind_eq_bind, Option.bind_some, if_true]) hw
theorem ld (h : Hints) (sz : Sz) (ord : Option Scope) (d : VReg) (a : VReg) (b : Option VReg) (off : BitVec 24) : Statement (.ld h sz ord d a b off) := fun _ hw => decode_packWord rfl (by
  simp only [row90, fD_bodyM, fA_bodyM, fB_bodyM, fOff_bodyM, fOrd_bodyM, isZero_zero, zero_part, dV_eV, dOV_eOV, sz_code, ordOf_ordBits, part61, part62, Option.bind_eq_bind, Option.bind_some, if_true, bit_ne, if_false]) hw
theorem ldSp (h : Hints) (sz : Sz) (ordCore : Bool) (d : VReg) (a : VReg) (b : Option VReg) (off : BitVec 24) : Statement (.ldSp h sz ordCore d a b off) := fun _ hw => decode_packWord rfl (by
  simp only [row90, fD_bodyM, fA_bodyM, fB_bodyM, fOff_bodyM, fOrd_bodyM, isZero_zero, zero_part, dV_eV, dOV_eOV, sz_code, ordOf_ordBits, part63, part64, part65, part66, Option.bind_eq_bind, Option.bind_some, if_true, bit_ne, if_false]) hw
theorem st (h : Hints) (sz : Sz) (ord : Option Scope) (d : VReg) (a : VReg) (b : Option VReg) (off : BitVec 24) : Statement (.st h sz ord d a b off) := fun _ hw => decode_packWord rfl (by
  simp only [row91, fD_bodyM, fA_bodyM, fB_bodyM, fOff_bodyM, fOrd_bodyM, isZero_zero, zero_part, dV_eV, dOV_eOV, sz_code, ordOf_ordBits, part61, part62, Option.bind_eq_bind, Option.bind_some, if_true, bit_ne, if_false]) hw
theorem stSp (h : Hints) (sz : Sz) (ordCore : Bool) (d : VReg) (a : VReg) (b : Option VReg) (off : BitVec 24) : Statement (.stSp h sz ordCore d a b off) := fun _ hw => decode_packWord rfl (by
  simp only [row91, fD_bodyM, fA_bodyM, fB_bodyM, fOff_bodyM, fOrd_bodyM, isZero_zero, zero_part, dV_eV, dOV_eOV, sz_code, ordOf_ordBits, part63, part64, part65, part66, Option.bind_eq_bind, Option.bind_some, if_true, bit_ne, if_false]) hw
theorem atom (h : Hints) (op : Aop) (ty : ATy) (ord : AOrd) (sc : Scope) (d : VReg) (a : VReg) (off : BitVec 16) (b : VReg) : Statement (.atom h op ty ord sc d a off b) := fun _ hw => decode_packWord rfl (by
  simp only [row92, fD_bodyM, fA_bodyM, fB_bodyM, fOff_bodyM, fOrd_bodyM, isZero_zero, zero_part, dV_eV, aop_code, aTy_code, scope_code, aOrd_code, part67, part68, part69, part70, part71, part72, Option.bind_eq_bind, Option.bind_some]) hw
theorem cas (h : Hints) (ty : ATy) (ord : AOrd) (sc : Scope) (d : VReg) (a : VReg) (off : BitVec 16) (b : VReg) : Statement (.cas h ty ord sc d a off b) := fun _ hw => decode_packWord rfl (by
  simp only [row93, fD_bodyM, fA_bodyM, fB_bodyM, fOff_bodyM, fOrd_bodyM, isZero_zero, zero_part, dV_eV, aTy_code, scope_code, aOrd_code, part73, part74, part75, part76, part71, part72, Option.bind_eq_bind, Option.bind_some]) hw
theorem red (h : Hints) (op : Aop) (ty : ATy) (ord : AOrd) (sc : Scope) (a : VReg) (off : BitVec 16) (b : VReg) : Statement (.red h op ty ord sc a off b) := fun _ hw => decode_packWord rfl (by
  simp only [row94, fD_bodyM, fA_bodyM, fB_bodyM, fOff_bodyM, fOrd_bodyM, isAbsent_absent, isZero_zero, zero_part, dV_eV, aop_code, aTy_code, scope_code, aOrd_code, part67, part68, part69, part70, part71, part72, Option.bind_eq_bind, Option.bind_some]) hw
theorem fence (h : Hints) (sc : Scope) : Statement (.fence h sc) := fun _ hw => decode_packWord rfl (by
  simp only [row95, fD_bodyM, fA_bodyM, fB_bodyM, fOff_bodyM, fOrd_bodyM, isAbsent_absent, isZero_zero, zero_part, fenceScope_ordBits, Option.bind_eq_bind, Option.bind_some, if_true]) hw
theorem waitaddr (h : Hints) (a : VReg) (off : BitVec 24) (b : Option VReg) : Statement (.waitaddr h a off b) := fun _ hw => decode_packWord rfl (by
  simp only [row96, fD_bodyM, fA_bodyM, fB_bodyM, fOff_bodyM, fOrd_bodyM, isAbsent_absent, isZero_zero, zero_part, dV_eV, dOV_eOV, Option.bind_eq_bind, Option.bind_some, if_true]) hw
theorem sptest (h : Hints) (d : VReg) (a : VReg) : Statement (.sptest h d a) := fun _ hw => decode_packWord rfl (by
  simp only [row97, fD_bodyR, fA_bodyR, fB_bodyR, fC_bodyR, fX8_bodyR, fM7_bodyR, isAbsent_absent, isZero_zero, zero_part, dV_eV, Option.bind_eq_bind, Option.bind_some, if_true]) hw
theorem spcastGen (h : Hints) (d : VReg) (a : VReg) : Statement (.spcastGen h d a) := fun _ hw => decode_packWord rfl (by
  simp only [row98, fD_bodyR, fA_bodyR, fB_bodyR, fC_bodyR, fX8_bodyR, fM7_bodyR, isAbsent_absent, isZero_zero, zero_part, dV_eV, Option.bind_eq_bind, Option.bind_some, if_true]) hw
theorem spcastSp (h : Hints) (d : VReg) (a : VReg) : Statement (.spcastSp h d a) := fun _ hw => decode_packWord rfl (by
  simp only [row98, fD_bodyR, fA_bodyR, fB_bodyR, fC_bodyR, fX8_bodyR, fM7_bodyR, isAbsent_absent, isZero_zero, zero_part, dV_eV, Option.bind_eq_bind, Option.bind_some, if_true, sub1, if_false]) hw
theorem pref (h : Hints) (l2 : Bool) (a : VReg) (b : Option VReg) (off : BitVec 24) : Statement (.pref h l2 a b off) := fun _ hw => decode_packWord rfl (by
  simp only [row99, fD_bodyM, fA_bodyM, fB_bodyM, fOff_bodyM, fOrd_bodyM, isAbsent_absent, isZero_zero, zero_part, dV_eV, dOV_eOV, part77, part78, Option.bind_eq_bind, Option.bind_some]) hw
theorem cctlInv (h : Hints) (a : VReg) (off : BitVec 24) : Statement (.cctlInv h a off) := fun _ hw => decode_packWord rfl (by
  simp only [row9A, fD_bodyM, fA_bodyM, fB_bodyM, fOff_bodyM, fOrd_bodyM, isAbsent_absent, isZero_zero, zero_part, dV_eV, Option.bind_eq_bind, Option.bind_some, if_true]) hw
theorem cctlWb (h : Hints) (a : VReg) (off : BitVec 24) : Statement (.cctlWb h a off) := fun _ hw => decode_packWord rfl (by
  simp only [row9A, fD_bodyM, fA_bodyM, fB_bodyM, fOff_bodyM, fOrd_bodyM, isAbsent_absent, isZero_zero, zero_part, dV_eV, Option.bind_eq_bind, Option.bind_some, if_true, sub1, if_false]) hw
theorem cctlInvall (h : Hints) : Statement (.cctlInvall h) := fun _ hw => decode_packWord rfl (by
  simp only [row9A, fD_bodyM, fA_bodyM, fB_bodyM, fOff_bodyM, fOrd_bodyM, isAbsent_absent, isZero_zero, zero_part, Option.bind_eq_bind, Option.bind_some, if_true, sub2, sub2', if_false]) hw
theorem wcflush (h : Hints) : Statement (.wcflush h) := fun _ hw => decode_packWord rfl (by
  simp only [row9B, fD_bodyR, fA_bodyR, fB_bodyR, fC_bodyR, fX8_bodyR, fM7_bodyR, isAbsent_absent, isZero_zero, zero_part, Option.bind_eq_bind, Option.bind_some, if_true]) hw
theorem sdrop (h : Hints) (first : BitVec 7) (count : BitVec 7) : Statement (.sdrop h first count) := fun _ hw => decode_packWord rfl (by
  simp only [row9C, fD_bodyI, fA_bodyI, fImm_bodyI, fM7_bodyI, isAbsent_absent, isZero_zero, zero_part, part79, part80, part81, part82, Option.bind_eq_bind, Option.bind_some, if_true]) hw
theorem swake (h : Hints) (first : BitVec 7) (count : BitVec 7) : Statement (.swake h first count) := fun _ hw => decode_packWord rfl (by
  simp only [row9D, fD_bodyI, fA_bodyI, fImm_bodyI, fM7_bodyI, isAbsent_absent, isZero_zero, zero_part, part79, part80, part81, part82, Option.bind_eq_bind, Option.bind_some, if_true]) hw
theorem gwmax (h : Hints) (d : VReg) : Statement (.gwmax h d) := fun _ hw => decode_packWord rfl (by
  simp only [row9E, fD_bodyR, fA_bodyR, fB_bodyR, fC_bodyR, fX8_bodyR, fM7_bodyR, isAbsent_absent, isZero_zero, zero_part, dV_eV, Option.bind_eq_bind, Option.bind_some, if_true]) hw
theorem tcopy (h : Hints) (ch : BitVec 3) (a : VReg) : Statement (.tcopy h ch a) := fun _ hw => decode_packWord rfl (by
  simp only [rowA0, fD_bodyR, fA_bodyR, fB_bodyR, fC_bodyR, fX8_bodyR, fM7_bodyR, isAbsent_absent, isZero_zero, zero_part, dV_eV, dCh_eCh, Option.bind_eq_bind, Option.bind_some, if_true]) hw
theorem tstore (h : Hints) (ch : BitVec 3) (a : VReg) : Statement (.tstore h ch a) := fun _ hw => decode_packWord rfl (by
  simp only [rowA1, fD_bodyR, fA_bodyR, fB_bodyR, fC_bodyR, fX8_bodyR, fM7_bodyR, isAbsent_absent, isZero_zero, zero_part, dV_eV, dCh_eCh, Option.bind_eq_bind, Option.bind_some, if_true]) hw
theorem tcopys (h : Hints) (ch : BitVec 3) (a : VReg) : Statement (.tcopys h ch a) := fun _ hw => decode_packWord rfl (by
  simp only [rowA2, fD_bodyR, fA_bodyR, fB_bodyR, fC_bodyR, fX8_bodyR, fM7_bodyR, isAbsent_absent, isZero_zero, zero_part, dV_eV, dCh_eCh, Option.bind_eq_bind, Option.bind_some, if_true]) hw
theorem chptr (h : Hints) (d : VReg) (ch : BitVec 3) (b : Src) : Statement (.chptr h d ch b) := fun _ hw => decode_packWord rfl (by
  simp only [rowA3, fD_bodyR, fA_bodyR, fB_bodyR, fC_bodyR, fX8_bodyR, fM7_bodyR, isAbsent_absent, isZero_zero, zero_part, dV_eV, dSrc_eSrc, dCh_eCh, Option.bind_eq_bind, Option.bind_some, if_true]) hw
theorem chwait (h : Hints) (ch : BitVec 3) (b : VReg) : Statement (.chwait h ch b) := fun _ hw => decode_packWord rfl (by
  simp only [rowA4, fD_bodyR, fA_bodyR, fB_bodyR, fC_bodyR, fX8_bodyR, fM7_bodyR, isAbsent_absent, isZero_zero, zero_part, dV_eV, dCh_eCh, Option.bind_eq_bind, Option.bind_some, if_true]) hw
theorem chdrain (h : Hints) (ch : BitVec 3) : Statement (.chdrain h ch) := fun _ hw => decode_packWord rfl (by
  simp only [rowA5, fD_bodyR, fA_bodyR, fB_bodyR, fC_bodyR, fX8_bodyR, fM7_bodyR, isAbsent_absent, isZero_zero, zero_part, dCh_eCh, Option.bind_eq_bind, Option.bind_some, if_true]) hw
theorem chstat (h : Hints) (d : VReg) (ch : BitVec 3) : Statement (.chstat h d ch) := fun _ hw => decode_packWord rfl (by
  simp only [rowAA, fD_bodyR, fA_bodyR, fB_bodyR, fC_bodyR, fX8_bodyR, fM7_bodyR, isAbsent_absent, isZero_zero, zero_part, dV_eV, dCh_eCh, Option.bind_eq_bind, Option.bind_some, if_true]) hw
theorem ringinit (h : Hints) (rg : BitVec 3) (b : VReg) (c : Src) : Statement (.ringinit h rg b c) := fun _ hw => decode_packWord rfl (by
  simp only [rowA6, fD_bodyR, fA_bodyR, fB_bodyR, fC_bodyR, fX8_bodyR, fM7_bodyR, isAbsent_absent, isZero_zero, zero_part, dV_eV, dSrc_eSrc, dRg_eRg, Option.bind_eq_bind, Option.bind_some, if_true]) hw
theorem ringacqProd (h : Hints) (d : VReg) (rg : BitVec 3) : Statement (.ringacqProd h d rg) := fun _ hw => decode_packWord rfl (by
  simp only [rowA7, fD_bodyR, fA_bodyR, fB_bodyR, fC_bodyR, fX8_bodyR, fM7_bodyR, isAbsent_absent, isZero_zero, zero_part, dV_eV, dRg_eRg, Option.bind_eq_bind, Option.bind_some, if_true]) hw
theorem ringacqCons (h : Hints) (d : VReg) (rg : BitVec 3) : Statement (.ringacqCons h d rg) := fun _ hw => decode_packWord rfl (by
  simp only [rowA7, fD_bodyR, fA_bodyR, fB_bodyR, fC_bodyR, fX8_bodyR, fM7_bodyR, isAbsent_absent, isZero_zero, zero_part, dV_eV, dRg_eRg, Option.bind_eq_bind, Option.bind_some, if_true, sub1, if_false]) hw
theorem ringrelProd (h : Hints) (rg : BitVec 3) : Statement (.ringrelProd h rg) := fun _ hw => decode_packWord rfl (by
  simp only [rowA8, fD_bodyR, fA_bodyR, fB_bodyR, fC_bodyR, fX8_bodyR, fM7_bodyR, isAbsent_absent, isZero_zero, zero_part, dRg_eRg, Option.bind_eq_bind, Option.bind_some, if_true]) hw
theorem ringrelCons (h : Hints) (rg : BitVec 3) : Statement (.ringrelCons h rg) := fun _ hw => decode_packWord rfl (by
  simp only [rowA8, fD_bodyR, fA_bodyR, fB_bodyR, fC_bodyR, fX8_bodyR, fM7_bodyR, isAbsent_absent, isZero_zero, zero_part, dRg_eRg, Option.bind_eq_bind, Option.bind_some, if_true, sub1, if_false]) hw
theorem ringwaitProd (h : Hints) (rg : BitVec 3) (b : Src) : Statement (.ringwaitProd h rg b) := fun _ hw => decode_packWord rfl (by
  simp only [rowA9, fD_bodyR, fA_bodyR, fB_bodyR, fC_bodyR, fX8_bodyR, fM7_bodyR, isAbsent_absent, isZero_zero, zero_part, dSrc_eSrc, dRg_eRg, Option.bind_eq_bind, Option.bind_some, if_true]) hw
theorem ringwaitCons (h : Hints) (rg : BitVec 3) (b : Src) : Statement (.ringwaitCons h rg b) := fun _ hw => decode_packWord rfl (by
  simp only [rowA9, fD_bodyR, fA_bodyR, fB_bodyR, fC_bodyR, fX8_bodyR, fM7_bodyR, isAbsent_absent, isZero_zero, zero_part, dSrc_eSrc, dRg_eRg, Option.bind_eq_bind, Option.bind_some, if_true, sub1, if_false]) hw
theorem mma (h : Hints) (kind : MmaKind) (k : BitVec 4) (cv : BitVec 3) (a : VReg) (b : VReg) (c : VReg) : Statement (.mma h kind k cv a b c) := fun _ hw => decode_packWord rfl (by
  simp only [rowB0, fD_bodyR, fA_bodyR, fB_bodyR, fC_bodyR, fX8_bodyR, fM7_bodyR, isZero_zero, zero_part, dV_eV, dCv_eCv, mmaKind_code, part83, part84, Option.bind_eq_bind, Option.bind_some]) hw
theorem mdecl (h : Hints) (cv : BitVec 3) (a : Src) (b : Src) : Statement (.mdecl h cv a b) := fun _ hw => decode_packWord rfl (by
  simp only [rowB1, fD_bodyR, fA_bodyR, fB_bodyR, fC_bodyR, fX8_bodyR, fM7_bodyR, isAbsent_absent, isZero_zero, zero_part, dSrc_eSrc, dCv_eCv, Option.bind_eq_bind, Option.bind_some, if_true]) hw
theorem mwait (h : Hints) (cv : BitVec 3) : Statement (.mwait h cv) := fun _ hw => decode_packWord rfl (by
  simp only [rowB2, fD_bodyR, fA_bodyR, fB_bodyR, fC_bodyR, fX8_bodyR, fM7_bodyR, isAbsent_absent, isZero_zero, zero_part, dCv_eCv, Option.bind_eq_bind, Option.bind_some, if_true]) hw
theorem mfence (h : Hints) (cv : BitVec 3) : Statement (.mfence h cv) := fun _ hw => decode_packWord rfl (by
  simp only [rowB3, fD_bodyR, fA_bodyR, fB_bodyR, fC_bodyR, fX8_bodyR, fM7_bodyR, isAbsent_absent, isZero_zero, zero_part, dCv_eCv, Option.bind_eq_bind, Option.bind_some, if_true]) hw
theorem mzero (h : Hints) (a : VReg) : Statement (.mzero h a) := fun _ hw => decode_packWord rfl (by
  simp only [rowB4, fD_bodyR, fA_bodyR, fB_bodyR, fC_bodyR, fX8_bodyR, fM7_bodyR, isAbsent_absent, isZero_zero, zero_part, dV_eV, Option.bind_eq_bind, Option.bind_some, if_true]) hw
theorem mload (h : Hints) (i32 : Bool) (a : VReg) (b : VReg) : Statement (.mload h i32 a b) := fun _ hw => decode_packWord rfl (by
  simp only [rowB5, fD_bodyR, fA_bodyR, fB_bodyR, fC_bodyR, fX8_bodyR, fM7_bodyR, isAbsent_absent, isZero_zero, zero_part, dV_eV, mloadSub_bits, Option.bind_eq_bind, Option.bind_some]) hw
theorem mstore (h : Hints) (cell : MCell) (a : VReg) (b : VReg) : Statement (.mstore h cell a b) := fun _ hw => decode_packWord rfl (by
  simp only [rowB6, fD_bodyR, fA_bodyR, fB_bodyR, fC_bodyR, fX8_bodyR, fM7_bodyR, isAbsent_absent, isZero_zero, zero_part, dV_eV, mCell_code, Option.bind_eq_bind, Option.bind_some]) hw
theorem mlive (h : Hints) (mask : BitVec 8) : Statement (.mlive h mask) := fun _ hw => decode_packWord rfl (by
  simp only [rowB7, fD_bodyI, fA_bodyI, fImm_bodyI, fM7_bodyI, isAbsent_absent, isZero_zero, zero_part, part85, part86, Option.bind_eq_bind, Option.bind_some, if_true]) hw
theorem mstat (h : Hints) (d : VReg) : Statement (.mstat h d) := fun _ hw => decode_packWord rfl (by
  simp only [rowB8, fD_bodyR, fA_bodyR, fB_bodyR, fC_bodyR, fX8_bodyR, fM7_bodyR, isAbsent_absent, isZero_zero, zero_part, dV_eV, Option.bind_eq_bind, Option.bind_some, if_true]) hw
theorem mmaIssueOnRoom (c : CoreRef) : Statement (.mmaIssueOnRoom c) := fun h => nomatch h
theorem mmaComplete (c : CoreRef) : Statement (.mmaComplete c) := fun h => nomatch h
theorem matrixOpComplete (t : TRef) : Statement (.matrixOpComplete t) := fun h => nomatch h
theorem barinit (h : Hints) (sc : BScope) (bar : Bar) (a : Src) : Statement (.barinit h sc bar a) := fun _ hw => decode_packWord rfl (by
  simp only [rowC0, fD_bodyR, fA_bodyR, fB_bodyR, fC_bodyR, fX8_bodyR, fM7_bodyR, isAbsent_absent, isZero_zero, zero_part, dSrc_eSrc, dBar_eBar, scope_code, bScope_code, Option.bind_eq_bind, Option.bind_some]) hw
theorem bararv (h : Hints) (bar : Bar) : Statement (.bararv h bar) := fun _ hw => decode_packWord rfl (by
  simp only [rowC1, fD_bodyR, fA_bodyR, fB_bodyR, fC_bodyR, fX8_bodyR, fM7_bodyR, isAbsent_absent, isZero_zero, zero_part, dBar_eBar, Option.bind_eq_bind, Option.bind_some, if_true]) hw
theorem barwait (h : Hints) (bar : Bar) : Statement (.barwait h bar) := fun _ hw => decode_packWord rfl (by
  simp only [rowC2, fD_bodyR, fA_bodyR, fB_bodyR, fC_bodyR, fX8_bodyR, fM7_bodyR, isAbsent_absent, isZero_zero, zero_part, dBar_eBar, Option.bind_eq_bind, Option.bind_some, if_true]) hw
theorem barsync (h : Hints) (bar : Bar) : Statement (.barsync h bar) := fun _ hw => decode_packWord rfl (by
  simp only [rowC3, fD_bodyR, fA_bodyR, fB_bodyR, fC_bodyR, fX8_bodyR, fM7_bodyR, isAbsent_absent, isZero_zero, zero_part, dBar_eBar, Option.bind_eq_bind, Option.bind_some, if_true]) hw
theorem barstat (h : Hints) (d : VReg) (bar : Bar) : Statement (.barstat h d bar) := fun _ hw => decode_packWord rfl (by
  simp only [rowC4, fD_bodyR, fA_bodyR, fB_bodyR, fC_bodyR, fX8_bodyR, fM7_bodyR, isAbsent_absent, isZero_zero, zero_part, dV_eV, dBar_eBar, Option.bind_eq_bind, Option.bind_some, if_true]) hw
theorem barset (h : Hints) (bar : Bar) (b : Src) : Statement (.barset h bar b) := fun _ hw => decode_packWord rfl (by
  simp only [rowC5, fD_bodyR, fA_bodyR, fB_bodyR, fC_bodyR, fX8_bodyR, fM7_bodyR, isAbsent_absent, isZero_zero, zero_part, dSrc_eSrc, dBar_eBar, Option.bind_eq_bind, Option.bind_some, if_true]) hw
theorem gbar (h : Hints) (gb : BitVec 2) : Statement (.gbar h gb) := fun _ hw => decode_packWord rfl (by
  simp only [rowC6, fD_bodyR, fA_bodyR, fB_bodyR, fC_bodyR, fX8_bodyR, fM7_bodyR, isAbsent_absent, isZero_zero, zero_part, dGb_eGb, Option.bind_eq_bind, Option.bind_some, if_true]) hw
theorem barrierArrivalCounted (t : TRef) : Statement (.barrierArrivalCounted t) := fun h => nomatch h
theorem barrierDelivery (g : GangRef) (gb : BitVec 2) (core : Nat) : Statement (.barrierDelivery g gb core) := fun h => nomatch h
theorem wpop (h : Hints) (d : VReg) : Statement (.wpop h d) := fun _ hw => decode_packWord rfl (by
  simp only [rowD0, fD_bodyR, fA_bodyR, fB_bodyR, fC_bodyR, fX8_bodyR, fM7_bodyR, isAbsent_absent, isZero_zero, zero_part, dV_eV, Option.bind_eq_bind, Option.bind_some, if_true]) hw
theorem wpush (h : Hints) (a : VReg) (b : Option VReg) : Statement (.wpush h a b) := fun _ hw => decode_packWord rfl (by
  simp only [rowD1, fD_bodyR, fA_bodyR, fB_bodyR, fC_bodyR, fX8_bodyR, fM7_bodyR, isAbsent_absent, isZero_zero, zero_part, dV_eV, dOV_eOV, Option.bind_eq_bind, Option.bind_some, if_true]) hw
theorem launch (h : Hints) (a : VReg) : Statement (.launch h a) := fun _ hw => decode_packWord rfl (by
  simp only [rowD2, fD_bodyR, fA_bodyR, fB_bodyR, fC_bodyR, fX8_bodyR, fM7_bodyR, isAbsent_absent, isZero_zero, zero_part, dV_eV, Option.bind_eq_bind, Option.bind_some, if_true]) hw
theorem signalSet (h : Hints) (a : VReg) (b : Src) : Statement (.signalSet h a b) := fun _ hw => decode_packWord rfl (by
  simp only [rowD3, fD_bodyR, fA_bodyR, fB_bodyR, fC_bodyR, fX8_bodyR, fM7_bodyR, isAbsent_absent, isZero_zero, zero_part, dV_eV, dSrc_eSrc, Option.bind_eq_bind, Option.bind_some, if_true]) hw
theorem signalAdd (h : Hints) (a : VReg) (b : Src) : Statement (.signalAdd h a b) := fun _ hw => decode_packWord rfl (by
  simp only [rowD3, fD_bodyR, fA_bodyR, fB_bodyR, fC_bodyR, fX8_bodyR, fM7_bodyR, isAbsent_absent, isZero_zero, zero_part, dV_eV, dSrc_eSrc, Option.bind_eq_bind, Option.bind_some, if_true, sub1, if_false]) hw
theorem sigwait (h : Hints) (cmp : Cmp) (a : VReg) (b : Src) : Statement (.sigwait h cmp a b) := fun _ hw => decode_packWord rfl (by
  simp only [rowD4, fD_bodyR, fA_bodyR, fB_bodyR, fC_bodyR, fX8_bodyR, fM7_bodyR, isAbsent_absent, isZero_zero, zero_part, dV_eV, dSrc_eSrc, cmp_code, part58, part59, part60, Option.bind_eq_bind, Option.bind_some, if_true]) hw
theorem gswap (h : Hints) (cmp : Cmp) (a : VReg) (b : Src) : Statement (.gswap h cmp a b) := fun _ hw => decode_packWord rfl (by
  simp only [rowD5, fD_bodyR, fA_bodyR, fB_bodyR, fC_bodyR, fX8_bodyR, fM7_bodyR, isAbsent_absent, isZero_zero, zero_part, dV_eV, dSrc_eSrc, cmp_code, part58, part59, part60, Option.bind_eq_bind, Option.bind_some, if_true]) hw
theorem qroom (h : Hints) (d : VReg) (a : VReg) : Statement (.qroom h d a) := fun _ hw => decode_packWord rfl (by
  simp only [rowD6, fD_bodyR, fA_bodyR, fB_bodyR, fC_bodyR, fX8_bodyR, fM7_bodyR, isAbsent_absent, isZero_zero, zero_part, dV_eV, Option.bind_eq_bind, Option.bind_some, if_true]) hw
theorem pair (h : Hints) (x : PSlot) (y : PSlot) : Statement (.pair h x y) := fun _ hw => decode_packWord rfl (by
  simp only [rowE0, bodyP_z, bodyP_y, bodyP_x, slotOf_eSlot, isZero_zero, zero_part, Option.bind_eq_bind, Option.bind_some, if_true]) hw
theorem sysr (h : Hints) (d : VReg) (n : BitVec 12) : Statement (.sysr h d n) := fun _ hw => decode_packWord rfl (by
  simp only [rowE1, fD_bodyI, fA_bodyI, fImm_bodyI, fM7_bodyI, isAbsent_absent, isZero_zero, zero_part, dV_eV, part87, part88, Option.bind_eq_bind, Option.bind_some, if_true]) hw
theorem sysw (h : Hints) (a : VReg) (n : BitVec 12) : Statement (.sysw h a n) := fun _ hw => decode_packWord rfl (by
  simp only [rowE2, fD_bodyI, fA_bodyI, fImm_bodyI, fM7_bodyI, isAbsent_absent, isZero_zero, zero_part, dV_eV, part87, part88, Option.bind_eq_bind, Option.bind_some, if_true]) hw
theorem tret (h : Hints) : Statement (.tret h) := fun _ hw => decode_packWord rfl (by
  simp only [rowE3, fD_bodyR, fA_bodyR, fB_bodyR, fC_bodyR, fX8_bodyR, fM7_bodyR, isAbsent_absent, isZero_zero, zero_part, Option.bind_eq_bind, Option.bind_some, if_true]) hw
theorem tswr (h : Hints) (d : VReg) (a : VReg) : Statement (.tswr h d a) := fun _ hw => decode_packWord rfl (by
  simp only [rowE4, fD_bodyR, fA_bodyR, fB_bodyR, fC_bodyR, fX8_bodyR, fM7_bodyR, isAbsent_absent, isZero_zero, zero_part, dV_eV, Option.bind_eq_bind, Option.bind_some, if_true]) hw
theorem tsww (h : Hints) (a : VReg) (b : VReg) : Statement (.tsww h a b) := fun _ hw => decode_packWord rfl (by
  simp only [rowE5, fD_bodyR, fA_bodyR, fB_bodyR, fC_bodyR, fX8_bodyR, fM7_bodyR, isAbsent_absent, isZero_zero, zero_part, dV_eV, Option.bind_eq_bind, Option.bind_some, if_true]) hw
theorem ologr (h : Hints) (d : VReg) (a : VReg) (b : Src) : Statement (.ologr h d a b) := fun _ hw => decode_packWord rfl (by
  simp only [rowE6, fD_bodyR, fA_bodyR, fB_bodyR, fC_bodyR, fX8_bodyR, fM7_bodyR, isAbsent_absent, isZero_zero, zero_part, dV_eV, dSrc_eSrc, Option.bind_eq_bind, Option.bind_some, if_true]) hw
theorem xgetPred (h : Hints) (d : VReg) : Statement (.xgetPred h d) := fun _ hw => decode_packWord rfl (by
  simp only [rowE7, fD_bodyR, fA_bodyR, fB_bodyR, fC_bodyR, fX8_bodyR, fM7_bodyR, isAbsent_absent, isZero_zero, zero_part, dV_eV, Option.bind_eq_bind, Option.bind_some, if_true]) hw
theorem xgetStruct (h : Hints) (d : VReg) (a : SReg) : Statement (.xgetStruct h d a) := fun _ hw => decode_packWord rfl (by
  simp only [rowE7, fD_bodyR, fA_bodyR, fB_bodyR, fC_bodyR, fX8_bodyR, fM7_bodyR, isAbsent_absent, isZero_zero, zero_part, dV_eV, dSReg_eSReg, Option.bind_eq_bind, Option.bind_some, if_true, sub1, if_false]) hw
theorem xsetPred (h : Hints) (b : VReg) : Statement (.xsetPred h b) := fun _ hw => decode_packWord rfl (by
  simp only [rowE8, fD_bodyR, fA_bodyR, fB_bodyR, fC_bodyR, fX8_bodyR, fM7_bodyR, isAbsent_absent, isZero_zero, zero_part, dV_eV, Option.bind_eq_bind, Option.bind_some, if_true]) hw
theorem xsetStruct (h : Hints) (a : SReg) (b : VReg) : Statement (.xsetStruct h a b) := fun _ hw => decode_packWord rfl (by
  simp only [rowE8, fD_bodyR, fA_bodyR, fB_bodyR, fC_bodyR, fX8_bodyR, fM7_bodyR, isAbsent_absent, isZero_zero, zero_part, dV_eV, dSReg_eSReg, Option.bind_eq_bind, Option.bind_some, if_true, sub1, if_false]) hw
theorem placeCore (h : Hints) (d : VReg) (a : Src) : Statement (.placeCore h d a) := fun _ hw => decode_packWord rfl (by
  simp only [rowE9, fD_bodyR, fA_bodyR, fB_bodyR, fC_bodyR, fX8_bodyR, fM7_bodyR, isAbsent_absent, isZero_zero, zero_part, dV_eV, dSrc_eSrc, Option.bind_eq_bind, Option.bind_some, if_true]) hw
theorem placeDie (h : Hints) (d : VReg) (a : Src) : Statement (.placeDie h d a) := fun _ hw => decode_packWord rfl (by
  simp only [rowE9, fD_bodyR, fA_bodyR, fB_bodyR, fC_bodyR, fX8_bodyR, fM7_bodyR, isAbsent_absent, isZero_zero, zero_part, dV_eV, dSrc_eSrc, Option.bind_eq_bind, Option.bind_some, if_true, sub1, if_false]) hw
theorem placePort (h : Hints) (d : VReg) (a : Src) : Statement (.placePort h d a) := fun _ hw => decode_packWord rfl (by
  simp only [rowE9, fD_bodyR, fA_bodyR, fB_bodyR, fC_bodyR, fX8_bodyR, fM7_bodyR, isAbsent_absent, isZero_zero, zero_part, dV_eV, dSrc_eSrc, Option.bind_eq_bind, Option.bind_some, if_true, sub2, sub2', if_false]) hw
theorem issueRound (c : CoreRef) (slice : Nat) : Statement (.issueRound c slice) := fun h => nomatch h
theorem kickTaken (t : TRef) : Statement (.kickTaken t) := fun h => nomatch h
theorem deferredTrapDelivery (t : TRef) : Statement (.deferredTrapDelivery t) := fun h => nomatch h
theorem walkComplete (c : CoreRef) (vpn : Nat) : Statement (.walkComplete c vpn) := fun h => nomatch h
theorem parkedReplay (c : CoreRef) (entry : Nat) : Statement (.parkedReplay c entry) := fun h => nomatch h
theorem fltackReplay (c : CoreRef) (all : Bool) (entry : Nat) : Statement (.fltackReplay c all entry) := fun h => nomatch h
theorem fltackDeliver (c : CoreRef) (all : Bool) (entry : Nat) : Statement (.fltackDeliver c all entry) := fun h => nomatch h
theorem fltackFault (c : CoreRef) (all : Bool) (entry : Nat) : Statement (.fltackFault c all entry) := fun h => nomatch h
theorem fltackIgnored (c : CoreRef) (all : Bool) (entry : Nat) : Statement (.fltackIgnored c all entry) := fun h => nomatch h
theorem invalComplete (q : QRef) : Statement (.invalComplete q) := fun h => nomatch h
theorem storePerformedAtHome (c : CoreRef) (seq : Nat) (evicted : Bool) : Statement (.storePerformedAtHome c seq evicted) := fun h => nomatch h
theorem storeAnswer (c : CoreRef) (seq : Nat) : Statement (.storeAnswer c seq) := fun h => nomatch h
theorem atomicAnswer (c : CoreRef) (seq : Nat) : Statement (.atomicAnswer c seq) := fun h => nomatch h
theorem loadResponse (c : CoreRef) (seq : Nat) : Statement (.loadResponse c seq) := fun h => nomatch h
theorem leaseExpiry (c : CoreRef) (line : Nat) : Statement (.leaseExpiry c line) := fun h => nomatch h
theorem wcEntryTimeout (c : CoreRef) (id : Nat) : Statement (.wcEntryTimeout c id) := fun h => nomatch h
theorem fenceComplete (t : TRef) : Statement (.fenceComplete t) := fun h => nomatch h
theorem waitaddrWake (t : TRef) : Statement (.waitaddrWake t) := fun h => nomatch h
theorem waitaddrDeadline (t : TRef) : Statement (.waitaddrDeadline t) := fun h => nomatch h
theorem sleepDeadline (t : TRef) : Statement (.sleepDeadline t) := fun h => nomatch h
theorem signalWaitWake (t : TRef) : Statement (.signalWaitWake t) := fun h => nomatch h
theorem copyStart (c : CoreRef) (ch : BitVec 3) : Statement (.copyStart c ch) := fun h => nomatch h
theorem copyGranuleDelivered (c : CoreRef) (ch : BitVec 3) : Statement (.copyGranuleDelivered c ch) := fun h => nomatch h
theorem launchDecision (c : CoreRef) : Statement (.launchDecision c) := fun h => nomatch h
theorem groupPlace (k : KRef) : Statement (.groupPlace k) := fun h => nomatch h
theorem groupDrained (g : GRef) : Statement (.groupDrained g) := fun h => nomatch h
theorem gswapSwapOut (g : GRef) : Statement (.gswapSwapOut g) := fun h => nomatch h
theorem gswapSwapIn (g : GRef) : Statement (.gswapSwapIn g) := fun h => nomatch h
theorem regBankRetention (c : CoreRef) (slice : Nat) (row : Nat) (lane : Nat) : Statement (.regBankRetention c slice row lane) := fun h => nomatch h
theorem regBankWakeDone (c : CoreRef) (slice : Nat) (row : Nat) (lane : Nat) : Statement (.regBankWakeDone c slice row lane) := fun h => nomatch h
theorem scrBankRetention (c : CoreRef) (bank : Nat) : Statement (.scrBankRetention c bank) := fun h => nomatch h
theorem scrBankWakeDone (c : CoreRef) (bank : Nat) : Statement (.scrBankWakeDone c bank) := fun h => nomatch h
theorem tileWakeDone (c : CoreRef) (tile : Nat) : Statement (.tileWakeDone c tile) := fun h => nomatch h
theorem ptpMeasurement (port : Nat) (offset : Int) : Statement (.ptpMeasurement port offset) := fun h => nomatch h
theorem syncTimeout (next : Nat) : Statement (.syncTimeout next) := fun h => nomatch h
theorem holdoverLimit : Statement (.holdoverLimit ) := fun h => nomatch h
theorem heartbeatSend : Statement (.heartbeatSend ) := fun h => nomatch h
theorem heartbeatReceive (pkg : BitVec 18) (verified : Bool) : Statement (.heartbeatReceive pkg verified) := fun h => nomatch h
theorem schedulerTakeover : Statement (.schedulerTakeover ) := fun h => nomatch h
theorem timetableEntry (m : BitVec 256) : Statement (.timetableEntry m) := fun h => nomatch h
theorem maskMessage (m : BitVec 256) : Statement (.maskMessage m) := fun h => nomatch h
theorem maskEffect : Statement (.maskEffect ) := fun h => nomatch h
theorem preemptionRequest (m : BitVec 256) : Statement (.preemptionRequest m) := fun h => nomatch h
theorem stagingStart (x : CtxRef) : Statement (.stagingStart x) := fun h => nomatch h
theorem stagingComplete (x : CtxRef) : Statement (.stagingComplete x) := fun h => nomatch h
theorem entryStart (part : Nat) : Statement (.entryStart part) := fun h => nomatch h
theorem entryEnd (part : Nat) : Statement (.entryEnd part) := fun h => nomatch h
theorem preemptionStart (part : Nat) : Statement (.preemptionStart part) := fun h => nomatch h
theorem preemptionEnd (part : Nat) : Statement (.preemptionEnd part) := fun h => nomatch h
theorem haltIssueStopped (x : CtxRef) : Statement (.haltIssueStopped x) := fun h => nomatch h
theorem drainComplete (x : CtxRef) : Statement (.drainComplete x) := fun h => nomatch h
theorem imageSealed (x : CtxRef) : Statement (.imageSealed x) := fun h => nomatch h
theorem loadComplete (x : CtxRef) : Statement (.loadComplete x) := fun h => nomatch h
theorem placeRequest (mb : Mailbox) (tag : Word) (part : Nat) (tab : PlaceTable) (die : Nat) (vals : List (Nat × Word)) : Statement (.placeRequest mb tag part tab die vals) := fun h => nomatch h
theorem partopForm (mb : Mailbox) (tag : Word) (part : Nat) (dpt : List Word) (cpt : List (Nat × List Word)) (ppt : List (Nat × List Word)) : Statement (.partopForm mb tag part dpt cpt ppt) := fun h => nomatch h
theorem partopReset (mb : Mailbox) (tag : Word) (part : Nat) : Statement (.partopReset mb tag part) := fun h => nomatch h
theorem partopDissolve (mb : Mailbox) (tag : Word) (part : Nat) : Statement (.partopDissolve mb tag part) := fun h => nomatch h
theorem partopCoreRemap (mb : Mailbox) (tag : Word) (part : Nat) (core : Nat) (val : Word) : Statement (.partopCoreRemap mb tag part core val) := fun h => nomatch h
theorem partopLaneDegrade (mb : Mailbox) (tag : Word) (part : Nat) (die : Nat) (port : Nat) (lanes : BitVec 4) : Statement (.partopLaneDegrade mb tag part die port lanes) := fun h => nomatch h
theorem kgen (mb : Mailbox) (tag : Word) (part : Nat) (slot : BitVec 6) : Statement (.kgen mb tag part slot) := fun h => nomatch h
theorem krevoke (mb : Mailbox) (tag : Word) (part : Nat) (slot : BitVec 6) : Statement (.krevoke mb tag part slot) := fun h => nomatch h
theorem kexport (mb : Mailbox) (tag : Word) (part : Nat) (slot : BitVec 6) : Statement (.kexport mb tag part slot) := fun h => nomatch h
theorem kimport (mb : Mailbox) (tag : Word) (part : Nat) (slot : BitVec 6) (wrapped : BitVec 576) : Statement (.kimport mb tag part slot wrapped) := fun h => nomatch h
theorem kmask (mb : Mailbox) (tag : Word) (part : Nat) (ctx : Nat) (mask : DWord) : Statement (.kmask mb tag part ctx mask) := fun h => nomatch h
theorem ctxsetInstall (mb : Mailbox) (tag : Word) (part : Nat) (ctx : Nat) (ctxsa : DWord) : Statement (.ctxsetInstall mb tag part ctx ctxsa) := fun h => nomatch h
theorem ctxsetDiscard (mb : Mailbox) (tag : Word) (part : Nat) (ctx : Nat) : Statement (.ctxsetDiscard mb tag part ctx) := fun h => nomatch h
theorem attest (mb : Mailbox) (tag : Word) (part : Nat) (nonce : BitVec 256) : Statement (.attest mb tag part nonce) := fun h => nomatch h
theorem hwinRequest (mb : Mailbox) (tag : Word) (part : Nat) (idx : BitVec 4) (val : DWord) : Statement (.hwinRequest mb tag part idx val) := fun h => nomatch h
theorem poolwinRequest (mb : Mailbox) (tag : Word) (part : Nat) (idx : BitVec 4) (val : DWord) : Statement (.poolwinRequest mb tag part idx val) := fun h => nomatch h
theorem lidaddrRequest (mb : Mailbox) (tag : Word) (part : Nat) (val : DWord) : Statement (.lidaddrRequest mb tag part val) := fun h => nomatch h
theorem configMemcfg (mb : Mailbox) (tag : Word) (part : Nat) (idx : BitVec 8) (val : DWord) : Statement (.configMemcfg mb tag part idx val) := fun h => nomatch h
theorem configGtepoch (mb : Mailbox) (tag : Word) (part : Nat) (idx : BitVec 8) (val : DWord) : Statement (.configGtepoch mb tag part idx val) := fun h => nomatch h
theorem configPtpDomain (mb : Mailbox) (tag : Word) (part : Nat) (idx : BitVec 8) (val : DWord) : Statement (.configPtpDomain mb tag part idx val) := fun h => nomatch h
theorem configAsymmetry (mb : Mailbox) (tag : Word) (part : Nat) (idx : BitVec 8) (val : DWord) : Statement (.configAsymmetry mb tag part idx val) := fun h => nomatch h
theorem mailboxBadRequest (mb : Mailbox) (req : BitVec 512) : Statement (.mailboxBadRequest mb req) := fun h => nomatch h
theorem svnRaise (bank : Nat) (svn : Word) : Statement (.svnRaise bank svn) := fun h => nomatch h
theorem coldReset : Statement (.coldReset ) := fun h => nomatch h
theorem qtailDoorbell (q : QRef) (tail : Word) : Statement (.qtailDoorbell q tail) := fun h => nomatch h
theorem queueEnable (q : QRef) : Statement (.queueEnable q) := fun h => nomatch h
theorem queueDisable (q : QRef) : Statement (.queueDisable q) := fun h => nomatch h
theorem packetStart (q : QRef) : Statement (.packetStart q) := fun h => nomatch h
theorem packetFeed (q : QRef) : Statement (.packetFeed q) := fun h => nomatch h
theorem packetSignal (q : QRef) : Statement (.packetSignal q) := fun h => nomatch h
theorem packetWaitall (q : QRef) : Statement (.packetWaitall q) := fun h => nomatch h
theorem packetWaitany (q : QRef) : Statement (.packetWaitany q) := fun h => nomatch h
theorem packetTimemark (q : QRef) : Statement (.packetTimemark q) := fun h => nomatch h
theorem packetInval (q : QRef) : Statement (.packetInval q) := fun h => nomatch h
theorem packetNop (q : QRef) : Statement (.packetNop q) := fun h => nomatch h
theorem queueWake (q : QRef) : Statement (.queueWake q) := fun h => nomatch h
theorem waitPeriodicEvaluation (q : QRef) : Statement (.waitPeriodicEvaluation q) := fun h => nomatch h
theorem eventDispatch (part : Nat) (ladle : Nat) : Statement (.eventDispatch part ladle) := fun h => nomatch h
theorem handlerComplete (part : Nat) (ladle : Nat) : Statement (.handlerComplete part ladle) := fun h => nomatch h
theorem ladleWatchdog (part : Nat) (ladle : Nat) : Statement (.ladleWatchdog part ladle) := fun h => nomatch h
theorem linkEnable (l : LinkRef) : Statement (.linkEnable l) := fun h => nomatch h
theorem linkTrained (l : LinkRef) (lanes : BitVec 4) : Statement (.linkTrained l lanes) := fun h => nomatch h
theorem linkTrainFail (l : LinkRef) : Statement (.linkTrainFail l) := fun h => nomatch h
theorem linkRetrainTimer (l : LinkRef) : Statement (.linkRetrainTimer l) := fun h => nomatch h
theorem flitCrcReplay (l : LinkRef) (good : Bool) : Statement (.flitCrcReplay l good) := fun h => nomatch h
theorem fabricPacketReceive (die : Nat) (port : Nat) (hdr : BitVec 256) (payload : List Byte) : Statement (.fabricPacketReceive die port hdr payload) := fun h => nomatch h
theorem closedLinkDiscard (l : Nat) : Statement (.closedLinkDiscard l) := fun h => nomatch h
theorem fabricRequestTimeout (die : Nat) (tag : BitVec 16) : Statement (.fabricRequestTimeout die tag) := fun h => nomatch h
theorem fabricResendTimeout (die : Nat) (tag : BitVec 16) : Statement (.fabricResendTimeout die tag) := fun h => nomatch h
theorem affswWrite (part : Nat) (swt : DWord) : Statement (.affswWrite part swt) := fun h => nomatch h
theorem affinityEntryWrite (part : Nat) (bank : Bool) (idx : BitVec 6) (val : Byte) : Statement (.affinityEntryWrite part bank idx val) := fun h => nomatch h
theorem affinityFlip (part : Nat) : Statement (.affinityFlip part) := fun h => nomatch h
theorem governorSample (c : CoreRef) : Statement (.governorSample c) := fun h => nomatch h
theorem voltageRampDone (c : CoreRef) : Statement (.voltageRampDone c) := fun h => nomatch h
theorem sliceHoldEnd (c : CoreRef) (slice : Nat) : Statement (.sliceHoldEnd c slice) := fun h => nomatch h
theorem budgetInterval (c : CoreRef) (energy : Nat) : Statement (.budgetInterval c energy) := fun h => nomatch h
theorem pwrctlWrite (c : CoreRef) (val : DWord) : Statement (.pwrctlWrite c val) := fun h => nomatch h
theorem timingErrorDetect (t : TRef) : Statement (.timingErrorDetect t) := fun h => nomatch h
theorem supplyWarn : Statement (.supplyWarn ) := fun h => nomatch h
theorem lidAckDeadline : Statement (.lidAckDeadline ) := fun h => nomatch h
theorem patrolScrub (x : ScrubTarget) (uncorrectable : Bool) : Statement (.patrolScrub x uncorrectable) := fun h => nomatch h
theorem hostWindowAccess (part : Nat) (pa : Nat) (write : Option (List Byte)) (len : Nat) : Statement (.hostWindowAccess part pa write len) := fun h => nomatch h
theorem registerWrite (w : Writer) (part : Nat) (r : RegName) (val : DWord) : Statement (.registerWrite w part r val) := fun h => nomatch h
theorem delayReq : Statement (.delayReq ) := fun h => nomatch h

end Sys2Proof.Laws.RoundTrip
end

