-- ==== Sys2Proof/Laws/Retire.lean ====
section
/-! SUPPORT. What registers, predicates, flags and retirement do, in the terms of Safety. -/
namespace Sys2Proof.Machine
open Sys2Proof

/-! ### Registers -/

theorem Thread.rd_wr (x : Thread) (r n : VReg) (v : Word) : (x.wr r v).rd n = if n = r then v else x.rd n := by
  unfold Thread.wr Thread.rd
  rw [Tab.get_put]
  by_cases h : n = r
  · simp [h]
  · rw [if_neg h, if_neg fun h' => h (BitVec.eq_of_toNat_eq h')]

theorem Thread.live_wr (x : Thread) (r : VReg) (v : Word) (w : Nat) (hw : w < 8) :
    (x.wr r v).live.getLsbD w = (x.live.getLsbD w || r.window == w) := by
  have : r.window < 8 := by unfold VReg.window; omega
  unfold Thread.wr
  simp only [BitVec.getLsbD_or, BitVec.getLsbD_ofNat, hw, decide_true, Bool.true_and, Nat.testBit_two_pow]
  by_cases h : r.window = w <;> simp [h]

theorem Thread.wr_rest (x : Thread) (r : VReg) (v : Word) :
    x.wr r v = { x with regs := (x.wr r v).regs, live := (x.wr r v).live } := rfl

theorem Thread.rd_killWindows (x : Thread) (m : BitVec 8) (n : VReg) :
    (x.killWindows m).rd n = if m.getLsbD n.window then 0 else x.rd n := by
  unfold Thread.killWindows Thread.rd VReg.window
  have h := Tab.get_filter (0 : Word) x.regs (fun k => !m.getLsbD (k / 16)) n.toNat
  simp only at h ⊢
  rw [h]
  by_cases hm : m.getLsbD (n.toNat / 16) <;> simp [hm]

theorem written_cons (e : VReg × Word) (l : List (VReg × Word)) (n : VReg) (d : Word) :
    (written (e :: l) n).getD d = (written l n).getD (if n = e.1 then e.2 else d) := by
  unfold written
  simp only [List.reverse_cons, List.find?_append, List.find?_cons, List.find?_nil]
  cases List.find? (fun f => decide (f.1 = n)) l.reverse <;> by_cases h : e.1 = n <;> simp_all [eq_comm]

theorem writtenP_cons (e : PReg × Bool) (l : List (PReg × Bool)) (n : PReg) (d : Bool) :
    (writtenP (e :: l) n).getD d = (writtenP l n).getD (if n = e.1 then e.2 else d) := by
  unfold writtenP
  simp only [List.reverse_cons, List.find?_append, List.find?_cons, List.find?_nil]
  cases List.find? (fun f => decide (f.1 = n)) l.reverse <;> by_cases h : e.1 = n <;> simp_all [eq_comm]

/-- Writing several registers one after another. -/
theorem Thread.foldl_wr (vs : List (VReg × Word)) (x : Thread) :
    (∀ n, (vs.foldl (fun x e => x.wr e.1 e.2) x).rd n = (written vs n).getD (x.rd n)) ∧
    (∀ w < 8, (vs.foldl (fun x e => x.wr e.1 e.2) x).live.getLsbD w = (x.live.getLsbD w || vs.any fun v => v.1.window == w)) ∧
    vs.foldl (fun x e => x.wr e.1 e.2) x =
      { x with regs := (vs.foldl (fun x e => x.wr e.1 e.2) x).regs, live := (vs.foldl (fun x e => x.wr e.1 e.2) x).live } := by
  induction vs generalizing x with
  | nil => simp [written]
  | cons e l ih =>
    obtain ⟨h1, h2, h3⟩ := ih (x.wr e.1 e.2)
    refine ⟨fun n => ?_, fun w hw => ?_, ?_⟩
    · rw [List.foldl_cons, h1, written_cons, Thread.rd_wr]
    · rw [List.foldl_cons, h2 w hw, Thread.live_wr _ _ _ _ hw, List.any_cons, Bool.or_assoc]
    · rw [List.foldl_cons, h3, Thread.wr_rest]

/-! ### Predicates -/

theorem prd_bit (q p : PReg) (h : p ≠ 15) : (BitVec.ofNat 15 (2 ^ p.toNat)).getLsbD q.toNat = decide (q = p) := by
  revert h; revert p q; decide

theorem Thread.prd_prw (x : Thread) (p q : PReg) (b : Bool) : (x.prw p b).prd q = (q == 15 || (if q = p then b else x.prd q)) := by
  unfold Thread.prw Thread.prd
  by_cases hq : q = 15
  · simp [hq]
  by_cases hp : p = 15
  · have : q ≠ p := by rw [hp]; exact hq
    subst hp; rw [if_pos rfl, if_neg hq]; cases q == 15 <;> rfl
  · have hb := prd_bit q p hp
    have hlt : q.toNat < 15 := by
      clear hb; have := q.isLt; have : q.toNat ≠ 15 := fun e => hq (BitVec.eq_of_toNat_eq e); omega
    cases b <;> by_cases h : q = p <;> simp_all [BitVec.getLsbD_or, BitVec.getLsbD_and, BitVec.getLsbD_not]

theorem Thread.prd_pt (x : Thread) (q : PReg) : (q == 15 || x.prd q) = x.prd q := by
  unfold Thread.prd; cases q == 15 <;> simp

theorem Thread.prw_rest (x : Thread) (p : PReg) (b : Bool) : x.prw p b = { x with preds := (x.prw p b).preds } := by
  unfold Thread.prw; split <;> rfl

/-- Writing several predicates one after another. -/
theorem Thread.foldl_prw (ps : List (PReg × Bool)) (x : Thread) :
    (∀ n, (ps.foldl (fun x e => x.prw e.1 e.2) x).prd n = (n == 15 || (writtenP ps n).getD (x.prd n))) ∧
    ps.foldl (fun x e => x.prw e.1 e.2) x = { x with preds := (ps.foldl (fun x e => x.prw e.1 e.2) x).preds } := by
  induction ps generalizing x with
  | nil => exact ⟨fun n => (Thread.prd_pt x n).symm, rfl⟩
  | cons e l ih =>
    obtain ⟨h1, h2⟩ := ih (x.prw e.1 e.2)
    refine ⟨fun n => ?_, ?_⟩
    · rw [List.foldl_cons, h1, writtenP_cons, Thread.prd_prw]
      cases hn : n == 15 <;> simp
    · rw [List.foldl_cons, h2, Thread.prw_rest]

/-! ### Results and retirement -/

theorem Thread.put_advance (x : Thread) (h : Hints) (r : Res) : Retires x ((x.put r).advance h (r.pc.getD x.nextPc)) h r := by
  obtain ⟨a1, a2, a3⟩ := Thread.foldl_wr r.vs x
  obtain ⟨b1, b2⟩ := Thread.foldl_prw r.ps (r.vs.foldl (fun x e => x.wr e.1 e.2) x)
  have hr : ∀ n, (x.put r).rd n = (written r.vs n).getD (x.rd n) := fun n => by
    rw [← a1 n]; unfold Thread.put Thread.rd; dsimp only; rw [b2]
  have hc : (x.put r).cur = x.cur := by unfold Thread.put; dsimp only; rw [b2, a3]
  have hp : (x.put r).gap = x.gap := by unfold Thread.put; dsimp only; rw [b2, a3]
  have hg : (x.put r).gapOf h = x.gapOf h := by simp only [Thread.gapOf, hc, hp]
  refine ⟨fun n => ?_, fun w hw => ?_, fun p => ?_, ⟨?_, ?_⟩, rfl, ?_⟩
  · rw [← hr, ← Thread.rd_killWindows]; rfl
  · rw [← a2 w hw]
    unfold Thread.advance Thread.killWindows Thread.put
    dsimp only
    rw [b2]
    simp [BitVec.getLsbD_and, BitVec.getLsbD_not, hw]
  · have : (r.vs.foldl (fun x e => x.wr e.1 e.2) x).prd p = x.prd p := by rw [a3]; rfl
    rw [← this, ← b1]; rfl
  · unfold Thread.advance Thread.killWindows Thread.put; dsimp only; rw [b2, a3]
  · unfold Thread.advance Thread.killWindows Thread.put; dsimp only; rw [b2, a3]
  · unfold Thread.advance; rw [hg]; unfold Thread.killWindows Thread.put; dsimp only; rw [b2, a3]

/-! ### Banks -/

/-- What changes only the power state of register banks. -/
structure OnlyBanks (s s' : State) : Prop where
  cores : ∀ c, s'.core c = { s.core c with regPow := (s'.core c).regPow }
  rest  : s' = { s with cores := s'.cores }

theorem OnlyBanks.refl (s : State) : OnlyBanks s s := ⟨fun _ => rfl, rfl⟩

theorem OnlyBanks.trans {a b c : State} (h : OnlyBanks a b) (k : OnlyBanks b c) : OnlyBanks a c :=
  ⟨fun x => by rw [k.cores x, h.cores x], by rw [k.rest, h.rest]⟩

theorem OnlyBanks.foldl {α : Type} (f : State → α → State) (hf : ∀ s a, OnlyBanks s (f s a)) (l : List α) (s : State) :
    OnlyBanks s (l.foldl f s) := by
  induction l generalizing s with
  | nil => exact .refl s
  | cons a l ih => exact (hf s a).trans (ih _)

theorem modPow_only (s : State) (c : CoreRef) (f : Dict (Nat × Nat × Nat) Power → Dict (Nat × Nat × Nat) Power) :
    OnlyBanks s (s.modCore c fun k => { k with regPow := f k.regPow }) := by
  refine ⟨fun d => ?_, rfl⟩
  unfold State.modCore
  rw [State.core_setCore]
  split
  · next e => subst e; rfl
  · rfl

theorem setBank_only (s : State) (c : CoreRef) (b : Nat × Nat × Nat) (p : Power) : OnlyBanks s (s.setBank c b p) := modPow_only s c fun d => d.set b p

theorem wakeBank_only (s : State) (c : CoreRef) (b : Nat × Nat × Nat) : OnlyBanks s (s.wakeBank c b) := by
  unfold State.wakeBank; split <;> first | exact setBank_only .. | exact .refl s

theorem settleBank_only (s : State) (c : CoreRef) (b : Nat × Nat × Nat) : OnlyBanks s (s.settleBank c b) := by
  unfold State.settleBank
  split
  · exact .refl s
  · split
    · split <;> first | exact setBank_only .. | exact .refl s
    · exact modPow_only s c fun d => d.erase b

theorem wakeWindows_only (s : State) (t : TRef) (h : Nat) (m : BitVec 8) : OnlyBanks s (s.wakeWindows t h m) := by
  unfold State.wakeWindows
  split
  · exact .refl s
  · exact OnlyBanks.foldl _ (fun s w => by split <;> first | exact wakeBank_only .. | exact .refl s) _ s

theorem settleWindows_only (s : State) (t : TRef) (h : Nat) (m : BitVec 8) : OnlyBanks s (s.settleWindows t h m) := by
  unfold State.settleWindows
  split
  · exact .refl s
  · exact OnlyBanks.foldl _ (fun s w => by split <;> first | exact settleBank_only .. | exact .refl s) _ s

theorem wakeThreadBanks_only (s : State) (t : TRef) : OnlyBanks s (s.wakeThreadBanks t) := by
  unfold State.wakeThreadBanks
  split
  · exact .refl s
  · exact OnlyBanks.foldl _ (fun s w => by split <;> first | exact wakeBank_only .. | exact .refl s) _ s

/-- Errors go away and none appears. -/
theorem clearPois_spec (s : State) (t : TRef) (y : Thread) (r : Res) :
    s.clearPois t y r = { s with regPois := (s.clearPois t y r).regPois } ∧ ∀ e ∈ (s.clearPois t y r).regPois, e ∈ s.regPois := by
  unfold State.clearPois
  split
  · exact ⟨rfl, fun _ h => h⟩
  · exact ⟨rfl, fun _ h => (List.mem_filter.1 h).1⟩

/-- What retirement does, but for the trap of a stepping thread. -/
theorem retire_spec (s : State) (t : TRef) (x : Thread) (h : Hints) (r : Res) :
    ∃ s' y, s'.thread? t = some y ∧ Retires x y h r ∧ OnlyThread s s' t ∧ s.retire t x h r = afterStep s' t x y.pc := by
  let y := (x.put r).advance h (r.pc.getD x.nextPc)
  have hy : Retires x y h r := Thread.put_advance x h r
  have hw := wakeWindows_only s t x.htid (y.live &&& ~~~x.live)
  let s0 := s.wakeWindows t x.htid (y.live &&& ~~~x.live)
  have hs := settleWindows_only (s0.setThread t y) t x.htid (x.live &&& ~~~y.live)
  let s1 := (s0.setThread t y).settleWindows t x.htid (x.live &&& ~~~y.live)
  obtain ⟨hp, he⟩ := clearPois_spec s1 t y r
  let s2 := s1.clearPois t y r
  have h0 : s0 = { s with cores := s0.cores } := hw.rest
  have h1 : s1 = { s0.setThread t y with cores := s1.cores } := hs.rest
  have ht : s2.threads = (s0.setThread t y).threads := by rw [show s2 = _ from hp]; exact (congrArg State.threads h1 :)
  have hth : s0.threads = s.threads := (congrArg State.threads h0 :)
  refine ⟨s2, y, ?_, hy, ⟨fun u hu => ?_, fun a => ?_, fun c => ?_, fun e h => ?_, ?_⟩, ?_⟩
  · unfold State.thread?; rw [ht]; exact State.thread?_setThread_self ..
  · have : s0.thread? u = s.thread? u := by unfold State.thread?; rw [hth]
    rw [← this]
    unfold State.thread?; rw [ht]; exact State.thread?_setThread_ne _ _ hu
  · have : s2.mem = s.mem := by
      rw [show s2 = _ from hp]
      exact (congrArg State.mem h1 :).trans (congrArg State.mem h0 :)
    unfold State.memByte
    rw [this]
  · have hc : s2.core c = s1.core c := by unfold State.core; rw [show s2 = _ from hp]
    have e1 : s1.core c = { s0.core c with regPow := (s1.core c).regPow } := hs.cores c
    have e0 : s0.core c = { s.core c with regPow := (s0.core c).regPow } := hw.cores c
    rw [hc, e1, e0]
  · have : s1.regPois = s.regPois := (congrArg State.regPois h1 :).trans (congrArg State.regPois h0 :)
    rw [← this]
    exact he e h
  · have e1 : s1 = { s with threads := s1.threads, cores := s1.cores } := by
      have a : s1.threads = (s.setThread t y).threads := (congrArg State.threads h1 :).trans (by
        show s0.threads.set t y = s.threads.set t y
        rw [hth])
      rw [a]
      refine h1.trans ?_
      show ({ s0.setThread t y with cores := s1.cores } : State) = _
      conv => lhs; rw [h0]
      rfl
    rw [show s2 = _ from hp, e1]
  · have hstep : y.step = x.step := by rw [hy.rest]
    unfold State.retire afterStep
    simp only [← hstep]
    rfl

/-- An instruction that only computes completes with its results wherever it runs. -/
theorem gives_of_compute (i : Instr) (f : Thread → Res) (h : ∀ s, exec i s = compute s i f) : Gives i f := by
  intro s t x g r
  obtain ⟨s', y, h1, h2, h3, h4⟩ := retire_spec s t x i.hints (f x)
  refine ⟨s', y, h1, h2, h3, ?_⟩
  rw [h, ← h4]
  unfold compute issue
  simp only [r.cur, r.thread, r.group, r.gate]

end Sys2Proof.Machine
end

