-- ==== Sys2Proof/Tests/Slice0.lean ====
section
/-! SUPPORT. The model's own tests: decoding of words written from the encoding tables of the spec, ill-formed terms that the checks refuse,
results that the spec works out, and for every statement with hypotheses a state and operands that meet them. -/
set_option Elab.async false

namespace Sys2Proof.Tests
open Sys2Proof Sys2Proof.Machine

abbrev h : Hints := Hints.none
abbrev t0 : TRef := demoThread
abbrev g0 : GRef := demoThread.group
abbrev c0 : CoreRef := demoThread.coreRef

/-- A group of 32 threads on core 0 of which the first issues (log 12). -/
def demo (r : Role) : State := { State.reset.demo r with cur := some t0, issueQ := [] }

def thr (s : State) : Thread := (s.thread? t0).getD (Thread.start 0 0 8)
def grp (s : State) : Group := (s.group? g0).getD (demoGroup .general)
def upd (s : State) (f : Thread → Thread) : State := s.setThread t0 (f (thr s))
def updG (s : State) (f : Group → Group) : State := s.setGroup g0 (f (grp s))
def updC (s : State) (f : Core → Core) : State := s.modCore c0 f
/-- A register pair of the issuing thread. -/
def pair (n : VReg) (v : Nat) (x : Thread) : Thread := (x.wr n (BitVec.ofNat 32 v)).wr (n + 1) (BitVec.ofNat 32 (v / 2 ^ 32))

/-- The issuing thread's checks let i execute. -/
def runs (s : State) (i : Instr) : Bool :=
  match s.cur with
  | none => false
  | some t =>
    match s.thread? t, s.group? t.group with
    | some x, some g => s.gate t x g i == .run
    | _, _ => false

/-- Where it does, the hypothesis Runs of the statements is met. -/
theorem runs_meets (s : State) (i : Instr) (hr : runs s i = true) : ∃ t x g, Runs s i t x g := by
  unfold runs at hr
  split at hr
  · cases hr
  · rename_i t ht
    split at hr
    · rename_i x g hx hg
      exact ⟨t, x, g, ht, hx, hg, by simpa using hr⟩
    · cases hr

/-- The thread after an instruction. -/
def after (i : Instr) (s : State) : Option Thread :=
  match exec i s with
  | .next s' => s'.thread? t0
  | _ => none

/-- The state after an instruction. -/
def run (i : Instr) (s : State) : State :=
  match exec i s with
  | .next s' => s'
  | _ => s

def decodesTo (l : List (BitVec 96 × Instr)) : Bool :=
  l.all fun p => match decode p.1 with
    | .ok i => decide (i = p.2)
    | .error _ => false

/-- Every one of the listed conditions holds. -/
def allOf (l : List Bool) : Bool := l.all id

/-! ### Hypotheses of the statements about control flow -/

def D : State := demo .general

/-- The page of the demo as a page of the pool. -/
def pooled (s : State) : State :=
  (s.homePut 0 0 0x20000 (bytesOfNat 8 0xC80000000000001C)).modPart 0 fun p => { p with poolwin := modNth p.poolwin 0 fun _ => 0x8000000000400000 }

theorem witness_HomeMemory : allOf (
    let s : State := { D with keyTag := Tab.put 0 [] 512 3 }
    [D.sectorPlain (D.sectorKey 0 0 512) 512, D.sectorPlain (D.sectorKey 0 0 (2 ^ 24 - 1)) (2 ^ 24 - 1), Tab.get 0 s.keyTag 512 = 3, Tab.get 0 s.keyTag 513 = 0,
     !s.sectorPlain (s.sectorKey 0 0 512) 512, s.sectorKey 0 0 512 ≠ 0, s.sectorKey 0 0 512 ≠ 3, (3 : Nat) ≠ lostTag, !(s.line 256).held,
     ((s.modLine 256 fun r => { r with held := true, key := 9 }).line 256).held]) = true := by decide +kernel

theorem witness_StepRunsDecoded : allOf (
    let s : State := { D with issueQ := [t0], cur := none }
    let s0 : State := { s with issueQ := [], cur := some t0 }
    let mk (v : Nat) (m : List Byte) : State := (s0.homePut 0 0 v m).setThread t0 { thr s0 with pc := BitVec.ofNat 56 v }
    let got (s : State) := (s.fetchWord t0 (thr s).pc.toNat).2
    [s0.canIssue t0 (thr s0) = true, s0.canIssue t0 { thr s0 with st := .exited } = false,
    (match got (mk 0x8000 [0x01, 0xF0, 0xFE, 0xFF, 0xFF, 0xFF, 0xFF, 0xFF, 1]) with | .word w => decide (decode w = .ok (.nop h)) | _ => false),
    (match got (mk 0x8000 [0x00, 0xF0]) with | .word w => (match decode w with | .error _ => true | _ => false) | _ => false),
    (match got (mk (2 ^ 40) []) with | .park _ _ => true | _ => false),
    (match got { mk 0x8000 [] with poison := Tab.put false [] (0x8000 / 64) true } with | .poison => true | _ => false),
    -- The same address in a page of the pool, whose line is not here.
    (match got (pooled (mk 0x8000 [])) with | .wait => true | _ => false)]) = true := by decide +kernel

theorem witness_EveryInstructionGoesOn : allOf (

    [D.cur = some t0, (D.thread? t0).isSome, (D.group? g0).isSome,
    (D.kernel? ((grp D).kref g0)).isSome]) = true := by decide +kernel

theorem witness_FloatSpecialOperands : allOf (
    let a := 0x7FC00000; let n := 0x3F800000; let i := 0x7F800000; let m := 0xFF800000
    [f32.isNan a = true, f32.isNan n = false, f32.isSnan 0x7F800001 = true, f32.mag i = f32.infCode, f32.mag m = f32.infCode,
    f32.neg m = true, f32.neg i = false, f32.mag (f32.flush true 0x80000001) = 0, f32.mag (f32.flush false 0x80000001) ≠ 0,
    f32.neg n = false, f32.neg 0xBF800000, f32.mag n ≠ f32.infCode,
    -- The halves of FDOT2: a NaN, an infinity against a zero, and infinite products of both signs.
    bf16.isNan (0x7FC0 % 2 ^ 16), bf16.mag (0x7F80 % 2 ^ 16) = bf16.infCode, bf16.mag (0x3F807F80 / 2 ^ 16) ≠ bf16.infCode, bf16.mag (bf16.flush false 0) = 0,
    bf16.neg 0x7F80 != bf16.neg 0xBF80, bf16.neg 0x7F80 == bf16.neg 0x3F80]) = true := by decide +kernel

theorem witness_IssueChecksInOrder : allOf (
    let s := D
    let x := thr s
    [s.canIssue t0 x = true, (Instr.lea h false 3 11 12 3).wf = false, (Instr.tcopy h 0 4).wf = true,
    (Instr.tcopy h 0 4).roleOk .general = false, (Instr.nop h).roleOk .general = true,
    (s.parkedEntries t0).isEmpty, x.step = false, x.h = false,
    overBudget (.iadd h false false 16 (.reg 0) (.imm 0)) 1 = true, overBudget (.iadd h false false 15 (.reg 0) (.imm 0)) 1 = false,
    s.bankBusy t0 x (.nop h) = false, State.regPois { s with regPois := [(t0, 131)] } = [(t0, 128 + (3 : PReg).toNat)], (s.pendingInstrs t0).isEmpty,
    x.guard { h with gp := 0 } = false, x.guard { h with gp := 15, gn := true } = false, x.guard h = true,
    readsDead (.iadd h false false 0 (.reg 16) (.imm 0)) 1 = true, readsDead (.iadd h false false 0 (.reg 15) (.imm 0)) 1 = false,
    State.readsPoison { s with regPois := [(t0, 3)] } t0 (.iadd h false false 0 (.reg 3) (.imm 0)) = true,
    x.st ≠ .parked, s.unretired t0 = false]) = true := by decide +kernel

theorem witness_BranchAndCallResults : allOf (
    let s := upd D (pair 4 0x8000)
    let s1 := s.homePut 0 0 0x8000 [0x0F, 0xF0, 0xFE, 0xFF, 0xFF, 0x11]
    let s9 := s.homePut 0 0 0x8000 [0x0F, 0xF0, 0xFE, 0xFF, 0xFF, 0x13]
    let e (s : State) := match (s.fetchWord t0 0x8000).2 with | .word w => enterOf w | _ => none
    [runs s (.brx h 4 0), ((thr s).rdPair 4).toNat = 0x8000, runs (upd D (pair 4 0x8002)) (.ret h 4),
    runs (upd D (pair 4 (2 ^ 56))) (.callx h 6 4 0), ((thr (upd D (pair 4 (2 ^ 56)))).rdPair 4).toNat = 2 ^ 56,
    runs s (.enter h 8), runs s (.enter h 1), (grp s).w = 8, (grp (updG s fun g => { g with w := 7 })).w < 8,
    runs s1 (.call h 6 0), e s1 = some 8, (e s9 = none ∨ e s9 = some 9), e s = none]) = true := by decide +kernel

theorem witness_RejoinBarriersAndSleep : allOf (
    let s := upd D fun x => (x.enrol 0).wr 1 5
    [runs s (.jwait h 0), (thr s).enrolled 0 = true, (thr s).enrolled 15 = false, (thr s).arrived 0 = false,
    runs s (.sleep h (some 1) 0), ((thr s).rd 1).toNat = 5, runs s (.sleep h none 0), !s.deadlineDue t0 (thr s),
    (let z := upd s fun x => { x with deadline := some 0 }
     z.deadlineDue t0 (thr z) && runs z (.sleep h none 9)),
    (s.threads.map (·.1)).Nodup,
    (let s2 := run (.jwait h 0) (upd (D.setThread { t0 with rank := 1 } ((thr D).enrol 0)) fun x => x.enrol 0)
     (thr s2).st = .wait ∧ (thr s2).ph = .rejoin 0 ∧ (thr s2).arrived 0 = true),
    -- The only enrolled thread has arrived.
    (let s3 := upd D fun x => { (x.enrol 0).arrive 0 with st := .wait, ph := .rejoin 0 }
     s3.threads.all fun e => decide (e.2.enrolled 0 = true → e.2.arrived 0 = true ∧ e.2.ph = .rejoin 0 ∧ e.2.st = .wait ∧ e.2.step = false))]) = true := by decide +kernel

theorem witness_TrapEntry : allOf (
    let s := D
    let x := thr s
    [x.h = false, (grp s).handler ≠ 0, (s.ctx t0.ctxRef).st = .active, t0.part < s.parts.length, x.st ≠ .parked,
    s.unretired t0 = false, runs s (.bkptN h 7), runs s (.trapN h 7), (thr (upd s fun x => { x with h := true })).h = true]) = true := by decide +kernel

theorem witness_ThreadExit : allOf (

    [runs D (.exitThread h), D.npark t0 = 0, D.unretired t0 = false]) = true := by decide +kernel

theorem witness_CrossLaneRendezvous : allOf (
    let s := run (.redux h .add .n32 4 3 none) D
    [(thr s).st = .wait, (thr s).meets 0x100000 0xFFFFFFFF = some (0, 0),
    (((List.range 32).filterMap fun l => s.thread? (g0.thread l)).filter fun x => x.meets 0x100000 0xFFFFFFFF == none).length = 31,
    (let s1 := run (.redux h .add .n32 4 3 (some 1)) D
     (thr s1).st = .ready ∧ (thr s1).pc = 0x10000C),
    -- Every member of mask 1 stands at the rendezvous.
    (let s2 := upd D fun x => { x with st := .wait, ph := .rendezvous 1 4 5, cur := some (.redux h .add .n32 4 3 (some 1)) }
     (thr s2).meets 0x100000 1 = some (4, 5) ∧ (thr s2).step = false ∧ (thr s2).cur.isSome)]) = true := by decide +kernel

theorem witness_CrossLaneResults : allOf (
    let ms : List Member := [⟨0, 5, 31⟩, ⟨3, 7, 3⟩, ⟨31, 9, 0⟩]
    [(ms.map (·.lane)).Pairwise (· < ·), (∀ n ∈ ms, n.lane < 32),
     -- .up of the first lane is out of range and of the second lands on lane 0; .down of the second on no member and of the first out of range.
     (0 : Int) - 31 < 0, (3 : Int) - 3 = 0, (∀ n ∈ ms, (n.lane : Int) ≠ 3 + 3), 31 < (0 : Int) + 63,
     (ms.filter fun n => n.lane < 0).isEmpty, !(ms.filter fun n => n.lane < 3).isEmpty, 2 ^ 1 < ms.length ∧ ms.length ≤ 2 ^ 2,
     (∀ n ∈ ms, 5 ≤ n.a.toInt), (∀ n ∈ ms, n.a.toNat ≤ 9)]) = true := by decide +kernel

/-! ### Hypotheses of the statements about memory -/

/-- The page of the demo is in the TLB, and d4 holds a global address. -/
def DT (a : Nat) : State := upd (D.translate t0.ctxRef 0 0x8000 .read).1 (pair 4 a)
def req (s : State) (i : Instr) : Req := (reqOf 0 (thr s) i).getD ⟨0, 0, .read, [], false⟩
def win (s : State) (i : Instr) : Except Cause Win := s.window t0 (grp s) (req s i).ea (req s i).size
def isErr (r : Except Cause Win) (c : Cause) : Bool := match r with | .error d => d == c | .ok _ => false
def isLoc (r : Except Cause Win) (o : Nat) : Bool := match r with | .ok (.loc p) => p == o | _ => false
def isGlob (r : Except Cause Win) (v : Nat) : Bool := match r with | .ok (.glob p) => p == v | _ => false
def isGang (r : Except Cause Win) (c o : Nat) : Bool := match r with | .ok (.gang d p) => d == c && p == o | _ => false
def atPlace (s : State) (i : Instr) (va : Nat) (acc : Acc) (l : Place) : Bool := s.probe t0 (thr s) (grp s) i va acc == .place l
/-- Pod time holds. -/
def podded (s : State) : State := { s with time := { s.time with st := .holdover } }

/-- The first and the last bytes of the one bank that the group holds. -/
theorem witness_OwnScratchpadAccess : allOf (
    let a := 0xFD00000000000000
    let s := upd D (pair 4 a); let z := upd D (pair 4 (a + 0x7FFC)); let l := upd D fun x => x.wr 4 0x7FF0
    let ld : Instr := .ld h .b32 none 5 4 none 0; let st : Instr := .st h .n8 none 5 4 none 3
    let at' : Instr := .atom h .add .n32 .relaxed .core 7 4 0 3; let cs : Instr := .cas h .n32 .acq .die 7 4 0 2
    let pod : Instr := .ld h .b32 (some .pod) 5 4 none 0
    let slow := updC s fun c => { c with scrPow := [(0, (.retention, 0))] }
    let full (s : State) := (List.range 96).all fun b => decide (b ≠ 0) || s.scrPower c0 b == .full
    (List.append [runs s ld, isLoc (win s ld) 0, (req s ld).ea.toNat % 4 = 0, isLoc (win z ld) 0x7FFC, isLoc (win z st) 0x7FFF, runs z st,
     runs s at', isLoc (win s at') 0, runs s cs, isLoc (win s cs) 0, !s.scrDead t0.ccRef 0 4, !s.scrDead t0.ccRef 0x7FFC 4,
     !s.scrPoisoned t0.ccRef 0 4, !s.slotBusy t0 (thr s), !s.unretired t0, !s.shadowed t0.ccRef 0, !at'.podOrdered, at'.relScope == none]
     [runs l (.ldSp h .b128 false 8 4 none 0), isLoc (win l (.ldSp h .b128 false 8 4 none 0)) 0x7FF0,
     (spOf (thr l) 4 none 0).toNat < 0x300000, runs l (.stSp h .b32 false 8 4 none 4), (win l (.stSp h .b32 false 8 4 none 4)).isOk,
     runs s (.red h .max .i32 .relaxed .core 4 8 3), runs (podded s) pod, (podded s).podOk, pod.acqScope == some .pod, pod.relScope == none, ld.acqScope == none,
     full s, runs slow ld, isLoc (win slow ld) 0, !full slow, ld.isLoad, at'.isAtomic, !at'.isRed,
     Instr.relScope (.st h .b32 (some .die) 5 4 none 0) == some .die, runs s (.st h .b32 (some .die) 5 4 none 0)])) = true := by decide +kernel

theorem witness_GlobalAccessIssue : allOf (
    let s := DT 0x8000
    let ld : Instr := .ld h .b32 none 5 4 none 0; let st : Instr := .st h .b64 none 6 4 none 8
    let rel : Instr := .st h .b32 (some .die) 6 4 none 0; let red : Instr := .red h .add .n32 .relaxed .die 4 0 3
    let arel : Instr := .atom h .add .n32 .acqrel .die 7 4 0 3; let apod : Instr := .atom h .add .n32 .acq .pod 7 4 0 3
    let acq (sc : Scope) : Instr := .ld h .b32 (some sc) 5 4 none 0
    let m : Place := .mem 0x8000 0 0 false; let m8 : Place := .mem 0x8008 0 0 false; let far : Place := .mem 0x8008 0 0 true
    let key := s.keyOf 0 0
    let hit := updC s fun c => { c with l1 := [{ line := m.lineNo 0, bytes := List.replicate 128 1, lexp := 1, lwct := 0, pwct := 0, key := key, prio := 1, used := 0, pois := [] }] }
    let err := updC hit fun c => { c with l1 := c.l1.map fun l => { l with pois := [0] } }
    let pool := upd ((pooled D).translate t0.ctxRef 0 0x8000 .write).1 (pair 4 0x8000)
    let full := updC pool fun c => { c with wc := (List.range 64).map fun i =>
      { id := i, loc := .mem (0x100000 + 128 * i) 0 0 false, bytes := [], mask := [], cov := [], thrs := [], first := 0, ch := 0 } }
    (List.append [runs s ld, isGlob (win s ld) 0x8000, atPlace s ld 0x8000 .read m, ((s.core c0).l1Hit (m.lineNo 0) (s.coreTime c0)).isNone,
     ((hit.core c0).l1Hit (m.lineNo 0) (hit.coreTime c0)).any fun l => !l.bad 0 4,
     ((err.core c0).l1Hit (m.lineNo 0) (err.coreTime c0)).any fun l => l.bad 0 4, runs hit ld, runs err ld, atPlace hit ld 0x8000 .read m, !s.slotBusy t0 (thr s), runs s st, isGlob (win s st) 0x8008,
     (req s st).ea.toNat % 8 = 0, atPlace s st 0x8008 .write m8, !s.viaWc t0 m8, runs s rel, rel.relScope == some .die,
     runs s red, atPlace s red 0x8000 .both m, red.isAtomic, red.relScope == none, arel.relScope == some .die, runs s arel, !s.unretired t0]
     [runs s (acq .die), runs (podded s) (acq .pod), (podded s).podOk, atPlace (podded s) (acq .pod) 0x8000 .read m, runs (podded s) apod, apod.acqScope == some .pod,
     apod.relScope == none, runs pool st, isGlob (win pool st) 0x8008, atPlace pool st 0x8008 .write far, pool.viaWc t0 far, !(pool.core c0).wcFull far,
     (full.core c0).wcFull far, runs full st, atPlace full st 0x8008 .write far])) = true := by
  decide +kernel

theorem witness_AccessChecksAndParks : allOf (
    let ld : Instr := .ld h .b32 none 5 4 none 0; let st : Instr := .st h .b32 none 6 4 none 0
    let w (a : Nat) := win (upd D (pair 4 a)) ld
    let dead := { upd D (pair 4 0xFD00000000000000) with holds := (D.setHolding t0.ccRef { D.holding t0.ccRef with banks := [(0, { grp := 0, live := false })] }).holds }
    [isErr (w 0xFB00000000000000) .badwin, isErr (w 0xFD00000000008000) .badwin, isErr (w 0xFD00000100000000) .spforeign,
     isErr (w (2 ^ 56 - 3)) .badwin, isGlob (w (2 ^ 56 - 4)) (2 ^ 56 - 4), isErr (w 0xFC00000000008000) .badwin, isLoc (w 0xFC00000000007FFC) 0x7FFC,
     isErr (w 0xFC00100000000000) .badwin, isErr (w 0xFE00000000000100) .badwin, isGlob (w 0xFE000000000000FC) 0x4000FC,
     runs (DT 0x8001) ld, isGlob (win (DT 0x8001) ld) 0x8001, runs dead ld, isLoc (win dead ld) 0, dead.scrDead t0.ccRef 0 4,
     -- The key of the page is gone.
     (let s := (DT 0x8000).modPart 0 fun p => { p with keylive := 0 }
      runs s ld && match s.probe t0 (thr s) (grp s) ld 0x8000 .read with | .park _ => true | _ => false),
     -- An older load of the line has not returned.
     (let s := run (.ld h .b32 none 7 4 none 0) (DT 0x8000)
      runs s (.ld h .b32 none 6 4 none 4) && s.probe t0 (thr s) (grp s) (.ld h .b32 none 6 4 none 4) 0x8004 .read == .hold),
     !st.podOrdered]) = true := by decide +kernel

/-- Two cores of one gang. -/
def DG : State :=
  let s := updG D fun g => { g with gangN := 2 }
  let s := s.setGang { part := 0, ctx := 1, kidx := 0, gang := 0 } { lat := 0, cores := [0, 1], grps := [0, 0], gbs := List.replicate 4 BarRec.clear, latch := none }
  (s.setHolding { demoCC with core := 1 } demoHolding).setGroup { g0 with core := 1 } { grp s with grank := 1, gangN := 2 }

theorem witness_GangScratchpadAccess : allOf (
    let s := upd DG (pair 4 0xFC00100000007FFC)
    let ld : Instr := .ld h .b32 none 5 4 none 0; let st : Instr := .st h .b32 none 5 4 none 0
    let red : Instr := .red h .add .n32 .relaxed .die 4 0 3; let at' : Instr := .atom h .add .n32 .acq .die 7 4 0 3
    [runs s ld, isGang (win s ld) 1 0x7FFC, runs s st, isGang (win s st) 1 0x7FFC, runs s red, runs s at', at'.isAtomic, red.isRed,
     at'.relScope == none, !s.slotBusy t0 (thr s), !s.unretired t0]) = true := by decide +kernel

theorem witness_WritesPerformedAtHome : allOf (
    let s := run (.st h .b32 none 6 4 none 0) (DT 0x8000)
    let a := run (.atom h .add .n32 .relaxed .die 7 4 0 3) (DT 0x807C)
    let m := ((s.core c0).mop? 0); let n := ((a.core c0).mop? 0)
    [m.any fun m => m.kind == .store && m.ans == .pending && m.loc == .mem 0x8000 0 0 false && m.mask.length == m.data.length
       && !(s.core c0).olderWrite m && !s.scopeRefuses m && s.homeReaches c0 m.loc,
     m.any fun m => State.scopeRefuses { s with lines := Dict.set s.lines 0x100 { LineRec.none with scope := some (7, .core, 1) } }
       { m with kind := .release, instr := .st h .b32 (some .core) 6 4 none 0 },
     s.sectorPlain (s.keyOf 0 0) 0x8000,
     n.any fun m => m.kind == .atomic && m.ans == .pending && m.loc == .mem 0x807C 0 0 false && m.size == 4 && !(a.core c0).olderWrite m
       && !a.scopeRefuses m && a.homeReaches c0 m.loc && (atomicNew m.instr (bytesWords m.data) 0).isSome,
     !a.poisoned 0x807C 4, a.sectorPlain (a.keyOf 0 0) 0x807F,
     (atomicNew (.cas h .n32 .relaxed .die 7 4 0 2) [1, 2] 0).isNone, (atomicNew (.cas h .n32 .relaxed .die 7 4 0 2) [0, 2] 0) == some 2]) = true := by
  decide +kernel

/-- An operation of the issuing thread that its core has not been answered for, its thread standing at the answer. -/
def sentOp (kind : MKind) (i : Instr) (loc : Place) (ans : Ans) : State :=
  let m : MOp :=
    { seq := 0, born := 0, thr := t0, entry := none, kind := kind, instr := i, pc := 0x100000, gen := (D.ctx t0.ctxRef).gen, ea := 0x8000,
      loc := loc, size := 4, data := [], mask := [], contrib := [], cov := [], ans := ans }
  upd (updC (DT 0x8000) fun c => { c with seq := 1, mops := [m] }) fun x => standing x i (.answer 0)

theorem witness_AnswersToThreads : allOf (
    let done (i : Instr) := run (.storePerformedAtHome c0 0 false) (run i (DT 0x8000))
    let s := done (.st h .b32 none 6 4 none 0); let a := done (.atom h .add .n32 .relaxed .die 7 4 0 3)
    let q := run (.ld h .b32 (some .die) 6 4 none 0) (DT 0x8000); let l := run (.ld h .b128 none 8 4 none 0x70) (DT 0x8000)
    let isDone (m : MOp) : Bool := match m.ans with | .done _ _ => true | _ => false
    let at' : Instr := .atom h .add .n32 .relaxed .die 7 4 0 3; let ld : Instr := .ld h .b32 none 5 4 none 0
    let m : Place := .mem 0x8000 0 0 false
    let op (s : State) (f : MOp → Bool) : Bool := ((s.core c0).mop? 0).any f
    let scr := sentOp .load ld (.scr 0 0) .pending
    let off := { scr with holds := (scr.setHolding t0.ccRef { scr.holding t0.ccRef with banks := [(0, { grp := 0, live := false })] }).holds }
    [op s fun m => m.kind == .store && m.contrib.isEmpty && isDone m && m.thr == t0,
     op a fun m => m.kind == .atomic && !m.silent && m.entry == none && isDone m,
     [Ans.refused, .dead, .failed, .pending].all fun w => op (sentOp .atomic at' m w) fun m => m.kind == .atomic && !m.silent && m.entry == none && m.ans == w && m.thr.coreRef == c0,
     op q fun m => m.kind == .acquire && m.entry == none && m.ans == .pending && m.gen == (q.ctx t0.ctxRef).gen && !q.scopeRefuses m && q.homeReaches c0 m.loc,
     !(q.core c0).budgetHeld, !q.poisoned 0x8000 128, (thr q).ph == .answer 0,
     op l fun m => m.kind == .load && m.loc == .mem 0x8070 0 0 false && 0x8070 % 128 + m.size ≤ 128 && m.gen == (l.ctx t0.ctxRef).gen && l.homeReaches c0 m.loc,
     (List.range 128).all fun i => l.sectorPlain (l.keyOf 0 0) (0x8000 + i), !(thr l).step,
     op scr fun m => m.loc == .scr 0 0 && scr.homeReaches c0 m.loc, scr.scrPower c0 0 == .full, !scr.scrDead t0.ccRef 0 4, !scr.scrPoisoned t0.ccRef 0 4, off.scrDead t0.ccRef 0 4]) = true := by decide +kernel

theorem witness_Fences : allOf (
    let s := D
    let f := run (.fence h .die) D; let g := run (.gwmax h 6) D
    let later (s : State) : State := { s with time := { s.time with gtime := 100 } }
    let at' : Instr := .atom h .add .n32 .acqrel .die 7 4 0 3
    let ar := run at' (DT 0x8000); let sr := run (.st h .b32 (some .die) 6 4 none 0) (DT 0x8000)
    let loc : Place := .mem 0x8000 0 0 false
    let pod := upd (podded D) fun x => { x with ph := .fence (some .pod) [] [] .retire, cur := some (.fence h .pod) }
    [runs s (.fence h .pod), !s.podOk, runs s (.fence h .core), runs s (.wcflush h), runs s (.gwmax h 6), !s.slotBusy t0 (thr s),
     (podded s).podOk, runs (podded s) (.fence h .pod), !s.unretired t0,
     (thr f).ph == .fence (some .die) [] [] .retire, (thr f).wctmax.toNat ≤ (f.coreTime c0).toNat, f.ctxRuns t0.ctxRef, (thr f).cur.isSome,
     (thr (run (.fence h .pkg) D)).ph == .fence (some .pkg) [] [] .retire, (thr f).wctmax.toNat + 16 ≤ ((later f).coreTime c0).toNat,
     (thr pod).wctmax.toNat + pod.epsilon ≤ ((State.coreTime { pod with time := { pod.time with gtime := 100000 } } c0)).toNat, (thr pod).ph == .fence (some .pod) [] [] .retire,
     !State.podOk { pod with time := { pod.time with st := .lost } },
     (thr ar).ph == .fence (some .die) [] [] (.send loc), (thr ar).cur == some at', !ar.lowerLane t0 (thr ar) (.send loc), (reqOf 0 (thr ar) at').isSome,
     (thr sr).ph == .fence (some .die) [] [] (.send loc), !sr.lowerLane t0 (thr sr) (.send loc),
     (thr g).ph == .fence none [] [] .gwmax, !(g.core c0).owes t0, !f.unretired t0]) = true := by decide +kernel

theorem witness_AddressWaits : allOf (
    let s := upd (DT 0x8000) fun x => x.wr 1 5
    let i : Instr := .waitaddr h 4 0 (some 1)
    let w := run i s; let z := run (.sleep h none 9) D
    let later (s : State) : State := { s with time := { s.time with gtime := 1000 } }
    let bump (s : State) : State := run (.storePerformedAtHome c0 0 false) (updC s fun c => { c with mops := ((run (.st h .b32 none 6 4 none 0) (DT 0x8000)).core c0).mops })
    let stands (s : State) : Option (Nat × Nat) := match (thr s).ph with | .address _ l _ n => some (n, (s.line l).writes) | _ => none
    let seen := upd s fun x => { x with wline := 0x8000, wseen := 7 }
    [runs s (.waitaddr h 4 0 none), runs s (.waitaddr h 4 0 (some 2)), (thr s).rd 2 = 0, runs s i, atPlace s i 0x8000 .read (.mem 0x8000 0 0 false), !(s.core c0).budgetHeld,
     runs (upd D (pair 4 0xFD00000000000000)) (.waitaddr h 4 0 none), isLoc ((upd D (pair 4 0xFD00000000000000)).window t0 (grp D) 0xFD00000000000000 1) 0,
     (thr w).st == .wait, (stands w).any fun p => p.1 == p.2, w.ctxRuns t0.ctxRef, runs seen i, (stands (run i seen)).any fun p => p.1 != p.2,
     !w.deadlineDue t0 (thr w), (later w).deadlineDue t0 (thr w), (stands (bump w)).any fun p => p.1 != p.2,
     (thr z).ph == .sleep, !z.deadlineDue t0 (thr z), (later z).deadlineDue t0 (thr z)]) = true := by decide +kernel

theorem witness_WindowAndHintResults : allOf (
    let s := DT 0x8000
    [runs s (.sptest h 5 4), runs s (.spcastGen h 6 4), runs s (.spcastSp h 5 4), runs s (.pref h false 4 none 0), runs s (.cctlInv h 4 0),
     runs s (.cctlWb h 4 0), runs s (.cctlInvall h), !s.slotBusy t0 (thr s), isGlob (s.window t0 (grp s) 0x8000 1) 0x8000,
     (match (s.translate t0.ctxRef 0 0x8000 .hint).2 with | .ok p => p == .mem 0x8000 0 0 false | _ => false)]) = true := by decide +kernel

theorem witness_BanksLeasesAndTimers : allOf (
    let s := run (.st h .b32 none 6 4 none 0) (upd DG (pair 4 0xFC00100000000000))
    let owed := s.setThread t0 (thr D)
    [runs D (.sdrop h 0 1), (D.holding t0.ccRef).owns 0 0, !(D.holding t0.ccRef).owns 0 1, runs D (.sdrop h 0 2), runs D (.swake h 0 1), runs D (.swake h 95 1),
     !D.scrOwed t0, owed.scrOwed t0, runs owed (.sdrop h 0 1), (D.holding t0.ccRef).bankLive 0, !D.slotBusy t0 (thr D),
     (s.core c0).wc.length == 1, (s.core c0).wc.all fun w => w.id == 0 && w.first == 0,
     (32000 : DWord).toNat ≤ (State.time { s with time := { s.time with gtime := 32000 } }).gtime.toNat]) = true := by decide +kernel
/-- A SIGNAL whose fence is over is sent, performed at its home, and answered: the thread goes on. -/
theorem test_signal_completes : allOf (
    let s := upd (DT 0x8000) fun x => x.wr 1 7
    let later (s : State) : State := { s with time := { s.time with gtime := 100 } }
    let a := run (.fenceComplete t0) (later (run (.signalAdd h 4 (.reg 1)) s))
    let b := run (.atomicAnswer c0 0) (run (.storePerformedAtHome c0 0 false) a)
    [(thr a).ph == .answer 0, b.memByte 0x8000 == 7, (thr b).st == .ready && (thr b).ph == .none, (thr b).pc == 0x10000C]) = true := by decide +kernel

/-! ### Hypotheses of the statements about engines and barriers -/

/-- A copy group whose d4 points to a descriptor at 0x8000. -/
def DC (a : Nat) : State := upd ((demo .copy).translate t0.ctxRef 0 0x8000 .read).1 (pair 4 a)
def chanOf (f : Chan → Chan) (s : State) : State := s.modChan t0.ccRef 0 f

/-- A raw TCOPYS of 128 bytes within the bank. -/
def rawCopy : Copy := { kind := .tcopys, desc := 2 ^ 300 + 0xFF * 2 ^ 256 + 0x100 * 2 ^ 192 + 128 * 2 ^ 176 + 2 ^ 160, rank := 0, grp := 0, ch := 0, since := 0 }
/-- A raw TSTORE of it to address 0x9000. -/
def rawStore : Copy := { rawCopy with kind := .tstore, desc := 2 ^ 300 + 0x100 * 2 ^ 192 + 128 * 2 ^ 176 + 2 ^ 160 + 0x9000 }

theorem witness_CopyChannelInstructions : allOf (
    let s := DC 0x8000
    let w (a : Nat) := (DC a).window t0 (grp s) (BitVec.ofNat 64 a) 64
    let cp : Copy := { kind := .tcopy, desc := 0, rank := 0, grp := 0, ch := 0, since := 0 }
    let full := chanOf (fun k => { k with st := .busy, q := [cp, cp, cp, cp], wp := [5, 5, 5, 5] }) s
    let bad := chanOf (fun k => { k with st := .error, err := 9 }) s
    let par := chanOf (fun k => { k with st := .parked, q := [cp, cp, cp], miss := some (⟨.perm, 0, 0⟩, 0x8000), sat := true }) s
    [runs s (.tcopy h 0 4), runs s (.tstore h 1 4), runs s (.tcopys h 0 4), (grp s).chans.getLsbD 0, !(grp s).chans.getLsbD 1,
     isGlob (w 0x8020) 0x8020, isGlob (w 0x8000) 0x8000, isErr (w (2 ^ 56 - 32)) .badwin, atPlace s (.tcopy h 0 4) 0x8000 .read (.mem 0x8000 0 0 false),
     !s.homeBad 0 (.mem 0x8000 0 0 false) 64, State.homeBad { s with poison := Tab.put false [] (0x8000 / 64) true } 0 (.mem 0x8000 0 0 false) 64,
     s.copyRefused t0.ccRef cp != none, s.copyRefused t0.ccRef rawCopy == none, (thr s).rd 1 = 0, 0 < (s.holding t0.ccRef).chans.length,
     (let r := s.modPart 0 fun p => { p with keylive := 0 }
      match r.probe t0 (thr r) (grp r) (.tcopy h 0 4) 0x8000 .read with | .park _ => true | _ => false),
     (s.chan t0.ccRef 0).st == .idle, (full.chan t0.ccRef 0).q.length == 4, (bad.chan t0.ccRef 0).st == .error, (par.chan t0.ccRef 0).q.length == 3,
     runs full (.chwait h 0 1), runs full (.chptr h 5 0 (.imm 3)), runs full (.chdrain h 0), runs par (.chstat h 5 0), runs s (.chstat h 5 7),
     (s.chan t0.ccRef 0).wp.all fun p => decide ((p + 2 ^ 32 - 0) % 2 ^ 32 < 2 ^ 31),
     !((s.chan t0.ccRef 0).wp.all fun p => decide ((p + 2 ^ 32 - 1) % 2 ^ 32 < 2 ^ 31))]) = true := by decide +kernel

/-- A ring of two slots of 512 bytes. -/
def ringSt (f : Ring → Ring) : State :=
  let r := D.ring t0.ccRef 0
  (upd D fun x => x.wr 1 0).setRing t0.ccRef 0 (f { r with m := 512, slots := 2, k := 2, init := true })

theorem witness_RingInstructions : allOf (
    let s := ringSt id
    let r (s : State) := s.ring t0.ccRef 0
    let full := ringSt fun r => { r with pcnt := 2, ph := 3 }
    let last := ringSt fun r => { r with pcnt := 3, ccnt := 3, phold := true, chold := true }
    let fresh := ringSt fun r => { r with k := 0, init := false }
    let find (s : State) (p n : Nat) := (List.range (2 * (r s).k)).find? fun m => (p + m) % (2 * (r s).k) % (r s).k == n
    [(grp s).rings.getLsbD 0, !(grp s).rings.getLsbD 7, runs s (.ringrelCons h 7), runs s (.ringacqProd h 5 0), runs s (.ringacqCons h 5 0),
     runs s (.ringrelProd h 0), runs s (.ringrelCons h 0), runs s (.ringwaitProd h 0 (.imm 1)), runs s (.ringwaitCons h 0 (.imm 2)),
     (r s).init, (r s).k ≤ 64, (r s).pcnt < 4, (r full).pcnt - (r full).ccnt = 2, (r full).ph.getLsbD 0 = decide ((0 : Nat) / 2 % 2 = 0),
     (r s).ph.getLsbD 0 ≠ decide ((0 : Nat) / 2 % 2 = 0), (r last).phold && (r last).chold, (r last).pcnt < 4,
     find s 0 1 = some 1, find full 2 1 = some 1, find full 0 1 = some 1, find last 3 0 = some 1, !(r fresh).init,
     runs fresh (.ringinit h 0 1 (.imm 2)), (r fresh).slots = 2, (r fresh).m = 512, fresh.ringBank t0.ccRef 0 0, !fresh.ringBank t0.ccRef 0 1]) = true := by
  decide +kernel

def DQ (st : Bool) (cp : Copy) : State := chanOf (fun k => { k with st := .busy, q := [cp], started := st }) (demo .copy)

theorem witness_CopyEngine : allOf (
    let s := DQ false rawCopy; let r := DQ true rawCopy; let ts := DQ false rawStore
    let dead := (DQ true rawCopy).modHolding t0.ccRef fun x => { x with banks := [(0, { grp := 0, live := false })] }
    [s.heldBy c0 == t0.ccRef, (s.chan t0.ccRef 0).started == false, ts.copyRefused t0.ccRef rawStore == none, (s.heldBy c0).coreRef == c0,
     !(s.chan t0.ccRef 0).q.isEmpty, !(r.chan t0.ccRef 0).q.isEmpty, (r.chan t0.ccRef 0).started, (s.chan t0.ccRef 0).st == .busy, s.ctxRuns t0.ctxRef,
     s.copyRefused t0.ccRef rawCopy == none, s.copyRefused t0.ccRef { rawCopy with desc := rawCopy.desc + 2 ^ 511 } == some 1,
     (s.threads.all fun e => e.2.st != .wait), ((demo .copy).chan t0.ccRef 0).q.isEmpty, (r.chan t0.ccRef 0).least rawCopy.dests = 0,
     rawCopy.granule 0 = 64 || rawCopy.granule 0 = 128,
     (match (r.tcopysGranule t0.ccRef rawCopy 0 (rawCopy.granule 0)).2 with | .ok g => g.bytes.length == rawCopy.granule 0 | _ => false),
     (match (State.tstoreGranule (DQ true { rawStore with desc := rawStore.desc + 2 ^ 50 }) t0.ccRef { rawStore with desc := rawStore.desc + 2 ^ 50 } 0 128).2 with | .error (.fault _ _) => true | _ => false),
     (match (dead.tcopysGranule t0.ccRef rawCopy 0 (rawCopy.granule 0)).2 with | .error .dead => true | _ => false)]) = true := by decide +kernel

/-- Matrix groups: cv0 declared for ranks 0 to 15; and all of them have signed the same set. -/
def DM : State := updG (upd (demo .matrix) fun x => ((x.wr 1 0).wr 2 0).wr 3 0) fun g => { g with cvs := g.cvs.set 0 { CvRec.clear with decl := true, count := 16 } }
def signed (n : Nat) (b : Nat → Word) (s : State) : State :=
  (List.range n).foldl (fun s i => s.setThread (g0.thread i) { (s.thread? (g0.thread i)).getD (thr s) with
    st := .wait, ph := .sign 0 .w 0 0 (b i) 0, cur := some (.mma h .w 0 0 1 2 3) }) s
def moreMmas (n : Nat) (s : State) : State :=
  updC s fun c => { c with mmas := List.replicate n { seq := 5, ctx := 1, grp := 0, cv := 0, kind := .w, k := 0, rows := [], b := 0, reg := regionOf 0, ready := false, cover := 0, since := 0, spoil := [] } }

theorem witness_MatrixInstructions : allOf (
    let s := DM
    let y (s : State) := grp s
    let sg (s : State) := s.signers g0 ((y s).cv 0) 0
    let full := signed 16 (fun _ => 0) s; let part' := signed 15 (fun _ => 0) s
    let odd := signed 16 (fun i => if i = 15 then 1 else 0) s
    let bad := signed 16 (fun _ => 0x8000) s
    let one := s.setThread (g0.thread 1) { thr s with st := .wait, ph := .sign 0 .w 0 0 0 0, cur := some (.mma h .w 0 0 1 2 3) }
    (List.append [runs s (.mma h .n 0 0 1 2 3), runs s (.mma h .n 0 7 1 2 3), ((y s).cv 0).decl, ((y s).cv 0).base ≤ 0 ∧ 0 < ((y s).cv 0).count, !((y s).cv 7).decl,
     runs s (.mdecl h 0 (.imm 16) (.imm 0)), runs s (.mdecl h 0 (.imm 16) (.imm 16)), runs s (.mdecl h 0 (.imm 16) (.imm 17)), (y s).gsz = 32,
     (s.threads.all fun e => e.2.signed 0 == none), (one.threads.any fun e => e.1.group == g0 && e.2.signed 0 != none), runs one (.mdecl h 0 (.imm 16) (.imm 0)),
     (y s).uncov.isEmpty, (sg s).isEmpty, !(sg part').isEmpty, runs (moreMmas 1 s) (.mdecl h 0 (.imm 32) (.imm 0)), runs s (.mwait h 0), runs (moreMmas 1 s) (.mwait h 0), runs s (.mfence h 7),
     runs s (.mzero h 1), regionOk 0 1, !regionOk 0x10 1, runs s (.mload h false 1 2), s.moveOk t0 (y s) 0 0 1024, !s.moveOk t0 (y s) 0x10 0 1024,
     runs s (.mstore h .bf16 1 2), s.moveOk t0 (y s) 0 0 512, runs s (.mlive h 1)]
      ([runs s (.mlive h 2), (y s).tiles.length = 1,
     !s.tilesBusy g0 ((y s).mlive &&& ~~~0), (moreMmas 1 s).tilesBusy g0 ((y s).mlive &&& ~~~0), runs s (.mstat h 5),
     (sg full).length = 16, (sg part').length = 15, ((sg full).map (·.1)).Nodup, (regionOf 0).m = 16, !s.sigsBad g0 (y s) ((sg full).map (·.2)),
     (sg bad).length = 16, s.sigsBad g0 (y s) ((sg bad).map (·.2)), ((sg odd).any fun e => e.2.b == 1), 0 < (y s).cvs.length,
     ((moreMmas 3 full).core c0).mmas.length < 4, 4 ≤ ((moreMmas 4 full).core c0).mmas.length, (s.threads.all fun e => !e.2.step),
     ((s.cvMembers g0 ((y s).cv 0)).all fun e => e.2.st != .exited)]))) = true := by decide +kernel

theorem witness_MatrixEngine : allOf (
    let full := signed 16 (fun _ => 0) DM
    let z := run (.mzero h 1) DM
    let slow := updC (moreMmas 1 DM) fun c => { c with scrPow := [(0, (.retention, 0))] }
    [(full.threads.all fun e => !e.2.step), (full.core c0).mmas.length < 4, full.ctxRuns (full.heldBy c0).ctxRef, (full.roomSet (full.heldBy c0)).isSome,
     (DM.roomSet (DM.heldBy c0)).isNone, !((moreMmas 1 DM).core c0).mmas.isEmpty, (tileBanks 0).all fun b => !(DM.holding t0.ccRef).bankLive b || DM.scrPower c0 b == .full,
     (tileBanks 0).any fun b => (slow.holding t0.ccRef).bankLive b && slow.scrPower c0 b != .full, (thr z).loadTile.isEmpty,
     (regionOf 0).row0 % 128 + 0 ≤ 128, (regionOf 0).col0 % 128 + (regionOf 0).n ≤ 128, (thr z).ph == .matOp, (thr z).cur == some (.mzero h 1),
     (grp z).uncov.isEmpty, (regionOf 0).has 0 0, (regionOf 0).has 15 15, !(regionOf 0).has 16 0]) = true := by decide +kernel

/-- Barrier nb0 and gang barrier gb0 initialised. -/
def DB (nb gb : BarRec → BarRec) : State :=
  let s := updG D fun g => { g with nbs := g.nbs.set 0 (nb { BarRec.clear with init := true }) }
  s.setGang { part := 0, ctx := 1, kidx := 0, gang := 0 }
    { lat := 0, cores := [0], grps := [0], gbs := [gb { BarRec.clear with init := true, scope := .die }] ++ List.replicate 3 BarRec.clear, latch := none }

theorem witness_Barriers : allOf (
    let s := DB id id
    let arr (n : Nat) := upd (DB (fun r => { r with arr := n, st := .counting }) id) fun x => { x with ph := .arrive, cur := some (.barsync h (.nb 0)) }
    let gr : GangRef := { part := 0, ctx := 1, kidx := 0, gang := 0 }
    let rel := DB id fun r => { r with st := .released, deliver := [0] }
    let wait := upd s fun x => (x.setPend (.nb 0) true).setPend (.gb 0) true
    let pod := DB (fun r => { r with scope := .pod }) id
    let gpod := DB id fun r => { r with scope := .pod }; let busy := DB (fun r => { r with st := .counting, arr := 1 }) id
    let wide := s.setGang gr { lat := 3, cores := [0], grps := [0], gbs := List.replicate 4 BarRec.clear, latch := none }
    let alive := ((s.groupThreads g0).filter fun e => e.2.st != .exited).length
    (List.append [runs s (.barinit h .grp (.nb 1) (.imm 0)), runs s (.barinit h .die (.gb 1) (.imm 1)), runs s (.barinit h .die (.gb 1) (.imm 2)), (grp s).gangN = 1,
     runs s (.barinit h .grp (.nb 1) (.imm 0x1FF)), bscopeCovers .die (s.gangLat g0), (s.bar g0 (.nb 0)).init, (s.bar g0 (.nb 0)).st == .idle,
     ((arr 1).bar g0 (.nb 0)).st == .counting, runs s (.bararv h (.nb 0)), runs s (.bararv h (.nb 15)), !(s.bar g0 (.nb 15)).init, runs s (.barsync h (.gb 0)),
     (pod.bar g0 (.nb 0)).scope == .pod, !pod.podOk, runs wait (.barwait h (.nb 0)), (thr wait).pend (.nb 0), !(thr wait).pend (.nb 15), (thr wait).pend (.gb 0),
     runs s (.barwait h (.nb 1)), runs s (.barstat h 5 (.nb 0)), runs s (.barset h (.nb 0) (.imm 255)), runs s (.barset h (.gb 0) (.imm 1)),
     runs rel (.barset h (.gb 0) (.imm 1))]
      ([rel.gang? gr |>.any fun k => !(k.gbs.getD 0 BarRec.clear).deliver.contains 1, (rel.bar g0 (.gb 0)).st == .released, runs s (.gbar h 0), runs s (.gbar h 3),
     runs (podded pod) (.bararv h (.nb 0)), (podded pod).podOk, !pod.unretired t0, runs gpod (.gbar h 0), (gpod.bar g0 (.gb 0)).scope == .pod, !(s.bar g0 (.gb 3)).init,
     runs wide (.barinit h .die (.gb 1) (.imm 1)), !bscopeCovers .die (wide.gangLat g0), runs busy (.barinit h .grp (.nb 0) (.imm 0)), runs busy (.barinit h .grp (.nb 0) (.imm 1)),
     (busy.bar g0 (.nb 0)).init && (busy.bar g0 (.nb 0)).cnt == 0 && (busy.bar g0 (.nb 0)).scope == .grp, alive = 32, ((arr 30).bar g0 (.nb 0)).arr + 1 < 32, ((arr 31).bar g0 (.nb 0)).arr + 1 = 32, (thr (arr 31)).ph == .arrive, (arr 31).ctxRuns t0.ctxRef,
     0 < (grp s).nbs.length, (s.threads.map (·.1)).Nodup, (s.threads.all fun e => !e.2.step), (rel.gang? gr).isSome,
     (match rel.gang? gr with | some k => (k.gbs.getD 0 BarRec.clear).st == .released && (k.gbs.getD 0 BarRec.clear).deliver == [0] && (k.groups gr).contains g0 | none => false)]))) = true := by
  decide +kernel

/-! ### Hypotheses of the statements about queues, signals and the system -/

def kr0 : KRef := { part := 0, ctx := 1, kidx := 0 }
def updK (s : State) (f : Kernel → Kernel) : State := s.setKernel kr0 (f ((s.kernel? kr0).getD (demoKernel .general)))
def later (n : Nat) (s : State) : State := { s with time := { s.time with gtime := BitVec.ofNat 64 n } }

theorem witness_WorkQueueInstructions : allOf (
    let s := DT 0x8000
    let q := updK s fun k => { k with qaddr := 0x9000, qlog := 4, closed := false }
    let one := updK q fun k => { k with tail := 1, st := .fed }
    let full := updK q fun k => { k with tail := 16, st := .fed }
    let p := run (.wpush h 8 none) q; let e := upd p fun x => (((x.wr 8 0xFFFFFFFF).wr 9 0xFFFFFFFF).wr 10 0xFFFFFFFF).wr 11 0xFFFFFFFF
    let l := run (.launch h 4) s
    let w (a : Nat) := (DT a).window t0 (grp s) (BitVec.ofNat 64 a) 128
    let popped := (one.popRead t0.ctxRef 0x9000).2
    let s1 := updK (one.setThread t0 (waiting one (thr one) (.wpop h 8) (.pop 0) none)) fun k => { k with popNext := 1 }
    let s2 := (s1.popRead t0.ctxRef 0x9000).1
    [runs q (.wpush h 8 none), !q.unretired t0, runs s (.launch h 4), isGlob (w 0x8000) 0x8000, isErr (w (2 ^ 56 - 64)) .badwin, isGlob (w 0x8040) 0x8040,
     atPlace s (.launch h 4) 0x8000 .both (.mem 0x8000 0 0 false), runs s (.wpop h 8), (s.kernel? ((grp s).kref g0)).any fun k => k.closed && k.tail == k.head,
     (q.popWaiters kr0).isEmpty && (q.pushWaiters kr0).isEmpty, (q.kernel? kr0).any fun k => !k.closed, (one.kernel? kr0).any fun k => decide (k.head < k.tail),
     (match popped with | .ok (bs, _) => bs.length == 16 | _ => false), runs one (.wpop h 8), (s2.pushWaiters kr0).isEmpty, s2.popWaiters kr0 == [(0, t0)],
     s2.threads == s1.threads, s2.kernels == s1.kernels, s2.groups == s1.groups, !p.lowerPush t0 (thr p) .push, (one.kernel? kr0).any fun k => k.popNext == 0,
     ((p.kernel? kr0).any fun k => decide (k.tail - k.head < k.qcap)), (p.appendRec kr0 ((thr p).rdMany 8 4)).isSome, (p.feedKernel t0.ctxRef 5).isNone, runs q (.qroom h 5 4),
     (q.kernels.filter fun e => e.2.qaddr == (thr (DT 0x9000)).rdPair 4).length = 1, (q.kernels.filter fun e => e.2.qaddr == (thr q).rdPair 4).isEmpty,
     (thr p).ph == .fence (some .pkg) [] [] .push, p.fenceHolds t0 (thr (later 16 p)) (some .pkg) [] [] || (later 16 p).fenceHolds t0 (thr p) (some .pkg) [] [],
     (thr p).rdMany 8 4 ≠ List.replicate 4 0xFFFFFFFF, (thr e).rdMany 8 4 = List.replicate 4 0xFFFFFFFF, (p.kernel? kr0).any fun k => k.st.feeds && !k.closed,
     (full.kernel? kr0).any fun k => decide (k.qcap ≤ k.tail - k.head), (thr l).ph == .fence (some .pkg) [] [] .launch, (l.holding t0.ccRef).plq.length < 4,
     (p.threads.all fun e => !e.2.step)]) = true := by decide +kernel

theorem witness_SignalInstructions : allOf (
    let s := DT 0x8000
    let w (a : Nat) := (DT a).window t0 (grp s) (BitVec.ofNat 64 a) 4
    let loc : Place := .mem 0x8000 0 0 false
    let val (s : State) : Option Word := match (s.sigRead t0 loc).2 with | .val v _ => some (BitVec.ofNat 32 v) | _ => none
    let other := { s with lines := Dict.set s.lines (loc.lineNo 0) { LineRec.none with scope := some (7, .core, 1) } }
    let g := updG s fun g => { g with latch := some ⟨0x8000, .eq, 1⟩ }
    let z := run (.sigwait h .ne 4 (.imm 0)) s
    let hit : State := { z with sigs := z.sigs.map fun w => { w with hit := some (false, 9) } }
    let bad := { s with poison := Tab.put false [] (0x8000 / 64) true }
    [runs s (.signalSet h 4 (.imm 1)), runs s (.signalAdd h 4 (.imm 1)), runs s (.sigwait h .ne 4 (.imm 0)), runs s (.gswap h .eq 4 (.imm 1)),
     isErr (w (2 ^ 56 - 2)) .badwin, isGlob (w 0x8002) 0x8002, isGlob (w 0x8000) 0x8000, atPlace s (.signalSet h 4 (.imm 1)) 0x8000 .write loc, atPlace s (.sigwait h .ne 4 (.imm 0)) 0x8000 .read loc, !s.unretired t0,
     (s.sigRead t0 loc).1.groups == s.groups, s.homeReaches c0 loc, (List.range 4).all fun j => s.sectorPlain (s.keyOf 0 0) (0x8000 + j),
     z.sigs.any fun w => w.thr == t0 && w.loc == some loc && w.hit == none, (z.sigs.find? fun w => w.thr == t0).any fun w => (match (z.sigOutcome w).2 with | .wait => true | _ => false),
     (hit.sigs.find? fun w => w.thr == t0).any fun w => (match (hit.sigOutcome w).2 with | .val _ _ => true | _ => false), (thr hit).ph == .signal 0x8000 .ne 0,
     val s == some 0, holds .eq 0 0, !holds .eq 0 1, !holds .ne 0 0, (match (other.sigRead t0 loc).2 with | .refused => true | _ => false), (match (bad.sigRead t0 loc).2 with | .bad => true | _ => false),
     (grp s).gangN ≤ 1, (grp s).latch == none, (grp g).latch == some ⟨0x8000, .eq, 1⟩, (thr z).ph == .signal 0x8000 .ne 0, z.ctxRuns t0.ctxRef, (thr z).st == .wait,
     !(s.core c0).budgetHeld, !s.homeBad 0 loc 4]) = true := by decide +kernel

theorem witness_SystemRegisters : allOf (
    ([0x000, 0x008, 0x009, 0x00C, 0x012, 0x013, 0x020, 0x023, 0x027, 0x030, 0x031, 0x047, 0x048, 0x040, 0x045, 0x046].map fun n => runs D (.sysr h 5 n)) ++
    ([0x010, 0x011, 0x014, 0x021, 0x022, 0x024].map fun n => runs D (.sysr h 6 n)) ++
    ([0x020, 0x025, 0x026, 0x030, 0x031, 0x000, 0x047].map fun n => runs D (.sysw h 5 n)) ++ ([0x021, 0x024, 0x010].map fun n => runs D (.sysw h 6 n)) ++
    [((D.core c0).slices[5]?).isSome, ((D.core c0).slices[6]?).isNone]) = true := by decide +kernel

/-- The first thread in its handler, with an operand-log entry of its group. -/
def DH (epc : DWord) : State :=
  let e : OEntry := { ptime := 0, data := [], ea := 0x8000, instr := .st h .b32 none 6 4 none 0, word := 0, pc := 0x100000, sub := 0, ccls := .perm,
                        stat := .waiting, grp := 0, rank := 0, htid := 0, arm := none }
  (upd D fun x => { (x.wr 1 255).wr 2 31 with h := true, st := .trapped, epc := epc }).modHolding t0.ccRef fun y => { y with olog := [(255, e)] }

theorem witness_HandlerInstructions : allOf (
    let s := DH 0x100004
    [!(thr D).h, runs D (.tret h), runs D (.tswr h 5 2), (thr s).h, runs s (.tret h), (thr s).epc.toNat % 4 = 0, (thr s).epc.toNat < 2 ^ 56,
     (thr (DH 2)).epc.toNat % 4 ≠ 0, runs (DH 2) (.tret h), 2 ^ 56 ≤ (thr (DH (2 ^ 56))).epc.toNat, runs s (.tswr h 5 2), runs s (.tsww h 2 3),
     (s.htidThread g0 31).isSome, (s.htidThread g0 0).isSome, (s.threads.all fun e => e.2.htid != 255), (thr s).rd 1 = 255, (thr s).rd 2 = 31,
     s.npark { t0 with rank := 31 } < 16, runs s (.ologr h 5 1 (.imm 15)), runs s (.ologr h 5 1 (.imm 16)), ((s.holding t0.ccRef).olog.get? 255).any fun o => o.grp == 0,
     ((s.holding t0.ccRef).olog.get? 31).isNone]) = true := by decide +kernel

theorem witness_StructuredRegisters : allOf (
    let s := upd DM fun x => x.wr 1 (2 ^ 31 + 16 * 2 ^ 16); let bad := upd DM fun x => x.wr 1 (2 ^ 31 + 144 * 2 ^ 16)
    let sg := signed 15 (fun _ => 0) DM
    let one := s.setThread (g0.thread 1) { thr s with st := .wait, ph := .sign 0 .w 0 0 0 0, cur := some (.mma h .w 0 0 1 2 3) }
    [(s.threads.all fun e => e.2.signed 0 == none), (one.threads.any fun e => e.1.group == g0 && e.2.signed 0 != none), runs one (.xsetStruct h (.cv 0) 1), runs s (.xgetPred h 5), runs s (.xsetPred h 1), runs s (.xgetStruct h 5 (.nb 15)), runs s (.xsetStruct h (.gb 3) 1), runs s (.xgetStruct h 5 (.jb 15)),
     runs s (.xsetStruct h (.jb 0) 1), runs s (.xgetStruct h 5 (.cv 7)), runs s (.xsetStruct h (.cv 0) 1), runs bad (.xsetStruct h (.cv 0) 1),
     ((thr s).rd 1).toNat / 2 ^ 16 % 256 = 16, ((thr bad).rd 1).toNat / 2 ^ 16 % 256 = 144, (s.signers g0 ((grp s).cv 0) 0).isEmpty,
     !(sg.signers g0 ((grp sg).cv 0) 0).isEmpty, !(s.core c0).mmaOn g0 0, ((moreMmas 1 s).core c0).mmaOn g0 0]) = true := by decide +kernel

theorem witness_PlaceResults : allOf (
    let s := D.modDie 0 fun d => { d with ppt := modNth d.ppt 5 fun _ => 0x800000F0 }
    [runs s (.placeCore h 5 (.imm 0)), s.coreValid 0 0, !s.coreValid 0 1, runs s (.placeDie h 5 (.imm 0)), (s.partDies 0).length = 1, runs s (.placeDie h 5 (.imm 1)),
     runs s (.placePort h 5 (.imm 5)), ((s.die 0).ppt.getD 5 0).getLsbD 31, !((s.die 0).ppt.getD 4 0).getLsbD 31, runs s (.placePort h 5 (.imm 6))]) = true := by decide +kernel

theorem witness_IssueRoundsAndKicks : allOf (
    let s := { D with cur := none }
    let kick := upd s fun x => { x with kick := true }
    let asleep := upd (run (.sleep h none 9) { s with cur := some t0 }) fun x => { x with kick := true }
    let jb := upd s fun x => { x.enrol 3 with kick := true, st := .wait, ph := .rejoin 3 }
    let d1 := upd (DH 0) fun x => { x with h := false, st := .ready, deferred := [⟨.scope, 0x8000, none⟩] }
    let d2 := upd (DH 0) fun x => { x with h := false, st := .ready, deferred := [⟨.scope, 0x8000, some 255⟩] }
    let come := s.modPart 0 fun p => { p with table := [⟨BitVec.ofNat 256 0, false⟩] }
    let s1 := s.retryReplays (s.heldBy c0)
    let rdv := upd (run (.redux h .add .n32 4 3 none) { s with cur := some t0 }) fun x => { x with kick := true }
    [!s.startReached c0, come.startReached c0, (s1.threads.filter fun e => e.2.htid / 512 == 0 && s1.canIssue e.1 e.2 && e.2.gap == 0 && !s1.blocked e.1 e.2).length = 32,
     ((s1.core c0).slices[0]?).isSome, (match (thr rdv).ph with | .rendezvous .. => (thr rdv).st == .wait && (thr rdv).kick | _ => false), ((s.core c0).slices[0]?).any fun y => y.hold == none && y.stop == 0, s.issueQ.isEmpty, s.ctxRuns t0.ctxRef, (s.part 0).running == some 1, (s.threads.map (·.1)).Nodup,
     ((s.threads.filter fun e => e.2.htid / 512 == 0 && s.canIssue e.1 e.2 && e.2.gap == 0).length = 32),
     (thr kick).kick && !(thr kick).h && (thr kick).st == .ready && (thr kick).ph == .none && !kick.unretired t0, (thr asleep).ph == .sleep && (thr asleep).kick,
     (thr jb).ph == .rejoin 3, (thr d1).deferred.length = 1, ((d2.holding t0.ccRef).olog.get? 255).isSome, !d2.unretired t0, (thr s).deferred.isEmpty]) = true := by decide +kernel

theorem witness_FaultService : allOf (
    let s := run (.ld h .b32 none 5 4 none 0) (upd D (pair 4 0x8000))
    let vpn := 0x8000 / 2 ^ 16
    let rel := ((DH 0).modHolding t0.ccRef fun y => { y with olog := y.olog.map fun e => (e.1, { e.2 with stat := .released }) }).setThread t0 { thr D with st := .parked }
    let gone := rel.modPart 0 fun p => { p with keylive := 0 }
    let w := DH 0
    [(s.core c0).walks.contains vpn, !(D.core c0).walks.contains vpn, (thr s).ph == .walk vpn, s.ctxRuns (s.heldBy c0).ctxRef, (s.threads.map (·.1)).Nodup,
     (match ((s.modCore c0 fun k => { k with walks := [] }).findLeaf t0.ctxRef 0 (vpn * 2 ^ 16)).2 with | .ok _ => true | _ => false),
     ((rel.holding t0.ccRef).olog.get? 255).any fun o => o.stat == .released, !rel.replaySent t0 255, !rel.olderEntry t0 (grp rel) 255 0x8000,
     (match (rel.translate t0.ctxRef 0 0x8000 .write).2 with | .ok p => p == .mem 0x8000 0 0 false | _ => false),
     (s.core c0).walks.length ≤ 8, (s.threads.all fun e => decide (e.2.htid < 3072) && (match e.2.ph with | .walked _ _ => false | _ => true)), (thr s).cur.isSome, !s.logFull t0,
     (let r := (s.modCore c0 fun k => { k with walks := [] }).findLeaf t0.ctxRef 0 (vpn * 2 ^ 16); r.1.threads == s.threads && r.1.groups == s.groups),
     (match (({ s with mem := [], keyTag := [] } : State).modCore c0 fun k => { k with walks := [], walkc := [] }).findLeaf t0.ctxRef 0 (vpn * 2 ^ 16) with | (_, .error _) => true | _ => false),
     (reqOf 0 (thr s) (.ld h .b32 none 5 4 none 0)).isSome,
     (let r := rel.translate t0.ctxRef 0 0x8000 .write; r.1.threads == rel.threads && r.1.groups == rel.groups && r.1.holds == rel.holds && !r.1.loadPending t0 (.mem 0x8000 0 0 false) && !r.1.viaWc t0 (.mem 0x8000 0 0 false)),
     (match (gone.translate t0.ctxRef 0 0x8000 .write).2 with | .error _ => true | _ => false), !(thr rel).step,
     (w.part 0).running == some 1, ((w.holding t0.ccRef).olog.map (·.1)).Nodup, ((w.holding t0.ccRef).olog.get? 255).any fun o => o.stat == .waiting]) = true := by decide +kernel

/-! ### Hypotheses of the statements about kernels, power, time and contexts -/

/-- A footprint entry for core 0 in a save area at address 0. -/
def foot0 : List Host.Cell :=
  [(256, 1), (257, 1), (258, 1), (259, 1), (260, 1), (261, 1), (262, 8), (263, 8), (264, 8), (265, 8), (266, 8), (267, 8), (268, 1), (270, 16), (271, 17)]

theorem witness_LaunchPlacementAndSwaps : allOf (
    let s := { DT 0x8000 with cur := none }
    let pl := s.modHolding t0.ccRef fun y => { y with plq := [0x8000] }
    let loaded := updK { s with groups := [], threads := [] } fun k => { k with st := .loaded, nplaced := 0, closed := false }
    let loaded := loaded.setHolding t0.ccRef Holding.empty
    let wide := { loaded with mem := foot0, keyTag := [] }
    let alloc := updG s fun g => { g with st := .allocated }
    let ret := (updG s fun g => { g with st := .retiring }).threads.foldl (fun s e => s.setThread e.1 { e.2 with st := .exited }) (updG s fun g => { g with st := .retiring })
    let ret2 := updK ret fun k => { k with ngrp := 2, nfree := 0 }
    let sw := s.threads.foldl (fun s e => s.setThread e.1 { e.2 with st := .wait, ph := .swapArr 0x8000 .eq 1 }) s
    let out := (updG s fun g => { g with st := .swapped, slots := [], tiles := [], latch := none }).setHolding t0.ccRef Holding.empty
    let out2 := { out with mem := foot0, keyTag := [] }
    let wat (hit : Option (Bool × DWord)) : SigWatch := { thr := t0, va := 0x8000, loc := some (.mem 0x8000 0 0 false), cmp := .eq, b := 1, due := false, hit := hit }
    let came : State := { sw with sigs := [wat (some (false, 9))] }; let back : State := { out2 with sigs := [wat (some (false, 9))] }; let full : State := { out with sigs := [wat (some (false, 9))] }
    let sig := updK ret fun k => { k with donesig := 0x8000, doneadd := 1 }
    let sigd := later 100 sig
    let two := DG
    [(pl.holding t0.ccRef).plq.length = 1, (s.holding t0.ccRef).plq.isEmpty, ((later 15999 pl).coreTime c0).toNat < 16000, 16000 ≤ ((later 16000 pl).coreTime c0).toNat,
     (match (later 16000 pl).decideLaunch t0.ctxRef 0x8000 with
      | (s1, .status c k) => c != 0 && (match s1.launched t0.ctxRef 0x8000 c k with | some s2 => (s2.holding t0.ccRef).plq == [0x8000] | none => false)
      | _ => false),
     (match (later 16000 pl).decideLaunch t0.ctxRef 0x8001 with | (s1, .mute) => (s1.holding t0.ccRef).plq == [0x8000] | _ => false), (s.threads.all fun e => match e.2.ph with | .launchRoom _ => false | _ => true),
     (s.kernel? kr0).any fun k => k.st == .resident, (loaded.kernel? kr0).any fun k => k.st == .loaded && decide (k.nplaced < k.ngrp) && k.gangN == 1,
     (match loaded.kernel? kr0 with | some k => (loaded.gangFit kr0 k).isNone | none => false),
     (match wide.kernel? kr0 with | some k => (match wide.gangFit kr0 k with | some [_] => true | _ => false) | none => false),
     (grp alloc).st == .allocated, !alloc.groupWaking g0 (grp alloc), (alloc.kernel? ((grp alloc).kref g0)).isSome,
     (grp ret).st == .retiring, ret.groupQuiet g0 (grp ret), (ret2.kernel? kr0).any fun k => decide (k.nfree + 1 < k.ngrp), (ret.kernel? kr0).any fun k => k.donesig == 0,
     (grp sw).st == .resident, (sw.threads.all fun e => match e.2.ph with | .swapArr .. => true | _ => false), (sw.core c0).wc.isEmpty, sw.groupQuiet g0 (grp sw),
     (sig.kernel? kr0).any fun k => k.donesig != 0 && decide (k.ngrp ≤ k.nfree + 1) && decide (sig.time.gtime.toNat < k.wct.toNat + 16), sig.groupQuiet g0 (grp sig),
     (sigd.kernel? kr0).any fun k => decide (max k.wct.toNat (sigd.groupWct g0 (grp sigd)).toNat + 16 ≤ sigd.time.gtime.toNat), sigd.ctxRuns g0.ctxRef,
     (match (sigd.freeGroup g0 (grp sigd)).frontSignal { part := 0, ctx := 1 } 0x8000 true 1 with
      | (s1, .ok ()) => s1.kernel? kr0 == (sigd.freeGroup g0 (grp sigd)).kernel? kr0 | _ => false),
     sw.swapGroups g0 == [g0], sw.sigs.isEmpty, (sw.threads.map (·.1)).Nodup, came.sigs.any fun w => w.thr.group == g0 && w.hit != none,
     (two.swapGroups g0).length = 2, ((two.swapGroups g0).map (·.core)).Nodup,
     (grp out).st == .swapped, out.sigs.isEmpty, (out.swapFit g0 (grp out)).isNone, (out2.swapFit g0 (grp out2)).isSome, (grp out).gangN ≤ 1,
     (match full.swapHolds [g0] with | (s1, some w) => w == 9 && (s1.swapFit g0 (grp s1)).isNone | _ => false),
     (match back.swapHolds [g0] with | (s1, some w) => w == 9 && (s1.swapFit g0 (grp s1)).isSome | _ => false)]) = true := by decide +kernel

def pow (f : Core → Core) (n : Nat) : State := later n (updC D f)

theorem witness_GovernorAndVoltage : allOf (
    let s := pow id 160000
    let sl (f : Slice → Slice) : Core → Core := fun c => { c with slices := modNth c.slices 3 f }
    let ramp := pow (fun c => { c with vtgt := 760, vcur := 755, rampAt := some 100, raises := [(3, 14)] }) 3300
    let hold := pow (sl fun x => { x with tgt := 14, hold := some 50 }) 50
    let some' (f : Slice → Bool) (s : State) := ((s.core c0).slices[3]?).any f
    [s.coreUp c0, 0 < (s.coreTime c0).toNat / 160000, (pow id 159999 |>.coreTime c0).toNat / 160000 = 0, s.mayGovern c0, !(State.mayGovern { s with parts := State.reset.parts } c0),
     some' (fun x => x.cAll == 0) s, some' (fun x => x.cAll == 9) (pow (sl fun x => { x with cAll := 9, cIss := 9 }) 160000),
     (ramp.core c0).vcur = 755, 100 + 3200 = (ramp.coreTime c0).toNat, 16000 * (760 - 755) ≤ 25 * 3200, ramp.rampOver c0, s.coreUp c0, !s.rampOver c0, !State.rampOver (pow (fun c => { c with vtgt := 760, vcur := 755, rampAt := some 100 }) 3299) c0, some' (fun x => x.hold == some 50) hold,
     (50 : DWord).toNat ≤ (hold.coreTime c0).toNat, !s.holdOver c0 3,
     (let v := (s.core c0).pwrctl.toNat; 4 ≤ v % 32 ∧ v % 32 ≤ 16 ∧ 4 ≤ v / 2 ^ 16 % 32 ∧ v / 2 ^ 16 % 32 ≤ v / 2 ^ 24 % 32 ∧ v / 2 ^ 24 % 32 ≤ 16),
     (0x80000000 : DWord).getLsbD 31, !(0 : DWord).getLsbD 31]) = true := by decide +kernel

theorem witness_BudgetsErrorsAndBanks : allOf (
    let s := pow (fun c => { c with bytes := 1000 }) 16000
    let low := pow (fun c => { c with slices := modNth c.slices 0 fun x => { x with n := c.pwrctl.toNat / 2 ^ 16 % 32, err := some 0x100000 } }) 5
    let b := (0, 0, 0)
    let wake := pow (fun c => { c with regPow := [(b, .waking true 9)], scrPow := [(0, (.waking false 9, 0))], tilePow := [(0, .waking true 9)] }) 9
    let idle := later 32001 (D.threads.foldl (fun s e => s.setThread e.1 { e.2 with st := .wait, live := 1, waitFrom := 0 }) (updC D fun c => { c with regPow := [(b, .full)], scrPow := [(0, (.full, 0))] }))
    [s.coreUp c0, 0 < (s.coreTime c0).toNat / 16000, (pow id 15999 |>.coreTime c0).toNat / 16000 = 0, (s.core c0).erem < 65536, (s.core c0).energy.toNat < 2 ^ 63,
     ((s.core c0).slices[0]?).any fun x => x.hold == none && x.err == none, ((low.core c0).slices[0]?).any fun x => x.err == some 0x100000 && x.n == (low.core c0).pwrctl.toNat / 2 ^ 16 % 32,
     s.ctxRuns t0.ctxRef, t0.part < s.parts.length, !s.inReset, ((wake.core c0).regPow.getD b .off) == .waking true 9, (9 : DWord).toNat ≤ (wake.coreTime c0).toNat,
     ((later 8 wake).coreTime c0).toNat < (9 : DWord).toNat, idle.bankIdle c0 (0, 0, 0), idle.bankPower c0 (0, 0, 0) == .full, !(later 32000 idle).bankIdle c0 (0, 0, 0), wake.bankHeld c0 b,
     !wake.transferIn c0 b, State.transferIn (run (.ld h .b32 none 5 4 none 0) (DT 0x8000)) c0 b,
     ((idle.core c0).scrPow.getD 0 (.off, 0)) == (.full, 0), 64000 ≤ ((later 64000 idle).coreTime c0).toNat, idle.bankPower c0 (0, 7, 31) != .full]) = true := by decide +kernel

/-- Port 0 of die 0 up, with a time state. -/
def DP (f : Time → Time) : State := { D.modLink (.port 0 0) fun l => { l with st := .up } with time := f D.time }

theorem witness_TimeAndElection : allOf (
    let s := DP id; let st (x : TimeSt) := DP fun t => { t with st := x }
    let w (f : Whisk → Whisk) : State := { DP id with whisk := f D.whisk, pestle := { D.pestle with booted := true, pkg := 5 } }
    let peer (n : BitVec 18) : Peer := { pkg := n, last := 0, good := true }
    let master (g n : Nat) : Option Master := some { prio := n, gm := g, steps := 0, sender := 0 }
    let ann (x : TimeSt) := DP fun t => { t with st := x, masters := modNth t.masters 0 fun _ => master 3 4, gtime := 375000000 }
    let away := (ann .disciplined).modTime fun t => { t with port := 7 }
    (List.append [!s.inReset, (ann .unset).bestRef == some 0, (ann .unset).refOk 0, (ann .acquiring).refOk (ann .acquiring).time.port, !away.refOk away.time.port, away.bestRef == some 0,
     (bestMaster [master 3 4, master 3 4, master 2 9] [0, 1, 2]).any (fun p => p.1 == 0), (bestMaster [none, none] [0, 1]).isNone,
     ((bestMaster away.time.masters ((List.range 24).filter fun p => (away.link (.port (p / 6) (p % 6))).st == .up && p != away.time.port)).map (·.1)) == some 0,
     away.time.lastAny.toNat + 375000000 ≤ away.time.gtime.toNat, s.pestle.pkg.toNat < 6, s.refOk 0]
     [!s.refOk 1, !s.refOk 24, (st .lost).time.st == .lost, (DP fun t => { t with st := .acquiring, run := 7 }).time.run + 1 = 8,
     (0 + (s.time.asym.getD 0 0).toInt).natAbs ≤ 320, 320 < (321 + (s.time.asym.getD 0 0).toInt).natAbs, (321 : Nat) ≤ (st .holdover).epsilon, (st .disciplined).epsilon = 640,
     ((641 : Int) + (s.time.asym.getD 0 0).toInt).natAbs > (st .disciplined).epsilon, (DP fun t => { t with gtime := 375000000 }).time.lastAny.toNat + 375000000 ≤ 375000000,
     4000 ≤ (DP fun t => { t with st := .holdover, gtime := 3360 * 2 ^ 24 }).epsilon, (DP fun t => { t with st := .holdover, gtime := 3360 * 2 ^ 24 - 1 }).epsilon < 4000,
     (later 8000000 (w id)).whisk.lastHb.toNat + 8000000 ≤ (later 8000000 (w id)).time.gtime.toNat, s.mgmtPorts == [0], D.mgmtPorts.isEmpty,
     ((w fun k => { k with sched := some 4, peers := [peer 4] }).peerLive (peer 4)), (w fun k => { k with sched := some 9, peers := [peer 9] }).peerLive (peer 9),
     (w fun k => { k with newest := some 40000, epoch := 30000 }).whisk.newest == some 40000,
     (w id).whisk.sched == none, (w fun k => { k with peers := [peer 4] }).peerLive (peer 4), !(later 32000000 (w id)).peerLive (peer 4),
     (w fun k => { k with sched := some 4, peers := [peer 4] }).whisk.peers.all fun q => decide (q.last.toNat + 64000000 ≤ (later 64000000 (w id)).time.gtime.toNat)])) = true := by decide +kernel

/-- A SAVED context 2 with an empty image, and messages about it. -/
def DS : State :=
  { D.setCtx { part := 0, ctx := 2 } { Ctx.reset with ctxsa := 0xC000000020000000, st := .saved, keymask := 1 } with
    mem := [(0x20000000, 1)], keyTag := [] }
def x2 : CtxRef := { part := 0, ctx := 2 }
def te (start quantum ctx : Nat) : BitVec 256 := BitVec.ofNat 256 (start + quantum * 2 ^ 64 + ctx * 2 ^ 96)

theorem witness_WhiskMessages : allOf (
    let s := DS
    let m := te 1600000 90000 2
    let tab (m : BitVec 256) := s.modPart 0 fun p => { p with table := [⟨m, false⟩] }
    let seen : State := { s with whisk := { s.whisk with newest := some 5, masks := [⟨100, 0, 1⟩] } }
    [!s.inReset, m.toNat / 2 ^ 160 = 0, m.toNat / 2 ^ 130 % 2 ^ 6 = 0, !s.whisk.stale 0, seen.whisk.stale 4, !seen.whisk.stale 5, s.holder 2 == some 0, s.holder 3 == none,
     s.nameable x2, s.tMin (s.outgoing 0 1600000) x2 ≤ 16 * 90000, 16 < s.tMin (s.outgoing 0 1600000) x2, s.time.gtime.toNat + 1600000 ≤ 1600000,
     ((tab m).part 0).table.any fun e => decide (e.bits.toNat % 2 ^ 64 < 1600000 + 16 * 90000 ∧ 1600000 < e.bits.toNat % 2 ^ 64 + 16 * (e.bits.toNat / 2 ^ 64 % 2 ^ 32)),
     0 < s.parts.length, (s.part 0).table.length < 64, !s.notOot x2, !s.preempting, State.preempting (s.modPart 0 fun p => { p with preempt := some ⟨m, false⟩ }),
     s.tMin (s.runsAt 0 16000) x2 ≤ 16 * 90000, seen.whisk.masks.all fun u => decide (seen.time.gtime.toNat < u.effect.toNat),
     (later 100 seen).whisk.masks.any fun u => decide (u.effect.toNat ≤ (later 100 seen).time.gtime.toNat)]) = true := by decide +kernel

theorem witness_EntriesAndStaging : allOf (
    let m := te 1000 90000 2
    let s := DS.modPart 0 fun p => { p with table := [⟨m, false⟩] }
    let begun := DS.modPart 0 fun p => { p with table := [⟨m, true⟩] }
    let multi := DS.modPart 0 fun p => { p with table := [⟨m ||| BitVec.ofNat 256 (2 ^ 128), false⟩] }
    let pre := DS.modPart 0 fun p => { p with preempt := some ⟨m, false⟩ }
    let stg (c : CSt) := DS.setCtx x2 { DS.ctx x2 with st := c }
    let ends := DS.modPart 0 fun p => { p with preempt := some ⟨m, true⟩ }
    [(s.ctx x2).st == .saved, s.stagesFor x2, s.imageOk x2, s.coresThere x2, !DS.stagesFor x2, !(s.directory x2).1.imageBad x2 (s.directory x2).2,
     (s.startingEntry 0).isNone, (later 1000 s).startingEntry 0 == some m, ((later 1000 multi).startingEntry 0).any fun m => m.getLsbD 128, !multi.podOk,
     !(s.part 0).traceEn, (pre.startingPreempt 0).isNone, (later 1000 pre).startingPreempt 0 == some m, (ends.endingPreempt 0).isNone,
     (s.part 0).running == some 1, (s.ctx t0.ctxRef).st == .active, !(s.ctx t0.ctxRef).paused, (stg .staged).flipOk t0.ctxRef x2, ((stg .staging).ctx x2).st == .staging,
     (later (1000 + 16 * 90000) ends).endingPreempt 0 == some m, (s.covering 0).isNone, ((later 1000 s).covering 0).any fun e => !e.begun,
     ((later 1000 begun).covering 0).any fun e => e.begun]) = true := by decide +kernel

theorem witness_ContextSwitch : allOf (
    let x := t0.ctxRef
    let st (c : CSt) (off : Bool) : State := D.setCtx x { D.ctx x with st := c, issueOff := off }
    let l : State := (DS.setCtx x2 { DS.ctx x2 with st := .loading }).modPart 0 fun p => { p with running := none }
    let r := l.saRead x2 0 256
    let dt := upd (st .halting false) fun z => { z with deferred := [⟨.scope, 0x8000, none⟩] }
    let nx := (((st .halting true).setCtx x2 { DS.ctx x2 with st := .staged }).modPart 0 fun p => { p with next := some 2, flip := true })
    let gone := ((DS.setCtx x { DS.ctx x with st := .saving }).modPart 0 fun p => { p with next := some 2 })
    [(grp dt).handler != 0, (thr dt).deferred.length = 1, (thr dt).ph == .none && (thr dt).st == .ready && !(thr dt).h, !dt.unretired t0,
     (dt.threads.filter fun e => !e.2.deferred.isEmpty).length = 1, nx.settledCtx x, (nx.part 0).flip, nx.flipOk x x2, (nx.ctx x2).st == .staged,
     (gone.ctx x).st == .saving, (gone.part 0).running == some 1, (gone.ctx x2).st == .saved, (gone.ctxs.map (·.1)).Nodup, !gone.ctxPoisoned x,
     (gone.ctxs.all fun e => e.1 == x || (e.2.st != .halting && e.2.st != .saving)), r.1.holds.all fun e => e.1.ctxRef != x2,
     State.ctxPoisoned { gone with regPois := [(t0, 3)] } x, ((st .halting false).ctx x).st == .halting, (D.threads.all fun e => e.2.deferred.isEmpty), (D.threads.map (·.1)).Nodup, (st .halting true).settledCtx x,
     ((st .halting true).part 0).next == none, 0 < D.parts.length, !((run (.st h .b32 none 6 4 none 0) (DT 0x8000)).settledCtx x), !(st .saving true).ctxPoisoned x,
     (l.ctx x2).st == .loading, (l.part 0).running == none, l.quiet 0, (r.1.directory x2).2.isEmpty, !(r.1.directory x2).1.imageBad x2 [], ((r.1.directory x2).1.ctxThreads x2).isEmpty,
     ((r.1.directory x2).1.ctxGroups x2).isEmpty]) = true := by decide +kernel

/-! ### Hypotheses of the statements about requests, queues, the fabric and the package -/

/-- The host cores run. -/
def DU : State := { DS with pestle := { DS.pestle with booted := true } }

theorem witness_PlacementAndKeyRequests : allOf (
    let s := DU
    let p : Mailbox := .part 0
    let free := s.modPart 0 fun q => { q with keys := modNth q.keys 63 fun _ => none }
    let idle (x : State) := x.setCtx t0.ctxRef { x.ctx t0.ctxRef with st := .saved }
    let lanes := s.modDie 0 fun d => { d with ppt := modNth d.ppt 5 fun _ => 0x800000F0 }
    let drain := s.modPart 0 fun q => { q with keylive := 0, keyDrain := [(0, .part 0, 7)] }
    let busy := { (run (.st h .b32 none 6 4 none 0) (DT 0x8000)) with pestle := s.pestle }
    let pooled := { (drain.modPool 0 9 fun q => { q with req := some 3 }) with lines := [(2 ^ 60 + 9, { LineRec.none with held := true, key := 0 })] }
    let local' := { drain with lines := [(9, { LineRec.none with held := true, key := 0 })] }
    (List.append [!pooled.slotBusyKey 0 0, (pooled.line (2 ^ 60 + 9)).held, (pooled.poolLine 0 9).req.isSome, local'.ownsLine 0 9, (local'.line 9).held,
     (idle s).allSaved 0, ((idle s).placeCpt 0 0 [(0, 0x80000000)]).2 == 0, ((s.die 0).cpt.getD 0 0).getLsbD 31, !((s.die 0).cpt.getD 1 0).getLsbD 31,
     ((lanes.die 0).ppt.getD 5 0).getLsbD 31, (s.part 0).keyDrain.isEmpty, (drain.part 0).keyDrain.find? (fun e => e.1 == 0) == some (0, .part 0, 7), !drain.slotBusyKey 0 0,
     busy.slotBusyKey 0 0, (s.parts.length = 4), (s.dies.length = 4), (idle s).ctxsAre 0 (fun c => c.idle || c == .faulted)]
     [s.hostUp, !D.hostUp, State.hostUp { D with pestle := { D.pestle with boot := 3 } }, Mailbox.mayName p 0, !Mailbox.mayName p 1, Mailbox.mayName .operator 3, !Mailbox.isOperator p,
     s.formed 0, !s.formed 1, (s.partDies 0).contains 0, !(s.partDies 0).contains 1, !s.allSaved 0, s.ctxsAre 0 (fun _ => true), (s.partDies 0).length ≤ 36 / 36,
     35 / 36 < (s.partDies 0).length, (s.placeCpt 0 0 [(0, 0x80000000)]).2 ≠ 0, ((s.part 0).keys.getD 0 none).isSome, ((free.part 0).keys.getD 63 none).isNone,
     (s.part 0).keyDrain.isEmpty, (63 : Nat) < (s.part 0).keys.length, (s.ctx x2).ikey = 0, (s.ctx x2).st.canFault || (s.ctx t0.ctxRef).st.canFault,
     s.cores.all fun e => e.2.mops.isEmpty && e.2.wc.isEmpty])) = true := by decide +kernel

theorem witness_ContextAndConfigRequests : allOf (
    let s := DU
    let e : CtxRef := { part := 0, ctx := 3 }
    let s0 := s.setCtx e { Ctx.reset with ctxsa := 0x8000000020000000, st := .saved, keymask := 0 }
    [s.hostUp, Mailbox.mayName (.part 0) 0, s.formed 0, Mailbox.isOperator .operator, !s.time.everAct, s.ctxExists x2, !s.ctxExists e, (s.ctx x2).st.idle,
     !(s.ctx t0.ctxRef).st.idle, (s.ctx t0.ctxRef).st ≠ .revoked, s.areaLocal 0 0x20000000 0, !s.areaLocal 0 (2 ^ 51) 0, (s.ctx e).st == .empty, s0.imageOk e,
     (s.ctxs.filter fun f => f.1.part == 0 && f.1 != e && f.2.ctxsa.getLsbD 63).length < 256, 0 < s.parts.length, s.windowInside 0 0 0x10000,
     (s.poolWinOf 0 5).isNone, s.pestle.sigcnt < 1048576, (1048576 : Nat) ≤ 1048576]) = true := by decide +kernel

theorem witness_PartitionAndPackageResets : allOf [
    0 < DU.parts.length, (DU.ctx t0.ctxRef).st.canFault, zeroised (DU.partDies 0) 0, !zeroised (DU.partDies 0) (2 ^ 51)] = true := by decide +kernel

/-- Queue 0 of the partition serves context 1, with slots from 0x9000 on; `pk` places a packet in its head slot. -/
def q0 : QRef := { part := 0, q := 0 }
def DK (st : QSt) (tail : Nat) (pk : List Byte) : State :=
  (((D.modLink (hostLink 0) fun l => { l with st := .up }).homePut 0 0 0x9000 pk).modQueue q0 fun y => { y with qbase := 0x9000, qlog := 4, qctx := 1, en := true, st := st, tail := tail, todo := true }).modPart 0 fun p =>
    { p with events := [(.doorbell 0, some 0)], ladles := [some 0, none] }

theorem witness_QueuesAndPackets : allOf (
    let s := DK .running 1 [8]
    let off := D.modQueue q0 fun y => { y with qbase := 0x9000, qlog := 4, qctx := 1 }
    let saved := s.setCtx t0.ctxRef { s.ctx t0.ctxRef with st := .saved }
    let y := s.queue q0
    let b (s : State) : Nat := match (s.headPacket q0 (s.queue q0)).2 with | .ok bs => leNat bs | .error _ => 0
    let x := t0.ctxRef
    let held := s.modQueue q0 fun y => { y with st := .blocked, hold := 1, held := List.replicate 64 0 }
    let fault := s.modQueue q0 fun y => { y with qbase := 0x5000000000 }
    let soon := s.modQueue q0 fun y => { y with wct := 100 }
    let k2 := updK (DK .running 1 [2, 0, 1]) fun k => { k with handle := 0x300000, qaddr := 0xA000, qlog := 4, closed := false, st := .resident }
    let sg := DK .running 1 ([3, 0, 0, 0, 0, 0, 0, 0] ++ List.replicate 56 0)
    let tk := fun (st : State) => pkDecode (b st)
    (List.append [(held.queue q0).st == .blocked && (held.queue q0).hold != 4, held.served q0, (match (fault.headPacket q0 (fault.queue q0)).2 with | .error .wait => false | .error _ => true | _ => false),
     !decide ((soon.queue q0).wct.toNat + 16 ≤ soon.time.gtime.toNat), (later 16 s).served q0, decide (((later 16 s).queue q0).wct.toNat + 16 ≤ (later 16 s).time.gtime.toNat),
     (s.headPacket q0 y).1.parts == s.parts, (match tk sg with | .signal .. => true | _ => false), (match tk k2 with | .feed .. => true | _ => false),
     (match tk (DK .running 1 [1]) with | .start _ => true | _ => false), (match tk (DK .running 1 [4, 0, 1]) with | .wait .. => true | _ => false), (match tk (DK .running 1 [6]) with | .timemark .. => true | _ => false),
     (match tk (DK .running 1 [7]) with | .inval .. => true | _ => false), (k2.feedTarget t0.ctxRef 0x300000).isSome, (k2.feedTarget t0.ctxRef 5).isNone,
     (match ((later 16 s).frontSignal t0.ctxRef 0x8000 true 1).2 with | .ok () => true | _ => false), (match ((later 16 s).frontSignal t0.ctxRef 0x5000000000 true 1).2 with | .error (.fault _) => true | _ => false)]
     [!s.inReset, 0 < s.parts.length, 0 < (s.part 0).queues.length, y.en, (off.queue q0).st == .disabled, off.queueMayRun q0 (off.queue q0), !D.queueMayRun q0 (D.queue q0),
     (DK .idle 0 [8]).wholePacket q0 { (DK .idle 0 [8]).queue q0 with tail := 1 }, s.served q0, !D.served q0, y.inval == none, s.wholePacket q0 y, b s % 256 = 8,
     (s.ctx x).st == .active, (saved.ctx x).st == .saved, s.pkRefusal x (b s) = 0, (DK .running 1 [9]).pkRefusal x (b (DK .running 1 [9])) ≠ 0, !(s.part 0).traceEn,
     b (DK .running 1 [3]) % 256 = 3, b (DK .running 1 [6]) % 256 = 6, b (DK .running 1 [7]) % 256 = 7, (DK .running 1 [7]).pkRefusal x 7 = 0])) = true := by decide +kernel

theorem witness_LadlePool : allOf (
    let s := DK .running 1 [8]
    let inv := (DK .running 1 [7]).modQueue q0 fun y => { y with inval := some [] }
    let blk := (DK .blocked 1 [8]).modQueue q0 fun y => { y with hold := 4 }
    let blk := blk.modPart 0 fun p => { p with events := [] }
    let pend := D.modPart 0 fun p => { p with events := [(.wake 3, none)], ladles := [none] }
    let inv1 (d : Nat) := inv.modQueue q0 fun y => { y with held := leBytes (7 + d) 64 }
    let kd := updK blk fun k => { k with handle := 0x300000 }
    [(match pkDecode (leNat ((inv1 0).queue q0).held) with | .inval _ _ d => d == 0 | _ => false), (inv1 0).invalSettled t0.ctxRef [],
     (match pkDecode (leNat ((inv1 (0x8000 * 2 ^ 128)).queue q0).held) with | .inval _ _ d => d != 0 | _ => false),
     !State.invalSettled (updC inv fun c => { c with mops := ((run (.st h .b32 none 6 4 none 0) (DT 0x8000)).core c0).mops }) t0.ctxRef [(0, 10)], (kd.queue q0).hold == 4,
     inv.invalSettled t0.ctxRef [], inv.served q0, !inv.inReset, (inv.queue q0).inval.isSome, blk.wakeable q0, !blk.served q0, !s.wakeable q0,
     ((blk.modQueue q0 fun y => { y with hold := 1 }).queue q0).evalAt.toNat + 160000 ≤ (later 160000 blk).time.gtime.toNat, (pend.part 0).ladles[0]? == some none,
     (pend.part 0).nextEvent == some (.wake 3), (pend.part 0).events.all fun v => v.2 != some 0, (s.part 0).handled 0 == some (.doorbell 0), (s.part 0).handled 1 == none,
     (s.queue q0).todo, (s.part 0).ladles[0]? == some (some 0), (later 16000001 s).time.gtime.toNat > 16000000]) = true := by decide +kernel

/-- A port with a request and a timing packet queued and a credit of each class. -/
def portTwo : Link :=
  let pk (c n : Nat) : QPkt := { hdr := BitVec.ofNat 256 (c * 2 ^ 97), load := List.replicate (32 * n) 0, left := n + 1 }
  { Link.reset with st := .up, queue := [pk 0 0, pk 2 1], credits := List.replicate 6 1 }

/-- Whatever credits come back, its timing packet may send and its request too, and no response; with no credit and none back, nothing may. -/
theorem witness_Flits (f : Nat → Nat) : let l : Link := { portTwo with credits := portTwo.credits.zipIdx.map fun e => e.1 + f e.2 }
    l.ready 2 = true ∧ l.ready 0 = true ∧ l.ready 1 = false ∧ ({ portTwo with credits := [] } : Link).ready 2 = false := by
  simp [Link.ready, portTwo, hClass, bitsOf, LSt.passes, List.zipIdx, List.replicate] <;> omega

theorem witness_LinksAndFabric : allOf (
    let s := DP id
    let l : LinkRef := .port 0 0
    let en := D.modDie 0 fun d => { d with ppt := modNth d.ppt 0 fun _ => 0x800000F0 }
    let tr := en.modLink l fun x => { x with st := .training, en := true }
    let rq : FReq := { die := 0, tag := 7, op := opRD, part := 0, line := 9, hdr := BitVec.ofNat 256 (2 ^ 72), load := [], sent := 0, resent := none, via := (0, 0), mop := none, thrs := [], held := false }
    let hdr := opDATA * 2 ^ 100 + 2 ^ 97 + 7 * 2 ^ 224 + 2 ^ 72
    let wait (r : Option DWord) : State := { s with freqs := [{ rq with resent := r }] }
    let two := s.modLink l fun _ => portTwo
    [!(two.link l).queue.isEmpty, two.link l == portTwo, portTwo.wire.toNat ≤ two.time.gtime.toNat, portTwo.st != .down,
     (two.time.gtime.toNat < ((State.modLink two l fun x => { x with wire := 9 }).link l).wire.toNat),
     !s.inReset, en.linkEnabled l, !D.linkEnabled l, (en.link l).st == .down, (tr.link l).st == .training, tr.widthOk l 15, !tr.widthOk l 0,
     (later 160000000 tr).time.gtime.toNat = 160000000, (s.link l).st == .up, (s.link (.d2d 3)).fwOpen == false, (s.die 0).active, (s.die 0).part = 0,
     hdr / 2 ^ 100 % 16 = opDATA, hdr / 2 ^ 97 % 8 = 1, hdr / 2 ^ 94 % 4 = 0, hdr / 2 ^ 224 % 2 ^ 16 = rq.tag, hdr / 2 ^ 72 % 2 ^ 16 = rq.hdr.toNat / 2 ^ 72 % 2 ^ 16, hdr / 2 ^ 240 = 0,
     hdr / 2 ^ 104 % 2 ^ 14 = 0 && hdr / 2 ^ 88 % 2 ^ 6 = 0, hdr / 2 ^ 64 % 2 ^ 8 = (s.ctx t0.ctxRef).gen.toNat,
     ((wait none).reqAt 0 7).isSome, ((wait none).reqAt 0 8).isNone, ((wait (some 5)).reqAt 0 7).any fun f => f.resent == some 5,
     (s.part 0).affPend == false, (s.part 0).affAct == false]) = true := by decide +kernel

theorem witness_LidHostAndRegisters : allOf (
    let s := D.modPart 0 fun p => { p with hwin := modNth p.hwin 0 fun _ => 0xC000000000000000 }
    let ro := D.modPart 0 fun p => { p with hwin := modNth p.hwin 0 fun _ => 0x8000000000000000 }
    let lid : State := { D with lid := some { t0 := 0, early := [], sent := [], marked := false, marks := [] } }
    let hl := s.modLink (hostLink 0) fun x => { x with st := .up }
    [(hl.link (hostLink 0)).st.carries, !(s.link (hostLink 0)).st.carries, (hl.windowOf 0 0 8).isSome, D.pool.isEmpty, D.lid.isNone, !D.inReset, lid.lid.isSome, (later 1600000 lid).time.gtime.toNat = 1600000, s.formed 0, 0 < s.parts.length, (s.windowOf 0 0xFFF8 8).isSome, (s.windowOf 0 0xFFF9 8).isNone,
     (s.part 0).keylive.getLsbD 0, ((s.windowOf 0 0 8).map (·.2)).any fun w => w.getLsbD 62, ((ro.windowOf 0 0 8).map (·.2)).any fun w => !w.getLsbD 62,
     (s.holding t0.ccRef).bankLive 0, (s.thread? t0).isSome, Writer.reaches (.ladle 0) 0, Writer.reaches .pestle 3, !Writer.reaches (.host 1) 0, (D.queue q0).en == false, (DK .running 1 [8]).queue q0 |>.en,
     0 < (s.part 0).queues.length]) = true := by decide +kernel

/-! ### Room in the L2 (R241), and plain memory (R485) -/

/-- Every way of the set of line 0x100 holds a pooled line whose request is under way. -/
def fullSet (s : State) : State :=
  let la := ((List.range 16).filterMap fun k => (List.range 32).find? fun j => s.l2Place (2 ^ 60 + (k + 1) * 32768 + 256 + j) == s.l2Place 256).zipIdx.map fun e => (e.2 + 1) * 32768 + 256 + e.1
  la.foldl (fun s l => (s.modLine (2 ^ 60 + l) fun r => { r with held := true }).modPool 0 l fun p => { p with req := some 1 }) s

def plainB (u : State) (part slot pa n : Nat) : Bool :=
  (List.range n).all fun i => u.sectorPlain (u.sectorKey part slot ((pa + i) / 64)) ((pa + i) / 64) && !(u.owedMem part).contains (pa + i)

theorem witness_WritesPerformedAtHome_room : allOf (
    let s := run (.st h .b32 none 6 4 none 0) (DT 0x8000)
    let a := run (.atom h .add .n32 .relaxed .die 7 4 0 3) (DT 0x807C)
    let f := fullSet s
    let m (s : State) : Option MOp := (s.core c0).mop? 0
    [(m s).any fun m => homeRoom s m false && plainB (homeUse s m false) 0 0 0x8000 128 && decide (0x8000 % 128 + m.data.length ≤ 128),
     (m s).any fun m => homeRoom (s.l2Drop 256) m false && plainB (homeUse (s.l2Drop 256) m false) 0 0 0x8000 128,
     (m f).any fun m => !homeRoom f m false && !f.scopeRefuses m, (m f).any fun m => !homeRoom (f.l2Drop 256) m false,
     (m a).any fun m => homeRoom a m false && plainB ((homeUse a m false).noteScope m) 0 0 0x807C 4]) = true := by decide +kernel

theorem witness_AnswersToThreads_room : allOf (
    let q := run (.ld h .b32 (some .die) 6 4 none 0) (DT 0x8000); let l := run (.ld h .b128 none 8 4 none 0x70) (DT 0x8000)
    let f (s : State) := updC s fun c => { c with slices := modNth c.slices 0 fun y => { y with xrq := 16 } }
    let op (s : State) (f : MOp → Bool) : Bool := ((s.core c0).mop? 0).any f
    let p := sentOp .acquire (.ld h .b32 (some .die) 6 4 none 0) (.mem 0x8000 0 0 false) .failed
    let hit (ps : List Nat) := updC l fun c => { c with l1 := [{ line := 0x100, bytes := List.replicate 128 1, lexp := 1, lwct := 0, pwct := 0, key := 1, prio := 1, used := 0, pois := ps }] }
    let look (s : State) := (s.core c0).l1Hit 0x100 (s.coreTime c0)
    [!q.returnFull t0, (f q).returnFull t0, op (f q) fun m => !m.silent, op p fun m => m.kind == .acquire && m.entry == none && m.ans == .failed && m.gen == (p.ctx t0.ctxRef).gen,
     !(thr p).step, !p.returnFull t0, op q fun m => homeRoom q m true && plainB ((homeUse q m true).noteScope m) 0 0 0x8000 4,
     op l fun m => !m.instr.prefL2 && m.entry == none && homeRoom l m true && plainB (homeUse l m true) 0 0 0x8000 128, (look l).isNone,
     (look (hit [])).any fun y => !y.bad 0x70 16, (look (hit [14])).any fun y => y.bad 0x70 16, !l.poisoned 0x8000 128, !(l.core c0).budgetHeld, !l.returnFull t0]) = true := by
  decide +kernel

theorem witness_AddressWaits_rehomed : allOf (
    let s := upd (DT 0x8000) fun x => x.wr 1 5
    let i : Instr := .waitaddr h 4 0 (some 1)
    let w := run i s
    let due := upd s fun x => { x with deadline := some 0 }
    let moved (va : Nat) := upd w fun x => { x with ph := .address (BitVec.ofNat 64 va) noLine 0 0 }
    let full := updC w fun c => { c with slices := modNth c.slices 0 fun y => { y with xrq := 16 } }
    let z := run (.sleep h none 9) D
    [due.deadlineDue t0 (thr due), runs due i, atPlace due i 0x8000 .read (.mem 0x8000 0 0 false), (thr w).cur.isSome, !w.returnFull t0, full.returnFull t0,
     (match w.rehome t0 (thr w).ph with | .address _ l _ n => decide (l ≠ noLine) && (w.line l).writes == n | _ => false),
     (match (moved 0x8000).rehome t0 (thr (moved 0x8000)).ph with | .address _ l _ _ => l == 0x100 | _ => false),
     (match (moved 0x5000000000).rehome t0 (thr (moved 0x5000000000)).ph with | .address _ l _ _ => l == noLine | _ => false),
     (thr (upd z fun x => { x with cur := none })).cur == none && (thr z).ph == .sleep]) = true := by decide +kernel

theorem witness_CopyChannelInstructions_room : allOf (
    let s := DC 0x8000; let f := fullSet s; let i : Instr := .tcopy h 0 4
    let loc : Place := .mem 0x8000 0 0 false
    let r := s.l2Ready t0.ctxRef loc (i.chAt 0x8000) true
    let ld := run (.ld h .b32 none 7 4 none 0) { s with cur := some t0 }
    [r.2, plainB (r.1.l2Use t0.ctxRef loc (i.chAt 0x8000) true) 0 0 0x8000 64, !(f.l2Ready t0.ctxRef loc (i.chAt 0x8000) true).2, !f.homeBad 0 loc 64, runs f i,
     atPlace f i 0x8000 .read loc, runs ld i, (ld.probe t0 (thr ld) (grp ld) i 0x8000 .read == .hold)]) = true := by decide +kernel

theorem witness_RingInstructions_uninitialised : allOf (
    let s := ringSt fun r => { r with k := 0, init := false }
    [(grp s).rings.getLsbD 0, !(s.ring t0.ccRef 0).init, runs s (.ringacqProd h 5 0), runs s (.ringacqCons h 5 0), runs s (.ringrelProd h 0), runs s (.ringrelCons h 0),
     runs s (.ringwaitProd h 0 (.imm 1)), runs s (.ringwaitCons h 0 (.imm 1))]) = true := by decide +kernel

theorem witness_CopyEngine_granules : allOf (
    let r := DQ true rawCopy; let cp := rawCopy; let len := cp.granule 0; let off := cp.destOff 0
    let wr (a : Nat) : Copy := { rawStore with desc := rawStore.desc - 0x9000 + a }
    let st := DQ true (wr 0x8000); let n := (wr 0x8000).granule 0
    let vas := (List.range n).map fun i => st.copyVa t0.ccRef (wr 0x8000) (storeEa (wr 0x8000) (0 + i))
    let t := (st.tstoreBytes t0.ccRef (wr 0x8000) 0 n).1.copyLines t0.ccRef .copyWrite (linesOf vas)
    let half := chanOf (fun k => { k with wp := k.wp.map fun _ => len }) r
    let bad := { r with scrPois := [(t0.ccRef, 0)] }
    let err := (bad.tcopysGranule t0.ccRef cp 0 len).2
    [0 < cp.dests, (r.copyDest t0.ccRef cp 0).any fun e => r.copyGranted t0.ccRef e.1 e.2 off len, decide (cp.total ≤ 2 * len), (half.chan t0.ccRef 0).st == .busy,
     (half.chan t0.ccRef 0).least cp.dests == len || decide (cp.total ≤ len), (r.foreignBytes t0.ccRef 0 cp (some t0.ccRef)).isEmpty, cp.srcSeqOf off == none,
     (match (st.tstoreGranule t0.ccRef (wr 0x8000) 0 n).2 with | .ok g => g.bytes.length == n | _ => false), (st.foreignBytes t0.ccRef 0 (wr 0x8000) none).isEmpty,
     (match t.2 with
      | .ok m => (match placeOf m (vas.getD 0 0) with | .mem pa slot _ false => pa == 0x8000 && (fun u : State => u.sectorPlain (u.sectorKey 0 slot 512) 512) (m.foldl (fun (s : State) (e : Nat × Place) => s.l2Use t0.ctxRef e.2 ((wr 0x8000).hint (dGaddr (wr 0x8000).desc)) false) (t.1.linesReady t0.ccRef vas m).1) | _ => false)
      | _ => false),
     (match err with | .error (.poison _) => true | _ => false), 0 < bad.parts.length,
     (match ((fullSet st).tstoreGranule t0.ccRef (wr 0x8000) 0 n).2 with | .error .wait => true | _ => false)]) = true := by decide +kernel

theorem witness_MatrixEngine_room : allOf (
    let z := run (.mzero h 1) DM
    let full := updC z fun c => { c with slices := modNth c.slices 0 fun y => { y with xrq := 16 } }
    let bad := { moreMmas 1 DM with accPois := [(t0.ccRef, (grp DM).cellIx 0 0 / 2)] }
    [!z.returnFull t0, full.returnFull t0, !bad.accPois.isEmpty, ((bad.core c0).mmas.all fun m => m.spoil.isEmpty)]) = true := by decide +kernel

theorem witness_Barriers_room : allOf (
    let gr : GangRef := { part := 0, ctx := 1, kidx := 0, gang := 0 }
    let rel := DB id fun r => { r with st := .released, deliver := [0] }
    let full := updC rel fun c => { c with slices := modNth c.slices 0 fun y => { y with xrq := 16 } }
    let held (s : State) := s.threads.any fun e => (match s.gang? gr with | some k => (k.groups gr).contains e.1.group | none => false) && e.1.core == 0 && s.returnFull e.1
    [held full, !held rel]) = true := by decide +kernel

theorem witness_WorkQueueInstructions_room : allOf (
    let s := DT 0x8000
    let q := updK s fun k => { k with qaddr := 0x9000, qlog := 4, closed := false }
    let pool := (pooled { q with cur := some t0 }).modCore c0 fun c => { c with tlb := [] }
    let l := run (.launch h 4) s
    let two := l.setThread (g0.thread 1) { thr l with htid := 1 }
    let wrap := updK q fun k => { k with head := 2 ^ 32 - 1, tail := 1, st := .fed }
    [(match (pool.appendRec kr0 [1, 2, 3, 4]) with | none => true | some _ => false), (two.lowerLane (g0.thread 1) ((two.thread? (g0.thread 1)).getD (thr two)) .launch), !l.lowerLane t0 (thr l) .launch,
     (wrap.kernel? kr0).any fun k => decide ((k.tail + 2 ^ 32 - k.head) % 2 ^ 32 = 2 ∧ 2 < k.qcap)]) = true := by decide +kernel

theorem witness_SignalInstructions_room : allOf (
    let s := DT 0x8000; let loc : Place := .mem 0x8000 0 0 false; let x := t0.ctxRef
    let z := run (.sigwait h .ne 4 (.imm 0)) s
    let f := fullSet s
    [(s.l2Ready x loc 0 true).2, plainB (((s.l2Ready x loc 0 true).1.l2Use x loc 0 true).scopeNote 0x100 (0, .pkg, 1)) 0 0 0x8000 4, !(f.l2Ready x loc 0 true).2,
     (match (f.sigRead t0 loc).2 with | .wait => true | _ => false), plainB z 0 0 0x8000 4]) = true := by decide +kernel

theorem witness_HandlerInstructions_kick : allOf (
    let s := DH 0x100004
    [(s.htidThread g0 0).any fun u => u.1 == t0, runs (upd s fun x => x.wr 3 5) (.tsww h 2 3), ((thr (upd s fun x => x.wr 3 5)).rd 3).getLsbD 2]) = true := by decide +kernel

theorem witness_IssueRoundsAndKicks_slices : allOf (
    let s := { D with cur := none }
    let sl (f : Slice → Slice) := updC s fun c => { c with slices := modNth c.slices 0 f }
    let held := sl fun y => { y with hold := some 228 }
    let rep (n : Nat) := sl fun y => { y with err := some 0x100000, again := [t0], stop := n }
    let full := sl fun y => { y with xiq := 16 }
    let y (s : State) : Slice := ((s.core c0).slices[0]?).getD Slice.reset
    let t1 (s : State) := s.retryReplays (s.heldBy c0)
    let fen := upd s fun x => { x with kick := true, ph := .fence (some .die) [] [] .retire, cur := some (.fence h .die) }
    let walk := upd (run (.ld h .b32 none 7 4 none 0) { upd D (pair 4 0x8000) with cur := some t0 }) fun x => { x with kick := true }
    let ans := upd s fun x => { x with ph := .answer 3, kick := true }
    let old := sl fun z => { z with table := [{ grp := 0, pc := 0x100000, htids := List.range 32, age := 5 }], issued := [7], round := 9 }
    [(y held).hold == some 228 && decide ((228 : DWord).toNat ≤ (held.coreTime c0).toNat + 228), (y (rep 2)).err.isSome && !(y (rep 2)).again.isEmpty && decide (0 < (y (rep 2)).stop),
     (y (rep 0)).stop == 0, ((t1 full).core c0).slices[0]?.any fun z => z.xiq == 16, (y full).err == none, (thr fen).st == .ready && (thr fen).kick,
     (match (thr walk).ph with | .walk _ => (thr walk).st == .ready && (thr walk).kick && (thr walk).cur.isSome | _ => false),
     (thr ans).st == .ready && (thr ans).ph == .answer 3, (y old).table.length == 1, (y old).issued == [7]]) = true := by decide +kernel

theorem witness_FaultService_cut : allOf (
    let s := run (.ld h .b32 none 5 4 none 0) (upd D (pair 4 0x8000))
    let far (s : State) := (((s.modDie 1 fun d => { d with diepart := 0x80000000 }).modPart 0 fun p => { p with dpt := modNth p.dpt 1 fun _ => 0x80000001 }).modCtx t0.ctxRef fun y => { y with ptroot := y.ptroot + BitVec.ofNat 64 hbmPerDie }).modCore c0 fun c => { c with tlb := [], walkc := [] }
    let cut := far s
    let rel := ((DH 0).modHolding t0.ccRef fun y => { y with olog := y.olog.map fun e => (e.1, { e.2 with stat := .released }) }).setThread t0 { thr D with st := .parked }
    let gone := far rel
    [!s.walkCut t0.ctxRef 0 0, cut.walkCut t0.ctxRef 0 0, !rel.walkCut t0.ctxRef 0 0x8000, gone.walkCut t0.ctxRef 0 0x8000, s.ctxRuns t0.ctxRef]) = true := by decide +kernel

theorem witness_LaunchPlacementAndSwaps_more : allOf (
    let s := { DT 0x8000 with cur := none }
    let x := t0.ctxRef
    let pl := s.modHolding t0.ccRef fun y => { y with plq := [0x8000] }
    let ret := (updG s fun g => { g with st := .retiring }).threads.foldl (fun s e => s.setThread e.1 { e.2 with st := .exited }) (updG s fun g => { g with st := .retiring })
    let sigd := later 100 (updK ret fun k => { k with donesig := 0x8000, doneadd := 1 })
    let cold := (pooled sigd).modCore c0 fun c => { c with tlb := [] }
    let poolL := (pooled (later 16000 pl)).modCore c0 fun c => { c with tlb := [] }
    let out := (updG s fun g => { g with st := .swapped, slots := [], tiles := [], latch := none }).setHolding t0.ccRef Holding.empty
    let out2 := { out with mem := foot0, keyTag := [] }
    let hit : SigWatch := { thr := t0, va := 0x8000, loc := some (.mem 0x8000 0 0 false), cmp := .eq, b := 1, due := false, hit := some (false, 9) }
    let back : State := { out2 with sigs := [hit] }
    let bad : State := { back with poison := Tab.put false [] (back.swapBase t0.ccRef / 64) true }
    let sw := s.threads.foldl (fun s e => s.setThread e.1 { e.2 with st := .wait, ph := .swapArr 0x8000 .eq 1 }) s
    let rd (w : Nat) : State := (s.homePut 0 0 0x20000 (bytesOfNat 8 w)).modCore c0 fun c => { c with tlb := [] }
    [(match poolL.decideLaunch x 0x8000 with | (_, .wait) => true | _ => false), (s.frontCheck x 0x8000 128 .write).isNone, inGlobal 0x8000 128, !inGlobal (2 ^ 56 - 1) 128,
     (s.frontCheck x 0x5000000000 128 .write).isSome,
     (match (cold.freeGroup g0 (grp cold)).frontSignal x 0x8000 true 1 with | (_, .error .wait) => true | _ => false), cold.groupQuiet g0 (grp cold),
     !sw.gangDelivering g0, (match back.swapHolds [g0] with | (s1, some _) => (s1.swapFit g0 (grp s1)).isSome && !s1.swapBad g0 (grp s1) && (grp s1).handler != 0 | _ => false),
     (match bad.swapHolds [g0] with | (s1, some _) => (s1.swapFit g0 (grp s1)).isSome && s1.swapBad g0 (grp s1) | _ => false),
     (rd 0xC000000000000018).frontCheck x 0x8000 128 .write == none, ((rd 0xC000000000000018).frontCheck x 0x8000 128 .both).isSome]) = true := by decide +kernel

theorem witness_GovernorAndVoltage_writes : allOf (
    let s := pow id 160000
    let v := (s.core c0).pwrctl
    let vt (w : DWord) := vtOf ((s.core c0).slices.map (·.tgt)) (pwVtrim w)
    let wr (n : Nat) : DWord := (v &&& 0xFFFFFFFFFFFF00FF) ||| BitVec.ofNat 64 (n * 256)
    let hold := updC s fun c => { c with slices := modNth c.slices 3 fun x => { x with tgt := 14, hold := some 50 } }
    [550 ≤ vt v && vt v ≤ 900, (vt (wr 0x7F) < 550 || 900 < vt (wr 0x7F)) || (vt (wr 0x80) < 550 || 900 < vt (wr 0x80)),
     (List.range 256).any fun n => decide (n ≠ v.toNat / 2 ^ 8 % 256 ∧ 550 ≤ vt (wr n) ∧ vt (wr n) ≤ 900 ∧ (vt (wr n)).toNat < (s.core c0).vnow (s.coreTime c0)),
     (List.range 256).any fun n => decide (n ≠ v.toNat / 2 ^ 8 % 256 ∧ 550 ≤ vt (wr n) ∧ vt (wr n) ≤ 900 ∧ (s.core c0).vnow (s.coreTime c0) ≤ (vt (wr n)).toNat),
     (s.core c0).slices.all fun x => x.hold == none, (hold.core c0).slices.any fun x => x.hold != none, ((s.core c0).slices.all fun x => decide (4 ≤ x.n ∧ x.n ≤ 16))]) = true := by
  decide +kernel

theorem witness_BudgetsErrorsAndBanks_errors : allOf (
    let s := pow id 5
    let rep (f : Slice → Slice) := updC s fun c => { c with slices := modNth c.slices 0 fun y => f { y with err := some 0x100000, again := [t0], stop := 0 } }
    let y (s : State) : Slice := ((s.core c0).slices[0]?).getD Slice.reset
    let q (s : State) := s.errorGroup t0.ccRef 0 (y s)
    let r := { s with cur := none, issueQ := [] }
    let stopped := { rep fun y => { y with stop := 2 } with cur := none, issueQ := [] }
    let rp := { rep id with cur := none, issueQ := [] }; let far := { rep fun y => { y with hold := some 9999 } with cur := none, issueQ := [] }
    let min := { rep fun y => { y with n := (s.core c0).pwrctl.toNat / 2 ^ 16 % 32 } with cur := none, issueQ := [] }
    [(thr s).htid / 512 = 0, (q r).contains t0, (y r).err ≠ some (thr r).pc, (q rp).contains t0, (y rp).err = some (thr rp).pc, (y rp).n ≠ (s.core c0).pwrctl.toNat / 2 ^ 16 % 32,
     (y rp).hold == none, 4 ≤ (y rp).n ∧ (y rp).n ≤ 16, (q far).contains t0, (y far).hold.isSome, (y far).err = some (thr far).pc, (q min).contains t0,
     (q stopped).isEmpty, (y stopped).stop ≠ 0, !(q rp).contains (g0.thread 1)]) = true := by decide +kernel

theorem witness_TimeAndElection_syncs : allOf (
    let y : SyncIn := { seq := 7, t2 := 1000, corr := 0, t1 := some 500, used := false }
    let st (x : TimeSt) (d : Int) := DP fun t => { t with st := x, port := 0, delay := some d, syncs := modNth t.syncs 0 fun _ => some y, masters := modNth t.masters 0 fun _ => some { prio := 4, gm := 3, steps := 0, sender := 0 } }
    let off (s : State) := s.time.offset 0
    let msg (n : Nat) : List Byte := List.replicate 30 0 ++ [BitVec.ofNat 8 (n / 256), BitVec.ofNat 8 n] ++ List.replicate 20 0
    let booted (s : State) : State := { s with pestle := { s.pestle with booted := true, pkg := 5 } }
    let quiet (s : State) : State := s.modLink (.port 0 0) fun l => { l with st := .quiesced }
    let wait := later 64000000 (booted (DP id))
    [[TimeSt.unset, .acquiring, .disciplined, .holdover, .lost].all fun x => off (st x 400) == some 100 && (st x 400).refOk 0,
     (st .unset 400).bestRef == some 0, off (st .acquiring 100) == some 400, 320 < (400 : Int).natAbs ∧ (400 : Int).natAbs ≤ (st .disciplined 100).epsilon,
     off (st .disciplined (-500)) == some 1000, (st .disciplined (-500)).epsilon < 1000, off (st .lost 1200) == some (-700), (st .disciplined 0).time.lostcnt < 0xFFFF,
     off ((st .acquiring 0).modTime fun t => { t with syncs := modNth t.syncs 0 fun _ => some { y with used := true } }) == none,
     seqOf (msg 7) = y.seq, seqOf (msg 8) ≠ y.seq, (quiet (DP id)).refOk 0, (quiet (DP id)).mgmtPorts == [0],
     wait.whisk.heard.toNat + 64000000 ≤ wait.time.gtime.toNat, wait.whisk.sched ≠ some 5, wait.whisk.peers.isEmpty, !wait.inReset,
     (later 63999999 (booted (DP id))).time.gtime.toNat < wait.whisk.heard.toNat + 64000000]) = true := by decide +kernel

theorem witness_EntriesAndStaging_fit : allOf (
    let stg : State := DS.setCtx x2 { DS.ctx x2 with st := .staging }
    let full : State := { stg with mem := [(0x20000000, 1)] ++ foot0.map fun c => (c.1 + 0x20000000, c.2) }
    [stg.allFit 0 (x2 :: stg.residents x2), (stg.residents x2).length ≤ 1, (full.ctx x2).st == .staging, !stg.allFit 0 (x2 :: stg.residents x2) || !(stg.directory x2).1.imageBad x2 (stg.directory x2).2]) = true := by
  decide +kernel

theorem witness_ContextSwitch_flips : allOf (
    let x := t0.ctxRef
    let st (c : CSt) (off : Bool) : State := D.setCtx x { D.ctx x with st := c, issueOff := off }
    let rep := updC (st .halting false) fun c => { c with slices := modNth c.slices 0 fun y => { y with err := some 0x100000, again := [t0] } }
    let base : State := ((DS.setCtx x { DS.ctx x with st := .saving }).setCtx x2 { DS.ctx x2 with st := .staged }).modPart 0 fun p => { p with next := some 2, flip := true }
    let gone : State := ((DS.setCtx x { DS.ctx x with st := .saved }).setCtx x2 { DS.ctx x2 with st := .staged }).modPart 0 fun p => { p with next := some 2, flip := true, running := none }
    let drop (s : State) : State := s.modPart 0 fun p => { p with flip := false }
    let ld : State := (DS.setCtx x2 { DS.ctx x2 with st := .loading }).modPart 0 fun p => { p with running := none }
    let busy : State := ld.setCtx x { ld.ctx x with st := .halting }
    let done : State := ld.setCtx x { ld.ctx x with st := .saved }
    [!(st .halting false).replayUnderWay x, rep.replayUnderWay x, (base.ctx x).st == .saving && (base.ctx x2).st == .staged && !base.ctxPoisoned x, gone.mayFlip x2, !(drop gone).mayFlip x2,
     (busy.ctxs.any fun e => e.1.part == 0 && e.2.st == .halting) && (busy.ctx x2).st == .loading,
     (done.ctxs.all fun e => e.2.st != .halting && e.2.st != .saving) && (done.ctx x2).st == .loading && (done.part 0).running == none && (done.cores.all fun e => e.2.mops.isEmpty && e.2.wc.isEmpty)]) = true := by
  decide +kernel

theorem witness_PlacementAndKeyRequests_second : allOf (
    let s := DU
    let two := s.modPart 0 fun q => { q with keylive := 0, keyDrain := [(0, .part 0, 7), (0, .operator, 8)] }
    [(two.part 0).keyDrain.find? (fun e => e.1 == 0) == some (0, .part 0, 7), (two.part 0).keyDrain.contains (0, .operator, 8), !(two.part 0).keyDrain.contains (0, .operator, 9),
     two.hostUp, Mailbox.mayName .operator 0, Mailbox.mayName (.part 0) 0, !Mailbox.mayName (.part 1) 0, !two.slotBusyKey 0 0]) = true := by decide +kernel

theorem witness_ContextAndConfigRequests_area : allOf (
    let s := DU
    [(List.range 4).all fun n => !s.areaLocal 0 (2 ^ 51) (n * 0x10000), s.areaLocal 0 0x20000000 0x100000, (s.pestle.svnMin.getD 0 0).toNat < 2 ^ 32]) = true := by decide +kernel

theorem witness_PartitionAndPackageResets_dies : allOf [(DU.partDies 0) = [0], (DU.partDies 0).Nodup, 0 < DU.dies.length, !DU.mem.isEmpty] = true := by decide +kernel

theorem witness_QueuesAndPackets_held : allOf (
    let s := DK .running 1 [8]
    let x := t0.ctxRef
    let held (pk : List Byte) : State := (DK .running 1 [8]).modQueue q0 fun y => { y with st := .blocked, hold := 1, held := pk ++ List.replicate (64 - pk.length) 0 }
    let dk (s : State) := pkDecode (leNat (s.queue q0).held)
    let w := held [4, 0, 1]
    [!decide ((s.queue q0).st = .blocked), decide (((held [3]).queue q0).st = .blocked), (held [3]).served q0, (match dk w with | .wait _ _ => true | _ => false),
     (match dk (held [3]) with | .signal .. => true | _ => false), (match dk (held [1]) with | .start _ => true | _ => false),
     (match ((held [4, 0, 1]).waitReads x [(0x5000000000, 0, .eq)]).2 with | .error (.fault _) => true | _ => false),
     (match ((held [4, 0, 1]).waitReads x [(0x8000, 0, .eq)]).2 with | .ok _ => true | _ => false),
     ((held [3]).pkRefusal x 3 = 0), (held [8]).pkRefusal x 9 ≠ 0]) = true := by decide +kernel

theorem witness_LadlePool_linked : allOf (
    let up : State := D.modLink (hostLink 0) fun l => { l with st := .up }
    let pend := up.modPart 0 fun p => { p with events := [(.wake 3, none)], ladles := [none] }
    let run' := up.modPart 0 fun p => { p with events := [(.doorbell 0, some 0)], ladles := [some 0, none] }
    [!D.ladleLinked 0 0, up.ladleLinked 0 0, !up.ladleLinked 0 3, (pend.part 0).nextEvent == some (.wake 3), (pend.part 0).ladles[0]? == some none, (run'.part 0).handled 0 == some (.doorbell 0),
     (run'.part 0).ladles[0]? == some (some 0), (later 16000001 run').time.gtime.toNat > 16000000]) = true := by decide +kernel

theorem witness_LinksAndFabric_requests : allOf (
    let s := DP id
    let rq : FReq := { die := 0, tag := 7, op := opRD, part := 0, line := 9, hdr := BitVec.ofNat 256 (2 ^ 72), load := [], sent := 0, resent := none, via := (0, 0), mop := none, thrs := [], held := true }
    let one : State := { s with freqs := [rq] }
    let far : State := { (s.modDie 0 fun d => { d with ppt := modNth d.ppt 0 fun _ => 0x800000F0 }) with freqs := [{ rq with via := (0, 1) }] }
    let wr : State := { s with freqs := [{ rq with op := opWR }] }
    let rs : State := { later 32000005 s with freqs := [{ rq with resent := some 5 }] }
    let sw := s.modPart 0 fun p => { p with affPend := true, affsw := 100 }
    [one.resendPort rq == (0, 0), far.resendPort { rq with via := (0, 1) } == (0, 0), (s.link (.port 0 0)).st.carries, hClass rq.hdr.toNat = 0, !one.isQueued rq,
     (later 32000000 one).time.gtime.toNat = 32000000, (0 : Nat) < (s.die 0).ports.length, (s.part 0).running == some 1, opRD ≠ opWR, (wr.freqs.all fun f => f.op == opWR),
     (rs.freqs.any fun f => f.resent == some 5), 5 + 32000000 ≤ rs.time.gtime.toNat, !rs.inReset, 0 < rs.parts.length,
     (later 99 sw).affActive 0 0 == false, (later 100 sw).affActive 0 0 == true, ((later 100 sw).partDies 0).all fun d => decide (100 ≤ ((later 100 sw).dieTime d).toNat),
     ((later 99 sw).partDies 0).any fun d => decide (((later 99 sw).dieTime d).toNat < 100)]) = true := by decide +kernel

theorem witness_LidHostAndRegisters_lid : allOf (
    let up : State := (D.modPart 0 fun p => { p with hwin := modNth p.hwin 0 fun _ => 0xC000000000000000 }).modLink (hostLink 0) fun x => { x with st := .up }
    let l : Lid := { t0 := 0, early := [], sent := [⟨0, 0, 9, 3, false⟩], marked := false, marks := [] }
    let lid (l : Lid) : State := { D with lid := some l }
    let l1 := updC D fun c => { c with l1 := [{ line := 0x100, bytes := List.replicate 128 1, lexp := 1, lwct := 0, pwct := 0, key := 1, prio := 1, used := 0, pois := [] }] }
    let tiles := demo .matrix
    [(lid l).lid.any fun l => !l.marked && !(l.sent.all fun e => e.acked), (lid { l with sent := [⟨0, 0, 9, 3, true⟩] }).lid.any fun l => l.early.isEmpty && (l.sent.all fun e => e.acked),
     (lid { l with marked := true }).lid.any fun l => l.marked && l.marks.isEmpty, D.cores.all fun e => e.2.mops.isEmpty && e.2.wc.isEmpty, !(D.lidWhole l 0), D.lidWhole { l with sent := [] } 0,
     (later 1600000 (lid l)).time.gtime.toNat = 1600000, ((D.part 0).lidaddr.getLsbD 63) == false,
     (up.link (hostLink 0)).st.carries, (match up.windowOf 0 0 8 with | some (_, w) => (up.part 0).keylive.getLsbD (w.toNat / 2 ^ 56 % 64) | none => false),
     (l1.core c0).l1.any fun y => y.line == 0x100, (l1.core c0).l1.all fun y => y.line != 0x101, (tiles.holding t0.ccRef).tiles.any fun t => t.1 == 0 / 8192,
     (D.readReg (.host 1) 0 (.ctxstat 1)).isNone, (D.readReg .pestle 0 (.portstat (.port 0 0))).isSome, (D.readReg (.ladle 0) 0 (.fwlink 0)).isNone,
     (D.readReg (.host 0) 0 (.ctxstat 1)).isSome || (D.readReg (.ladle 0) 0 (.ctxstat 1)).isSome, (D.readReg .pestle 0 (.qctl 0)).isSome]) = true := by decide +kernel

/-! ### Ill-formed terms, one for each check, and words that are no instruction (R96) -/

theorem test_ill_formed_refused : ([
    .brx h 5 0, .call h 5 0, .callx h 5 4 0, .callx h 4 5 0, .ret h 1, .enter h 0, .enter h 9, .redux h .and .f32 1 2 none, .scan h .xor .sli false 1 2 none,
    .lea h false 0 1 2 3, .lea h false 0 2 1 3, .iadd64 h 1 2 4, .iadd64 h 2 1 4, .iadd64 h 2 4 1, .iadd64Imm h 1 2 0, .iadd64Imm h 2 1 0, .f2i h .rn .f32 .i64 1 2,
    .i2f h .rn .f32 .n64 1 3, .f2f h .rn false .f16 .f16 1 2, .qcvt h .rn 0x18 1 4 0, .qcvt h .rn 0x11 1 5 0, .qcvt h .rn 0x11 1 4 12, .dqcvt h 0 4 1, .dqcvt h 3 5 1,
    .qpack h 5 1 2 3] : List Instr).all (fun i => !i.wf) = true := by decide +kernel

theorem test_ill_formed_memory_refused : ([
    .ld h .b64 none 1 2 none 0, .ld h .b32 none 1 3 none 0, .ldSp h .b128 false 2 1 none 0, .st h .b64 none 1 2 none 0, .st h .b32 none 1 3 none 0, .st h .i8 none 1 2 none 0,
    .st h .i16 none 1 2 none 0, .stSp h .b128 false 2 1 none 0, .stSp h .i8 false 1 1 none 0, .atom h .inc .f32 .relaxed .die 1 2 0 3, .atom h .add .n64 .relaxed .die 1 2 0 4,
    .atom h .add .n32 .relaxed .die 1 3 0 4, .atom h .add .n64 .relaxed .die 2 4 0 1, .cas h .n64 .relaxed .die 1 2 0 4, .cas h .n32 .relaxed .die 1 3 0 4, .cas h .n64 .relaxed .die 2 4 0 6,
    .red h .and .bf16x2 .relaxed .die 2 0 1, .red h .add .n32 .relaxed .die 3 0 1, .red h .add .i64 .relaxed .die 2 0 1, .waitaddr h 1 0 none, .sptest h 1 3] : List Instr).all (fun i => !i.wf) = true := by
  decide +kernel

theorem test_ill_formed_other_refused : ([
    .spcastGen h 1 2, .spcastSp h 2 1, .pref h false 1 none 0, .cctlInv h 1 0, .cctlWb h 1 0, .sdrop h 0 0, .sdrop h 95 2, .swake h 0 97, .gwmax h 1, .tcopy h 0 1, .tstore h 0 1,
    .tcopys h 0 1, .barinit h .die (.nb 0) (.imm 0), .barinit h .grp (.gb 0) (.imm 0), .wpop h 2, .wpush h 2 none, .wpush h 4 (some 1), .launch h 1, .signalSet h 1 (.imm 0),
    .signalAdd h 1 (.imm 0), .sigwait h .eq 1 (.imm 0), .gswap h .eq 1 (.imm 0), .qroom h 1 3, .sysr h 1 0x010, .sysw h 1 0x021, .sysr h 1 0x00D, .nop { h with ch := 1 }] : List Instr).all
    (fun i => !i.wf) = true := by decide +kernel

/-- R98 and R99: the same register, the same window, a read of X's destination, five registers read, and MOV with another b8. -/
theorem test_ill_formed_pairs_refused : ([
    .pair h ⟨.iadd, 1, .reg 2, .reg 3⟩ ⟨.iadd, 1, .reg 4, .imm 1⟩, .pair h ⟨.iadd, 1, .reg 2, .reg 3⟩ ⟨.iadd, 4, .reg 5, .imm 1⟩,
    .pair h ⟨.iadd, 1, .reg 2, .reg 3⟩ ⟨.iadd, 20, .reg 1, .imm 1⟩, .pair h ⟨.ffma, 1, .reg 2, .reg 3⟩ ⟨.iadd, 20, .reg 4, .reg 5⟩,
    .pair h ⟨.mov, 1, .reg 2, .imm 1⟩ ⟨.iadd, 20, .reg 4, .imm 5⟩] : List Instr).all (fun i => !i.wf) = true := by decide +kernel

/-- R96: the zero word, an unassigned MAJ, an unlisted SUB, a reserved bit of [95:94], an unused modifier bit, a reserved operand class, a class outside
the row's set, a reserved structured index, a reserved comparison code, a hint CH outside R95, a PAIR that breaks R99, a nonzero reserved part of an immediate, a reserved scope, an unlisted variant, and an immediate in A of BFE (R104). -/
theorem test_no_instruction : ([
    0x0, 0x1FFFFFFFFFFFEF010, 0x1FFE00E00C00AF180, 0x40000001FFE00E00C00AF080, 0x201FFE00E00C00AF080, 0x1FFE00E00C80AF080, 0x1FFE00E40200AF080, 0x1FFFFFF011FFEF0B2, 0x3001FFE00E00C404F087, 0x10000001FFE00E00C00AF080, 0x104018102020406F0E0, 0x1FFFFFFFFFFFEF0B7, 0xC000001FFFFFFFFEF095, 0x1FFE00E00C00AF420,
    0x00008001FFE006C02002F046] : List Nat).all
    (fun w => match decode (BitVec.ofNat 96 w) with | .ok _ => false | .error _ => true) = true := by decide +kernel

/-! ### Results that the spec works out, or that its rules give by hand -/

def reg (i : Instr) (s : State) (n : VReg) : Option Word := (after i s).map fun x => x.rd n
def vals (l : List (VReg × Word)) : State := upd D fun x => l.foldl (fun x e => x.wr e.1 e.2) x

/-- 09_level_index.md: 1.0 + 1.0. -/
theorem test_sadd_traced : reg (.sadd h 5 6 7) (vals [(6, 0x08000000), (7, 0x08000000)]) 5 = some 0x0D8B90C0 := by decide +kernel

/-- 09_level_index.md: each SEXP raises the level, up to the ceiling with LXS. -/
theorem test_sexp_levels : reg (.sexp h 1 1) (vals [(1, 0x08000000)]) 1 = some 0x10000000 ∧ reg (.sexp h 1 1) (vals [(1, 0x38000000)]) 1 = some 0x3FFFFFFF ∧
    (after (.sexp h 1 1) (vals [(1, 0x30000000)])).map (·.lxflags) = some lxU ∧ (after (.sexp h 1 1) (vals [(1, 0x38000000)])).map (·.lxflags) = some lxS := by decide +kernel

/-- 09_level_index.md: SLN of the ceiling, and the results on 0x4D8B90C0. -/
theorem test_sln_ceiling : reg (.sln h 1 1) (vals [(1, 0x3FFFFFFF)]) 1 = some 0x37FFFFFF ∧ (after (.sln h 1 1) (vals [(1, 0x3FFFFFFF)])).map (·.lxflags) = some lxD := by
  decide +kernel
theorem test_reciprocal_code : reg (.srecip h 1 2) (vals [(2, 0x4D8B90C0)]) 1 = some 0x0D8B90C0 ∧ reg (.sclass h 1 2) (vals [(2, 0x4D8B90C0)]) 1 = some 0x00010080 ∧
    reg (.scmp h .lt (.v 1) 2 3) (vals [(2, 0x4D8B90C0), (3, 0x08000000)]) 1 = some 1 ∧ reg (.scvtF32Sli h 1 2) (vals [(2, 0x4D8B90C0)]) 1 = some 0x3F000000 ∧
    (after (.scvtF32Sli h 1 2) (vals [(2, 0x4D8B90C0)])).map (·.fflags) = some fNX := by decide +kernel

/-- R163, R164: wrapping, saturating and the product's high half. -/
theorem test_integer_corners : reg (.iadd h false false 1 (.reg 2) (.imm 1)) (vals [(2, 0x7FFFFFFF)]) 1 = some 0x80000000 ∧
    reg (.iadd h false true 1 (.reg 2) (.imm 1)) (vals [(2, 0x7FFFFFFF)]) 1 = some 0x7FFFFFFF ∧ reg (.isub h true true 1 (.imm 1) (.reg 2)) (vals [(2, 2)]) 1 = some 0 ∧
    reg (.imulh h false 1 (.reg 2) (.reg 2)) (vals [(2, 0x80000000)]) 1 = some 0x40000000 ∧ reg (.imulh h false 1 (.reg 2) (.imm 1)) (vals [(2, 0x80000000)]) 1 = some 0xFFFFFFFF ∧
    reg (.iabs h true 1 2) (vals [(2, 0x80000000)]) 1 = some 0x7FFFFFFF ∧ reg (.imin h true 1 (.reg 2) (.imm 0x1FF)) (vals [(2, 5)]) 1 = some 5 := by decide +kernel

/-- R165: division by zero, the overflowing quotient, and truncation toward zero. -/
theorem test_division_corners : reg (.idiv h false false 1 2 3) (vals [(2, 7), (3, 0)]) 1 = some 0xFFFFFFFF ∧ reg (.idiv h false true 1 2 3) (vals [(2, 7), (3, 0)]) 1 = some 7 ∧
    reg (.idiv h false false 1 2 3) (vals [(2, 0x80000000), (3, 0xFFFFFFFF)]) 1 = some 0x80000000 ∧ reg (.idiv h false false 1 2 3) (vals [(2, 0xFFFFFFF9), (3, 2)]) 1 = some 0xFFFFFFFD ∧
    reg (.idiv h false true 1 2 3) (vals [(2, 0xFFFFFFF9), (3, 2)]) 1 = some 0xFFFFFFFF := by decide +kernel

/-- R169 to R172: counts beyond 31, the sign fill, the funnel, and a signed field. -/
theorem test_shifts_and_fields : reg (.shl h 1 (.reg 2) (.imm 32)) (vals [(2, 1)]) 1 = some 0 ∧ reg (.sar h 1 (.reg 2) (.imm 99)) (vals [(2, 0x80000000)]) 1 = some 0xFFFFFFFF ∧
    reg (.rot h 1 (.reg 2) (.imm 4)) (vals [(2, 0x80000001)]) 1 = some 0x00000018 ∧ reg (.funnel h false 1 2 3 (.imm 8)) (vals [(2, 0x11223344), (3, 0xAABBCCDD)]) 1 = some 0x223344AA ∧
    reg (.clz h 1 2) (vals [(2, 0)]) 1 = some 32 ∧ reg (.brev h 1 2) (vals [(2, 1)]) 1 = some 0x80000000 ∧
    reg (.bfeImm h false 1 2 0x0404) (vals [(2, 0x000000F0)]) 1 = some 0xFFFFFFFF := by decide +kernel

/-- R185 to R188 on binary32: one rounding, a division by zero, an invalid sum, and an ordered comparison with a NaN. -/
theorem test_float_corners : reg (.fadd h .rn false 1 (.reg 2) (.reg 3)) (vals [(2, 0x3F800000), (3, 0x33800000)]) 1 = some 0x3F800000 ∧
    reg (.fadd h .ru false 1 (.reg 2) (.reg 3)) (vals [(2, 0x3F800000), (3, 0x33800000)]) 1 = some 0x3F800001 ∧
    (after (.fdiv h .rn false 1 (.reg 2) (.reg 3)) (vals [(2, 0xBF800000), (3, 0)])).map (fun x => (x.rd 1, x.fflags)) = some (0xFF800000, fDZ) ∧
    (after (.fsub h .rn false 1 (.reg 2) (.reg 2)) (vals [(2, 0x7F800000)])).map (fun x => (x.rd 1, x.fflags)) = some (0x7FC00000, fNV) ∧
    reg (.fset h false .nan (.v 1) 2 (.imm 0)) (vals [(2, 0x7FC00000)]) 1 = some 1 ∧ reg (.f2i h .rz .f32 .i32 1 2) (vals [(2, 0xBFC00000)]) 1 = some 0xFFFFFFFF := by
  decide +kernel

/-- 06_control.md: the link of a call, and BRA by two words back. -/
theorem test_control_targets : (after (.bra h 0xFFFFFFFE) D).map (·.pc) = some 0x0FFFE8 ∧
    ((after (.call h 6 0) (D.homePut 0 0 0x100000 [0x0F, 0xF0, 0xFE, 0xFF, 0xFF, 0x11])).map fun x => (x.rd 6, x.rd 7, x.pc)) = some (0x10000C, 0, 0x100000) := by decide +kernel

/-- R396: a trap saves the PC and goes to the handler. -/
theorem test_bkpt_entry : (after (.bkptN h 7) D).map (fun x => (x.epc, x.tinfo, x.pc, x.h, x.cause)) = some (0x100000, 7, 0x200000, true, 0x11) := by decide +kernel

/-- R250: bytes of the own scratchpad, low byte first, and the sign of .i8. -/
theorem test_scratchpad_bytes :
    let s := run (.stSp h .b32 false 2 4 none 0) (vals [(2, 0x8877F6F5), (4, 16)])
    reg (.ldSp h .i8 false 1 4 none 1) s 1 = some 0xFFFFFFF6 ∧ reg (.ldSp h .n16 false 1 4 none 2) s 1 = some 0x00008877 := by decide +kernel

/-- R101: X reads the old value of Y's destination. -/
theorem test_pair_reads_first : (after (.pair h ⟨.iadd, 1, .reg 20, .imm 1⟩ ⟨.mov, 20, .reg 2, .imm 0⟩) (vals [(20, 8), (2, 5)])).map (fun x => (x.rd 1, x.rd 20)) = some (9, 5) := by
  decide +kernel

/-- R129, R94: a dead window reads as lost, and the next instruction that reads it traps DEADREG. -/
theorem test_dead_window : (after (.mov { h with wdrop := 2 } (.v 16) (.imm 1)) D).map (fun x => (x.live.getLsbD 1, x.rd 16)) = some (false, 0) ∧
    (after (.mov h (.v 0) (.v 16)) (run (.nop { h with wdrop := 2 }) D)).map (·.cause) = some 0x02 := by decide +kernel

/-- The host's two questions, on the word of NOP: it decodes, and it is the first instruction after reset. -/
theorem test_first_step : decodeTableWord 96 0x00000001FFFFFFFFFFFEF001 = some (.nop h) ∧
    (match step (State.reset.withFetchWord 96 0x00000001FFFFFFFFFFFEF001) with | .next s => (s.thread? t0).map (·.pc) | _ => none) = some 0x10000C := by decide +kernel

/-- FIPS 197, appendix C.3: AES-256. -/
theorem test_aes_vector : aesEnc (roundKeys (List.range 32)) ((List.range 16).map fun i => 17 * i) =
    [0x8E, 0xA2, 0xB7, 0xCA, 0x51, 0x67, 0x45, 0xBF, 0xEA, 0xFC, 0x49, 0x90, 0x4B, 0x49, 0x60, 0x89] := by decide +kernel

/-! ### Words written from the encoding tables (R84 to R106), and that each instruction runs on a state of the demo -/

/-- A thread whose guard passes, in a group whose role may issue the word. -/
def ready (w : BitVec 96) : State :=
  upd (demo (roleFor w)) fun x => { x with preds := if w.getLsbD 16 then 0 else BitVec.allOnes 15 }

/-- The words of R103, control. -/
def words_control : List (BitVec 96 × Instr) :=
  [(0x081D0001FFFFFFFFFFFF3001, .nop { ch := 0, wdrop := 0x81, yld := true, gap := 5, gn := true, gp := 3 }),
   (0x000001FFFFFFFDFFFFFE1002, .bra { h with gp := 1 } 0xFFFFFFFE),
   (0x0000000000000A009FFEF003, .brx h 4 5),
   (0x000001FFFFFFFFFFE00CF004, .call h 6 0xFFFFFFFF),
   (0x00000000000002014010F005, .callx h 8 10 1),
   (0x00000000000000019FFEF006, .ret h 12),
   (0x00000001FFFFFFFFFFFEF007, .exitThread h),
   (0x00000001FFFFFF09FFFEF008, .jenrol h 15),
   (0x00000001FFFFFF081FFEF009, .jwait h 0),
   (0x00000001FFFFFF08FFFEF00A, .jdrop h 7),
   (0x00000001FFFFFF0820FEF00B, .jstat h 127 1),
   (0x000000000000C8007FFEF00C, .sleep h (some 3) 100),
   (0x00000100000003FFFFFEF00C, .sleep h none 0x80000001),
   (0x00000000002469FFFFFEF00D, .bkptN h 0x1234),
   (0x0000000001579BFFFFFEF00E, .trapN h 0xABCD),
   (0x00000000000011FFFFFEF00F, .enter h 8)]

theorem test_decode_control : decodesTo words_control = true := by decide +kernel
theorem witness_runs_control : words_control.all (fun p => runs (ready p.1) p.2) = true := by decide +kernel

/-- The words of R103, cross-lane. -/
def words_cross_lane : List (BitVec 96 × Instr) :=
  [(0x00000024012C2000C00AF320, .shfl h .xor (some 2) 5 (.reg 6) (.imm 16) (some 9)),
   (0x00000001FFE00EFFE00AF120, .shfl h .up none 5 (.imm 0x1FF) (.reg 7) none),
   (0x00000001FFFFFE404402F221, .vote h .uni 1 2 none),
   (0x00000000003FFE406008F022, .ballot h 4 3 (some 1)),
   (0x00000081FFFFFE00A008F123, .matchLanes h .all true 4 5 none),
   (0x00000041FFFFFE00A008F524, .redux h .xor .n32 4 5 none),
   (0x000080C000DFFE00A008F225, .scan h .max .sli true 4 5 (some 6)),
   (0x00000001FFFFFFFFE400F026, .elect h 0 none),
   (0x00000000007FFFFFE004F027, .present h 2 (some 3))]

theorem test_decode_cross_lane : decodesTo words_cross_lane = true := by decide +kernel
theorem witness_runs_cross_lane : words_cross_lane.all (fun p => runs (ready p.1) p.2) = true := by decide +kernel

/-- The words of R103, integer arithmetic. -/
def words_integer : List (BitVec 96 × Instr) :=
  [(0x00004001FFEE00004002F030, .iadd h false true 1 (.reg 2) (.imm 0x100)),
   (0x0022C00000200000C00A3830, .iaddImm { h with gp := 3, gap := 2, wdrop := 2 } true true 5 (.reg 6) 0x1000),
   (0x00008001FFE006C02002F031, .isub h true false 1 (.imm 1) (.reg 3)),
   (0x0000000000000E004002F831, .isubImm h false false 1 (.reg 2) 7),
   (0x00000001FFE006004002F032, .imul h false 1 (.reg 2) (.reg 3)),
   (0x00008000000012004002F832, .imulImm h true 1 (.reg 2) 9),
   (0x00008001FFE006004002F033, .imulh h true 1 (.reg 2) (.reg 3)),
   (0x00000000000012004002F833, .imulhImm h false 1 (.reg 2) 9),
   (0x0000C000C08006004002F034, .imad h true true 1 2 (.reg 3) (.imm 4)),
   (0x00000001FFE006004002F035, .imin h false 1 (.reg 2) (.reg 3)),
   (0x0000800000000A004002F835, .iminImm h true 1 (.reg 2) 5),
   (0x00008001FFE006004002F036, .imax h true 1 (.reg 2) (.reg 3)),
   (0x0000000000000A004002F836, .imaxImm h false 1 (.reg 2) 5),
   (0x00004001FFFFFE004002F037, .iabs h true 1 2),
   (0x00000001FFFFFE004002F038, .ineg h false 1 2),
   (0x0000800BFFE00C008004F04E, .lea h true 5 2 4 6),
   (0x00000001FFE00C008004F04F, .iadd64 h 2 4 6),
   (0x000001FFFFFFF0008004F84F, .iadd64Imm h 2 4 0xFFFFFFF8),
   (0x00008001FFE006004002F150, .idiv h true true 1 2 3),
   (0x00004004008006004002F051, .dot4 h true true false 1 2 3 4)]

theorem test_decode_integer : decodesTo words_integer = true := by decide +kernel
theorem witness_runs_integer : words_integer.all (fun p => runs (ready p.1) p.2) = true := by decide +kernel

/-- The words of R103, logic, fields, selection and moves. -/
def words_logic : List (BitVec 96 × Instr) :=
  [(0x00000001FFE006004002F039, .andW h 1 (.reg 2) (.reg 3)),
   (0x00000001FE01FE004002F839, .andWImm h 1 (.reg 2) 0xFF00FF),
   (0x00000001FFE006C06002F03A, .orW h 1 (.imm 3) (.reg 3)),
   (0x00000000000002004002F83A, .orWImm h 1 (.reg 2) 1),
   (0x00000001FFEFFE004002F03B, .xorW h 1 (.reg 2) (.imm 0x1FF)),
   (0x00000000000002C04002F83B, .xorWImm h 1 (.imm 2) 1),
   (0x00000001FFE006004002F03D, .andnW h 1 (.reg 2) (.reg 3)),
   (0x00000000000002004002F83D, .andnWImm h 1 (.reg 2) 1),
   (0x00000001FFFFFE004002F03C, .notW h 1 2),
   (0x00000001FFFFFE004002F043, .popc h 1 2),
   (0x00000001FFFFFE004002F044, .clz h 1 2),
   (0x00000001FFFFFE004002F045, .brev h 1 2),
   (0x00000001FFEC3E004002F03E, .shl h 1 (.reg 2) (.imm 31)),
   (0x00000000000042004002F83E, .shlImm h 1 (.reg 2) 33),
   (0x00000001FFE006004002F03F, .shr h 1 (.reg 2) (.reg 3)),
   (0x00000000000008004002F83F, .shrImm h 1 (.reg 2) 4),
   (0x00000001FFE006004002F040, .sar h 1 (.reg 2) (.reg 3)),
   (0x00000000000008004002F840, .sarImm h 1 (.reg 2) 4),
   (0x00000001FFE006004002F041, .rot h 1 (.reg 2) (.reg 3)),
   (0x00000000000008004002F841, .rotImm h 1 (.reg 2) 4)] ++
  [(0x00000000C10006004002F142, .funnel h true 1 2 3 (.imm 8)),
   (0x00008001FFE006004002F046, .bfe h true 1 2 3),
   (0x00000000001008004002F846, .bfeImm h false 1 2 0x804),
   (0x00000000008006004002F047, .bfi h 1 2 3 (.reg 4)),
   (0x00000000008006004002F048, .perm h 1 2 3 4),
   (0x0000000041E006004002F049, .sel h 1 (.reg 2) (.reg 3) 15),
   (0x00000801FFEC00004002F04A, .iset h false .ne (.v 1) 2 (.imm 0)),
   (0x0000A80000000C004402F84A, .isetImm h true .ge (.p 1) 2 6),
   (0x000001D0408406404402F04B, .plop h 0xE8 1 2 3 4),
   (0x00000001FFFFFE004402F04C, .mov h (.p 1) (.v 2)),
   (0x00000001FFFFFE404002F04C, .mov h (.v 1) (.p 2)),
   (0x00000001FFFFFEFF6002F04C, .mov h (.v 1) (.imm 0x1FB)),
   (0x000001BD5B7DDFFFE002F04D, .movi h 1 0xDEADBEEF)]

theorem test_decode_logic : decodesTo words_logic = true := by decide +kernel
theorem witness_runs_logic : words_logic.all (fun p => runs (ready p.1) p.2) = true := by decide +kernel

/-- The words of R103, float. -/
def words_float : List (BitVec 96 × Instr) :=
  [(0x0000A001FFE006004002F060, .fadd h .rd true 1 (.reg 2) (.reg 3)),
   (0x0000C07F000000C04002F860, .faddImm h .ru false 1 (.imm 2) 0x3F800000),
   (0x0000A001FFE006004002F061, .fsub h .rd true 1 (.reg 2) (.reg 3)),
   (0x0000C07F000000C04002F861, .fsubImm h .ru false 1 (.imm 2) 0x3F800000),
   (0x0000A001FFE006004002F062, .fmul h .rd true 1 (.reg 2) (.reg 3)),
   (0x0000C07F000000C04002F862, .fmulImm h .ru false 1 (.imm 2) 0x3F800000),
   (0x0000A001FFE006004002F071, .fdiv h .rd true 1 (.reg 2) (.reg 3)),
   (0x0000C07F000000C04002F871, .fdivImm h .ru false 1 (.imm 2) 0x3F800000),
   (0x00004000C02006004002F063, .ffma h .rz false 1 2 (.reg 3) (.imm 1)),
   (0x00002001FFE006004002F064, .fmin h true 1 (.reg 2) (.reg 3)),
   (0x000000FF800000004002F864, .fminImm h false 1 (.reg 2) 0x7FC00000),
   (0x00002001FFE006004002F065, .fmax h true 1 (.reg 2) (.reg 3)),
   (0x000000FF800000004002F865, .fmaxImm h false 1 (.reg 2) 0x7FC00000),
   (0x00002E01FFE006004404F066, .fset h true .nan (.p 2) 2 (.reg 3)),
   (0x00000480000000004004F866, .fsetImm h false .lt (.v 2) 2 0x40000000),
   (0x00000001FFFFFE004002F067, .fclass h 1 2),
   (0x00008001FFFFFE004002F068, .frnd h .rd false 1 2),
   (0x00002001FFFFFE004002F06B, .fsqrt h .rn true 1 2),
   (0x00002001FFFFFE004002F069, .frcp h true 1 2),
   (0x00002001FFFFFE004002F06A, .frsq h true 1 2)] ++
  [(0x00002001FFFFFE004002F06C, .fex2 h true 1 2),
   (0x00002001FFFFFE004002F06D, .flg2 h true 1 2),
   (0x00002001FFFFFE004002F06E, .fsin h true 1 2),
   (0x00002001FFFFFE004002F06F, .fcos h true 1 2),
   (0x00002001FFFFFE004002F070, .ftanh h true 1 2)]

theorem test_decode_float : decodesTo words_float = true := by decide +kernel
theorem witness_runs_float : words_float.all (fun p => runs (ready p.1) p.2) = true := by decide +kernel

/-- The words of R103, packed and conversion. -/
def words_packed : List (BitVec 96 × Instr) :=
  [(0x00004001FFE006004002F172, .hadd2 h .f16 .rz false 1 (.reg 2) (.reg 3)),
   (0x0000007F007F00004002F872, .hadd2Imm h .bf16 .rn false 1 (.reg 2) 0x3F803F80),
   (0x00002001FFE006004002F073, .hmul2 h .bf16 .rn true 1 (.reg 2) (.reg 3)),
   (0x00000078007800004002F973, .hmul2Imm h .f16 .rn false 1 (.reg 2) 0x3C003C00),
   (0x00000000008006004002F174, .hfma2 h .f16 .rn false 1 2 (.reg 3) (.reg 4)),
   (0x00000001FFE006004002F275, .hmnx2 h .bf16 true false 1 (.reg 2) (.reg 3)),
   (0x00002000007800004002F975, .hmnx2Imm h .f16 false true 1 (.reg 2) 0x3C00),
   (0x0000400DFFFFFE004008F076, .f2i h .rz .f32 .i64 4 2),
   (0x0000008BFFFFFE004008F077, .i2f h .rn .f16 .n8 4 2),
   (0x00002101FFFFFE004008F078, .f2f h .rn true .bf16 .f32 4 2),
   (0x0000C029FFE416008002F079, .qcvt h .ru 0x14 1 4 11),
   (0x00000007FFFFFE004008F07A, .dqcvt h 3 4 2),
   (0x0000005FFFE006004008F07B, .qpack h 0x2F 4 2 3),
   (0x00004000008006004002F07C, .fdot2 h .rz false 1 2 3 4),
   (0x00000001FFEFFA004002F07D, .fscale h .rn false 1 2 (.imm 0x1FD)),
   (0x00000000000258004002F87D, .fscaleImm h .rn false 1 2 300)]

theorem test_decode_packed : decodesTo words_packed = true := by decide +kernel
theorem witness_runs_packed : words_packed.all (fun p => runs (ready p.1) p.2) = true := by decide +kernel

/-- The words of R103, level-index; the words of SADD, SCVT and SCMP stand in 09_level_index.md. -/
def words_level_index : List (BitVec 96 × Instr) :=
  [(0x00000001FFE00E00C00AF080, .sadd h 5 6 7),
   (0x00000001FFE00E00C00AF081, .ssub h 5 6 7),
   (0x00000001FFE00E00C00AF082, .smul h 5 6 7),
   (0x00000001FFE00E00C00AF083, .sdiv h 5 6 7),
   (0x00000001FFFFFE00C00AF084, .ssq h 5 6),
   (0x00000001FFFFFE00C00AF085, .sexp h 5 6),
   (0x00000001FFFFFE00C00AF086, .sln h 5 6),
   (0x00000001FFFFFE00C00AF088, .sclass h 5 6),
   (0x00000001FFFFFE00C00AF08A, .srecip h 5 6),
   (0x00000001FFFFFE00C00AF089, .scvtSliF32 h 5 6),
   (0x00000001FFFFFE008012F189, .scvtF32Sli h 9 4),
   (0x00001001FFE00E00C404F087, .scmp h .lt (.p 2) 6 7)]

theorem test_decode_level_index : decodesTo words_level_index = true := by decide +kernel
theorem witness_runs_level_index : words_level_index.all (fun p => runs (ready p.1) p.2) = true := by decide +kernel

/-- The words of R105, R106. -/
def words_memory : List (BitVec 96 × Instr) :=
  [(0x3000BFFFFF001200800AF190, .ld { h with ch := 3 } .i8 (some .pod) 5 4 (some 9) 0xFFFFF8),
   (0x00002000021FFE006010FE90, .ldSp h .b128 true 8 3 none 0x10),
   (0x00006000001FFE00800CF591, .st h .b64 (some .die) 6 4 none 0),
   (0x00000000001FFE00A00CF891, .stSp h .n8 false 6 5 none 0),
   (0x0000400001000601400EFC92, .atom h .add .n32 .acqrel .die 7 10 8 3),
   (0x00000C9FFF0004014010F892, .atom h .exch .n64 .rel .core 8 10 0xFFF8 2),
   (0x0000804000000401400EF493, .cas h .i32 .acq .pod 7 10 0 2),
   (0x00002540000004015FFEF094, .red h .max .bf16x2 .relaxed .quad 10 0 2),
   (0x00002000001FFFFFFFFEF095, .fence h .core),
   (0x00000000008002031FFEF096, .waitaddr h 24 4 (some 1)),
   (0x00000001FFFFFE004026F097, .sptest h 19 2),
   (0x00000001FFFFFE006004F098, .spcastGen h 2 3),
   (0x00000001FFFFFE004006F198, .spcastSp h 3 2),
   (0x10000000002006005FFEF199, .pref { h with ch := 1 } true 2 (some 3) 1),
   (0x00000000101FFE005FFEF09A, .cctlInv h 2 128),
   (0x00000000001FFE005FFEF19A, .cctlWb h 2 0),
   (0x00000000001FFFFFFFFEF29A, .cctlInvall h),
   (0x00000001FFFFFFFFFFFEF09B, .wcflush h),
   (0x00000000001051FFFFFEF09C, .sdrop h 40 8),
   (0x000000000002BFFFFFFEF09D, .swake h 95 1)] ++
  [(0x00000001FFFFFFFFE00CF09E, .gwmax h 6)]

theorem test_decode_memory : decodesTo words_memory = true := by decide +kernel
theorem witness_runs_memory : words_memory.all (fun p => runs (ready p.1) p.2) = true := by decide +kernel

/-- The words of R103, copy channels and stage rings. -/
def words_copy_ring : List (BitVec 96 × Instr) :=
  [(0x20000001FFFFFE009204F0A0, .tcopy { h with ch := 2 } 2 4),
   (0x00000001FFFFFE00920EF0A1, .tstore h 7 4),
   (0x00000001FFFFFE009200F0A2, .tcopys h 0 4),
   (0x00000001FFEC07206002F0A3, .chptr h 1 3 (.imm 3)),
   (0x00000001FFE00F205FFEF0A4, .chwait h 2 7),
   (0x00000001FFFFFF203FFEF0A5, .chdrain h 1),
   (0x00000001FFFFFF202012F0AA, .chstat h 9 1),
   (0x00000000C08005283FFEF0A6, .ringinit h 1 2 (.imm 4)),
   (0x00000001FFFFFF282012F0A7, .ringacqProd h 9 1),
   (0x00000001FFFFFF282012F1A7, .ringacqCons h 9 1),
   (0x00000001FFFFFF28FFFEF0A8, .ringrelProd h 7),
   (0x00000001FFFFFF28FFFEF1A8, .ringrelCons h 7),
   (0x00000001FFE007285FFEF0A9, .ringwaitProd h 2 (.reg 3)),
   (0x00000001FFEC0B285FFEF1A9, .ringwaitCons h 2 (.imm 5))]

theorem test_decode_copy_ring : decodesTo words_copy_ring = true := by decide +kernel
theorem witness_runs_copy_ring : words_copy_ring.all (fun p => runs (ready p.1) p.2) = true := by decide +kernel

/-- The words of R103, matrix. -/
def words_matrix : List (BitVec 96 × Instr) :=
  [(0x0000F00000C00A009002F2B0, .mma h .i 15 1 4 5 6),
   (0x00000001FFEC00C41002F0B1, .mdecl h 1 (.imm 32) (.imm 0)),
   (0x00000001FFFFFF003FFEF0B2, .mwait h 1),
   (0x00000001FFFFFF00FFFEF0B3, .mfence h 7),
   (0x00000001FFFFFE007FFEF0B4, .mzero h 3),
   (0x00000001FFE008007FFEF3B5, .mload h true 3 4),
   (0x00000001FFE078077FFEF2B6, .mstore h .sli 59 60),
   (0x00000000000147FFFFFEF0B7, .mlive h 0xA3),
   (0x00000001FFFFFFFFE006F0B8, .mstat h 3)]

theorem test_decode_matrix : decodesTo words_matrix = true := by decide +kernel
theorem witness_runs_matrix : words_matrix.all (fun p => runs (ready p.1) p.2) = true := by decide +kernel

/-- The words of R103, barriers and work queues. -/
def words_barrier_queue : List (BitVec 96 × Instr) :=
  [(0x00000001FFFFFE003186F4C0, .barinit h .pod (.gb 3) (.reg 1)),
   (0x00000001FFFFFEC8111EF0C0, .barinit h .grp (.nb 15) (.imm 64)),
   (0x00000001FFFFFF105FFEF0C1, .bararv h (.nb 2)),
   (0x00000001FFFFFF185FFEF0C2, .barwait h (.gb 2)),
   (0x00000001FFFFFF103FFEF0C3, .barsync h (.nb 1)),
   (0x00000001FFFFFF18000AF0C4, .barstat h 5 (.gb 0)),
   (0x00000001FFE013103FFEF0C5, .barset h (.nb 1) (.reg 9)),
   (0x00000001FFFFFF183FFEF0C6, .gbar h 1),
   (0x00000001FFFFFFFFE008F0D0, .wpop h 4),
   (0x00000001FFE03C011FFEF0D1, .wpush h 8 (some 30)),
   (0x00000001FFFFFE011FFEF0D1, .wpush h 8 none),
   (0x00000001FFFFFE025FFEF0D2, .launch h 18),
   (0x00000001FFE00A009FFEF0D3, .signalSet h 4 (.reg 5)),
   (0x00000001FFEC02009FFEF1D3, .signalAdd h 4 (.imm 1)),
   (0x00000801FFEC00009FFEF0D4, .sigwait h .ne 4 (.imm 0)),
   (0x00002801FFEC5000DFFEF0D5, .gswap h .ge 6 (.imm 40)),
   (0x00000001FFFFFE03C012F0D6, .qroom h 9 30)]

theorem test_decode_barrier_queue : decodesTo words_barrier_queue = true := by decide +kernel
theorem witness_runs_barrier_queue : words_barrier_queue.all (fun p => runs (ready p.1) p.2) = true := by decide +kernel

/-- The words of R98, R103, pairs and system. -/
def words_system : List (BitVec 96 × Instr) :=
  [(0x00000101028342282A2CF0E0, .pair h { op := .fmul, d := 20, a := .reg 21, b := .reg 22 } { op := .iadd, d := 1, a := .reg 2, b := .imm 3 }),
   (0x00000000000041FFE038F0E1, .sysr h 28 0x020),
   (0x00000000000048005FFEF0E2, .sysw h 2 0x024),
   (0x00000001FFFFFFFFFFFEF0E3, .tret h),
   (0x00000001FFFFFE006004F0E4, .tswr h 2 3),
   (0x00000001FFE00A009FFEF0E5, .tsww h 4 5),
   (0x00000001FFEC06016014F0E6, .ologr h 10 11 (.imm 3)),
   (0x00000001FFFFFFFFE06CF0E7, .xgetPred h 54),
   (0x00000001FFFFFF08400CF1E7, .xgetStruct h 6 (.jb 2)),
   (0x00000001FFE007FFFFFEF0E8, .xsetPred h 3),
   (0x00000001FFE06F083FFEF1E8, .xsetStruct h (.jb 1) 55),
   (0x00000001FFFFFEC0E002F0E9, .placeCore h 1 (.imm 7)),
   (0x00000001FFFFFE00E002F1E9, .placeDie h 1 (.reg 7)),
   (0x00000001FFFFFE00E002F2E9, .placePort h 1 (.reg 7))]

theorem test_decode_system : decodesTo words_system = true := by decide +kernel
theorem witness_runs_system : words_system.all (fun p => runs (ready p.1) p.2) = true := by decide +kernel

end Sys2Proof.Tests
end

/-! ## Memory of HBM keeps its canonical form (O6)

Every operation of the model either leaves HBM and the two tables beside it as they are (`…_hbm`, of an outcome `…_keeps`), which says nothing of
their form and serves any later frame argument, or changes them only through `memPut` and `Tab.put` and so keeps their canonical form (`…_hbmWf`, of
an outcome `…_goesOnWf`). The lemmas stand in the order of the definitions they speak of. -/

/-! ### HBM and what leaves it alone -/

namespace Sys2Proof.Machine
open Sys2Proof

/-- What HBM holds, with the tables of key tags and of poison beside it. -/
def State.hbm (s : State) : List Host.Cell × Tab Nat × Tab Bool := (s.mem, s.keyTag, s.poison)

/-! An equation proved by `(rfl)`, unlike one proved by `rfl`, is one that `simp` may use where it must prove a side condition. -/

@[simp] theorem State.hbm_fold (s : State) : (s.mem, s.keyTag, s.poison) = s.hbm := (rfl)

@[simp] theorem State.hbm_mk (time whisk pestle lid inReset dies links parts ctxs kernels gangs groups threads holds cores mem keyTag poison
    regPois scrPois accPois hostAns lines pool poolAge freqs nextTag outbox cur issueQ agenda fresh moves matMeta copyMeta swapMeta
    vtMeta codeOld notes sigs) :
    (State.mk time whisk pestle lid inReset dies links parts ctxs kernels gangs groups threads holds cores mem keyTag poison
      regPois scrPois accPois hostAns lines pool poolAge freqs nextTag outbox cur issueQ agenda fresh moves matMeta copyMeta swapMeta
      vtMeta codeOld notes sigs).hbm = (mem, keyTag, poison) := (rfl)

@[simp] theorem State.hbm_ite (c : Prop) [Decidable c] (s u : State) : (if c then s else u).hbm = if c then s.hbm else u.hbm :=
  apply_ite _ _ _ _

theorem foldl_hbm {α : Type} (f : State → α → State) (h : ∀ s a, (f s a).hbm = s.hbm) (l : List α) (s : State) :
    (l.foldl f s).hbm = s.hbm := by
  induction l generalizing s with
  | nil => rfl
  | cons a l ih => exact (ih _).trans (h s a)

theorem foldl_pair_hbm {α β : Type} (f : State × β → α → State × β) (h : ∀ p a, (f p a).1.hbm = p.1.hbm) (l : List α)
    (p : State × β) :
    (l.foldl f p).1.hbm = p.1.hbm := by
  induction l generalizing p with
  | nil => rfl
  | cons a l ih => exact (ih _).trans (h p a)

/-- An outcome that goes on does so with the memory that s has. -/
def KeepsHbm (s : State) (o : Out State Fault Refusal) : Prop := ∀ s', o = .next s' → s'.hbm = s.hbm

@[simp] theorem keepsHbm_next (s u : State) : KeepsHbm s (.next u) ↔ u.hbm = s.hbm :=
  ⟨fun h => h u rfl, fun h _ e => by cases e; exact h⟩

@[simp] theorem keepsHbm_fault (s : State) (r) : KeepsHbm s (.fault r) := fun _ e => nomatch e

@[simp] theorem keepsHbm_ite (s : State) (c : Prop) [Decidable c] (o p : Out State Fault Refusal) :
    KeepsHbm s (if c then o else p) ↔ if c then KeepsHbm s o else KeepsHbm s p := by split <;> rfl

/-! #### Machine/Ops.lean -/

@[simp] theorem State.setThread_hbm (s : State) (t x) : (s.setThread t x).hbm = s.hbm := (rfl)
@[simp] theorem State.modThread_hbm (s : State) (t f) : (s.modThread t f).hbm = s.hbm := by
  unfold State.modThread
  split <;> rfl
@[simp] theorem State.setGroup_hbm (s : State) (g x) : (s.setGroup g x).hbm = s.hbm := (rfl)
@[simp] theorem State.modGroup_hbm (s : State) (g f) : (s.modGroup g f).hbm = s.hbm := by
  unfold State.modGroup
  split <;> rfl
@[simp] theorem State.setHolding_hbm (s : State) (c x) : (s.setHolding c x).hbm = s.hbm := (rfl)
@[simp] theorem State.modHolding_hbm (s : State) (c f) : (s.modHolding c f).hbm = s.hbm := (rfl)
@[simp] theorem State.setCore_hbm (s : State) (c x) : (s.setCore c x).hbm = s.hbm := (rfl)
@[simp] theorem State.modCore_hbm (s : State) (c f) : (s.modCore c f).hbm = s.hbm := (rfl)
@[simp] theorem State.setCtx_hbm (s : State) (c x) : (s.setCtx c x).hbm = s.hbm := (rfl)
@[simp] theorem State.modCtx_hbm (s : State) (c f) : (s.modCtx c f).hbm = s.hbm := (rfl)
@[simp] theorem State.setKernel_hbm (s : State) (k x) : (s.setKernel k x).hbm = s.hbm := (rfl)
@[simp] theorem State.modKernel_hbm (s : State) (k f) : (s.modKernel k f).hbm = s.hbm := by
  unfold State.modKernel
  split <;> rfl
@[simp] theorem State.setGang_hbm (s : State) (g x) : (s.setGang g x).hbm = s.hbm := (rfl)
@[simp] theorem State.modGang_hbm (s : State) (g f) : (s.modGang g f).hbm = s.hbm := by
  unfold State.modGang
  split <;> rfl
@[simp] theorem State.modPart_hbm (s : State) (p f) : (s.modPart p f).hbm = s.hbm := (rfl)
@[simp] theorem State.modDie_hbm (s : State) (d f) : (s.modDie d f).hbm = s.hbm := (rfl)
@[simp] theorem State.modQueue_hbm (s : State) (q f) : (s.modQueue q f).hbm = s.hbm := (rfl)
@[simp] theorem State.modTime_hbm (s : State) (f) : (s.modTime f).hbm = s.hbm := (rfl)
@[simp] theorem State.modWhisk_hbm (s : State) (f) : (s.modWhisk f).hbm = s.hbm := (rfl)
@[simp] theorem State.modPestle_hbm (s : State) (f) : (s.modPestle f).hbm = s.hbm := (rfl)
@[simp] theorem State.modLink_hbm (s : State) (l f) : (s.modLink l f).hbm = s.hbm := by
  unfold State.modLink
  split <;> rfl
@[simp] theorem State.takeSeq_hbm (s : State) (c) : (s.takeSeq c).2.hbm = s.hbm := (rfl)
@[simp] theorem State.freeWord_hbm (s : State) : (s.freeWord).2.hbm = s.hbm := (rfl)
@[simp] theorem State.freeBytes_hbm (s : State) (n) : (s.freeBytes n).2.hbm = s.hbm := (rfl)
@[simp] theorem State.mcRecord_hbm (s : State) (part cls sev addr synd ctx unit) : (s.mcRecord part cls sev addr synd ctx unit).hbm = s.hbm := by
  unfold State.mcRecord
  split <;> rfl
@[simp] theorem State.ladleEvent_hbm (s : State) (p e) : (s.ladleEvent p e).hbm = s.hbm := (rfl)
@[simp] theorem State.resetQueues_hbm (s : State) (c) : (s.resetQueues c).hbm = s.hbm := (rfl)
@[simp] theorem State.refuseFeeds_hbm (s : State) (k) : (s.refuseFeeds k).hbm = s.hbm := by
  unfold State.refuseFeeds
  split <;> rfl
@[simp] theorem State.resetKernels_hbm (s : State) (c) : (s.resetKernels c).hbm = s.hbm := (rfl)
@[simp] theorem State.freeCtx_hbm (s : State) (c) : (s.freeCtx c).hbm = s.hbm := (rfl)
@[simp] theorem State.dropMeta_hbm (s : State) (x) : (s.dropMeta x).hbm = s.hbm := (rfl)
@[simp] theorem State.rekey_hbm (s : State) (a b) : (s.rekey a b).hbm = s.hbm := (rfl)
@[simp] theorem State.startLoad_hbm (s : State) (p) : (s.startLoad p).hbm = s.hbm := by
  unfold State.startLoad
  dsimp only
  repeat' split
  all_goals simp
@[simp] theorem State.endCtx_hbm (s : State) (c st) : (s.endCtx c st).hbm = s.hbm := by simp [State.endCtx]
@[simp] theorem State.freeDelivered_hbm (s : State) (t) : (s.freeDelivered t).hbm = s.hbm := (rfl)

/-! #### Machine/Issue.lean -/

@[simp] theorem State.hold_hbm (s : State) (t) : (s.hold t).hbm = s.hbm := by simp [State.hold]
@[simp] theorem State.holdGroup_hbm (s : State) (t) : (s.holdGroup t).hbm = s.hbm := by simp [State.holdGroup, foldl_hbm]
@[simp] theorem State.modSlice_hbm (s : State) (c sl f) : (s.modSlice c sl f).hbm = s.hbm := (rfl)
@[simp] theorem State.respond_hbm (s : State) (t) : (s.respond t).hbm = s.hbm := by
  unfold State.respond
  split <;> rfl
@[simp] theorem State.setBank_hbm (s : State) (c b p) : (s.setBank c b p).hbm = s.hbm := (rfl)
@[simp] theorem State.wakeBank_hbm (s : State) (c b) : (s.wakeBank c b).hbm = s.hbm := by
  unfold State.wakeBank
  split <;> rfl
@[simp] theorem State.settleBank_hbm (s : State) (c b) : (s.settleBank c b).hbm = s.hbm := by simp [State.settleBank]
@[simp] theorem State.wakeWindows_hbm (s : State) (t htid mask) : (s.wakeWindows t htid mask).hbm = s.hbm := by simp [State.wakeWindows, foldl_hbm]
@[simp] theorem State.settleWindows_hbm (s : State) (t htid mask) : (s.settleWindows t htid mask).hbm = s.hbm := by
  simp [State.settleWindows, foldl_hbm]
@[simp] theorem State.wakeDests_hbm (s : State) (t x i) : (s.wakeDests t x i).hbm = s.hbm := by simp [State.wakeDests]
@[simp] theorem State.settleDests_hbm (s : State) (t x i) : (s.settleDests t x i).hbm = s.hbm := by simp [State.settleDests]
@[simp] theorem State.wakeThreadBanks_hbm (s : State) (t) : (s.wakeThreadBanks t).hbm = s.hbm := by
  unfold State.wakeThreadBanks
  split <;> simp [foldl_hbm]
@[simp] theorem State.faultCtx_hbm (s : State) (x cause) : (s.faultCtx x cause).hbm = s.hbm := by simp [State.faultCtx]
@[simp] theorem State.doubleTrap_hbm (s : State) (t htid c) : (s.doubleTrap t htid c).hbm = s.hbm := by simp [State.doubleTrap]
@[simp] theorem State.takeTrap_hbm (s : State) (t c epc taddr tinfo) : (s.takeTrap t c epc taddr tinfo).hbm = s.hbm := by
  unfold State.takeTrap
  split <;> simp
@[simp] theorem State.clearPois_hbm (s : State) (t y r) : (s.clearPois t y r).hbm = s.hbm := by
  unfold State.clearPois
  split <;> rfl
@[simp] theorem State.precise_hbm (s : State) (t x c epc taddr tinfo) : (s.precise t x c epc taddr tinfo).hbm = s.hbm := by simp [State.precise]
@[simp] theorem State.trapHere_hbm (s : State) (t x c) : (s.trapHere t x c).hbm = s.hbm := by simp [State.trapHere]
@[simp] theorem State.retire_hbm (s : State) (t x h r) : (s.retire t x h r).hbm = s.hbm := by simp [State.retire]
theorem issue_keeps {s : State} {i} {body : TRef → Thread → Group → Out State Fault Refusal} (h : ∀ t x g, KeepsHbm s (body t x g)) :
    KeepsHbm s (issue s i body) := by
  unfold issue
  repeat' split
  all_goals simp [h]
theorem compute_keeps (s : State) (i f) : KeepsHbm s (compute s i f) := issue_keeps fun t x _ => by simp

/-! #### Machine/Phys.lean -/

@[simp] theorem State.homeRead_hbm (s : State) (part slot pa n) : (s.homeRead part slot pa n).1.hbm = s.hbm := by
  unfold State.homeRead
  dsimp only
  split <;> simp
@[simp] theorem State.modLine_hbm (s : State) (l f) : (s.modLine l f).hbm = s.hbm := (rfl)

/-! #### Machine/Xlate.lean -/

@[simp] theorem State.walkFrom_hbm (s : State) (part tkey va lvl table) : (s.walkFrom part tkey va lvl table).1.hbm = s.hbm := by
  induction lvl generalizing s table with
  | zero =>
    unfold State.walkFrom
    dsimp only
    repeat' split
    all_goals simp
  | succ l ih =>
    unfold State.walkFrom
    dsimp only
    repeat' split
    all_goals simp [ih]
@[simp] theorem State.findLeaf_hbm (s : State) (x core va) : (s.findLeaf x core va).1.hbm = s.hbm := by
  unfold State.findLeaf
  dsimp only
  repeat' split
  all_goals simp
@[simp] theorem State.translate_hbm (s : State) (x core va a) : (s.translate x core va a).1.hbm = s.hbm := by
  unfold State.translate
  dsimp only
  repeat' split
  all_goals simp
@[simp] theorem State.faultEvent_hbm (s : State) (x core htid va entry nolog kind m) :
    (s.faultEvent x core htid va entry nolog kind m).hbm = s.hbm := by
  simp [State.faultEvent]

/-! #### Machine/Places.lean -/

@[simp] theorem State.freeOwed_hbm (s : State) (part loc bs) : (s.freeOwed part loc bs).1.hbm = s.hbm := by
  unfold State.freeOwed
  dsimp only
  split <;> simp

/-! #### Machine/Pool.lean -/

@[simp] theorem State.enqueue_hbm (s : State) (die port hdr load) : (s.enqueue die port hdr load).hbm = s.hbm := (rfl)
@[simp] theorem State.sendAs_hbm (s : State) (x cls line off op load mop thrs) : (s.sendAs x cls line off op load mop thrs).1.hbm = s.hbm := by
  unfold State.sendAs
  dsimp only
  repeat' split
  all_goals simp
@[simp] theorem State.sendRequest_hbm (s : State) (x line op load mop thrs) : (s.sendRequest x line op load mop thrs).1.hbm = s.hbm := by
  simp [State.sendRequest]
@[simp] theorem State.modPool_hbm (s : State) (part line f) : (s.modPool part line f).hbm = s.hbm := (rfl)
@[simp] theorem State.noteLid_hbm (s : State) (part line tag) : (s.noteLid part line tag).hbm = s.hbm := (rfl)
@[simp] theorem State.writeBack_hbm (s : State) (x line sectors) : (s.writeBack x line sectors).hbm = s.hbm := by
  unfold State.writeBack
  dsimp only
  repeat' split
  all_goals simp
@[simp] theorem State.readPool_hbm (s : State) (x line mop) : (s.readPool x line mop).1.hbm = s.hbm := by
  unfold State.readPool
  dsimp only
  repeat' split
  all_goals simp
@[simp] theorem State.roomLoop_hbm (s : State) (x pdie new x4) : (s.roomLoop x pdie new x4).1.hbm = s.hbm := by
  fun_induction State.roomLoop <;> simp [*]
@[simp] theorem State.poolRoom_hbm (s : State) (x pdie line sectors) : (s.poolRoom x pdie line sectors).1.hbm = s.hbm := by
  unfold State.poolRoom
  dsimp only
  split <;> simp
@[simp] theorem State.l2Drop_hbm (s : State) (l) : (s.l2Drop l).hbm = s.hbm := by
  unfold State.l2Drop
  split <;> rfl
@[simp] theorem State.l2Evict_hbm (s : State) (x l x3) : (s.l2Evict x l x3).1.hbm = s.hbm := by fun_induction State.l2Evict <;> simp [*]
@[simp] theorem State.l2Ready_hbm (s : State) (x loc ch load) : (s.l2Ready x loc ch load).1.hbm = s.hbm := by
  unfold State.l2Ready
  dsimp only
  repeat' split
  all_goals simp
@[simp] theorem State.l2Use_hbm (s : State) (x loc ch load) : (s.l2Use x loc ch load).hbm = s.hbm := by
  unfold State.l2Use
  split <;> simp
@[simp] theorem State.scopeNote_hbm (s : State) (l v) : (s.scopeNote l v).hbm = s.hbm := (rfl)
@[simp] theorem State.storeReady_hbm (s : State) (x loc mask) : (s.storeReady x loc mask).1.hbm = s.hbm := by
  unfold State.storeReady
  dsimp only
  repeat' split
  all_goals simp
@[simp] theorem State.homeHolds_hbm (s : State) (part loc n) : (s.homeHolds part loc n).1.hbm = s.hbm := by
  unfold State.homeHolds
  split <;> simp
@[simp] theorem State.homeBytes_hbm (s : State) (part loc n) : (s.homeBytes part loc n).1.hbm = s.hbm := by simp [State.homeBytes]
@[simp] theorem State.completeAt_hbm (s : State) (part loc) : (s.completeAt part loc).1.hbm = s.hbm := (rfl)
@[simp] theorem State.noteCode_hbm (s : State) (part loc mask no) : (s.noteCode part loc mask no).hbm = s.hbm := by simp [State.noteCode]
@[simp] theorem State.noteMem_hbm (s : State) (part loc mask) : (s.noteMem part loc mask).hbm = s.hbm := by
  unfold State.noteMem
  split <;> rfl
@[simp] theorem State.noteSigs_hbm (s : State) (part loc) : (s.noteSigs part loc).hbm = s.hbm := by
  unfold State.noteSigs
  split <;> rfl
@[simp] theorem State.usedOnce_hbm (s : State) (part loc) : (s.usedOnce part loc).hbm = s.hbm := by
  unfold State.usedOnce
  split <;> simp
@[simp] theorem State.askPool_hbm (s : State) (x loc n) : (s.askPool x loc n).hbm = s.hbm := by
  unfold State.askPool
  split <;> simp

/-! #### Machine/Fetch.lean -/

@[simp] theorem State.fetchPart_hbm (s : State) (k core va n) : (s.fetchPart k core va n).1.hbm = s.hbm := by
  unfold State.fetchPart
  dsimp only
  repeat' split
  all_goals simp
@[simp] theorem State.pickWord_hbm (s : State) (l) : (s.pickWord l).1.hbm = s.hbm := by
  unfold State.pickWord
  repeat' split
  all_goals simp
@[simp] theorem State.fetchWord_hbm (s : State) (t va) : (s.fetchWord t va).1.hbm = s.hbm := by
  unfold State.fetchWord
  dsimp only
  repeat' split
  all_goals simp
@[simp] theorem State.fetchPark_hbm (s : State) (t m va call) : (s.fetchPark t m va call).hbm = s.hbm := by
  unfold State.fetchPark
  split <;> simp

/-! #### Machine/Scratch.lean -/

@[simp] theorem State.touchBank_hbm (s : State) (c bank) : (s.touchBank c bank).hbm = s.hbm := (rfl)
@[simp] theorem State.bankAwake_hbm (s : State) (c off n) : (s.bankAwake c off n).1.hbm = s.hbm := by
  unfold State.bankAwake
  split <;> simp [foldl_hbm]
@[simp] theorem State.reviveBank_hbm (s : State) (c bank) : (s.reviveBank c bank).hbm = s.hbm := (rfl)
@[simp] theorem State.scrRead_hbm (s : State) (c off n) : (s.scrRead c off n).1.hbm = s.hbm := by
  unfold State.scrRead
  split <;> rfl
@[simp] theorem State.coverCopy_hbm (s : State) (c grp ch p) : (s.coverCopy c grp ch p).hbm = s.hbm := (rfl)
@[simp] theorem State.noteScr_hbm (s : State) (c off n) : (s.noteScr c off n).hbm = s.hbm := by
  unfold State.noteScr
  split <;> rfl
@[simp] theorem State.scrLand_hbm (s : State) (c off bytes seq) : (s.scrLand c off bytes seq).hbm = s.hbm := by
  unfold State.scrLand
  dsimp only
  split
  · rfl
  · split <;> simp [foldl_hbm]
@[simp] theorem State.scrWrite_hbm (s : State) (c tag off bytes) : (s.scrWrite c tag off bytes).hbm = s.hbm := by simp [State.scrWrite]
@[simp] theorem State.healCells_hbm (s : State) (c hit) : (s.healCells c hit).hbm = s.hbm := by
  unfold State.healCells
  split <;> rfl
@[simp] theorem State.killBank_hbm (s : State) (c bank) : (s.killBank c bank).hbm = s.hbm := by simp [State.killBank]
@[simp] theorem State.sideEntries_hbm (s : State) (c grp p l) : (s.sideEntries c grp p l).1.hbm = s.hbm := by
  induction l generalizing s p with
  | nil => rfl
  | cons v vs ih => simp [State.sideEntries, ih]
@[simp] theorem State.sideList_hbm (s : State) (t vs) : (s.sideList t vs).hbm = s.hbm := by
  unfold State.sideList
  repeat' split
  all_goals simp

/-! #### Machine/Waits.lean -/

@[simp] theorem State.await_hbm (s : State) (t x i ph deadline) : (s.await t x i ph deadline).hbm = s.hbm := by simp [State.await]
@[simp] theorem State.stand_hbm (s : State) (t x i ph) : (s.stand t x i ph).hbm = s.hbm := by simp [State.stand]
@[simp] theorem State.finish_hbm (s : State) (t r) : (s.finish t r).hbm = s.hbm := by
  unfold State.finish
  split <;> simp
@[simp] theorem State.finishTrap_hbm (s : State) (t c taddr) : (s.finishTrap t c taddr).hbm = s.hbm := by
  unfold State.finishTrap
  repeat' split
  all_goals simp
@[simp] theorem State.takeKick_hbm (s : State) (t) : (s.takeKick t).hbm = s.hbm := by
  unfold State.takeKick
  repeat' split
  all_goals simp
@[simp] theorem State.finishTimed_hbm (s : State) (t) : (s.finishTimed t).hbm = s.hbm := by
  unfold State.finishTimed
  split <;> simp
@[simp] theorem State.rejoinCheck_hbm (s : State) (g jb) : (s.rejoinCheck g jb).hbm = s.hbm := by simp [State.rejoinCheck, foldl_hbm]
@[simp] theorem State.rejoinAll_hbm (s : State) (g) : (s.rejoinAll g).hbm = s.hbm := by simp [State.rejoinAll, foldl_hbm]

/-! #### Machine/Access.lean -/

@[simp] theorem State.noteRead_hbm (s : State) (t loc n) : (s.noteRead t loc n).hbm = s.hbm := (rfl)
@[simp] theorem State.drainEntry_hbm (s : State) (c w fencer) : (s.drainEntry c w fencer).hbm = s.hbm := (rfl)
@[simp] theorem State.drainWhere_hbm (s : State) (c p fencer) : (s.drainWhere c p fencer).hbm = s.hbm := by simp [State.drainWhere, foldl_hbm]
@[simp] theorem State.drainOldest_hbm (s : State) (c) : (s.drainOldest c).hbm = s.hbm := by
  unfold State.drainOldest
  split <;> rfl
@[simp] theorem State.wcStore_hbm (s : State) (t loc bytes ch) : (s.wcStore t loc bytes ch).hbm = s.hbm := by
  unfold State.wcStore
  dsimp only
  split <;> simp
@[simp] theorem State.sendOp_hbm (s : State) (t x i entry kind r loc) : (s.sendOp t x i entry kind r loc).1.hbm = s.hbm := by
  unfold State.sendOp
  split <;> simp
@[simp] theorem State.startFence_hbm (s : State) (t x i sc drain next) : (s.startFence t x i sc drain next).hbm = s.hbm := by
  unfold State.startFence
  split <;> simp [foldl_hbm]
@[simp] theorem State.acquirePod_hbm (s : State) (t x i loc) : (s.acquirePod t x i loc).hbm = s.hbm := by simp [State.acquirePod, foldl_hbm]
@[simp] theorem State.park_hbm (s : State) (t x i r va m) : (s.park t x i r va m).hbm = s.hbm := by simp [State.park]
@[simp] theorem State.startWalk_hbm (s : State) (t x i va) : (s.startWalk t x i va).hbm = s.hbm := by
  unfold State.startWalk
  split <;> rfl
@[simp] theorem State.count_hbm (s : State) (c n) : (s.count c n).hbm = s.hbm := (rfl)
@[simp] theorem State.relist_hbm (s : State) (c p t y) : (s.relist c p t y).hbm = s.hbm := by simp [State.relist]
@[simp] theorem State.issueReplay_hbm (s : State) (c p) : (s.issueReplay c p).hbm = s.hbm := by
  unfold State.issueReplay
  dsimp only
  repeat' split
  all_goals simp
@[simp] theorem State.retryReplays_hbm (s : State) (c) : (s.retryReplays c).hbm = s.hbm := by simp [State.retryReplays, foldl_hbm]
@[simp] theorem State.grantLease_hbm (s : State) (c loc) : (s.grantLease c loc).1.hbm = s.hbm := by
  unfold State.grantLease
  dsimp only
  repeat' split
  all_goals simp
@[simp] theorem State.fillLine_hbm (s : State) (c loc ch) : (s.fillLine c loc ch).1.hbm = s.hbm := by
  unfold State.fillLine
  dsimp only
  repeat' split
  all_goals simp

/-! #### Machine/Memory.lean -/

@[simp] theorem State.retireLate_hbm (s : State) (t i r f) : (s.retireLate t i r f).hbm = s.hbm := by
  unfold State.retireLate
  split <;> simp
@[simp] theorem State.unpark_hbm (s : State) (t) : (s.unpark t).hbm = s.hbm := by simp [State.unpark]
@[simp] theorem State.freeEntry_hbm (s : State) (t e) : (s.freeEntry t e).hbm = s.hbm := (rfl)
@[simp] theorem State.doneNow_hbm (s : State) (t x i entry r f) : (s.doneNow t x i entry r f).hbm = s.hbm := by
  unfold State.doneNow
  split <;> simp
@[simp] theorem State.spoilDests_hbm (s : State) (t i) : (s.spoilDests t i).hbm = s.hbm := by
  refine foldl_hbm _ (fun s w => foldl_hbm _ (fun s k => ?_) _ s) _ s
  dsimp only
  split <;> simp
@[simp] theorem State.deliverEntry_hbm (s : State) (t e o c) : (s.deliverEntry t e o c).hbm = s.hbm := by
  unfold State.deliverEntry
  dsimp only
  split <;> simp
@[simp] theorem State.abandon_hbm (s : State) (t e o c) : (s.abandon t e o c).hbm = s.hbm := by simp [State.abandon]
@[simp] theorem State.refuse_hbm (s : State) (m c taddr) : (s.refuse m c taddr).hbm = s.hbm := by
  unfold State.refuse
  repeat' split
  all_goals simp
@[simp] theorem State.loadPoisoned_hbm (s : State) (t ea i entry) : (s.loadPoisoned t ea i entry).hbm = s.hbm := by
  unfold State.loadPoisoned
  repeat' split
  all_goals simp
@[simp] theorem State.dropMop_hbm (s : State) (c seq) : (s.dropMop c seq).hbm = s.hbm := (rfl)
@[simp] theorem State.modMop_hbm (s : State) (c seq f) : (s.modMop c seq f).hbm = s.hbm := (rfl)
@[simp] theorem State.goOn_hbm (s : State) (t x i) : (s.goOn t x i).hbm = s.hbm := (rfl)
@[simp] theorem State.awaitAnswer_hbm (s : State) (t x i entry seq) : (s.awaitAnswer t x i entry seq).hbm = s.hbm := by
  unfold State.awaitAnswer
  split <;> simp
@[simp] theorem State.bankAccess_hbm (s : State) (t x i entry r off) : (s.bankAccess t x i entry r off).hbm = s.hbm := by
  unfold State.bankAccess
  dsimp only
  repeat' split
  all_goals simp
@[simp] theorem State.loadAccess_hbm (s : State) (t x i entry r loc va) : (s.loadAccess t x i entry r loc va).hbm = s.hbm := by
  unfold State.loadAccess
  dsimp only
  repeat' split
  all_goals simp
@[simp] theorem State.bufferStore_hbm (s : State) (t x i entry r loc) : (s.bufferStore t x i entry r loc).hbm = s.hbm := by simp [State.bufferStore]
@[simp] theorem State.perform_hbm (s : State) (t x i entry r loc va) : (s.perform t x i entry r loc va).hbm = s.hbm := by
  unfold State.perform
  split <;> simp
@[simp] theorem State.proceed_hbm (s : State) (t x i r loc va) : (s.proceed t x i r loc va).hbm = s.hbm := by
  unfold State.proceed
  split <;> simp
@[simp] theorem State.accessRun_hbm (s : State) (t x g i r) : (s.accessRun t x g i r).hbm = s.hbm := by
  unfold State.accessRun
  repeat' split
  all_goals simp
theorem issueMem_keeps {s : State} {i} {body : TRef → Thread → Group → State} (h : ∀ t x g, (body t x g).hbm = s.hbm) :
    KeepsHbm s (issueMem s i body) := issue_keeps fun t x g => by simp [h]
theorem access_keeps (s : State) (i) : KeepsHbm s (access s i) := issueMem_keeps fun t x g => by split <;> simp
theorem accessSp_keeps (s : State) (i off) : KeepsHbm s (accessSp s i off) := issueMem_keeps fun t x g => by split <;> simp
@[simp] theorem execFence_keeps (h sc) (s : State) : KeepsHbm s (execFence h sc s) := issueMem_keeps fun t x g => by simp
@[simp] theorem execWcflush_keeps (h) (s : State) : KeepsHbm s (execWcflush h s) := issueMem_keeps fun t x g => by simp
@[simp] theorem execGwmax_keeps (h d) (s : State) : KeepsHbm s (execGwmax h d s) := issueMem_keeps fun t x g => by simp
@[simp] theorem State.armWait_hbm (s : State) (t x i r loc va entry) : (s.armWait t x i r loc va entry).hbm = s.hbm := by
  unfold State.armWait
  split <;> simp
@[simp] theorem execWaitaddr_keeps (h a off b) (s : State) : KeepsHbm s (execWaitaddr h a off b s) := issueMem_keeps fun t x g => by
  repeat' split
  all_goals simp
@[simp] theorem execSptest_keeps (h d a) (s : State) : KeepsHbm s (execSptest h d a s) := issueMem_keeps fun t x g => by simp
@[simp] theorem execSpcastGen_keeps (h d a) (s : State) : KeepsHbm s (execSpcastGen h d a s) := issueMem_keeps fun t x g => by simp
@[simp] theorem execSpcastSp_keeps (h d a) (s : State) : KeepsHbm s (execSpcastSp h d a s) := issueMem_keeps fun t x g => by simp
@[simp] theorem State.hintPlace_hbm (s : State) (t g ea) : (s.hintPlace t g ea).1.hbm = s.hbm := by
  unfold State.hintPlace
  dsimp only
  repeat' split
  all_goals simp
@[simp] theorem execPref_keeps (h l2 a b off) (s : State) : KeepsHbm s (execPref h l2 a b off s) := issueMem_keeps fun t x g => by
  dsimp only
  repeat' split
  all_goals simp
@[simp] theorem execCctlInv_keeps (h a off) (s : State) : KeepsHbm s (execCctlInv h a off s) := issueMem_keeps fun t x g => by
  dsimp only
  repeat' split
  all_goals simp
@[simp] theorem execCctlWb_keeps (h a off) (s : State) : KeepsHbm s (execCctlWb h a off s) := issueMem_keeps fun t x g => by
  dsimp only
  repeat' split
  all_goals simp
@[simp] theorem execCctlInvall_keeps (h) (s : State) : KeepsHbm s (execCctlInvall h s) := issueMem_keeps fun t x g => by simp
@[simp] theorem execSdrop_keeps (h first count) (s : State) : KeepsHbm s (execSdrop h first count s) :=
  issueMem_keeps fun t x g => by simp [foldl_hbm]
@[simp] theorem execSwake_keeps (h first count) (s : State) : KeepsHbm s (execSwake h first count s) :=
  issueMem_keeps fun t x g => by simp [foldl_hbm]

/-! #### Machine/Copy.lean -/

@[simp] theorem State.modChan_hbm (s : State) (c ch f) : (s.modChan c ch f).hbm = s.hbm := (rfl)
@[simp] theorem State.acceptCopy_hbm (s : State) (c ch cp) : (s.acceptCopy c ch cp).hbm = s.hbm := (rfl)
@[simp] theorem State.chanWake_hbm (s : State) (c ch n) : (s.chanWake c ch n).hbm = s.hbm := by
  induction n generalizing s with
  | zero => rfl
  | succ n ih =>
    unfold State.chanWake
    dsimp only
    split
    · rfl
    · split <;> simp [ih]
@[simp] theorem State.wakeChan_hbm (s : State) (c ch) : (s.wakeChan c ch).hbm = s.hbm := by simp [State.wakeChan]
@[simp] theorem State.readDesc_hbm (s : State) (t loc ch) : (s.readDesc t loc ch).1.hbm = s.hbm := by simp [State.readDesc]
@[simp] theorem State.enqueueCopy_hbm (s : State) (t x i ch r loc) : (s.enqueueCopy t x i ch r loc).hbm = s.hbm := by simp [State.enqueueCopy]
theorem copyInstr_keeps (s : State) (i ch) : KeepsHbm s (copyInstr s i ch) :=
  issue_keeps fun t x g => by
    repeat' split
    all_goals simp
theorem issueChan_keeps {s : State} {i ch} {body : TRef → Thread → Chan → State} (h : ∀ t x k, (body t x k).hbm = s.hbm) :
    KeepsHbm s (issueChan s i ch body) := issue_keeps fun t x g => by simp [h]
@[simp] theorem execChptr_keeps (h d ch b) (s : State) : KeepsHbm s (execChptr h d ch b s) := issueChan_keeps fun t x k => by simp
@[simp] theorem execChwait_keeps (h ch b) (s : State) : KeepsHbm s (execChwait h ch b s) := issueChan_keeps fun t x k => by simp
@[simp] theorem execChdrain_keeps (h ch) (s : State) : KeepsHbm s (execChdrain h ch s) := issueChan_keeps fun t x k => by simp
@[simp] theorem execChstat_keeps (h d ch) (s : State) : KeepsHbm s (execChstat h d ch s) := issueChan_keeps fun t x k => by simp
@[simp] theorem State.setRing_hbm (s : State) (c rg r) : (s.setRing c rg r).hbm = s.hbm := (rfl)
@[simp] theorem State.ringWake_hbm (s : State) (c rg n) : (s.ringWake c rg n).hbm = s.hbm := by
  induction n generalizing s with
  | zero => rfl
  | succ n ih =>
    unfold State.ringWake
    dsimp only
    repeat' split
    all_goals simp [ih]
@[simp] theorem State.wakeRing_hbm (s : State) (c rg) : (s.wakeRing c rg).hbm = s.hbm := by simp [State.wakeRing]
theorem ringInstr_keeps (s : State) (i rg) : KeepsHbm s (ringInstr s i rg) :=
  issue_keeps fun t x g => by
    split
    · simp
    · split <;> simp
@[simp] theorem execRinginit_keeps (h rg b c) (s : State) : KeepsHbm s (execRinginit h rg b c s) := issue_keeps fun t x g => by simp

/-! #### Machine/IssueEv.lean -/

@[simp] theorem State.passCycle_hbm (s : State) (c slice sl ts q) : (s.passCycle c slice sl ts q).hbm = s.hbm := by simp [State.passCycle, foldl_hbm]
@[simp] theorem State.replayCycle_hbm (s : State) (c slice sl) : (s.replayCycle c slice sl).hbm = s.hbm := by simp [State.replayCycle]
@[simp] theorem State.issueCycle_hbm (s : State) (c slice sl) : (s.issueCycle c slice sl).hbm = s.hbm := by simp [State.issueCycle]
@[simp] theorem execIssueRound_keeps (c slice) (s : State) : KeepsHbm s (execIssueRound c slice s) := by
  unfold execIssueRound
  split <;> simp
@[simp] theorem execKickTaken_keeps (t) (s : State) : KeepsHbm s (execKickTaken t s) := by simp [execKickTaken]
@[simp] theorem execDeferredTrapDelivery_keeps (t) (s : State) : KeepsHbm s (execDeferredTrapDelivery t s) := by
  unfold execDeferredTrapDelivery
  repeat' split
  all_goals simp
@[simp] theorem State.walkFailed_hbm (s : State) (m t) : (s.walkFailed m t).hbm = s.hbm := by
  unfold State.walkFailed
  repeat' split
  all_goals simp
@[simp] theorem State.releaseSlot_hbm (s : State) (c sl) : (s.releaseSlot c sl).hbm = s.hbm := by
  unfold State.releaseSlot
  dsimp only
  split
  · rfl
  · refine foldl_hbm _ (fun s e => ?_) _ _
    split <;> simp
@[simp] theorem State.endWalk_hbm (s : State) (c vpn) : (s.endWalk c vpn).hbm = s.hbm := by simp [State.endWalk]
@[simp] theorem execWalkComplete_keeps (c vpn) (s : State) : KeepsHbm s (execWalkComplete c vpn s) := by simp [execWalkComplete, foldl_hbm]

/-! #### Machine/Barrier.lean -/

@[simp] theorem State.modBar_hbm (s : State) (g b f) : (s.modBar g b f).hbm = s.hbm := by
  unfold State.modBar
  repeat' split
  all_goals simp
@[simp] theorem State.barDeliver_hbm (s : State) (g b) : (s.barDeliver g b).hbm = s.hbm := by simp [State.barDeliver, foldl_hbm]
@[simp] theorem State.barCheck_hbm (s : State) (g b) : (s.barCheck g b).hbm = s.hbm := by
  unfold State.barCheck
  split <;> simp
@[simp] theorem State.barExit_hbm (s : State) (t x) : (s.barExit t x).hbm = s.hbm := foldl_hbm _ (fun _ _ => by split <;> simp) _ _
@[simp] theorem State.countArrival_hbm (s : State) (t b) : (s.countArrival t b).hbm = s.hbm := by simp [State.countArrival]
@[simp] theorem State.afterArrival_hbm (s : State) (t i b) : (s.afterArrival t i b).hbm = s.hbm := by
  unfold State.afterArrival
  repeat' split
  all_goals simp
@[simp] theorem State.applyBarset_hbm (s : State) (t b c) : (s.applyBarset t b c).hbm = s.hbm := by simp [State.applyBarset]
@[simp] theorem execBarrierArrivalCounted_keeps (t) (s : State) : KeepsHbm s (execBarrierArrivalCounted t s) := by
  unfold execBarrierArrivalCounted
  repeat' split
  all_goals simp
@[simp] theorem execBarrierDelivery_keeps (g gb core) (s : State) : KeepsHbm s (execBarrierDelivery g gb core s) := by
  unfold execBarrierDelivery
  dsimp only
  repeat' split
  all_goals simp [foldl_hbm]
@[simp] theorem execBarinit_keeps (h sc bar a) (s : State) : KeepsHbm s (execBarinit h sc bar a s) := issue_keeps fun t x g => by
  dsimp only
  repeat' split
  all_goals simp
@[simp] theorem State.arriveAt_hbm (s : State) (t x i b) : (s.arriveAt t x i b).hbm = s.hbm := by simp [State.arriveAt]
@[simp] theorem execBararv_keeps (h bar) (s : State) : KeepsHbm s (execBararv h bar s) := issue_keeps fun t x g => by simp
@[simp] theorem execBarwait_keeps (h bar) (s : State) : KeepsHbm s (execBarwait h bar s) := issue_keeps fun t x g => by simp
@[simp] theorem execBarsync_keeps (h bar) (s : State) : KeepsHbm s (execBarsync h bar s) := issue_keeps fun t x g => by simp
@[simp] theorem execBarstat_keeps (h d bar) (s : State) : KeepsHbm s (execBarstat h d bar s) := issue_keeps fun t x g => by simp
@[simp] theorem execBarset_keeps (h bar b) (s : State) : KeepsHbm s (execBarset h bar b s) := issue_keeps fun t x g => by simp
@[simp] theorem execGbar_keeps (h gb) (s : State) : KeepsHbm s (execGbar h gb s) := issue_keeps fun t x g => by simp

/-! #### Machine/Front.lean -/

@[simp] theorem State.frontLeaf_hbm (s : State) (x va) : (s.frontLeaf x va).1.hbm = s.hbm := by
  unfold State.frontLeaf
  dsimp only
  repeat' split
  all_goals simp
@[simp] theorem State.frontPlace_hbm (s : State) (x va a) : (s.frontPlace x va a).1.hbm = s.hbm := by
  unfold State.frontPlace
  dsimp only
  repeat' split
  all_goals simp
@[simp] theorem State.frontPiece_hbm (s : State) (x va n a) : (s.frontPiece x va n a).1.hbm = s.hbm := by
  unfold State.frontPiece
  dsimp only
  repeat' split
  all_goals simp
@[simp] theorem State.frontRead_hbm (s : State) (x m a va n) : (s.frontRead x m a va n).1.hbm = s.hbm := by
  induction n generalizing s va with
  | zero => rfl
  | succ n ih =>
    unfold State.frontRead
    dsimp only
    split
    · simp
    · split <;> simp [ih]
@[simp] theorem State.frontScope_hbm (s : State) (x loc load) : (s.frontScope x loc load).hbm = s.hbm := by simp [State.frontScope]
@[simp] theorem State.frontAsk_hbm (s : State) (x va n add) : (s.frontAsk x va n add).hbm = s.hbm := by
  unfold State.frontAsk
  dsimp only
  split <;> simp

/-! #### Machine/Placement.lean -/

@[simp] theorem State.wakeGroup_hbm (s : State) (g y) : (s.wakeGroup g y).hbm = s.hbm := by simp [State.wakeGroup, foldl_hbm]
@[simp] theorem State.takeRows_hbm (s : State) (c) : (s.takeRows c).hbm = s.hbm := by
  unfold State.takeRows
  split <;> rfl
@[simp] theorem State.kernelStarted_hbm (s : State) (k) : (s.kernelStarted k).hbm = s.hbm := by
  unfold State.kernelStarted
  split <;> simp
@[simp] theorem State.startGroup_hbm (s : State) (g y) : (s.startGroup g y).hbm = s.hbm := by
  unfold State.startGroup
  split <;> simp [foldl_hbm]
@[simp] theorem State.tryStart_hbm (s : State) (g) : (s.tryStart g).hbm = s.hbm := by
  unfold State.tryStart
  split <;> simp
@[simp] theorem State.placeOne_hbm (s : State) (kr k gnum p) : (s.placeOne kr k gnum p).1.hbm = s.hbm := by simp [State.placeOne]
@[simp] theorem State.placeAll_hbm (s : State) (kr k n l) : (s.placeAll kr k n l).1.hbm = s.hbm := by
  induction l generalizing s n with
  | nil => rfl
  | cons p ps ih => simp [State.placeAll, ih]
@[simp] theorem execGroupPlace_keeps (k) (s : State) : KeepsHbm s (execGroupPlace k s) := by
  unfold execGroupPlace
  repeat' split
  all_goals simp

/-! #### Machine/Launch.lean -/

@[simp] theorem State.decideLaunch_hbm (s : State) (x rec) : (s.decideLaunch x rec).1.hbm = s.hbm := by
  unfold State.decideLaunch
  dsimp only
  repeat' split
  all_goals simp
@[simp] theorem State.newKernel_hbm (s : State) (k y) : (s.newKernel k y).hbm = s.hbm := (rfl)

/-! #### Machine/WorkQueue.lean -/

@[simp] theorem State.popRead_hbm (s : State) (x va) : (s.popRead x va).1.hbm = s.hbm := by
  unfold State.popRead
  dsimp only
  repeat' split
  all_goals simp
@[simp] theorem State.popTry_hbm (s : State) (t k) : (s.popTry t k).hbm = s.hbm := by
  unfold State.popTry
  dsimp only
  repeat' split
  all_goals simp
@[simp] theorem State.servePops_hbm (s : State) (k n) : (s.servePops k n).hbm = s.hbm := by
  induction n generalizing s with
  | zero => rfl
  | succ n ih =>
    unfold State.servePops
    split <;> simp [ih]
@[simp] theorem State.askRec_hbm (s : State) (k) : (s.askRec k).hbm = s.hbm := by
  unfold State.askRec
  split <;> simp
@[simp] theorem State.enterLaunch_hbm (s : State) (t va) : (s.enterLaunch t va).hbm = s.hbm := by simp [State.enterLaunch]
@[simp] theorem State.launchNow_hbm (s : State) (t x g i) : (s.launchNow t x g i).hbm = s.hbm := by
  unfold State.launchNow
  split <;> simp
@[simp] theorem State.fillLaunch_hbm (s : State) (c) : (s.fillLaunch c).hbm = s.hbm := by simp [State.fillLaunch, foldl_hbm]
@[simp] theorem execWpush_keeps (h a b) (s : State) : KeepsHbm s (execWpush h a b s) := issue_keeps fun t x g => by simp
@[simp] theorem execLaunch_keeps (h a) (s : State) : KeepsHbm s (execLaunch h a s) := issue_keeps fun t x g => by
  repeat' split
  all_goals simp
@[simp] theorem execQroom_keeps (h d a) (s : State) : KeepsHbm s (execQroom h d a s) := issue_keeps fun t x g => by simp

/-! #### Machine/KernelEv.lean -/

@[simp] theorem State.popLaunch_hbm (s : State) (c) : (s.popLaunch c).hbm = s.hbm := by simp [State.popLaunch]
@[simp] theorem State.returnBank_hbm (s : State) (c bank) : (s.returnBank c bank).hbm = s.hbm := (rfl)
@[simp] theorem State.returnTile_hbm (s : State) (c p) : (s.returnTile c p).hbm = s.hbm := by simp [State.returnTile]
@[simp] theorem State.dropGang_hbm (s : State) (k) : (s.dropGang k).hbm = s.hbm := by
  unfold State.dropGang
  split <;> simp
@[simp] theorem State.freeGroup_hbm (s : State) (g y) : (s.freeGroup g y).hbm = s.hbm := by simp [State.freeGroup, foldl_hbm]
@[simp] theorem State.askDone_hbm (s : State) (k) : (s.askDone k).hbm = s.hbm := by
  unfold State.askDone
  split <;> simp

/-! #### Machine/CopyEv.lean -/

@[simp] theorem State.chanError_hbm (s : State) (c ch code) : (s.chanError c ch code).hbm = s.hbm := by simp [State.chanError]
@[simp] theorem State.scrSpoil_hbm (s : State) (c offs) : (s.scrSpoil c offs).hbm = s.hbm := by simp [State.scrSpoil, foldl_hbm]
@[simp] theorem execCopyStart_keeps (c ch) (s : State) : KeepsHbm s (execCopyStart c ch s) := by
  unfold execCopyStart
  dsimp only
  repeat' split
  all_goals simp
@[simp] theorem State.copyLines_hbm (s : State) (c acc l) : (s.copyLines c acc l).1.hbm = s.hbm := by
  induction l generalizing s with
  | nil => rfl
  | cons l ls ih =>
    unfold State.copyLines
    dsimp only
    repeat' split
    all_goals simp [ih]
@[simp] theorem State.readLines_hbm (s : State) (c ch ct l) : (s.readLines c ch ct l).1.hbm = s.hbm := by
  induction l generalizing s ct with
  | nil => rfl
  | cons e m ih => simp [State.readLines, ih]
@[simp] theorem State.linesFit_hbm (s : State) (c ch l) : (s.linesFit c ch l).1.hbm = s.hbm := by
  induction l generalizing s with
  | nil => rfl
  | cons e m ih =>
    unfold State.linesFit
    dsimp only
    split <;> simp [ih]
@[simp] theorem State.copyRead_hbm (s : State) (c ch vas) : (s.copyRead c ch vas).1.hbm = s.hbm := by
  unfold State.copyRead
  dsimp only
  repeat' split
  all_goals simp [foldl_hbm]
@[simp] theorem State.tcopyGranule_hbm (s : State) (c cp pos n) : (s.tcopyGranule c cp pos n).1.hbm = s.hbm := by
  unfold State.tcopyGranule
  dsimp only
  repeat' split
  all_goals simp
@[simp] theorem State.scrElems_hbm (s : State) (c es l) : (s.scrElems c es l).1.hbm = s.hbm := by
  induction l generalizing s with
  | nil => rfl
  | cons off offs ih => simp [State.scrElems, ih]
@[simp] theorem State.copyAwake_hbm (s : State) (c es offs) : (s.copyAwake c es offs).1.hbm = s.hbm := by simp [State.copyAwake, foldl_pair_hbm]
@[simp] theorem State.copyScr_hbm (s : State) (c es offs) : (s.copyScr c es offs).1.hbm = s.hbm := by
  unfold State.copyScr
  dsimp only
  repeat' split
  all_goals simp
@[simp] theorem State.tcopysGranule_hbm (s : State) (c cp pos n) : (s.tcopysGranule c cp pos n).1.hbm = s.hbm := by
  unfold State.tcopysGranule
  dsimp only
  split <;> simp
@[simp] theorem State.tstoreBytes_hbm (s : State) (c cp pos n) : (s.tstoreBytes c cp pos n).1.hbm = s.hbm := by
  unfold State.tstoreBytes
  dsimp only
  repeat' split
  all_goals simp
@[simp] theorem State.linesReady_hbm (s : State) (c vas l) : (s.linesReady c vas l).1.hbm = s.hbm := by
  induction l generalizing s with
  | nil => rfl
  | cons e m ih =>
    unfold State.linesReady
    dsimp only
    split <;> simp [ih]
@[simp] theorem State.ownNotes_hbm (s : State) (since c ch) : (s.ownNotes since c ch).hbm = s.hbm := (rfl)
@[simp] theorem State.landGranule_hbm (s : State) (c ch cp k pos bytes) : (s.landGranule c ch cp k pos bytes).hbm = s.hbm :=
  foldl_hbm _ (fun _ _ => by split <;> simp) _ _
@[simp] theorem State.settleNotes_hbm (s : State) : (s.settleNotes).hbm = s.hbm := by
  unfold State.settleNotes
  split <;> rfl
@[simp] theorem State.chanPark_hbm (s : State) (c ch cp m va) : (s.chanPark c ch cp m va).hbm = s.hbm := by simp [State.chanPark]
@[simp] theorem State.chanRetry_hbm (s : State) (c ch) : (s.chanRetry c ch).hbm = s.hbm := by
  unfold State.chanRetry
  dsimp only
  repeat' split
  all_goals simp

/-! #### Machine/MemoryEv.lean -/

@[simp] theorem State.scrMask_hbm (s : State) (c off bytes mask) : (s.scrMask c off bytes mask).hbm = s.hbm := by simp [State.scrMask, foldl_hbm]
@[simp] theorem State.performBank_hbm (s : State) (c m core off) : (s.performBank c m core off).hbm = s.hbm := by
  unfold State.performBank
  dsimp only
  repeat' split
  all_goals simp
@[simp] theorem State.noteScope_hbm (s : State) (m) : (s.noteScope m).hbm = s.hbm := by
  unfold State.noteScope
  split <;> rfl
@[simp] theorem State.sendPoolAtomic_hbm (s : State) (c m line) : (s.sendPoolAtomic c m line).hbm = s.hbm := by
  unfold State.sendPoolAtomic
  dsimp only
  repeat' split
  all_goals simp
@[simp] theorem State.followL1_hbm (s : State) (c m wct) : (s.followL1 c m wct).hbm = s.hbm := (rfl)
@[simp] theorem State.raiseFor_hbm (s : State) (m w) : (s.raiseFor m w).hbm = s.hbm := by simp [State.raiseFor, foldl_hbm]
@[simp] theorem execStoreAnswer_keeps (c seq) (s : State) : KeepsHbm s (execStoreAnswer c seq s) := by
  unfold execStoreAnswer
  repeat' split
  all_goals simp
@[simp] theorem State.acquireRead_hbm (s : State) (c m) : (s.acquireRead c m).hbm = s.hbm := by
  unfold State.acquireRead
  dsimp only
  repeat' split
  all_goals simp
@[simp] theorem State.answered_hbm (s : State) (m) : (s.answered m).hbm = s.hbm := by
  unfold State.answered
  dsimp only
  repeat' split
  all_goals simp
@[simp] theorem execAtomicAnswer_keeps (c seq) (s : State) : KeepsHbm s (execAtomicAnswer c seq s) := by
  unfold execAtomicAnswer
  dsimp only
  repeat' split
  all_goals simp
@[simp] theorem State.lineBytes_hbm (s : State) (c loc ch) : (s.lineBytes c loc ch).1.hbm = s.hbm := by
  unfold State.lineBytes
  dsimp only
  split <;> simp
@[simp] theorem State.badLineBytes_hbm (s : State) (c loc) : (s.badLineBytes c loc).1.hbm = s.hbm := by simp [State.badLineBytes]
@[simp] theorem State.loadReturns_hbm (s : State) (c m) : (s.loadReturns c m).hbm = s.hbm := by
  unfold State.loadReturns
  dsimp only
  repeat' split
  all_goals simp
@[simp] theorem execLoadResponse_keeps (c seq) (s : State) : KeepsHbm s (execLoadResponse c seq s) := by
  unfold execLoadResponse
  repeat' split
  all_goals simp
@[simp] theorem execLeaseExpiry_keeps (c line) (s : State) : KeepsHbm s (execLeaseExpiry c line s) := by simp [execLeaseExpiry]
@[simp] theorem execWcEntryTimeout_keeps (c id) (s : State) : KeepsHbm s (execWcEntryTimeout c id s) := by simp [execWcEntryTimeout]
@[simp] theorem execWaitaddrWake_keeps (t) (s : State) : KeepsHbm s (execWaitaddrWake t s) := by
  unfold execWaitaddrWake
  repeat' split
  all_goals simp
@[simp] theorem execWaitaddrDeadline_keeps (t) (s : State) : KeepsHbm s (execWaitaddrDeadline t s) := by
  unfold execWaitaddrDeadline
  repeat' split
  all_goals simp
@[simp] theorem execSleepDeadline_keeps (t) (s : State) : KeepsHbm s (execSleepDeadline t s) := by
  unfold execSleepDeadline
  repeat' split
  all_goals simp

/-! #### Machine/Signal.lean -/

theorem accessGlob_keeps (s : State) (i) : KeepsHbm s (accessGlob s i) :=
  issue_keeps fun t x g => by
    repeat' split
    all_goals simp
@[simp] theorem State.sigRead_hbm (s : State) (t loc) : (s.sigRead t loc).1.hbm = s.hbm := by
  unfold State.sigRead
  dsimp only
  repeat' split
  all_goals simp
@[simp] theorem State.watchSig_hbm (s : State) (w) : (s.watchSig w).hbm = s.hbm := (rfl)
@[simp] theorem State.setWatch_hbm (s : State) (w) : (s.setWatch w).hbm = s.hbm := (rfl)
@[simp] theorem State.unwatch_hbm (s : State) (p) : (s.unwatch p).hbm = s.hbm := (rfl)
@[simp] theorem State.sigOutcome_hbm (s : State) (w) : (s.sigOutcome w).1.hbm = s.hbm := by
  unfold State.sigOutcome
  dsimp only
  repeat' split
  all_goals simp
@[simp] theorem State.setLatch_hbm (s : State) (g l) : (s.setLatch g l).hbm = s.hbm := by
  unfold State.setLatch
  split <;> simp
@[simp] theorem State.releaseSwap_hbm (s : State) (g w) : (s.releaseSwap g w).hbm = s.hbm := by simp [State.releaseSwap, foldl_hbm]
@[simp] theorem State.swapArrive_hbm (s : State) (t x g i r w) : (s.swapArrive t x g i r w).hbm = s.hbm := by
  unfold State.swapArrive
  split <;> simp
@[simp] theorem State.sigTest_hbm (s : State) (t x g i r loc va) : (s.sigTest t x g i r loc va).hbm = s.hbm := by
  unfold State.sigTest
  dsimp only
  repeat' split
  all_goals simp
theorem sigIssue_keeps (s : State) (i) : KeepsHbm s (sigIssue s i) :=
  issue_keeps fun t x g => by
    repeat' split
    all_goals simp
@[simp] theorem State.sigAgain_hbm (s : State) (t ea swap) : (s.sigAgain t ea swap).hbm = s.hbm := by
  unfold State.sigAgain
  dsimp only
  repeat' split
  all_goals simp

/-! #### Machine/Control.lean -/

@[simp] theorem State.enterCall_hbm (s : State) (t x g h d target) : (s.enterCall t x g h d target).hbm = s.hbm := by
  -- The decoder stays closed: the kernel must not run it on a word that is not known.
  obtain ⟨e, he⟩ : ∃ e, enterOf = e := ⟨_, rfl⟩
  unfold State.enterCall
  rw [he]
  dsimp only
  split
  · repeat' split
    all_goals simp
  all_goals simp
@[simp] theorem execBrx_keeps (h a off) (s : State) : KeepsHbm s (execBrx h a off s) := issue_keeps fun t x g => by
  dsimp only
  repeat' split
  all_goals simp
@[simp] theorem execCall_keeps (h d off) (s : State) : KeepsHbm s (execCall h d off s) := issue_keeps fun t x g => by simp
@[simp] theorem execCallx_keeps (h d a off) (s : State) : KeepsHbm s (execCallx h d a off s) := issue_keeps fun t x g => by
  dsimp only
  repeat' split
  all_goals simp
@[simp] theorem execRet_keeps (h a) (s : State) : KeepsHbm s (execRet h a s) := issue_keeps fun t x g => by split <;> simp
@[simp] theorem execJenrol_keeps (h jb) (s : State) : KeepsHbm s (execJenrol h jb s) := issue_keeps fun t x g => by simp
@[simp] theorem execJwait_keeps (h jb) (s : State) : KeepsHbm s (execJwait h jb s) := issue_keeps fun t x g => by simp
@[simp] theorem execJdrop_keeps (h jb) (s : State) : KeepsHbm s (execJdrop h jb s) := issue_keeps fun t x g => by simp
@[simp] theorem execJstat_keeps (h d jb) (s : State) : KeepsHbm s (execJstat h d jb s) := issue_keeps fun t x g => by simp
@[simp] theorem execSleep_keeps (h a imm) (s : State) : KeepsHbm s (execSleep h a imm s) := issue_keeps fun t x g => by simp
@[simp] theorem execBkptN_keeps (h imm) (s : State) : KeepsHbm s (execBkptN h imm s) := issue_keeps fun t x g => by simp
@[simp] theorem execTrapN_keeps (h imm) (s : State) : KeepsHbm s (execTrapN h imm s) := issue_keeps fun t x g => by simp
@[simp] theorem execEnter_keeps (h imm) (s : State) : KeepsHbm s (execEnter h imm s) := issue_keeps fun t x g => by simp

/-! #### Machine/Matrix.lean -/

@[simp] theorem State.putCells_hbm (s : State) (c l) : (s.putCells c l).hbm = s.hbm := by simp [State.putCells]
@[simp] theorem State.reviveTile_hbm (s : State) (g t) : (s.reviveTile g t).hbm = s.hbm := by
  unfold State.reviveTile
  split <;> simp
@[simp] theorem State.killTile_hbm (s : State) (g t) : (s.killTile g t).hbm = s.hbm := by
  unfold State.killTile
  split <;> rfl
@[simp] theorem State.touchTile_hbm (s : State) (c p) : (s.touchTile c p).hbm = s.hbm := by simp [State.touchTile, foldl_hbm]
@[simp] theorem State.issueMma_hbm (s : State) (g y cv ms sg) : (s.issueMma g y cv ms sg).hbm = s.hbm := by
  unfold State.issueMma
  split <;> simp [foldl_hbm]
@[simp] theorem State.mmaCheck_hbm (s : State) (g cv) : (s.mmaCheck g cv).hbm = s.hbm := by
  unfold State.mmaCheck
  split <;> simp [foldl_hbm]
@[simp] theorem State.mmaCheckAll_hbm (s : State) (g) : (s.mmaCheckAll g).hbm = s.hbm := by simp [State.mmaCheckAll, foldl_hbm]
@[simp] theorem execMmaIssueOnRoom_keeps (c) (s : State) : KeepsHbm s (execMmaIssueOnRoom c s) := by
  unfold execMmaIssueOnRoom
  dsimp only
  repeat' split
  all_goals simp
@[simp] theorem State.applyLive_hbm (s : State) (g mask) : (s.applyLive g mask).hbm = s.hbm := foldl_hbm _ (fun _ _ => by split <;> simp) _ _
@[simp] theorem State.declare_hbm (s : State) (g cv d) : (s.declare g cv d).hbm = s.hbm := by simp [State.declare]
@[simp] theorem State.cvApply_hbm (s : State) (t x g cv) : (s.cvApply t x g cv).hbm = s.hbm := by
  unfold State.cvApply
  repeat' split
  all_goals simp
@[simp] theorem State.spoilCells_hbm (s : State) (g u) : (s.spoilCells g u).hbm = s.hbm := by
  unfold State.spoilCells
  split <;> simp
@[simp] theorem State.covered_hbm (s : State) (g cv p) : (s.covered g cv p).hbm = s.hbm := by simp [State.covered, foldl_hbm]
@[simp] theorem State.matWake_hbm (s : State) (c n) : (s.matWake c n).hbm = s.hbm := by
  induction n generalizing s with
  | zero => rfl
  | succ n ih =>
    unfold State.matWake
    dsimp only
    split
    · rfl
    · rw [ih, State.finish_hbm]
      split <;> simp
@[simp] theorem State.wakeMat_hbm (s : State) (c) : (s.wakeMat c).hbm = s.hbm := by simp [State.wakeMat]
@[simp] theorem execMma_keeps (h kind k cv a b c) (s : State) : KeepsHbm s (execMma h kind k cv a b c s) := issue_keeps fun t x g => by simp
@[simp] theorem execMdecl_keeps (h cv a b) (s : State) : KeepsHbm s (execMdecl h cv a b s) := issue_keeps fun t x g => by split <;> simp
@[simp] theorem execMwait_keeps (h cv) (s : State) : KeepsHbm s (execMwait h cv s) := issue_keeps fun t x g => by simp
@[simp] theorem execMfence_keeps (h cv) (s : State) : KeepsHbm s (execMfence h cv s) := issue_keeps fun t x g => by simp
@[simp] theorem execMzero_keeps (h a) (s : State) : KeepsHbm s (execMzero h a s) := issue_keeps fun t x g => by simp
@[simp] theorem execMload_keeps (h i32 a b) (s : State) : KeepsHbm s (execMload h i32 a b s) := issue_keeps fun t x g => by simp
@[simp] theorem execMstore_keeps (h cell a b) (s : State) : KeepsHbm s (execMstore h cell a b s) := issue_keeps fun t x g => by simp
@[simp] theorem execMlive_keeps (h mask) (s : State) : KeepsHbm s (execMlive h mask s) := issue_keeps fun t x g => by simp
@[simp] theorem execMstat_keeps (h d) (s : State) : KeepsHbm s (execMstat h d s) := issue_keeps fun t x g => by simp

/-! #### Machine/SystemInstr.lean -/

@[simp] theorem execSysr_keeps (h d n) (s : State) : KeepsHbm s (execSysr h d n s) := issue_keeps fun t x g => by simp
@[simp] theorem execSysw_keeps (h a n) (s : State) : KeepsHbm s (execSysw h a n s) := issue_keeps fun t x g => by simp
@[simp] theorem execTret_keeps (h) (s : State) : KeepsHbm s (execTret h s) := issue_keeps fun t x g => by
  repeat' split
  all_goals simp
@[simp] theorem execTswr_keeps (h d a) (s : State) : KeepsHbm s (execTswr h d a s) := issue_keeps fun t x g => by
  repeat' split
  all_goals simp
@[simp] theorem execTsww_keeps (h a b) (s : State) : KeepsHbm s (execTsww h a b s) := issue_keeps fun t x g => by
  repeat' split
  all_goals simp
@[simp] theorem execOlogr_keeps (h d a b) (s : State) : KeepsHbm s (execOlogr h d a b s) := issue_keeps fun t x g => by simp
@[simp] theorem execXgetStruct_keeps (h d a) (s : State) : KeepsHbm s (execXgetStruct h d a s) := issue_keeps fun t x g => by simp
@[simp] theorem State.xsetCv_hbm (s : State) (t x g h n b) : (s.xsetCv t x g h n b).hbm = s.hbm := by
  unfold State.xsetCv
  split <;> simp
@[simp] theorem execXsetStruct_keeps (h a b) (s : State) : KeepsHbm s (execXsetStruct h a b s) := issue_keeps fun t x g => by split <;> simp
@[simp] theorem execPlaceCore_keeps (h d a) (s : State) : KeepsHbm s (execPlaceCore h d a s) := issue_keeps fun t x g => by simp
@[simp] theorem execPlaceDie_keeps (h d a) (s : State) : KeepsHbm s (execPlaceDie h d a s) := issue_keeps fun t x g => by simp
@[simp] theorem execPlacePort_keeps (h d a) (s : State) : KeepsHbm s (execPlacePort h d a s) := issue_keeps fun t x g => by simp

/-! #### Machine/Save.lean -/

@[simp] theorem State.areaRead_hbm (s : State) (part key pa n) : (s.areaRead part key pa n).1.hbm = s.hbm := by
  unfold State.areaRead
  dsimp only
  refine (foldl_pair_hbm _ (fun s a => ?_) _ _).trans (by simp)
  repeat' split
  all_goals simp
@[simp] theorem State.noteCopies_hbm (s : State) (x) : (s.noteCopies x).hbm = s.hbm := (rfl)
@[simp] theorem State.noteMats_hbm (s : State) (x) : (s.noteMats x).hbm = s.hbm := (rfl)
@[simp] theorem State.noteVtimes_hbm (s : State) (x) : (s.noteVtimes x).hbm = s.hbm := foldl_hbm _ (fun _ _ => by split <;> simp) _ _

/-! #### Machine/Restore.lean -/

@[simp] theorem State.saRead_hbm (s : State) (x off n) : (s.saRead x off n).1.hbm = s.hbm := by
  unfold State.saRead
  split <;> simp
@[simp] theorem State.kernelAt_hbm (s : State) (x handle) : (s.kernelAt x handle).1.hbm = s.hbm := by
  unfold State.kernelAt
  dsimp only
  repeat' split
  all_goals simp
@[simp] theorem State.restoreKernel_hbm (s : State) (x i e) : (s.restoreKernel x i e).hbm = s.hbm := by
  unfold State.restoreKernel
  dsimp only
  repeat' split
  all_goals simp
@[simp] theorem State.restoreKernels_hbm (s : State) (x) : (s.restoreKernels x).hbm = s.hbm := by simp [State.restoreKernels, foldl_hbm]
@[simp] theorem State.swapRead_hbm (s : State) (c off n) : (s.swapRead c off n).1.hbm = s.hbm := by simp [State.swapRead]
@[simp] theorem State.swapThread_hbm (s : State) (c old new) : (s.swapThread c old new).1.hbm = s.hbm := by simp [State.swapThread]
@[simp] theorem State.swappedThreads_hbm (s : State) (g y) : (s.swappedThreads g y).hbm = s.hbm := by simp [State.swappedThreads, foldl_hbm]
theorem Reading.threads_hbm (r : Reading) (b g y l) : (r.threads b g y l).s.hbm = r.s.hbm := by
  induction l generalizing r with
  | nil => rfl
  | cons i l ih => simp [Reading.threads, ih]
@[simp] theorem State.swapRings_hbm (s : State) (c ix y) : (s.swapRings c ix y).hbm = s.hbm := by simp [State.swapRings, foldl_hbm]
theorem Reading.groups_hbm (r : Reading) (c b l) : (r.groups c b l).s.hbm = r.s.hbm := by
  induction l generalizing r with
  | nil => rfl
  | cons e l ih =>
    unfold Reading.groups
    rw [ih]
    repeat' split
    all_goals simp [Reading.threads_hbm]
@[simp] theorem State.restoreEntry_hbm (s : State) (c hmap v) : (s.restoreEntry c hmap v).hbm = s.hbm := by
  unfold State.restoreEntry
  dsimp only
  repeat' split
  all_goals simp
@[simp] theorem State.reissue_hbm (s : State) (c hmap v) : (s.reissue c hmap v).hbm = s.hbm := by
  unfold State.reissue
  split <;> simp
@[simp] theorem State.powerUp_hbm (s : State) (c) : (s.powerUp c).hbm = s.hbm := by simp [State.powerUp, foldl_hbm]
@[simp] theorem State.matAgain_hbm (s : State) (c) : (s.matAgain c).hbm = s.hbm := by
  unfold State.matAgain
  dsimp only
  split
  · rfl
  · refine (foldl_hbm _ (fun s e => ?_) _ _).trans (State.modHolding_hbm ..)
    split <;> simp
@[simp] theorem State.restoreCore_hbm (s : State) (x core off b) : (s.restoreCore x core off b).hbm = s.hbm := by
  simp [State.restoreCore, foldl_hbm, Reading.groups_hbm]
@[simp] theorem State.joinGang_hbm (s : State) (g y bits) : (s.joinGang g y bits).hbm = s.hbm := by
  unfold State.joinGang
  split <;> rfl
@[simp] theorem State.joinGangs_hbm (s : State) (x core b) : (s.joinGangs x core b).hbm = s.hbm :=
  foldl_hbm _ (fun _ _ => by dsimp only; split <;> simp) _ _
@[simp] theorem State.resume_hbm (s : State) (t) : (s.resume t).hbm = s.hbm := by
  unfold State.resume
  dsimp only
  repeat' split
  all_goals simp
@[simp] theorem State.refetch_hbm (s : State) (t) : (s.refetch t).hbm = s.hbm := by simp [State.refetch]
@[simp] theorem State.rewatch_hbm (s : State) (g) : (s.rewatch g).hbm = s.hbm := by
  unfold State.rewatch
  repeat' split
  all_goals simp [foldl_hbm]
@[simp] theorem State.reevaluate_hbm (s : State) (g) : (s.reevaluate g).hbm = s.hbm := by simp [State.reevaluate, foldl_hbm]

/-! #### Machine/SwapEv.lean -/

@[simp] theorem State.swapThreads_hbm (s : State) (g) : (s.swapThreads g).hbm = s.hbm := by simp [State.swapThreads, foldl_hbm]
@[simp] theorem State.drainCore_hbm (s : State) (c) : (s.drainCore c).hbm = s.hbm := by simp [State.drainCore]
@[simp] theorem State.swapHolds_hbm (s : State) (gs) : (s.swapHolds gs).1.hbm = s.hbm := by
  unfold State.swapHolds
  dsimp only
  split <;> simp
@[simp] theorem State.swapInThreads_hbm (s : State) (g y old l) : (s.swapInThreads g y old l).hbm = s.hbm := by
  induction l generalizing s with
  | nil => rfl
  | cons r rs ih => simp [State.swapInThreads, ih]
@[simp] theorem State.swapIn_hbm (s : State) (g y slots tiles) : (s.swapIn g y slots tiles).hbm = s.hbm := by simp [State.swapIn, foldl_hbm]
@[simp] theorem State.swapAcquire_hbm (s : State) (gs w) : (s.swapAcquire gs w).hbm = s.hbm := by simp [State.swapAcquire, foldl_hbm]
@[simp] theorem execGswapSwapIn_keeps (g) (s : State) : KeepsHbm s (execGswapSwapIn g s) := by
  unfold execGswapSwapIn
  dsimp only
  repeat' split
  any_goals simp
  rw [foldl_hbm]
  · simp
  · intro s e
    split <;> simp

/-! #### Machine/ContextEv.lean -/

@[simp] theorem State.modPorts_hbm (s : State) (p f) : (s.modPorts p f).hbm = s.hbm := by simp [State.modPorts, foldl_hbm]
@[simp] theorem State.openPorts_hbm (s : State) (p) : (s.openPorts p).hbm = s.hbm := by simp [State.openPorts, foldl_hbm]
@[simp] theorem State.logResent_hbm (s : State) (part) : (s.logResent part).hbm = s.hbm := by simp [State.logResent, foldl_hbm]
@[simp] theorem State.settleTraps_hbm (s : State) (t) : (s.settleTraps t).hbm = s.hbm := by
  unfold State.settleTraps
  repeat' split
  all_goals simp
@[simp] theorem execHaltIssueStopped_keeps (x) (s : State) : KeepsHbm s (execHaltIssueStopped x s) := by simp [execHaltIssueStopped, foldl_hbm]
@[simp] theorem State.listReplays_hbm (s : State) (x c) : (s.listReplays x c).hbm = s.hbm := foldl_hbm _ (fun _ _ => by split <;> simp) _ _
@[simp] theorem State.drained_hbm (s : State) (x) : (s.drained x).hbm = s.hbm := by simp [State.drained, foldl_hbm]
@[simp] theorem State.directory_hbm (s : State) (x) : (s.directory x).1.hbm = s.hbm := by simp [State.directory]
@[simp] theorem State.stageRead_hbm (s : State) (x dir) : (s.stageRead x dir).hbm = s.hbm := by simp [State.stageRead, foldl_pair_hbm]
@[simp] theorem State.unstage_hbm (s : State) (x) : (s.unstage x).hbm = s.hbm := by
  unfold State.unstage
  split <;> rfl
@[simp] theorem State.returnShadows_hbm (s : State) (p) : (s.returnShadows p).hbm = s.hbm := by simp [State.returnShadows, foldl_hbm]
@[simp] theorem State.restoreAll_hbm (s : State) (x dir) : (s.restoreAll x dir).hbm = s.hbm := by simp [State.restoreAll, foldl_hbm]
@[simp] theorem State.retryMigrated_hbm (s : State) (x) : (s.retryMigrated x).hbm = s.hbm := by
  refine foldl_hbm _ (fun s e => foldl_hbm _ (fun s ch => ?_) _ s) _ s
  split
  · split <;> simp
  · rfl
@[simp] theorem State.restoreWaits_hbm (s : State) (x) : (s.restoreWaits x).hbm = s.hbm := by simp [State.restoreWaits, foldl_hbm]
@[simp] theorem State.activate_hbm (s : State) (x) : (s.activate x).hbm = s.hbm := by simp [State.activate]
@[simp] theorem execDrainComplete_keeps (x) (s : State) : KeepsHbm s (execDrainComplete x s) := by
  unfold execDrainComplete
  dsimp only
  repeat' split
  all_goals simp
@[simp] theorem State.bringIn_hbm (s : State) (p) : (s.bringIn p).hbm = s.hbm := by
  unfold State.bringIn
  split <;> simp
@[simp] theorem execLoadComplete_keeps (x) (s : State) : KeepsHbm s (execLoadComplete x s) := by simp [execLoadComplete]
@[simp] theorem State.goOnByLoad_hbm (s : State) (p target) : (s.goOnByLoad p target).hbm = s.hbm := by
  unfold State.goOnByLoad
  split <;> rfl
@[simp] theorem State.decideSwitch_hbm (s : State) (out target) : (s.decideSwitch out target).hbm = s.hbm := by simp [State.decideSwitch]

/-! #### Machine/Pestle.lean -/

@[simp] theorem execSvnRaise_keeps (bank svn) (s : State) : KeepsHbm s (execSvnRaise bank svn s) := by simp [execSvnRaise]
@[simp] theorem State.reply_hbm (s : State) (mb tag status bytes) : (s.reply mb tag status bytes).hbm = s.hbm := (rfl)
theorem State.serve_keeps {s : State} {mb tag part} {f : State → State × Nat} (h : (f s).1.hbm = s.hbm) : KeepsHbm s (s.serve mb tag part f) := by
  simp [State.serve, h]
theorem State.commitIf_hbm {s : State} {checks} {f : State → State} (h : (f s).hbm = s.hbm) : (s.commitIf checks f).1.hbm = s.hbm := by
  unfold State.commitIf
  split
  · exact h
  · rfl
@[simp] theorem State.closeLinks_hbm (s : State) (dies) : (s.closeLinks dies).hbm = s.hbm := by simp [State.closeLinks, foldl_hbm]
@[simp] theorem State.relink_hbm (s : State) : (s.relink).hbm = s.hbm := by simp [State.relink, foldl_hbm]
@[simp] theorem State.dropLinks_hbm (s : State) (part) : (s.dropLinks part).hbm = s.hbm := by simp [State.dropLinks, foldl_hbm]
@[simp] theorem State.writeDieparts_hbm (s : State) (part) : (s.writeDieparts part).hbm = s.hbm := by simp [State.writeDieparts, foldl_hbm]
@[simp] theorem State.flushPool_hbm (s : State) (x) : (s.flushPool x).hbm = s.hbm := by simp [State.flushPool, foldl_hbm]
@[simp] theorem State.dropScopes_hbm (s : State) (part) : (s.dropScopes part).hbm = s.hbm := (rfl)
@[simp] theorem State.startLadles_hbm (s : State) (part which) : (s.startLadles part which).hbm = s.hbm := (rfl)
@[simp] theorem State.renameDies_hbm (s : State) (part) : (s.renameDies part).hbm = s.hbm := by simp [State.renameDies, foldl_hbm]

/-! #### Machine/PestleEv.lean -/

@[simp] theorem State.placeCpt_hbm (s : State) (part die vals) : (s.placeCpt part die vals).1.hbm = s.hbm := State.commitIf_hbm (by simp)
@[simp] theorem State.placePpt_hbm (s : State) (part die vals) : (s.placePpt part die vals).1.hbm = s.hbm := State.commitIf_hbm (by simp)
@[simp] theorem State.placeDpt_hbm (s : State) (part vals) : (s.placeDpt part vals).1.hbm = s.hbm := State.commitIf_hbm (by simp)
@[simp] theorem execPlaceRequest_keeps (mb tag part tab die vals) (s : State) : KeepsHbm s (execPlaceRequest mb tag part tab die vals s) :=
  State.serve_keeps (by cases tab <;> simp)
@[simp] theorem State.formPart_hbm (s : State) (part dpt cpt ppt) : (s.formPart part dpt cpt ppt).1.hbm = s.hbm :=
  State.commitIf_hbm (by simp [foldl_hbm])
@[simp] theorem execPartopForm_keeps (mb tag part dpt cpt ppt) (s : State) : KeepsHbm s (execPartopForm mb tag part dpt cpt ppt s) := by
  simp [execPartopForm]
@[simp] theorem execPartopCoreRemap_keeps (mb tag part core val) (s : State) :
    KeepsHbm s (execPartopCoreRemap mb tag part core val s) := State.serve_keeps (by
  dsimp only
  repeat' split
  all_goals simp)
@[simp] theorem execPartopLaneDegrade_keeps (mb tag part die port lanes) (s : State) :
    KeepsHbm s (execPartopLaneDegrade mb tag part die port lanes s) :=
  State.serve_keeps (State.commitIf_hbm (by simp))
@[simp] theorem State.fillSlot_hbm (s : State) (part slot k) : (s.fillSlot part slot k).hbm = s.hbm := (rfl)
@[simp] theorem execKgen_keeps (mb tag part slot) (s : State) : KeepsHbm s (execKgen mb tag part slot s) :=
  State.serve_keeps (State.commitIf_hbm (by simp))
@[simp] theorem State.endRevoke_hbm (s : State) (part slot mb tag) : (s.endRevoke part slot mb tag).hbm = s.hbm := by
  simp [State.endRevoke, foldl_hbm]
@[simp] theorem State.revokeStep_hbm (s : State) (part slot mb tag) : (s.revokeStep part slot mb tag).hbm = s.hbm := by
  simp [State.revokeStep, foldl_hbm]
@[simp] theorem State.revokeCtxs_hbm (s : State) (part slot) : (s.revokeCtxs part slot).hbm = s.hbm := by simp [State.revokeCtxs, foldl_hbm]
@[simp] theorem execKrevoke_keeps (mb tag part slot) (s : State) : KeepsHbm s (execKrevoke mb tag part slot s) := by
  unfold execKrevoke
  split <;> simp
@[simp] theorem execKexport_keeps (mb tag part slot) (s : State) : KeepsHbm s (execKexport mb tag part slot s) := by
  unfold execKexport
  repeat' split
  all_goals simp
@[simp] theorem execKimport_keeps (mb tag part slot wrapped) (s : State) : KeepsHbm s (execKimport mb tag part slot wrapped s) :=
  State.serve_keeps (by
    split
    · rfl
    · split <;> simp)
@[simp] theorem execKmask_keeps (mb tag part ctx mask) (s : State) : KeepsHbm s (execKmask mb tag part ctx mask s) :=
  State.serve_keeps (State.commitIf_hbm (by simp))
@[simp] theorem execCtxsetInstall_keeps (mb tag part ctx ctxsa) (s : State) : KeepsHbm s (execCtxsetInstall mb tag part ctx ctxsa s) :=
  State.serve_keeps (State.commitIf_hbm (by simp))
@[simp] theorem execCtxsetDiscard_keeps (mb tag part ctx) (s : State) : KeepsHbm s (execCtxsetDiscard mb tag part ctx s) :=
  State.serve_keeps (State.commitIf_hbm (by simp))
@[simp] theorem execAttest_keeps (mb tag part nonce) (s : State) : KeepsHbm s (execAttest mb tag part nonce s) := by simp [execAttest]
@[simp] theorem execHwinRequest_keeps (mb tag part idx val) (s : State) : KeepsHbm s (execHwinRequest mb tag part idx val s) := by
  unfold execHwinRequest
  dsimp only
  split
  · split
    · next u e => simpa using State.serve_keeps (State.commitIf_hbm (by simp)) u e
    · exact State.serve_keeps (State.commitIf_hbm (by simp))
  · exact State.serve_keeps (State.commitIf_hbm (by simp))
@[simp] theorem execPoolwinRequest_keeps (mb tag part idx val) (s : State) : KeepsHbm s (execPoolwinRequest mb tag part idx val s) :=
  State.serve_keeps (State.commitIf_hbm (by simp))
@[simp] theorem execLidaddrRequest_keeps (mb tag part val) (s : State) : KeepsHbm s (execLidaddrRequest mb tag part val s) :=
  State.serve_keeps (State.commitIf_hbm (by simp))
@[simp] theorem execConfigMemcfg_keeps (mb tag part idx val) (s : State) : KeepsHbm s (execConfigMemcfg mb tag part idx val s) :=
  State.serve_keeps (State.commitIf_hbm (by simp))
theorem State.serveOperator_keeps {s : State} {mb tag checks} {f : State → State} (h : (f s).hbm = s.hbm) :
    KeepsHbm s (s.serveOperator mb tag checks f) := by
  simp [State.serveOperator, State.commitIf_hbm h]
@[simp] theorem execConfigGtepoch_keeps (mb tag _part idx val) (s : State) : KeepsHbm s (execConfigGtepoch mb tag _part idx val s) :=
  State.serveOperator_keeps (by simp)
@[simp] theorem execConfigPtpDomain_keeps (mb tag _part idx val) (s : State) : KeepsHbm s (execConfigPtpDomain mb tag _part idx val s) :=
  State.serveOperator_keeps (by simp)
@[simp] theorem execConfigAsymmetry_keeps (mb tag _part idx val) (s : State) : KeepsHbm s (execConfigAsymmetry mb tag _part idx val s) :=
  State.serveOperator_keeps (by simp)
@[simp] theorem execMailboxBadRequest_keeps (mb req) (s : State) : KeepsHbm s (execMailboxBadRequest mb req s) := by simp [execMailboxBadRequest]

/-! #### Machine/PageEv.lean -/

@[simp] theorem State.writeFor_hbm (s : State) (t wbs) : (s.writeFor t wbs).hbm = s.hbm := by simp [State.writeFor, foldl_hbm]
@[simp] theorem State.replayFence_hbm (s : State) (t sc) : (s.replayFence t sc).1.hbm = s.hbm := by
  unfold State.replayFence
  dsimp only
  split <;> simp
@[simp] theorem State.replayWait_hbm (s : State) (t x e o r loc va) : (s.replayWait t x e o r loc va).hbm = s.hbm := by
  unfold State.replayWait
  split <;> simp
@[simp] theorem State.replaySignal_hbm (s : State) (t x g e o r loc va) : (s.replaySignal t x g e o r loc va).hbm = s.hbm := by
  unfold State.replaySignal
  dsimp only
  repeat' split
  all_goals simp
@[simp] theorem State.replayCopy_hbm (s : State) (t x e o loc ch) : (s.replayCopy t x e o loc ch).hbm = s.hbm := by simp [State.replayCopy]
@[simp] theorem State.replayLaunch_hbm (s : State) (t x e o va) : (s.replayLaunch t x e o va).hbm = s.hbm := by simp [State.replayLaunch]
@[simp] theorem State.replayAt_hbm (s : State) (t x g e o r loc va) : (s.replayAt t x g e o r loc va).hbm = s.hbm := by
  unfold State.replayAt
  dsimp only
  repeat' split
  all_goals simp
@[simp] theorem State.repark_hbm (s : State) (t x e o r va m) : (s.repark t x e o r va m).hbm = s.hbm := by simp [State.repark]
@[simp] theorem execParkedReplay_keeps (c entry) (s : State) : KeepsHbm s (execParkedReplay c entry s) := by
  unfold execParkedReplay
  dsimp only
  repeat' split
  all_goals simp
@[simp] theorem State.rearm_hbm (s : State) (c es) : (s.rearm c es).hbm = s.hbm := (rfl)
@[simp] theorem State.retryParks_hbm (s : State) (c) : (s.retryParks c).hbm = s.hbm := by simp [State.retryParks, foldl_hbm]
theorem fltack_keeps {act : State → CCRef → Nat × OEntry → State} (h : ∀ s c e, (act s c e).hbm = s.hbm) (c all entry) (s : State) :
    KeepsHbm s (fltack c all entry act s) := by
  simp [fltack, foldl_hbm, h]
@[simp] theorem execFltackReplay_keeps (c all entry) (s : State) : KeepsHbm s (execFltackReplay c all entry s) :=
  fltack_keeps (fun _ _ _ => by simp) _ _ _ _
@[simp] theorem execFltackDeliver_keeps (c all entry) (s : State) : KeepsHbm s (execFltackDeliver c all entry s) :=
  fltack_keeps (fun _ _ _ => by simp) _ _ _ _
@[simp] theorem execFltackFault_keeps (c all entry) (s : State) : KeepsHbm s (execFltackFault c all entry s) :=
  fltack_keeps (fun _ _ _ => by simp) _ _ _ _
@[simp] theorem execFltackIgnored_keeps (c all entry) (s : State) : KeepsHbm s (execFltackIgnored c all entry s) :=
  fltack_keeps (fun _ _ _ => by simp) _ _ _ _

/-! #### Machine/Packet.lean -/

@[simp] theorem State.readSlot_hbm (s : State) (q y n) : (s.readSlot q y n).1.hbm = s.hbm := by simp [State.readSlot]
@[simp] theorem State.readSlots_hbm (s : State) (q y n k) : (s.readSlots q y n k).1.hbm = s.hbm := by
  induction k generalizing s n with
  | zero => rfl
  | succ k ih =>
    unfold State.readSlots
    dsimp only
    repeat' split
    all_goals simp [ih]
@[simp] theorem State.headPacket_hbm (s : State) (q y) : (s.headPacket q y).1.hbm = s.hbm := by
  unfold State.headPacket
  dsimp only
  repeat' split
  all_goals simp
@[simp] theorem State.waitRead_hbm (s : State) (x va) : (s.waitRead x va).1.hbm = s.hbm := by
  unfold State.waitRead
  dsimp only
  repeat' split
  all_goals simp
@[simp] theorem State.waitReads_hbm (s : State) (x l) : (s.waitReads x l).1.hbm = s.hbm := by
  induction l generalizing s with
  | nil => rfl
  | cons e es ih =>
    unfold State.waitReads
    dsimp only
    repeat' split
    all_goals simp [ih]
@[simp] theorem State.advance_hbm (s : State) (q n) : (s.advance q n).hbm = s.hbm := (rfl)
@[simp] theorem State.beginInval_hbm (s : State) (q granules base pkt) : (s.beginInval q granules base pkt).hbm = s.hbm := (rfl)
@[simp] theorem State.releaseMigrate_hbm (s : State) (x lo hi) : (s.releaseMigrate x lo hi).hbm = s.hbm := by
  unfold State.releaseMigrate
  split
  · simp
  · dsimp only
    refine (foldl_hbm _ (fun s e => foldl_hbm _ (fun s ch => ?_) _ s) _ _).trans (by simp)
    split
    · split <;> simp
    · rfl
@[simp] theorem State.holdPacket_hbm (s : State) (q reason watch pkt) : (s.holdPacket q reason watch pkt).hbm = s.hbm := (rfl)
@[simp] theorem State.nextPacket_hbm (s : State) (q y) : (s.nextPacket q y).1.hbm = s.hbm := by
  unfold State.nextPacket
  split <;> simp
@[simp] theorem State.atWork_hbm (s : State) (q) : (s.atWork q).hbm = s.hbm := by
  unfold State.atWork
  split <;> rfl
@[simp] theorem State.refusePacket_hbm (s : State) (q y p code) : (s.refusePacket q y p code).hbm = s.hbm := by
  unfold State.refusePacket
  split <;> rfl

/-! #### Machine/QueueEv.lean -/

@[simp] theorem State.startQueue_hbm (s : State) (q) : (s.startQueue q).hbm = s.hbm := (rfl)
@[simp] theorem execQtailDoorbell_keeps (q tail) (s : State) : KeepsHbm s (execQtailDoorbell q tail s) := by simp [execQtailDoorbell]
@[simp] theorem execQueueEnable_keeps (q) (s : State) : KeepsHbm s (execQueueEnable q s) := by simp [execQueueEnable]
@[simp] theorem execQueueDisable_keeps (q) (s : State) : KeepsHbm s (execQueueDisable q s) := by simp [execQueueDisable]
@[simp] theorem execEventDispatch_keeps (part ladle) (s : State) : KeepsHbm s (execEventDispatch part ladle s) := by
  unfold execEventDispatch
  dsimp only
  repeat' split
  all_goals simp
@[simp] theorem execHandlerComplete_keeps (part ladle) (s : State) : KeepsHbm s (execHandlerComplete part ladle s) := by
  unfold execHandlerComplete
  split <;> simp
@[simp] theorem execLadleWatchdog_keeps (part ladle) (s : State) : KeepsHbm s (execLadleWatchdog part ladle s) := by
  unfold execLadleWatchdog
  split <;> simp

/-! #### Machine/HostEv.lean -/

@[simp] theorem State.refuseHost_hbm (s : State) (part i pa) : (s.refuseHost part i pa).hbm = s.hbm := by simp [State.refuseHost]
@[simp] theorem State.writeQueue_hbm (s : State) (part q f) : (s.writeQueue part q f).hbm = s.hbm := (rfl)
@[simp] theorem State.writeQctl_hbm (s : State) (part q val) : (s.writeQctl part q val).hbm = s.hbm := by
  have h (r : QRef) (u : State) : KeepsHbm u (if val.getLsbD 31 then execQueueEnable r u else execQueueDisable r u) := by simp
  unfold State.writeQctl
  dsimp only
  split
  · next u e => simpa using h _ _ u e
  · simp
@[simp] theorem State.writeReg_hbm (s : State) (w part r val) : (s.writeReg w part r val).hbm = s.hbm := by
  unfold State.writeReg
  split <;> simp
@[simp] theorem execRegisterWrite_keeps (w part r val) (s : State) : KeepsHbm s (execRegisterWrite w part r val s) := by simp [execRegisterWrite]
@[simp] theorem State.noteCorrected_hbm (s : State) (part unit e) : (s.noteCorrected part unit e).hbm = s.hbm := by
  unfold State.noteCorrected
  split <;> rfl
@[simp] theorem State.scrubRecord_hbm (s : State) (part unit addr unc) : (s.scrubRecord part unit addr unc).hbm = s.hbm := by
  unfold State.scrubRecord
  dsimp only
  repeat' split
  all_goals simp
@[simp] theorem State.scrubThread_hbm (s : State) (t n uncorrectable) : (s.scrubThread t n uncorrectable).hbm = s.hbm := by
  unfold State.scrubThread
  split <;> simp

/-! #### Machine/Port.lean -/

@[simp] theorem State.noteSent_hbm (s : State) (p) : (s.noteSent p).hbm = s.hbm := by
  unfold State.noteSent
  split <;> rfl
@[simp] theorem State.noteEgress_hbm (s : State) (p) : (s.noteEgress p).hbm = s.hbm := by
  unfold State.noteEgress
  split <;> rfl
@[simp] theorem State.sendFlit_hbm (s : State) (die port cls) : (s.sendFlit die port cls).hbm = s.hbm := by
  unfold State.sendFlit
  split <;> simp
@[simp] theorem State.creditsReturn_hbm (s : State) (die port) : (s.creditsReturn die port).hbm = s.hbm := (rfl)
@[simp] theorem State.portTick_hbm (s : State) (die port) : (s.portTick die port).hbm = s.hbm := by
  unfold State.portTick
  dsimp only
  repeat' split
  all_goals simp
@[simp] theorem State.sendFlits_hbm (s : State) : (s.sendFlits).hbm = s.hbm := by simp [State.sendFlits, foldl_hbm]
@[simp] theorem State.unqueue_hbm (s : State) (f) : (s.unqueue f).hbm = s.hbm := (rfl)

/-! #### Machine/FenceEv.lean -/

@[simp] theorem State.fenceStep_hbm (s : State) (t x sc seqs wbs nxt) : (s.fenceStep t x sc seqs wbs nxt).hbm = s.hbm := by
  simp [State.fenceStep, foldl_hbm]
@[simp] theorem State.timeLost_hbm (s : State) : (s.timeLost).hbm = s.hbm := by simp [State.timeLost, foldl_hbm]

/-! #### Machine/TimeEv.lean -/

@[simp] theorem State.enterLost_hbm (s : State) : (s.enterLost).hbm = s.hbm := by simp [State.enterLost]
@[simp] theorem execPtpMeasurement_keeps (port offset) (s : State) : KeepsHbm s (execPtpMeasurement port offset s) := by simp [execPtpMeasurement]
@[simp] theorem execSyncTimeout_keeps (next) (s : State) : KeepsHbm s (execSyncTimeout next s) := by simp [execSyncTimeout]
@[simp] theorem execHoldoverLimit_keeps (s : State) : KeepsHbm s (execHoldoverLimit s) := by simp [execHoldoverLimit]
@[simp] theorem State.sendPlain_hbm (s : State) (port op cls load) : (s.sendPlain port op cls load).hbm = s.hbm := (rfl)
@[simp] theorem execDelayReq_keeps (s : State) : KeepsHbm s (execDelayReq s) := by simp [execDelayReq]
@[simp] theorem execHeartbeatSend_keeps (s : State) : KeepsHbm s (execHeartbeatSend s) := by
  unfold execHeartbeatSend
  dsimp only
  repeat' split
  all_goals simp
@[simp] theorem execHeartbeatReceive_keeps (pkg verified) (s : State) : KeepsHbm s (execHeartbeatReceive pkg verified s) := by
  simp [execHeartbeatReceive]
@[simp] theorem execSchedulerTakeover_keeps (s : State) : KeepsHbm s (execSchedulerTakeover s) := by simp [execSchedulerTakeover]

/-! #### Machine/WhiskEv.lean -/

@[simp] theorem State.answerWhisk_hbm (s : State) (e code) : (s.answerWhisk e code).hbm = s.hbm := (rfl)
@[simp] theorem execTimetableEntry_keeps (m) (s : State) : KeepsHbm s (execTimetableEntry m s) := by simp [execTimetableEntry]
@[simp] theorem execMaskMessage_keeps (m) (s : State) : KeepsHbm s (execMaskMessage m s) := by simp [execMaskMessage, foldl_hbm]
@[simp] theorem execMaskEffect_keeps (s : State) : KeepsHbm s (execMaskEffect s) := by simp [execMaskEffect]
@[simp] theorem execPreemptionRequest_keeps (m) (s : State) : KeepsHbm s (execPreemptionRequest m s) := by simp [execPreemptionRequest]
@[simp] theorem execStagingStart_keeps (x) (s : State) : KeepsHbm s (execStagingStart x s) := by simp [execStagingStart]
@[simp] theorem execStagingComplete_keeps (x) (s : State) : KeepsHbm s (execStagingComplete x s) := by simp [execStagingComplete]
@[simp] theorem State.skip_hbm (s : State) (p m) : (s.skip p m).hbm = s.hbm := by simp [State.skip]
@[simp] theorem State.markBegun_hbm (s : State) (p m) : (s.markBegun p m).hbm = s.hbm := (rfl)
@[simp] theorem execEntryEnd_keeps (part) (s : State) : KeepsHbm s (execEntryEnd part s) := by simp [execEntryEnd, foldl_hbm]

/-! #### Machine/LinkEv.lean -/

@[simp] theorem execLinkEnable_keeps (l) (s : State) : KeepsHbm s (execLinkEnable l s) := by simp [execLinkEnable]
@[simp] theorem execLinkTrained_keeps (l lanes) (s : State) : KeepsHbm s (execLinkTrained l lanes s) := by simp [execLinkTrained]
@[simp] theorem execLinkTrainFail_keeps (l) (s : State) : KeepsHbm s (execLinkTrainFail l s) := by simp [execLinkTrainFail]
@[simp] theorem execLinkRetrainTimer_keeps (l) (s : State) : KeepsHbm s (execLinkRetrainTimer l s) := by simp [execLinkRetrainTimer]
@[simp] theorem execFlitCrcReplay_keeps (l good) (s : State) : KeepsHbm s (execFlitCrcReplay l good s) := by simp [execFlitCrcReplay]
@[simp] theorem execClosedLinkDiscard_keeps (l) (s : State) : KeepsHbm s (execClosedLinkDiscard l s) := by simp [execClosedLinkDiscard]
@[simp] theorem State.dropAt_hbm (s : State) (die port) : (s.dropAt die port).hbm = s.hbm := (rfl)
@[simp] theorem State.freeReq_hbm (s : State) (f) : (s.freeReq f).hbm = s.hbm := (rfl)
@[simp] theorem State.answerMop_hbm (s : State) (f a) : (s.answerMop f a).hbm = s.hbm := by
  unfold State.answerMop
  split <;> rfl
@[simp] theorem State.raisePool_hbm (s : State) (f w) : (s.raisePool f w).hbm = s.hbm := (rfl)
@[simp] theorem State.writtenBack_hbm (s : State) (f w) : (s.writtenBack f w).hbm = s.hbm := (rfl)
@[simp] theorem State.lidAck_hbm (s : State) (f) : (s.lidAck f).hbm = s.hbm := (rfl)
@[simp] theorem State.nextWriteback_hbm (s : State) (f) : (s.nextWriteback f).hbm = s.hbm := by simp [State.nextWriteback]
@[simp] theorem State.dataArrives_hbm (s : State) (f load) : (s.dataArrives f load).hbm = s.hbm := by simp [State.dataArrives]
@[simp] theorem State.ackArrives_hbm (s : State) (f w load) : (s.ackArrives f w load).hbm = s.hbm := by
  unfold State.ackArrives
  repeat' split
  all_goals simp
@[simp] theorem State.requestFails_hbm (s : State) (f) : (s.requestFails f).hbm = s.hbm := by simp [State.requestFails]
@[simp] theorem State.answerReq_hbm (s : State) (die port f h load) : (s.answerReq die port f h load).hbm = s.hbm := by simp [State.answerReq]
@[simp] theorem State.management_hbm (s : State) (load) : (s.management load).hbm = s.hbm := by
  unfold State.management
  dsimp only
  split
  · next u e =>
    revert e
    split
    · exact execTimetableEntry_keeps _ s u
    · exact execMaskMessage_keeps _ s u
    · exact execPreemptionRequest_keeps _ s u
    · rintro ⟨⟩; rfl
  · rfl
@[simp] theorem State.timing_hbm (s : State) (die port load) : (s.timing die port load).hbm = s.hbm := by
  unfold State.timing
  repeat' split
  all_goals simp
@[simp] theorem execFabricPacketReceive_keeps (die port hdr payload) (s : State) : KeepsHbm s (execFabricPacketReceive die port hdr payload s) := by
  unfold execFabricPacketReceive
  dsimp only
  repeat' split
  all_goals simp
@[simp] theorem execFabricRequestTimeout_keeps (die tag) (s : State) : KeepsHbm s (execFabricRequestTimeout die tag s) := by
  unfold execFabricRequestTimeout
  split <;> simp
@[simp] theorem execFabricResendTimeout_keeps (die tag) (s : State) : KeepsHbm s (execFabricResendTimeout die tag s) := by
  unfold execFabricResendTimeout
  repeat' split
  all_goals simp
@[simp] theorem State.flipAff_hbm (s : State) (part) : (s.flipAff part).hbm = s.hbm := (rfl)
@[simp] theorem execAffswWrite_keeps (part swt) (s : State) : KeepsHbm s (execAffswWrite part swt s) := by simp [execAffswWrite]
@[simp] theorem execAffinityEntryWrite_keeps (part bank idx val) (s : State) : KeepsHbm s (execAffinityEntryWrite part bank idx val s) := by
  simp [execAffinityEntryWrite]
@[simp] theorem execAffinityFlip_keeps (part) (s : State) : KeepsHbm s (execAffinityFlip part s) := by simp [execAffinityFlip]

/-! #### Machine/PowerEv.lean -/

@[simp] theorem State.powerRecord_hbm (s : State) (c synd) : (s.powerRecord c synd).hbm = s.hbm := (rfl)
@[simp] theorem State.deny_hbm (s : State) (c vt) : (s.deny c vt).hbm = s.hbm := (rfl)
@[simp] theorem State.power_hbm (s : State) (c f) : (s.power c f).hbm = s.hbm := (rfl)
@[simp] theorem State.govern_hbm (s : State) (c) : (s.govern c).hbm = s.hbm := by simp [State.govern]
@[simp] theorem execGovernorSample_keeps (c) (s : State) : KeepsHbm s (execGovernorSample c s) := by simp [execGovernorSample]
@[simp] theorem execVoltageRampDone_keeps (c) (s : State) : KeepsHbm s (execVoltageRampDone c s) := by simp [execVoltageRampDone]
@[simp] theorem execSliceHoldEnd_keeps (c slice) (s : State) : KeepsHbm s (execSliceHoldEnd c slice s) := by simp [execSliceHoldEnd]
@[simp] theorem execPwrctlWrite_keeps (c val) (s : State) : KeepsHbm s (execPwrctlWrite c val s) := by simp [execPwrctlWrite]
@[simp] theorem execBudgetInterval_keeps (c energy) (s : State) : KeepsHbm s (execBudgetInterval c energy s) := by simp [execBudgetInterval]
@[simp] theorem execTimingErrorDetect_keeps (t) (s : State) : KeepsHbm s (execTimingErrorDetect t s) := by
  unfold execTimingErrorDetect
  dsimp only
  repeat' split
  all_goals simp
@[simp] theorem execRegBankRetention_keeps (c slice row lane) (s : State) : KeepsHbm s (execRegBankRetention c slice row lane s) := by
  simp [execRegBankRetention]
@[simp] theorem State.startAll_hbm (s : State) (c) : (s.startAll c).hbm = s.hbm := by simp [State.startAll, foldl_hbm]
@[simp] theorem execRegBankWakeDone_keeps (c slice row lane) (s : State) : KeepsHbm s (execRegBankWakeDone c slice row lane s) := by
  simp [execRegBankWakeDone]
@[simp] theorem execScrBankRetention_keeps (c bank) (s : State) : KeepsHbm s (execScrBankRetention c bank s) := by simp [execScrBankRetention]
@[simp] theorem execScrBankWakeDone_keeps (c bank) (s : State) : KeepsHbm s (execScrBankWakeDone c bank s) := by simp [execScrBankWakeDone]
@[simp] theorem execTileWakeDone_keeps (c tile) (s : State) : KeepsHbm s (execTileWakeDone c tile s) := by simp [execTileWakeDone]

/-! #### Machine/LidEv.lean -/

@[simp] theorem State.lidSend_hbm (s : State) (part line) : (s.lidSend part line).hbm = s.hbm := by simp [State.lidSend]
@[simp] theorem State.lidFlush_hbm (s : State) : (s.lidFlush).hbm = s.hbm := by simp [State.lidFlush, foldl_hbm]
@[simp] theorem State.sendMarker_hbm (s : State) (l part) : (s.sendMarker l part).hbm = s.hbm := by
  unfold State.sendMarker
  dsimp only
  repeat' split
  all_goals simp
@[simp] theorem State.sendMarkers_hbm (s : State) : (s.sendMarkers).hbm = s.hbm := by
  unfold State.sendMarkers
  split <;> simp [foldl_hbm]
@[simp] theorem State.abandonWrites_hbm (s : State) : (s.abandonWrites).hbm = s.hbm := (rfl)

/-! #### Machine/MatrixEv.lean -/

@[simp] theorem State.mmaDone_hbm (s : State) (c m) : (s.mmaDone c m).hbm = s.hbm := by
  unfold State.mmaDone
  dsimp only
  repeat' split
  all_goals simp [foldl_hbm]
@[simp] theorem State.tilesAwake_hbm (s : State) (c places) : (s.tilesAwake c places).1.hbm = s.hbm := by simp [State.tilesAwake, foldl_hbm]
@[simp] theorem execMmaComplete_keeps (c) (s : State) : KeepsHbm s (execMmaComplete c s) := by
  unfold execMmaComplete
  split <;> simp
@[simp] theorem State.writeCells_hbm (s : State) (g y reg vals) : (s.writeCells g y reg vals).hbm = s.hbm := by simp [State.writeCells]
@[simp] theorem State.storeCells_hbm (s : State) (g y cell reg place) : (s.storeCells g y cell reg place).hbm = s.hbm := by
  simp [State.storeCells, foldl_hbm]
@[simp] theorem State.loadCells_hbm (s : State) (g y reg place) : (s.loadCells g y reg place).hbm = s.hbm := by simp [State.loadCells]
@[simp] theorem State.matEffect_hbm (s : State) (t x y) : (s.matEffect t x y).hbm = s.hbm := by
  unfold State.matEffect
  split <;> simp
@[simp] theorem execMatrixOpComplete_keeps (t) (s : State) : KeepsHbm s (execMatrixOpComplete t s) := by
  unfold execMatrixOpComplete
  split <;> simp

/-! #### Machine/Clock.lean -/

@[simp] theorem State.deliverAll_hbm (s : State) : (s.deliverAll).hbm = s.hbm := (rfl)
@[simp] theorem State.tick_hbm (s : State) : (s.tick).hbm = s.hbm := by simp [State.tick]

/-! #### Machine/CrossLane.lean -/

@[simp] theorem State.rendezvousCheck_hbm (s : State) (g set pc mask) : (s.rendezvousCheck g set pc mask).hbm = s.hbm := by
  unfold State.rendezvousCheck
  dsimp only
  split
  · rfl
  · refine foldl_hbm _ (fun s a => ?_) _ s
    split <;> simp
@[simp] theorem State.rendezvousAll_hbm (s : State) (g set) : (s.rendezvousAll g set).hbm = s.hbm := by
  refine foldl_hbm _ (fun s a => ?_) _ s
  repeat' split
  all_goals simp
theorem rendezvous_keeps (s : State) (i c a b) : KeepsHbm s (rendezvous s i c a b) := issue_keeps fun t x _ => by simp
@[simp] theorem execPresent_keeps (h d c) (s : State) : KeepsHbm s (execPresent h d c s) := issue_keeps fun t x g => by simp

/-! #### Machine/Exit.lean -/

@[simp] theorem State.lastExit_hbm (s : State) (g) : (s.lastExit g).hbm = s.hbm := by simp [State.lastExit]
@[simp] theorem State.afterExit_hbm (s : State) (t x) : (s.afterExit t x).hbm = s.hbm := by simp [State.afterExit]
@[simp] theorem State.exitNow_hbm (s : State) (t x) : (s.exitNow t x).hbm = s.hbm := by simp [State.exitNow]
@[simp] theorem execExitThread_keeps (h) (s : State) : KeepsHbm s (execExitThread h s) := issue_keeps fun t x g => by simp

/-! #### Machine/Quantise.lean -/

@[simp] theorem execQcvt_keeps (h rm sf d a b) (s : State) : KeepsHbm s (execQcvt h rm sf d a b s) := issue_keeps fun t x g => by simp

/-! #### Machine/Run.lean -/

@[simp] theorem State.afterStep_hbm (s : State) (was) : (s.afterStep was).hbm = s.hbm := by
  unfold State.afterStep
  split <;> rfl

/-! ### Canonical form -/

/-- The canonical form of HBM and of the tables beside it (R6, R485, R494). -/
structure HbmWf (m : List Host.Cell × Tab Nat × Tab Bool) : Prop where
  mem    : Memory.wf m.1 = true
  keyTag : Tab.wf 0 m.2.1 = true
  poison : Tab.wf false m.2.2 = true

/-- An outcome that goes on does so with memory in canonical form. -/
def GoesOnWf (o : Out State Fault Refusal) : Prop := ∀ s', o = .next s' → HbmWf s'.hbm

@[simp] theorem hbmWf_ite (c : Prop) [Decidable c] (m n : List Host.Cell × Tab Nat × Tab Bool) :
    HbmWf (if c then m else n) ↔ if c then HbmWf m else HbmWf n := by split <;> rfl

@[simp] theorem goesOnWf_next (u : State) : GoesOnWf (.next u) ↔ HbmWf u.hbm :=
  ⟨fun h => h u rfl, fun h _ e => by cases e; exact h⟩

@[simp] theorem goesOnWf_fault (r) : GoesOnWf (.fault r) := fun _ e => nomatch e

@[simp] theorem goesOnWf_ite (c : Prop) [Decidable c] (o p : Out State Fault Refusal) :
    GoesOnWf (if c then o else p) ↔ if c then GoesOnWf o else GoesOnWf p := by split <;> rfl

theorem KeepsHbm.goesOnWf {s : State} {o : Out State Fault Refusal} (k : KeepsHbm s o) (h : HbmWf s.hbm) : GoesOnWf o :=
  fun u e => k u e ▸ h

theorem foldl_wf {α : Type} {f : State → α → State} (hf : ∀ s a, HbmWf s.hbm → HbmWf (f s a).hbm) (l : List α) {s : State}
    (h : HbmWf s.hbm) : HbmWf (l.foldl f s).hbm := by
  induction l generalizing s with
  | nil => exact h
  | cons a l ih => exact ih (hf s a h)

/-- Sectors marked as poisoned leave the table of poison in canonical form. -/
theorem poisonRange_wf {t : Tab Bool} (h : Tab.wf false t = true) (pa n) : Tab.wf false (poisonRange t pa n) = true := by
  unfold poisonRange
  generalize List.range _ = l
  induction l generalizing t with
  | nil => exact h
  | cons i l ih => exact ih (Tab.wf_put _ _ _ h)

/-- Key tags put one after another leave their table in canonical form. -/
theorem foldl_put_wf {α β : Type} [DecidableEq β] {d : β} (k : α → Nat) (v : β) (l : List α) {t : Tab β} (h : Tab.wf d t = true) :
    Tab.wf d (l.foldl (fun t e => Tab.put d t (k e) v) t) = true := by
  induction l generalizing t with
  | nil => exact h
  | cons e l ih => exact ih (Tab.wf_put _ _ _ h)

theorem issue_goesOnWf {s : State} (h : HbmWf s.hbm) {i} {body : TRef → Thread → Group → Out State Fault Refusal}
    (hb : ∀ t x g, GoesOnWf (body t x g)) : GoesOnWf (issue s i body) := by
  unfold issue
  repeat' split
  all_goals simp [h, hb]

theorem State.serve_goesOnWf {s : State} (h : HbmWf s.hbm) {mb tag part} {f : State → State × Nat} (hf : HbmWf (f s).1.hbm) :
    GoesOnWf (s.serve mb tag part f) := by
  simp [State.serve, h, hf]

theorem State.commitIf_hbmWf {s : State} (h : HbmWf s.hbm) {checks} {f : State → State} (hf : HbmWf (f s).hbm) :
    HbmWf (s.commitIf checks f).1.hbm := by
  unfold State.commitIf
  split
  · exact hf
  · exact h

/-! #### Machine/Phys.lean -/

@[simp] theorem State.openSector_hbmWf {s : State} (h : HbmWf s.hbm) (key q pa mask) : HbmWf (s.openSector key q pa mask).hbm := by
  obtain ⟨hm, hk, hp⟩ := h
  unfold State.openSector
  split
  · exact ⟨hm, hk, hp⟩
  · dsimp only
    refine ⟨?_, Tab.wf_put _ _ _ ?_, ?_⟩
    · show Memory.wf (ite _ _ _ : State).mem = true
      split
      · exact hm
      · exact memPut_wf _ _ _ _ hm
    · split <;> exact hk
    · show Tab.wf false (if _ then _ else _) = true
      split
      · refine Tab.wf_put _ _ _ ?_
        split <;> exact hp
      · split <;> exact hp
@[simp] theorem State.homeWrite_hbmWf {s : State} (h : HbmWf s.hbm) (part slot pa bytes mask) : HbmWf (s.homeWrite part slot pa bytes mask).hbm := by
  unfold State.homeWrite
  dsimp only
  have hf : HbmWf ((List.range ((pa + bytes.length + sectorSize - 1) / sectorSize - pa / sectorSize)).foldl
      (fun s i => s.openSector (s.sectorKey part slot (pa / sectorSize + i)) (pa / sectorSize + i) pa mask) s).hbm :=
    foldl_wf (fun s i hs => openSector_hbmWf hs ..) _ h
  exact ⟨memPut_wf _ _ _ _ hf.mem, hf.keyTag, hf.poison⟩
@[simp] theorem State.homePut_hbmWf {s : State} (h : HbmWf s.hbm) (part slot pa bytes) : HbmWf (s.homePut part slot pa bytes).hbm := by
  simp [State.homePut, h]

/-! #### Machine/Pool.lean -/

@[simp] theorem State.homeBytesPut_hbmWf {s : State} (h : HbmWf s.hbm) (part loc bytes mask) : HbmWf (s.homeBytesPut part loc bytes mask).hbm := by
  unfold State.homeBytesPut
  split <;> simp [h]
@[simp] theorem State.homeStoreNo_hbmWf {s : State} (h : HbmWf s.hbm) (part loc bytes mask no) :
    HbmWf (s.homeStoreNo part loc bytes mask no).1.hbm := by
  simp [State.homeStoreNo, h]
@[simp] theorem State.homeStore_hbmWf {s : State} (h : HbmWf s.hbm) (part loc bytes mask) : HbmWf (s.homeStore part loc bytes mask).1.hbm := by
  simp [State.homeStore, h]

/-! #### Machine/Front.lean -/

@[simp] theorem State.frontWrite_hbmWf {s : State} (h : HbmWf s.hbm) (x va bs rel) : HbmWf (s.frontWrite x va bs rel).1.hbm := by
  unfold State.frontWrite
  dsimp only
  repeat' split
  all_goals simp [h]
@[simp] theorem State.frontSignal_hbmWf {s : State} (h : HbmWf s.hbm) (x va add v) : HbmWf (s.frontSignal x va add v).1.hbm := by
  unfold State.frontSignal
  dsimp only
  repeat' split
  all_goals simp [h]

/-! #### Machine/Launch.lean -/

theorem State.launched_hbmWf {s u : State} (h : HbmWf s.hbm) {x rec code k} (e : s.launched x rec code k = some u) : HbmWf u.hbm := by
  unfold State.launched at e
  dsimp only at e
  split at e
  · cases e
  · split at e <;> cases e <;> simp [h]

/-! #### Machine/WorkQueue.lean -/

theorem State.appendRec_hbmWf {s u : State} (h : HbmWf s.hbm) {k rec} (e : s.appendRec k rec = some u) : HbmWf u.hbm := by
  unfold State.appendRec at e
  dsimp only at e
  split at e
  · cases e
  · split at e
    · cases e
    · cases e; simp [h]
@[simp] theorem State.pushRetry_hbmWf {s : State} (h : HbmWf s.hbm) (t) : HbmWf (s.pushRetry t).hbm := by
  unfold State.pushRetry
  split
  · exact h
  · split
    · split
      · exact h
      · split
        · simp [h]
        · split
          · split
            · next u e => simpa using State.appendRec_hbmWf h e
            · simp [h]
          · exact h
    · exact h
@[simp] theorem State.servePushes_hbmWf {s : State} (h : HbmWf s.hbm) (k) : HbmWf (s.servePushes k).hbm :=
  foldl_wf (fun _ _ hs => State.pushRetry_hbmWf hs _) _ h
@[simp] theorem State.closeQueue_hbmWf {s : State} (h : HbmWf s.hbm) (k) : HbmWf (s.closeQueue k).hbm := by simp [State.closeQueue, h]
@[simp] theorem State.pushNow_hbmWf {s : State} (h : HbmWf s.hbm) (t x g i) : HbmWf (s.pushNow t x g i).hbm := by
  unfold State.pushNow
  split
  · dsimp only
    split
    · simp [h]
    · split
      · simp [h]
      · split
        · exact h
        · split
          · simp [h]
          · split
            · split
              · next u e => simpa using State.appendRec_hbmWf h e
              · simp [h]
            · simp [h]
  · exact h
@[simp] theorem execWpop_goesOnWf {s : State} (h : HbmWf s.hbm) (h' d) : GoesOnWf (execWpop h' d s) :=
  issue_goesOnWf h fun t x g => by
    dsimp only
    split
    · simp
    · simp [h]

/-! #### Machine/KernelEv.lean -/

@[simp] theorem execLaunchDecision_goesOnWf {s : State} (h : HbmWf s.hbm) (c) : GoesOnWf (execLaunchDecision c s) := by
  unfold execLaunchDecision
  dsimp only
  split
  · simpa using h
  · split
    · simpa using h
    · split
      · simpa using h
      · split
        · simpa using h
        · simpa using h
        · split
          · simpa using h
          · next u e =>
            have hu := State.launched_hbmWf (by simpa using h) e
            simpa using hu
theorem State.kernelFree_hbmWf {s u : State} (h : HbmWf s.hbm) {k} (e : s.kernelFree k = some u) : HbmWf u.hbm := by
  unfold State.kernelFree at e
  dsimp only at e
  split at e
  · cases e; exact h
  · split at e
    · cases e; exact h
    · split at e
      · cases e; simp [h]
      · split at e
        · cases e
        · split at e <;> cases e <;> simp [h]
@[simp] theorem execGroupDrained_goesOnWf {s : State} (h : HbmWf s.hbm) (g) : GoesOnWf (execGroupDrained g s) := by
  unfold execGroupDrained
  split
  · simpa using h
  · split
    · simpa using h
    · split
      · next u e => simpa using State.kernelFree_hbmWf (by simpa using h) e
      · simpa using h

/-! #### Machine/CopyEv.lean -/

@[simp] theorem State.memSpoil_hbmWf {s : State} (h : HbmWf s.hbm) (c cp ls) : HbmWf (s.memSpoil c cp ls).hbm := by
  unfold State.memSpoil
  dsimp only
  refine foldl_wf (fun s a hs => ?_) _ h
  split <;> simp [hs]
@[simp] theorem State.storeLines_hbmWf {s : State} (h : HbmWf s.hbm) (c no bs ct l) : HbmWf (s.storeLines c no bs ct l).1.hbm := by
  induction l generalizing s ct with
  | nil => exact h
  | cons e m ih => exact ih (by simp [h]) _
@[simp] theorem State.tstoreGranule_hbmWf {s : State} (h : HbmWf s.hbm) (c cp pos n) : HbmWf (s.tstoreGranule c cp pos n).1.hbm := by
  unfold State.tstoreGranule
  dsimp only
  split
  · exact h
  · split
    · simpa using h
    · split
      · simpa using h
      · split
        · simpa using h
        · exact State.storeLines_hbmWf (by simpa [foldl_hbm] using h) ..
@[simp] theorem State.spoilCopy_hbmWf {s : State} (h : HbmWf s.hbm) (c ch cp) : HbmWf (s.spoilCopy c ch cp).hbm := by
  unfold State.spoilCopy
  dsimp only
  split
  · split <;> simp [h]
  · refine foldl_wf (fun s d hs => ?_) _ h
    split <;> simp [hs]
@[simp] theorem State.spoilRest_hbmWf {s : State} (h : HbmWf s.hbm) (c cp k) : HbmWf (s.spoilRest c cp k).hbm := by
  unfold State.spoilRest
  split
  · simp [h]
  · refine foldl_wf (fun s d hs => ?_) _ h
    split <;> simp [hs]
@[simp] theorem State.copyGranule_hbmWf {s : State} (h : HbmWf s.hbm) (c ch cp k) : HbmWf (s.copyGranule c ch cp k).hbm := by
  unfold State.copyGranule
  have ht (n) := State.tstoreGranule_hbmWf h c cp (k.least cp.dests) n
  cases hk : cp.kind
  all_goals
    dsimp only
    split
    · simp [h]
    · simp [h]
    · simp [h, ht]
    · simp [h, ht]
    · split <;> simp [h]
@[simp] theorem execCopyGranuleDelivered_goesOnWf {s : State} (h : HbmWf s.hbm) (c ch) : GoesOnWf (execCopyGranuleDelivered c ch s) := by
  unfold execCopyGranuleDelivered
  dsimp only
  split <;> simp [h]

/-! #### Machine/MemoryEv.lean -/

@[simp] theorem State.performMem_hbmWf {s : State} (h : HbmWf s.hbm) (c m e) : HbmWf (s.performMem c m e).hbm := by
  have h1 : HbmWf (if e then s.l2Drop (m.loc.lineNo m.thr.ctxRef.part) else s).hbm := by simpa using h
  unfold State.performMem
  dsimp only
  generalize (if e then s.l2Drop (m.loc.lineNo m.thr.ctxRef.part) else s) = u at h1 ⊢
  repeat' split
  all_goals simp [h1]
@[simp] theorem execStorePerformedAtHome_goesOnWf {s : State} (h : HbmWf s.hbm) (c seq evicted) :
    GoesOnWf (execStorePerformedAtHome c seq evicted s) := by
  unfold execStorePerformedAtHome
  repeat' split
  all_goals simp [h]

/-! #### Machine/Signal.lean -/

@[simp] theorem execSignalWaitWake_goesOnWf {s : State} (h : HbmWf s.hbm) (t) : GoesOnWf (execSignalWaitWake t s) := by
  unfold execSignalWaitWake
  repeat' split
  all_goals simp [h]

/-! #### Machine/Save.lean -/

@[simp] theorem State.areaPut_hbmWf {s : State} (h : HbmWf s.hbm) (part key pa bs) : HbmWf (s.areaPut part key pa bs).hbm := by
  refine foldl_wf (fun s b hs => ?_) _ h
  split <;> simp [hs]
@[simp] theorem State.saPut_hbmWf {s : State} (h : HbmWf s.hbm) (x off bs) : HbmWf (s.saPut x off bs).hbm := by simp [State.saPut, h]
@[simp] theorem State.poisonArea_hbmWf {s : State} (h : HbmWf s.hbm) (part pa n) : HbmWf (s.poisonArea part pa n).hbm := by
  refine foldl_wf (fun s b hs => ?_) _ h
  split
  · exact ⟨hs.mem, hs.keyTag, poisonRange_wf hs.poison ..⟩
  · exact hs
@[simp] theorem State.putChunks_hbmWf {s : State} (h : HbmWf s.hbm) (x off l) : HbmWf (s.putChunks x off l).hbm := by
  induction l generalizing s off with
  | nil => exact h
  | cons c cs ih => exact ih (by simp [h]) _
@[simp] theorem State.putCores_hbmWf {s : State} (h : HbmWf s.hbm) (x l off) : HbmWf (s.putCores x l off).1.hbm := by
  induction l generalizing s off with
  | nil => exact h
  | cons core cores ih =>
    unfold State.putCores
    dsimp only
    split
    · exact ih (by simp [h]) _
    · exact ih (by simp [h]) _
@[simp] theorem State.seal_hbmWf {s : State} (h : HbmWf s.hbm) (x) : HbmWf (s.seal x).hbm := by
  unfold State.seal
  exact State.saPut_hbmWf (State.putCores_hbmWf (State.saPut_hbmWf (by simpa using h) ..) ..) ..

/-! #### Machine/SwapEv.lean -/

@[simp] theorem State.swapPut_hbmWf {s : State} (h : HbmWf s.hbm) (c off bs bad) : HbmWf (s.swapPut c off bs bad).hbm := by simp [State.swapPut, h]
@[simp] theorem State.swapPutThread_hbmWf {s : State} (h : HbmWf s.hbm) (t x w) : HbmWf (s.swapPutThread t x w).hbm :=
  foldl_wf (fun _ _ hs => by simp [hs]) _ (by simp [h])
@[simp] theorem State.swapImage_hbmWf {s : State} (h : HbmWf s.hbm) (g y) : HbmWf (s.swapImage g y).hbm := by
  unfold State.swapImage
  dsimp only
  have put {s : State} (hs : HbmWf s.hbm) (c off bs bad) := State.swapPut_hbmWf hs c off bs bad
  refine foldl_wf (fun _ _ hs => put hs ..) _ <| foldl_wf (fun _ _ hs => put hs ..) _ <| foldl_wf (fun _ _ hs => put hs ..) _ <|
    foldl_wf (fun _ _ hs => put hs ..) _ <| foldl_wf (fun _ _ hs => State.swapPutThread_hbmWf hs ..) _ <| put h ..
@[simp] theorem State.swapOut_hbmWf {s : State} (h : HbmWf s.hbm) (g) : HbmWf (s.swapOut g).hbm := by
  unfold State.swapOut
  split
  · exact h
  · next y _ =>
    have hi := State.swapImage_hbmWf (s := (s.groupThreads g).foldl (fun s e =>
      s.setThread e.1 (if e.2.st = .exited then e.2 else { e.2 with jbE := 0, jbA := 0 })) s) (by simpa [foldl_hbm] using h) g y
    simpa [foldl_hbm] using hi
@[simp] theorem execGswapSwapOut_goesOnWf {s : State} (h : HbmWf s.hbm) (g) : GoesOnWf (execGswapSwapOut g s) := by
  unfold execGswapSwapOut
  dsimp only
  have hd : HbmWf ((s.swapGroups g).foldl (fun s q => s.drainCore q.coreRef) s).hbm := by simpa [foldl_hbm] using h
  split
  · simpa using h
  · split
    · simpa using foldl_wf (fun _ _ hs => State.swapOut_hbmWf hs _) _ hd
    · simpa using hd

/-! #### Machine/ContextEv.lean -/

@[simp] theorem State.pauseImage_hbmWf {s : State} (h : HbmWf s.hbm) (x) : HbmWf (s.pauseImage x).hbm := by simp [State.pauseImage, h]
@[simp] theorem State.haltCtx_hbmWf {s : State} (h : HbmWf s.hbm) (x pause) : HbmWf (s.haltCtx x pause).hbm := by
  unfold State.haltCtx
  split <;> simp [h]
@[simp] theorem execImageSealed_goesOnWf {s : State} (h : HbmWf s.hbm) (x) : GoesOnWf (execImageSealed x s) := by simp [execImageSealed, h]
@[simp] theorem State.haltLoading_hbmWf {s : State} (h : HbmWf s.hbm) (p target pause) : HbmWf (s.haltLoading p target pause).hbm :=
  foldl_wf (fun _ _ hs => by simp [hs]) _ h
@[simp] theorem State.switchTo_hbmWf {s : State} (h : HbmWf s.hbm) (p target pause) : HbmWf (s.switchTo p target pause).hbm := by
  unfold State.switchTo
  dsimp only
  repeat' split
  all_goals simp [h]

/-! #### Machine/Pestle.lean -/

@[simp] theorem State.coldState_hbmWf {s : State} (h : HbmWf s.hbm) : HbmWf s.coldState.hbm :=
  ⟨h.mem, foldl_put_wf _ _ _ h.keyTag, h.poison⟩
@[simp] theorem execColdReset_goesOnWf {s : State} (h : HbmWf s.hbm) : GoesOnWf (execColdReset s) := by simp [execColdReset, h]
@[simp] theorem State.settleCore_hbmWf {s : State} (h : HbmWf s.hbm) (c) : HbmWf (s.settleCore c).hbm := by
  unfold State.settleCore
  rw [State.modCore_hbm]
  refine foldl_wf (fun s n hs => ?_) _ (by simpa using h)
  split
  · next u e => exact execStorePerformedAtHome_goesOnWf hs _ _ _ u e
  · exact hs
@[simp] theorem State.resetPart_hbmWf {s : State} (h : HbmWf s.hbm) (part) : HbmWf (s.resetPart part).hbm := by
  have hs (l : List CoreRef) {u : State} (hu : HbmWf u.hbm) : HbmWf (l.foldl State.settleCore u).hbm :=
    foldl_wf (fun _ _ hs => State.settleCore_hbmWf hs _) l hu
  simp [State.resetPart, foldl_hbm, hs, h]

/-! #### Machine/PestleEv.lean -/

@[simp] theorem execPartopReset_goesOnWf {s : State} (h : HbmWf s.hbm) (mb tag part) : GoesOnWf (execPartopReset mb tag part s) :=
  State.serve_goesOnWf h (by simp [h])
@[simp] theorem State.dissolvePart_hbmWf {s : State} (h : HbmWf s.hbm) (part) : HbmWf (s.dissolvePart part).hbm := by
  simp only [State.dissolvePart, State.relink_hbm, State.modPart_hbm]
  rw [foldl_hbm _ (fun _ _ => State.modDie_hbm ..), State.closeLinks_hbm]
  exact ⟨Tab.wf_filter _ _ h.mem, Tab.wf_filter _ _ h.keyTag, Tab.wf_filter _ _ h.poison⟩
@[simp] theorem execPartopDissolve_goesOnWf {s : State} (h : HbmWf s.hbm) (mb tag part) : GoesOnWf (execPartopDissolve mb tag part s) := by
  refine State.serve_goesOnWf h (State.commitIf_hbmWf h ?_)
  exact State.dissolvePart_hbmWf (State.resetPart_hbmWf h _) _

/-! #### Machine/Trace.lean -/

@[simp] theorem State.trace_hbmWf {s : State} (h : HbmWf s.hbm) (x kind val1 val2 hash) : HbmWf (s.trace x kind val1 val2 hash).hbm := by
  simp [State.trace, h]

/-! #### Machine/Packet.lean -/

@[simp] theorem State.traceInput_hbmWf {s : State} (h : HbmWf s.hbm) (x va bs) : HbmWf (s.traceInput x va bs).hbm := by simp [State.traceInput, h]
@[simp] theorem State.takeStart_hbmWf {s : State} (h : HbmWf s.hbm) (x r) : HbmWf (s.takeStart x r).1.hbm := by
  unfold State.takeStart
  dsimp only
  split
  · simpa using h
  · exact h
  · next bs _ =>
    have ht : HbmWf ((s.frontRead x 128 .read r 1).1.traceInput x r bs).hbm := by simp [h]
    split
    · exact ht
    · split
      · simpa using h
      · simpa using ht
      · split
        · next u e => exact State.launched_hbmWf (by simpa using ht) e
        · simpa using h
theorem State.feedAll_hbmWf {s u : State} (h : HbmWf s.hbm) {k l} (e : s.feedAll k l = some u) : HbmWf u.hbm := by
  induction l generalizing s with
  | nil => cases e; exact h
  | cons r rs ih =>
    unfold State.feedAll at e
    split at e
    · cases e; simp [h]
    · split at e
      · next v ev => exact ih (State.appendRec_hbmWf h ev) e
      · cases e
@[simp] theorem State.takeFeed_hbmWf {s : State} (h : HbmWf s.hbm) (x n handle a) : HbmWf (s.takeFeed x n handle a).1.hbm := by
  unfold State.takeFeed
  dsimp only
  split
  · exact h
  · split
    · exact h
    · split
      · simpa using h
      · exact h
      · split
        · next u e => exact State.feedAll_hbmWf (by simp [h]) e
        · simpa [foldl_hbm] using h
@[simp] theorem State.takeWait_hbmWf {s : State} (h : HbmWf s.hbm) (x all es) : HbmWf (s.takeWait x all es).1.hbm := by
  unfold State.takeWait
  extract_lets r
  have hr : HbmWf r.1.hbm := by simpa [r] using h
  have ht (l : List ((Nat × Nat × Cmp) × Nat × Nat × Nat)) : HbmWf (l.foldl (fun s e => s.trace x 2 e.1.1 e.2.1 0) r.1).hbm :=
    foldl_wf (fun _ _ hs => State.trace_hbmWf hs ..) l hr
  split
  · exact hr
  · exact hr
  · dsimp only
    split <;> split <;> simp [hr, ht]
@[simp] theorem State.takeSignal_hbmWf {s : State} (h : HbmWf s.hbm) (x add v a) : HbmWf (s.takeSignal x add v a).1.hbm := by
  unfold State.takeSignal
  dsimp only
  split <;> simp [h]
@[simp] theorem State.takeTimemark_hbmWf {s : State} (h : HbmWf s.hbm) (x virt stamp before) : HbmWf (s.takeTimemark x virt stamp before).1.hbm := by
  unfold State.takeTimemark
  dsimp only
  repeat' split
  all_goals simp [h]
@[simp] theorem State.takeKind_hbmWf {s : State} (h : HbmWf s.hbm) (x wct p) : HbmWf (s.takeKind x wct p).1.hbm := by
  unfold State.takeKind
  repeat' split
  all_goals simp [h]
@[simp] theorem State.consume_hbmWf {s : State} (h : HbmWf s.hbm) (q bs) : HbmWf (s.consume q bs).hbm := by simp [State.consume, h]
@[simp] theorem State.take_hbmWf {s : State} (h : HbmWf s.hbm) (q want) : HbmWf (s.take q want).hbm := by
  unfold State.take
  dsimp only
  repeat' split
  all_goals simp [h]

/-! #### Machine/QueueEv.lean -/

@[simp] theorem execPacketStart_goesOnWf {s : State} (h : HbmWf s.hbm) (q) : GoesOnWf (execPacketStart q s) := by simp [execPacketStart, h]
@[simp] theorem execPacketFeed_goesOnWf {s : State} (h : HbmWf s.hbm) (q) : GoesOnWf (execPacketFeed q s) := by simp [execPacketFeed, h]
@[simp] theorem execPacketSignal_goesOnWf {s : State} (h : HbmWf s.hbm) (q) : GoesOnWf (execPacketSignal q s) := by simp [execPacketSignal, h]
@[simp] theorem execPacketWaitall_goesOnWf {s : State} (h : HbmWf s.hbm) (q) : GoesOnWf (execPacketWaitall q s) := by simp [execPacketWaitall, h]
@[simp] theorem execPacketWaitany_goesOnWf {s : State} (h : HbmWf s.hbm) (q) : GoesOnWf (execPacketWaitany q s) := by simp [execPacketWaitany, h]
@[simp] theorem execPacketTimemark_goesOnWf {s : State} (h : HbmWf s.hbm) (q) : GoesOnWf (execPacketTimemark q s) := by simp [execPacketTimemark, h]
@[simp] theorem execPacketInval_goesOnWf {s : State} (h : HbmWf s.hbm) (q) : GoesOnWf (execPacketInval q s) := by simp [execPacketInval, h]
@[simp] theorem execPacketNop_goesOnWf {s : State} (h : HbmWf s.hbm) (q) : GoesOnWf (execPacketNop q s) := by simp [execPacketNop, h]
@[simp] theorem execInvalComplete_goesOnWf {s : State} (h : HbmWf s.hbm) (q) : GoesOnWf (execInvalComplete q s) := by
  unfold execInvalComplete
  dsimp only
  repeat' split
  all_goals simp [h]
@[simp] theorem State.wake_hbmWf {s : State} (h : HbmWf s.hbm) (q) : HbmWf (s.wake q).hbm := by simp [State.wake, h]
@[simp] theorem execQueueWake_goesOnWf {s : State} (h : HbmWf s.hbm) (q) : GoesOnWf (execQueueWake q s) := by simp [execQueueWake, h]
@[simp] theorem execWaitPeriodicEvaluation_goesOnWf {s : State} (h : HbmWf s.hbm) (q) : GoesOnWf (execWaitPeriodicEvaluation q s) := by
  simp [execWaitPeriodicEvaluation, h]

/-! #### Machine/HostEv.lean -/

@[simp] theorem State.hostStore_hbmWf {s : State} (h : HbmWf s.hbm) (part key pa bs n) : HbmWf (s.hostStore part key pa bs n).hbm := by
  induction n generalizing s pa bs with
  | zero => exact h
  | succ n ih =>
    unfold State.hostStore
    dsimp only
    split
    · simp [h]
    · exact ih (by simp [h]) _ _
@[simp] theorem execHostWindowAccess_goesOnWf {s : State} (h : HbmWf s.hbm) (part pa write len) :
    GoesOnWf (execHostWindowAccess part pa write len s) := by
  unfold execHostWindowAccess
  dsimp only
  repeat' split
  all_goals simp [h]
@[simp] theorem State.scrubPool_hbmWf {s : State} (h : HbmWf s.hbm) (pa) : HbmWf (s.scrubPool pa).hbm := by
  have hp := Tab.wf_put false (pa / sectorSize) true h.poison
  exact ⟨h.mem, h.keyTag, hp⟩
@[simp] theorem execPatrolScrub_goesOnWf {s : State} (h : HbmWf s.hbm) (x uncorrectable) : GoesOnWf (execPatrolScrub x uncorrectable s) := by
  unfold execPatrolScrub
  repeat' split
  all_goals simp [h]

/-! #### Machine/FenceEv.lean -/

@[simp] theorem State.afterFence_hbmWf {s : State} (h : HbmWf s.hbm) (t x g i next) : HbmWf (s.afterFence t x g i next).hbm := by
  unfold State.afterFence
  repeat' split
  all_goals simp [h]
@[simp] theorem execFenceComplete_goesOnWf {s : State} (h : HbmWf s.hbm) (t) : GoesOnWf (execFenceComplete t s) := by
  unfold execFenceComplete
  repeat' split
  all_goals simp [h]

/-! #### Machine/WhiskEv.lean -/

@[simp] theorem State.beginEntry_hbmWf {s : State} (h : HbmWf s.hbm) (p m) : HbmWf (s.beginEntry p m).hbm := by simp [State.beginEntry, h]
@[simp] theorem execEntryStart_goesOnWf {s : State} (h : HbmWf s.hbm) (part) : GoesOnWf (execEntryStart part s) := by
  unfold execEntryStart
  split <;> simp [h]
@[simp] theorem execPreemptionStart_goesOnWf {s : State} (h : HbmWf s.hbm) (part) : GoesOnWf (execPreemptionStart part s) := by
  unfold execPreemptionStart
  split <;> simp [h]
@[simp] theorem execPreemptionEnd_goesOnWf {s : State} (h : HbmWf s.hbm) (part) : GoesOnWf (execPreemptionEnd part s) := by
  unfold execPreemptionEnd
  dsimp only
  repeat' split
  all_goals simp [h]

/-! #### Machine/LidEv.lean -/

@[simp] theorem State.lidCore_hbmWf {s : State} (h : HbmWf s.hbm) (c) : HbmWf (s.lidCore c).hbm := by
  unfold State.lidCore
  rw [State.modCore_hbm]
  refine foldl_wf (fun s n hs => ?_) _ (by simpa using h)
  split
  · next u e => exact execStorePerformedAtHome_goesOnWf hs _ _ _ u e
  · exact hs
@[simp] theorem State.lidStep_hbmWf {s : State} (h : HbmWf s.hbm) : HbmWf s.lidStep.hbm := by
  simpa [State.lidStep] using foldl_wf (fun _ _ hs => State.lidCore_hbmWf hs _) _ h
@[simp] theorem execSupplyWarn_goesOnWf {s : State} (h : HbmWf s.hbm) : GoesOnWf (execSupplyWarn s) := by simp [execSupplyWarn, h]
@[simp] theorem execLidAckDeadline_goesOnWf {s : State} (h : HbmWf s.hbm) : GoesOnWf (execLidAckDeadline s) := by
  unfold execLidAckDeadline
  split
  · simpa using h
  · next l _ =>
    -- The comparison stays closed: the kernel must not count to its deadline.
    obtain ⟨late, hl⟩ : ∃ b, decide (l.t0.toNat + 1600000 ≤ s.time.gtime.toNat) = b := ⟨_, rfl⟩
    rw [hl]
    dsimp only
    repeat' split
    all_goals simp [h]

/-! ### Every instruction, every event and every step -/

/-- Every instruction and every event leaves memory in canonical form: the arms are grouped by the shared operation they run through, and those that
leave HBM alone stand apart from those that write it. -/
theorem exec_goesOnWf {s : State} (h : HbmWf s.hbm) (i : Instr) : GoesOnWf (exec i s) := by
  cases i with
  | nop | bra | iadd | iaddImm | isub | isubImm | imul | imulImm | imulh | imulhImm | imad | imin | iminImm | imax | imaxImm | iabs | ineg
    | andW | andWImm | orW | orWImm | xorW | xorWImm | andnW | andnWImm | notW | popc | clz | brev | shl | shlImm | shr | shrImm | sar
    | sarImm | rot | rotImm | funnel | bfe | bfeImm | bfi | perm | sel | iset | isetImm | plop | mov | movi | lea | iadd64 | iadd64Imm
    | idiv | dot4 | fadd | faddImm | fsub | fsubImm | fmul | fmulImm | fdiv | fdivImm | ffma | fmin | fminImm | fmax | fmaxImm | fset
    | fsetImm | fclass | frnd | fsqrt | frcp | frsq | fex2 | flg2 | fsin | fcos | ftanh | hadd2 | hadd2Imm | hmul2 | hmul2Imm | hfma2
    | hmnx2 | hmnx2Imm | f2i | i2f | f2f | dqcvt | qpack | fdot2 | fscale | fscaleImm | sadd | ssub | smul | sdiv | ssq | sexp | sln | scmp
    | sclass | scvtSliF32 | scvtF32Sli | srecip | pair | xgetPred | xsetPred => exact (compute_keeps s _ _).goesOnWf h
  | brx | call | callx | ret | exitThread | jenrol | jwait | jdrop | jstat | sleep | bkptN | trapN | enter | present | qcvt | fence
    | waitaddr | sptest | spcastGen | spcastSp | pref | cctlInv | cctlWb | cctlInvall | wcflush | sdrop | swake | gwmax | chptr | chwait
    | chdrain | chstat | ringinit | mma | mdecl | mwait | mfence | mzero | mload | mstore | mlive | mstat | mmaIssueOnRoom | mmaComplete
    | matrixOpComplete | barinit | bararv | barwait | barsync | barstat | barset | gbar | barrierArrivalCounted | barrierDelivery | wpush
    | launch | qroom | sysr | sysw | tret | tswr | tsww | ologr | xgetStruct | xsetStruct | placeCore | placeDie | placePort | issueRound
    | kickTaken | deferredTrapDelivery | walkComplete | parkedReplay | fltackReplay | fltackDeliver | fltackFault | fltackIgnored
    | storeAnswer | atomicAnswer | loadResponse | leaseExpiry | wcEntryTimeout | waitaddrWake | waitaddrDeadline | sleepDeadline | copyStart
    | groupPlace | gswapSwapIn | regBankRetention | regBankWakeDone | scrBankRetention | scrBankWakeDone | tileWakeDone | ptpMeasurement
    | syncTimeout | holdoverLimit | heartbeatSend | heartbeatReceive | schedulerTakeover | timetableEntry | maskMessage | maskEffect
    | preemptionRequest | stagingStart | stagingComplete | entryEnd | haltIssueStopped | drainComplete | loadComplete | placeRequest
    | partopForm | partopCoreRemap | partopLaneDegrade | kgen | krevoke | kexport | kimport | kmask | ctxsetInstall | ctxsetDiscard | attest
    | hwinRequest | poolwinRequest | lidaddrRequest | configMemcfg | configGtepoch | configPtpDomain | configAsymmetry | mailboxBadRequest
    | svnRaise | qtailDoorbell | queueEnable | queueDisable | eventDispatch | handlerComplete | ladleWatchdog | linkEnable | linkTrained
    | linkTrainFail | linkRetrainTimer | flitCrcReplay | fabricPacketReceive | closedLinkDiscard | fabricRequestTimeout
    | fabricResendTimeout | affswWrite | affinityEntryWrite | affinityFlip | governorSample | voltageRampDone | sliceHoldEnd
    | budgetInterval | pwrctlWrite | timingErrorDetect | registerWrite | delayReq => exact KeepsHbm.goesOnWf (by simp [exec]) h
  | shfl | vote | ballot | matchLanes | redux | scan | elect => exact (rendezvous_keeps s _ _ _ _).goesOnWf h
  | ld | st | atom | cas | red => exact (access_keeps s _).goesOnWf h
  | ldSp | stSp => exact (accessSp_keeps s _ _).goesOnWf h
  | tcopy | tstore | tcopys => exact (copyInstr_keeps s _ _).goesOnWf h
  | ringacqProd | ringacqCons | ringrelProd | ringrelCons | ringwaitProd | ringwaitCons => exact (ringInstr_keeps s _ _).goesOnWf h
  | wpop | invalComplete | storePerformedAtHome | fenceComplete | signalWaitWake | copyGranuleDelivered | launchDecision | groupDrained
    | gswapSwapOut | entryStart | preemptionStart | preemptionEnd | imageSealed | partopReset | partopDissolve | coldReset | packetStart
    | packetFeed | packetSignal | packetWaitall | packetWaitany | packetTimemark | packetInval | packetNop | queueWake
    | waitPeriodicEvaluation | supplyWarn | lidAckDeadline | patrolScrub | hostWindowAccess => simp [exec, h]
  | signalSet | signalAdd => exact (accessGlob_keeps s _).goesOnWf h
  | sigwait | gswap => exact (sigIssue_keeps s _).goesOnWf h

@[simp] theorem Due.run_goesOnWf {s : State} (h : HbmWf s.hbm) (d : Due) : GoesOnWf (d.run s) := by
  cases d with
  | waitPeriodicEvaluation | queueWake | preemptionEnd | preemptionStart | entryStart | imageSealed | storePerformedAtHome | lidAckDeadline =>
    simp [Due.run, h]
  | _ => exact KeepsHbm.goesOnWf (by simp [Due.run]) h

@[simp] theorem State.runHead_goesOnWf {s : State} (h : HbmWf s.hbm) (t) : GoesOnWf (s.runHead t) := by
  -- The decoder stays closed: the kernel must not run it on a word that is not known.
  obtain ⟨dec, hd⟩ : ∃ dec, decode = dec := ⟨_, rfl⟩
  unfold State.runHead
  rw [hd]
  split
  · simpa using h
  · split
    · simpa using h
    · dsimp only
      split
      · split
        · exact exec_goesOnWf (by simpa using h) _
        · simpa using h
      all_goals simpa using h

@[simp] theorem State.move_goesOnWf {s : State} (h : HbmWf s.hbm) (m) : GoesOnWf (s.move m) := by
  unfold State.move
  split
  · simpa using h
  · split
    · simpa using h
    · split
      · next u e => simpa using exec_goesOnWf h _ u e
      · exact exec_goesOnWf h _

/-- A step that goes on leaves memory in canonical form. -/
theorem step_goesOnWf {s : State} (h : HbmWf s.hbm) : GoesOnWf (step s) := by
  unfold step
  split
  · exact State.runHead_goesOnWf (by simpa using h) _
  · split
    · exact Due.run_goesOnWf (by simpa using h) _
    · exact State.move_goesOnWf (by simpa using h) _

/-- Settles O6: the step runs a thread's instruction, what is due, or a free move, and each of them either leaves HBM and its tables alone or keeps
their canonical form (`exec_goesOnWf`, `Due.run_goesOnWf`). -/
theorem stepKeepsCanonicalMemory : Obligations.StepKeepsCanonicalMemory := by
  intro s s' hm hk hp e
  obtain ⟨hm', hk', hp'⟩ := step_goesOnWf (s := s) ⟨hm, hk, hp⟩ s' e
  exact ⟨hm', hk', hp'⟩

end Sys2Proof.Machine

/-! ## Bytes at a home, and what fetching leaves alone (O8) -/

namespace Sys2Proof.Machine
open Sys2Proof

/-! ### Opening a sector -/

/-- Opening a sector changes no byte of another. -/
theorem State.openSector_memByte_ne (s : State) (key q pa mask) {a : Nat} (h : a / sectorSize ≠ q) :
    (s.openSector key q pa mask).memByte a = s.memByte a := by
  unfold State.openSector
  split
  · rfl
  · dsimp only
    split
    · rfl
    · refine (memPut_get ..).trans (if_neg fun ⟨lo, _, hit⟩ => h ?_)
      have hi : a - q * sectorSize < sectorSize := Decidable.byContradiction fun hge => by
        rw [List.getD_eq_getElem?_getD, List.getElem?_replicate, if_neg hge] at hit
        cases hit
      exact Nat.div_eq_of_lt_le (by omega) (by rw [Nat.succ_mul]; omega)

/-- Opening a sector that reads in plain form, or that the write does not touch, changes no byte. -/
theorem State.openSector_memByte (s : State) (key q pa mask) (h : s.sectorPlain key q = true ∨ touchesSector q pa mask = false) (a : Nat) :
    (s.openSector key q pa mask).memByte a = s.memByte a := by
  unfold State.openSector
  split
  · rfl
  · next ht =>
    obtain hp | ht' := h
    · simp only [hp, Bool.or_true]
      rfl
    · exact absurd ht' (by simpa using ht)

/-- The key tag of a sector once a write has opened one. -/
theorem State.openSector_keyTag (s : State) (key q pa mask) (k : Nat) :
    Tab.get 0 (s.openSector key q pa mask).keyTag k =
      if k = q ∧ touchesSector q pa mask = true then key else Tab.get 0 s.keyTag k := by
  unfold State.openSector
  split
  · next ht => rw [if_neg (by simp_all)]
  · next ht =>
    have ht' : touchesSector q pa mask = true := by simpa using ht
    refine (Tab.get_put ..).trans ?_
    simp only [ht', and_true]
    split
    · rfl
    · split <;> rfl

/-! ### The sectors of a range -/

/-- The sectors that n bytes at pa lie in, as the home goes through them; n may be 0. -/
def sectorsOf (pa n : Nat) : List Nat := (List.range ((pa + n + sectorSize - 1) / sectorSize - pa / sectorSize)).map (pa / sectorSize + ·)

theorem mem_sectorsOf (pa n q : Nat) : q ∈ sectorsOf pa n ↔ pa / sectorSize ≤ q ∧ q < (pa + n + sectorSize - 1) / sectorSize := by
  simp only [sectorsOf, List.mem_map, List.mem_range]
  exact ⟨fun ⟨i, hi, e⟩ => by omega, fun ⟨lo, hi⟩ => ⟨q - pa / sectorSize, by omega, by omega⟩⟩

/-- A write of all of n bytes touches the sectors that its bytes lie in. -/
theorem touchesSector_all (q pa n : Nat) :
    touchesSector q pa (List.replicate n true) = true ↔ ∃ b, pa ≤ b ∧ b < pa + n ∧ b / sectorSize = q := by
  have hmask (i : Nat) : (List.replicate n true).getD i false = true ↔ i < n := by
    rw [List.getD_eq_getElem?_getD, List.getElem?_replicate]
    split <;> simp_all
  simp only [touchesSector, List.any_eq_true, List.mem_range, Bool.and_eq_true, decide_eq_true_eq, hmask]
  constructor
  · rintro ⟨i, hi, hlo, hhi⟩
    exact ⟨q * sectorSize + i, hlo, by omega, by rw [Nat.mul_comm, Nat.mul_add_div (by decide), Nat.div_eq_of_lt hi, Nat.add_zero]⟩
  · rintro ⟨b, hlo, hhi, rfl⟩
    have hb := Nat.div_add_mod' b sectorSize
    exact ⟨b % sectorSize, Nat.mod_lt _ (by decide), by omega, by omega⟩

/-! ### Writing at the home -/

/-- What a write under a key slot does to the sectors of a list before its bytes land. -/
def State.openSectors (s : State) (part slot pa : Nat) (mask : List Bool) (l : List Nat) : State :=
  l.foldl (fun s q => s.openSector (s.sectorKey part slot q) q pa mask) s

theorem State.homeWrite_eq (s : State) (part slot pa bytes mask) :
    s.homeWrite part slot pa bytes mask =
      { s.openSectors part slot pa mask (sectorsOf pa bytes.length) with
        mem := memPut (s.openSectors part slot pa mask (sectorsOf pa bytes.length)).mem pa bytes mask } := by
  simp only [State.homeWrite, State.openSectors, sectorsOf, List.foldl_map]

/-- A state that has of s all but what a write at a home may change: memory, key tags, poison and the free values used up. -/
def HomeFrame (s u : State) : Prop := u = { s with mem := u.mem, keyTag := u.keyTag, poison := u.poison, fresh := u.fresh }

theorem HomeFrame.trans {s u v : State} (h : HomeFrame s u) (k : HomeFrame u v) : HomeFrame s v :=
  Eq.trans k (congrArg (fun w : State => { w with mem := v.mem, keyTag := v.keyTag, poison := v.poison, fresh := v.fresh }) h)

theorem State.openSectors_frame (s : State) (part slot pa mask l) : HomeFrame s (s.openSectors part slot pa mask l) := by
  induction l generalizing s with
  | nil => rfl
  | cons q l ih => exact HomeFrame.trans (State.openSector_rest ..) (ih _)

theorem State.homeWrite_frame (s : State) (part slot pa bytes mask) : HomeFrame s (s.homeWrite part slot pa bytes mask) := by
  rw [State.homeWrite_eq]
  exact HomeFrame.trans (State.openSectors_frame ..) rfl

theorem State.homePut_frame (s : State) (part slot pa bytes) : HomeFrame s (s.homePut part slot pa bytes) := State.homeWrite_frame ..

theorem HomeFrame.sectorKey {s u : State} (h : HomeFrame s u) (part slot q : Nat) : u.sectorKey part slot q = s.sectorKey part slot q := by
  rw [h]
  rfl

@[simp] theorem State.sectorKey_openSector (s : State) (key q pa mask) (part slot k : Nat) :
    (s.openSector key q pa mask).sectorKey part slot k = s.sectorKey part slot k :=
  HomeFrame.sectorKey (State.openSector_rest ..) ..

/-- The key tag of a sector once those of a list have been opened. -/
theorem State.openSectors_keyTag (s : State) (part slot pa mask l k) :
    Tab.get 0 (s.openSectors part slot pa mask l).keyTag k =
      if k ∈ l ∧ touchesSector k pa mask = true then s.sectorKey part slot k else Tab.get 0 s.keyTag k := by
  induction l generalizing s with
  | nil => simp [State.openSectors]
  | cons q l ih =>
    refine (ih _).trans ?_
    rw [State.openSector_keyTag, State.sectorKey_openSector]
    grind

/-- Opening sectors leaves a byte as it is where its own sector reads in plain form, or is not touched. -/
theorem State.openSectors_memByte (s : State) (part slot pa mask l) (a : Nat)
    (h : s.sectorPlain (s.sectorKey part slot (a / sectorSize)) (a / sectorSize) = true ∨ touchesSector (a / sectorSize) pa mask = false) :
    (s.openSectors part slot pa mask l).memByte a = s.memByte a := by
  induction l generalizing s with
  | nil => rfl
  | cons q l ih =>
    refine (ih _ ?_).trans ?_
    · simp only [State.sectorPlain, State.sectorKey_openSector, State.openSector_keyTag] at h ⊢
      grind
    · by_cases e : a / sectorSize = q
      · subst e
        exact State.openSector_memByte _ _ _ _ _ h a
      · exact State.openSector_memByte_ne _ _ _ _ _ e

/-! ### Writing all of some bytes, and reading them back -/

/-- After a write, a sector with a byte written stands under the write's key for it. -/
theorem State.homePut_keyTag (s : State) (part slot pa : Nat) (bytes : List Byte) {b : Nat} (hlo : pa ≤ b) (hhi : b < pa + bytes.length) :
    Tab.get 0 (s.homePut part slot pa bytes).keyTag (b / sectorSize) = s.sectorKey part slot (b / sectorSize) := by
  rw [State.homePut, State.homeWrite_eq]
  refine (State.openSectors_keyTag ..).trans (if_pos ⟨?_, (touchesSector_all ..).2 ⟨b, hlo, hhi, rfl⟩⟩)
  rw [mem_sectorsOf]
  exact ⟨Nat.div_le_div_right hlo, by unfold sectorSize; omega⟩

theorem State.homePut_memByte_ne (s : State) (part slot pa : Nat) (bytes : List Byte) {a : Nat} (ha : a < pa ∨ pa + bytes.length ≤ a)
    (h : s.sectorPlain (s.sectorKey part slot (a / sectorSize)) (a / sectorSize) = true ∨
      ∀ b, pa ≤ b → b < pa + bytes.length → b / sectorSize ≠ a / sectorSize) :
    (s.homePut part slot pa bytes).memByte a = s.memByte a := by
  rw [State.homePut, State.homeWrite_eq]
  refine (memPut_get ..).trans ((if_neg (by omega)).trans (State.openSectors_memByte _ _ _ _ _ _ _ (h.imp_right fun hb => ?_)))
  rw [Bool.eq_false_iff, ne_eq, touchesSector_all]
  rintro ⟨b, hlo, hhi, e⟩
  exact hb b hlo hhi e

theorem State.homePut_memByte (s : State) (part slot pa : Nat) (bytes : List Byte) {k : Nat} (hk : k < bytes.length) :
    (s.homePut part slot pa bytes).memByte (pa + k) = bytes.getD k 0 := memPut_all _ _ _ _ hk

/-- What has been written reads back under the same slot. -/
theorem State.homeRead_homePut (s : State) (part slot pa : Nat) {bytes : List Byte} (h : bytes ≠ []) :
    (s.homePut part slot pa bytes).homeRead part slot pa bytes.length = (s.homePut part slot pa bytes, bytes) := by
  have hlen := List.length_pos_iff.2 h
  rw [State.homeRead_plain]
  · congr 1
    refine List.ext_getElem (by simp) fun k _ hk => ?_
    simp [State.homePut_memByte _ _ _ _ _ hk, hk]
  · intro i hi
    -- The last byte of the range, or the first of the sector, is one written in it.
    obtain ⟨b, hlo, hhi, hb⟩ : ∃ b, pa ≤ b ∧ b < pa + bytes.length ∧ b / sectorSize = pa / sectorSize + i := by
      unfold sectorSize at *
      exact ⟨max pa ((pa / 64 + i) * 64), by omega, by omega, by omega⟩
    rw [← hb, State.sectorPlain, State.homePut_keyTag s part slot pa bytes hlo hhi, (State.homePut_frame ..).sectorKey]
    simp

/-! ### A sector under a key -/

theorem State.sectorUnder_plain (s : State) {key q : Nat} (fresh : Nat) (h : s.sectorPlain key q = true) :
    s.sectorUnder key q fresh = (List.range sectorSize).map fun i => s.memByte (q * sectorSize + i) := by
  simp [State.sectorUnder, h]

theorem State.sectorUnder_otherKey (s : State) {key q : Nat} (fresh : Nat) (h : s.sectorPlain key q = false) (hkey : key ≠ 0)
    (hlost : Tab.get 0 s.keyTag q ≠ lostTag) :
    s.sectorUnder key q fresh = xts true (key - 1) q (xts false (Tab.get 0 s.keyTag q - 1) q
      ((List.range sectorSize).map fun i => s.memByte (q * sectorSize + i))) := by
  simp [State.sectorUnder, h, hkey, hlost]

/-! ### What fetching a word leaves alone -/

/-- A state that has of s all but what a fetch may change: the walker's caches and the bytes counted of each core, the ports of each die, the requests
of the pool home and the lines they are for, and the free values used up; the bytes of pooled lines stay. -/
structure FetchFrame (s u : State) : Prop where
  rest : u = { s with cores := u.cores, fresh := u.fresh, pool := u.pool, freqs := u.freqs, nextTag := u.nextTag, dies := u.dies }
  core (c : CoreRef) : u.core c = { s.core c with tlb := (u.core c).tlb, walkc := (u.core c).walkc, bytes := (u.core c).bytes }
  die (d : Nat) : u.die d = { s.die d with ports := (u.die d).ports }
  pool (p l : Nat) : (u.poolLine p l).bytes = (s.poolLine p l).bytes

theorem FetchFrame.refl (s : State) : FetchFrame s s := ⟨rfl, fun _ => rfl, fun _ => rfl, fun _ _ => rfl⟩

theorem FetchFrame.trans {s u v : State} (h : FetchFrame s u) (k : FetchFrame u v) : FetchFrame s v where
  rest := k.rest.trans (congrArg (fun w : State =>
    { w with cores := v.cores, fresh := v.fresh, pool := v.pool, freqs := v.freqs, nextTag := v.nextTag, dies := v.dies }) h.rest)
  core c := (k.core c).trans (congrArg (fun w : Core =>
    { w with tlb := (v.core c).tlb, walkc := (v.core c).walkc, bytes := (v.core c).bytes }) (h.core c))
  die d := (k.die d).trans (congrArg (fun w : Die => { w with ports := (v.die d).ports }) (h.die d))
  pool p l := (k.pool p l).trans (h.pool p l)

/-- A fetch's frame keeps every byte of memory. -/
theorem FetchFrame.memByte {s u : State} (h : FetchFrame s u) (a : Nat) : u.memByte a = s.memByte a := by
  rw [h.rest]
  rfl

theorem FetchFrame.fresh (s : State) (n : Nat) : FetchFrame s { s with fresh := n } :=
  ⟨rfl, fun _ => rfl, fun _ => rfl, fun _ _ => rfl⟩

theorem FetchFrame.modCore (s : State) (c : CoreRef) (f : Core → Core)
    (hf : ∀ k, f k = { k with tlb := (f k).tlb, walkc := (f k).walkc, bytes := (f k).bytes }) : FetchFrame s (s.modCore c f) where
  rest := rfl
  die _ := rfl
  pool _ _ := rfl
  core d := by
    rw [State.modCore, State.core_setCore]
    split
    · next e => exact e ▸ hf _
    · rfl

theorem FetchFrame.modPool (s : State) (part line : Nat) (f : PoolLine → PoolLine) (hf : ∀ p, (f p).bytes = p.bytes) :
    FetchFrame s (s.modPool part line f) where
  rest := rfl
  core _ := rfl
  die _ := rfl
  pool p l := by
    show (Dict.getD (s.pool.set _ _) _ _).bytes = _
    rw [Dict.getD_set]
    split
    · next e => cases e; exact hf _
    · rfl

theorem getD_modNth {α : Type} (l : List α) (n m : Nat) (f : α → α) (d : α) :
    (modNth l n f).getD m d = if m = n ∧ n < l.length then f (l.getD m d) else l.getD m d := by
  induction l generalizing n m with
  | nil => simp [modNth]
  | cons a l ih => cases n <;> cases m <;> simp [modNth, ih, List.getD_cons_zero, List.getD_cons_succ, -List.getD_eq_getElem?_getD]

theorem FetchFrame.modDie (s : State) (n : Nat) (f : Die → Die) (hf : ∀ x, f x = { x with ports := (f x).ports }) :
    FetchFrame s (s.modDie n f) where
  rest := rfl
  core _ := rfl
  pool _ _ := rfl
  die d := by
    rw [State.modDie, State.die, State.die, getD_modNth]
    split
    · exact hf _
    · rfl

theorem FetchFrame.enqueue (s : State) (die port : Nat) (hdr load) : FetchFrame s (s.enqueue die port hdr load) :=
  .modDie _ _ _ fun _ => rfl

theorem State.homeRead_fetchFrame (s : State) (part slot pa n : Nat) : FetchFrame s (s.homeRead part slot pa n).1 := by
  rw [State.homeRead_rest]
  exact .fresh ..

theorem State.walkFrom_fetchFrame (s : State) (part tkey va lvl table : Nat) : FetchFrame s (s.walkFrom part tkey va lvl table).1 := by
  have hr (s : State) (pa : Nat) := s.homeRead_fetchFrame part tkey pa 8
  induction lvl generalizing s table with
  | zero =>
    unfold State.walkFrom
    dsimp only
    repeat' split
    · exact .refl _
    · exact .refl _
    all_goals exact hr ..
  | succ lvl ih =>
    unfold State.walkFrom
    dsimp only
    repeat' split
    · exact .refl _
    · exact .refl _
    · exact hr ..
    · exact hr ..
    · exact hr ..
    · exact hr ..
    · exact hr ..
    · exact hr ..
    · exact (hr ..).trans (ih ..)

theorem Core.cacheWalk_rest (c : Core) (ctx va : Nat) (w : WalkRes) :
    c.cacheWalk ctx va w =
      { c with tlb := (c.cacheWalk ctx va w).tlb, walkc := (c.cacheWalk ctx va w).walkc, bytes := (c.cacheWalk ctx va w).bytes } := by
  unfold Core.cacheWalk
  cases w.leaf <;> simp only

theorem State.findLeaf_fetchFrame (s : State) (x : CtxRef) (core va : Nat) : FetchFrame s (s.findLeaf x core va).1 := by
  unfold State.findLeaf
  dsimp only
  repeat' split
  · exact .refl _
  · exact .refl _
  · exact .refl _
  · exact .refl _
  · exact (State.walkFrom_fetchFrame ..).trans (.modCore _ _ _ fun k => Core.cacheWalk_rest ..)

theorem State.translate_fetchFrame (s : State) (x : CtxRef) (core va : Nat) (a : Acc) : FetchFrame s (s.translate x core va a).1 := by
  have h := s.findLeaf_fetchFrame x core va
  unfold State.translate
  dsimp only
  repeat' split
  all_goals exact h

theorem State.sendAs_fetchFrame (s : State) (x : CtxRef) (cls line off op load mop thrs) :
    FetchFrame s (s.sendAs x cls line off op load mop thrs).1 := by
  unfold State.sendAs
  dsimp only
  split
  · exact .refl _
  · split
    · exact (FetchFrame.enqueue ..).trans ⟨rfl, fun _ => rfl, fun _ => rfl, fun _ _ => rfl⟩
    · exact .refl _

theorem State.readPool_fetchFrame (s : State) (x : CtxRef) (line mop) : FetchFrame s (s.readPool x line mop).1 := by
  have h : FetchFrame s (s.sendRequest x line opRD [] mop []).1 := State.sendAs_fetchFrame ..
  unfold State.readPool
  dsimp only
  repeat' split
  · exact .refl _
  · exact h
  · refine h.trans ?_
    dsimp only
    exact .modPool _ _ _ _ fun _ => rfl

theorem State.askPool_fetchFrame (s : State) (x : CtxRef) (loc : Place) (n : Nat) : FetchFrame s (s.askPool x loc n) := by
  have one (s : State) (pa n k q : Nat) :
      FetchFrame s (if s.homeReady x.part (.mem pa k q true) n then s else (s.readPool x (pa / lineSize) none).1) := by
    split
    · exact .refl _
    · exact State.readPool_fetchFrame ..
  unfold State.askPool
  split
  · exact (one ..).trans (one ..)
  · exact .refl _

theorem State.homeHolds_fetchFrame (s : State) (part : Nat) (loc : Place) (n : Nat) : FetchFrame s (s.homeHolds part loc n).1 := by
  unfold State.homeHolds
  split
  · exact .refl _
  · exact State.homeRead_fetchFrame ..
  · exact .refl _

theorem State.fetchPart_fetchFrame (s : State) (k : KRef) (core va n : Nat) : FetchFrame s (s.fetchPart k core va n).1 := by
  have h := s.translate_fetchFrame { part := k.part, ctx := k.ctx } core va .fetch
  unfold State.fetchPart
  dsimp only
  repeat' split
  · exact .refl _
  · exact h
  · exact h
  · exact h
  · exact h.trans (State.askPool_fetchFrame ..)
  · refine h.trans (.trans (.trans (.modCore _ _ _ ?_) (.fresh ..)) (State.homeHolds_fetchFrame ..))
    exact fun _ => rfl

theorem State.pickWord_fetchFrame (s : State) (l : List CodeByte) : FetchFrame s (s.pickWord l).1 := by
  unfold State.pickWord
  repeat' split
  · exact .refl _
  · exact .fresh ..
  · exact .fresh ..
  · exact .refl _

theorem State.fetchWord_fetchFrame (s : State) (t : TRef) (va : Nat) : FetchFrame s (s.fetchWord t va).1 := by
  have h := s.fetchPart_fetchFrame (s.ownKernel t) t.core va (firstPart va)
  unfold State.fetchWord
  dsimp only
  repeat' split
  · exact h
  · exact h.trans (State.pickWord_fetchFrame ..)
  · exact h.trans (State.fetchPart_fetchFrame ..)
  · exact h.trans ((State.fetchPart_fetchFrame ..).trans (State.pickWord_fetchFrame ..))

/-- Settles O8: a write opens each sector it touches under its key before its bytes land, and a fetch's parts each keep the frame of a fetch. -/
theorem homeMemory : Obligations.HomeMemory := by
  unfold Obligations.HomeMemory
  refine ⟨fun s part slot pa bytes => ?_, fun s key q fresh => ?_, fun s part slot q => rfl, fun s t va => ?_⟩
  · refine ⟨fun k hk => s.homePut_memByte part slot pa bytes hk, fun a ha hp => s.homePut_memByte_ne part slot pa bytes ha (.inl hp),
      fun a ha => ?_, fun hb => s.homeRead_homePut part slot pa hb, s.homePut_wf part slot pa bytes, s.homePut_frame part slot pa bytes⟩
    exact s.homePut_memByte_ne part slot pa bytes (Decidable.byContradiction fun hin => ha a (by omega) (by omega) rfl) (.inr ha)
  · refine ⟨fun ht => s.sectorUnder_plain fresh (by simpa [State.sectorPlain] using ht), fun h0 hk hkey hlost => ?_⟩
    exact s.sectorUnder_otherKey fresh (by simp [State.sectorPlain, h0, hk]) hkey hlost
  · obtain ⟨hrest, hcore, hdie, hpool⟩ := s.fetchWord_fetchFrame t va
    exact ⟨(s.fetchWord_fetchFrame t va).memByte, hpool, hcore, hdie, hrest⟩

end Sys2Proof.Machine

namespace Sys2Proof.Machine
open Sys2Proof

/-! ### The package after cold reset (O1) -/

theorem getD_replicate_self {α : Type} (d : α) (r n : Nat) : (List.replicate r d).getD n d = d := by
  rw [List.getD_eq_getElem?_getD, List.getElem?_replicate]
  split <;> rfl

@[simp] theorem State.reset_die (d : Nat) : State.reset.die d = Die.reset := getD_replicate_self ..

@[simp] theorem State.reset_part (p : Nat) : State.reset.part p = Part.reset := getD_replicate_self ..

@[simp] theorem State.reset_queue (q : QRef) : State.reset.queue q = Queue.reset := by
  rw [State.queue, State.reset_part]
  exact getD_replicate_self ..

@[simp] theorem State.reset_link (l : LinkRef) : State.reset.link l = Link.reset := by
  cases l with
  | port d p =>
    rw [State.link, State.reset_die]
    exact getD_replicate_self ..
  | d2d n => exact getD_replicate_self ..

@[simp] theorem State.reset_core (c : CoreRef) : State.reset.core c = Core.reset := rfl

/-- Settles O1: every table of the package at reset is empty or repeats one record, whose fields are read off. -/
theorem resetState : Obligations.ResetState := by
  have zero {n : Nat} : ∀ w ∈ List.replicate n (0 : Word), w = 0 := fun _ => List.eq_of_mem_replicate
  have zero' {n : Nat} : ∀ w ∈ List.replicate n (0 : DWord), w = 0 := fun _ => List.eq_of_mem_replicate
  refine ⟨reset_mem_wf, fun _ => rfl, rfl, rfl, rfl, rfl, rfl, rfl, fun d _ => ?_, fun p _ => ?_, fun l => ?_, fun c => ?_, fun _ => rfl,
    fun _ => rfl, fun _ => rfl⟩
  · rw [State.reset_die]
    exact ⟨rfl, zero, zero⟩
  · simp only [State.reset_part, State.reset_queue]
    exact ⟨rfl, rfl, zero', rfl, fun _ _ => ⟨rfl, rfl⟩⟩
  · rw [State.reset_link]
    exact ⟨rfl, rfl, rfl⟩
  · rw [State.reset_core]
    exact ⟨rfl, rfl, rfl, fun n hn => ⟨Slice.reset, List.getElem?_replicate_of_lt hn, rfl, rfl, rfl⟩⟩

end Sys2Proof.Machine

namespace Sys2Proof.Machine
open Sys2Proof

/-! ## Special float operands, and the rounding modes (O13)

The statement speaks of codes: `isNan`, the magnitude of infinity, a magnitude of zero once subnormals have been flushed. The operations match on the
decoded operand (`FFmt.read`). What a code decodes to is said once, for any format with an exponent field; each operation then has an equation per
shape of its operands. -/

/-! ### Codes -/

section Codes

variable {f : FFmt}

theorem FFmt.two_pow_fb_le_infCode (hf : 0 < f.eb) : 2 ^ f.fb ≤ f.infCode := by
  have h2 : 1 < 2 ^ f.eb := Nat.one_lt_two_pow (by omega)
  exact Nat.le_mul_of_pos_left _ (by omega)

theorem FFmt.infCode_pos (hf : 0 < f.eb) : 0 < f.infCode :=
  Nat.lt_of_lt_of_le (Nat.two_pow_pos f.fb) (FFmt.two_pow_fb_le_infCode hf)

@[simp] theorem FFmt.mag_signBit (s : Bool) : f.mag (f.signBit s) = 0 := by
  cases s <;> simp [FFmt.mag, FFmt.signBit]

@[simp] theorem FFmt.neg_signBit (s : Bool) : f.neg (f.signBit s) = s := by
  cases s with
  | false => simp [FFmt.neg, FFmt.signBit]
  | true => simp [FFmt.neg, FFmt.signBit, Nat.div_self (Nat.two_pow_pos (f.eb + f.fb))]

/-- Flushing changes a code to the zero of its sign, or not at all; it changes nothing from infinity up. -/
theorem FFmt.flush_cases (hf : 0 < f.eb) (z : Bool) (w : Nat) :
    f.flush z w = w ∨ f.mag w < f.infCode ∧ f.flush z w = f.signBit (f.neg w) := by
  unfold FFmt.flush
  split
  · next h =>
    have hsub : f.mag w / 2 ^ f.fb = 0 := by
      simp only [FFmt.isSub, FFmt.expo, Bool.and_eq_true, beq_iff_eq] at h
      obtain ⟨-, hexpo, -⟩ := h
      exact hexpo
    have hlt : f.mag w < 2 ^ f.fb := (Nat.div_eq_zero_iff_lt (Nat.two_pow_pos f.fb)).1 hsub
    exact .inr ⟨Nat.lt_of_lt_of_le hlt (FFmt.two_pow_fb_le_infCode hf), rfl⟩
  · exact .inl rfl

theorem FFmt.neg_flush (hf : 0 < f.eb) (z : Bool) (w : Nat) : f.neg (f.flush z w) = f.neg w := by
  obtain h | ⟨-, h⟩ := f.flush_cases hf z w <;> simp [h]

theorem FFmt.isNan_flush (hf : 0 < f.eb) (z : Bool) (w : Nat) : f.isNan (f.flush z w) = f.isNan w := by
  obtain h | ⟨hlt, h⟩ := f.flush_cases hf z w
  · rw [h]
  · simp [FFmt.isNan, h, Nat.le_of_lt hlt]

theorem FFmt.isSnan_flush (hf : 0 < f.eb) (z : Bool) (w : Nat) : f.isSnan (f.flush z w) = f.isSnan w := by
  obtain h | ⟨hlt, h⟩ := f.flush_cases hf z w
  · rw [h]
  · simp [FFmt.isSnan, FFmt.isNan, h, Nat.not_lt_of_gt hlt]

theorem FFmt.mag_flush_eq_infCode (hf : 0 < f.eb) (z : Bool) (w : Nat) : f.mag (f.flush z w) = f.infCode ↔ f.mag w = f.infCode := by
  obtain h | ⟨hlt, h⟩ := f.flush_cases hf z w
  · rw [h]
  · have hpos := FFmt.infCode_pos hf
    rw [h, FFmt.mag_signBit]
    omega

theorem FFmt.isSnan_of_not_isNan {w : Nat} (h : f.isNan w = false) : f.isSnan w = false := by simp [FFmt.isSnan, h]

end Codes

/-! ### What a code decodes to -/

/-- The sign of a decoded operand; a NaN keeps none. -/
def FVal.sign : FVal → Bool
  | .nan _ => false
  | .inf s => s
  | .fin s _ _ => s

theorem FVal.eq_nan {x : FVal} (h : x.isNan = true) : x = .nan x.isSnan := by
  cases x <;> simp_all [FVal.isNan, FVal.isSnan]

theorem FVal.eq_inf {x : FVal} (h : x.isInf = true) : x = .inf x.sign := by
  cases x <;> simp_all [FVal.isInf, FVal.sign]

theorem FVal.eq_fin {x : FVal} (hn : x.isNan = false) (hi : x.isInf = false) : ∃ m e, x = .fin x.sign m e ∧ x.isZero = (m == 0) := by
  cases x <;> simp_all [FVal.isNan, FVal.isInf, FVal.sign, FVal.isZero]

theorem FVal.eq_zero {x : FVal} (h : x.isZero = true) : ∃ e, x = .fin x.sign 0 e := by
  cases x <;> simp_all [FVal.isZero, FVal.sign]

section Decoding

variable {f : FFmt}

theorem FFmt.mag_eq (w : Nat) : f.mag w = 2 ^ f.fb * f.expo w + f.frac w := by
  have h := Nat.div_add_mod (f.mag w) (2 ^ f.fb)
  have hfrac : f.mag w % 2 ^ f.fb = f.frac w := Nat.mod_mod_of_dvd _ (Nat.pow_dvd_pow 2 (Nat.le_add_left ..))
  rw [hfrac] at h
  exact h.symm

theorem FFmt.val_fin {w : Nat} (hn : f.isNan w = false) (hi : f.mag w ≠ f.infCode) :
    ∃ m e, f.val w = .fin (f.neg w) m e ∧ (m = 0 ↔ f.mag w = 0) := by
  have hfb := Nat.two_pow_pos f.fb
  have hmag := f.mag_eq w
  unfold FFmt.val
  rw [hn, if_neg Bool.false_ne_true, if_neg hi]
  split
  · next he =>
    rw [he, Nat.mul_zero, Nat.zero_add] at hmag
    exact ⟨_, _, rfl, by rw [hmag]⟩
  · next he =>
    have hpos : 0 < 2 ^ f.fb * f.expo w := Nat.mul_pos hfb (Nat.pos_of_ne_zero he)
    exact ⟨_, _, rfl, by omega⟩

/-- A code is a NaN, an infinity or a finite value. -/
theorem FFmt.val_cases (w : Nat) :
    f.isNan w = true ∧ f.infCode < f.mag w ∧ f.val w = .nan (f.isSnan w) ∨
    f.isNan w = false ∧ f.mag w = f.infCode ∧ f.val w = .inf (f.neg w) ∨
    f.isNan w = false ∧ f.mag w ≠ f.infCode ∧ ∃ m e, f.val w = .fin (f.neg w) m e ∧ (m = 0 ↔ f.mag w = 0) := by
  cases hn : f.isNan w with
  | true => exact .inl ⟨rfl, of_decide_eq_true hn, if_pos hn⟩
  | false =>
    by_cases hi : f.mag w = f.infCode
    · refine .inr (.inl ⟨rfl, hi, ?_⟩)
      rw [FFmt.val, hn, if_neg Bool.false_ne_true, if_pos hi]
    · exact .inr (.inr ⟨rfl, hi, FFmt.val_fin hn hi⟩)

theorem FFmt.val_isNan (w : Nat) : (f.val w).isNan = f.isNan w := by
  obtain ⟨hn, -, h⟩ | ⟨hn, -, h⟩ | ⟨hn, -, m, e, h, -⟩ := f.val_cases w
  all_goals
    rw [h, hn]
    rfl

theorem FFmt.val_isSnan (w : Nat) : (f.val w).isSnan = f.isSnan w := by
  obtain ⟨-, -, h⟩ | ⟨hn, -, h⟩ | ⟨hn, -, m, e, h, -⟩ := f.val_cases w
  · rw [h]
    rfl
  · rw [h, FFmt.isSnan_of_not_isNan hn]
    rfl
  · rw [h, FFmt.isSnan_of_not_isNan hn]
    rfl

theorem FFmt.val_isInf (w : Nat) : (f.val w).isInf = decide (f.mag w = f.infCode) := by
  obtain ⟨-, hlt, h⟩ | ⟨-, hi, h⟩ | ⟨-, hi, m, e, h, -⟩ := f.val_cases w
  · rw [h, decide_eq_false (Nat.ne_of_gt hlt)]
    rfl
  · rw [h, decide_eq_true hi]
    rfl
  · rw [h, decide_eq_false hi]
    rfl

theorem FFmt.val_isZero (hf : 0 < f.eb) (w : Nat) : (f.val w).isZero = decide (f.mag w = 0) := by
  have hpos := FFmt.infCode_pos hf
  obtain ⟨-, hlt, h⟩ | ⟨-, hi, h⟩ | ⟨-, -, m, e, h, hm⟩ := f.val_cases w
  · rw [h, decide_eq_false (by omega)]
    rfl
  · rw [h, decide_eq_false (by omega)]
    rfl
  · rw [h, ← decide_eq_decide.2 hm]
    rfl

theorem FFmt.val_sign {w : Nat} (hn : f.isNan w = false) : (f.val w).sign = f.neg w := by
  obtain ⟨hn', -, -⟩ | ⟨-, -, h⟩ | ⟨-, -, m, e, h, -⟩ := f.val_cases w
  · rw [hn] at hn'
    cases hn'
  · rw [h]
    rfl
  · rw [h]
    rfl

variable (hf : 0 < f.eb) (z : Bool) (w : Nat)
include hf

theorem FFmt.read_isNan : (f.read z w).isNan = f.isNan w := by
  rw [FFmt.read, FFmt.val_isNan, FFmt.isNan_flush hf]

theorem FFmt.read_isSnan : (f.read z w).isSnan = f.isSnan w := by
  rw [FFmt.read, FFmt.val_isSnan, FFmt.isSnan_flush hf]

theorem FFmt.read_isInf : (f.read z w).isInf = decide (f.mag w = f.infCode) := by
  rw [FFmt.read, FFmt.val_isInf]
  exact decide_eq_decide.2 (FFmt.mag_flush_eq_infCode hf z w)

theorem FFmt.read_isZero : (f.read z w).isZero = decide (f.mag (f.flush z w) = 0) := FFmt.val_isZero hf _

theorem FFmt.read_sign (h : f.isNan w = false) : (f.read z w).sign = f.neg w := by
  rw [FFmt.read, FFmt.val_sign (by rwa [FFmt.isNan_flush hf]), FFmt.neg_flush hf]

variable {w}

theorem FFmt.read_nan (h : f.isNan w = true) : f.read z w = .nan (f.isSnan w) := by
  rw [FVal.eq_nan (x := f.read z w) (by rwa [FFmt.read_isNan hf]), FFmt.read_isSnan hf]

theorem FFmt.read_inf (h : f.mag w = f.infCode) : f.read z w = .inf (f.neg w) := by
  rw [FVal.eq_inf (x := f.read z w) (by simpa [FFmt.read_isInf hf] using h), FFmt.read_sign hf]
  simp [FFmt.isNan, h]

theorem FFmt.read_zero (hn : f.isNan w = false) (h : f.mag (f.flush z w) = 0) : ∃ e, f.read z w = .fin (f.neg w) 0 e := by
  rw [← FFmt.read_sign hf z _ hn]
  exact FVal.eq_zero (by simpa [FFmt.read_isZero hf] using h)

theorem FFmt.read_fin (hn : f.isNan w = false) (hi : f.mag w ≠ f.infCode) :
    ∃ m e, f.read z w = .fin (f.neg w) m e ∧ (m = 0 ↔ f.mag (f.flush z w) = 0) := by
  obtain ⟨m, e, hval, hzero⟩ := FVal.eq_fin (x := f.read z w) (by rwa [FFmt.read_isNan hf]) (by simpa [FFmt.read_isInf hf] using hi)
  refine ⟨m, e, by rwa [FFmt.read_sign hf z _ hn] at hval, ?_⟩
  rw [FFmt.read_isZero hf] at hzero
  simpa using (congrArg (· = true) hzero).symm

end Decoding

/-! ### One operation on one or two operands -/

section Operations

variable {f : FFmt} {rm : Rm} {z : Bool} {a b : Nat}

theorem faddV_of_nan {x y : FVal} (h : (x.isNan || y.isNan) = true) : faddV f rm z x y = f.nanRes (x.isSnan || y.isSnan) := if_pos h

theorem faddV_inf_inf (s t : Bool) (h : s ≠ t) : faddV f rm z (.inf s) (.inf t) = f.nanRes true := by
  simp [faddV, FVal.isNan, h]

@[simp] theorem FVal.negate_isNan (x : FVal) : x.negate.isNan = x.isNan := by cases x <;> rfl

@[simp] theorem FVal.negate_isSnan (x : FVal) : x.negate.isSnan = x.isSnan := by cases x <;> rfl

theorem fmul_of_nan (h : ((f.read z a).isNan || (f.read z b).isNan) = true) :
    fmul f rm z a b = f.nanRes ((f.read z a).isSnan || (f.read z b).isSnan) := if_pos h

/-- 0 × ∞ and ∞ × 0. -/
theorem fmul_inf_zero {s t : Bool} {e : Int}
    (h : f.read z a = .inf s ∧ f.read z b = .fin t 0 e ∨ f.read z a = .fin t 0 e ∧ f.read z b = .inf s) :
    fmul f rm z a b = f.nanRes true := by
  obtain ⟨ha, hb⟩ | ⟨ha, hb⟩ := h <;> simp [fmul, ha, hb, FVal.isNan]

theorem fdiv_of_nan (h : ((f.read z a).isNan || (f.read z b).isNan) = true) :
    fdiv f rm z a b = f.nanRes ((f.read z a).isSnan || (f.read z b).isSnan) := if_pos h

theorem fdiv_inf_inf {s t : Bool} (ha : f.read z a = .inf s) (hb : f.read z b = .inf t) : fdiv f rm z a b = f.nanRes true := by
  simp [fdiv, ha, hb, FVal.isNan]

theorem fdiv_inf_fin {s t : Bool} {n : Nat} {e : Int} (ha : f.read z a = .inf s) (hb : f.read z b = .fin t n e) :
    fdiv f rm z a b = f.infRes (s != t) 0 := by
  simp [fdiv, ha, hb, FVal.isNan]

theorem fdiv_fin_inf {s t : Bool} {m : Nat} {e : Int} (ha : f.read z a = .fin s m e) (hb : f.read z b = .inf t) :
    fdiv f rm z a b = f.zeroRes (s != t) := by
  simp [fdiv, ha, hb, FVal.isNan]

theorem fdiv_fin_zero {s t : Bool} {m : Nat} {e g : Int} (ha : f.read z a = .fin s m e) (hb : f.read z b = .fin t 0 g) :
    fdiv f rm z a b = if m = 0 then f.nanRes true else f.infRes (s != t) fDZ := by
  simp [fdiv, ha, hb, FVal.isNan]

theorem fsqrt_of_nan {s : Bool} (ha : f.read z a = .nan s) : fsqrt f rm z a = f.nanRes s := by simp [fsqrt, ha]

theorem fsqrt_negInf (ha : f.read z a = .inf true) : fsqrt f rm z a = f.nanRes true := by simp [fsqrt, ha]

theorem fsqrt_zero {s : Bool} {e : Int} (ha : f.read z a = .fin s 0 e) : fsqrt f rm z a = f.zeroRes s := by simp [fsqrt, ha]

theorem fsqrt_neg {m : Nat} {e : Int} (ha : f.read z a = .fin true m e) (hm : m ≠ 0) : fsqrt f rm z a = f.nanRes true := by
  simp [fsqrt, ha, hm]

theorem frnd_of_nan {s : Bool} (ha : f.read z a = .nan s) : frnd f rm z a = f.nanRes s := by
  have hval : f.val (f.flush z a) = .nan s := ha
  simp [frnd, hval]

theorem fscale_of_nan {s : Bool} {n : Int} (ha : f.read z a = .nan s) : fscale f rm z a n = f.nanRes s := by simp [fscale, ha]

theorem fminmax_nan_left (hf : 0 < f.eb) (k : Bool) (ha : f.isNan a = true) (hb : f.isNan b = false) :
    fminmax f k z a b = ⟨f.flush z b, flagIf (f.isSnan a) fNV⟩ := by
  simp [fminmax, FFmt.isNan_flush hf, FFmt.isSnan_flush hf, ha, hb, FFmt.isSnan_of_not_isNan hb]

theorem fminmax_nan_right (hf : 0 < f.eb) (k : Bool) (ha : f.isNan a = false) (hb : f.isNan b = true) :
    fminmax f k z a b = ⟨f.flush z a, flagIf (f.isSnan b) fNV⟩ := by
  simp [fminmax, FFmt.isNan_flush hf, FFmt.isSnan_flush hf, ha, hb, FFmt.isSnan_of_not_isNan ha]

theorem fminmax_nan_both (hf : 0 < f.eb) (k : Bool) (ha : f.isNan a = true) (hb : f.isNan b = true) :
    fminmax f k z a b = f.nanRes (f.isSnan a || f.isSnan b) := by
  simp [fminmax, FFmt.isNan_flush hf, FFmt.isSnan_flush hf, ha, hb, FFmt.nanRes]

end Operations

/-! ### Sums of products (log 87) -/

section Products

/-- The addend as a term beside the products. -/
def FVal.term : FVal → FProd
  | .nan _ => .nan
  | .inf s => .inf s
  | .fin s m e => .fin s m e

theorem fmaSum_eq (f : FFmt) (rm : Rm) (z : Bool) (ps : List FProd) (c : FVal) (sn : Bool) :
    fmaSum f rm z ps c sn =
      let terms := ps ++ [c.term]
      if ps.contains .invalid || terms.contains .nan then f.nanRes (ps.contains .invalid || sn)
      else if terms.contains (.inf true) then (if terms.contains (.inf false) then f.nanRes true else f.infRes true 0)
      else if terms.contains (.inf false) then f.infRes false 0
      else f.sum rm z (terms.filterMap fun t => match t with | .fin s m e => some (s, m, e) | _ => none) := rfl

variable {f : FFmt} {rm : Rm} {z sn : Bool} {ps : List FProd} {c : FVal}

theorem fmaSum_of_nan (h : FProd.invalid ∈ ps ∨ FProd.nan ∈ ps ++ [c.term]) :
    fmaSum f rm z ps c sn = f.nanRes (ps.contains .invalid || sn) := by
  rw [fmaSum_eq]
  exact if_pos (by simpa only [Bool.or_eq_true, List.contains_iff_mem] using h)

theorem fmaSum_opposite (hbad : FProd.invalid ∉ ps) (hnan : FProd.nan ∉ ps ++ [c.term])
    (hpos : FProd.inf false ∈ ps ++ [c.term]) (hneg : FProd.inf true ∈ ps ++ [c.term]) :
    fmaSum f rm z ps c sn = f.nanRes true := by
  simp only [← List.contains_iff_mem, Bool.not_eq_true] at hbad hnan hpos hneg
  simp only [fmaSum_eq, hbad, hnan, hpos, hneg, Bool.or_false, Bool.false_eq_true, if_false, if_true]

theorem FVal.term_eq_nan (c : FVal) : c.term = .nan ↔ c.isNan = true := by cases c <;> simp [FVal.term, FVal.isNan]

theorem FVal.term_inf {c : FVal} (h : c.isInf = true) : c.term = .inf c.sign := by rw [FVal.eq_inf h]; rfl

/-- 0 × ∞ or ∞ × 0. -/
def FVal.invalidTimes (x y : FVal) : Bool := x.isInf && y.isZero || x.isZero && y.isInf

theorem fprod_eq_nan (x y : FVal) : fprod x y = .nan ↔ (x.isNan || y.isNan) = true := by
  cases x <;> cases y <;> simp [fprod, FVal.isNan] <;> split <;> simp

theorem fprod_eq_invalid (x y : FVal) : fprod x y = .invalid ↔ x.invalidTimes y = true := by
  cases x <;> cases y <;> simp [fprod, FVal.invalidTimes, FVal.isInf, FVal.isZero]

theorem fprod_eq_inf {x y : FVal} (hn : (x.isNan || y.isNan) = false) (hbad : x.invalidTimes y = false) (hi : (x.isInf || y.isInf) = true) :
    fprod x y = .inf (x.sign != y.sign) := by
  cases x <;> cases y <;> simp_all [fprod, FVal.invalidTimes, FVal.isInf, FVal.isZero, FVal.isNan, FVal.sign]

/-- The products of pairs of operands. -/
def fprods (l : List (FVal × FVal)) : List FProd := l.map fun p => fprod p.1 p.2

/-- The signs of the infinities among the products of pairs of operands and an addend. -/
def infSigns (l : List (FVal × FVal)) (c : FVal) : List Bool :=
  ((l.filter fun p => p.1.isInf || p.2.isInf).map fun p => p.1.sign != p.2.sign) ++ if c.isInf then [c.sign] else []

variable {l : List (FVal × FVal)}

theorem invalid_mem_fprods : FProd.invalid ∈ fprods l ↔ (l.any fun p => p.1.invalidTimes p.2) = true := by
  simp only [fprods, List.mem_map, fprod_eq_invalid, List.any_eq_true]

theorem nan_mem_terms : FProd.nan ∈ fprods l ++ [c.term] ↔ ((l.any fun p => p.1.isNan || p.2.isNan) || c.isNan) = true := by
  rw [List.mem_append, List.mem_singleton, eq_comm (a := FProd.nan), FVal.term_eq_nan, Bool.or_eq_true]
  simp only [fprods, List.mem_map, fprod_eq_nan, List.any_eq_true]

theorem fmaSum_fprods_of_nan (h : ((l.any fun p => p.1.isNan || p.2.isNan) || c.isNan) = true) :
    fmaSum f rm z (fprods l) c sn = f.nanRes ((l.any fun p => p.1.invalidTimes p.2) || sn) := by
  have hbad : (fprods l).contains .invalid = l.any fun p => p.1.invalidTimes p.2 := by
    rw [Bool.eq_iff_iff, List.contains_iff_mem, invalid_mem_fprods]
  rw [fmaSum_of_nan (.inr (nan_mem_terms.2 h)), hbad]

theorem fmaSum_fprods_invalid (h : (l.any fun p => p.1.invalidTimes p.2) = true) : fmaSum f rm z (fprods l) c sn = f.nanRes true := by
  have hbad := invalid_mem_fprods.2 h
  rw [fmaSum_of_nan (.inl hbad), List.contains_iff_mem.2 hbad, Bool.true_or]

theorem inf_mem_terms (hnan : ((l.any fun p => p.1.isNan || p.2.isNan) || c.isNan) = false)
    (hbad : (l.any fun p => p.1.invalidTimes p.2) = false) {s : Bool} (h : s ∈ infSigns l c) : FProd.inf s ∈ fprods l ++ [c.term] := by
  rw [Bool.or_eq_false_iff, List.any_eq_false] at hnan
  rw [List.any_eq_false] at hbad
  rw [infSigns, List.mem_append, List.mem_map] at h
  obtain ⟨p, hp, rfl⟩ | hc := h
  · obtain ⟨hp, hinf⟩ := List.mem_filter.1 hp
    have hprod := fprod_eq_inf (by simpa using hnan.1 p hp) (by simpa using hbad p hp) hinf
    exact List.mem_append_left _ (hprod ▸ List.mem_map_of_mem hp)
  · split at hc
    · next hinf =>
      rw [List.mem_singleton.1 hc, ← FVal.term_inf hinf]
      exact List.mem_append_right _ (List.mem_singleton_self _)
    · cases hc

theorem fmaSum_fprods_opposite (hnan : ((l.any fun p => p.1.isNan || p.2.isNan) || c.isNan) = false)
    (hbad : (l.any fun p => p.1.invalidTimes p.2) = false) (hneg : true ∈ infSigns l c) (hpos : false ∈ infSigns l c) :
    fmaSum f rm z (fprods l) c sn = f.nanRes true := by
  have hnan' := mt nan_mem_terms.1 (Bool.eq_false_iff.1 hnan)
  have hbad' := mt invalid_mem_fprods.1 (Bool.eq_false_iff.1 hbad)
  exact fmaSum_opposite hbad' hnan' (inf_mem_terms hnan hbad hpos) (inf_mem_terms hnan hbad hneg)

theorem ffma_eq (a b c : Nat) :
    ffma f rm z a b c = fmaSum f rm z (fprods [(f.read z a, f.read z b)]) (f.read z c)
      ((f.read z a).isSnan || (f.read z b).isSnan || (f.read z c).isSnan) := rfl

theorem ffma_invalid {a b c : Nat} (h : (f.read z a).invalidTimes (f.read z b) = true) : ffma f rm z a b c = f.nanRes true := by
  rw [ffma_eq, fmaSum_fprods_invalid (by simpa using h)]

/-- The packed elements of an operand of FDOT2. -/
def dotElem (w i : Nat) : Nat := w / 2 ^ (16 * i) % 2 ^ 16

/-- The pairs that FDOT2 multiplies. -/
def dotPairs (z : Bool) (a b : Nat) : List (FVal × FVal) := [0, 1].map fun i => (bf16.read z (dotElem a i), bf16.read z (dotElem b i))

theorem fdot2_eq (a b c : Nat) :
    fdot2 rm z a b c = fmaSum f32 rm z (fprods (dotPairs z a b)) (f32.read z c)
      ([dotElem a 0, dotElem a 1, dotElem b 0, dotElem b 1].any (fun w => (bf16.read z w).isSnan) || (f32.read z c).isSnan) := by
  have h0 (w : Nat) : half0 w = dotElem w 0 := by simp [half0, dotElem]
  have h1 (w : Nat) : half1 w = dotElem w 1 := rfl
  simp [fdot2, fprods, dotPairs, h0, h1, Bool.or_assoc]

end Products

/-! ### Special operands by their codes -/

section Cases

variable {f : FFmt} (hf : 0 < f.eb) (rm : Rm) (z : Bool) {a b : Nat}
include hf

/-- R54: a NaN operand of a row of two operands. -/
theorem binary_of_nan (h : (f.isNan a || f.isNan b) = true) :
    fadd f rm z a b = f.nanRes (f.isSnan a || f.isSnan b) ∧ fsub f rm z a b = f.nanRes (f.isSnan a || f.isSnan b) ∧
    fmul f rm z a b = f.nanRes (f.isSnan a || f.isSnan b) ∧ fdiv f rm z a b = f.nanRes (f.isSnan a || f.isSnan b) := by
  have hread : ((f.read z a).isNan || (f.read z b).isNan) = true := by rwa [FFmt.read_isNan hf, FFmt.read_isNan hf]
  rw [← FFmt.read_isSnan hf z a, ← FFmt.read_isSnan hf z b]
  refine ⟨faddV_of_nan hread, ?_, fmul_of_nan hread, fdiv_of_nan hread⟩
  rw [← FVal.negate_isSnan (f.read z b)]
  exact faddV_of_nan (by rwa [FVal.negate_isNan])

theorem fadd_opposite (ha : f.mag a = f.infCode) (hb : f.mag b = f.infCode) (hs : f.neg a ≠ f.neg b) : fadd f rm z a b = f.nanRes true := by
  rw [fadd, FFmt.read_inf hf z ha, FFmt.read_inf hf z hb]
  exact faddV_inf_inf _ _ hs

theorem fsub_alike (ha : f.mag a = f.infCode) (hb : f.mag b = f.infCode) (hs : f.neg a = f.neg b) : fsub f rm z a b = f.nanRes true := by
  rw [fsub, FFmt.read_inf hf z ha, FFmt.read_inf hf z hb]
  exact faddV_inf_inf _ _ (by simp [hs])

theorem fmul_invalid (hna : f.isNan a = false) (hnb : f.isNan b = false)
    (h : f.mag a = f.infCode ∧ f.mag (f.flush z b) = 0 ∨ f.mag (f.flush z a) = 0 ∧ f.mag b = f.infCode) :
    fmul f rm z a b = f.nanRes true := by
  obtain ⟨ha, hb⟩ | ⟨ha, hb⟩ := h
  · obtain ⟨e, hb⟩ := FFmt.read_zero hf z hnb hb
    exact fmul_inf_zero (.inl ⟨FFmt.read_inf hf z ha, hb⟩)
  · obtain ⟨e, ha⟩ := FFmt.read_zero hf z hna ha
    exact fmul_inf_zero (.inr ⟨ha, FFmt.read_inf hf z hb⟩)

theorem fdiv_invalid (hna : f.isNan a = false) (hnb : f.isNan b = false)
    (h : f.mag a = f.infCode ∧ f.mag b = f.infCode ∨ f.mag (f.flush z a) = 0 ∧ f.mag (f.flush z b) = 0) :
    fdiv f rm z a b = f.nanRes true := by
  obtain ⟨ha, hb⟩ | ⟨ha, hb⟩ := h
  · exact fdiv_inf_inf (FFmt.read_inf hf z ha) (FFmt.read_inf hf z hb)
  · obtain ⟨e, ha⟩ := FFmt.read_zero hf z hna ha
    obtain ⟨g, hb⟩ := FFmt.read_zero hf z hnb hb
    exact fdiv_fin_zero ha hb

theorem fdiv_by_zero (hna : f.isNan a = false) (hnb : f.isNan b = false) (hia : f.mag a ≠ f.infCode) (hza : f.mag (f.flush z a) ≠ 0)
    (hzb : f.mag (f.flush z b) = 0) : fdiv f rm z a b = f.infRes (f.neg a != f.neg b) fDZ := by
  obtain ⟨m, e, ha, hm⟩ := FFmt.read_fin hf z hna hia
  obtain ⟨g, hb⟩ := FFmt.read_zero hf z hnb hzb
  rw [fdiv_fin_zero ha hb, if_neg (mt hm.1 hza)]

theorem fdiv_of_inf (hnb : f.isNan b = false) (ha : f.mag a = f.infCode) (hb : f.mag b ≠ f.infCode) :
    fdiv f rm z a b = f.infRes (f.neg a != f.neg b) 0 := by
  obtain ⟨n, e, hb, -⟩ := FFmt.read_fin hf z hnb hb
  exact fdiv_inf_fin (FFmt.read_inf hf z ha) hb

theorem fdiv_by_inf (hna : f.isNan a = false) (ha : f.mag a ≠ f.infCode) (hb : f.mag b = f.infCode) :
    fdiv f rm z a b = f.zeroRes (f.neg a != f.neg b) := by
  obtain ⟨m, e, ha, -⟩ := FFmt.read_fin hf z hna ha
  exact fdiv_fin_inf ha (FFmt.read_inf hf z hb)

theorem fsqrt_of_neg (hna : f.isNan a = false) (hs : f.neg a = true) (hz : f.mag (f.flush z a) ≠ 0) : fsqrt f rm z a = f.nanRes true := by
  by_cases hi : f.mag a = f.infCode
  · exact fsqrt_negInf (hs ▸ FFmt.read_inf hf z hi)
  · obtain ⟨m, e, ha, hm⟩ := FFmt.read_fin hf z hna hi
    exact fsqrt_neg (hs ▸ ha) (mt hm.1 hz)

theorem fsqrt_of_zero (hna : f.isNan a = false) (hz : f.mag (f.flush z a) = 0) : fsqrt f rm z a = f.zeroRes (f.neg a) := by
  obtain ⟨e, ha⟩ := FFmt.read_zero hf z hna hz
  exact fsqrt_zero ha

theorem FFmt.read_invalidTimes (a b : Nat) : (f.read z a).invalidTimes (f.read z b) =
    (decide (f.mag a = f.infCode) && decide (f.mag (f.flush z b) = 0) || decide (f.mag (f.flush z a) = 0) && decide (f.mag b = f.infCode)) := by
  simp only [FVal.invalidTimes, FFmt.read_isInf hf, FFmt.read_isZero hf]

theorem ffma_of_nan {c : Nat} (h : (f.isNan a || f.isNan b || f.isNan c) = true) :
    ffma f rm z a b c = f.nanRes (f.isSnan a || f.isSnan b || f.isSnan c || (f.read z a).invalidTimes (f.read z b)) := by
  rw [ffma_eq, fmaSum_fprods_of_nan (by simpa [FFmt.read_isNan hf] using h), Bool.or_comm]
  simp only [List.any_cons, List.any_nil, Bool.or_false, FFmt.read_isSnan hf]

theorem ffma_opposite {c : Nat} (hn : (f.isNan a || f.isNan b || f.isNan c) = false) (hbad : (f.read z a).invalidTimes (f.read z b) = false)
    (hi : f.mag a = f.infCode ∨ f.mag b = f.infCode) (hc : f.mag c = f.infCode) (hs : (f.neg a != f.neg b) ≠ f.neg c) :
    ffma f rm z a b c = f.nanRes true := by
  obtain ⟨⟨hna, hnb⟩, hnc⟩ : (f.isNan a = false ∧ f.isNan b = false) ∧ f.isNan c = false := by simpa using hn
  have hsigns : infSigns [(f.read z a, f.read z b)] (f.read z c) = [f.neg a != f.neg b, f.neg c] := by
    simp [infSigns, FFmt.read_isInf hf, FFmt.read_sign hf, hna, hnb, hnc, hi, hc]
  have hboth (s : Bool) : s ∈ infSigns [(f.read z a, f.read z b)] (f.read z c) :=
    hsigns ▸ (by decide : ∀ p q s : Bool, p ≠ q → s ∈ [p, q]) _ _ s hs
  exact fmaSum_fprods_opposite (by simpa [FFmt.read_isNan hf] using hn) (by simpa using hbad) (hboth true) (hboth false)

end Cases

/-! ### Rounding m / 2^d (R52) -/

/-- Whether a mode rounds the magnitude m / 2^d up. -/
def roundsUp (rm : Rm) (neg : Bool) (m d : Nat) : Bool :=
  match rm with
  | .rn => decide (2 ^ d < 2 * (m % 2 ^ d)) || (2 * (m % 2 ^ d) == 2 ^ d && m / 2 ^ d % 2 == 1)
  | .rz => false
  | .rd => neg && m % 2 ^ d != 0
  | .ru => !neg && m % 2 ^ d != 0

theorem lt_two_pow_bitLen (m : Nat) : m < 2 ^ bitLen m := by
  unfold bitLen
  split
  · next h => simp [h]
  · exact Nat.lt_log2_self

/-- A shift cut to two bits more than the number has leaves quotient, remainder and the remainder's place against one half as they are. -/
theorem shift_cut (m d : Nat) :
    let k := min d (bitLen m + 2)
    m / 2 ^ k = m / 2 ^ d ∧ m % 2 ^ k = m % 2 ^ d ∧ (2 ^ k < 2 * (m % 2 ^ d) ↔ 2 ^ d < 2 * (m % 2 ^ d)) ∧
      (2 * (m % 2 ^ d) = 2 ^ k ∧ k ≠ 0 ↔ 2 * (m % 2 ^ d) = 2 ^ d) := by
  intro k
  obtain hd | hd := Nat.le_total d (bitLen m + 2)
  · have hk : k = d := Nat.min_eq_left hd
    have hhalf : 2 * (m % 2 ^ d) = 2 ^ d → d ≠ 0 := by
      rintro h rfl
      omega
    rw [hk]
    exact ⟨rfl, rfl, .rfl, and_iff_left_of_imp hhalf⟩
  · have hk : 2 ^ k = 4 * 2 ^ bitLen m := by rw [show k = bitLen m + 2 from Nat.min_eq_right hd, Nat.pow_add, Nat.mul_comm]
    have hle : 4 * 2 ^ bitLen m ≤ 2 ^ d := by rw [← hk]; exact Nat.pow_le_pow_right (by decide) (Nat.min_le_left ..)
    have hm := lt_two_pow_bitLen m
    rw [hk, Nat.div_eq_of_lt (by omega : m < 2 ^ d), Nat.mod_eq_of_lt (by omega : m < 2 ^ d), Nat.div_eq_of_lt (by omega),
      Nat.mod_eq_of_lt (by omega)]
    omega

theorem roundShift_exact (rm : Rm) (neg : Bool) (m d : Nat) :
    roundShift rm neg m d false = (if roundsUp rm neg m d then m / 2 ^ d + 1 else m / 2 ^ d, m % 2 ^ d != 0) := by
  obtain ⟨hdiv, hmod, hlt, hhalf⟩ := shift_cut m d
  simp only [roundShift, Nat.shiftRight_eq_div_pow, hdiv, hmod]
  cases rm with
  | rn =>
    have htie : (2 * (m % 2 ^ d) == 2 ^ min d (bitLen m + 2) && min d (bitLen m + 2) != 0) = (2 * (m % 2 ^ d) == 2 ^ d) := by
      rw [Bool.eq_iff_iff]
      simpa using hhalf
    simp [roundsUp, hlt, htie]
  | rz => simp [roundsUp]
  | rd => simp [roundsUp]
  | ru => simp [roundsUp]

/-- The least integer no smaller than m / 2^d. -/
theorem add_sub_one_div_two_pow (m d : Nat) : (m + 2 ^ d - 1) / 2 ^ d = if m % 2 ^ d = 0 then m / 2 ^ d else m / 2 ^ d + 1 := by
  have hp := Nat.two_pow_pos d
  have hr := Nat.mod_lt m hp
  have hm := Nat.div_add_mod' m (2 ^ d)
  split
  · exact Nat.div_eq_of_lt_le (by omega) (by rw [Nat.succ_mul]; omega)
  · exact Nat.div_eq_of_lt_le (by rw [Nat.succ_mul]; omega) (by rw [Nat.succ_mul, Nat.succ_mul]; omega)

/-- R52: the nearest integer, of two equally near the even one. -/
theorem roundShift_rn (neg : Bool) (m d : Nat) :
    let n := (roundShift .rn neg m d false).1
    2 * (m - n * 2 ^ d) ≤ 2 ^ d ∧ 2 * (n * 2 ^ d - m) ≤ 2 ^ d ∧
      ((2 * (m - n * 2 ^ d) = 2 ^ d ∨ 2 * (n * 2 ^ d - m) = 2 ^ d) → n % 2 = 0) := by
  have hp := Nat.two_pow_pos d
  have hr := Nat.mod_lt m hp
  have hm := Nat.div_add_mod' m (2 ^ d)
  simp only [roundShift_exact, roundsUp, Bool.or_eq_true, Bool.and_eq_true, beq_iff_eq, decide_eq_true_eq]
  split
  · simp only [Nat.add_one_mul]
    omega
  · omega

/-- R52: rounding by direction, and when it is inexact. -/
theorem roundShift_modes (rm : Rm) (neg : Bool) (m d : Nat) :
    let r := roundShift rm neg m d false
    (r.2 = true ↔ m % 2 ^ d ≠ 0) ∧
    (rm = .rz → r.1 = m / 2 ^ d) ∧
    (rm = .rd → r.1 = if neg then (m + 2 ^ d - 1) / 2 ^ d else m / 2 ^ d) ∧
    (rm = .ru → r.1 = if neg then m / 2 ^ d else (m + 2 ^ d - 1) / 2 ^ d) := by
  simp only [roundShift_exact, add_sub_one_div_two_pow]
  refine ⟨by simp, ?_, ?_, ?_⟩
  · rintro rfl
    rfl
  · rintro rfl
    cases neg <;> simp [roundsUp, ite_not]
  · rintro rfl
    cases neg <;> simp [roundsUp, ite_not]

/-! ### FDOT2 -/

section Dot

variable (z : Bool) (a b c : Nat)

theorem dotPairs_anyNan :
    ((dotPairs z a b).any fun p => p.1.isNan || p.2.isNan) = [dotElem a 0, dotElem a 1, dotElem b 0, dotElem b 1].any bf16.isNan := by
  have hf : 0 < bf16.eb := by decide
  simp [dotPairs, FFmt.read_isNan hf, Bool.or_assoc, Bool.or_left_comm]

theorem dotPairs_anyInvalid :
    ((dotPairs z a b).any fun p => p.1.invalidTimes p.2) = [0, 1].any fun i =>
      decide (bf16.mag (dotElem a i) = bf16.infCode) && decide (bf16.mag (bf16.flush z (dotElem b i)) = 0) ||
        decide (bf16.mag (bf16.flush z (dotElem a i)) = 0) && decide (bf16.mag (dotElem b i) = bf16.infCode) := by
  have hf : 0 < bf16.eb := by decide
  simp only [dotPairs, List.any_map, Function.comp_def, FFmt.read_invalidTimes hf]

theorem infSigns_dotPairs (hn : ([dotElem a 0, dotElem a 1, dotElem b 0, dotElem b 1].any bf16.isNan || f32.isNan c) = false) :
    infSigns (dotPairs z a b) (f32.read z c) =
      (([0, 1].filter fun i => decide (bf16.mag (dotElem a i) = bf16.infCode) || decide (bf16.mag (dotElem b i) = bf16.infCode)).map fun i =>
        bf16.neg (dotElem a i) != bf16.neg (dotElem b i)) ++ if f32.mag c = f32.infCode then [f32.neg c] else [] := by
  have hf : 0 < bf16.eb := by decide
  have hf' : 0 < f32.eb := by decide
  obtain ⟨⟨ha0, ha1, hb0, hb1⟩, hc⟩ : (bf16.isNan (dotElem a 0) = false ∧ bf16.isNan (dotElem a 1) = false ∧
      bf16.isNan (dotElem b 0) = false ∧ bf16.isNan (dotElem b 1) = false) ∧ f32.isNan c = false := by simpa using hn
  have hsign : ∀ i ∈ [0, 1], ((bf16.read z (dotElem a i)).sign != (bf16.read z (dotElem b i)).sign) =
      (bf16.neg (dotElem a i) != bf16.neg (dotElem b i)) := by
    simp [FFmt.read_sign hf, ha0, ha1, hb0, hb1]
  simp only [infSigns, dotPairs, List.filter_map, List.map_map, Function.comp_def, FFmt.read_isInf hf, FFmt.read_isInf hf', decide_eq_true_eq,
    FFmt.read_sign hf' z c hc]
  congr 1
  exact List.map_congr_left fun i hi => hsign i (List.mem_filter.1 hi).1

end Dot

/-! ### The statement -/

/-- Settles O13: what a code decodes to decides each operation's case; the sums of products go by which terms are there; `roundShift` rounds as the
exact quotient does. -/
theorem floatSpecialOperands : Obligations.FloatSpecialOperands := by
  unfold Obligations.FloatSpecialOperands
  refine ⟨⟨fun f rm z a b c hfmt _ _ _ => ?_, fun rm z a b c _ _ _ => ?_⟩, fun rm neg m d => ?_⟩
  · have hf : 0 < f.eb := by
      simp only [List.mem_cons, List.not_mem_nil, or_false] at hfmt
      obtain rfl | rfl | rfl := hfmt <;> decide
    intro nv sn inf zero sgn bad
    have hbad : (f.read z a).invalidTimes (f.read z b) = bad := FFmt.read_invalidTimes hf z a b
    refine ⟨binary_of_nan hf rm z, fun ha => ?_, fminmax_nan_left hf, fminmax_nan_right hf, fminmax_nan_both hf, fun h => ?_,
      fun h => ⟨fun h' => ?_, fun h' h'' => ?_⟩, fun h => ?_⟩
    · have hread := FFmt.read_nan hf z ha
      exact ⟨fsqrt_of_nan hread, frnd_of_nan hread, fun n => fscale_of_nan hread⟩
    · rw [← hbad]
      exact ffma_of_nan hf rm z h
    · exact ffma_invalid (hbad.trans h')
    · simp only [inf, Bool.and_eq_true, Bool.or_eq_true, decide_eq_true_eq, bne_iff_ne] at h''
      obtain ⟨⟨hi, hc⟩, hs⟩ := h''
      exact ffma_opposite hf rm z h (hbad.trans h') hi hc hs
    · obtain ⟨hna, hnb⟩ := Bool.or_eq_false_iff.1 h
      simp only [inf, zero, bad, Bool.and_eq_true, Bool.or_eq_true, Bool.not_eq_true', decide_eq_true_eq, decide_eq_false_iff_not, bne_iff_ne,
        beq_iff_eq]
      exact ⟨fun ⟨⟨ha, hb⟩, hs⟩ => fadd_opposite hf rm z ha hb hs, fun ⟨⟨ha, hb⟩, hs⟩ => fsub_alike hf rm z ha hb hs,
        fmul_invalid hf rm z hna hnb, fdiv_invalid hf rm z hna hnb, fun ⟨⟨hi, hz⟩, hb⟩ => fdiv_by_zero hf rm z hna hnb hi hz hb,
        fun ⟨ha, hb⟩ => fdiv_of_inf hf rm z hnb ha hb, fun ⟨ha, hb⟩ => fdiv_by_inf hf rm z hna ha hb,
        fun ⟨hs, hz⟩ => fsqrt_of_neg hf rm z hna hs hz, fsqrt_of_zero hf rm z hna⟩
  · intro e es inf zero bad nan infs
    have hnan : (((dotPairs z a b).any fun p => p.1.isNan || p.2.isNan) || (f32.read z c).isNan) = nan := by
      rw [dotPairs_anyNan, FFmt.read_isNan (by decide)]
      rfl
    have hbad : ((dotPairs z a b).any fun p => p.1.invalidTimes p.2) = bad := dotPairs_anyInvalid z a b
    rw [fdot2_eq]
    refine ⟨fun h => ?_, fun h h' => ?_⟩
    · rw [fmaSum_fprods_of_nan (hnan.trans h), hbad, Bool.or_comm]
      simp only [FFmt.read_isSnan (by decide : 0 < bf16.eb), FFmt.read_isSnan (by decide : 0 < f32.eb)]
      rfl
    · have hsigns : infSigns (dotPairs z a b) (f32.read z c) = infs := infSigns_dotPairs z a b c h
      by_cases hb : bad = true
      · exact fmaSum_fprods_invalid (hbad.trans hb)
      · obtain ⟨hneg, hpos⟩ := h'.resolve_left hb
        exact fmaSum_fprods_opposite (hnan.trans h) (hbad.trans (Bool.eq_false_iff.2 hb)) (hsigns ▸ hneg) (hsigns ▸ hpos)
  · obtain ⟨hnx, hrz, hrd, hru⟩ := roundShift_modes rm neg m d
    exact ⟨hnx, hrz, hrd, hru, by rintro rfl; exact roundShift_rn neg m d⟩

end Sys2Proof.Machine

namespace Sys2Proof.Machine
open Sys2Proof

/-! ## The matrix engine after a context fault (O37)

The statement says of every completion that the MMAs behind the completed one stay in the engine. Completing an MMA also lets an MDECL that waits for
its register go on, and the signed set is then checked against the new declaration (R322, R323). Where a member of it has exited, every signer takes
MISMATCH; in a group with no handler that is a double trap, which faults the context (R397), and a faulted context's MMAs leave the engine (R414). -/

/-- An MMA of the demo's group on a convergence register, with no operand rows. -/
def rowlessMma (cv : Nat) : Mma :=
  { seq := cv, ctx := 1, grp := 0, cv := cv, kind := .w, k := 0, rows := [], b := 0, reg := regionOf 0, ready := true, cover := 0, since := 0,
    spoil := [] }

/-- The demo with a matrix group that has no handler, and MMAs on cv0 and cv1 in the engine: rank 0 waits to declare cv0 anew, rank 1 has signed cv0,
and rank 2 has exited. -/
def mismatchOnRedeclare : State :=
  let s := State.reset.demo .matrix
  let g := demoThread.group
  let s := s.modGroup g fun y => { y with handler := 0, cvs := y.cvs.set 0 { CvRec.clear with decl := true, count := 16 } }
  let s := s.modThread (g.thread 0) fun x =>
    { x with st := .wait, ph := .cvIdle 0, cur := some (.mdecl Hints.none 0 (.imm 16) (.imm 0)) }
  let s := s.modThread (g.thread 1) fun x => { x with st := .wait, ph := .sign 0 .w 0 0 0 0, cur := some (.mma Hints.none .w 0 0 1 2 3) }
  let s := s.modThread (g.thread 2) fun x => { x with st := .exited }
  s.modCore demoThread.coreRef fun k => { k with mmas := [rowlessMma 0, rowlessMma 1] }

theorem mismatchOnRedeclare_mmas : (mismatchOnRedeclare.core demoThread.coreRef).mmas = [rowlessMma 0, rowlessMma 1] := by decide +kernel

theorem mismatchOnRedeclare_noStep : ∀ e ∈ mismatchOnRedeclare.threads, e.2.step = false := by decide +kernel

/-- The operand banks of the MMA on cv0 have full power. -/
theorem mismatchOnRedeclare_awake : ∀ b ∈ ((rowlessMma 0).b.toNat :: (rowlessMma 0).rows.map rowPlace).flatMap tileBanks,
    (mismatchOnRedeclare.holding demoCC).bankLive b = true → mismatchOnRedeclare.scrPower demoThread.coreRef b = .full := by
  decide +kernel

/-- Completing the MMA on cv0 faults the context, and the MMA on cv1 goes with it. -/
theorem mismatchOnRedeclare_complete :
    (match exec (.mmaComplete demoThread.coreRef) mismatchOnRedeclare with
      | .next s => (s.ctx demoCtx).st == .faulted && (s.core demoThread.coreRef).mmas.isEmpty
      | _ => false) = true := by
  decide +kernel

/-- Refutes O37: an MDECL that goes on at a completion can end its context, and the MMAs that stood behind in the engine with it. -/
theorem not_matrixEngine : ¬ Obligations.MatrixEngine := by
  unfold Obligations.MatrixEngine
  rintro ⟨-, -, -, hcomplete, -⟩
  obtain ⟨-, hfull⟩ := hcomplete mismatchOnRedeclare demoThread.coreRef (rowlessMma 0) [rowlessMma 1] mismatchOnRedeclare_mmas
    mismatchOnRedeclare_noStep
  obtain ⟨s, hs, ⟨l, hl⟩, -⟩ := hfull mismatchOnRedeclare_awake
  have hdone := mismatchOnRedeclare_complete
  simp [hs, hl] at hdone

end Sys2Proof.Machine

namespace Sys2Proof.Machine
open Sys2Proof

/-! ## A thread exits (O20)

EXIT writes the thread's record, settles the banks of the windows that die and drops the thread's register errors: `State.left`. What that releases
for others, `State.afterExit`, comes after. -/

/-- Where the checks of R97 let an instruction execute, `issue` runs its body on the issuing thread. -/
theorem issue_of_runs {s : State} {i : Instr} {t : TRef} {x : Thread} {g : Group} (h : Runs s i t x g)
    (body : TRef → Thread → Group → Out State Fault Refusal) : issue s i body = body t x g := by
  simp only [issue, h.cur, h.thread, h.group, h.gate]

/-- The state in which a thread has left its group and no other thread has been released (R118, R142). -/
def State.left (s : State) (t : TRef) (x : Thread) : State :=
  let s := (s.setThread t x.exited).settleWindows t x.htid x.live
  { s with regPois := s.regPois.filter fun e => e.1 ≠ t }

theorem State.exitNow_eq (s : State) (t : TRef) (x : Thread) : s.exitNow t x = (s.left t x).afterExit t x := rfl

/-- Settling banks changes no more than cores. -/
theorem State.left_eq (s : State) (t : TRef) (x : Thread) : s.left t x =
    { s.setThread t x.exited with cores := (s.left t x).cores, regPois := s.regPois.filter fun e => e.1 ≠ t } := by
  have banks := (settleWindows_only (s.setThread t x.exited) t x.htid x.live).rest
  conv => lhs; rw [State.left, banks]
  rfl

theorem State.mem_left_regPois (s : State) (t : TRef) (x : Thread) (e : TRef × Nat) :
    e ∈ (s.left t x).regPois ↔ e ∈ s.regPois ∧ e.1 ≠ t := by
  rw [s.left_eq t x]
  simp

theorem State.left_thread? (s : State) (t : TRef) (x : Thread) (u : TRef) :
    (s.left t x).thread? u = (s.setThread t x.exited).thread? u := by
  rw [s.left_eq t x]
  rfl

/-- Leaving touches the thread itself, the power of its banks and its register errors. -/
theorem State.left_onlyThread (s : State) (t : TRef) (x : Thread) : OnlyThread s (s.left t x) t where
  others u hu := by rw [s.left_thread?, State.thread?_setThread_ne _ _ hu]
  memory a := by rw [s.left_eq t x]; rfl
  cores := (settleWindows_only (s.setThread t x.exited) t x.htid x.live).cores
  errors e he := ((s.mem_left_regPois t x e).1 he).1
  rest := by rw [s.left_eq t x]; rfl

/-- EXIT of a thread with nothing parked and no load under way is not held. -/
theorem exec_exitThread_of_runs {s : State} {t : TRef} {x : Thread} {g : Group} {h : Hints} (hr : Runs s (.exitThread h) t x g)
    (hpark : s.npark t = 0) (hload : s.unretired t = false) : exec (.exitThread h) s = .next ((s.left t x).afterExit t x) := by
  have he : exec (.exitThread h) s = execExitThread h s := rfl
  rw [he, execExitThread, issue_of_runs hr]
  simp [hpark, hload, State.exitNow_eq]

/-- Settles O20: EXIT is not held, and `State.left` says what it does to the thread itself. -/
theorem threadExit : Obligations.ThreadExit := by
  intro s t x g h hr hpark hload
  exact ⟨s.left t x, s.left_onlyThread t x, exec_exitThread_of_runs hr hpark hload, fun e he => ((s.mem_left_regPois t x e).1 he).2,
    by rw [s.left_thread?, State.thread?_setThread_self, Thread.exited]⟩

end Sys2Proof.Machine

namespace Sys2Proof.Machine
open Sys2Proof

/-! ## Budgets, timing errors and the power of banks (O49)

Each event has one equation: what it makes of the state where its condition holds, and that it leaves the state alone where it does not. The clauses
of the statement read the equations off. -/

/-! ### Cores, slices, partitions and banks after a write -/

@[simp] theorem State.core_modCore_self (s : State) (c : CoreRef) (f : Core → Core) : (s.modCore c f).core c = f (s.core c) := by
  rw [State.modCore, State.core_setCore, if_pos rfl]

theorem modNth_eq_modify {α : Type} (l : List α) (n : Nat) (f : α → α) : modNth l n f = l.modify n f := by
  induction l generalizing n with
  | nil => cases n <;> rfl
  | cons a l ih =>
    cases n with
    | zero => rfl
    | succ n => rw [modNth, ih, List.modify_succ_cons]

@[simp] theorem getElem?_modNth_self {α : Type} (l : List α) (n : Nat) (f : α → α) : (modNth l n f)[n]? = l[n]?.map f := by
  rw [modNth_eq_modify, List.getElem?_modify_eq, Option.map_eq_map]

theorem State.part_modPart_self (s : State) {p : Nat} (f : Part → Part) (h : p < s.parts.length) : (s.modPart p f).part p = f (s.part p) := by
  simp [State.part, State.modPart, List.getD_eq_getElem?_getD, h]

theorem Dict.get?_erase_self {κ α : Type} [DecidableEq κ] (t : Dict κ α) (k : κ) : (t.erase k).get? k = none := by
  induction t with
  | nil => rfl
  | cons e t ih =>
    rw [Dict.erase, List.filter_cons]
    split
    · next h => rw [Dict.get?, if_neg (by simpa using h)]; exact ih
    · exact ih

/-! ### Byte budgets and energy (R464 to R466) -/

theorem pwLimit_eq (p : DWord) : pwLimit p = p.toNat / 2 ^ 32 % 2 ^ 16 := by simp [pwLimit, bitsOf, Nat.shiftRight_eq_div_pow]

theorem pwNmin_eq (p : DWord) : pwNmin p = p.toNat / 2 ^ 16 % 32 := by simp [pwNmin, bitsOf, Nat.shiftRight_eq_div_pow]

theorem State.intervalDue_iff (s : State) (c : CoreRef) :
    s.intervalDue c = true ↔ s.coreUp c = true ∧ (s.core c).budgetAt < (s.coreTime c).toNat / 16000 := by simp [State.intervalDue]

/-- A core after an interval boundary at which e of energy has been metered. -/
def Core.atInterval (k : Core) (now e : Nat) : Core :=
  { k with budgetAt := now, bytes := k.charge, energy := BitVec.ofNat 63 (k.energy.toNat + (k.erem + e) / 65536),
           wrap := k.wrap || decide (2 ^ 63 ≤ k.energy.toNat + (k.erem + e) / 65536), erem := (k.erem + e) % 65536 }

theorem exec_budgetInterval (c : CoreRef) (e : Nat) (s : State) : exec (.budgetInterval c e) s =
    if s.intervalDue c = true then .next (s.modCore c fun k => k.atInterval ((s.coreTime c).toNat / 16000) e) else .next s := by
  have h : exec (.budgetInterval c e) s = execBudgetInterval c e s := rfl
  rw [h, execBudgetInterval]
  cases s.intervalDue c <;> rfl

/-- Energy accrues exactly, its fraction with it, unless the counter wraps. -/
theorem Core.atInterval_energy (k : Core) (now e : Nat) (h : (k.energy.toNat * 65536 + k.erem + e) / 65536 < 2 ^ 63) :
    (k.atInterval now e).energy.toNat * 65536 + (k.atInterval now e).erem = k.energy.toNat * 65536 + k.erem + e ∧
      (k.atInterval now e).erem < 65536 ∧ (k.atInterval now e).wrap = k.wrap := by
  have hsum : k.energy.toNat + (k.erem + e) / 65536 < 2 ^ 63 := by omega
  have hwrap : decide (2 ^ 63 ≤ k.energy.toNat + (k.erem + e) / 65536) = false := by simpa using hsum
  refine ⟨?_, Nat.mod_lt _ (by decide), ?_⟩
  · simp only [Core.atInterval, BitVec.toNat_ofNat, Nat.mod_eq_of_lt hsum]
    omega
  · simp only [Core.atInterval, hwrap, Bool.or_false]

theorem budgetInterval_spec (s : State) (c : CoreRef) (e : Nat) :
    let k := s.core c
    let now := (s.coreTime c).toNat / 16000
    ((s.coreUp c = false ∨ now ≤ k.budgetAt) → exec (.budgetInterval c e) s = .next s) ∧
    (s.coreUp c = true → k.budgetAt < now → exec (.budgetInterval c e) s = .next (s.modCore c fun k => k.atInterval now e)) := by
  intro k now
  rw [exec_budgetInterval]
  refine ⟨fun h => if_neg ?_, fun hup hdue => if_pos ((s.intervalDue_iff c).2 ⟨hup, hdue⟩)⟩
  rw [State.intervalDue_iff]
  rintro ⟨hup, hdue⟩
  rcases h with h | h
  · exact absurd hup (by simp [h])
  · exact absurd hdue (Nat.not_lt.2 h)

/-! ### Timing errors (R468 to R470) -/

/-- A slice at a detection in issue group q. -/
def Slice.detected (y : Slice) (pc : Pc) (q : List TRef) : Slice := { y with det := y.det + 1, err := some pc, stop := 4, again := q }

/-- The slice after it, which at a second detection at one instruction switches to NMIN. -/
def Slice.afterError (y : Slice) (pc : Pc) (q : List TRef) (now : DWord) (free nmin : Nat) : Slice :=
  if y.err = some pc then (y.detected pc q).toMin now free nmin else y.detected pc q

/-- The state after a detection, before its record. -/
def State.afterError (s : State) (t : TRef) (x : Thread) (y : Slice) (q : List TRef) : State :=
  let sl := htidSlice x.htid
  let c := t.coreRef
  let s' := s.modSlice c sl fun z => z.detected x.pc q
  if y.err = some x.pc then s'.power c fun free k =>
    { k with slices := modNth k.slices sl fun z => z.toMin (s.coreTime c) (free sl) (pwNmin (s.core c).pwrctl)
             raises := k.raises.filter fun r => r.1 != sl }
  else s'

/-- The state after a detection: at NMIN it is recorded. -/
def State.detect (s : State) (t : TRef) (x : Thread) (y : Slice) (q : List TRef) : State :=
  if y.n = pwNmin (s.core t.coreRef).pwrctl then (s.afterError t x y q).powerRecord t.coreRef 0 else s.afterError t x y q

theorem exec_timingErrorDetect {s : State} {t : TRef} {x : Thread} {y : Slice} (hx : s.thread? t = some x)
    (hy : (s.core t.coreRef).slices[htidSlice x.htid]? = some y) : exec (.timingErrorDetect t) s =
      let q := s.errorGroup t.ccRef (htidSlice x.htid) y
      if t ∈ q then .next (s.detect t x y q) else .next s := by
  have h : exec (.timingErrorDetect t) s = execTimingErrorDetect t s := rfl
  rw [h, execTimingErrorDetect]
  simp only [hx, hy]
  by_cases hq : t ∈ s.errorGroup t.ccRef (htidSlice x.htid) y
  · simp only [State.detect, State.afterError, Slice.detected, hq, List.contains_eq_mem, decide_true, Bool.not_true, Bool.false_eq_true,
      if_false, if_true, beq_iff_eq]
    rfl
  · simp [hq]

/-- A held clock or a replay's stop leaves no group to detect in. -/
theorem State.errorGroup_eq_nil (s : State) (c : CCRef) (sl : Nat) {y : Slice}
    (h : y.stop ≠ 0 ∨ ∃ d, y.hold = some d ∧ d.toNat ≤ (s.coreTime c.coreRef).toNat + 228) : s.errorGroup c sl y = [] := by
  rw [State.errorGroup, if_pos]
  rcases h with h | ⟨d, hd, hle⟩
  · simp [Nat.pos_of_ne_zero h]
  · simp [Slice.holding, hd, hle]

@[simp] theorem State.core_power (s : State) (c d : CoreRef) (f : (Nat → Nat) → Core → Core) :
    (s.power c f).core d = (s.modCore c (f s.edges)).core d := rfl

theorem State.afterError_slice {s : State} {t : TRef} {x : Thread} {y : Slice}
    (hy : (s.core t.coreRef).slices[htidSlice x.htid]? = some y) (q : List TRef) :
    ((s.afterError t x y q).core t.coreRef).slices[htidSlice x.htid]? =
      some (y.afterError x.pc q (s.coreTime t.coreRef) (s.edges (htidSlice x.htid)) (pwNmin (s.core t.coreRef).pwrctl)) := by
  have hstop : (((s.modSlice t.coreRef (htidSlice x.htid) fun z => z.detected x.pc q).core t.coreRef).slices[htidSlice x.htid]?) =
      some (y.detected x.pc q) := by
    rw [State.modSlice, State.core_modCore_self, getElem?_modNth_self, hy, Option.map_some]
  rw [State.afterError, Slice.afterError]
  split
  · rw [State.core_power, State.core_modCore_self, getElem?_modNth_self, hstop, Option.map_some]
    rfl
  · exact hstop

/-- Nothing changes but cores, and a switch may use up free values. -/
theorem State.afterError_frame (s : State) (t : TRef) (x : Thread) (y : Slice) (q : List TRef) :
    s.afterError t x y q = { s with cores := (s.afterError t x y q).cores, fresh := (s.afterError t x y q).fresh } := by
  rw [State.afterError]
  split <;> rfl

theorem Slice.toMin_frame (z : Slice) (now : DWord) (free nmin : Nat) :
    z.toMin now free nmin = { z with tgt := (z.toMin now free nmin).tgt, hold := (z.toMin now free nmin).hold } := by
  rw [Slice.toMin]
  split
  · rfl
  · split <;> rfl

/-- A detection counts and stops the slice for four cycles, and its clock ratio stays as it is for now. -/
theorem Slice.afterError_counts (y : Slice) (pc : Pc) (q : List TRef) (now : DWord) (free nmin : Nat) :
    let z := y.afterError pc q now free nmin
    z.stop = 4 ∧ z.det = y.det + 1 ∧ z.n = y.n ∧ z.again = q ∧ z.err = some pc := by
  rw [Slice.afterError]
  split
  · rw [Slice.toMin_frame]
    exact ⟨rfl, rfl, rfl, rfl, rfl⟩
  · exact ⟨rfl, rfl, rfl, rfl, rfl⟩

/-- A first detection at an instruction, and any at NMIN, starts no switch. -/
theorem Slice.afterError_stays {y : Slice} {pc : Pc} {nmin : Nat} (h : y.err ≠ some pc ∨ y.n = nmin) (q : List TRef) (now : DWord)
    (free : Nat) : y.afterError pc q now free nmin = y.detected pc q := by
  rw [Slice.afterError]
  split
  · next he => exact if_pos (h.resolve_left (absurd he))
  · rfl

/-- A second detection at an instruction away from NMIN sends the slice there: by the switch under way, or by one that begins. -/
theorem Slice.afterError_toMin {y : Slice} {pc : Pc} {nmin : Nat} (he : y.err = some pc) (hn : y.n ≠ nmin) (q : List TRef) (now : DWord)
    (free : Nat) : y.afterError pc q now free nmin =
      if y.hold.isSome then { y.detected pc q with tgt := nmin } else (y.detected pc q).switch now free nmin := by
  rw [Slice.afterError, if_pos he]
  exact if_neg hn

/-- A slice's first clock edge comes within its cycle. -/
theorem edgeTicks_bounds {n : Nat} (free : Nat) (h4 : 4 ≤ n) (h16 : n ≤ 16) :
    1 ≤ edgeTicks n free ∧ edgeTicks n free ≤ ceilCycles ((15 + n) / n) := by
  have hpos : 0 < ceilCycles ((15 + n) / n) := by
    have : 0 < (15 + n) / n := Nat.div_pos (by omega) (by omega)
    rw [ceilCycles]
    omega
  have := Nat.mod_lt free hpos
  rw [edgeTicks]
  omega

/-- Whether a detection has its slice switch, `low` being NMIN. -/
theorem Slice.afterError_ratio (y : Slice) (pc : Pc) (q : List TRef) (now : DWord) (free low : Nat) :
    let z := y.afterError pc q now free low
    (y.err = some pc → y.n ≠ low → z.tgt = low ∧ (∀ d, y.hold = some d → z.hold = some d) ∧
      (y.hold = none → 4 ≤ y.n → y.n ≤ 16 →
        ∃ w, 229 ≤ w ∧ w ≤ 228 + ceilCycles ((15 + y.n) / y.n) ∧ z.hold = some (now + BitVec.ofNat 64 w))) ∧
    ((y.err ≠ some pc ∨ y.n = low) → z.hold = y.hold ∧ z.tgt = y.tgt) := by
  refine ⟨fun he hn => ?_, fun h => ?_⟩
  · rw [Slice.afterError_toMin he hn]
    cases hh : y.hold with
    | some d => exact ⟨rfl, fun _ hd => hh.trans hd, fun h => absurd h (by simp)⟩
    | none =>
      refine ⟨rfl, fun _ h => absurd h (by simp), fun _ h4 h16 => ⟨edgeTicks y.n free + 228, ?_, ?_, rfl⟩⟩
      · have := (edgeTicks_bounds free h4 h16).1
        omega
      · have := (edgeTicks_bounds free h4 h16).2
        omega
  · rw [Slice.afterError_stays h]
    exact ⟨rfl, rfl⟩

/-- A record of 512 bits has its class at bit 184, and all else of it lies above. -/
theorem extractLsb'_class (n code : Nat) :
    (BitVec.ofNat 512 (2 ^ 192 * n + code * 2 ^ 184)).extractLsb' 184 8 = BitVec.ofNat 8 code := by
  apply BitVec.eq_of_toNat_eq
  have hfactor : 2 ^ 192 * n + code * 2 ^ 184 = 2 ^ 184 * (2 ^ 8 * n + code) := by omega
  rw [hfactor, BitVec.extractLsb'_toNat, BitVec.toNat_ofNat, BitVec.toNat_ofNat, Nat.shiftRight_eq_div_pow]
  calc
    2 ^ 184 * (2 ^ 8 * n + code) % 2 ^ 512 / 2 ^ 184 % 2 ^ 8
    _ = 2 ^ 184 * ((2 ^ 8 * n + code) % 2 ^ 328) / 2 ^ 184 % 2 ^ 8 := by
      rw [show 512 = 184 + 328 from rfl, Nat.pow_add, Nat.mul_mod_mul_left]
    _ = (2 ^ 8 * n + code) % 2 ^ 328 % 2 ^ 8 := by rw [Nat.mul_div_cancel_left _ (Nat.two_pow_pos _)]
    _ = code % 2 ^ 8 := by rw [Nat.mod_mod_of_dvd _ (Nat.pow_dvd_pow 2 (by decide)), Nat.mul_add_mod]

theorem mcBits_class (gtime addr synd ctx seq unit sev p : Nat) (cls : McClass) :
    (mcBits gtime addr synd ctx seq unit (some p) sev cls).extractLsb' 184 8 = BitVec.ofNat 8 cls.code := by
  rw [← extractLsb'_class (gtime % 2 ^ 64 * 2 ^ 256 + addr % 2 ^ 64 * 2 ^ 192 + synd % 2 ^ 64 * 2 ^ 128 + ctx % 2 ^ 16 * 2 ^ 48
    + seq % 2 ^ 16 * 2 ^ 32 + unit % 2 ^ 16 * 2 ^ 16 + (p % 4 * 2 ^ 14 + 2 ^ 13) + sev % 4), mcBits]
  congr 2
  omega

theorem mem_mcPush (ring : List McRecord) (r : McRecord) : r ∈ mcPush ring r := by
  rw [mcPush]
  split <;> simp

theorem State.powerRecord_mc (s : State) (c : CoreRef) (synd : Int) (h : c.part < s.parts.length) :
    ∃ r ∈ ((s.powerRecord c synd).part c.part).mc, r.extractLsb' 184 8 = 6 := by
  rw [State.powerRecord, State.mcRecord, State.part_modPart_self _ _ h]
  exact ⟨_, mem_mcPush .., mcBits_class ..⟩

/-- The record of an error at NMIN touches no core. -/
theorem State.detect_slice {s : State} {t : TRef} {x : Thread} {y : Slice}
    (hy : (s.core t.coreRef).slices[htidSlice x.htid]? = some y) (q : List TRef) :
    ((s.detect t x y q).core t.coreRef).slices[htidSlice x.htid]? =
      some (y.afterError x.pc q (s.coreTime t.coreRef) (s.edges (htidSlice x.htid)) (pwNmin (s.core t.coreRef).pwrctl)) := by
  rw [← State.afterError_slice hy q, State.detect]
  split <;> rfl

theorem State.detect_threads (s : State) (t : TRef) (x : Thread) (y : Slice) (q : List TRef) : (s.detect t x y q).threads = s.threads := by
  rw [State.detect, State.afterError_frame]
  split <;> rfl

theorem State.detect_mem (s : State) (t : TRef) (x : Thread) (y : Slice) (q : List TRef) : (s.detect t x y q).mem = s.mem := by
  rw [State.detect, State.afterError_frame]
  split <;> rfl

theorem State.detect_record {s : State} {t : TRef} {y : Slice} (hn : y.n = pwNmin (s.core t.coreRef).pwrctl) (hp : t.part < s.parts.length)
    (x : Thread) (q : List TRef) : ∃ r ∈ ((s.detect t x y q).part t.part).mc, r.extractLsb' 184 8 = 6 := by
  rw [State.detect, if_pos hn, State.afterError_frame]
  exact State.powerRecord_mc _ t.coreRef 0 hp

/-! ### What a bank's wake leaves (R117, R133 to R135) -/

theorem State.bankIdle_iff (s : State) (c : CoreRef) (b : Nat × Nat × Nat) : s.bankIdle c b = true ↔
    (∃ e ∈ s.threads, e.1.coreRef = c ∧ e.2.liveAt (s.holding e.1.ccRef) b = true) ∧ s.transferIn c b = false ∧
    (∀ e ∈ s.threads, e.1.coreRef = c ∧ e.2.liveAt (s.holding e.1.ccRef) b = true →
      e.2.st = .wait ∧ s.ctxRuns e.1.ctxRef = true ∧ e.2.waitFrom.toNat + 32000 < (s.coreTime c).toNat) ∧
    ∀ e ∈ s.groups, e.1.coreRef = c → e.2.startsAt (s.holding e.1.ccRef) b = false := by
  simp only [State.bankIdle, Bool.and_eq_true, Bool.not_eq_true', List.isEmpty_eq_false_iff_exists_mem, List.mem_filter, beq_iff_eq,
    List.all_eq_true, List.any_eq_false, decide_eq_true_eq]
  grind

theorem OnlyBanks.bankHeld {s s' : State} (h : OnlyBanks s s') (c : CoreRef) (b : Nat × Nat × Nat) : s'.bankHeld c b = s.bankHeld c b := by
  rw [h.rest]
  rfl

theorem OnlyBanks.transferIn {s s' : State} (h : OnlyBanks s s') (c : CoreRef) (b : Nat × Nat × Nat) :
    s'.transferIn c b = s.transferIn c b := by
  have hunder (t : TRef) (x : Thread) : s'.underWay t x = s.underWay t x := by
    rw [State.underWay, h.cores]
    rfl
  simp only [State.transferIn, hunder]
  rw [h.rest]
  rfl

/-- A bank at full power that settles stays there while something holds it or a transfer to it is under way, and goes off otherwise. -/
theorem State.settleBank_full (s : State) (c : CoreRef) (b : Nat × Nat × Nat) :
    (((s.setBank c b .full).settleBank c b).core c).regPow.get? b =
      if s.bankHeld c b = true ∨ s.transferIn c b = true then some .full else none := by
  have only := setBank_only s c b .full
  have hfull : ((s.setBank c b .full).core c).regPow.get? b = some .full := by simp [State.setBank]
  rw [State.settleBank, only.bankHeld, only.transferIn]
  by_cases hh : s.bankHeld c b = true
  · simp [hh, hfull]
  · by_cases ht : s.transferIn c b = true
    · simp [hh, ht, hfull]
    · simp [hh, ht, Dict.get?_erase_self]

theorem State.kernelStarted_cores (s : State) (k : KRef) : (s.kernelStarted k).cores = s.cores := by
  rw [State.kernelStarted]
  split
  · rfl
  · exact (apply_ite State.cores _ _ _).trans (ite_self _)

theorem State.startGroup_cores (s : State) (g : GRef) (y : Group) : (s.startGroup g y).cores = s.cores := by
  rw [State.startGroup]
  split
  · rfl
  · rw [State.kernelStarted_cores]
    exact List.foldlRecOn _ _ (motive := fun u : State => u.cores = s.cores) rfl fun _ hu _ _ => hu

/-- Starting groups does not touch a core. -/
theorem State.startAll_core (s : State) (c : CCRef) (d : CoreRef) : (s.startAll c).core d = s.core d := by
  have : (s.startAll c).cores = s.cores := by
    refine List.foldlRecOn _ _ (motive := fun u : State => u.cores = s.cores) rfl fun u hu e _ => ?_
    rw [← hu, State.tryStart]
    split
    · split
      · exact State.startGroup_cores ..
      · rfl
    · rfl
  rw [State.core, this, State.core]

/-! ### The events of banks -/

theorem Power.awake_waking_iff (off : Bool) (d now : DWord) : (Power.waking off d).awake now = true ↔ d.toNat ≤ now.toNat := by
  rw [Power.awake, decide_eq_true_iff]

theorem exec_regBankRetention (c : CoreRef) (sl row lane : Nat) (s : State) : exec (.regBankRetention c sl row lane) s =
    if s.bankPower c (sl, row, lane) = .full ∧ s.bankIdle c (sl, row, lane) = true ∧ s.inReset = false then
      .next (s.setBank c (sl, row, lane) .retention)
    else .next s := by
  have h : exec (.regBankRetention c sl row lane) s = execRegBankRetention c sl row lane s := rfl
  rw [h, execRegBankRetention]
  simp only [Bool.and_eq_true, beq_iff_eq, Bool.not_eq_true', and_assoc]

/-- The groups of the context that runs on a core start where their banks are awake. -/
def State.startHeld (s : State) (c : CoreRef) : State := if s.ctxRuns (s.heldBy c).ctxRef then s.startAll (s.heldBy c) else s

theorem State.core_startHeld (s : State) (c d : CoreRef) : (s.startHeld c).core d = s.core d := by
  rw [State.startHeld]
  split
  · exact s.startAll_core ..
  · rfl

theorem exec_regBankWakeDone (c : CoreRef) (sl row lane : Nat) (s : State) : exec (.regBankWakeDone c sl row lane) s =
    if ((s.core c).regPow.getD (sl, row, lane) .off).awake (s.coreTime c) = true ∧ s.inReset = false then
      .next (((s.setBank c (sl, row, lane) .full).settleBank c (sl, row, lane)).startHeld c)
    else .next s := by
  have h : exec (.regBankWakeDone c sl row lane) s = execRegBankWakeDone c sl row lane s := rfl
  rw [h, execRegBankWakeDone]
  simp only [State.startHeld, Bool.and_eq_true, Bool.not_eq_true']

theorem exec_scrBankRetention (c : CoreRef) (n : Nat) (s : State) : exec (.scrBankRetention c n) s =
    let p := (s.core c).scrPow.getD n (.off, 0)
    if p.1 = .full ∧ p.2.toNat + 64000 ≤ (s.coreTime c).toNat ∧ s.inReset = false then
      .next (s.modCore c fun k => { k with scrPow := k.scrPow.set n (.retention, p.2) })
    else .next s := by
  have h : exec (.scrBankRetention c n) s = execScrBankRetention c n s := rfl
  rw [h, execScrBankRetention]
  simp only [Bool.and_eq_true, beq_iff_eq, decide_eq_true_eq, Bool.not_eq_true', and_assoc]

theorem exec_scrBankWakeDone (c : CoreRef) (n : Nat) (s : State) : exec (.scrBankWakeDone c n) s =
    let p := (s.core c).scrPow.getD n (.off, 0)
    if p.1.awake (s.coreTime c) = true ∧ s.inReset = false then
      .next ((s.modCore c fun k => { k with scrPow := k.scrPow.set n (.full, p.2) }).startHeld c)
    else .next s := by
  have h : exec (.scrBankWakeDone c n) s = execScrBankWakeDone c n s := rfl
  rw [h, execScrBankWakeDone]
  simp only [State.startHeld, Bool.and_eq_true, Bool.not_eq_true']

theorem exec_tileWakeDone (c : CoreRef) (n : Nat) (s : State) : exec (.tileWakeDone c n) s =
    if ((s.core c).tilePow.getD n .off).awake (s.coreTime c) = true ∧ s.inReset = false then
      .next (s.modCore c fun k => { k with tilePow := k.tilePow.set n .full })
    else .next s := by
  have h : exec (.tileWakeDone c n) s = execTileWakeDone c n s := rfl
  rw [h, execTileWakeDone]
  simp only [Bool.and_eq_true, Bool.not_eq_true']

theorem KeepsHbm.mem {s s' : State} {o : Out State Fault Refusal} (h : KeepsHbm s o) (e : o = .next s') : s'.mem = s.mem :=
  congrArg Prod.fst (h s' e)

theorem regBankRetention_spec {s : State} (c : CoreRef) (sl row lane : Nat) (hr : s.inReset = false) :
    (s.bankPower c (sl, row, lane) = .full → s.bankIdle c (sl, row, lane) = true →
      exec (.regBankRetention c sl row lane) s = .next (s.setBank c (sl, row, lane) .retention)) ∧
    ((s.bankPower c (sl, row, lane) ≠ .full ∨ ¬ s.bankIdle c (sl, row, lane) = true) →
      exec (.regBankRetention c sl row lane) s = .next s) := by
  rw [exec_regBankRetention]
  exact ⟨fun hp hi => if_pos ⟨hp, hi, hr⟩, fun h => if_neg fun ⟨hp, hi, _⟩ => h.elim (absurd hp) (absurd hi)⟩

theorem regBankWakeDone_spec {s : State} {c : CoreRef} {sl row lane : Nat} {off : Bool} {d : DWord} (hr : s.inReset = false)
    (hw : (s.core c).regPow.getD (sl, row, lane) .off = .waking off d) :
    (d.toNat ≤ (s.coreTime c).toNat → ∃ s' : State, exec (.regBankWakeDone c sl row lane) s = .next s' ∧
      (s'.core c).regPow.get? (sl, row, lane) =
        (if s.bankHeld c (sl, row, lane) = true ∨ s.transferIn c (sl, row, lane) = true then some .full else none) ∧ s'.mem = s.mem) ∧
    ((s.coreTime c).toNat < d.toNat → exec (.regBankWakeDone c sl row lane) s = .next s) := by
  have hexec := exec_regBankWakeDone c sl row lane s
  simp only [hw, Power.awake_waking_iff] at hexec
  refine ⟨fun hd => ?_, fun hd => hexec.trans (if_neg fun h => Nat.not_le.2 hd h.1)⟩
  have hnext := hexec.trans (if_pos ⟨hd, hr⟩)
  refine ⟨_, hnext, ?_, (execRegBankWakeDone_keeps c sl row lane s).mem hnext⟩
  rw [State.core_startHeld, State.settleBank_full]

theorem scrBankRetention_spec {s : State} (c : CoreRef) (n : Nat) (hr : s.inReset = false) :
    let p := (s.core c).scrPow.getD n (.off, 0)
    (p.1 = .full → p.2.toNat + 64000 ≤ (s.coreTime c).toNat →
      exec (.scrBankRetention c n) s = .next (s.modCore c fun k => { k with scrPow := k.scrPow.set n (.retention, p.2) })) ∧
    ((p.1 ≠ .full ∨ (s.coreTime c).toNat < p.2.toNat + 64000) → exec (.scrBankRetention c n) s = .next s) := by
  intro p
  rw [exec_scrBankRetention]
  exact ⟨fun hp hd => if_pos ⟨hp, hd, hr⟩, fun h => if_neg fun ⟨hp, hd, _⟩ => h.elim (absurd hp) (Nat.not_lt.2 hd)⟩

theorem scrBankWakeDone_spec {s : State} {c : CoreRef} {n : Nat} {off : Bool} {d : DWord} (hr : s.inReset = false)
    (hw : ((s.core c).scrPow.getD n (.off, 0)).1 = .waking off d) :
    (d.toNat ≤ (s.coreTime c).toNat → ∃ s' : State, exec (.scrBankWakeDone c n) s = .next s' ∧
      ((s'.core c).scrPow.getD n (.off, 0)).1 = .full ∧ s'.mem = s.mem) ∧
    ((s.coreTime c).toNat < d.toNat → exec (.scrBankWakeDone c n) s = .next s) := by
  have hexec := exec_scrBankWakeDone c n s
  simp only [hw, Power.awake_waking_iff] at hexec
  refine ⟨fun hd => ?_, fun hd => hexec.trans (if_neg fun h => Nat.not_le.2 hd h.1)⟩
  have hnext := hexec.trans (if_pos ⟨hd, hr⟩)
  refine ⟨_, hnext, ?_, (execScrBankWakeDone_keeps c n s).mem hnext⟩
  rw [State.core_startHeld, State.core_modCore_self, Dict.getD_set, if_pos rfl]

theorem tileWakeDone_spec {s : State} {c : CoreRef} {n : Nat} {off : Bool} {d : DWord} (hr : s.inReset = false)
    (hw : (s.core c).tilePow.getD n .off = .waking off d) :
    (d.toNat ≤ (s.coreTime c).toNat → exec (.tileWakeDone c n) s = .next (s.modCore c fun k => { k with tilePow := k.tilePow.set n .full })) ∧
    ((s.coreTime c).toNat < d.toNat → exec (.tileWakeDone c n) s = .next s) := by
  simp only [exec_tileWakeDone, hw, Power.awake_waking_iff]
  exact ⟨fun hd => if_pos ⟨hd, hr⟩, fun hd => if_neg fun h => Nat.not_le.2 hd h.1⟩

theorem bankEvents_inReset {s : State} (hr : s.inReset = true) (c : CoreRef) (n sl row lane : Nat) :
    exec (.regBankRetention c sl row lane) s = .next s ∧ exec (.scrBankRetention c n) s = .next s ∧
      exec (.regBankWakeDone c sl row lane) s = .next s ∧ exec (.scrBankWakeDone c n) s = .next s ∧ exec (.tileWakeDone c n) s = .next s := by
  simp [exec_regBankRetention, exec_scrBankRetention, exec_regBankWakeDone, exec_scrBankWakeDone, exec_tileWakeDone, hr]

/-! ### The statement -/

/-- Settles O49: each clause reads off what the event's equation leaves of the core, the slice or the bank it names. -/
theorem budgetsErrorsAndBanks : Obligations.BudgetsErrorsAndBanks := by
  refine ⟨⟨fun s c e => ⟨(budgetInterval_spec s c e).1, fun hup hdue => ?_⟩, fun s t x y hx hy => ?_⟩,
    fun s c => ⟨fun hr n sl row lane => bankEvents_inReset hr c n sl row lane, fun hr => ⟨fun sl row lane => ?_, ?_, ?_⟩⟩⟩
  · refine ⟨_, (budgetInterval_spec s c e).2 hup hdue, rfl, ?_⟩
    rw [State.core_modCore_self]
    refine ⟨rfl, ?_, fun h _ => Core.atInterval_energy _ _ _ h⟩
    rw [← pwLimit_eq]
    rfl
  · intro low q
    have hexec := exec_timingErrorDetect hx hy
    refine ⟨fun ht => hexec.trans (if_neg ht), s.errorGroup_eq_nil t.ccRef _, fun ht => ?_⟩
    obtain ⟨hstop, hdet, hn, hagain, herr⟩ := y.afterError_counts x.pc q (s.coreTime t.coreRef) (s.edges (htidSlice x.htid)) low
    obtain ⟨hmin, hstay⟩ := y.afterError_ratio x.pc q (s.coreTime t.coreRef) (s.edges (htidSlice x.htid)) low
    have hlow : pwNmin (s.core t.coreRef).pwrctl = low := pwNmin_eq _
    exact ⟨_, _, hexec.trans (if_pos ht), (s.detect_slice hy q).trans (by rw [hlow]), hstop, hdet, hn, hagain, herr, s.detect_threads t x y q,
      fun a => congrArg (Tab.get memDefault · a) (s.detect_mem t x y q), hmin, hstay, fun hy hp => s.detect_record (hy.trans hlow.symm) hp x q⟩
  · intro b held idle
    obtain ⟨hsleep, hstay⟩ := regBankRetention_spec c sl row lane hr
    have hidle : s.bankIdle c b = true ↔ idle := s.bankIdle_iff c b
    rw [hidle] at hsleep hstay
    exact ⟨hsleep, hstay, fun off d hw => (regBankWakeDone_spec hr hw).1, fun off d hw => (regBankWakeDone_spec hr hw).2⟩
  · rintro n p rfl
    obtain ⟨hsleep, hstay⟩ := scrBankRetention_spec c n hr
    exact ⟨hsleep, hstay, fun off d hw => (scrBankWakeDone_spec hr hw).1, fun off d hw => (scrBankWakeDone_spec hr hw).2⟩
  · exact fun n off d hw => tileWakeDone_spec hr hw

end Sys2Proof.Machine

namespace Sys2Proof.Machine
open Sys2Proof

/-! ## Instructions that stop or complete their thread (chapter 6)

What retirement, a wait and a trap do to the issuing thread, in the terms of the statements. -/

/-! ### Retiring, waiting and trapping -/

theorem OnlyBanks.thread? {s s' : State} (h : OnlyBanks s s') (u : TRef) : s'.thread? u = s.thread? u := by
  rw [h.rest]
  rfl

/-- A thread's record written between changes of bank power: only that thread changes. -/
theorem OnlyBanks.onlyThread {s a b : State} {t : TRef} {y : Thread} (h : OnlyBanks s a) (k : OnlyBanks (a.setThread t y) b) :
    b.thread? t = some y ∧ OnlyThread s b t := by
  have ha : a.setThread t y = { s.setThread t y with cores := a.cores } := congrArg (fun u : State => u.setThread t y) h.rest
  have hb : b = { s.setThread t y with cores := b.cores } := k.rest.trans (congrArg (fun u : State => { u with cores := b.cores }) ha)
  have frame {α : Type} (f : State → α) : f b = f { s.setThread t y with cores := b.cores } := congrArg f hb
  refine ⟨by rw [k.thread?, State.thread?_setThread_self], ⟨fun u hu => ?_, fun p => frame (·.memByte p), fun c => ?_, fun e he => ?_, ?_⟩⟩
  · rw [k.thread?, State.thread?_setThread_ne _ _ hu, h.thread?]
  · rw [k.cores, State.core_setThread, h.cores]
  · rwa [frame (·.regPois)] at he
  · rw [frame (·.threads), frame (·.regPois)]
    exact hb

theorem await_spec (s : State) (t : TRef) (x : Thread) (i : Instr) (ph : Phase) (deadline : Option DWord) :
    (s.await t x i ph deadline).thread? t = some (waiting s x i ph deadline) ∧ OnlyThread s (s.await t x i ph deadline) t :=
  OnlyBanks.onlyThread (wakeWindows_only ..) (.refl _)

theorem completesThen_of_exec {s s' : State} {i : Instr} {t : TRef} {x : Thread} {r : Res} {f : State → State}
    (h : exec i s = .next (f (s'.retire t x i.hints r))) : CompletesThen s' s i t x r f := by
  obtain ⟨u, y, hy, hr, ho, he⟩ := retire_spec s' t x i.hints r
  exact ⟨u, y, hy, hr, ho, by rw [h, he]⟩

theorem completesFrom_of_exec {s s' : State} {i : Instr} {t : TRef} {x : Thread} {r : Res}
    (h : exec i s = .next (s'.retire t x i.hints r)) : CompletesFrom s' s i t x r := completesThen_of_exec (f := id) h

theorem stands_of_exec {s : State} {i j : Instr} {t : TRef} {x : Thread} {ph : Phase} {deadline : Option DWord}
    (h : exec i s = .next (s.await t x j ph deadline)) : Stands s i t (waiting s x j ph deadline) :=
  have ⟨hy, ho⟩ := await_spec s t x j ph deadline
  ⟨_, hy, ho, h⟩

end Sys2Proof.Machine

namespace Sys2Proof.Machine
open Sys2Proof

/-! ## XGET and XSET (O43) -/

/-! ### Bits of a word -/

theorem bitsOf_eq (x hi lo : Nat) : bitsOf x hi lo = x / 2 ^ lo % 2 ^ (hi + 1 - lo) := by rw [bitsOf, Nat.shiftRight_eq_div_pow]

theorem bitsOf_low (x hi : Nat) : bitsOf x hi 0 = x % 2 ^ (hi + 1) := rfl

theorem getLsbD_31_eq (v : Word) : v.getLsbD 31 = decide (v.toNat / 2 ^ 31 = 1) := by
  have hv : v.toNat < 2 ^ 32 := v.isLt
  rw [BitVec.getLsbD, Nat.testBit_eq_decide_div_mod_eq, Nat.mod_eq_of_lt (by omega)]

/-! ### Predicates -/

theorem writtenP_map_range (f : Nat → Bool) (i : Nat) (hi : i < 15) :
    writtenP ((List.range 15).map fun i => (BitVec.ofNat 4 i, f i)) (BitVec.ofNat 4 i) = some (f i) := by
  interval_cases i <;> rfl

theorem xsetPred_spec {s : State} {t : TRef} {x : Thread} {g : Group} {h : Hints} {b : VReg} (hr : Runs s (.xsetPred h b) t x g) :
    ∃ y, (∀ i < 15, y.prd (BitVec.ofNat 4 i) = (x.rd b).getLsbD i) ∧ y.prd 15 = true ∧
      ∃ s', s'.thread? t = some y ∧ OnlyThread s s' t ∧ y.pc = x.pc + 12 ∧ exec (.xsetPred h b) s = .next (afterStep s' t x y.pc) := by
  obtain ⟨s', y, hy, hret, ho, he⟩ := gives_of_compute (.xsetPred h b) _ (fun _ => rfl) s t x g hr
  refine ⟨y, fun i hi => ?_, by rw [hret.preds]; rfl, s', hy, ho, hret.pc, he⟩
  have hpt : ((BitVec.ofNat 4 i : PReg) == 15) = false := by interval_cases i <;> rfl
  rw [hret.preds, writtenP_map_range _ i hi, hpt]
  rfl

/-! ### Barriers -/

theorem modNth_congr {α : Type} (l : List α) (n : Nat) (d : α) {f g : α → α} (h : f (l.getD n d) = g (l.getD n d)) :
    modNth l n f = modNth l n g := by
  induction l generalizing n with
  | nil => rfl
  | cons a l ih =>
    cases n with
    | zero => exact congrArg (· :: l) h
    | succ n => exact congrArg (a :: ·) (ih n h)

/-- What a change of a barrier does depends on the record that stands there only. -/
theorem State.modBar_congr (s : State) (g : GRef) (b : Bar) {f f' : BarRec → BarRec} (h : f (s.bar g b) = f' (s.bar g b)) :
    s.modBar g b f = s.modBar g b f' := by
  cases b with
  | nb n =>
    unfold State.modBar State.modGroup
    unfold State.bar at h
    cases hg : s.group? g with
    | none => rfl
    | some y =>
      simp only [hg] at h ⊢
      rw [modNth_congr _ _ _ h]
  | gb n =>
    unfold State.modBar State.modGang
    unfold State.bar at h
    cases hr : s.gangOf g with
    | none => rfl
    | some r =>
      cases hk : s.gang? r with
      | none => simp only [hk]
      | some k =>
        simp only [hr, hk] at h ⊢
        rw [modNth_congr _ _ _ h]

/-- STATE as an XSET leaves it (log 90). -/
theorem stateOf_eq (n : Nat) (deliver : List Nat) :
    (match n with | 1 => BarSt.counting | 2 => if deliver.isEmpty then .idle else .released | _ => .idle) =
      if n = 1 then .counting else if n = 2 ∧ deliver ≠ [] then .released else .idle := by
  split
  · rfl
  · cases deliver <;> rfl
  · next h1 h2 => rw [if_neg h1, if_neg fun h => h2 h.1]

/-- The fields of R345 in a word written to a barrier. -/
theorem BarRec.ofWord_fields (q : BarRec) (v : Word) :
    let r := q.ofWord v
    let w := v.toNat
    r.init = decide (w / 2 ^ 31 = 1) ∧ r.ph = decide (w / 2 ^ 30 % 2 = 1) ∧ r.arr = w / 4096 % 4096 ∧ r.cnt = w % 4096 ∧
      r.deliver = q.deliver ∧
      r.st = (if w / 2 ^ 28 % 4 = 1 then .counting else if w / 2 ^ 28 % 4 = 2 ∧ r.deliver ≠ [] then .released else .idle) ∧
      (w / 2 ^ 25 % 8 = 0 → r.scope = .grp) ∧ (w / 2 ^ 25 % 8 = 1 → r.scope = .quad) ∧ (w / 2 ^ 25 % 8 = 2 → r.scope = .die) ∧
      (w / 2 ^ 25 % 8 = 3 → r.scope = .pkg) := by
  intro r w
  have hw : w < 2 ^ 32 := v.isLt
  refine ⟨?_, ?_, bitsOf_eq w 23 12, ?_, rfl, ?_, ?_⟩
  · show (bitsOf w 31 31 == 1) = _
    rw [bitsOf_eq, Nat.mod_eq_of_lt (by omega)]
    rfl
  · show (bitsOf w 30 30 == 1) = _
    rw [bitsOf_eq]
    rfl
  · exact bitsOf_low w 11
  · have hst : bitsOf w 29 28 = w / 2 ^ 28 % 4 := bitsOf_eq ..
    rw [← hst]
    exact stateOf_eq ..
  · have hsc : bitsOf w 27 25 = w / 2 ^ 25 % 8 := bitsOf_eq ..
    rw [← hsc]
    refine ⟨fun h => ?_, fun h => ?_, fun h => ?_, fun h => ?_⟩ <;> simp only [r, BarRec.ofWord, w, h]

theorem xsetBar_spec {s : State} {t : TRef} {x : Thread} {h : Hints} {b : VReg} {bar : Bar} {sr : SReg}
    (hexec : exec (.xsetStruct h sr b) s =
      .next (((s.modBar t.group bar fun r => r.ofWord (x.rd b)).retire t x h {}).barCheck t.group bar)) :
    CompletesThen (s.modBar t.group bar fun _ => (s.bar t.group bar).ofWord (x.rd b)) s (.xsetStruct h sr b) t x {}
      fun s => s.barCheck t.group bar := by
  rw [s.modBar_congr t.group bar (f' := fun r => r.ofWord (x.rd b)) rfl]
  exact completesThen_of_exec hexec

/-! ### Convergence registers -/

/-- What a word written to a convergence register makes of it (R322, R408). -/
theorem CvRec.ofWord_eq (r : CvRec) (v : Word) (gsz : Nat) :
    let w := v.toNat
    let c := w / 2 ^ 16 % 256
    r.ofWord v gsz =
      if w / 2 ^ 31 = 0 then some { CvRec.clear with fence := r.fence }
      else if 16 ≤ c ∧ c ≤ 128 ∧ c % 16 = 0 ∧ w % 4096 + c ≤ gsz then
        some { r with decl := true, count := c, base := w % 4096, ready := false }
      else none := by
  intro w c
  have hw : w < 2 ^ 32 := v.isLt
  have hc : bitsOf v.toNat 23 16 = c := bitsOf_eq ..
  have hb : bitsOf v.toNat 11 0 = w % 4096 := bitsOf_low ..
  have hd : v.getLsbD 31 = decide (w / 2 ^ 31 = 1) := getLsbD_31_eq v
  rw [CvRec.ofWord, hc, hb, hd]
  obtain h | h : w / 2 ^ 31 = 0 ∨ w / 2 ^ 31 = 1 := by omega
  · rw [if_pos (by rw [h]; rfl), if_pos h]
  · have h0 : ¬ w / 2 ^ 31 = 0 := by omega
    rw [if_neg (by rw [h]; decide), if_neg h0]
    by_cases hf : 16 ≤ c ∧ c ≤ 128 ∧ c % 16 = 0 ∧ w % 4096 + c ≤ gsz
    · rw [if_neg (by omega), if_pos hf]
    · rw [if_pos (by omega), if_neg hf]

theorem State.anySigned_iff (s : State) (g : GRef) (cv : Nat) :
    s.anySigned g cv = true ↔ ∃ e ∈ s.threads, e.1.group = g ∧ e.2.signed cv ≠ none := by
  simp [State.anySigned, State.groupThreads, Option.isSome_iff_ne_none]

theorem xsetCv_spec {s : State} {t : TRef} {x : Thread} {g : Group} {h : Hints} {b : VReg} {q : BitVec 3}
    (hr : Runs s (.xsetStruct h (.cv q) b) t x g) :
    let i : Instr := .xsetStruct h (.cv q) b
    let w := (x.rd b).toNat
    let c := w / 2 ^ 16 % 256
    let fits := 16 ≤ c ∧ c ≤ 128 ∧ c % 16 = 0 ∧ w % 4096 + c ≤ g.gsz
    (w / 2 ^ 31 = 1 → ¬ fits → exec i s = .next (s.trapHere t x .badwin)) ∧
    ((w / 2 ^ 31 = 0 ∨ fits) →
      ((∃ e ∈ s.threads, e.1.group = t.group ∧ e.2.signed q.toNat ≠ none) → exec i s = .next (s.trapHere t x .mismatch)) ∧
      ((∀ e ∈ s.threads, e.1.group = t.group → e.2.signed q.toNat = none) →
        ((s.core t.coreRef).mmaOn t.group q.toNat = true → Stands s i t (waiting s x i (.cvIdle q.toNat) none)) ∧
        ((s.core t.coreRef).mmaOn t.group q.toNat = false → CompletesFrom (s.setGroup t.group (g.setCv q.toNat
          (if w / 2 ^ 31 = 0 then { CvRec.clear with fence := (g.cv q.toNat).fence }
           else { g.cv q.toNat with decl := true, count := c, base := w % 4096, ready := false }))) s i t x {}))) := by
  intro i w c fits
  have hexec : exec i s = .next (s.xsetCv t x g h q b) := issue_of_runs hr _
  have hword := (g.cv q.toNat).ofWord_eq (x.rd b) g.gsz
  rw [State.xsetCv] at hexec
  refine ⟨fun hd hn => ?_, fun hok => ?_⟩
  · have hnone : (g.cv q.toNat).ofWord (x.rd b) g.gsz = none := by rw [hword, if_neg (by omega), if_neg hn]
    rw [hexec, hnone]
  · have hsome : (g.cv q.toNat).ofWord (x.rd b) g.gsz = some (if w / 2 ^ 31 = 0 then { CvRec.clear with fence := (g.cv q.toNat).fence }
        else { g.cv q.toNat with decl := true, count := c, base := w % 4096, ready := false }) := by
      rw [hword]
      by_cases h0 : w / 2 ^ 31 = 0
      · rw [if_pos h0, if_pos h0]
      · rw [if_neg h0, if_neg h0, if_pos (hok.resolve_left h0)]
    rw [hsome] at hexec
    refine ⟨fun hs => ?_, fun hs => ?_⟩
    · rw [hexec]
      exact congrArg Host.Outcome.next (if_pos ((s.anySigned_iff ..).2 hs))
    · have hfree : s.anySigned t.group q.toNat = false := by
        rw [Bool.eq_false_iff, ne_eq, State.anySigned_iff]
        rintro ⟨e, he, hg, hsig⟩
        exact hsig (hs e he hg)
      simp only [hfree, Bool.false_eq_true, if_false] at hexec
      refine ⟨fun hbusy => ?_, fun hidle => ?_⟩
      · rw [if_pos hbusy] at hexec
        exact stands_of_exec hexec
      · rw [if_neg (by simp [hidle])] at hexec
        exact completesFrom_of_exec hexec

/-! ### The statement -/

/-- Settles O43: each register's word is put together, or taken apart, field by field. -/
theorem structuredRegisters : Obligations.StructuredRegisters := by
  intro s t x g h d b n m q
  refine ⟨fun hr => gives_of_compute _ _ (fun _ => rfl) s t x g hr, xsetPred_spec, fun bar hbar => ?_, fun hr => ?_, fun hr => ?_, fun hr => ?_,
    fun i hi hr => ?_⟩
  · obtain rfl | rfl : bar = .nb n ∨ bar = .gb m := by simpa using hbar
    · exact ⟨fun hr => completesFrom_of_exec (issue_of_runs hr _), fun hr => ⟨_, BarRec.ofWord_fields .., xsetBar_spec (issue_of_runs hr _)⟩⟩
    · exact ⟨fun hr => completesFrom_of_exec (issue_of_runs hr _), fun hr => ⟨_, BarRec.ofWord_fields .., xsetBar_spec (issue_of_runs hr _)⟩⟩
  · intro count
    have hword : s.structWord t x g (.jb n) = (if x.enrolled n then 2 ^ 31 else 0) + (if x.arrived n then 2 ^ 30 else 0)
        + count (fun y => y.arrived n) * 2 ^ 16 + count (fun y => y.enrolled n) := (Nat.add_assoc ..).symm
    rw [← hword]
    exact completesFrom_of_exec (issue_of_runs hr _)
  · exact completesThen_of_exec (f := fun s => s.rejoinCheck t.group n) (issue_of_runs hr _)
  · exact completesFrom_of_exec (issue_of_runs hr _)
  · subst hi
    exact xsetCv_spec hr

end Sys2Proof.Machine

namespace Sys2Proof.Machine
open Sys2Proof

/-! ## SLEEP and the rejoin barriers (O17) -/

/-! ### The end of a wait -/

theorem State.respond_threads (s : State) (t : TRef) : (s.respond t).threads = s.threads := by
  unfold State.respond
  split <;> rfl

/-- The record from which a thread's instruction retires at the end of its wait (R120). -/
def Thread.resumed (x : Thread) : Thread := { x with st := if x.st = .wait then x.back else x.st, ph := .none, deadline := none }

/-- A thread that is not stepping retires the instruction it waits at, and no other thread changes. -/
theorem State.finish_spec {s : State} {t : TRef} {x : Thread} (r : Res) (hx : s.thread? t = some x) (hstep : x.step = false) :
    (∃ y, (s.finish t r).thread? t = some y ∧ Retires x.resumed y x.curHints r) ∧
      ∀ u, u ≠ t → (s.finish t r).thread? u = s.thread? u := by
  obtain ⟨s', y, hy, hret, honly, he⟩ := retire_spec s t x.resumed x.curHints r
  have hs' : s.retire t x.resumed x.curHints r = s' := he.trans (if_neg (by simp [Thread.resumed, hstep]))
  have hthreads (u : TRef) : (s.finish t r).thread? u = s'.thread? u := by
    rw [State.finish]
    simp only [hx]
    rw [State.thread?, State.respond_threads, ← State.thread?, (wakeThreadBanks_only ..).thread?]
    exact congrArg (·.thread? u) hs'
  exact ⟨⟨y, by rw [hthreads, hy], hret⟩, fun u hu => by rw [hthreads, honly.others u hu]⟩

/-! ### Threads one after another -/

theorem Dict.mem_of_get? {κ α : Type} [DecidableEq κ] {t : Dict κ α} {k : κ} {v : α} (h : t.get? k = some v) : (k, v) ∈ t := by
  induction t with
  | nil => cases h
  | cons e t ih =>
    obtain ⟨j, w⟩ := e
    rw [Dict.get?] at h
    split at h
    · next hj => cases h; exact hj ▸ List.mem_cons_self ..
    · exact List.mem_cons_of_mem _ (ih h)

theorem Dict.get?_of_mem {κ α : Type} [DecidableEq κ] {t : Dict κ α} (hn : (t.map (·.1)).Nodup) {e : κ × α} (h : e ∈ t) :
    t.get? e.1 = some e.2 := by
  induction t with
  | nil => cases h
  | cons f t ih =>
    rw [List.map_cons, List.nodup_cons] at hn
    obtain rfl | h := List.mem_cons.1 h
    · exact if_pos rfl
    · refine (if_neg fun hj => hn.1 ?_).trans (ih hn.2 h)
      rw [hj]
      exact List.mem_map_of_mem h

/-- Where each step of a fold takes its own thread from x to some y with P x y and leaves every other alone, so does the fold. -/
theorem foldl_threads {P : Thread → Thread → Prop} {f : State → TRef × Thread → State} {l : List (TRef × Thread)}
    (hf : ∀ e ∈ l, ∀ s : State, s.thread? e.1 = some e.2 →
      (∃ y, (f s e).thread? e.1 = some y ∧ P e.2 y) ∧ ∀ u, u ≠ e.1 → (f s e).thread? u = s.thread? u)
    (hn : (l.map (·.1)).Nodup) {s : State} (hl : ∀ e ∈ l, s.thread? e.1 = some e.2) :
    (∀ e ∈ l, ∃ y, (l.foldl f s).thread? e.1 = some y ∧ P e.2 y) ∧ ∀ u, u ∉ l.map (·.1) → (l.foldl f s).thread? u = s.thread? u := by
  induction l generalizing s with
  | nil => exact ⟨fun _ h => absurd h List.not_mem_nil, fun _ _ => rfl⟩
  | cons a l ih =>
    rw [List.map_cons, List.nodup_cons] at hn
    obtain ⟨⟨y, hy, hp⟩, hothers⟩ := hf a (List.mem_cons_self ..) s (hl a (List.mem_cons_self ..))
    have hne : ∀ e ∈ l, e.1 ≠ a.1 := fun e he hea => hn.1 (hea ▸ List.mem_map_of_mem he)
    obtain ⟨hdone, hrest⟩ := ih (s := f s a) (fun e he => hf e (List.mem_cons_of_mem _ he)) hn.2
      fun e he => (hothers _ (hne e he)).trans (hl e (List.mem_cons_of_mem _ he))
    refine ⟨fun e he => ?_, fun u hu => ?_⟩
    · obtain rfl | he := List.mem_cons.1 he
      · exact ⟨y, by rw [List.foldl_cons, hrest _ hn.1, hy], hp⟩
      · exact hdone e he
    · rw [List.map_cons, List.mem_cons, not_or] at hu
      rw [List.foldl_cons, hrest u hu.2, hothers u hu.1]

/-! ### The release of a rejoin barrier -/

/-- The enrolled threads of a group. -/
def State.enrolledThreads (s : State) (g : GRef) (jb : BitVec 4) : List (TRef × Thread) := (s.groupThreads g).filter fun p => p.2.enrolled jb

theorem State.mem_enrolledThreads (s : State) (g : GRef) (jb : BitVec 4) (e : TRef × Thread) :
    e ∈ s.enrolledThreads g jb ↔ e ∈ s.threads ∧ e.1.group = g ∧ e.2.enrolled jb = true := by
  simp [State.enrolledThreads, State.groupThreads, and_comm]

/-- One thread goes on at the release of its barrier. -/
def State.rejoin (s : State) (jb : BitVec 4) (t : TRef) : State := (s.modThread t fun x => x.withdraw jb).finish t {}

theorem State.rejoinCheck_eq (s : State) (g : GRef) (jb : BitVec 4) : s.rejoinCheck g jb =
    let e := s.enrolledThreads g jb
    let a := e.filter fun p => p.2.arrived jb
    if a.isEmpty || a.length != e.length then s else a.foldl (fun s p => s.rejoin jb p.1) s := rfl

theorem State.rejoinCheck_of_missing {s : State} {g : GRef} {jb : BitVec 4}
    (h : ∃ e ∈ s.threads, e.1.group = g ∧ e.2.enrolled jb = true ∧ e.2.arrived jb = false) : s.rejoinCheck g jb = s := by
  obtain ⟨e, he, hg, hen, har⟩ := h
  have hlt : ((s.enrolledThreads g jb).filter fun p => p.2.arrived jb).length < (s.enrolledThreads g jb).length :=
    List.length_filter_lt_length_iff_exists.2 ⟨e, (s.mem_enrolledThreads g jb e).2 ⟨he, hg, hen⟩, by simp [har]⟩
  rw [State.rejoinCheck_eq]
  exact if_pos (by simp [hlt.ne])

theorem State.rejoinCheck_of_none_arrived {s : State} {g : GRef} {jb : BitVec 4}
    (h : ∀ e ∈ s.threads, e.1.group = g → e.2.enrolled jb = true → e.2.arrived jb = false) : s.rejoinCheck g jb = s := by
  have hnil : ((s.enrolledThreads g jb).filter fun p => p.2.arrived jb) = [] := List.filter_eq_nil_iff.2 fun e he => by
    obtain ⟨hmem, hg, hen⟩ := (s.mem_enrolledThreads g jb e).1 he
    simp [h e hmem hg hen]
  rw [State.rejoinCheck_eq]
  simp only [hnil]
  rfl

/-- Where every enrolled thread has arrived, they go on one after another. -/
theorem State.rejoinCheck_of_all_arrived {s : State} {g : GRef} {jb : BitVec 4}
    (h : ∀ e ∈ s.threads, e.1.group = g → e.2.enrolled jb = true → e.2.arrived jb = true) :
    s.rejoinCheck g jb = (s.enrolledThreads g jb).foldl (fun s p => s.rejoin jb p.1) s := by
  have hall : ((s.enrolledThreads g jb).filter fun p => p.2.arrived jb) = s.enrolledThreads g jb := List.filter_eq_self.2 fun e he => by
    obtain ⟨hmem, hg, hen⟩ := (s.mem_enrolledThreads g jb e).1 he
    exact h e hmem hg hen
  rw [State.rejoinCheck_eq]
  simp only [hall, bne_self_eq_false, Bool.or_false]
  cases s.enrolledThreads g jb <;> rfl

/-- A thread y has left a rejoin barrier at which x waited, and is behind its JWAIT. -/
def LeavesRejoin (jb : BitVec 4) (x y : Thread) : Prop :=
  y.enrolled jb = false ∧ y.arrived jb = false ∧ y.st = x.back ∧ y.ph = .none ∧ y.pc = x.pc + 12

theorem getLsbD_and_not_jbMask (v : BitVec 16) (jb : BitVec 4) : (v &&& ~~~(jbMask jb)).getLsbD jb.toNat = false := by
  have hlt : jb.toNat < 16 := jb.isLt
  have hbit : (jbMask jb).getLsbD jb.toNat = true := by
    rw [jbMask, BitVec.getLsbD_ofNat, Nat.testBit_two_pow_self, decide_eq_true hlt]
    rfl
  rw [BitVec.getLsbD_and, BitVec.getLsbD_not, hbit]
  simp

theorem State.rejoin_spec {s : State} {t : TRef} {x : Thread} (jb : BitVec 4) (hx : s.thread? t = some x) (hst : x.st = .wait)
    (hstep : x.step = false) :
    (∃ y, (s.rejoin jb t).thread? t = some y ∧ LeavesRejoin jb x y) ∧ ∀ u, u ≠ t → (s.rejoin jb t).thread? u = s.thread? u := by
  have hmod : (s.modThread t fun x => x.withdraw jb) = s.setThread t (x.withdraw jb) := by simp only [State.modThread, hx]
  rw [State.rejoin, hmod]
  obtain ⟨⟨y, hy, hret⟩, hothers⟩ :=
    State.finish_spec (s := s.setThread t (x.withdraw jb)) {} (State.thread?_setThread_self ..) (show (x.withdraw jb).step = false from hstep)
  refine ⟨⟨y, hy, ?_, ?_, ?_, ?_, hret.pc⟩, fun u hu => (hothers u hu).trans (State.thread?_setThread_ne _ _ hu)⟩
  · rw [Thread.enrolled, hret.rest]
    exact getLsbD_and_not_jbMask ..
  · rw [Thread.arrived, hret.rest]
    exact getLsbD_and_not_jbMask ..
  · rw [hret.rest]
    exact if_pos hst
  · rw [hret.rest]

theorem State.rejoinCheck_release {s : State} {g : GRef} {jb : BitVec 4} (hn : (s.threads.map (·.1)).Nodup)
    (h : ∀ e ∈ s.threads, e.1.group = g → e.2.enrolled jb = true →
      e.2.arrived jb = true ∧ e.2.ph = .rejoin jb.toNat ∧ e.2.st = .wait ∧ e.2.step = false)
    {t : TRef} {x : Thread} (hx : s.thread? t = some x) :
    (t.group = g ∧ x.enrolled jb = true → ∃ y, (s.rejoinCheck g jb).thread? t = some y ∧ LeavesRejoin jb x y) ∧
      (t.group ≠ g ∨ x.enrolled jb = false → (s.rejoinCheck g jb).thread? t = some x) := by
  rw [State.rejoinCheck_of_all_arrived fun e he hg hen => (h e he hg hen).1]
  have hsub : (s.enrolledThreads g jb).Sublist s.threads := List.filter_sublist.trans List.filter_sublist
  obtain ⟨hdone, hrest⟩ := foldl_threads (P := LeavesRejoin jb) (f := fun s p => s.rejoin jb p.1) (l := s.enrolledThreads g jb) (s := s)
    (fun e he u hu => by
      obtain ⟨hmem, hg, hen⟩ := (s.mem_enrolledThreads g jb e).1 he
      obtain ⟨-, -, hst, hstep⟩ := h e hmem hg hen
      exact State.rejoin_spec jb hu hst hstep)
    ((hsub.map _).nodup hn) fun e he => Dict.get?_of_mem hn (hsub.subset he)
  have hmem : (t, x) ∈ s.threads := Dict.mem_of_get? hx
  refine ⟨fun ⟨hg, hen⟩ => hdone (t, x) ((s.mem_enrolledThreads g jb _).2 ⟨hmem, hg, hen⟩), fun hout => (hrest t fun hin => ?_).trans hx⟩
  obtain ⟨e, he, rfl⟩ := List.mem_map.1 hin
  obtain ⟨hemem, hg, hen⟩ := (s.mem_enrolledThreads g jb e).1 he
  have hex : x = e.2 := Option.some.inj (hx.symm.trans (Dict.get?_of_mem hn hemem))
  simp [hg, hex, hen] at hout

/-! ### The instructions -/

/-- An instruction that changes its thread's sets retires from the changed record, and the release check follows. -/
theorem retire_then_check {s : State} {t : TRef} {x x' : Thread} {i : Instr} {f : State → State} (hstep : x'.step = x.step) (hh : x'.h = x.h)
    (he : exec i s = .next (f (s.retire t x' i.hints {}))) :
    ∃ s' y, s'.thread? t = some y ∧ Retires x' y i.hints {} ∧ OnlyThread s s' t ∧ exec i s = .next (f (afterStep s' t x y.pc)) := by
  obtain ⟨s', y, hy, hret, ho, hnext⟩ := completesThen_of_exec he
  refine ⟨s', y, hy, hret, ho, ?_⟩
  rw [hnext, afterStep, afterStep, hstep, hh]

theorem jwait_spec {s : State} {t : TRef} {x : Thread} {g : Group} {h : Hints} {jb : BitVec 4} (hr : Runs s (.jwait h jb) t x g) :
    (x.enrolled jb = false → Completes s (.jwait h jb) t x {}) ∧
    (x.enrolled jb = true → ∃ s', OnlyThread s s' t ∧ exec (.jwait h jb) s = .next (s'.rejoinCheck t.group jb) ∧
      s'.thread? t = some (waiting s (x.arrive jb) (.jwait h jb) (.rejoin jb.toNat) none)) := by
  have hexec : exec (.jwait h jb) s = if x.enrolled jb then
      .next ((s.await t (x.arrive jb) (.jwait h jb) (.rejoin jb.toNat) none).rejoinCheck t.group jb) else .next (s.retire t x h {}) :=
    issue_of_runs hr _
  refine ⟨fun hen => completesFrom_of_exec (hexec.trans (if_neg (by simp [hen]))), fun hen => ?_⟩
  obtain ⟨hy, ho⟩ := await_spec s t (x.arrive jb) (.jwait h jb) (.rejoin jb.toNat) none
  exact ⟨_, ho, hexec.trans (if_pos hen), hy⟩

theorem sleep_spec (s : State) (t : TRef) (x : Thread) (g : Group) (h : Hints) (a : Option VReg) (m : Word) :
    Runs s (.sleep h a m) t x g → let d := min (m.toNat + (match a with | some r => (x.rd r).toNat | none => 0)) (2 ^ 32 - 1)
    (d = 0 ∨ s.deadlineDue t x = true → Completes s (.sleep h a m) t x {}) ∧
    (d ≠ 0 → s.deadlineDue t x = false → Stands s (.sleep h a m) t (waiting s x (.sleep h a m) .sleep
      (some (s.ctxVtime t.ctxRef (s.coreTime t.coreRef) + BitVec.ofNat 64 ((d * 64 + 8) / 9))))) := by
  intro hr d
  have hexec : exec (.sleep h a m) s = if d = 0 ∨ s.deadlineDue t x = true then .next (s.retire t x h {})
      else .next (s.await t x (.sleep h a m) .sleep (some (s.deadlineOf t d))) := issue_of_runs hr _
  exact ⟨fun hover => completesFrom_of_exec (hexec.trans (if_pos hover)),
    fun hd hdue => stands_of_exec (hexec.trans (if_neg (by simp [hd, hdue])))⟩

/-- Settles O17: the instructions by their arms, the release as a fold over the enrolled threads, each of which it changes once. -/
theorem rejoinBarriersAndSleep : Obligations.RejoinBarriersAndSleep := by
  refine ⟨⟨fun s t x g h jb hr => ?_, fun s t x g h jb hr => ?_, fun _ _ _ _ _ _ hr => jwait_spec hr, fun s t x g h d jb hr => ?_,
    sleep_spec⟩,
    fun s g jb => ⟨State.rejoinCheck_of_missing, State.rejoinCheck_of_none_arrived, fun hn h t x hx => State.rejoinCheck_release hn h hx⟩⟩
  · exact retire_then_check (i := .jenrol h jb) (f := fun s => s.rejoinCheck t.group jb) (x := x) rfl rfl (issue_of_runs hr _)
  · exact retire_then_check (i := .jdrop h jb) (f := fun s => s.rejoinCheck t.group jb) (x := x) rfl rfl (issue_of_runs hr _)
  · intro n
    rw [Nat.add_assoc]
    exact completesFrom_of_exec (issue_of_runs hr _)

end Sys2Proof.Machine

namespace Sys2Proof.Machine
open Sys2Proof

/-! ## Traps (O18) -/

/-! ### A trap delivered to the handler -/

theorem takeTrap_spec {s : State} {t : TRef} {x : Thread} {g : Group} (c : Cause) (epc taddr : DWord) (tinfo : Word)
    (hx : s.thread? t = some x) (hg : s.group? t.group = some g) (hh : x.h = false) (hd : g.handler ≠ 0) :
    (s.takeTrap t c epc taddr tinfo).thread? t = some (x.trapped g.handler c epc taddr tinfo) ∧
      OnlyThread s (s.takeTrap t c epc taddr tinfo) t := by
  have htrap : s.takeTrap t c epc taddr tinfo = (s.setThread t (x.trapped g.handler c epc taddr tinfo)).wakeThreadBanks t := by
    simp only [State.takeTrap, hx, hg]
    exact if_neg (by simpa [hh] using hd)
  rw [htrap]
  exact OnlyBanks.onlyThread (.refl s) (wakeThreadBanks_only ..)

theorem stands_of_precise {s : State} {i : Instr} {t : TRef} {x : Thread} {g : Group} {c : Cause} {epc taddr : DWord} {tinfo : Word}
    (hr : Runs s i t x g) (hd : g.handler ≠ 0) (hh : x.h = false) (hpark : x.st ≠ .parked) (hload : s.unretired t = false)
    (he : exec i s = .next (s.precise t x c epc taddr tinfo)) : Stands s i t (x.trapped g.handler c epc taddr tinfo) := by
  have hprec : s.precise t x c epc taddr tinfo = s.takeTrap t c epc taddr tinfo := by simp [State.precise, hpark, hload]
  obtain ⟨hy, ho⟩ := takeTrap_spec c epc taddr tinfo hr.thread hr.group hh hd
  exact ⟨_, hy, ho, hprec ▸ he⟩

/-! ### A double trap ends the context (R397, R414) -/

theorem State.takeTrap_eq_doubleTrap {s : State} {t : TRef} {x : Thread} {g : Group} (c : Cause) (epc taddr : DWord) (tinfo : Word)
    (hx : s.thread? t = some x) (hg : s.group? t.group = some g) (h : x.h = true ∨ g.handler = 0) :
    s.takeTrap t c epc taddr tinfo = s.doubleTrap t x.htid c := by
  simp only [State.takeTrap, hx, hg]
  exact if_pos (by simpa using h)

theorem Dict.get?_filter_eq_none {κ α : Type} [DecidableEq κ] {t : Dict κ α} {p : κ × α → Bool} {k : κ} (h : ∀ v, p (k, v) = false) :
    Dict.get? (t.filter p) k = none := by
  rw [Option.eq_none_iff_forall_ne_some]
  intro v hv
  have hp := (List.mem_filter.1 (Dict.mem_of_get? hv)).2
  rw [h] at hp
  cases hp

theorem State.part_modPart_mc (s : State) (p q : Nat) {f : Part → Part} (hf : ∀ x, (f x).mc = x.mc) :
    ((s.modPart p f).part q).mc = (s.part q).mc := by
  rw [State.modPart, State.part, State.part, getD_modNth]
  split
  · exact hf _
  · rfl

/-- Only contexts change when a restore begins. -/
theorem State.startLoad_frame (s : State) (p : Nat) : s.startLoad p = { s with ctxs := (s.startLoad p).ctxs } := by
  unfold State.startLoad
  dsimp only
  repeat' split
  all_goals rfl

/-- Of them only the partition's next one. -/
theorem State.startLoad_ctx {s : State} {p : Nat} {c : CtxRef} (h : (s.part p).next ≠ some c.ctx) : (s.startLoad p).ctx c = s.ctx c := by
  have hmod (n : Nat) (f : Ctx → Ctx) (hn : (s.part p).next = some n) : (s.modCtx { part := p, ctx := n } f).ctx c = s.ctx c := by
    rw [State.modCtx, State.ctx_setCtx, if_neg]
    rintro rfl
    exact h hn
  unfold State.startLoad
  dsimp only
  split
  · next n _ hn =>
    split
    · rfl
    · split
      · exact hmod n _ hn
      · exact hmod n _ hn
      · split
        · rfl
        · exact hmod n _ hn
      · rfl
  · rfl

/-- What is freed and reset at the end of a context, before its partition gives up the cores. -/
def State.cleared (s : State) (c : CtxRef) (st : CSt) : State :=
  ((((s.freeCtx c).resetQueues c).resetKernels c).modCtx c fun x => { x with st := st, issueOff := false, shadow := [] }).dropMeta c

/-- A partition without one of its contexts. -/
def Part.without (p : Part) (ctx : Nat) : Part :=
  { p with running := if p.running = some ctx then none else p.running, next := if p.next = some ctx then none else p.next }

theorem State.endCtx_eq (s : State) (c : CtxRef) (st : CSt) :
    s.endCtx c st = ((s.cleared c st).modPart c.part fun p => p.without c.ctx).startLoad c.part := rfl

theorem State.endCtx_threads (s : State) (c : CtxRef) (st : CSt) : (s.endCtx c st).threads = s.threads.filter fun e => e.1.ctxRef ≠ c := by
  rw [State.endCtx_eq, State.startLoad_frame]
  rfl

theorem State.endCtx_thread? {s : State} {c : CtxRef} {u : TRef} (st : CSt) (h : u.ctxRef = c) : (s.endCtx c st).thread? u = none := by
  rw [State.thread?, State.endCtx_threads]
  exact Dict.get?_filter_eq_none fun _ => by simp [h]

theorem State.endCtx_mc (s : State) (c : CtxRef) (st : CSt) (q : Nat) : ((s.endCtx c st).part q).mc = (s.part q).mc := by
  rw [State.endCtx_eq, State.startLoad_frame]
  have hwithout := (s.cleared c st).part_modPart_mc c.part q (f := fun p => p.without c.ctx) fun _ => rfl
  exact hwithout.trans ((s.freeCtx c).part_modPart_mc c.part q fun _ => rfl)

theorem State.endCtx_st {s : State} {c : CtxRef} (st : CSt) (h : c.part < s.parts.length) : ((s.endCtx c st).ctx c).st = st := by
  have hlen : c.part < (s.cleared c st).parts.length := by
    show c.part < (modNth s.parts c.part _).length
    rwa [modNth_eq_modify, List.length_modify]
  rw [State.endCtx_eq, State.startLoad_ctx]
  · show (State.ctx ((s.freeCtx c).modCtx c fun x => { x with st := st, issueOff := false, shadow := [] }) c).st = st
    rw [State.modCtx, State.ctx_setCtx, if_pos rfl]
  · rw [State.part_modPart_self _ _ hlen, Part.without]
    dsimp only
    split
    · exact nofun
    · assumption

/-! ### Its record (R492, R493) -/

theorem State.mcRecord_mc {s : State} {p : Nat} (cls : McClass) (sev addr synd ctx unit : Nat) (h : p < s.parts.length) :
    ((s.mcRecord (some p) cls sev addr synd ctx unit).part p).mc =
      mcPush (s.part p).mc (mcBits s.time.gtime.toNat addr synd ctx (s.part p).mcSeq unit (some p) sev cls) := by
  rw [State.mcRecord, State.part_modPart_self _ _ h]

/-- The record before the last is still in the ring. -/
theorem mem_mcPush_mcPush (ring : List McRecord) (r q : McRecord) : r ∈ mcPush (mcPush ring r) q := by
  rw [mcPush]
  split
  · exact List.mem_append_left _ (mem_mcPush ring r)
  · next hfull =>
    rw [mcPush] at hfull ⊢
    split at hfull <;> rename_i hring
    · rw [if_pos hring, List.drop_append_of_le_length (by simp at hfull; omega)]
      simp
    · rw [if_neg hring, List.drop_append_of_le_length (by simp at hfull ⊢; omega)]
      simp

theorem McClass.code_lt (cls : McClass) : cls.code < 256 := by cases cls <;> decide

theorem mcBits_synd (gtime addr synd ctx seq unit sev p : Nat) (cls : McClass) :
    (mcBits gtime addr synd ctx seq unit (some p) sev cls).toNat / 2 ^ 320 % 2 ^ 64 = synd % 2 ^ 64 := by
  have hcode := cls.code_lt
  rw [mcBits, BitVec.toNat_ofNat]
  omega

theorem mcBits_ctx (gtime addr synd ctx seq unit sev p : Nat) (cls : McClass) :
    (mcBits gtime addr synd ctx seq unit (some p) sev cls).extractLsb' 240 16 = BitVec.ofNat 16 ctx := by
  have hcode := cls.code_lt
  apply BitVec.eq_of_toNat_eq
  rw [BitVec.extractLsb'_toNat, Nat.shiftRight_eq_div_pow, mcBits, BitVec.toNat_ofNat, BitVec.toNat_ofNat]
  omega

theorem mcBits_cause (gtime addr ctx seq unit sev p htid : Nat) (c : BitVec 8) (cls : McClass) :
    (mcBits gtime addr (c.toNat + htid * 2 ^ 16) ctx seq unit (some p) sev cls).extractLsb' 320 8 = c := by
  have hsynd := mcBits_synd gtime addr (c.toNat + htid * 2 ^ 16) ctx seq unit sev p cls
  have hc : c.toNat < 2 ^ 8 := c.isLt
  apply BitVec.eq_of_toNat_eq
  rw [BitVec.extractLsb'_toNat, Nat.shiftRight_eq_div_pow]
  omega

theorem mcBits_htid (gtime addr ctx seq unit sev p htid : Nat) (c : BitVec 8) (cls : McClass) :
    (mcBits gtime addr (c.toNat + htid * 2 ^ 16) ctx seq unit (some p) sev cls).extractLsb' 336 12 = BitVec.ofNat 12 htid := by
  have hsynd := mcBits_synd gtime addr (c.toNat + htid * 2 ^ 16) ctx seq unit sev p cls
  have hc : c.toNat < 2 ^ 8 := c.isLt
  apply BitVec.eq_of_toNat_eq
  rw [BitVec.extractLsb'_toNat, Nat.shiftRight_eq_div_pow, BitVec.toNat_ofNat]
  omega

/-- A double trap as its two records and the end of the context. -/
theorem State.doubleTrap_eq {s : State} {t : TRef} (htid : Nat) (c : Cause) (hact : (s.ctx t.ctxRef).st = .active) :
    s.doubleTrap t htid c =
      ((s.mcRecord (some t.part) .trap 2 0 (c.code.toNat + htid * 2 ^ 16) t.ctx (coreUnit t.core)).mcRecord (some t.part) .context 2 0
        c.code.toNat t.ctx 0).endCtx t.ctxRef .faulted := by
  rw [State.doubleTrap, State.faultCtx]
  exact if_pos (congrArg CSt.canFault hact)

theorem State.mcRecord_length (s : State) (p : Nat) (cls : McClass) (sev addr synd ctx unit : Nat) :
    (s.mcRecord (some p) cls sev addr synd ctx unit).parts.length = s.parts.length := by
  rw [State.mcRecord, State.modPart, modNth_eq_modify, List.length_modify]

theorem doubleTrap_spec {s : State} {t : TRef} (htid : Nat) (c : Cause) (hact : (s.ctx t.ctxRef).st = .active)
    (hp : t.part < s.parts.length) :
    ((s.doubleTrap t htid c).ctx t.ctxRef).st = .faulted ∧ (∀ u, u.ctxRef = t.ctxRef → (s.doubleTrap t htid c).thread? u = none) ∧
      ∃ r ∈ ((s.doubleTrap t htid c).part t.part).mc, r.extractLsb' 240 16 = BitVec.ofNat 16 t.ctx ∧ r.extractLsb' 184 8 = 4 ∧
        r.extractLsb' 320 8 = c.code ∧ r.extractLsb' 336 12 = BitVec.ofNat 12 htid := by
  rw [State.doubleTrap_eq htid c hact]
  refine ⟨State.endCtx_st _ ?_, fun u hu => State.endCtx_thread? _ hu, ?_⟩
  · rwa [State.mcRecord_length, State.mcRecord_length]
  · rw [State.endCtx_mc, State.mcRecord_mc _ _ _ _ _ _ (by rwa [State.mcRecord_length]), State.mcRecord_mc _ _ _ _ _ _ hp]
    exact ⟨_, mem_mcPush_mcPush .., mcBits_ctx .., mcBits_class .., mcBits_cause .., mcBits_htid ..⟩

/-! ### The statement -/

/-- Settles O18: with a handler a trap writes the thread's record, and without one it is a double trap, whose record stays in the ring. -/
theorem trapEntry : Obligations.TrapEntry := by
  refine ⟨fun s t x g c epc taddr tinfo hx hg => ⟨fun hh hd => ?_, fun hdouble hact hp => ?_⟩,
    fun s t x g h m hd hh hpark hload => ⟨fun hr => ?_, fun hr => ?_⟩⟩
  · exact (takeTrap_spec c epc taddr tinfo hx hg hh hd).symm
  · have hmem (a : Nat) : (s.takeTrap t c epc taddr tinfo).memByte a = s.memByte a :=
      congrArg (fun q : List Host.Cell × Tab Nat × Tab Bool => Tab.get memDefault q.1 a) (s.takeTrap_hbm t c epc taddr tinfo)
    rw [State.takeTrap_eq_doubleTrap c epc taddr tinfo hx hg hdouble] at hmem ⊢
    obtain ⟨hst, hthreads, hrecord⟩ := doubleTrap_spec x.htid c hact hp
    exact ⟨hst, hmem, hthreads, hrecord⟩
  · exact stands_of_precise hr hd hh hpark hload (issue_of_runs hr _)
  · exact stands_of_precise hr hd hh hpark hload (issue_of_runs hr _)

end Sys2Proof.Machine

namespace Sys2Proof.Machine
open Sys2Proof

/-! ## A rendezvous completes (O21)

GAP runs from issue (R93), so a thread that has waited keeps what is left of it when its instruction retires: `State.finish` retires from the record
that still names the instruction. The statement retires from `awake x`, which names none and so takes the hint's GAP anew. The two differ as soon as
the gap of a waiting thread has run down. -/

/-- An ELECT over the lanes of v1, with GAP 3. -/
def gapElect : Instr := .elect { Hints.none with gap := 3 } 0 (some 1)

/-- A thread that waits at `gapElect` for lanes 0 and 1, with some slice cycles of its GAP left. -/
def Thread.electing (x : Thread) (gap : Nat) : Thread :=
  { x.wr 1 3 with st := .wait, ph := .rendezvous 3 0 0, cur := some gapElect, gap := gap }

/-- The demo with lanes 0 and 1 at the ELECT: lane 0 came first, and its GAP has run down. -/
def gapRunDown : State :=
  let g := demoThread.group
  ((State.reset.demo .general).modThread (g.thread 0) fun x => x.electing 0).modThread (g.thread 1) fun x => x.electing 3

def gapPc : Pc := 0x100000

theorem gapRunDown_meets : ∀ l < 32, (3 : Word).getLsbD l = true → ∀ x ∈ gapRunDown.thread? (demoThread.group.thread (32 * 0 + l)),
    (x.meets gapPc 3).isSome = true ∧ x.step = false ∧ x.cur = some gapElect := by
  decide +kernel

theorem gapRunDown_waits : (gapRunDown.thread? (demoThread.group.thread 0)).map (·.st) = some .wait := by decide +kernel

/-- When the rendezvous completes, lane 0 goes on with no GAP left. -/
theorem gapRunDown_gap :
    ((gapRunDown.rendezvousCheck demoThread.group 0 gapPc 3).thread? (demoThread.group.thread 0)).map (·.gap) = some 0 := by
  decide +kernel

/-- Refutes O21: a member whose GAP has run down while it waited does not take the GAP of its hint again. -/
theorem not_crossLaneRendezvous : ¬ Obligations.CrossLaneRendezvous := by
  unfold Obligations.CrossLaneRendezvous
  rintro ⟨-, hcheck⟩
  obtain ⟨x, hx, hst⟩ := Option.map_eq_some_iff.1 gapRunDown_waits
  obtain ⟨-, hcomplete⟩ := hcheck gapRunDown demoThread.group 0 gapPc 3
  obtain ⟨-, -, hmembers, -⟩ := hcomplete fun l hl x hm hx _ => by
    obtain ⟨hmeets, hstep, hcur⟩ := gapRunDown_meets l hl hm x hx
    exact ⟨Option.isSome_iff_exists.1 hmeets, hstep, _, hcur⟩
  obtain ⟨y, m, i, hy, -, -, hcur, hret⟩ := hmembers 0 (by decide) x (by decide) hx (by rw [hst]; decide)
  have hhint : y.gap = 3 := by
    obtain ⟨-, -, hgap⟩ := gapRunDown_meets 0 (by decide) (by decide) x hx
    rw [hret.rest, Thread.curHints, hgap]
    rfl
  have hleft := gapRunDown_gap
  rw [show demoThread.group.thread 0 = demoThread.group.thread (32 * 0 + 0) from rfl, hy] at hleft
  simp [hhint] at hleft

end Sys2Proof.Machine

namespace Sys2Proof.Machine
open Sys2Proof

/-! ## What the members of a rendezvous take (O22) -/

/-! ### Words of lanes -/

theorem testBit_cons_bit (b : Bool) (n i : Nat) : ((if b then 1 else 0) + 2 * n).testBit i = if i = 0 then b else n.testBit (i - 1) := by
  cases i with
  | zero => cases b <;> simp [Nat.testBit_zero]
  | succ i =>
    rw [Nat.testBit_succ]
    have hhalf : ((if b then 1 else 0) + 2 * n) / 2 = n := by split <;> omega
    rw [hhalf]
    rfl

theorem testBit_foldr_bits (f : Nat → Bool) (n k i : Nat) :
    ((List.range' k n).foldr (fun i a => (if f i then 1 else 0) + 2 * a) 0).testBit i = (decide (i < n) && f (k + i)) := by
  induction n generalizing k i with
  | zero => simp
  | succ n ih =>
    rw [List.range'_succ, List.foldr_cons, testBit_cons_bit]
    cases i with
    | zero => simp
    | succ i => simp [ih, Nat.add_assoc, Nat.add_comm 1 i]

theorem getLsbD_ofBits (f : Nat → Bool) (i : Nat) : (ofBits f).getLsbD i = (decide (i < 32) && f i) := by
  rw [ofBits, BitVec.getLsbD_ofNat, List.range_eq_range', testBit_foldr_bits]
  simp

theorem getLsbD_foldl_lanes (l : List Nat) (w : Word) (i : Nat) :
    (l.foldl (fun w i => w ||| BitVec.ofNat 32 (2 ^ i)) w).getLsbD i = (w.getLsbD i || (decide (i < 32) && decide (i ∈ l))) := by
  induction l generalizing w with
  | nil => simp
  | cons j l ih =>
    rw [List.foldl_cons, ih, BitVec.getLsbD_or, BitVec.getLsbD_ofNat, Nat.testBit_two_pow]
    by_cases hi : i < 32
    · by_cases hj : j = i
      · simp [hi, hj]
      · simp [hi, hj, Ne.symm hj]
    · simp [hi]

/-- The lanes of some members, as a word. -/
theorem laneBits_filter (ms : List Member) (p : Member → Bool) :
    laneBits ((ms.filter p).map (·.lane)) = ofBits fun l => ms.any fun n => n.lane == l && p n := by
  apply BitVec.eq_of_getLsbD_eq
  intro i hi
  rw [getLsbD_ofBits, laneBits, getLsbD_foldl_lanes]
  have hmem : i ∈ (ms.filter p).map (·.lane) ↔ ∃ n ∈ ms, n.lane = i ∧ p n = true := by
    rw [List.mem_map]
    exact exists_congr fun n => by rw [List.mem_filter, and_assoc, and_comm (a := p n = true)]
  rw [Bool.eq_iff_iff]
  simp [hi, hmem]

/-! ### Members by lane -/

section Members

variable {ms : List Member} (hs : (ms.map (·.lane)).Pairwise (· < ·))
include hs

theorem eq_of_lane_eq {m n : Member} (hm : m ∈ ms) (hn : n ∈ ms) (h : m.lane = n.lane) : m = n :=
  List.inj_on_of_nodup_map (hs.imp fun hlt => Nat.ne_of_lt hlt) hm hn h

theorem memberVal_lane {n : Member} (hn : n ∈ ms) : memberVal ms n.lane = some n.a := by
  have hfind : ms.find? (fun m => m.lane == n.lane) = some n := by
    cases h : ms.find? (fun m => m.lane == n.lane) with
    | none => exact absurd (List.find?_eq_none.1 h n hn) (by simp)
    | some p => rw [eq_of_lane_eq hs (List.mem_of_find?_eq_some h) hn (by simpa using List.find?_some h)]
  rw [memberVal, hfind, Option.map_some]

omit hs in
theorem memberVal_none {l : Nat} (h : ∀ n ∈ ms, n.lane ≠ l) : memberVal ms l = none := by
  rw [memberVal, List.find?_eq_none.2 fun n hn => by simpa using h n hn, Option.map_none]

theorem shflVal_spec (hl : ∀ n ∈ ms, n.lane < 32) (op : ShflOp) (lane : Nat) (own b : Word) :
    let j := shflLane op lane b
    (j < 0 ∨ 31 < j → shflVal op ms lane own b = (own, false)) ∧
    (∀ n ∈ ms, (n.lane : Int) = j → shflVal op ms lane own b = (n.a, true)) ∧
    (0 ≤ j → j ≤ 31 → (∀ n ∈ ms, (n.lane : Int) ≠ j) → shflVal op ms lane own b = (0, false)) := by
  intro j
  refine ⟨fun hout => if_pos hout, fun n hn hj => ?_, fun hlo hhi hnone => ?_⟩
  · have hlane := hl n hn
    have hto : j.toNat = n.lane := by omega
    have hval : memberVal ms j.toNat = some n.a := by rw [hto, memberVal_lane hs hn]
    exact (if_neg (show ¬ (j < 0 ∨ 31 < j) by omega)).trans (by simp only [hval, j])
  · have hval : memberVal ms j.toNat = none := memberVal_none fun n hn hnj => hnone n hn (by omega)
    exact (if_neg (show ¬ (j < 0 ∨ 31 < j) by omega)).trans (by simp only [hval, j])

/-- The lowest member is the first of the list. -/
theorem head_lane_eq {m : Member} (hm : m ∈ ms) :
    ((ms.head?.map (·.lane)) == some m.lane) = ms.all fun n => decide (m.lane ≤ n.lane) := by
  cases ms with
  | nil => cases hm
  | cons a l =>
    rw [List.map_cons, List.pairwise_cons] at hs
    have hle : a.lane ≤ m.lane := by
      obtain rfl | h := List.mem_cons.1 hm
      · exact le_rfl
      · exact (hs.1 _ (List.mem_map_of_mem h)).le
    rw [Bool.eq_iff_iff]
    simp only [List.head?_cons, Option.map_some, beq_iff_eq, Option.some.injEq, List.all_eq_true, decide_eq_true_eq]
    refine ⟨fun h n hn => ?_, fun h => le_antisymm hle (h a (List.mem_cons_self ..))⟩
    obtain rfl | hn := List.mem_cons.1 hn
    · exact h.ge
    · exact h ▸ (hs.1 _ (List.mem_map_of_mem hn)).le

/-! ### MATCH -/

/-- By bits a member matches itself, so its own lane needs no clause. -/
theorem lane_or_value {m n : Member} (hm : m ∈ ms) (hn : n ∈ ms) : (n.lane == m.lane || n.a == m.a) = (n.a == m.a) := by
  by_cases h : n.lane = m.lane
  · simp [eq_of_lane_eq hs hn hm h]
  · simp [h]

end Members

theorem f32_cmpKey_eq_iff (a b : Word) : f32.cmpKey a.toNat = f32.cmpKey b.toNat ↔ a = b ∨ a <<< 1 = 0 ∧ b <<< 1 = 0 := by
  have ha : a.toNat < 2 ^ 32 := a.isLt
  have hb : b.toNat < 2 ^ 32 := b.isLt
  have hzero (w : Word) : w <<< 1 = 0 ↔ w.toNat * 2 % 2 ^ 32 = 0 := by
    rw [← BitVec.toNat_inj, BitVec.toNat_shiftLeft, Nat.shiftLeft_eq]
    simp
  rw [hzero, hzero, ← BitVec.toNat_inj]
  simp only [FFmt.cmpKey, FFmt.neg, FFmt.mag, f32, beq_iff_eq]
  split <;> split <;> omega

/-- Two values match by binary32 value: neither is a NaN, and they are one code or both zeros. -/
theorem lanesMatch_float (a b : Word) : lanesMatch true a b =
    (!f32.isNan a.toNat && !f32.isNan b.toNat && (a == b || (a <<< 1 == 0 && b <<< 1 == 0))) := by
  have hkey : (f32.cmpKey a.toNat == f32.cmpKey b.toNat) = (a == b || (a <<< 1 == 0 && b <<< 1 == 0)) := by
    rw [Bool.eq_iff_iff]
    simpa using f32_cmpKey_eq_iff a b
  rw [lanesMatch, if_pos rfl, hkey]

theorem lanesMatch_symm {fl : Bool} {a b : Word} (h : lanesMatch fl a b = true) : lanesMatch fl b a = true := by
  cases fl <;> simp_all [lanesMatch]

theorem lanesMatch_trans {fl : Bool} {a b c : Word} (h : lanesMatch fl a b = true) (k : lanesMatch fl b c = true) :
    lanesMatch fl a c = true := by
  cases fl <;> simp_all [lanesMatch]

/-- All members match one another where all match one of them. -/
theorem all_lanesMatch {ms : List Member} (hs : (ms.map (·.lane)).Pairwise (· < ·)) {m : Member} (hm : m ∈ ms) (fl : Bool) :
    (ms.all fun p => ms.all fun n => p.lane == n.lane || lanesMatch fl p.a n.a) =
      ms.all fun n => n.lane == m.lane || lanesMatch fl n.a m.a := by
  rw [Bool.eq_iff_iff]
  simp only [List.all_eq_true, Bool.or_eq_true, beq_iff_eq]
  refine ⟨fun h n hn => h n hn m hm, fun h p hp n hn => ?_⟩
  obtain hpm | hpm := h p hp
  · obtain rfl := eq_of_lane_eq hs hp hm hpm
    exact (h n hn).imp Eq.symm lanesMatch_symm
  · obtain hnm | hnm := h n hn
    · obtain rfl := eq_of_lane_eq hs hn hm hnm
      exact .inr hpm
    · exact .inr (lanesMatch_trans hpm (lanesMatch_symm hnm))

theorem matchVal_any {fl : Bool} {ms : List Member} {lane : Nat} {own : Word} {q : Member → Bool}
    (h : ∀ n ∈ ms, (n.lane == lane || lanesMatch fl n.a own) = q n) :
    matchVal .any fl ms lane own = ofBits fun l => ms.any fun n => n.lane == l && q n := by
  rw [matchVal, List.filter_congr h, laneBits_filter]

theorem matchVal_all {fl : Bool} {ms : List Member} (hs : (ms.map (·.lane)).Pairwise (· < ·)) {m : Member} (hm : m ∈ ms) {q : Member → Bool}
    (h : ∀ n ∈ ms, (n.lane == m.lane || lanesMatch fl n.a m.a) = q n) :
    matchVal .all fl ms m.lane m.a = if ms.all q then ofBits fun l => ms.any fun n => n.lane == l && true else 0 := by
  have hall : (ms.all fun n => n.lane == m.lane || lanesMatch fl n.a m.a) = ms.all q := by
    rw [Bool.eq_iff_iff, List.all_eq_true, List.all_eq_true]
    exact forall₂_congr fun n hn => by rw [h n hn]
  rw [matchVal, all_lanesMatch hs hm, hall, ← laneBits_filter, List.filter_true]

/-! ### The tree of R155 -/

/-- The leaves of the tree. -/
def leaves (xs : List Word) : List RVal := xs.map fun w => ⟨w, 0, 0⟩

section Tree

variable (op : RedOp) (ty : LTy)

theorem redTree_eq (xs : List Word) : redTree op ty xs = ((redStage op ty)^[5] (leaves xs)).headD ⟨0, 0, 0⟩ := rfl

omit op ty in
/-- A list with no two first elements, which a stage leaves as it is. -/
theorem redStage_base {l : List RVal} (h : ∀ x y r, l = x :: y :: r → False) : l = [] ∨ ∃ a, l = [a] :=
  match l with
  | [] => .inl rfl
  | [a] => .inr ⟨a, rfl⟩
  | x :: y :: r => (h x y r rfl).elim

theorem length_redStage (l : List RVal) : (redStage op ty l).length = (l.length + 1) / 2 := by
  induction l using redStage.induct with
  | case1 x y l ih => rw [redStage, List.length_cons, ih, List.length_cons, List.length_cons]; omega
  | case2 l h =>
    obtain rfl | ⟨a, rfl⟩ := redStage_base h
    · simp [redStage]
    · simp [redStage]

/-- A stage takes an even number of neighbours for themselves. -/
theorem redStage_append {l : List RVal} (h : l.length % 2 = 0) (r : List RVal) :
    redStage op ty (l ++ r) = redStage op ty l ++ redStage op ty r := by
  induction l using redStage.induct with
  | case1 x y l ih =>
    rw [List.cons_append, List.cons_append, redStage, redStage, ih (by simp at h; omega), List.cons_append]
  | case2 l hl =>
    obtain rfl | ⟨a, rfl⟩ := redStage_base hl
    · rfl
    · simp at h

theorem redStage_iterate_append (k : Nat) {l : List RVal} (h : l.length = 2 ^ k) (r : List RVal) :
    (redStage op ty)^[k] (l ++ r) = (redStage op ty)^[k] l ++ (redStage op ty)^[k] r := by
  induction k generalizing l r with
  | zero => rfl
  | succ k ih =>
    rw [Nat.pow_succ] at h
    rw [Function.iterate_succ_apply, Function.iterate_succ_apply, Function.iterate_succ_apply,
      redStage_append op ty (by rw [h]; omega)]
    exact ih (by rw [length_redStage]; omega) _

/-- k stages bring up to 2^k values down to one. -/
theorem redStage_iterate_single (k : Nat) {l : List RVal} (hpos : 0 < l.length) (hle : l.length ≤ 2 ^ k) :
    ∃ a, (redStage op ty)^[k] l = [a] := by
  induction k generalizing l with
  | zero => exact List.length_eq_one_iff.1 (le_antisymm hle hpos)
  | succ k ih =>
    rw [Nat.pow_succ] at hle
    exact ih (by rw [length_redStage]; omega) (by rw [length_redStage]; omega)

/-- The tree is done after as many stages as its values need. -/
theorem redStage_iterate_leaves {k : Nat} (hk : k ≤ 5) {xs : List Word} (hpos : 0 < xs.length) (hle : xs.length ≤ 2 ^ k) :
    (redStage op ty)^[k] (leaves xs) = [redTree op ty xs] := by
  obtain ⟨a, ha⟩ := redStage_iterate_single op ty k (l := leaves xs) (by simpa [leaves]) (by simpa [leaves])
  have hfix : (redStage op ty)^[5 - k] [a] = [a] := Function.iterate_fixed rfl _
  have hfive : (redStage op ty)^[5] (leaves xs) = [a] := by
    rw [← Nat.sub_add_cancel hk, Function.iterate_add_apply, ha, hfix]
  rw [redTree_eq, hfive, ha]
  rfl

theorem redTree_single (v : Word) : redTree op ty [v] = ⟨v, 0, 0⟩ := rfl

/-- Past 2^k values the tree joins that of the first 2^k with that of the others. -/
theorem redTree_split {k : Nat} {xs : List Word} (hlo : 2 ^ k < xs.length) (hhi : xs.length ≤ 2 ^ (k + 1)) (h32 : xs.length ≤ 32) :
    redTree op ty xs = redJoin op ty (redTree op ty (xs.take (2 ^ k))) (redTree op ty (xs.drop (2 ^ k))) := by
  have hk : k + 1 ≤ 5 := by
    have : 2 ^ k < 2 ^ 5 := by omega
    exact (Nat.pow_lt_pow_iff_right (by decide)).1 this
  have hpow : 2 ^ (k + 1) = 2 * 2 ^ k := Nat.pow_succ'
  have hpos : 0 < 2 ^ k := Nat.two_pow_pos k
  have hleaves : leaves xs = leaves (xs.take (2 ^ k)) ++ leaves (xs.drop (2 ^ k)) := by
    rw [leaves, leaves, leaves, ← List.map_append, List.take_append_drop]
  have hone := redStage_iterate_leaves op ty hk (xs := xs) (by omega) hhi
  rw [Function.iterate_succ_apply', hleaves, redStage_iterate_append op ty k (by simp [leaves]; omega),
    redStage_iterate_leaves op ty (by omega) (by simp; omega) (by simp),
    redStage_iterate_leaves op ty (by omega) (by simp; omega) (by simp; omega)] at hone
  exact (List.cons.inj hone).1.symm

/-! ### Operators that need no tree -/

variable {op ty} {f : Word → Word → Word}

/-- Leaves and joins of an exact operator raise no flag, and a stage keeps the fold of an associative one. -/
theorem redStage_fold (hf : ∀ x y, redApply op ty x y = ⟨f x y, 0, 0⟩) (hassoc : ∀ x y z, f (f x y) z = f x (f y z)) {l : List RVal}
    (h : ∀ r ∈ l, r.ff = 0 ∧ r.lx = 0) (e : Word) :
    (∀ r ∈ redStage op ty l, r.ff = 0 ∧ r.lx = 0) ∧ ((redStage op ty l).map (·.w)).foldl f e = (l.map (·.w)).foldl f e := by
  induction l using redStage.induct generalizing e with
  | case1 x y l ih =>
    simp only [List.mem_cons, forall_eq_or_imp] at h
    obtain ⟨⟨hxf, hxl⟩, ⟨hyf, hyl⟩, hl⟩ := h
    obtain ⟨hflags, hfold⟩ := ih hl (f e (f x.w y.w))
    have hjoin : redJoin op ty x y = ⟨f x.w y.w, 0, 0⟩ := by simp [redJoin, hf, hxf, hxl, hyf, hyl]
    rw [redStage, hjoin]
    refine ⟨?_, ?_⟩
    · simpa using hflags
    · simpa [hassoc] using hfold
  | case2 l hl =>
    obtain rfl | ⟨a, rfl⟩ := redStage_base hl
    · exact ⟨h, rfl⟩
    · exact ⟨h, rfl⟩

theorem redTree_fold (hf : ∀ x y, redApply op ty x y = ⟨f x y, 0, 0⟩) (hassoc : ∀ x y z, f (f x y) z = f x (f y z)) {e : Word}
    (he : ∀ x, f e x = x) {xs : List Word} (hpos : 0 < xs.length) (hle : xs.length ≤ 32) : redTree op ty xs = ⟨xs.foldl f e, 0, 0⟩ := by
  have hstages (k : Nat) : (∀ r ∈ (redStage op ty)^[k] (leaves xs), r.ff = 0 ∧ r.lx = 0) ∧
      (((redStage op ty)^[k] (leaves xs)).map (·.w)).foldl f e = xs.foldl f e := by
    induction k with
    | zero => simp [leaves, Function.comp_def]
    | succ k ih =>
      obtain ⟨hflags, hfold⟩ := ih
      rw [Function.iterate_succ_apply']
      exact (redStage_fold hf hassoc hflags e).imp id (·.trans hfold)
  obtain ⟨hflags, hfold⟩ := hstages 5
  rw [redStage_iterate_leaves op ty le_rfl hpos hle] at hflags hfold
  obtain ⟨hff, hlx⟩ := hflags _ (List.mem_singleton_self _)
  simp only [List.map_cons, List.map_nil, List.foldl_cons, List.foldl_nil, he] at hfold
  calc
    redTree op ty xs = ⟨(redTree op ty xs).w, (redTree op ty xs).ff, (redTree op ty xs).lx⟩ := rfl
    _ = ⟨xs.foldl f e, 0, 0⟩ := by rw [hfold, hff, hlx]

end Tree

/-! ### Minimum and maximum by a key -/

/-- The value of the smaller key; the left one on a tie. -/
def least (key : Word → Int) (x y : Word) : Word := if key y < key x then y else x

section Least

variable {key : Word → Int}

theorem key_least (x y : Word) : key (least key x y) = min (key x) (key y) := by
  unfold least
  split <;> omega

theorem least_assoc (hinj : Function.Injective key) (x y z : Word) : least key (least key x y) z = least key x (least key y z) :=
  hinj (by simp only [key_least, min_assoc])

theorem key_foldl_least (xs : List Word) (e : Word) :
    key (xs.foldl (least key) e) ≤ key e ∧ ∀ w ∈ xs, key (xs.foldl (least key) e) ≤ key w := by
  induction xs generalizing e with
  | nil => simp
  | cons x xs ih =>
    obtain ⟨he, hxs⟩ := ih (least key e x)
    rw [key_least (key := key)] at he
    exact ⟨by rw [List.foldl_cons]; omega, List.forall_mem_cons.2 ⟨by rw [List.foldl_cons]; omega, hxs⟩⟩

theorem le_key_foldl_least {v : Int} {xs : List Word} (h : ∀ w ∈ xs, v ≤ key w) {e : Word} (he : v ≤ key e) :
    v ≤ key (xs.foldl (least key) e) :=
  List.foldlRecOn xs (least key) (motive := fun w => v ≤ key w) he fun w hw x hx => by
    rw [key_least (key := key)]
    exact le_min hw (h x hx)

/-- The fold of a nonempty list is its least value. -/
theorem foldl_least_eq (hinj : Function.Injective key) {e : Word} (he : ∀ x, key x ≤ key e) {xs : List Word} {v : Word} (hv : v ∈ xs)
    (h : ∀ w ∈ xs, key v ≤ key w) : xs.foldl (least key) e = v :=
  hinj (le_antisymm ((key_foldl_least xs e).2 v hv) (le_key_foldl_least h (he v)))

theorem least_top (hinj : Function.Injective key) {e : Word} (he : ∀ x, key x ≤ key e) (x : Word) : least key e x = x := by
  unfold least
  split
  · rfl
  · next h => exact hinj (le_antisymm (not_lt.1 h) (he x))

end Least

/-! ### Folding members -/

/-- What REDUX and SCAN take of some values: the tree's value, or the operator's identity where there are none (R155). -/
def foldVal (op : RedOp) (ty : LTy) (xs : List Word) : RVal := if xs.isEmpty then ⟨scanIdentity op ty, 0, 0⟩ else redTree op ty xs

theorem foldVal_of_ne_nil (op : RedOp) (ty : LTy) {xs : List Word} (h : xs ≠ []) : foldVal op ty xs = redTree op ty xs :=
  if_neg (by simpa using h)

theorem foldVal_exact {op : RedOp} {ty : LTy} {f : Word → Word → Word} (hf : ∀ x y, redApply op ty x y = ⟨f x y, 0, 0⟩)
    (hassoc : ∀ x y z, f (f x y) z = f x (f y z)) (he : ∀ x, f (scanIdentity op ty) x = x) {xs : List Word} (hle : xs.length ≤ 32) :
    foldVal op ty xs = ⟨xs.foldl f (scanIdentity op ty), 0, 0⟩ := by
  cases xs with
  | nil => rfl
  | cons x xs => exact (foldVal_of_ne_nil op ty (List.cons_ne_nil x xs)).trans (redTree_fold hf hassoc he (Nat.succ_pos _) hle)

theorem foldVal_least {op : RedOp} {ty : LTy} {key : Word → Int} (hf : ∀ x y, redApply op ty x y = ⟨least key x y, 0, 0⟩)
    (hinj : Function.Injective key) (he : ∀ x, key x ≤ key (scanIdentity op ty)) {xs : List Word} (hle : xs.length ≤ 32) {v : Word}
    (hv : v ∈ xs) (h : ∀ w ∈ xs, key v ≤ key w) : foldVal op ty xs = ⟨v, 0, 0⟩ := by
  rw [foldVal_exact hf (least_assoc hinj) (least_top hinj he) hle, foldl_least_eq hinj he hv h]

theorem intOf_injective (u : Bool) : Function.Injective (intOf u) := by
  intro a b h
  cases u with
  | false => exact BitVec.eq_of_toInt_eq h
  | true => exact BitVec.eq_of_toNat_eq (Int.ofNat.inj h)

theorem imaxW_eq_least (u : Bool) : imaxW u = least fun w => -intOf u w := by
  funext a b
  simp only [imaxW, least, neg_lt_neg_iff]

/-- The type of the signed and of the unsigned 32-bit integers (R154). -/
def intTy : Bool → LTy
  | false => .b32
  | true => .n32

theorem intOf_le (u : Bool) (x : Word) : intOf u x ≤ intOf u (scanIdentity .min (intTy u)) := by
  cases u with
  | false => exact Int.le_of_lt_add_one (BitVec.toInt_lt (x := x))
  | true => exact Int.ofNat_le.2 (Nat.le_of_lt_succ x.isLt)

theorem le_intOf (u : Bool) (x : Word) : intOf u (scanIdentity .max (intTy u)) ≤ intOf u x := by
  cases u with
  | false => exact BitVec.le_toInt x
  | true => exact Int.natCast_nonneg _

/-- Over integers every operator folds exactly. -/
theorem foldVal_int (u : Bool) {xs : List Word} (hle : xs.length ≤ 32) :
    foldVal .add (intTy u) xs = ⟨xs.foldl (· + ·) 0, 0, 0⟩ ∧ foldVal .and (intTy u) xs = ⟨xs.foldl (· &&& ·) 0xFFFFFFFF, 0, 0⟩ ∧
    foldVal .or (intTy u) xs = ⟨xs.foldl (· ||| ·) 0, 0, 0⟩ ∧ foldVal .xor (intTy u) xs = ⟨xs.foldl (· ^^^ ·) 0, 0, 0⟩ ∧
    (∀ v ∈ xs, (∀ w ∈ xs, intOf u v ≤ intOf u w) → foldVal .min (intTy u) xs = ⟨v, 0, 0⟩) ∧
    (∀ v ∈ xs, (∀ w ∈ xs, intOf u w ≤ intOf u v) → foldVal .max (intTy u) xs = ⟨v, 0, 0⟩) := by
  have hadd : ∀ x y, redApply .add (intTy u) x y = ⟨x + y, 0, 0⟩ := by cases u <;> exact fun _ _ => rfl
  have hmin : ∀ x y, redApply .min (intTy u) x y = ⟨least (intOf u) x y, 0, 0⟩ := by cases u <;> exact fun _ _ => rfl
  have hmax : ∀ x y, redApply .max (intTy u) x y = ⟨least (fun w => -intOf u w) x y, 0, 0⟩ := by
    rw [← imaxW_eq_least]
    cases u <;> exact fun _ _ => rfl
  have hid : scanIdentity .add (intTy u) = 0 := by cases u <;> rfl
  refine ⟨?_, foldVal_exact (fun _ _ => rfl) BitVec.and_assoc (fun _ => BitVec.allOnes_and) hle,
    foldVal_exact (fun _ _ => rfl) BitVec.or_assoc (fun _ => BitVec.zero_or) hle,
    foldVal_exact (fun _ _ => rfl) BitVec.xor_assoc (fun _ => BitVec.zero_xor) hle,
    fun v hv h => foldVal_least hmin (intOf_injective u) (intOf_le u) hle hv h,
    fun v hv h => foldVal_least hmax (neg_injective.comp (intOf_injective u)) (fun x => neg_le_neg (le_intOf u x)) hle hv
      fun w hw => neg_le_neg (h w hw)⟩
  rw [← hid]
  exact foldVal_exact hadd BitVec.add_assoc (fun x => by rw [hid, zero_add]) hle

/-! ### The statement -/

theorem length_le_of_lanes {ms : List Member} (hs : (ms.map (·.lane)).Pairwise (· < ·)) (hl : ∀ n ∈ ms, n.lane < 32) : ms.length ≤ 32 := by
  have hsub : ms.map (·.lane) ⊆ List.range 32 := fun l h => by
    obtain ⟨n, hn, rfl⟩ := List.mem_map.1 h
    exact List.mem_range.2 (hl n hn)
  have hnodup : (ms.map (·.lane)).Nodup := hs.imp fun hlt => Nat.ne_of_lt hlt
  simpa using (hnodup.subperm hsub).length_le

theorem sliMinMax_eq (max : Bool) (x y : Word) :
    let a := sCanon x.toNat
    let b := sCanon y.toNat
    let second := if max then decide (sKey a < sKey b) else decide (sKey b < sKey a)
    BitVec.ofNat 32 (sliMinMax max x.toNat y.toNat) =
      if sIsNan a || sIsNan b then 1 else if second then BitVec.ofNat 32 b else BitVec.ofNat 32 a := by
  intro a b second
  rw [sliMinMax]
  cases max <;> simp only [second, apply_ite (BitVec.ofNat 32), Bool.false_eq_true, if_true, if_false, decide_eq_true_eq] <;> rfl

/-- What members take of integers, by operator. -/
theorem int_results {u : Bool} {xs : List Word} (hle : xs.length ≤ 32) {d : VReg} {F : RedOp → Res}
    (hF : ∀ op, F op = redRes d (foldVal op (intTy u) xs)) :
    F .add = vRes d (xs.foldl (· + ·) 0) ∧ F .and = vRes d (xs.foldl (· &&& ·) 0xFFFFFFFF) ∧
      F .or = vRes d (xs.foldl (· ||| ·) 0) ∧ F .xor = vRes d (xs.foldl (· ^^^ ·) 0) ∧
      (∀ v ∈ xs, (∀ w ∈ xs, intOf u v ≤ intOf u w) → F .min = vRes d v) ∧
      (∀ v ∈ xs, (∀ w ∈ xs, intOf u w ≤ intOf u v) → F .max = vRes d v) := by
  have htake {op : RedOp} {v : Word} (h : foldVal op (intTy u) xs = ⟨v, 0, 0⟩) : F op = vRes d v := (hF op).trans (congrArg (redRes d) h)
  obtain ⟨hadd, hand, hor, hxor, hmin, hmax⟩ := foldVal_int u hle
  exact ⟨htake hadd, htake hand, htake hor, htake hxor, fun v hv h => htake (hmin v hv h), fun v hv h => htake (hmax v hv h)⟩

/-- Settles O22: words of lanes by their bits, source lanes by the one member that has them, and the tree by its stages. -/
theorem crossLaneResults : Obligations.CrossLaneResults := by
  intro h ms m c hm hs hl vals upto below bits eqF tree
  have hlen : ms.length ≤ 32 := length_le_of_lanes hs hl
  have hpart (p : Member → Bool) : ((ms.filter p).map (·.a)).length ≤ 32 := by
    rw [List.length_map]
    exact (List.length_filter_le ..).trans hlen
  have hredux (op ty d a) : memberRes (.redux h op ty d a c) ms m = tree d (foldVal op ty vals) := by
    rw [foldVal_of_ne_nil op ty (List.ne_nil_of_mem (List.mem_map_of_mem hm))]
    rfl
  have hincl (op ty d a) : memberRes (.scan h op ty false d a c) ms m = tree d (foldVal op ty upto) := rfl
  have hexcl (op ty d a) : memberRes (.scan h op ty true d a c) ms m = tree d (foldVal op ty below) := rfl
  refine ⟨fun op vp d a b => ?_, fun d a => congrArg (vRes d) (laneBits_filter ms _), fun d a => ?_, fun d a => ?_, fun d a => ?_, fun d => ?_,
    fun d a => ?_, fun d a => ?_, fun d a => ?_, fun d a => ?_, fun _ _ _ _ => rfl, fun op ty d a => ?_, fun op ty d a hb => ?_,
    fun d a hb e he => ?_, fun op ty v => redTree_single op ty v, fun op ty k xs hlo hhi h32 => redTree_split op ty hlo hhi h32,
    fun x y => ⟨rfl, rfl, fun mx => ?_, fun mx => ?_⟩, fun ty hty => ?_⟩
  · intro j gives
    have hj : j = shflLane op m.lane m.b := by cases op <;> rfl
    have hgives {v : Word} {ok : Bool} (hval : shflVal op ms m.lane m.a m.b = (v, ok)) : gives v ok :=
      congrArg (fun r : Word × Bool => ({ vs := [(d, r.1)], ps := match vp with | some p => [(p, r.2)] | none => [] } : Res)) hval
    obtain ⟨hout, hmember, hnone⟩ := shflVal_spec hs hl op m.lane m.a m.b
    rw [← hj] at hout hmember hnone
    exact ⟨fun h => hgives (hout h), fun n hn h => hgives (hmember n hn h), fun hlo hhi h => hgives (hnone hlo hhi h)⟩
  · simp [memberRes, List.all_map]
  · simp [memberRes, List.any_map]
  · simp [memberRes, List.all_map, Function.comp_def, bne]
  · rw [memberRes, head_lane_eq hs hm]
  · exact congrArg (vRes d) (matchVal_any fun n hn => lane_or_value hs hm hn)
  · exact congrArg (vRes d) (matchVal_all hs hm fun n hn => lane_or_value hs hm hn)
  · exact congrArg (vRes d) (matchVal_any fun n _ => by rw [lanesMatch_float])
  · exact congrArg (vRes d) (matchVal_all hs hm fun n _ => by rw [lanesMatch_float])
  · rw [hincl, foldVal_of_ne_nil op ty (List.ne_nil_of_mem (List.mem_map_of_mem (List.mem_filter.2 ⟨hm, by simp⟩)))]
  · rw [hexcl, foldVal_of_ne_nil op ty hb]
  · have hid : scanIdentity e.1 e.2.1 = e.2.2 := by
      revert e
      decide
    rw [hexcl, hb, ← hid]
    rfl
  · cases mx <;> rfl
  · refine Eq.trans ?_ (congrArg (RVal.mk · 0 0) (sliMinMax_eq mx x y))
    cases mx <;> rfl
  · intro int folds d a
    obtain rfl | rfl : ty = .b32 ∨ ty = .n32 := by simpa using hty
    · exact ⟨int_results (u := false) (by simpa [vals]) fun op => hredux op _ d a, int_results (u := false) (hpart _) fun op => hincl op _ d a,
        int_results (u := false) (hpart _) fun op => hexcl op _ d a⟩
    · exact ⟨int_results (u := true) (by simpa [vals]) fun op => hredux op _ d a, int_results (u := true) (hpart _) fun op => hincl op _ d a,
        int_results (u := true) (hpart _) fun op => hexcl op _ d a⟩

end Sys2Proof.Machine

namespace Sys2Proof.Machine
open Sys2Proof

/-! ## Integer arithmetic results (O9)

An instruction of chapter 7 computes a word and writes it. Each operation of the model (`iaddW`, `idivW`, …) has its equations here, over words; the
statement then reads them off register by register, an immediate in the place of a source. -/

/-! ### What an instruction that only computes gives -/

/-- Where the model computes `u` and stores it as `mk` says, the instruction gives any `v` equal to it, stored so. -/
theorem gives_as {α : Type} (mk : α → Res) {i : Instr} {u v : Thread → α} (h : ∀ s, exec i s = compute s i fun x => mk (u x))
    (e : ∀ x, u x = v x) : Gives i fun x => mk (v x) :=
  funext e ▸ gives_of_compute i _ h

/-! ### Narrowing (R163) -/

theorem satInt_eq (x : Int) {lo hi : Int} (h : lo ≤ hi) : satInt x lo hi = max lo (min x hi) := by
  unfold satInt
  repeat' split
  all_goals omega

theorem narrow32_wrap (u : Bool) (x : Int) : narrow32 u false x = BitVec.ofInt 32 x := rfl

theorem narrow32_signed (x : Int) : narrow32 false true x = satI32 x := congrArg (BitVec.ofInt 32) (satInt_eq x (by decide))

theorem narrow32_unsigned (x : Int) : narrow32 true true x = satN32 x := congrArg (BitVec.ofInt 32) (satInt_eq x (by decide))

/-! ### Sums, differences and products modulo 2^32 -/

@[simp] theorem ofInt_intOf (u : Bool) (a : Word) : BitVec.ofInt 32 (intOf u a) = a := by
  cases u with
  | false => exact BitVec.ofInt_toInt
  | true => exact (BitVec.ofNat_toNat 32 a).trans (BitVec.setWidth_eq a)

theorem ofInt_sub_eq (x y : Int) : BitVec.ofInt 32 (x - y) = BitVec.ofInt 32 x - BitVec.ofInt 32 y := by
  rw [Int.sub_eq_add_neg, BitVec.ofInt_add, BitVec.ofInt_neg, BitVec.sub_eq_add_neg]

theorem iaddW_wrap (u : Bool) (a b : Word) : iaddW u false a b = a + b := by
  simp [iaddW, narrow32_wrap, BitVec.ofInt_add]

theorem isubW_wrap (u : Bool) (a b : Word) : isubW u false a b = a - b := by
  simp [isubW, narrow32_wrap, ofInt_sub_eq]

theorem imulW_eq (u : Bool) (a b : Word) : imulW u a b = a * b := by
  simp [imulW, narrow32_wrap, BitVec.ofInt_mul]

theorem imadW_wrap (u : Bool) (a b c : Word) : imadW u false a b c = a * b + c := by
  simp [imadW, narrow32_wrap, BitVec.ofInt_add, BitVec.ofInt_mul]

theorem imulhW_unsigned (a b : Word) : imulhW true a b = BitVec.ofNat 32 (a.toNat * b.toNat / 2 ^ 32) := by
  rw [← BitVec.ofInt_natCast]
  push_cast
  rfl

/-! ### Minimum, maximum and magnitude (R164) -/

theorem iminW_eq (u : Bool) (a b : Word) : iminW u a b = BitVec.ofInt 32 (min (intOf u a) (intOf u b)) := by
  rw [← key_least]
  exact (ofInt_intOf u _).symm

theorem imaxW_eq (u : Bool) (a b : Word) : imaxW u a b = BitVec.ofInt 32 (max (intOf u a) (intOf u b)) := by
  have hmax : intOf u (imaxW u a b) = max (intOf u a) (intOf u b) := by
    unfold imaxW
    split <;> omega
  rw [← hmax, ofInt_intOf]

theorem iminW_unsigned (a b : Word) : iminW true a b = BitVec.ofNat 32 (min a.toNat b.toNat) :=
  (iminW_eq true a b).trans (congrArg (BitVec.ofInt 32) (Nat.cast_min ..).symm)

theorem imaxW_unsigned (a b : Word) : imaxW true a b = BitVec.ofNat 32 (max a.toNat b.toNat) :=
  (imaxW_eq true a b).trans (congrArg (BitVec.ofInt 32) (Nat.cast_max ..).symm)

theorem iabsW_wrap (a : Word) : iabsW false a = if a.msb then -a else a := by
  rw [iabsW, narrow32_wrap, BitVec.msb_eq_toInt]
  by_cases h : a.toInt < 0
  · rw [Int.ofNat_natAbs_of_nonpos h.le, BitVec.ofInt_neg, BitVec.ofInt_toInt, if_pos (decide_eq_true h)]
  · rw [Int.natAbs_of_nonneg (not_lt.1 h), BitVec.ofInt_toInt, if_neg (by simpa using h)]

theorem inegW_wrap (a : Word) : inegW false a = -a := by
  rw [inegW, narrow32_wrap, BitVec.ofInt_neg, BitVec.ofInt_toInt]

/-! ### Division (R165) -/

theorem intOf_eq_zero_iff (u : Bool) (b : Word) : intOf u b = 0 ↔ b = 0 := by
  have h0 : intOf u 0 = 0 := by cases u <;> rfl
  rw [← h0, (intOf_injective u).eq_iff]

theorem idivW_zero (u : Bool) (a : Word) : idivW u a 0 = (BitVec.allOnes 32, a) := if_pos ((intOf_eq_zero_iff u 0).2 rfl)

/-- Away from its two corners, division gives the truncated quotient and its remainder. -/
theorem idivW_of_regular {u : Bool} {a b : Word} (hb : b ≠ 0) (h : ¬(u = false ∧ a = 0x80000000 ∧ b = 0xFFFFFFFF)) :
    idivW u a b = (BitVec.ofInt 32 ((intOf u a).tdiv (intOf u b)), BitVec.ofInt 32 ((intOf u a).tmod (intOf u b))) := by
  have hcorner : (!u && decide (intOf u a = -2 ^ 31) && decide (intOf u b = -1)) = false := by
    cases u with
    | true => rfl
    | false =>
      have ha : intOf false a = -2 ^ 31 ↔ a = 0x80000000 := (intOf_injective false).eq_iff (b := 0x80000000)
      have hb : intOf false b = -1 ↔ b = 0xFFFFFFFF := (intOf_injective false).eq_iff (b := 0xFFFFFFFF)
      simp only [ha, hb]
      simpa using h
  rw [Int.tmod_def, mul_comm (intOf u b)]
  simp only [idivW, if_neg (mt (intOf_eq_zero_iff u b).1 hb), hcorner, Bool.false_eq_true, if_false]

theorem idivW_unsigned (a b : Word) : idivW true a b =
    (if b = 0 then BitVec.allOnes 32 else BitVec.ofNat 32 (a.toNat / b.toNat), if b = 0 then a else BitVec.ofNat 32 (a.toNat % b.toNat)) := by
  by_cases hb : b = 0
  · subst hb
    exact idivW_zero true a
  · rw [if_neg hb, if_neg hb]
    exact idivW_of_regular hb (by simp)

theorem idivW_signed (a b : Word) : idivW false a b =
    (if b = 0 then BitVec.allOnes 32 else if a = 0x80000000 ∧ b = 0xFFFFFFFF then 0x80000000 else BitVec.ofInt 32 (a.toInt.tdiv b.toInt),
     if b = 0 then a else if a = 0x80000000 ∧ b = 0xFFFFFFFF then 0 else BitVec.ofInt 32 (a.toInt.tmod b.toInt)) := by
  by_cases hb : b = 0
  · subst hb
    exact idivW_zero false a
  · rw [if_neg hb, if_neg hb]
    by_cases hmin : a = 0x80000000 ∧ b = 0xFFFFFFFF
    · rw [if_pos hmin, if_pos hmin, hmin.1, hmin.2]
      decide
    · rw [if_neg hmin, if_neg hmin]
      exact idivW_of_regular hb fun h => hmin h.2

/-! ### The dot product (R166) -/

theorem signExt_eq_toInt (x n : Nat) : signExt x n = (BitVec.ofNat n x).toInt := rfl

theorem bitsOf_byte (x lo : Nat) : bitsOf x (lo + 7) lo = (BitVec.ofNat 8 (x >>> lo)).toNat := by
  rw [bitsOf, BitVec.toNat_ofNat, show lo + 7 + 1 - lo = 8 by omega]

theorem byteInt_eq (uns : Bool) (w : Word) (i : Nat) :
    byteInt uns w i = if uns then ((w.extractLsb' (8 * i) 8).toNat : Int) else (w.extractLsb' (8 * i) 8).toInt := by
  rw [byteInt, bitsOf_byte, signExt_eq_toInt]
  rfl

theorem dot4W_eq (sat ua ub : Bool) (a b c : Word) :
    let v := c.toInt + byteInt ua a 0 * byteInt ub b 0 + byteInt ua a 1 * byteInt ub b 1 + byteInt ua a 2 * byteInt ub b 2 +
      byteInt ua a 3 * byteInt ub b 3
    dot4W sat ua ub a b c = if sat then satI32 v else BitVec.ofInt 32 v := by
  cases sat with
  | false => rfl
  | true => exact narrow32_signed _

/-! ### The statement -/

/-- Settles O9: each instruction writes what the equation of its operation says. -/
theorem integerArithmeticResults : Obligations.IntegerArithmeticResults := by
  refine ⟨⟨fun _ _ _ _ _ => gives_as (vRes _) (fun _ => rfl) fun _ => iaddW_wrap ..,
    fun _ _ _ _ => gives_as (vRes _) (fun _ => rfl) fun _ => narrow32_signed _,
    fun _ _ _ _ => gives_as (vRes _) (fun _ => rfl) fun _ => narrow32_unsigned _,
    fun _ _ _ _ _ => gives_as (vRes _) (fun _ => rfl) fun _ => iaddW_wrap ..,
    fun _ _ _ _ => gives_as (vRes _) (fun _ => rfl) fun _ => narrow32_signed _,
    fun _ _ _ _ => gives_as (vRes _) (fun _ => rfl) fun _ => narrow32_unsigned _,
    fun _ _ _ _ _ => gives_as (vRes _) (fun _ => rfl) fun _ => isubW_wrap ..,
    fun _ _ _ _ => gives_as (vRes _) (fun _ => rfl) fun _ => narrow32_signed _,
    fun _ _ _ _ => gives_as (vRes _) (fun _ => rfl) fun _ => narrow32_unsigned _,
    fun _ _ _ _ _ => gives_as (vRes _) (fun _ => rfl) fun _ => isubW_wrap ..,
    fun _ _ _ _ => gives_as (vRes _) (fun _ => rfl) fun _ => narrow32_signed _,
    fun _ _ _ _ => gives_as (vRes _) (fun _ => rfl) fun _ => narrow32_unsigned _,
    fun _ _ _ _ _ => gives_as (vRes _) (fun _ => rfl) fun _ => imulW_eq ..,
    fun _ _ _ _ _ => gives_as (vRes _) (fun _ => rfl) fun _ => imulW_eq ..,
    fun _ _ _ _ => gives_as (vRes _) (fun _ => rfl) fun _ => rfl,
    fun _ _ _ _ => gives_as (vRes _) (fun _ => rfl) fun _ => imulhW_unsigned ..,
    fun _ _ _ _ => gives_as (vRes _) (fun _ => rfl) fun _ => rfl,
    fun _ _ _ _ => gives_as (vRes _) (fun _ => rfl) fun _ => imulhW_unsigned ..,
    fun _ _ _ _ _ _ => gives_as (vRes _) (fun _ => rfl) fun _ => imadW_wrap ..,
    fun _ _ _ _ _ => gives_as (vRes _) (fun _ => rfl) fun _ => narrow32_signed _,
    fun _ _ _ _ _ => gives_as (vRes _) (fun _ => rfl) fun _ => narrow32_unsigned _,
    fun _ _ _ => gives_as (vRes _) (fun _ => rfl) fun _ => iabsW_wrap _,
    fun _ _ _ => gives_as (vRes _) (fun _ => rfl) fun _ => narrow32_signed _,
    fun _ _ _ => gives_as (vRes _) (fun _ => rfl) fun _ => inegW_wrap _,
    fun _ _ _ => gives_as (vRes _) (fun _ => rfl) fun _ => narrow32_signed _,
    fun _ _ _ _ => gives_as (vRes _) (fun _ => rfl) fun _ => iminW_eq ..,
    fun _ _ _ _ => gives_as (vRes _) (fun _ => rfl) fun _ => iminW_unsigned ..,
    fun _ _ _ _ => gives_as (vRes _) (fun _ => rfl) fun _ => iminW_eq ..,
    fun _ _ _ _ => gives_as (vRes _) (fun _ => rfl) fun _ => iminW_unsigned ..,
    fun _ _ _ _ => gives_as (vRes _) (fun _ => rfl) fun _ => imaxW_eq ..,
    fun _ _ _ _ => gives_as (vRes _) (fun _ => rfl) fun _ => imaxW_unsigned ..,
    fun _ _ _ _ => gives_as (vRes _) (fun _ => rfl) fun _ => imaxW_eq ..,
    fun _ _ _ _ => gives_as (vRes _) (fun _ => rfl) fun _ => imaxW_unsigned ..⟩,
    fun _ _ _ _ => gives_as (vRes _) (fun _ => rfl) fun _ => congrArg Prod.fst (idivW_unsigned ..),
    fun _ _ _ _ => gives_as (vRes _) (fun _ => rfl) fun _ => congrArg Prod.snd (idivW_unsigned ..),
    fun _ _ _ _ => gives_as (vRes _) (fun _ => rfl) fun _ => congrArg Prod.fst (idivW_signed ..),
    fun _ _ _ _ => gives_as (vRes _) (fun _ => rfl) fun _ => congrArg Prod.snd (idivW_signed ..),
    fun _ _ _ _ _ _ _ _ => gives_as (vRes _) (fun _ => rfl) fun _ => ?_⟩
  simp only [← byteInt_eq]
  exact dot4W_eq ..

end Sys2Proof.Machine

namespace Sys2Proof.Machine
open Sys2Proof

/-! ## Logic, shift and bit-field results (O10) -/

/-- A word is the one whose bits it has. -/
theorem eq_ofBits {w : Word} {f : Nat → Bool} (h : ∀ i < 32, w.getLsbD i = f i) : w = ofBits f := by
  refine BitVec.eq_of_getLsbD_eq fun i hi => ?_
  rw [getLsbD_ofBits, h i hi, decide_eq_true hi, Bool.true_and]

/-! ### Logic (R168) -/

theorem getLsbD_andnot (a b : Word) {i : Nat} (hi : i < 32) : (a &&& ~~~b).getLsbD i = (a.getLsbD i && !b.getLsbD i) := by
  rw [BitVec.getLsbD_and, BitVec.getLsbD_not, decide_eq_true hi, Bool.true_and]

/-! ### Counts and reversal (R171) -/

theorem popcW_eq (a : Word) : popcW a = BitVec.ofNat 32 ((List.range 32).filter fun i => a.getLsbD i).length := by
  rw [popcW, List.countP_eq_length_filter]

theorem clzBits_zero (n : Nat) : clzBits 0 n = n := by
  induction n with
  | zero => rfl
  | succ n ih => rw [clzBits, ih, if_neg (by simp), Nat.add_comm]

/-- Of a nonzero word whose bits lie below n, the highest 1 bit stands at its logarithm. -/
theorem clzBits_eq {a : Word} (ha : a ≠ 0) {n : Nat} (hn : a.toNat < 2 ^ n) : clzBits a n = n - 1 - a.toNat.log2 := by
  have ha' : a.toNat ≠ 0 := fun h => ha (BitVec.eq_of_toNat_eq h)
  induction n with
  | zero => exact absurd hn (by omega)
  | succ n ih =>
    rw [clzBits]
    by_cases hlow : a.toNat < 2 ^ n
    · rw [BitVec.getLsbD, Nat.testBit_lt_two_pow hlow, if_neg Bool.false_ne_true, ih hlow]
      have hlog := (Nat.log2_lt ha').2 hlow
      omega
    · have hlog : a.toNat.log2 = n := (Nat.log2_eq_iff ha').2 ⟨not_lt.1 hlow, hn⟩
      have hbit : a.getLsbD n = true := hlog ▸ Nat.testBit_log2 ha'
      rw [hbit, hlog, if_pos rfl]
      omega

theorem clzW_eq (a : Word) : clzW a = if a = 0 then 32 else BitVec.ofNat 32 (31 - a.toNat.log2) := by
  by_cases ha : a = 0
  · rw [if_pos ha, ha, clzW, clzBits_zero]
    rfl
  · rw [if_neg ha, clzW, clzBits_eq ha a.isLt]

theorem brevW_eq (a : Word) : brevW a = ofBits fun i => a.getLsbD (31 - i) :=
  eq_ofBits fun i hi => by
    rw [brevW, BitVec.getLsbD_reverse, BitVec.getMsbD, decide_eq_true hi, Bool.true_and]

/-! ### Shifts and rotation (R169, R170) -/

theorem shlW_eq (a n : Word) : shlW a n = if n.toNat < 32 then BitVec.ofNat 32 (a.toNat * 2 ^ n.toNat) else 0 := by
  unfold shlW
  congr 1
  refine BitVec.eq_of_toNat_eq ?_
  rw [BitVec.toNat_shiftLeft, Nat.shiftLeft_eq, BitVec.toNat_ofNat]

theorem shrW_eq (a n : Word) : shrW a n = if n.toNat < 32 then BitVec.ofNat 32 (a.toNat / 2 ^ n.toNat) else 0 := by
  unfold shrW
  congr 1
  refine BitVec.eq_of_toNat_eq ?_
  rw [BitVec.toNat_ushiftRight, Nat.shiftRight_eq_div_pow, BitVec.toNat_ofNat, Nat.mod_eq_of_lt ((Nat.div_le_self ..).trans_lt a.isLt)]

theorem getLsbD_sshiftRight_word (a : Word) (n : Nat) {i : Nat} (hi : i < 32) :
    (a.sshiftRight n).getLsbD i = a.getLsbD (min (n + i) 31) := by
  rw [BitVec.getLsbD_sshiftRight, decide_eq_false (not_le.2 hi), Bool.not_false, Bool.true_and]
  split
  · next h => rw [Nat.min_eq_left (Nat.le_of_lt_succ h)]
  · next h => rw [Nat.min_eq_right (by omega), BitVec.msb_eq_getLsbD_last]

theorem sarW_eq (a n : Word) : sarW a n =
    if n.toNat < 32 then BitVec.ofInt 32 (a.toInt / (2 ^ n.toNat : Nat)) else if a.msb then BitVec.allOnes 32 else 0 := by
  unfold sarW
  split
  · next h => rw [Nat.min_eq_left h.le, BitVec.sshiftRight, Int.shiftRight_eq_div_pow]
  · next h =>
    rw [Nat.min_eq_right (not_lt.1 h)]
    refine BitVec.eq_of_getLsbD_eq fun i hi => ?_
    rw [getLsbD_sshiftRight_word a 32 hi, Nat.min_eq_right (by omega), BitVec.msb_eq_getLsbD_last]
    split
    · next hmsb => rw [BitVec.getLsbD_allOnes, decide_eq_true hi]; exact hmsb
    · next hmsb => rw [BitVec.ofNat_eq_ofNat, BitVec.getLsbD_zero]; exact Bool.eq_false_iff.2 hmsb

theorem rotW_eq (a n : Word) : rotW a n = ofBits fun i => a.getLsbD ((i + 32 - n.toNat % 32) % 32) := by
  refine eq_ofBits fun i hi => ?_
  rw [rotW, BitVec.getLsbD_rotateLeft, Nat.mod_mod]
  by_cases h : i < n.toNat % 32
  · rw [decide_eq_true h, cond_true]
    congr 1
    omega
  · rw [decide_eq_false h, cond_false, decide_eq_true hi, Bool.true_and]
    congr 1
    omega

theorem toNat_joint (a b : Word) : (a ++ b : DWord).toNat = a.toNat * 2 ^ 32 + b.toNat := by
  rw [BitVec.toNat_append, ← Nat.shiftLeft_add_eq_or_of_lt b.isLt, Nat.shiftLeft_eq]

theorem funnelW_left (a b c : Word) :
    funnelW false a b c = BitVec.ofNat 32 ((a.toNat * 2 ^ 32 + b.toNat) * 2 ^ min c.toNat 32 / 2 ^ 32) := by
  refine BitVec.eq_of_toNat_eq ?_
  simp only [funnelW, Bool.false_eq_true, if_false, BitVec.toNat_setWidth, BitVec.toNat_ushiftRight, BitVec.toNat_shiftLeft, toNat_joint,
    Nat.shiftLeft_eq, Nat.shiftRight_eq_div_pow, BitVec.toNat_ofNat]
  omega

theorem funnelW_right (a b c : Word) :
    funnelW true a b c = BitVec.ofNat 32 ((a.toNat * 2 ^ 32 + b.toNat) / 2 ^ min c.toNat 32) := by
  refine BitVec.eq_of_toNat_eq ?_
  simp only [funnelW, if_true, BitVec.toNat_setWidth, BitVec.toNat_ushiftRight, toNat_joint, Nat.shiftRight_eq_div_pow, BitVec.toNat_ofNat]

/-! ### Fields (R172, R173) -/

theorem bfeW_unsigned (a c : Word) : bfeW true a c = BitVec.ofNat 32 (a.toNat / 2 ^ fieldPos c % 2 ^ fieldLen c) := by
  have hf : (intOf true a / (2 ^ fieldPos c : Nat) % (2 ^ fieldLen c : Nat)).toNat = a.toNat / 2 ^ fieldPos c % 2 ^ fieldLen c := rfl
  rw [bfeW, hf]
  split
  · next h => rw [h, pow_zero, Nat.mod_one]; rfl
  · rfl

/-- A signed field of nonzero length is the word shifted down, cut to the field, and extended. -/
theorem bfeW_signed (a c : Word) : bfeW false a c =
    if fieldLen c = 0 then 0 else ((a.sshiftRight (fieldPos c)).setWidth (fieldLen c)).signExtend 32 := by
  have hlen : fieldLen c ≤ 32 := Nat.min_le_right ..
  have hfield : BitVec.ofNat (fieldLen c) (intOf false a / (2 ^ fieldPos c : Nat) % (2 ^ fieldLen c : Nat)).toNat =
      (a.sshiftRight (fieldPos c)).setWidth (fieldLen c) := by
    rw [← BitVec.signExtend_eq_setWidth_of_le _ hlen, BitVec.signExtend, BitVec.toInt_sshiftRight, Int.shiftRight_eq_div_pow]
    refine BitVec.eq_of_toNat_eq ?_
    rw [← BitVec.toNat_ofInt, BitVec.ofNat_toNat, BitVec.setWidth_eq]
    rfl
  rw [bfeW, signExt_eq_toInt, hfield]
  rfl

/-- Extending a field repeats its highest bit. -/
theorem getLsbD_signExtend_word {n : Nat} (x : BitVec n) {i : Nat} (hi : i < 32) :
    (x.signExtend 32).getLsbD i = x.getLsbD (min i (n - 1)) := by
  rw [BitVec.getLsbD_signExtend, decide_eq_true hi, Bool.true_and]
  split
  · next h => rw [Nat.min_eq_left (Nat.le_sub_one_of_lt h)]
  · next h => rw [Nat.min_eq_right (by omega), BitVec.msb_eq_getLsbD_last]

theorem bfeW_signed_bits (a c : Word) : bfeW false a c =
    ofBits fun i => fieldLen c != 0 && a.getLsbD (min (fieldPos c + min i (fieldLen c - 1)) 31) := by
  have hlen : fieldLen c ≤ 32 := Nat.min_le_right ..
  rw [bfeW_signed]
  refine eq_ofBits fun i hi => ?_
  by_cases h : fieldLen c = 0
  · simp [h]
  · rw [if_neg h, getLsbD_signExtend_word _ hi, BitVec.getLsbD_setWidth, decide_eq_true (by omega),
      getLsbD_sshiftRight_word _ _ (by omega), bne_iff_ne.2 h]

theorem getLsbD_fieldMask (p n : Nat) {i : Nat} (hi : i < 32) :
    ((BitVec.ofNat 32 (2 ^ n - 1)) <<< p : Word).getLsbD i = decide (p ≤ i ∧ i < p + n) := by
  rw [BitVec.getLsbD_shiftLeft, BitVec.getLsbD_ofNat, Nat.testBit_two_pow_sub_one, Bool.eq_iff_iff]
  simp only [Bool.and_eq_true, decide_eq_true_eq, Bool.not_eq_true', decide_eq_false_iff_not]
  omega

theorem bfiW_eq (a b c : Word) : bfiW a b c =
    ofBits fun i => if fieldPos c ≤ i ∧ i < fieldPos c + fieldLen c then b.getLsbD (i - fieldPos c) else a.getLsbD i := by
  refine eq_ofBits fun i hi => ?_
  unfold bfiW
  dsimp only
  split
  · rw [if_neg (by omega)]
  · rw [BitVec.getLsbD_or, getLsbD_andnot _ _ hi, BitVec.getLsbD_and, getLsbD_fieldMask _ _ hi, BitVec.getLsbD_shiftLeft]
    by_cases hin : fieldPos c ≤ i ∧ i < fieldPos c + fieldLen c
    · simp [hin, hi]
    · simp [hin]

/-! ### Bytes (R174) -/

/-- Bytes put together, least significant first, with their bits in their places. -/
theorem bytes_lt_and_testBit {f : Nat → Nat} (hf : ∀ k, f k < 2 ^ 8) (n : Nat) :
    (List.range n).foldl (fun x k => x + f k * 2 ^ (8 * k)) 0 < 2 ^ (8 * n) ∧
    ∀ i < 8 * n, ((List.range n).foldl (fun x k => x + f k * 2 ^ (8 * k)) 0).testBit i = (f (i / 8)).testBit (i % 8) := by
  induction n with
  | zero => exact ⟨Nat.one_pos, fun i hi => absurd hi (Nat.not_lt_zero i)⟩
  | succ n ih =>
    obtain ⟨hlt, hbits⟩ := ih
    rw [List.range_succ, List.foldl_append, List.foldl_cons, List.foldl_nil, Nat.add_comm, Nat.mul_comm (f n)]
    refine ⟨?_, fun i hi => ?_⟩
    · rw [Nat.mul_succ, Nat.pow_add]
      nlinarith [hf n, hlt]
    · rw [Nat.testBit_two_pow_mul_add _ hlt]
      split
      · next h => exact hbits i h
      · next h => rw [show i / 8 = n by omega, show i % 8 = i - 8 * n by omega]

theorem permByte_lt (a b : Word) (s : Nat) : permByte a b s < 2 ^ 8 := by
  have hx := (BitVec.ofNat 8 ((b ++ a : DWord).toNat >>> (8 * (s % 8)))).isLt
  unfold permByte
  rw [bitsOf_byte]
  dsimp only
  repeat' split
  all_goals omega

/-- Bit j of the source byte that a selector chooses. -/
def sourceBit (a b : Word) (s j : Nat) : Bool :=
  if s % 8 < 4 then a.getLsbD (8 * (s % 8) + j) else b.getLsbD (8 * (s % 8 - 4) + j)

theorem getLsbD_sourceByte (a b : Word) (s : Nat) {j : Nat} (hj : j < 8) :
    (BitVec.ofNat 8 ((b ++ a : DWord).toNat >>> (8 * (s % 8)))).getLsbD j = sourceBit a b s j := by
  rw [BitVec.getLsbD_ofNat, decide_eq_true hj, Bool.true_and, Nat.testBit_shiftRight, BitVec.testBit_toNat, BitVec.getLsbD_append, sourceBit]
  by_cases h : s % 8 < 4
  · rw [if_pos (by omega), if_pos h]
  · rw [if_neg (by omega), if_neg h]
    congr 1
    omega

theorem testBit_permByte (a b : Word) {s j : Nat} (hj : j < 8) :
    (permByte a b s).testBit j = if s < 8 then sourceBit a b s j else sourceBit a b s 7 := by
  rw [← getLsbD_sourceByte a b s hj, ← getLsbD_sourceByte a b s (by decide : 7 < 8), permByte, bitsOf_byte]
  generalize BitVec.ofNat 8 ((b ++ a : DWord).toNat >>> (8 * (s % 8))) = x
  split
  · rfl
  · have hmsb : x.getLsbD 7 = decide (128 ≤ x.toNat) := (BitVec.msb_eq_getLsbD_last x).symm.trans (BitVec.msb_eq_decide x)
    rw [hmsb]
    split
    · next h => rw [decide_eq_true h]; interval_cases j <;> rfl
    · next h => rw [decide_eq_false h]; exact Nat.zero_testBit j

theorem permW_eq (a b c : Word) : permW a b c = ofBits fun i =>
    let n := c.toNat / 16 ^ (i / 8) % 16
    if n < 8 then sourceBit a b n (i % 8) else sourceBit a b n 7 := by
  refine eq_ofBits fun i hi => ?_
  have hnib : bitsOf c.toNat (4 * (i / 8) + 3) (4 * (i / 8)) = c.toNat / 16 ^ (i / 8) % 16 := by
    rw [bitsOf_eq, Nat.pow_mul, show 4 * (i / 8) + 3 + 1 - 4 * (i / 8) = 4 by omega]
    rfl
  rw [permW, BitVec.getLsbD_ofNat, decide_eq_true hi, Bool.true_and, (bytes_lt_and_testBit (fun k => permByte_lt a b _) 4).2 i hi, hnib,
    testBit_permByte a b (Nat.mod_lt i (by decide))]

/-! ### The statement -/

/-- Settles O10: each instruction writes what the equation of its operation says, an immediate in the place of a source. -/
theorem logicShiftFieldResults : Obligations.LogicShiftFieldResults := by
  have hand (a b : Word) : a &&& b = ofBits fun i => a.getLsbD i && b.getLsbD i := eq_ofBits fun _ _ => BitVec.getLsbD_and
  have hor (a b : Word) : a ||| b = ofBits fun i => a.getLsbD i || b.getLsbD i := eq_ofBits fun _ _ => BitVec.getLsbD_or
  have hxor (a b : Word) : a ^^^ b = ofBits fun i => a.getLsbD i != b.getLsbD i := eq_ofBits fun _ _ => BitVec.getLsbD_xor
  have handn (a b : Word) : a &&& ~~~b = ofBits fun i => a.getLsbD i && !b.getLsbD i := eq_ofBits fun _ hi => getLsbD_andnot a b hi
  have hnot (a : Word) : ~~~a = ofBits fun i => !a.getLsbD i := eq_ofBits fun _ hi => by
    rw [BitVec.getLsbD_not, decide_eq_true hi, Bool.true_and]
  exact ⟨fun _ _ _ _ => gives_as (vRes _) (fun _ => rfl) fun _ => hand ..,
    fun _ _ _ _ => gives_as (vRes _) (fun _ => rfl) fun _ => hand ..,
    fun _ _ _ _ => gives_as (vRes _) (fun _ => rfl) fun _ => hor ..,
    fun _ _ _ _ => gives_as (vRes _) (fun _ => rfl) fun _ => hor ..,
    fun _ _ _ _ => gives_as (vRes _) (fun _ => rfl) fun _ => hxor ..,
    fun _ _ _ _ => gives_as (vRes _) (fun _ => rfl) fun _ => hxor ..,
    fun _ _ _ _ => gives_as (vRes _) (fun _ => rfl) fun _ => handn ..,
    fun _ _ _ _ => gives_as (vRes _) (fun _ => rfl) fun _ => handn ..,
    fun _ _ _ => gives_as (vRes _) (fun _ => rfl) fun _ => hnot _,
    fun _ _ _ => gives_as (vRes _) (fun _ => rfl) fun _ => popcW_eq _,
    fun _ _ _ => gives_as (vRes _) (fun _ => rfl) fun _ => clzW_eq _,
    fun _ _ _ => gives_as (vRes _) (fun _ => rfl) fun _ => brevW_eq _,
    fun _ _ _ _ => gives_as (vRes _) (fun _ => rfl) fun _ => shlW_eq ..,
    fun _ _ _ _ => gives_as (vRes _) (fun _ => rfl) fun _ => shlW_eq ..,
    fun _ _ _ _ => gives_as (vRes _) (fun _ => rfl) fun _ => shrW_eq ..,
    fun _ _ _ _ => gives_as (vRes _) (fun _ => rfl) fun _ => shrW_eq ..,
    fun _ _ _ _ => gives_as (vRes _) (fun _ => rfl) fun _ => sarW_eq ..,
    fun _ _ _ _ => gives_as (vRes _) (fun _ => rfl) fun _ => sarW_eq ..,
    fun _ _ _ _ => gives_as (vRes _) (fun _ => rfl) fun _ => rotW_eq ..,
    fun _ _ _ _ => gives_as (vRes _) (fun _ => rfl) fun _ => rotW_eq ..,
    fun _ _ _ _ _ => gives_as (vRes _) (fun _ => rfl) fun _ => funnelW_left ..,
    fun _ _ _ _ _ => gives_as (vRes _) (fun _ => rfl) fun _ => funnelW_right ..,
    fun _ _ _ _ => gives_as (vRes _) (fun _ => rfl) fun _ => bfeW_unsigned ..,
    fun _ _ _ _ => gives_as (vRes _) (fun _ => rfl) fun _ => bfeW_unsigned ..,
    fun _ _ _ _ => gives_as (vRes _) (fun _ => rfl) fun _ => bfeW_signed_bits ..,
    fun _ _ _ _ => gives_as (vRes _) (fun _ => rfl) fun _ => bfeW_signed_bits ..,
    fun _ _ _ _ _ => gives_as (vRes _) (fun _ => rfl) fun _ => bfiW_eq ..,
    fun _ _ _ _ _ => gives_as (vRes _) (fun _ => rfl) fun _ => permW_eq ..⟩

end Sys2Proof.Machine

namespace Sys2Proof.Machine
open Sys2Proof

/-! ## Selection, comparison, move and address results (O11) -/

/-! ### Comparisons and predicates (R176 to R178) -/

theorem cmpInt_eq_holds (c : Cmp) (a b : Int) : cmpInt c a b = holds c a b := by
  cases c with
  | eq => rfl
  | ne => exact decide_not
  | lt => rfl
  | le => exact (decide_eq_decide.2 not_lt.symm).trans decide_not
  | gt => rfl
  | ge => exact (decide_eq_decide.2 not_lt.symm).trans decide_not

theorem plopB_eq (lut : BitVec 8) (a b c : Bool) : plopB lut a b c = lut.getLsbD (4 * a.toNat + 2 * b.toNat + c.toNat) := by
  cases a <;> cases b <;> cases c <;> rfl

theorem bne_zero_word (w : Word) : (w != 0) = decide (w ≠ 0) := decide_not.symm

theorem predWord_bne_zero (b : Bool) : ((if b then 1 else 0 : Word) != 0) = b := by cases b <;> rfl

theorem signExtend_bne_zero (v : BitVec 9) : (v.signExtend 32 != 0) = decide (v ≠ 0) := by
  have hzero : v.signExtend 32 = 0 ↔ v = 0 := by
    rw [← BitVec.toInt_inj, BitVec.toInt_signExtend_of_le (by decide), ← BitVec.toInt_inj]
    rfl
  exact (bne_zero_word _).trans (decide_eq_decide.2 (not_congr hzero))

/-! ### Addresses (R167) -/

theorem ofInt_toNat_add (a : DWord) (x : Int) : BitVec.ofInt 64 (a.toNat + x) = a + BitVec.ofInt 64 x := by
  rw [BitVec.ofInt_add, BitVec.ofInt_natCast, BitVec.ofNat_toNat, BitVec.setWidth_eq]

theorem leaW_signed (s : Nat) (a : DWord) (b : Word) : leaW false s a b = BitVec.ofInt 64 (a.toNat + b.toInt * 2 ^ s) := by
  rw [ofInt_toNat_add, leaW, Nat.cast_pow]
  rfl

theorem leaW_unsigned (s : Nat) (a : DWord) (b : Word) : leaW true s a b = BitVec.ofNat 64 (a.toNat + b.toNat * 2 ^ s) := by
  rw [← BitVec.ofInt_natCast, Nat.cast_add, ofInt_toNat_add, Nat.cast_mul]
  rfl

theorem add_signExtend_eq (a : DWord) (m : Word) : a + m.signExtend 64 = BitVec.ofInt 64 (a.toNat + m.toInt) :=
  (ofInt_toNat_add a m.toInt).symm

/-! ### The statement -/

/-- Settles O11: each instruction writes what the equation of its operation says. -/
theorem selectMoveAddressResults : Obligations.SelectMoveAddressResults :=
  ⟨fun _ _ _ _ _ => gives_of_compute _ _ fun _ => rfl,
    fun _ _ _ _ _ => gives_as (boolRes _) (fun _ => rfl) fun _ => cmpInt_eq_holds ..,
    fun _ _ _ _ _ => gives_as (boolRes _) (fun _ => rfl) fun _ => cmpInt_eq_holds ..,
    fun _ _ _ _ _ => gives_as (boolRes _) (fun _ => rfl) fun _ => cmpInt_eq_holds ..,
    fun _ _ _ _ _ => gives_as (boolRes _) (fun _ => rfl) fun _ => cmpInt_eq_holds ..,
    fun _ _ _ _ _ _ => gives_as (boolRes (.p _)) (fun _ => rfl) fun _ => plopB_eq ..,
    fun _ _ _ => gives_of_compute _ _ fun _ => rfl,
    fun _ _ _ => gives_of_compute _ _ fun _ => rfl,
    fun _ _ _ => gives_of_compute _ _ fun _ => rfl,
    fun _ _ _ => gives_as (boolRes (.p _)) (fun _ => rfl) fun _ => bne_zero_word _,
    fun _ _ _ => gives_as (boolRes (.p _)) (fun _ => rfl) fun _ => predWord_bne_zero _,
    fun _ _ _ => gives_as (boolRes (.p _)) (fun _ => rfl) fun _ => signExtend_bne_zero _,
    fun _ _ _ => gives_of_compute _ _ fun _ => rfl,
    fun _ _ _ _ _ => gives_as (dRes _) (fun _ => rfl) fun _ => leaW_signed ..,
    fun _ _ _ _ _ => gives_as (dRes _) (fun _ => rfl) fun _ => leaW_unsigned ..,
    fun _ _ _ _ => gives_as (dRes _) (fun _ => rfl) fun _ => rfl,
    fun _ _ _ _ => gives_as (dRes _) (fun _ => rfl) fun _ => add_signExtend_eq ..⟩

end Sys2Proof.Machine

namespace Sys2Proof.Machine
open Sys2Proof

/-! ## Level-index results (O15)

A code is its four fields, and R206 changes one of them: RCP of a 1.0. So NaN, zero, 1.0 and sign are those of the operand as it stands, and each
special case of R73, R75 and R210 is a branch that these decide. -/

/-! ### The fields of a code (R66) -/

theorem sCode_fields {c : Nat} (h : c < 2 ^ 32) : sCode (sSign c) (sRcp c) (sLvl c) (sFrac c) = c := by
  simp only [sCode, sSign, sRcp, sLvl, sFrac, decide_eq_true_eq, beq_iff_eq]
  split <;> split <;> omega

@[simp] theorem sSign_withSign (s : Bool) (c : Nat) : sSign (withSign s c) = s := by
  have hlow : c % 2 ^ 31 < 2 ^ 31 := Nat.mod_lt _ (by decide)
  cases s
  · exact decide_eq_false (Nat.not_le.2 hlow)
  · exact decide_eq_true (Nat.le_add_left ..)

/-- A sign given to a code leaves the bits below it. -/
theorem withSign_mod (s : Bool) (c : Nat) : withSign s c % 2 ^ 31 = c % 2 ^ 31 := by
  rw [withSign]
  split <;> omega

@[simp] theorem sRcp_withSign (s : Bool) (c : Nat) : sRcp (withSign s c) = sRcp c := by
  have hlow := withSign_mod s c
  rw [sRcp, sRcp, show withSign s c / 2 ^ 30 % 2 = c / 2 ^ 30 % 2 by omega]

@[simp] theorem sLvl_withSign (s : Bool) (c : Nat) : sLvl (withSign s c) = sLvl c := by
  have hlow := withSign_mod s c
  unfold sLvl
  omega

@[simp] theorem sFrac_withSign (s : Bool) (c : Nat) : sFrac (withSign s c) = sFrac c := by
  have hlow := withSign_mod s c
  unfold sFrac
  omega

@[simp] theorem sIsZero_withSign (s : Bool) (c : Nat) : sIsZero (withSign s c) = sIsZero c := by simp [sIsZero]

@[simp] theorem sIsNan_withSign (s : Bool) (c : Nat) : sIsNan (withSign s c) = sIsNan c := by simp [sIsNan]

@[simp] theorem sIsOne_withSign (s : Bool) (c : Nat) : sIsOne (withSign s c) = sIsOne c := by simp [sIsOne]

@[simp] theorem sMagKey_withSign (s : Bool) (c : Nat) : sMagKey (withSign s c) = sMagKey c := by
  have hlow := withSign_mod s c
  rw [sMagKey, sMagKey, sRcp_withSign, show withSign s c % 2 ^ 30 = c % 2 ^ 30 by omega]

theorem withSign_one (s t : Bool) : withSign s (sCode t false 1 0) = sCode s false 1 0 := by
  cases s <;> cases t <;> rfl

/-- Inverting a bit adds or takes away its weight. -/
theorem xor_two_pow (v n : Nat) : v ^^^ 2 ^ n = if v / 2 ^ n % 2 = 1 then v - 2 ^ n else v + 2 ^ n := by
  have hp := Nat.two_pow_pos n
  have hdiv : (v ^^^ 2 ^ n) / 2 ^ n = v / 2 ^ n ^^^ 1 := by rw [Nat.xor_div_two_pow, Nat.div_self hp]
  have hmod : (v ^^^ 2 ^ n) % 2 ^ n = v % 2 ^ n := by rw [Nat.xor_mod_two_pow, Nat.mod_self, Nat.xor_zero]
  have hx := Nat.div_add_mod' (v ^^^ 2 ^ n) (2 ^ n)
  have hv := Nat.div_add_mod' v (2 ^ n)
  rw [hdiv, hmod] at hx
  generalize v / 2 ^ n = q at hx hv ⊢
  split
  · next h =>
    have hle : 2 ^ n ≤ q * 2 ^ n := Nat.le_mul_of_pos_left _ (by omega)
    rw [Nat.xor_one_of_odd (Nat.odd_iff.2 h), Nat.sub_one_mul] at hx
    omega
  · next h =>
    rw [Nat.xor_one_of_even (Nat.even_iff.2 (by omega)), Nat.add_one_mul] at hx
    omega

theorem xor_sign {c : Nat} (h : c < 2 ^ 32) : c ^^^ 2 ^ 31 = withSign (!sSign c) c := by
  rw [xor_two_pow, withSign, sSign]
  by_cases hs : 2 ^ 31 ≤ c
  · rw [if_pos (by omega), decide_eq_true hs, Bool.not_true, if_neg Bool.false_ne_true]
    omega
  · rw [if_neg (by omega), decide_eq_false hs, Bool.not_false, if_pos rfl]
    omega

/-! ### A code as R206 reads it -/

theorem sCanon_of_one {c : Nat} (h : sIsOne c = true) : sCanon c = sCode (sSign c) false 1 0 := if_pos h

theorem sCanon_of_not_one {c : Nat} (h : sIsOne c = false) : sCanon c = c := if_neg (by simp [h])

theorem sCanon_lt {c : Nat} (h : c < 2 ^ 32) : sCanon c < 2 ^ 32 := by
  rw [sCanon]
  split
  · cases sSign c <;> decide
  · exact h

@[simp] theorem sSign_sCanon (c : Nat) : sSign (sCanon c) = sSign c := by
  rw [sCanon]
  split
  · cases sSign c <;> rfl
  · rfl

@[simp] theorem sIsOne_sCanon (c : Nat) : sIsOne (sCanon c) = sIsOne c := by
  by_cases h : sIsOne c = true
  · rw [sCanon_of_one h, h]
    cases sSign c <;> rfl
  · rw [sCanon_of_not_one (by simpa using h)]

theorem sIsZero_of_one {c : Nat} (h : sIsOne c = true) : sIsZero c = false := by
  simp only [sIsOne, Bool.and_eq_true, beq_iff_eq] at h
  simp [sIsZero, h]

theorem sIsNan_of_one {c : Nat} (h : sIsOne c = true) : sIsNan c = false := by
  simp only [sIsOne, Bool.and_eq_true, beq_iff_eq] at h
  simp [sIsNan, h]

@[simp] theorem sIsZero_sCanon (c : Nat) : sIsZero (sCanon c) = sIsZero c := by
  by_cases h : sIsOne c = true
  · rw [sIsZero_of_one h, sIsZero_of_one (by rwa [sIsOne_sCanon])]
  · rw [sCanon_of_not_one (by simpa using h)]

@[simp] theorem sIsNan_sCanon (c : Nat) : sIsNan (sCanon c) = sIsNan c := by
  by_cases h : sIsOne c = true
  · rw [sIsNan_of_one h, sIsNan_of_one (by rwa [sIsOne_sCanon])]
  · rw [sCanon_of_not_one (by simpa using h)]

theorem sCanon_withSign_sCanon (s : Bool) (c : Nat) : sCanon (withSign s (sCanon c)) = withSign s (sCanon c) := by
  by_cases h : sIsOne c = true
  · rw [sCanon_of_one (by simpa), sSign_withSign, sCanon_of_one h, withSign_one]
  · rw [sCanon_of_not_one (by simpa using h)]

/-! ### Special operands (R73, R75, R208, R209) -/

/-- SSUB adds the subtrahend with its sign inverted (R208). -/
theorem ssub_eq_sadd (a : Nat) {b : Nat} (h : b < 2 ^ 32) : ssub a b = sadd a (sCanon b ^^^ 2 ^ 31) := by
  rw [sadd, xor_sign (sCanon_lt h), sSign_sCanon, sCanon_withSign_sCanon, ssub]

section Special

variable {a b : Nat}

theorem sadd_of_nan (h : (sIsNan a || sIsNan b) = true) : sadd a b = ⟨1, 0⟩ := by
  rw [sadd, saddC, if_pos (by simpa using h), sNan]

theorem ssub_of_nan (h : (sIsNan a || sIsNan b) = true) : ssub a b = ⟨1, 0⟩ := by
  rw [ssub, saddC, if_pos (by simpa using h), sNan]

theorem smul_of_nan (h : (sIsNan a || sIsNan b) = true) : smul a b = ⟨1, 0⟩ := by
  simp only [smul, smulC, sIsNan_sCanon]
  rw [if_pos h, sNan]

theorem sdiv_of_nan (h : (sIsNan a || sIsNan b) = true) : sdiv a b = ⟨1, 0⟩ := by
  simp only [sdiv, sdivC, sIsNan_sCanon]
  rw [if_pos h, sNan]

theorem sadd_zero_left (hn : (sIsNan a || sIsNan b) = false) (ha : sIsZero a = true) :
    sadd a b = ⟨if sIsZero b then 0 else sCanon b, 0⟩ := by
  simp [sadd, saddC, hn, ha]

theorem sadd_zero_right (hn : (sIsNan a || sIsNan b) = false) (ha : sIsZero a = false) (hb : sIsZero b = true) :
    sadd a b = ⟨sCanon a, 0⟩ := by
  simp [sadd, saddC, hn, ha, hb]

theorem ssub_self (hn : sIsNan a = false) (ha : sIsZero a = false) : ssub a a = ⟨0, 0⟩ := by
  simp [ssub, saddC, hn, ha]

theorem smul_zero (hn : (sIsNan a || sIsNan b) = false) (h : (sIsZero a || sIsZero b) = true) : smul a b = ⟨0, 0⟩ := by
  simp only [smul, smulC, sIsNan_sCanon, sIsZero_sCanon, hn, h, Bool.false_eq_true, if_false, if_true]

theorem sdiv_zero_zero (hn : (sIsNan a || sIsNan b) = false) (ha : sIsZero a = true) (hb : sIsZero b = true) : sdiv a b = ⟨1, lxN⟩ := by
  simp [sdiv, sdivC, hn, ha, hb, sNan]

theorem sdiv_zero_left (hn : (sIsNan a || sIsNan b) = false) (ha : sIsZero a = true) (hb : sIsZero b = false) : sdiv a b = ⟨0, 0⟩ := by
  simp [sdiv, sdivC, hn, ha, hb]

theorem sHuge_eq (s : Bool) : sHuge s = if s then 0xBFFFFFFF else 0x3FFFFFFF := by cases s <;> rfl

theorem sdiv_by_zero (hn : (sIsNan a || sIsNan b) = false) (ha : sIsZero a = false) (hb : sIsZero b = true) :
    sdiv a b = ⟨if sSign a != sSign b then 0xBFFFFFFF else 0x3FFFFFFF, lxS⟩ := by
  rw [← sHuge_eq]
  simp [sdiv, sdivC, hn, ha, hb]

theorem sIsNan_of_zero (h : sIsZero a = true) : sIsNan a = false := by simp [sIsNan, h]

theorem sexp_zero (h : sIsZero a = true) : sexp a = ⟨0x08000000, 0⟩ := by
  simp [sexp, h, sIsNan_of_zero h, sCode]

theorem sln_zero (h : sIsZero a = true) : sln a = ⟨0xBFFFFFFF, lxS⟩ := by
  simp [sln, h, sIsNan_of_zero h, sHuge_eq]

theorem sln_negative (hn : sIsNan a = false) (hz : sIsZero a = false) (hs : sSign a = true) : sln a = ⟨1, lxN⟩ := by
  simp [sln, hn, hz, hs, sNan]

theorem sln_one (h : sIsOne a = true) (hs : sSign a = false) : sln a = ⟨0, 0⟩ := by
  simp [sln, h, hs, sIsNan_of_one h, sIsZero_of_one h]

end Special

/-! ### SRECIP (R210) -/

theorem sSign_toNat (w : Word) : sSign w.toNat = w.msb := (BitVec.msb_eq_decide w).symm

/-- Inverting RCP inverts bit 30. -/
theorem sCode_invert_rcp {c : Nat} (h : c < 2 ^ 32) : sCode (sSign c) (!sRcp c) (sLvl c) (sFrac c) = c ^^^ 2 ^ 30 := by
  have hc := sCode_fields h
  rw [xor_two_pow]
  simp only [sCode, sRcp] at hc ⊢
  by_cases hr : c / 2 ^ 30 % 2 = 1
  · simp only [hr, beq_self_eq_true, Bool.not_true, Bool.false_eq_true, if_true, if_false] at hc ⊢
    omega
  · simp only [hr, beq_eq_false_iff_ne.2 hr, Bool.not_false, Bool.false_eq_true, if_true, if_false] at hc ⊢
    omega

theorem srecip_eq (w : Word) : BitVec.ofNat 32 (srecip w.toNat) =
    if sIsNan w.toNat then 1
    else if sIsOne w.toNat then (if w.msb then 0x88000000 else 0x08000000)
    else if sIsZero w.toNat then (if w.msb then 0xBFFFFFFF else 0x3FFFFFFF)
    else w ^^^ 0x40000000 := by
  have hflip : BitVec.ofNat 32 (sCode w.msb (!sRcp w.toNat) (sLvl w.toNat) (sFrac w.toNat)) = w ^^^ 0x40000000 := by
    rw [← sSign_toNat, sCode_invert_rcp w.isLt, BitVec.ofNat_xor, BitVec.ofNat_toNat, BitVec.setWidth_eq]
    rfl
  rw [srecip, sSign_toNat]
  simp only [apply_ite (BitVec.ofNat 32), hflip]
  cases w.msb <;> rfl

/-! ### The statement -/

/-- Settles O15: each row computes what its equation says, and its operands' classes decide the special cases. -/
theorem levelIndexResults : Obligations.LevelIndexResults := by
  refine ⟨⟨fun _ _ _ _ => gives_of_compute _ _ fun _ => rfl,
    fun _ d _ _ => gives_as (lxRes d) (fun _ => rfl) fun x => ssub_eq_sadd _ (x.rd _).isLt,
    fun _ _ _ _ => gives_of_compute _ _ fun _ => rfl,
    fun _ _ _ _ => gives_of_compute _ _ fun _ => rfl,
    fun _ _ _ => gives_of_compute _ _ fun _ => rfl,
    fun _ _ _ => gives_of_compute _ _ fun _ => rfl,
    fun _ _ _ => gives_of_compute _ _ fun _ => rfl,
    fun _ _ _ _ _ => gives_of_compute _ _ fun _ => rfl,
    fun _ _ _ => gives_of_compute _ _ fun _ => rfl,
    fun _ _ _ => gives_of_compute _ _ fun _ => rfl,
    fun _ _ _ => gives_of_compute _ _ fun _ => rfl,
    fun _ d _ => gives_as (vRes d) (fun _ => rfl) fun _ => srecip_eq _⟩,
    fun a b _ _ => ⟨fun h => ?_, fun hn => ⟨fun ha hb => ?_, fun hb ha => sadd_zero_right hn ha hb, fun ha hb => ⟨?_, sdiv_zero_zero hn ha hb⟩,
      smul_zero hn, sdiv_zero_left hn, sdiv_by_zero hn, ssub_self (Bool.or_eq_false_iff.1 hn).1⟩,
      fun h => ⟨sexp_zero h, sln_zero h⟩, sln_negative, sln_one⟩⟩
  · rw [sadd_of_nan h, ssub_of_nan h, smul_of_nan h, sdiv_of_nan h]
    exact ⟨rfl, rfl, rfl, rfl, rfl, rfl, rfl, rfl⟩
  · rw [sadd_zero_left hn ha, hb]
    rfl
  · rw [sadd_zero_left hn ha, hb]
    rfl

end Sys2Proof.Machine

namespace Sys2Proof.Machine
open Sys2Proof

/-! ## A halt during a replay (O53)

The statement says that stopping the issue of a context in which a trap can be taken does what it does once that trap has been taken. A halt waits for
a replay under way (R219, R469), though: until the replay has finished, the event changes nothing in the state before the trap and nothing in the state
after it, so it leaves two different states. The clause on the trap does not ask that no replay is under way, as the clause before it does. -/

/-- While a replay is under way, a halt stops nothing. -/
theorem haltIssueStopped_of_replay {s : State} {x : CtxRef} (h : s.replayUnderWay x = true) : exec (.haltIssueStopped x) s = .next s := by
  have hexec : exec (.haltIssueStopped x) s = execHaltIssueStopped x s := rfl
  rw [hexec, execHaltIssueStopped, if_pos (by rw [h, Bool.or_true])]

/-- What touches only a thread leaves the replays under way. -/
theorem replayUnderWay_of_onlyThread {s u : State} {t : TRef} (h : OnlyThread s u t) (x : CtxRef) : u.replayUnderWay x = s.replayUnderWay x := by
  have hgroups : u.groups = s.groups := by rw [h.rest]
  have hslices (c : CoreRef) : (u.core c).slices = (s.core c).slices := by rw [h.cores c]
  simp only [State.replayUnderWay, State.ctxCores, State.ctxGroups, hgroups, hslices]

/-- While a replay is under way, a trap taken before the halt is not what the halt does: it still stands to be taken. -/
theorem haltIssueStopped_ne_trapped {s : State} {x : CtxRef} {t : TRef} {z y : Thread} {g : Group} (c : Cause) (epc taddr : DWord) (tinfo : Word)
    (hreplay : s.replayUnderWay x = true) (hz : s.thread? t = some z) (hh : z.h = false) (hy : y.h = false) (hg : s.group? t.group = some g)
    (hhandler : g.handler ≠ 0) :
    exec (.haltIssueStopped x) s ≠ exec (.haltIssueStopped x) ((s.setThread t y).takeTrap t c epc taddr tinfo) := by
  obtain ⟨htrapped, honly⟩ := takeTrap_spec (s := s.setThread t y) c epc taddr tinfo (State.thread?_setThread_self ..) hg hy hhandler
  have hreplay' : ((s.setThread t y).takeTrap t c epc taddr tinfo).replayUnderWay x = true := (replayUnderWay_of_onlyThread honly x).trans hreplay
  rw [haltIssueStopped_of_replay hreplay, haltIssueStopped_of_replay hreplay']
  intro hsame
  rw [← Host.Outcome.next.inj hsame, hz] at htrapped
  cases htrapped
  cases hh

/-- A thread of the demo that has a trap to take. -/
def owingThread : Thread := { Thread.start 0 0x100000 8 with deferred := [⟨.scope, 0x8000, none⟩] }

/-- The demo with its context halting, a trap that its first thread can take, and a replay of that thread's issue group under way in slice 0. -/
def haltDuringReplay : State :=
  let s := (State.reset.demo .general).modCtx demoCtx fun y => { y with st := .halting }
  (s.setThread demoThread owingThread).modCore demoThread.coreRef fun k =>
    { k with slices := modNth k.slices 0 fun y => { y with err := some 0x100000, again := [demoThread] } }

theorem haltDuringReplay_replays : haltDuringReplay.replayUnderWay demoCtx = true := by decide +kernel

theorem haltDuringReplay_halts :
    (haltDuringReplay.ctx demoCtx).st = .halting ∧ (haltDuringReplay.ctx demoCtx).issueOff = false ∧ haltDuringReplay.inReset = false := by
  decide +kernel

theorem haltDuringReplay_thread : haltDuringReplay.thread? demoThread = some owingThread := by decide +kernel

theorem haltDuringReplay_group : haltDuringReplay.group? demoThread.group = some (demoGroup .general) := by decide +kernel

theorem haltDuringReplay_unretired : haltDuringReplay.unretired demoThread = false := by decide +kernel

theorem haltDuringReplay_nodup : (haltDuringReplay.threads.map (·.1)).Nodup := by decide +kernel

theorem haltDuringReplay_others : ∀ e ∈ haltDuringReplay.threads, e.1.ctxRef = demoCtx → e.1 ≠ demoThread → e.2.deferred = [] := by
  decide +kernel

/-- Refutes O53: with a replay under way the halt takes no trap, so it does not do what it does once the trap has been taken. -/
theorem not_contextSwitch : ¬ Obligations.ContextSwitch := by
  unfold Obligations.ContextSwitch
  intro h
  obtain ⟨-, -, htrap, -⟩ := h haltDuringReplay demoCtx
  obtain ⟨hst, hoff, hreset⟩ := haltDuringReplay_halts
  have hhandler : (demoGroup .general).handler ≠ 0 := by decide
  have hsame := htrap demoThread owingThread (demoGroup .general) ⟨.scope, 0x8000, none⟩ hst hoff hreset haltDuringReplay_nodup rfl
    haltDuringReplay_thread haltDuringReplay_group hhandler rfl rfl rfl rfl (.inl rfl) haltDuringReplay_unretired haltDuringReplay_others
  exact haltIssueStopped_ne_trapped _ _ _ _ haltDuringReplay_replays haltDuringReplay_thread rfl rfl haltDuringReplay_group hhandler hsame

end Sys2Proof.Machine

namespace Sys2Proof.Machine
open Sys2Proof

/-! ## Accesses to memory as they issue (chapters 10 and 11)

An access comes to `State.perform` by the checks of R247 and, where it is a release or an acquire of scope .pod, by its fence part. What it does there
is said once for each operation it may use: an operation sent to the memory system, a read and a write of a scratchpad. -/

/-! ### From the gate to the access -/

theorem bitsOf_localEa (core : Nat) (off : Word) :
    bitsOf (localEa core off).toNat 63 56 = 0xFD ∧ bitsOf (localEa core off).toNat 31 22 = off.toNat / 2 ^ 22 ∧
      bitsOf (localEa core off).toNat 21 0 = off.toNat % 2 ^ 22 := by
  have hoff := off.isLt
  have hcore : core % 2 ^ 12 < 2 ^ 12 := Nat.mod_lt _ (by decide)
  have hea : (localEa core off).toNat = 0xFD * 2 ^ 56 + core % 2 ^ 12 * 2 ^ 32 + off.toNat := by
    rw [localEa, BitVec.toNat_ofNat]
    omega
  rw [hea]
  simp only [bitsOf_eq]
  omega

/-- An SP form falls in no window but the scratchpad's own, and its offset lies in the scratchpad (R246). -/
theorem window_localEa {s : State} {t : TRef} {g : Group} {core n : Nat} {off : Word} {w : Win} (hn : 0 < n)
    (h : s.window t g (localEa core off) n = .ok w) : w = .loc off.toNat ∧ off.toNat < scratchSize := by
  obtain ⟨htop, hmid, hlow⟩ := bitsOf_localEa core off
  simp only [State.window, htop, hmid, hlow] at h
  have hsize : scratchSize < 2 ^ 22 := by decide
  split at h
  · cases h
  · next hin =>
    simp only [not_or, not_lt, ne_eq, not_not] at hin
    obtain ⟨-, hhigh, hfit⟩ := hin
    have hoff : off.toNat % 2 ^ 22 = off.toNat := by omega
    rw [hoff] at h hfit
    split at h
    · cases h
    · split at h
      · cases h
      · exact ⟨(Except.ok.inj h).symm, by omega⟩

/-- Whether an access is in its SP form (R246). -/
def isSp : Instr → Bool
  | .ldSp .. | .stSp .. => true
  | _ => false

theorem Sz.bytes_pos (sz : Sz) : 0 < sz.bytes := by cases sz <;> decide

/-- An access that its checks let execute, and that falls in a window, comes to its checks of R247. -/
theorem exec_access {s : State} {i : Instr} {t : TRef} {x : Thread} {g : Group} {r : Req} {w : Win} (hr : Runs s i t x g)
    (hi : isAccess i = true) (hslot : s.slotBusy t x = false) (hreq : reqOf t.core x i = some r)
    (hw : s.window t g r.ea r.size = .ok w) : exec i s = .next (s.accessRun t x g i r) := by
  have hplain : access s i = .next (s.accessRun t x g i r) := by
    rw [access, issueMem, issue_of_runs hr]
    simp [hslot, hreq]
  have hsp (off : Thread → Word) (hoff : (off x).toNat < scratchSize) : accessSp s i off = .next (s.accessRun t x g i r) := by
    rw [accessSp, issueMem, issue_of_runs hr]
    simp [hslot, hreq, hoff]
  unfold isAccess at hi
  split at hi
  case h_3 | h_4 =>
    cases hreq
    exact hsp _ (window_localEa (Sz.bytes_pos _) hw).2
  case h_8 => cases hi
  all_goals exact hplain

/-- An SP form falls in no window of another core. -/
theorem window_ne_gang_of_sp {s : State} {i : Instr} {t : TRef} {x : Thread} {g : Group} {r : Req} {w : Win} (hi : isSp i = true)
    (hreq : reqOf t.core x i = some r) (hw : s.window t g r.ea r.size = .ok w) : ∃ off, w = .loc off := by
  unfold isSp at hi
  split at hi
  case h_3 => cases hi
  all_goals
    cases hreq
    exact ⟨_, (window_localEa (Sz.bytes_pos _) hw).1⟩

section Checks

variable {s : State} {i : Instr} {t : TRef} {x : Thread} {g : Group} {r : Req}

/-- The checks of R247 for the core's own scratchpad. -/
theorem accessRun_own {off : Nat} (hw : s.window t g r.ea r.size = .ok (.loc off)) (halign : r.ea.toNat % r.size = 0)
    (hread : r.acc.rd = true → s.scrDead t.ccRef off r.size = false ∧ s.scrPoisoned t.ccRef off r.size = false)
    (hpod : i.podOrdered = true → s.podOk = true) (hlate : trapsLate i = true → s.unretired t = false) :
    s.accessRun t x g i r = s.proceed t x i r (.scr t.core off) 0 := by
  rw [State.accessRun, if_neg (by simpa using hlate), hw]
  dsimp only
  rw [if_neg (by simp [halign]), if_neg, if_neg, if_neg (by simpa using hpod)]
  · simp only [Bool.and_eq_true, not_and, Bool.not_eq_true]
    exact fun h => (hread h).2
  · simp only [Bool.and_eq_true, not_and, Bool.not_eq_true]
    exact fun h => (hread h).1

/-- The checks of R247 for another core of the gang. -/
theorem accessRun_gang {core off : Nat} (hw : s.window t g r.ea r.size = .ok (.gang core off)) (halign : r.ea.toNat % r.size = 0)
    (hpod : i.podOrdered = true → s.podOk = true) (hret : s.unretired t = false) :
    s.accessRun t x g i r = s.proceed t x i r (.scr core off) 0 := by
  rw [State.accessRun, if_neg (by simp [hret]), hw]
  dsimp only
  rw [if_neg (by simp [halign]), if_neg (by simpa using hpod), if_neg (by simp [hret])]

/-- The checks of R247 for memory, where the address translates. -/
theorem accessRun_glob {va : Nat} {loc : Place} (hw : s.window t g r.ea r.size = .ok (.glob va)) (halign : r.ea.toNat % r.size = 0)
    (hprobe : s.probe t x g i va r.acc = .place loc) (hpod : i.podOrdered = true → s.podOk = true)
    (hlate : trapsLate i = true → s.unretired t = false) : s.accessRun t x g i r = s.proceed t x i r loc va := by
  rw [State.accessRun, if_neg (by simpa using hlate), hw]
  dsimp only
  rw [if_neg (by simp [halign]), if_neg (by simpa using hpod), hprobe]

theorem proceed_of_release {loc : Place} {va : Nat} {sc : Scope} (h : i.relScope = some sc) :
    s.proceed t x i r loc va = s.startFence t x i (some sc) true (.send loc) := by
  simp [State.proceed, h]

theorem proceed_of_acquirePod {loc : Place} {va : Nat} (hrel : i.relScope = none) (hacq : i.acqScope = some .pod) :
    s.proceed t x i r loc va = s.acquirePod t x i loc := by
  simp [State.proceed, hrel, hacq]

theorem proceed_of_plain {loc : Place} {va : Nat} (hrel : i.relScope = none) (hacq : i.acqScope ≠ some .pod) :
    s.proceed t x i r loc va = s.perform t x i none r loc va := by
  simp [State.proceed, hrel, hacq]

end Checks

end Sys2Proof.Machine

namespace Sys2Proof.Machine
open Sys2Proof

/-! ### An operation handed to the memory system -/

theorem State.core_modCore (s : State) (c d : CoreRef) (f : Core → Core) : (s.modCore c f).core d = if d = c then f (s.core c) else s.core d :=
  State.core_setCore s c d _

theorem State.core_modCore_ne (s : State) {c d : CoreRef} (f : Core → Core) (h : d ≠ c) : (s.modCore c f).core d = s.core d := by
  rw [State.core_modCore, if_neg h]

theorem State.core_wakeBank_ne (s : State) {c d : CoreRef} (b : Nat × Nat × Nat) (h : d ≠ c) : (s.wakeBank c b).core d = s.core d := by
  unfold State.wakeBank
  split
  · exact State.core_modCore_ne s _ h
  · exact State.core_modCore_ne s _ h
  · rfl

theorem State.core_wakeDests_ne (s : State) {t : TRef} {d : CoreRef} (x : Thread) (i : Instr) (h : d ≠ t.coreRef) :
    (s.wakeDests t x i).core d = s.core d := by
  unfold State.wakeDests State.wakeWindows
  split
  · rfl
  · exact List.foldlRecOn (motive := fun u => State.core u d = s.core d) _ _ rfl fun u hu w _ => by
      split
      · rw [State.core_wakeBank_ne u _ h, hu]
      · exact hu

/-- The state that sends an operation of a kind: the banks its answer will write wake (R134). -/
def State.wokenFor (s : State) (t : TRef) (x : Thread) (i : Instr) : MKind → State
  | .load | .acquire | .atomic => s.wakeDests t x i
  | _ => s

theorem State.wokenFor_only (s : State) (t : TRef) (x : Thread) (i : Instr) (kind : MKind) : OnlyBanks s (s.wokenFor t x i kind) := by
  cases kind <;> first | exact wakeWindows_only .. | exact .refl s

theorem State.core_wokenFor_ne (s : State) {t : TRef} {d : CoreRef} (x : Thread) (i : Instr) (kind : MKind) (h : d ≠ t.coreRef) :
    (s.wokenFor t x i kind).core d = s.core d := by
  cases kind <;> first | exact State.core_wakeDests_ne s x i h | rfl

/-- What changes only the records of cores. -/
def OnlyCores (s u : State) : Prop := u = { s with cores := u.cores }

theorem OnlyCores.trans {s u v : State} (h : OnlyCores s u) (k : OnlyCores u v) : OnlyCores s v :=
  Eq.trans k (congrArg (fun w : State => { w with cores := v.cores }) h)

theorem OnlyCores.modCore (s : State) (c : CoreRef) (f : Core → Core) : OnlyCores s (s.modCore c f) := rfl

theorem OnlyBanks.onlyCores {s u : State} (h : OnlyBanks s u) : OnlyCores s u := h.rest

/-- An operation of an access at issue, at its place. -/
structure OpOf (t : TRef) (i : Instr) (kind : MKind) (r : Req) (loc : Place) (m : MOp) : Prop where
  thr   : m.thr = t
  instr : m.instr = i
  entry : m.entry = none
  kind  : m.kind = kind
  loc   : m.loc = loc
  size  : m.size = r.size
  ans   : m.ans = .pending
  mask  : m.mask = List.replicate r.size true
  atomicData : m.kind = .atomic → m.data = dataBytes r.data
  storeData  : m.kind = .store → m.data = (dataBytes r.data).take r.size

/-- An access hands its operation to the memory system under the core's next number. -/
theorem sendOp_spec (s : State) (t : TRef) (x : Thread) (i : Instr) (kind : MKind) (r : Req) (loc : Place) :
    ∃ m, OpOf t i kind r loc m ∧ m.seq = (s.core t.coreRef).seq ∧ (s.sendOp t x i none kind r loc).2 = m.seq ∧
      Sent s (s.sendOp t x i none kind r loc).1 t.coreRef m := by
  have banks := s.wokenFor_only t x i kind
  have hseq : ((s.wokenFor t x i kind).core t.coreRef).seq = (s.core t.coreRef).seq := by rw [banks.cores]
  let data : List Byte :=
    match kind with | .load | .acquire | .pref => [] | .atomic => dataBytes r.data | _ => (dataBytes r.data).take r.size
  let seq := ((s.wokenFor t x i kind).core t.coreRef).seq
  let m : MOp :=
  { seq := seq, born := seq, thr := t, entry := none, kind := kind, instr := i, pc := x.pc, gen := (s.ctx t.ctxRef).gen, ea := r.ea,
    loc := loc, size := r.size, data := data, mask := List.replicate r.size true, cov := List.replicate r.size false, contrib := [], ans := .pending }
  let cnt := match loc, kind with
    | .mem .., .atomic => 16
    | .mem .., .store => r.size
    | .mem .., .release => r.size
    | _, _ => 0
  have hsend : (s.sendOp t x i none kind r loc).1 =
      ((s.wokenFor t x i kind).modCore t.coreRef fun k => { k with seq := k.seq + 1 }).modCore t.coreRef fun k =>
        { k.addMop m with bytes := k.bytes + cnt } := by
    cases kind <;> rfl
  refine ⟨m, ⟨rfl, rfl, rfl, rfl, rfl, rfl, rfl, rfl, ?_, ?_⟩, hseq, by cases kind <;> rfl, ?_, fun d hd => ?_, ?_⟩
  · rintro (rfl : kind = .atomic); rfl
  · rintro (rfl : kind = .store); rfl
  · rw [hsend]
    simp only [State.core_modCore_self]
    rw [banks.cores]
    rfl
  · rw [hsend, State.core_modCore_ne _ _ hd, State.core_modCore_ne _ _ hd, s.core_wokenFor_ne x i kind hd]
  · rw [hsend]
    exact (banks.onlyCores.trans (.modCore ..)).trans (.modCore ..)

theorem stand_spec (s : State) (t : TRef) (x : Thread) (i : Instr) (ph : Phase) :
    (s.stand t x i ph).thread? t = some (standing x i ph) ∧ OnlyThread s (s.stand t x i ph) t :=
  OnlyBanks.onlyThread (wakeWindows_only ..) (.refl _)

/-- An access is sent and its thread stands until the answer. -/
def State.sendAndStand (s : State) (t : TRef) (x : Thread) (i : Instr) (kind : MKind) (r : Req) (loc : Place) : State :=
  (s.sendOp t x i none kind r loc).1.stand t x i (.answer (s.sendOp t x i none kind r loc).2)

theorem sendsAndStands_of_exec {s s0 : State} {i : Instr} {t : TRef} {x : Thread} {kind : MKind} {r : Req} {loc : Place} {p : MOp → Prop}
    (h : exec i s = .next (s0.sendAndStand t x i kind r loc)) (hp : ∀ m, OpOf t i kind r loc m → p m) :
    SendsAndStands s0 (exec i s) i t x p := by
  obtain ⟨m, hm, hseq, hno, hsent⟩ := sendOp_spec s0 t x i kind r loc
  obtain ⟨hstand, honly⟩ := stand_spec (s0.sendOp t x i none kind r loc).1 t x i (.answer (s0.sendOp t x i none kind r loc).2)
  exact ⟨_, _, m, hsent, hseq, hm.thr, hm.instr, hm.entry, hm.ans, hp m hm, honly, by rw [hstand, hno], h⟩

/-! ### What `State.perform` does -/

section Perform

variable {s : State} {t : TRef} {x : Thread} {i : Instr} {r : Req} {loc : Place} {va : Nat}

/-- A place that is not in the executing core's own scratchpad. -/
def Place.away (t : TRef) (loc : Place) : Prop := ∀ off, loc ≠ .scr t.core off

theorem Place.away_mem (t : TRef) (pa k q : Nat) (p : Bool) : (Place.mem pa k q p).away t := nofun

theorem Place.away_scr {t : TRef} {core : Nat} (h : core ≠ t.core) (off : Nat) : (Place.scr core off).away t :=
  fun _ e => h (Place.scr.inj e).1

theorem perform_own (off : Nat) : s.perform t x i none r (.scr t.core off) va = s.bankAccess t x i none r off := if_pos rfl

theorem perform_acquire (haway : loc.away t) (hload : i.isLoad = true) (hacq : i.acqScope.isSome = true) :
    s.perform t x i none r loc va = s.sendAndStand t x i .acquire r loc := by
  cases loc with
  | mem pa k q p => simp [State.perform, hload, hacq]; rfl
  | scr core off =>
    have hcore : core ≠ t.core := fun h => haway off (h ▸ rfl)
    simp [State.perform, hcore, hload, hacq]; rfl

theorem perform_gangLoad {core off : Nat} (hcore : core ≠ t.core) (hload : i.isLoad = true) :
    s.perform t x i none r (.scr core off) va =
      s.sendAndStand t x i (if i.acqScope.isSome then .acquire else .load) r (.scr core off) := by
  simp [State.perform, hcore, hload]; rfl

theorem perform_load {pa k q : Nat} {p : Bool} (hload : i.isLoad = true) (hacq : i.acqScope = none) :
    s.perform t x i none r (.mem pa k q p) va = s.loadAccess t x i none r (.mem pa k q p) va := by
  simp [State.perform, hload, hacq]

theorem Instr.isLoad_of_isAtomic (h : i.isAtomic = true) : i.isLoad = false := by
  unfold Instr.isAtomic at h
  split at h <;> first | rfl | cases h

/-- An atomic drains the core's buffered stores to its bytes, is sent, and its thread stands (R238, R240). -/
theorem perform_atomic (haway : loc.away t) (hatomic : i.isAtomic = true) :
    s.perform t x i none r loc va =
      (s.drainWhere t.coreRef (fun w => loc.overlap r.size w.loc 128) none).sendAndStand t x i .atomic r loc := by
  have hload := Instr.isLoad_of_isAtomic hatomic
  cases loc with
  | mem pa k q p => simp [State.perform, hload, hatomic]; rfl
  | scr core off =>
    have hcore : core ≠ t.core := fun h => haway off (h ▸ rfl)
    simp [State.perform, hcore, hload, hatomic]; rfl

/-- A store that needs an entry of a full buffer waits for the oldest to drain; any other goes into the buffer. -/
theorem perform_buffer {h : Hints} {sz : Sz} {d a : VReg} {b : Option VReg} {off : BitVec 24} (haway : loc.away t)
    (hi : i = .st h sz none d a b off) (hvia : s.viaWc t loc = true) :
    s.perform t x i none r loc va =
      if (s.core t.coreRef).wcFull loc then (s.drainOldest t.coreRef).holdGroup t
      else (s.wcStore t loc ((dataBytes r.data).take r.size) (i.chAt r.ea)).retire t x i.hints {} := by
  subst hi
  cases loc with
  | mem pa k q p =>
    simp [State.perform, Instr.isLoad, Instr.isAtomic, Instr.relScope, hvia, State.bufferStore, State.doneNow]
  | scr core off =>
    have hcore : core ≠ t.core := fun h => haway off (h ▸ rfl)
    simp [State.perform, hcore, Instr.isLoad, Instr.isAtomic, Instr.relScope, State.bufferStore, State.doneNow]

theorem perform_store {h : Hints} {sz : Sz} {d a : VReg} {b : Option VReg} {off : BitVec 24} {pa k q : Nat} {p : Bool}
    (hi : i = .st h sz none d a b off) (hvia : s.viaWc t (.mem pa k q p) = false) :
    s.perform t x i none r (.mem pa k q p) va = (s.sendOp t x i none .store r (.mem pa k q p)).1.retire t x i.hints {} := by
  subst hi
  simp [State.perform, Instr.isLoad, Instr.isAtomic, Instr.relScope, hvia, State.doneNow]

end Perform

end Sys2Proof.Machine

namespace Sys2Proof.Machine
open Sys2Proof

/-! ### The statements on the gang window and on memory -/

/-- Settles O26: the checks of the gang window pass, and `State.perform` does the access away from the core. -/
theorem gangScratchpadAccess : Obligations.GangScratchpadAccess := by
  intro s t x g i r core off hr hslot hreq hi hw halign hpod hret hcore loc
  have haway : loc.away t := Place.away_scr hcore off
  have hexec : exec i s = .next (s.proceed t x i r loc 0) := by
    rw [exec_access hr hi hslot hreq hw, accessRun_gang hw halign hpod hret]
  refine ⟨fun sc hrel => by rw [hexec, proceed_of_release hrel], fun hrel hacq => by rw [hexec, proceed_of_acquirePod hrel hacq],
    fun hrel hacq => ?_⟩
  rw [proceed_of_plain hrel hacq] at hexec
  refine ⟨fun hload => ?_, fun h sz d a b o hst => ?_, fun hatomic => ?_⟩
  · rw [perform_gangLoad hcore hload] at hexec
    exact sendsAndStands_of_exec hexec fun m hm => ⟨hm.loc, hm.size, hm.kind⟩
  · rw [perform_buffer haway hst (by simp [State.viaWc, loc, hcore])] at hexec
    subst hst
    cases hreq
    exact ⟨fun hfull => by rw [hexec, if_pos hfull],
      fun hfull => completesFrom_of_exec (by rw [hexec, if_neg (by simp [hfull])])⟩
  · rw [perform_atomic haway hatomic] at hexec
    exact sendsAndStands_of_exec hexec fun m hm => ⟨hm.kind, hm.loc, hm.size, hm.atomicData hm.kind⟩

/-! ### A load that its L1 answers -/

theorem Dict.set_set {κ α : Type} [DecidableEq κ] (t : Dict κ α) (k : κ) (v w : α) : (t.set k v).set k w = t.set k w := by
  induction t with
  | nil => simp [Dict.set]
  | cons e t ih =>
    simp only [Dict.set]
    split
    · next h => simp [Dict.set, h]
    · next h => simp [Dict.set, h, ih]

theorem State.modCore_modCore (s : State) (c : CoreRef) (f f' : Core → Core) : (s.modCore c f).modCore c f' = s.modCore c fun k => f' (f k) := by
  simp only [State.modCore, State.setCore, State.core]
  rw [Dict.set_set, Dict.getD_set, if_pos rfl]

theorem State.setThread_setThread (s : State) (t : TRef) (x y : Thread) : (s.setThread t x).setThread t y = s.setThread t y := by
  simp only [State.setThread, Dict.set_set]

/-- A load whose bytes in the L1 hold an error goes on, and MCHECK is delivered later (R495). -/
theorem loadAccess_bad {s : State} {t : TRef} {x : Thread} {i : Instr} {r : Req} {loc : Place} {va : Nat} {l : L1Line}
    (hhit : (s.core t.coreRef).l1Hit (loc.lineNo t.part) (s.coreTime t.coreRef) = some l) (hbad : l.bad (loc.addr % lineSize) r.size = true) :
    ∃ s', OnlyThread s s' t ∧ s.loadAccess t x i none r loc va = s' ∧ s'.thread? t = some { x with
      pc := x.pc + 12, gap := i.hints.gap.toNat, yld := i.hints.yld, ph := .none, cur := none,
      deferred := x.deferred ++ [{ cause := .mcheck, taddr := r.ea, entry := none }] } := by
  let y : Thread := { x with pc := x.pc + 12, gap := i.hints.gap.toNat, yld := i.hints.yld, ph := .none, cur := none }
  let z : Thread := { y with deferred := x.deferred ++ [{ cause := .mcheck, taddr := r.ea, entry := none }] }
  have heq : s.loadAccess t x i none r loc va = (s.setThread t z).settleDests t y i := by
    simp only [State.loadAccess, hhit, hbad]
    have hgo : s.goOn t x i = s.setThread t y := rfl
    simp only [if_true, Option.isNone_none, hgo, State.loadPoisoned, State.thread?_setThread_self, State.setThread_setThread]
    rfl
  obtain ⟨hz, honly⟩ := OnlyBanks.onlyThread (.refl s) (y := z) (settleWindows_only (s.setThread t z) t y.htid (i.destMask &&& ~~~y.live))
  exact ⟨_, honly, heq, hz⟩

theorem loadAccess_hit {s : State} {t : TRef} {x : Thread} {i : Instr} {r : Req} {loc : Place} {va : Nat} {l : L1Line}
    (hhit : (s.core t.coreRef).l1Hit (loc.lineNo t.part) (s.coreTime t.coreRef) = some l) (hbad : l.bad (loc.addr % lineSize) r.size = false) :
    s.loadAccess t x i none r loc va =
      (s.modCore t.coreRef fun c => (c.l1Touch (loc.lineNo t.part) (i.chAt r.ea)).noteRead t loc r.size).retire t
        (x.loaded va l.lwct (dmax l.lwct l.pwct)) i.hints
        (loadRes i ((s.core t.coreRef).overlay loc ((l.bytes.drop (loc.addr % lineSize)).take r.size))) := by
  simp [State.loadAccess, hhit, hbad, State.noteRead, State.modCore_modCore, State.doneNow]

theorem loadAccess_miss {s : State} {t : TRef} {x : Thread} {i : Instr} {r : Req} {loc : Place} {va : Nat}
    (hhit : (s.core t.coreRef).l1Hit (loc.lineNo t.part) (s.coreTime t.coreRef) = none) :
    s.loadAccess t x i none r loc va = (s.sendOp t x i none .load r loc).1.goOn t x i := by
  simp [State.loadAccess, hhit]

/-- An access to memory whose checks pass and whose address translates goes on to its fence part, or to its place. -/
theorem exec_access_glob {s : State} {t : TRef} {x : Thread} {g : Group} {i : Instr} {r : Req} {va : Nat} {loc : Place} (hr : Runs s i t x g)
    (hi : isAccess i = true) (hslot : s.slotBusy t x = false) (hreq : reqOf t.core x i = some r)
    (hw : s.window t g r.ea r.size = .ok (.glob va)) (halign : r.ea.toNat % r.size = 0) (hprobe : s.probe t x g i va r.acc = .place loc)
    (hpod : i.podOrdered = true → s.podOk = true) (hlate : trapsLate i = true → s.unretired t = false) :
    exec i s = .next (s.proceed t x i r loc va) := by
  rw [exec_access hr hi hslot hreq hw, accessRun_glob hw halign hprobe hpod hlate]

/-- Settles O24: the checks of memory pass, and `State.perform` does what the access and its place ask. -/
theorem globalAccessIssue : Obligations.GlobalAccessIssue := by
  constructor
  · intro s t x g h sz d a b off va loc ord i hr hslot hw halign hprobe hpod hret
    let r : Req := ⟨eaOf x a b off, sz.bytes, .read, [], false⟩
    have hexec : exec i s = .next (s.proceed t x i r loc va) := by
      refine exec_access_glob (r := r) hr rfl hslot rfl hw halign hprobe ?_ ?_
      · simpa [i, Instr.podOrdered, Instr.acqScope, Instr.relScope] using hpod
      · simpa [i, trapsLate, Instr.acqScope, Instr.relScope, Instr.isAtomic, Option.isSome_iff_ne_none] using hret
    have hplain (hacq : i.acqScope ≠ some .pod) : exec i s = .next (s.perform t x i none r loc va) := by
      rw [hexec, proceed_of_plain rfl hacq]
    refine ⟨fun hord => by rw [hexec, proceed_of_acquirePod rfl (show i.acqScope = some .pod from hord)], fun sc hord hsc hmem => ?_, fun hord => ?_⟩
    · have hacq : i.acqScope = some sc := hord
      have hsend := hplain (by rw [hacq]; simpa using hsc)
      rw [perform_acquire (fun o => hmem _ o) rfl (by rw [hacq]; rfl)] at hsend
      exact sendsAndStands_of_exec hsend fun m hm => ⟨hm.kind, hm.loc, hm.size⟩
    · have hacq : i.acqScope = none := hord
      have hload := hplain (by rw [hacq]; nofun)
      refine ⟨fun pa k q p hloc l hhit => ⟨fun hbad => ?_, fun hbad => ?_⟩, fun pa k q p hloc hhit => ?_⟩
      · subst hloc
        rw [perform_load rfl hacq] at hload
        obtain ⟨s', honly, heq, hy⟩ := loadAccess_bad (x := x) (i := i) (va := va) (r := r) hhit hbad
        exact ⟨s', honly, by rw [hload, heq], hy⟩
      · subst hloc
        rw [perform_load rfl hacq, loadAccess_hit (r := r) hhit hbad] at hload
        obtain ⟨s', y, hy, hret, honly, he⟩ := retire_spec
          (s.modCore t.coreRef fun c => (c.l1Touch (Place.lineNo t.part (.mem pa k q p)) (i.chAt r.ea)).noteRead t (.mem pa k q p) r.size)
          t (x.loaded va l.lwct (dmax l.lwct l.pwct)) h
          (loadRes i ((s.core t.coreRef).overlay (.mem pa k q p) ((l.bytes.drop (pa % 128)).take r.size)))
        exact ⟨_, rfl, s', y, hy, hret, honly, hload.trans (congrArg _ he)⟩
      · subst hloc
        rw [perform_load rfl hacq, loadAccess_miss hhit] at hload
        obtain ⟨m, hm, hseq, -, hsent⟩ := sendOp_spec s t x i .load r (.mem pa k q p)
        exact ⟨_, m, hsent, hseq, hm.thr, hm.kind, hm.instr, hm.loc, hm.size, hm.ans, hload⟩
  · intro s t x g i r va pa k q p loc hr hslot hreq hi hw halign hprobe hpod hlate
    have haway : loc.away t := Place.away_mem t pa k q p
    have hexec : exec i s = .next (s.proceed t x i r loc va) := exec_access_glob hr hi hslot hreq hw halign hprobe hpod hlate
    have hplain (hrel : i.relScope = none) (hacq : i.acqScope ≠ some .pod) : exec i s = .next (s.perform t x i none r loc va) := by
      rw [hexec, proceed_of_plain hrel hacq]
    refine ⟨fun h sz d a b o hst => ?_, fun h sz sc d a b o hst => ?_, fun hatomic => ⟨fun sc hrel => ?_, fun hrel hacq => ?_, fun hrel hacq => ?_⟩⟩
    · have hstore := hplain (by rw [hst]; rfl) (by rw [hst]; nofun)
      refine ⟨fun hvia => ?_, fun hvia hfull => ?_, fun hvia hfull => ?_⟩
      · rw [perform_store hst hvia] at hstore
        obtain ⟨m, hm, -, -, hsent⟩ := sendOp_spec s t x i .store r loc
        have hdata := hm.storeData hm.kind
        have hmask := hm.mask
        rw [hst] at hreq
        cases hreq
        exact ⟨_, m, hsent, hm.thr, hm.kind, hm.loc, hm.ans, hdata, hmask, completesFrom_of_exec hstore⟩
      · rw [hstore, perform_buffer haway hst hvia, if_pos hfull]
      · rw [perform_buffer haway hst hvia, if_neg (by simp [hfull])] at hstore
        rw [hst] at hreq
        cases hreq
        exact completesFrom_of_exec hstore
    · rw [hexec, proceed_of_release (by rw [hst]; rfl)]
    · rw [hexec, proceed_of_release hrel]
    · rw [hexec, proceed_of_acquirePod hrel hacq]
    · rw [perform_atomic haway hatomic] at hplain
      exact sendsAndStands_of_exec (hplain hrel hacq) fun m hm => ⟨hm.kind, hm.loc, hm.size, hm.atomicData hm.kind⟩

end Sys2Proof.Machine

namespace Sys2Proof.Machine
open Sys2Proof

/-! ## Accesses to the own scratchpad (O23) -/

/-! ### Banks and their power -/

/-- The banks of n bytes have full power. -/
def State.banksFull (s : State) (c : CoreRef) (off n : Nat) : Prop :=
  ∀ b, off / 0x8000 ≤ b → b ≤ (off + n - 1) / 0x8000 → s.scrPower c b = .full

theorem mem_banksOf {off n : Nat} (hpos : 0 < n) (hn : n ≤ 0x8000) (b : Nat) :
    b ∈ banksOf off n ↔ off / 0x8000 ≤ b ∧ b ≤ (off + n - 1) / 0x8000 := by
  have hsize : bankSize = 0x8000 := rfl
  unfold banksOf
  rw [hsize]
  split <;> simp only [List.mem_cons, List.not_mem_nil, or_false] <;> omega

theorem bankAwake_of_full {s : State} {c : CCRef} {off n : Nat} (hpos : 0 < n) (hn : n ≤ 0x8000) (h : s.banksFull c.coreRef off n) :
    s.bankAwake c off n = (s, true) := by
  refine if_pos (List.all_eq_true.2 fun b hb => ?_)
  obtain ⟨hlo, hhi⟩ := (mem_banksOf hpos hn b).1 hb
  rw [h b hlo hhi, beq_self_eq_true]

theorem bankAwake_of_not_full {s : State} {c : CCRef} {off n : Nat} (hpos : 0 < n) (hn : n ≤ 0x8000) (h : ¬ s.banksFull c.coreRef off n) :
    s.bankAwake c off n = ((banksOf off n).foldl (fun s b => s.touchBank c b) s, false) := by
  refine if_neg fun hall => h fun b hlo hhi => ?_
  exact eq_of_beq (List.all_eq_true.1 hall b ((mem_banksOf hpos hn b).2 ⟨hlo, hhi⟩))

end Sys2Proof.Machine

namespace Sys2Proof
open Sys2Proof.Machine

theorem OnlyBankState.refl (s : State) : OnlyBankState s s := ⟨fun _ => rfl, rfl⟩

theorem OnlyBankState.trans {s u v : State} (h : OnlyBankState s u) (k : OnlyBankState u v) : OnlyBankState s v where
  cores c := by rw [k.cores, h.cores]
  rest := Eq.trans k.rest (congrArg (fun w : State => { w with cores := v.cores, fresh := v.fresh }) h.rest)

theorem OnlyBankState.holding {s u : State} (h : OnlyBankState s u) (c : CCRef) : u.holding c = s.holding c := by rw [h.rest]; rfl

theorem OnlyBankState.fresh (s : State) (n : Nat) : OnlyBankState s { s with fresh := n } := ⟨fun _ => rfl, rfl⟩

theorem OnlyBankState.modCore (s : State) (c : CoreRef) (f : Core → Core) (hf : ∀ k, f k = { k with scrPow := (f k).scrPow, seq := (f k).seq }) :
    OnlyBankState s (s.modCore c f) := by
  refine ⟨fun d => ?_, rfl⟩
  rw [State.core_modCore]
  split
  · next h => rw [h]; exact hf _
  · rfl

end Sys2Proof

namespace Sys2Proof.Machine
open Sys2Proof

theorem touchBank_only (s : State) (c : CCRef) (b : Nat) : OnlyBankState s (s.touchBank c b) := by
  unfold State.touchBank
  exact .modCore _ _ _ fun _ => rfl

theorem touchBank_seq (s : State) (c : CCRef) (b : Nat) (d : CoreRef) : ((s.touchBank c b).core d).seq = (s.core d).seq := by
  unfold State.touchBank
  rw [State.core_modCore]
  split
  · next h => rw [h]
  · rfl

theorem touchBanks_only (c : CCRef) (l : List Nat) (s : State) : OnlyBankState s (l.foldl (fun s b => s.touchBank c b) s) := by
  induction l generalizing s with
  | nil => exact .refl s
  | cons b l ih => exact (touchBank_only s c b).trans (ih _)

theorem touchBanks_seq (c : CCRef) (d : CoreRef) (l : List Nat) (s : State) :
    ((l.foldl (fun s b => s.touchBank c b) s).core d).seq = (s.core d).seq := by
  induction l generalizing s with
  | nil => rfl
  | cons b l ih => exact (ih _).trans (touchBank_seq s c b d)

theorem takeSeq_only (s : State) (c : CoreRef) : OnlyBankState s (s.takeSeq c).2 := by
  show OnlyBankState s (s.modCore c fun k => { k with seq := k.seq + 1 })
  exact .modCore _ _ _ fun _ => rfl

/-! ### Reading a scratchpad -/

/-- What a read gives: the bytes that stand there, but for those a copy has still to write (R242). -/
theorem scrRead_spec (s : State) (c : CCRef) (off n : Nat) :
    OnlyBankState s (s.scrRead c off n).1 ∧ (s.scrRead c off n).2.length = n ∧
      ∀ k < n, s.shadowed c (off + k) = false → (s.scrRead c off n).2.getD k 0 = scrByte s c (off + k) := by
  unfold State.scrRead
  dsimp only
  split
  · refine ⟨(touchBank_only s c _).trans (.fresh _ _), by simp, fun k hk hsh => ?_⟩
    simp [hk, hsh, scrByte]
  · refine ⟨touchBank_only s c _, by simp [Holding.bytesAt], fun k hk _ => ?_⟩
    simp [hk, Holding.bytesAt, scrByte]

/-! ### Writing a scratchpad -/

theorem get_scrPut (t : Tab Byte) (off : Nat) (bs : List Byte) (a : Nat) :
    Tab.get 0 (scrPut t off bs) a = if off ≤ a ∧ a < off + bs.length then bs.getD (a - off) 0 else Tab.get 0 t a := by
  induction bs generalizing t off with
  | nil => simp [scrPut]
  | cons b bs ih =>
    rw [scrPut, ih, Tab.get_put]
    by_cases h : a = off
    · subst h; simp
    · by_cases h1 : off + 1 ≤ a
      · obtain ⟨k, rfl⟩ := Nat.exists_eq_add_of_le h1
        have hk : off + 1 + k - off = k + 1 := by omega
        have hk' : off + 1 + k - (off + 1) = k := by omega
        simp only [List.length_cons, hk, hk', List.getD_cons_succ, h, if_false]
        congr 1
        exact propext (by omega)
      · rw [if_neg (by omega), if_neg h, if_neg (by omega)]

end Sys2Proof.Machine

namespace Sys2Proof
open Sys2Proof.Machine

/-- What leaves a scratchpad's bytes alone, but may change the rest of what a store to it changes. -/
def ScratchKept (s u : State) (c : CCRef) : Prop := ∀ off, ScratchStored s u c off []

theorem ScratchKept.of_bankState {s u : State} (c : CCRef) (h : OnlyBankState s u) : ScratchKept s u c := fun off => by
  refine ⟨fun a => ?_, fun d _ => h.holding d, by rw [h.holding], h.cores, ?_⟩
  · rw [if_neg (by simp)]
    exact congrArg (fun x : Holding => Tab.get 0 x.scratch a) (h.holding c)
  · rw [h.rest]

theorem ScratchKept.stored {s u v : State} {c : CCRef} {off : Nat} {bs : List Byte} (h : ScratchKept s u c) (k : ScratchStored u v c off bs) :
    ScratchStored s v c off bs := by
  have h := h off
  refine ⟨fun a => ?_, fun d hd => by rw [k.others d hd, h.others d hd], by rw [k.same, h.same], fun d => by rw [k.cores, h.cores], ?_⟩
  · simp only [k.stored, h.stored]
    rw [if_neg (c := off ≤ a ∧ a < off + ([] : List Byte).length) (by simp)]
  · exact Eq.trans k.rest (congrArg (fun w : State =>
      { w with holds := v.holds, cores := v.cores, scrPois := v.scrPois, fresh := v.fresh, notes := v.notes }) h.rest)

theorem ScratchKept.trans {s u v : State} {c : CCRef} (h : ScratchKept s u c) (k : ScratchKept u v c) : ScratchKept s v c := fun off =>
  h.stored (k off)

theorem ScratchStored.kept {s u v : State} {c : CCRef} {off : Nat} {bs : List Byte} (h : ScratchStored s u c off bs) (k : ScratchKept u v c) :
    ScratchStored s v c off bs := by
  have k := k off
  refine ⟨fun a => ?_, fun d hd => by rw [k.others d hd, h.others d hd], by rw [k.same, h.same], fun d => by rw [k.cores, h.cores], ?_⟩
  · rw [k.stored, if_neg (by simp), h.stored]
  · exact Eq.trans k.rest (congrArg (fun w : State =>
      { w with holds := v.holds, cores := v.cores, scrPois := v.scrPois, fresh := v.fresh, notes := v.notes }) h.rest)

/-- A holding changed in its bytes, their stamps and its banks. -/
theorem scratchStored_modHolding {s : State} {c : CCRef} {off : Nat} {bs : List Byte} {f : Holding → Holding}
    (hf : f (s.holding c) = { s.holding c with scratch := (f (s.holding c)).scratch, wseq := (f (s.holding c)).wseq, banks := (f (s.holding c)).banks })
    (hbytes : ∀ a, Tab.get 0 (f (s.holding c)).scratch a = if off ≤ a ∧ a < off + bs.length then bs.getD (a - off) 0 else scrByte s c a) :
    ScratchStored s (s.modHolding c f) c off bs := by
  have hown : (s.modHolding c f).holding c = f (s.holding c) := by rw [State.modHolding, State.holding_setHolding, if_pos rfl]
  refine ⟨fun a => ?_, fun d hd => ?_, ?_, fun d => rfl, rfl⟩
  · rw [scrByte, hown, hbytes]
  · rw [State.modHolding, State.holding_setHolding, if_neg hd]
  · rw [hown, ← hf]

end Sys2Proof

namespace Sys2Proof.Machine
open Sys2Proof

theorem reviveBank_kept (s : State) (c : CCRef) (b : Nat) : ScratchKept s (s.reviveBank c b) c := fun off => by
  unfold State.reviveBank
  refine scratchStored_modHolding ?_ fun a => ?_
  · split <;> [split; skip] <;> rfl
  · rw [if_neg (by simp)]
    split <;> [split; skip] <;> rfl

theorem noteScr_kept (s : State) (c : CCRef) (off n : Nat) : ScratchKept s (s.noteScr c off n) c := fun o => by
  unfold State.noteScr
  split
  · exact ⟨fun a => by rw [if_neg (by simp)]; rfl, fun _ _ => rfl, rfl, fun _ => rfl, rfl⟩
  · exact ScratchKept.of_bankState c (.refl s) o

theorem scrPois_kept (s : State) (c : CCRef) (p : List (CCRef × Nat)) : ScratchKept s { s with scrPois := p } c := fun o =>
  ⟨fun a => by rw [if_neg (by simp)]; rfl, fun _ _ => rfl, rfl, fun _ => rfl, rfl⟩

theorem touchRevive_kept (c : CCRef) (l : List Nat) (s : State) :
    ScratchKept s (l.foldl (fun s b => (s.touchBank c b).reviveBank c b) s) c := by
  induction l generalizing s with
  | nil => exact .of_bankState c (.refl s)
  | cons b l ih => exact ((ScratchKept.of_bankState c (touchBank_only s c b)).trans (reviveBank_kept _ c b)).trans (ih _)

/-- Bytes that land at the banks are stored (R222, R255). -/
theorem scrLand_stored (s : State) (c : CCRef) (off : Nat) (bs : List Byte) (seq : Nat) : ScratchStored s (s.scrLand c off bs seq) c off bs := by
  unfold State.scrLand
  dsimp only
  split
  · next hn =>
    rw [List.length_eq_zero_iff.1 hn]
    exact ScratchKept.of_bankState c (.refl s) off
  · have hput : ∀ u : State, ScratchStored u
        (u.modHolding c fun x => { x with scratch := scrPut x.scratch off bs, wseq := scrStamp x.wseq off seq bs.length }) c off bs :=
      fun u => scratchStored_modHolding rfl fun a => get_scrPut _ off bs a
    have hnoted := ((touchRevive_kept c (banksOf off bs.length) s).stored (hput _)).kept (noteScr_kept _ c off bs.length)
    split
    · exact hnoted
    · exact hnoted.kept (scrPois_kept _ c _)

theorem scrWrite_stored (s : State) (c : CCRef) (tag off : Nat) (bs : List Byte) : ScratchStored s (s.scrWrite c tag off bs) c off bs :=
  (ScratchKept.of_bankState c (takeSeq_only s c.coreRef)).stored (scrLand_stored _ c off bs _)

end Sys2Proof.Machine

namespace Sys2Proof.Machine
open Sys2Proof

/-! ### What an access does at the bank -/

theorem ATy.bytes_eq (ty : ATy) : ty.bytes = 4 ∨ ty.bytes = 8 := by cases ty <;> decide

theorem Sz.bytes_le (sz : Sz) : sz.bytes ≤ 16 := by cases sz <;> decide

theorem reqOf_size {core : Nat} {x : Thread} {i : Instr} {r : Req} (hi : isAccess i = true) (hreq : reqOf core x i = some r) :
    0 < r.size ∧ r.size ≤ 16 := by
  have hsz (sz : Sz) : 0 < sz.bytes ∧ sz.bytes ≤ 16 := ⟨Sz.bytes_pos sz, Sz.bytes_le sz⟩
  have hty (ty : ATy) : 0 < ty.bytes ∧ ty.bytes ≤ 16 := by have := ATy.bytes_eq ty; omega
  unfold isAccess at hi
  split at hi
  case h_8 => cases hi
  case h_5 | h_6 | h_7 => cases hreq; exact hty _
  all_goals cases hreq; exact hsz _

/-- An access that waits for banks without full power (log 77). -/
def needsPower (i : Instr) : Bool := i.isLoad || (i.isAtomic && !i.isRed)

section Bank

variable {s : State} {t : TRef} {x : Thread} {i : Instr} {r : Req} {off : Nat}

/-- A load, an ATOM or a CAS of a bank without full power is sent, once the banks have begun their wake. -/
theorem bankAccess_asleep (hpos : 0 < r.size) (hn : r.size ≤ 0x8000) (hneeds : needsPower i = true)
    (hfull : ¬ s.banksFull t.coreRef off r.size) :
    s.bankAccess t x i none r off = ((banksOf off r.size).foldl (fun s b => s.touchBank t.ccRef b) s).sendAndStand t x i
      (if i.isAtomic then .atomic else if i.acqScope.isSome then .acquire else .load) r (.scr t.core off) := by
  have hneeds : (i.isLoad || (i.isAtomic && !i.isRed)) = true := hneeds
  simp only [State.bankAccess, hneeds, if_true, bankAwake_of_not_full (c := t.ccRef) hpos hn hfull]
  rfl

/-- Any other access, and one whose banks have full power, does not wait. -/
theorem bankAwake_of_ready (hpos : 0 < r.size) (hn : r.size ≤ 0x8000) (hready : s.banksFull t.coreRef off r.size ∨ needsPower i = false) :
    (if i.isLoad || (i.isAtomic && !i.isRed) then s.bankAwake t.ccRef off r.size else (s, true)) = (s, true) := by
  rcases hready with h | h
  · rw [bankAwake_of_full hpos hn h, ite_self]
  · exact if_neg (Bool.eq_false_iff.1 h)

theorem bankAccess_load (hpos : 0 < r.size) (hn : r.size ≤ 0x8000) (hready : s.banksFull t.coreRef off r.size ∨ needsPower i = false)
    (hload : i.isLoad = true) : s.bankAccess t x i none r off =
      (s.scrRead t.ccRef off r.size).1.retire t x i.hints (loadRes i (s.scrRead t.ccRef off r.size).2) := by
  simp only [State.bankAccess, bankAwake_of_ready hpos hn hready]
  simp [hload, State.doneNow]

theorem bankAccess_store (hpos : 0 < r.size) (hn : r.size ≤ 0x8000) (hload : i.isLoad = false) (hatomic : i.isAtomic = false) :
    s.bankAccess t x i none r off =
      (s.scrWrite t.ccRef (groupTag t.grp) off ((dataBytes r.data).take r.size)).retire t x i.hints {} := by
  have hneeds : needsPower i = false := by simp [needsPower, hload, hatomic]
  simp only [State.bankAccess, bankAwake_of_ready hpos hn (.inr hneeds)]
  simp [hload, hatomic, State.doneNow]

section Atomic

variable (hpos : 0 < r.size) (hn : r.size ≤ 0x8000) (hready : s.banksFull t.coreRef off r.size ∨ needsPower i = false)
  (hatomic : i.isAtomic = true)
include hpos hn hready hatomic

/-- An atomic writes its new value at the bank and returns the old one. -/
theorem bankAccess_atomic {v : Nat} (hv : atomicNew i r.data (leNat (s.scrRead t.ccRef off r.size).2) = some v) :
    s.bankAccess t x i none r off =
      ((s.scrRead t.ccRef off r.size).1.scrWrite t.ccRef (groupTag t.grp) off (leBytes v r.size)).retire t x i.hints
        (loadRes i (s.scrRead t.ccRef off r.size).2) := by
  simp only [State.bankAccess, bankAwake_of_ready hpos hn hready]
  simp [Instr.isLoad_of_isAtomic hatomic, hatomic, hv, State.doneNow]

/-- A CAS that does not match only reads. -/
theorem bankAccess_failed (hv : atomicNew i r.data (leNat (s.scrRead t.ccRef off r.size).2) = none) :
    s.bankAccess t x i none r off =
      (s.scrRead t.ccRef off r.size).1.retire t x i.hints (loadRes i (s.scrRead t.ccRef off r.size).2) := by
  simp only [State.bankAccess, bankAwake_of_ready hpos hn hready]
  simp [Instr.isLoad_of_isAtomic hatomic, hatomic, hv, State.doneNow]

end Atomic

end Bank

theorem rdMany_take (x : Thread) (b : VReg) (m n : Nat) : (x.rdMany b (m + n)).take m = x.rdMany b m := by
  simp [Thread.rdMany, ← List.map_take, List.take_range]

theorem rdMany_drop (x : Thread) (b : VReg) (m n : Nat) : (x.rdMany b (m + n)).drop m = x.rdMany (b + BitVec.ofNat 7 m) n := by
  simp only [Thread.rdMany, ← List.map_drop, List.range_add, List.drop_append, List.length_range]
  simp [Function.comp_def, BitVec.ofNat_add, BitVec.add_assoc, List.drop_eq_nil_of_le]

/-- Settles O23: the checks of the own scratchpad pass, and the access is done at the bank, or waits for its power. -/
theorem ownScratchpadAccess : Obligations.OwnScratchpadAccess := by
  intro s t x g i r off hr hslot hreq hw hi halign hread hpod hlate
  obtain ⟨hpos, hsize⟩ := reqOf_size hi hreq
  have hn : r.size ≤ 0x8000 := by omega
  have hexec : exec i s = .next (s.proceed t x i r (.scr t.core off) 0) := by
    rw [exec_access hr hi hslot hreq hw, accessRun_own hw halign hread hpod hlate]
  refine ⟨fun sc hrel => by rw [hexec, proceed_of_release hrel], fun hrel hacq => by rw [hexec, proceed_of_acquirePod hrel hacq],
    fun hrel hacq => ?_⟩
  rw [proceed_of_plain hrel hacq, perform_own] at hexec
  refine ⟨fun hfull hneeds => ?_, fun hready => ?_⟩
  · have hneeds : needsPower i = true := by simpa [needsPower] using hneeds
    rw [bankAccess_asleep hpos hn hneeds hfull] at hexec
    exact ⟨_, touchBanks_only .., touchBanks_seq .., sendsAndStands_of_exec hexec fun m hm =>
      ⟨hm.loc, hm.size, fun hatomic => ⟨by rw [hm.kind, if_pos hatomic], hm.atomicData (by rw [hm.kind, if_pos hatomic])⟩⟩⟩
  · have hready : s.banksFull t.coreRef off r.size ∨ needsPower i = false := hready.imp_right fun ⟨hload, hred⟩ => by
      simpa [needsPower, hload] using hred
    obtain ⟨honly, hbytes⟩ := scrRead_spec s t.ccRef off r.size
    have hload (h : i.isLoad = true) : ∃ s1 bs, OnlyBankState s s1 ∧ (bs.length = r.size ∧
        ∀ k < r.size, s.shadowed t.ccRef (off + k) = false → bs.getD k 0 = scrByte s t.ccRef (off + k)) ∧
        CompletesFrom s1 s i t x (loadRes i bs) :=
      ⟨_, _, honly, hbytes, completesFrom_of_exec (by rw [hexec, bankAccess_load hpos hn hready h])⟩
    have hstore (hl : i.isLoad = false) (ha : i.isAtomic = false) :
        ∃ s1, ScratchStored s s1 t.ccRef off ((dataBytes r.data).take r.size) ∧ CompletesFrom s1 s i t x {} :=
      ⟨_, scrWrite_stored .., completesFrom_of_exec (by rw [hexec, bankAccess_store hpos hn hl ha])⟩
    have hatomic (ha : i.isAtomic = true) {v : Nat} (hv : atomicNew i r.data (leNat (s.scrRead t.ccRef off r.size).2) = some v) :
        ∃ s1, ScratchStored s s1 t.ccRef off (leBytes v r.size) ∧
          CompletesFrom s1 s i t x (loadRes i (s.scrRead t.ccRef off r.size).2) :=
      ⟨_, (ScratchKept.of_bankState _ honly).stored (scrWrite_stored ..),
        completesFrom_of_exec (by rw [hexec, bankAccess_atomic hpos hn hready ha hv])⟩
    refine ⟨?_, ?_, ?_, ?_, ?_, ?_, ?_⟩
    · rintro h sz ord d a b c rfl
      exact hload rfl
    · rintro h sz ord d a b c rfl
      exact hload rfl
    · rintro h sz d a b c rfl
      exact hstore rfl rfl
    · rintro h sz d a b c rfl
      exact hstore rfl rfl
    · rintro h op ty ord sc d a c b rfl
      obtain ⟨s1, hst, hdone⟩ := hatomic rfl rfl
      exact ⟨s1, _, hbytes, hst, hdone⟩
    · rintro h op ty ord sc a c b rfl
      obtain ⟨s1, hst, hdone⟩ := hatomic rfl rfl
      exact ⟨s1, _, hbytes, hst, hdone⟩
    · rintro h ty ord sc d a c b rfl
      cases hreq
      by_cases hmatch : leNat (s.scrRead t.ccRef off ty.bytes).2 = wordsNat (x.rdMany b ty.regs)
      · have hv : atomicNew (.cas h ty ord sc d a c b) (x.rdMany b (2 * ty.regs)) (leNat (s.scrRead t.ccRef off ty.bytes).2) =
            some (wordsNat (x.rdMany (b + BitVec.ofNat 7 ty.regs) ty.regs)) := by
          simp only [atomicNew, two_mul, rdMany_take, rdMany_drop, hmatch, if_true]
        obtain ⟨s1, hst, hdone⟩ := hatomic rfl hv
        exact ⟨s1, _, hbytes, hdone, fun _ => hst, fun h => absurd hmatch h⟩
      · have hv : atomicNew (.cas h ty ord sc d a c b) (x.rdMany b (2 * ty.regs)) (leNat (s.scrRead t.ccRef off ty.bytes).2) = none := by
          simp only [atomicNew, two_mul, rdMany_take, hmatch, if_false]
        exact ⟨_, _, hbytes, completesFrom_of_exec (by rw [hexec, bankAccess_failed hpos hn hready rfl hv]), fun h => absurd h hmatch,
          fun _ => honly⟩

end Sys2Proof.Machine

namespace Sys2Proof.Machine
open Sys2Proof

/-! ## Scratchpad banks, leases and the write-combining timeout (O32) -/

/-- Where the checks of R97 let an instruction execute and no other holds the probe slot, `issueMem` runs its body on the issuing thread. -/
theorem issueMem_of_runs {s : State} {i : Instr} {t : TRef} {x : Thread} {g : Group} (hr : Runs s i t x g) (hslot : s.slotBusy t x = false)
    (body : TRef → Thread → Group → State) : issueMem s i body = .next (body t x g) := by
  rw [issueMem, issue_of_runs hr, hslot]
  rfl

/-! ### A bank dies (R256, R257) -/

theorem State.holding_modHolding_self (s : State) (c : CCRef) (f : Holding → Holding) : (s.modHolding c f).holding c = f (s.holding c) := by
  rw [State.modHolding, State.holding_setHolding, if_pos rfl]

theorem Tab.get_clear (t : Tab Byte) (lo hi a : Nat) (h : a < lo ∨ hi ≤ a) : Tab.get 0 (Tab.clear t lo hi) a = Tab.get 0 t a := by
  have := Tab.get_filter (0 : Byte) t (fun k => decide (k < lo) || decide (hi ≤ k)) a
  rw [Tab.clear, this, if_pos (by simpa using h)]

theorem get_freeFill (s : State) (c : CCRef) (base n : Nat) (t : Tab Byte) (a : Nat) (h : a < base ∨ base + n ≤ a) :
    Tab.get 0 (freeFill s c base n t) a = Tab.get 0 t a := by
  induction n generalizing t with
  | zero => rfl
  | succ n ih =>
    rw [freeFill, ih _ (by omega)]
    split
    · rw [Tab.get_put_ne]; omega
    · rfl

theorem killBank_threads (s : State) (c : CCRef) (b : Nat) : (s.killBank c b).threads = s.threads := by
  unfold State.killBank
  dsimp only
  split <;> rfl

theorem killBank_bankLive (s : State) (c : CCRef) (b b' : Nat) :
    ((s.killBank c b).holding c).bankLive b' = ((s.holding c).bankLive b' && b' != b) := by
  have hbanks : ((s.killBank c b).holding c).banks =
      match (s.holding c).banks.get? b with | some k => (s.holding c).banks.set b { k with live := false } | none => (s.holding c).banks := by
    unfold State.killBank
    dsimp only
    rw [State.holding_modCore, State.holding_modHolding_self]
    split <;> rfl
  unfold Holding.bankLive
  rw [hbanks]
  by_cases hb : b' = b
  · subst hb
    cases h : (s.holding c).banks.get? b' <;> simp [h]
  · cases h : (s.holding c).banks.get? b <;> simp [hb, Dict.get?_set_ne]

theorem killBank_scrByte (s : State) (c : CCRef) {b off : Nat} (h : off / 0x8000 ≠ b) : scrByte (s.killBank c b) c off = scrByte s c off := by
  have hsize : bankSize = 0x8000 := rfl
  have hout : off < b * bankSize ∨ b * bankSize + bankSize ≤ off := by rw [hsize]; omega
  unfold scrByte State.killBank
  dsimp only
  rw [State.holding_modCore, State.holding_modHolding_self]
  dsimp only
  split
  · rw [get_freeFill _ _ _ _ _ _ hout, Tab.get_clear _ _ _ _ hout]
  · rw [Tab.get_clear _ _ _ _ hout]

/-- The banks of a list die, and no other. -/
theorem killBanks_spec (c : CCRef) (l : List Nat) (s : State) :
    let u := l.foldl (fun s b => s.killBank c b) s
    u.hbm = s.hbm ∧ u.threads = s.threads ∧ (∀ b, (u.holding c).bankLive b = ((s.holding c).bankLive b && !l.contains b)) ∧
      ∀ off, off / 0x8000 ∉ l → scrByte u c off = scrByte s c off := by
  induction l generalizing s with
  | nil => simp
  | cons a l ih =>
    obtain ⟨hhbm, hthr, hlive, hbyte⟩ := ih (s.killBank c a)
    refine ⟨hhbm.trans (State.killBank_hbm ..), hthr.trans (killBank_threads ..), fun b => ?_, fun off hoff => ?_⟩
    · rw [List.foldl_cons, hlive, killBank_bankLive, List.contains_cons, Bool.and_assoc]
      congr 1
      cases h : b == a <;> simp [bne, h]
    · simp only [List.mem_cons, not_or] at hoff
      rw [List.foldl_cons, hbyte off hoff.2, killBank_scrByte s c hoff.1]

theorem State.memByte_of_hbm {s u : State} (h : u.hbm = s.hbm) (a : Nat) : u.memByte a = s.memByte a := by
  unfold State.memByte
  rw [show u.mem = s.mem from congrArg Prod.fst h]

/-! ### A bank wakes (R254, R258) -/

/-- A bank that has power, or is about to. -/
def Power.rises (p : Power) : Prop := p ≠ .off ∧ p ≠ .retention

theorem scrPower_touchBank_ne (s : State) (c : CCRef) {b b' : Nat} (h : b' ≠ b) :
    (s.touchBank c b).scrPower c.coreRef b' = s.scrPower c.coreRef b' := by
  unfold State.scrPower State.touchBank
  dsimp only
  rw [State.core_modCore_self, Dict.get?_set_ne _ _ h]
  rfl

theorem scrPower_touchBank_self (s : State) (c : CCRef) (b : Nat) : ((s.touchBank c b).scrPower c.coreRef b).rises := by
  unfold State.touchBank
  dsimp only
  unfold State.scrPower
  rw [State.core_modCore_self, Dict.get?_set_self]
  dsimp only
  split <;> simp_all [Power.rises]

theorem touchBank_rises {s : State} {c : CCRef} {b : Nat} (a : Nat) (h : (s.scrPower c.coreRef b).rises) :
    ((s.touchBank c a).scrPower c.coreRef b).rises := by
  by_cases hb : b = a
  · rw [hb]; exact scrPower_touchBank_self s c a
  · rwa [scrPower_touchBank_ne s c hb]

/-- SWAKE on one bank. -/
def State.swakeBank (s : State) (c : CCRef) (b : Nat) : State := if (s.holding c).bankLive b then s.touchBank c b else s

theorem swakeBank_only (s : State) (c : CCRef) (b : Nat) : OnlyBankState s (s.swakeBank c b) := by
  unfold State.swakeBank
  split
  · exact touchBank_only s c b
  · exact .refl s

/-- The live banks of a list rise, and those that had risen stay so. -/
theorem swakeBanks_spec (c : CCRef) (l : List Nat) (s : State) :
    let u := l.foldl (fun s b => s.swakeBank c b) s
    OnlyBankState s u ∧ ∀ b, (b ∈ l ∧ (s.holding c).bankLive b = true) ∨ (s.scrPower c.coreRef b).rises → (u.scrPower c.coreRef b).rises := by
  induction l generalizing s with
  | nil => exact ⟨.refl s, fun b h => by simpa using h⟩
  | cons a l ih =>
    obtain ⟨honly, hrises⟩ := ih (s.swakeBank c a)
    have hone := swakeBank_only s c a
    refine ⟨hone.trans honly, fun b h => hrises b ?_⟩
    rw [hone.holding]
    unfold State.swakeBank
    rcases h with ⟨hmem, hlive⟩ | h
    · rcases List.mem_cons.1 hmem with rfl | hmem
      · rw [if_pos hlive]
        exact .inr (scrPower_touchBank_self s c b)
      · exact .inl ⟨hmem, hlive⟩
    · split
      · exact .inr (touchBank_rises a h)
      · exact .inr h

/-! ### SDROP and SWAKE -/

theorem mem_bankRange (first count : BitVec 7) (b : Nat) : b ∈ bankRange first count ↔ first.toNat ≤ b ∧ b < first.toNat + count.toNat := by
  simp only [bankRange, List.mem_map, List.mem_range]
  constructor
  · rintro ⟨i, hi, rfl⟩; omega
  · rintro ⟨hlo, hhi⟩; exact ⟨b - first.toNat, by omega, by omega⟩

theorem bankRange_all (first count : BitVec 7) (p : Nat → Bool) :
    (bankRange first count).all p = true ↔ ∀ b, first.toNat ≤ b ∧ b < first.toNat + count.toNat → p b = true := by
  simp only [List.all_eq_true, mem_bankRange]

theorem exec_sdrop {s : State} {t : TRef} {x : Thread} {g : Group} {h : Hints} {first count : BitVec 7} (hr : Runs s (.sdrop h first count) t x g)
    (hslot : s.slotBusy t x = false) : exec (.sdrop h first count) s = .next
      (if s.scrOwed t then s.hold t
      else if (bankRange first count).all fun b => (s.holding t.ccRef).owns t.grp b then
        ((bankRange first count).foldl (fun s b => s.killBank t.ccRef b) s).retire t x h {}
      else s.trapHere t x .badwin) :=
  issueMem_of_runs hr hslot _

theorem exec_swake {s : State} {t : TRef} {x : Thread} {g : Group} {h : Hints} {first count : BitVec 7} (hr : Runs s (.swake h first count) t x g)
    (hslot : s.slotBusy t x = false) : exec (.swake h first count) s = .next
      (if (bankRange first count).all fun b => (s.holding t.ccRef).owns t.grp b then
        ((bankRange first count).foldl (fun s b => s.swakeBank t.ccRef b) s).retire t x h {}
      else s.trapHere t x .badwin) :=
  issueMem_of_runs hr hslot _

/-! ### The write-combining timeout (R240) -/

/-- An entry that drains leaves the buffer as one store with its bytes and mask. -/
theorem drainEntry_spec (s : State) (c : CoreRef) (w : WcEntry) (fencer : Option TRef) :
    ∃ m : MOp, OnlyCores s (s.drainEntry c w fencer) ∧ ((s.drainEntry c w fencer).core c).wc = (s.core c).wc.filter (fun e => e.id != w.id) ∧
      ((s.drainEntry c w fencer).core c).mops = (s.core c).mops ++ [m] ∧ m.kind = .wc ∧ m.loc = w.loc ∧ m.data = w.bytes ∧ m.mask = w.mask ∧
      m.ans = .pending := by
  unfold State.drainEntry
  dsimp only
  have hseq : (s.takeSeq c).2.core c = { s.core c with seq := (s.core c).seq + 1 } := State.core_modCore_self ..
  rw [State.core_modCore_self, hseq]
  exact ⟨_, rfl, rfl, rfl, rfl, rfl, rfl, rfl, rfl⟩

/-- The one entry of a number, and what is left of the buffer without it. -/
theorem filter_split {pre rest : List WcEntry} {w : WcEntry} (h : ∀ e ∈ pre ++ rest, e.id ≠ w.id) :
    (pre ++ w :: rest).filter (fun e => e.id == w.id) = [w] ∧ (pre ++ w :: rest).filter (fun e => e.id != w.id) = pre ++ rest := by
  have hpre : ∀ e ∈ pre, e.id ≠ w.id := fun e he => h e (List.mem_append_left _ he)
  have hrest : ∀ e ∈ rest, e.id ≠ w.id := fun e he => h e (List.mem_append_right _ he)
  simp only [List.filter_append, List.filter_cons, beq_self_eq_true, bne_self_eq_false, if_true]
  rw [List.filter_eq_nil_iff.2 (by simpa using hpre), List.filter_eq_nil_iff.2 (by simpa using hrest),
    List.filter_eq_self.2 (by simpa using hpre), List.filter_eq_self.2 (by simpa using hrest)]
  simp

theorem exec_wcEntryTimeout {s : State} {c : CoreRef} {w : WcEntry} {pre rest : List WcEntry} (hwc : (s.core c).wc = pre ++ w :: rest)
    (hid : ∀ e ∈ pre ++ rest, e.id ≠ w.id) (hdue : w.first.toNat + 32000 ≤ s.time.gtime.toNat) :
    exec (.wcEntryTimeout c w.id) s = .next (s.drainEntry c w none) := by
  have hexec : exec (.wcEntryTimeout c w.id) s =
    .next (s.drainWhere c (fun e => e.id == w.id && decide (e.first.toNat + 32000 ≤ s.time.gtime.toNat)) none) := rfl
  rw [hexec, State.drainWhere, hwc, ← List.filter_filter, List.filter_comm, (filter_split hid).1]
  simp [hdue]

/-- Settles O32: SDROP and SWAKE go through their banks one by one, and each timer drops or sends what it names. -/
theorem banksLeasesAndTimers : Obligations.BanksLeasesAndTimers := by
  refine ⟨fun s t x g h first count => ?_, fun s c line => ?_, fun s c id w pre rest hwc hid hothers hdue => ?_⟩
  · intro named held
    have hnamed (b : Nat) : b ∈ bankRange first count ↔ named b := mem_bankRange first count b
    have hheld := bankRange_all first count fun b => (s.holding t.ccRef).owns t.grp b
    refine ⟨fun hr hslot howed => by rw [exec_sdrop hr hslot, if_pos howed], fun hr hslot howed => ⟨fun hh => ?_, fun hh => ?_⟩,
      fun hr hslot => ⟨fun hh => ?_, fun hh => ?_⟩⟩
    · obtain ⟨hhbm, hthr, hlive, hbyte⟩ := killBanks_spec t.ccRef (bankRange first count) s
      refine ⟨_, State.memByte_of_hbm hhbm, hthr, fun b hb => ?_, fun b hb => ?_, fun off hoff => hbyte off (by rwa [hnamed]),
        completesFrom_of_exec (by rw [exec_sdrop hr hslot, if_neg (by simp [howed]), if_pos (hheld.2 hh)]; rfl)⟩
      · rw [hlive, List.contains_iff_mem.2 ((hnamed b).2 hb), Bool.not_true, Bool.and_false]
      · rw [hlive, Bool.eq_false_iff.2 fun hc => hb ((hnamed b).1 (List.contains_iff_mem.1 hc)), Bool.not_false, Bool.and_true]
    · rw [exec_sdrop hr hslot, if_neg (by simp [howed]), if_neg (mt hheld.1 hh)]
    · obtain ⟨honly, hrises⟩ := swakeBanks_spec t.ccRef (bankRange first count) s
      exact ⟨_, honly, fun b hb hlive => hrises b (.inl ⟨(hnamed b).2 hb, hlive⟩),
        completesFrom_of_exec (by rw [exec_swake hr hslot, if_pos (hheld.2 hh)]; rfl)⟩
    · rw [exec_swake hr hslot, if_neg (mt hheld.1 hh)]
  · refine ⟨_, rfl, rfl, fun d hd => State.core_modCore_ne s _ hd, fun l => ?_⟩
    rw [State.core_modCore_self]
    simp [List.mem_filter, imp_iff_not_or]
  · subst hid
    obtain ⟨m, hcores, hleft, hsent⟩ := drainEntry_spec s c w none
    exact ⟨_, m, exec_wcEntryTimeout hwc hothers hdue, hcores, by rw [hleft, hwc, (filter_split hothers).2], hsent⟩

end Sys2Proof.Machine

namespace Sys2Proof.Machine
open Sys2Proof

/-! ## Answers and signals that end a hold (O28, O40)

GAP runs from issue (R93), so a thread that has stood at its instruction keeps what is left of it when the instruction retires: `State.finish` retires
from the record that still names the instruction. `Finishes` retires from `awake x`, which names none and so takes the hint's GAP anew. The two differ
as soon as the gap of the thread has run down. -/

/-- In the terms of `Finishes`, a thread goes on with the GAP of the instruction it stood at. -/
theorem finishes_gap {s o : State} {t : TRef} {x : Thread} {r : Res} (h : Finishes s o t x r) (hstep : x.step = false) :
    (o.thread? t).map (·.gap) = some x.curHints.gap.toNat := by
  obtain ⟨s', y, hy, hret, -, rfl⟩ := h
  have hafter : afterStep s' t x y.pc = s' := if_neg (by simp [hstep])
  have hthread : (((afterStep s' t x y.pc).wakeThreadBanks t).respond t).thread? t = some y := by
    rw [hafter, State.thread?, State.respond_threads, ← State.thread?, (wakeThreadBanks_only ..).thread?, hy]
  rw [hthread, Option.map_some, hret.rest]
  rfl

/-! ### An ATOM whose answer comes after its GAP has run down -/

/-- An ATOM of memory, with GAP 3. -/
def gapAtom : Instr := .atom { Hints.none with gap := 3 } .add .n32 .relaxed .die 0 2 0 1

/-- Its operation, which the home has performed. -/
def gapAtomOp : MOp :=
  { seq := 0, born := 0, thr := demoThread, entry := none, kind := .atomic, instr := gapAtom, pc := 0x100000, gen := 0, ea := 0x8000,
    loc := .mem 0x8000 0 0 false, size := 4, data := [1, 0, 0, 0], mask := List.replicate 4 true, contrib := [], cov := List.replicate 4 false,
    ans := .done 0 [0, 0, 0, 0] }

/-- The thread that stands for the answer, with no GAP left. -/
def atomThread : Thread := { Thread.start 0 0x100000 8 with ph := .answer 0, cur := some gapAtom, gap := 0 }

def atomAnswered : State :=
  ((State.reset.demo .general).setThread demoThread atomThread).modCore demoThread.coreRef fun k => { k with mops := [gapAtomOp] }

theorem atomAnswered_mop : (atomAnswered.core demoThread.coreRef).mop? 0 = some gapAtomOp := by decide +kernel

theorem atomAnswered_thread : atomAnswered.thread? demoThread = some atomThread := by decide +kernel

theorem atomAnswered_group : atomAnswered.group? demoThread.group = some (demoGroup .general) := by decide +kernel

theorem atomAnswered_return : atomAnswered.returnFull demoThread = false := by decide +kernel

/-- When the answer comes, the thread goes on with no GAP left. -/
theorem atomAnswered_gap :
    (match exec (.atomicAnswer demoThread.coreRef 0) atomAnswered with
      | .next s => (s.thread? demoThread).map (·.gap)
      | _ => none) = some 0 := by
  decide +kernel

/-- Refutes O28: a thread whose GAP has run down while it stood for its answer does not take the GAP of its hint again. -/
theorem not_answersToThreads : ¬ Obligations.AnswersToThreads := by
  unfold Obligations.AnswersToThreads
  rintro ⟨hanswer, -⟩
  obtain ⟨-, -, hatomic, -⟩ := hanswer atomAnswered demoThread.coreRef 0 gapAtomOp atomThread (demoGroup .general) atomAnswered_mop rfl
    atomAnswered_thread atomAnswered_group
  obtain ⟨hdone, -⟩ := hatomic (.inr rfl) rfl rfl atomAnswered_return
  obtain ⟨o, ho, hfinishes⟩ := hdone 0 [0, 0, 0, 0] rfl
  have hhint := finishes_gap hfinishes rfl
  have hleft := atomAnswered_gap
  rw [ho] at hleft
  exact absurd (hhint.symm.trans hleft) (by decide)

/-! ### A SIGWAIT whose comparison is met after its GAP has run down -/

/-- A SIGWAIT for the value 1, with GAP 3. -/
def gapSigwait : Instr := .sigwait { Hints.none with gap := 3 } .eq 2 (.imm 1)

/-- The thread that waits at it, with no GAP left. -/
def signalThread : Thread :=
  { Thread.start 0 0x100000 8 with st := .wait, ph := .signal 0 .eq 1, cur := some gapSigwait, gap := 0 }

/-- Its comparison, which a write has met. -/
def metWatch : SigWatch := { thr := demoThread, va := 0, loc := some (.mem 0 0 0 false), cmp := .eq, b := 1, due := false, hit := some (false, 0) }

def signalMet : State := ((State.reset.demo .general).setThread demoThread signalThread).watchSig metWatch

theorem signalMet_thread : signalMet.thread? demoThread = some signalThread := by decide +kernel

theorem signalMet_group : signalMet.group? demoThread.group = some (demoGroup .general) := by decide +kernel

theorem signalMet_runs : signalMet.ctxRuns demoThread.ctxRef = true := by decide +kernel

theorem signalMet_watch : signalMet.sigs.find? (fun v => v.thr == demoThread) = some metWatch := by decide +kernel

/-- What a met comparison comes to: the completion time of the write that met it. -/
theorem sigOutcome_met (s : State) {w : SigWatch} {loc : Place} {wct : DWord} (hhit : w.hit = some (false, wct)) (hloc : w.loc = some loc)
    (hscope : (s.line (loc.lineNo w.thr.part)).refuses w.thr.ctx w.thr.core .pkg = false) : (s.sigOutcome w).2 = .val 0 wct := by
  have hscope' : (s.line (loc.lineNo w.thr.ccRef.part)).refuses w.thr.ccRef.ctx w.thr.ccRef.core .pkg = false := hscope
  simp [State.sigOutcome, hhit, hloc, hscope']

theorem signalMet_scope : (signalMet.line (Place.lineNo metWatch.thr.part (.mem 0 0 0 false))).refuses metWatch.thr.ctx metWatch.thr.core .pkg = false := by
  decide +kernel

/-- When the wait ends, the thread goes on with no GAP left. -/
theorem signalMet_gap :
    (match exec (.signalWaitWake demoThread) signalMet with
      | .next s => (s.thread? demoThread).map (·.gap)
      | _ => none) = some 0 := by
  decide +kernel

/-- Refutes O40: a thread whose GAP has run down while it waited for its signal does not take the GAP of its hint again. -/
theorem not_signalInstructions : ¬ Obligations.SignalInstructions := by
  unfold Obligations.SignalInstructions
  rintro ⟨⟨-, -, hinstr⟩, -⟩
  obtain ⟨-, -, hwake⟩ := hinstr signalMet demoThread signalThread (demoGroup .general) Hints.none 2 (.imm 1) .eq
  obtain ⟨hval, -⟩ := hwake metWatch signalMet_thread signalMet_group signalMet_runs rfl (by decide) signalMet_watch
  obtain ⟨o, ho, hfinishes⟩ := hval 0 0 (sigOutcome_met signalMet rfl rfl signalMet_scope)
  have hhint := finishes_gap hfinishes rfl
  have hleft := signalMet_gap
  rw [ho] at hleft
  exact absurd (hhint.symm.trans hleft) (by decide)

end Sys2Proof.Machine

namespace Sys2Proof.Machine
open Sys2Proof

/-! ## Writes performed at the home of local memory (O27) -/

/-! ### What using a line at its home leaves alone -/

theorem State.line_modLine (s : State) (l n : Nat) (f : LineRec → LineRec) : (s.modLine l f).line n = if n = l then f (s.line l) else s.line n :=
  Dict.getD_set _ _ _ _ _

theorem State.line_modLine_self (s : State) (l : Nat) (f : LineRec → LineRec) : (s.modLine l f).line l = f (s.line l) := by
  rw [State.line_modLine, if_pos rfl]

/-- The records of lines with what an L2 notes of them, pooled lines and the age of entries: all that an access changes before its bytes are read or
written (R227, R237, R241). -/
structure LineUse (s u : State) : Prop where
  lines : ∀ l, u.line l = { s.line l with held := (u.line l).held, scope := (u.line l).scope, prio := (u.line l).prio, used := (u.line l).used,
                                          key := (u.line l).key }
  rest  : u = { s with lines := u.lines, pool := u.pool, poolAge := u.poolAge }

theorem LineUse.refl (s : State) : LineUse s s := ⟨fun _ => rfl, rfl⟩

theorem LineUse.trans {s u v : State} (h : LineUse s u) (k : LineUse u v) : LineUse s v where
  lines l := by rw [k.lines, h.lines]
  rest := Eq.trans k.rest (congrArg (fun w : State => { w with lines := v.lines, pool := v.pool, poolAge := v.poolAge }) h.rest)

theorem LineUse.modLine (s : State) (l : Nat) (f : LineRec → LineRec)
    (hf : ∀ r, f r = { r with held := (f r).held, scope := (f r).scope, prio := (f r).prio, used := (f r).used, key := (f r).key }) :
    LineUse s (s.modLine l f) := by
  refine ⟨fun n => ?_, rfl⟩
  rw [State.line_modLine]
  split
  · next h => rw [h]; exact hf _
  · rfl

theorem LineUse.modPool (s : State) (part line : Nat) (f : PoolLine → PoolLine) : LineUse s (s.modPool part line f) := ⟨fun _ => rfl, rfl⟩

theorem LineUse.poolAge (s : State) (n : Nat) : LineUse s { s with poolAge := n } := ⟨fun _ => rfl, rfl⟩

theorem l2Drop_use (s : State) (l : Nat) : LineUse s (s.l2Drop l) := by
  have hline : LineUse s (s.modLine l fun r => { r with held := false, scope := .none }) := .modLine s l _ fun _ => rfl
  unfold State.l2Drop
  dsimp only
  split
  · exact hline.trans (.modPool ..)
  · exact hline

/-- Room is made by lines that leave the L2. -/
theorem l2Evict_use (s : State) (x : CtxRef) (l n : Nat) (h : (s.l2Evict x l n).2 = true) : LineUse s (s.l2Evict x l n).1 := by
  fun_induction State.l2Evict
  case case1 => exact .refl _
  case case2 => exact .refl _
  case case3 => exact .refl _
  case case4 => cases h
  case case5 ih => exact (l2Drop_use ..).trans (ih h)

theorem l2Ready_use (s : State) (x : CtxRef) (loc : Place) (ch : BitVec 2) (load : Bool) (h : (s.l2Ready x loc ch load).2 = true) :
    LineUse s (s.l2Ready x loc ch load).1 := by
  cases loc with
  | scr core off => exact .refl s
  | mem pa k q p =>
    unfold State.l2Ready at h ⊢
    dsimp only at h ⊢
    split at h
    · next hfree => rw [if_pos hfree]; exact .refl s
    · next hfree => rw [if_neg hfree]; exact l2Evict_use _ _ _ _ h

theorem l2Use_use (s : State) (x : CtxRef) (loc : Place) (ch : BitVec 2) (load : Bool) : LineUse s (s.l2Use x loc ch load) := by
  unfold State.l2Use
  split
  · exact .refl s
  · dsimp only
    split
    · exact (LineUse.modLine s _ _ fun _ => rfl).trans (.poolAge ..)
    · split
      · exact .refl s
      · split
        · exact (LineUse.modLine s _ _ fun _ => rfl).trans (.poolAge ..)
        · exact .refl s

theorem scopeNote_use (s : State) (l : Nat) (v : Nat × Scope × Nat) : LineUse s (s.scopeNote l v) :=
  .modLine s l _ fun r => by split <;> rfl

theorem noteScope_use (s : State) (m : MOp) : LineUse s (s.noteScope m) := by
  unfold State.noteScope
  split
  · exact scopeNote_use ..
  · exact .refl s

theorem LineUse.hbm {s u : State} (h : LineUse s u) : u.hbm = s.hbm := by rw [h.rest]; rfl

theorem LineUse.core {s u : State} (h : LineUse s u) (c : CoreRef) : u.core c = s.core c := by rw [h.rest]; rfl

/-! ### Reading what stands at the home -/

/-- A state in which every sector reads under the same key, and translations find the same tables. -/
structure SameKeys (s u : State) : Prop where
  held : ∀ l, (u.line l).held = (s.line l).held
  key  : ∀ l, (u.line l).key = (s.line l).key
  rest : u = { s with lines := u.lines }

theorem noteScope_sameKeys (s : State) (m : MOp) : SameKeys s (s.noteScope m) := by
  unfold State.noteScope
  split
  · refine ⟨fun l => ?_, fun l => ?_, rfl⟩ <;>
    · rw [State.scopeNote, State.line_modLine]
      split
      · next h => rw [h]; split <;> rfl
      · rfl
  · exact ⟨fun _ => rfl, fun _ => rfl, rfl⟩

theorem SameKeys.sectorKey {s u : State} (h : SameKeys s u) (part slot q : Nat) : u.sectorKey part slot q = s.sectorKey part slot q := by
  unfold State.sectorKey
  simp only [h.held, h.key]
  rw [h.rest]
  rfl

theorem SameKeys.modCore {s u : State} (h : SameKeys s u) (c : CoreRef) (f : Core → Core) : SameKeys (s.modCore c f) (u.modCore c f) where
  held := h.held
  key := h.key
  rest := by
    have := congrArg (fun w : State => w.modCore c f) h.rest
    exact this

theorem SameKeys.setFresh {s u : State} (h : SameKeys s u) (n : Nat) : SameKeys { s with fresh := n } { u with fresh := n } where
  held := h.held
  key := h.key
  rest := congrArg (fun w : State => { w with fresh := n }) h.rest

theorem SameKeys.sectorPlain {s u : State} (h : SameKeys s u) (key q : Nat) : u.sectorPlain key q = s.sectorPlain key q := by
  rw [h.rest]
  rfl

theorem SameKeys.homeRead {s u : State} (h : SameKeys s u) (part slot pa n : Nat) :
    SameKeys (s.homeRead part slot pa n).1 (u.homeRead part slot pa n).1 ∧ (u.homeRead part slot pa n).2 = (s.homeRead part slot pa n).2 := by
  have hunder (k q f : Nat) : u.sectorUnder k q f = s.sectorUnder k q f := by rw [h.rest]; rfl
  have hbyte (a : Nat) : u.memByte a = s.memByte a := by rw [h.rest]; rfl
  have hfresh : u.fresh = s.fresh := by rw [h.rest]
  unfold State.homeRead
  simp only [h.sectorKey, h.sectorPlain, hunder, hbyte, hfresh]
  split
  · exact ⟨h, rfl⟩
  · exact ⟨h.setFresh _, rfl⟩

theorem SameKeys.foreignTable {s u : State} (h : SameKeys s u) (part table lvl : Nat) : u.foreignTable part table lvl = s.foreignTable part table lvl := by
  rw [h.rest]
  rfl

theorem SameKeys.foreignLeaf {s u : State} (h : SameKeys s u) (part : Nat) (e : DWord) (lvl : Nat) :
    u.foreignLeaf part e lvl = s.foreignLeaf part e lvl := by
  rw [h.rest]
  rfl

theorem SameKeys.poisoned {s u : State} (h : SameKeys s u) (pa n : Nat) : u.poisoned pa n = s.poisoned pa n := by
  rw [h.rest]
  rfl

theorem SameKeys.hintCheck {s u : State} (h : SameKeys s u) (x : CtxRef) (e : DWord) (lvl : Nat) : u.hintCheck x e lvl = s.hintCheck x e lvl := by
  rw [h.rest]
  rfl

theorem SameKeys.leafCheck {s u : State} (h : SameKeys s u) (x : CtxRef) (a : Acc) (e : DWord) (lvl : Nat) :
    u.leafCheck x a e lvl = s.leafCheck x a e lvl := by
  rw [h.rest]
  rfl

/-- A walk reads the same entries. -/
theorem SameKeys.walkFrom {s u : State} (h : SameKeys s u) (part tkey va lvl table : Nat) :
    SameKeys (s.walkFrom part tkey va lvl table).1 (u.walkFrom part tkey va lvl table).1 ∧
      (u.walkFrom part tkey va lvl table).2 = (s.walkFrom part tkey va lvl table).2 := by
  induction lvl generalizing s u table with
  | zero =>
    have hread (pa : Nat) := h.homeRead part tkey pa 8
    unfold State.walkFrom
    simp only [h.foreignTable, h.foreignLeaf, h.poisoned, (hread _).2]
    repeat' split
    · exact ⟨h, rfl⟩
    · exact ⟨h, rfl⟩
    all_goals exact ⟨(hread _).1, rfl⟩
  | succ l ih =>
    have hread (pa : Nat) := h.homeRead part tkey pa 8
    have hnext (pa : Nat) := fun tb => ih (hread pa).1 tb
    unfold State.walkFrom
    simp only [h.foreignTable, h.foreignLeaf, h.poisoned, (hread _).2, (hnext _ _).2]
    repeat' split
    · exact ⟨h, rfl⟩
    · exact ⟨h, rfl⟩
    · exact ⟨(hread _).1, rfl⟩
    · exact ⟨(hread _).1, rfl⟩
    · exact ⟨(hread _).1, rfl⟩
    · exact ⟨(hread _).1, rfl⟩
    · exact ⟨(hread _).1, rfl⟩
    · exact ⟨(hread _).1, rfl⟩
    · exact ⟨(hnext _ _).1, rfl⟩

theorem SameKeys.findLeaf {s u : State} (h : SameKeys s u) (x : CtxRef) (core va : Nat) :
    SameKeys (s.findLeaf x core va).1 (u.findLeaf x core va).1 ∧ (u.findLeaf x core va).2 = (s.findLeaf x core va).2 := by
  have hcore (c : CoreRef) : u.core c = s.core c := by rw [h.rest]; rfl
  have hctx : u.ctx x = s.ctx x := by rw [h.rest]; rfl
  have hpart : u.part x.part = s.part x.part := by rw [h.rest]; rfl
  have hwalk (tkey lvl table : Nat) := h.walkFrom x.part tkey va lvl table
  unfold State.findLeaf
  simp only [hcore, hctx, hpart, (hwalk _ _ _).2]
  repeat' split
  · exact ⟨h, rfl⟩
  · exact ⟨h, rfl⟩
  · exact ⟨h, rfl⟩
  · exact ⟨h, rfl⟩
  · refine ⟨?_, rfl⟩
    dsimp only
    exact (hwalk _ _ _).1.modCore _ _

theorem SameKeys.translate {s u : State} (h : SameKeys s u) (x : CtxRef) (core va : Nat) (a : Acc) :
    (u.translate x core va a).2 = (s.translate x core va a).2 := by
  obtain ⟨hsame, hleaf⟩ := h.findLeaf x core va
  unfold State.translate
  simp only [hleaf, hsame.hintCheck, hsame.leafCheck]
  repeat' split
  all_goals rfl

/-- The TSTOREs of a partition owe the same bytes. -/
theorem SameKeys.owedMem {s u : State} (h : SameKeys s u) (part : Nat) : u.owedMem part = s.owedMem part := by
  have hgroup (g : GRef) : u.group? g = s.group? g := by rw [h.rest]; rfl
  have hholds : u.holds = s.holds := by rw [h.rest]
  simp only [State.owedMem, State.chanOwes, State.copyOwes, State.storePlace, State.copyVa, hgroup, hholds, h.translate]

theorem SameKeys.readsPlain {s u : State} (h : SameKeys s u) {part slot pa n : Nat} (k : readsPlain u part slot pa n) :
    readsPlain s part slot pa n := fun i hi => by
  obtain ⟨hplain, howed⟩ := k i hi
  rw [h.owedMem] at howed
  rw [plainAt, h.sectorKey, h.sectorPlain] at hplain
  exact ⟨hplain, howed⟩

/-- A home gives the bytes that stand there where it reads in plain form and no TSTORE owes any of them. -/
theorem homeBytes_of_readsPlain {s : State} {part k pa n : Nat} (q : Nat) (hpos : 0 < n) (h : readsPlain s part k pa n) :
    s.homeBytes part (.mem pa k q false) n = (s, (List.range n).map fun i => s.memByte (pa + i)) := by
  have hread : s.homeRead part k pa n = (s, (List.range n).map fun i => s.memByte (pa + i)) := by
    refine State.homeRead_plain s part k pa n fun i hi => ?_
    have hsector : sectorSize = 64 := rfl
    rw [hsector] at hi ⊢
    have hplain := (h (max pa ((pa / 64 + i) * 64) - pa) (by omega)).1
    rwa [plainAt, show (pa + (max pa ((pa / 64 + i) * 64) - pa)) / 64 = pa / 64 + i by omega] at hplain
  have hnone (i : Nat) : ((Place.mem pa k q false).plus i).byteNo part = pa + i := Nat.div_add_mod' (pa + i) lineSize
  simp only [State.homeBytes, State.homeHolds, hread, State.freeOwed, hnone]
  refine if_neg fun hany => ?_
  simp only [Bool.and_eq_true, List.any_eq_true, List.mem_range, List.length_map, List.length_range, List.contains_iff_mem] at hany
  obtain ⟨-, i, hi, howed⟩ := hany
  exact (h i hi).2 howed

/-! ### Writing at the home of local memory -/

/-- Whether a masked write of bytes at an address writes a byte. -/
def writesByte (pa : Nat) (data : List Byte) (mask : List Bool) (a : Nat) : Bool :=
  decide (pa ≤ a) && decide (a < pa + data.length) && mask.getD (a - pa) false

/-- A write at the home leaves a byte that it does not write as it was, where its sector reads in plain form or nothing of it is written. -/
theorem homeWrite_memByte_kept (s : State) (part slot pa : Nat) {bytes : List Byte} {mask : List Bool} {a : Nat} (hlen : mask.length = bytes.length)
    (hmiss : writesByte pa bytes mask a = false)
    (h : plainAt s part slot a ∨ ∀ b, b / 64 = a / 64 → writesByte pa bytes mask b = false) :
    (s.homeWrite part slot pa bytes mask).memByte a = s.memByte a := by
  have hsector : sectorSize = 64 := rfl
  rw [State.homeWrite_eq]
  refine Eq.trans ?_ (State.openSectors_memByte s part slot pa mask (sectorsOf pa bytes.length) a (h.imp id fun hnone => ?_))
  · refine (memPut_get ..).trans (if_neg fun ⟨hlo, hhi, hmask⟩ => ?_)
    simp only [writesByte, hlo, hhi, hmask] at hmiss
    cases hmiss
  · refine Bool.eq_false_iff.2 fun htouch => ?_
    simp only [touchesSector, List.any_eq_true, List.mem_range, Bool.and_eq_true, decide_eq_true_eq, hsector] at htouch
    obtain ⟨i, hi, hlo, hmask⟩ := htouch
    have hin : a / 64 * 64 + i - pa < mask.length := by
      by_contra hout
      rw [List.getD_eq_default _ _ (by omega)] at hmask
      cases hmask
    have hwrites : writesByte pa bytes mask (a / 64 * 64 + i) = true := by
      simp only [writesByte, Bool.and_eq_true, decide_eq_true_eq]
      exact ⟨⟨hlo, by omega⟩, hmask⟩
    rw [hnone _ (by omega)] at hwrites
    cases hwrites

/-- What a store performed at its home may change, beside the line's record and the bytes themselves: what is noted of it for code, copies and signals. -/
def StoreFrame (s u : State) : Prop :=
  u = { s with mem := u.mem, keyTag := u.keyTag, poison := u.poison, fresh := u.fresh, lines := u.lines, codeOld := u.codeOld, notes := u.notes,
               sigs := u.sigs }

theorem StoreFrame.trans {s u v : State} (h : StoreFrame s u) (k : StoreFrame u v) : StoreFrame s v :=
  Eq.trans k (congrArg (fun w : State => { w with
    mem := v.mem, keyTag := v.keyTag, poison := v.poison, fresh := v.fresh, lines := v.lines, codeOld := v.codeOld, notes := v.notes,
    sigs := v.sigs }) h)

theorem StoreFrame.of_home {s u : State} (h : HomeFrame s u) : StoreFrame s u := by
  unfold StoreFrame
  rw [show u = _ from h]

theorem StoreFrame.of_noted {s u : State} (h : u = { s with fresh := u.fresh, codeOld := u.codeOld, notes := u.notes }) : StoreFrame s u := by
  unfold StoreFrame
  rw [h]

theorem StoreFrame.of_sigs {s u : State} (h : u = { s with fresh := u.fresh, sigs := u.sigs }) : StoreFrame s u := by
  unfold StoreFrame
  rw [h]

theorem StoreFrame.modLine (s : State) (l : Nat) (f : LineRec → LineRec) : StoreFrame s (s.modLine l f) := rfl

/-- What is noted of a store before its bytes land (R83, R310). -/
theorem noted_frame (s : State) (part : Nat) (loc : Place) (mask : List Bool) (no : Nat) :
    let u := (s.noteCode part loc mask no).noteMem part loc mask
    u = { s with fresh := u.fresh, codeOld := u.codeOld, notes := u.notes } := by
  unfold State.noteMem State.noteCode
  dsimp only
  split <;> split <;> rfl

theorem noteSigs_frame (s : State) (part : Nat) (loc : Place) :
    s.noteSigs part loc = { s with fresh := (s.noteSigs part loc).fresh, sigs := (s.noteSigs part loc).sigs } := by
  unfold State.noteSigs
  split <;> rfl

/-- A store at its home puts its masked bytes, leaves the others, and the line takes its completion time (R227, R229, R485). -/
theorem homeStore_spec (s : State) (part pa k q : Nat) {bytes : List Byte} {mask : List Bool} (hlen : mask.length = bytes.length) :
    let w := s.homeStore part (.mem pa k q false) bytes mask
    (∀ a, writesByte pa bytes mask a = true → w.1.memByte a = bytes.getD (a - pa) 0) ∧
      (∀ a, writesByte pa bytes mask a = false → (plainAt s part k a ∨ ∀ b, b / 64 = a / 64 → writesByte pa bytes mask b = false) →
        w.1.memByte a = s.memByte a) ∧
      w.2 = dmax (s.homeTime pa) (s.line (pa / 128)).llast ∧ w.1.line (pa / 128) = (s.line (pa / 128)).written w.2 ∧ StoreFrame s w.1 := by
  intro w
  let u := (s.noteCode part (.mem pa k q false) mask s.fresh).noteMem part (.mem pa k q false) mask
  let v := u.homeWrite part k pa bytes mask
  have hu : u = { s with fresh := u.fresh, codeOld := u.codeOld, notes := u.notes } := noted_frame ..
  have hv : HomeFrame u v := State.homeWrite_frame ..
  have hw : w.1 = (v.completeAt part (.mem pa k q false)).1.noteSigs part (.mem pa k q false) := rfl
  have hbyte (a : Nat) : w.1.memByte a = v.memByte a := by rw [hw, noteSigs_frame]; rfl
  have huline (l : Nat) : u.line l = s.line l := by rw [hu]; rfl
  have hvline (l : Nat) : v.line l = s.line l := by rw [hv, ← huline]; rfl
  have hubyte (a : Nat) : u.memByte a = s.memByte a := by rw [hu]; rfl
  have huplain (a : Nat) : plainAt u part k a ↔ plainAt s part k a := by
    unfold plainAt
    rw [hu]
    rfl
  have htime : v.homeTime pa = s.homeTime pa := by
    rw [hv]
    show u.homeTime pa = _
    rw [hu]
    rfl
  have hwct : w.2 = dmax (s.homeTime pa) (s.line (pa / 128)).llast := by
    rw [← htime, ← hvline]
    rfl
  refine ⟨fun a ha => ?_, fun a ha h => ?_, hwct, ?_, ?_⟩
  · simp only [writesByte, Bool.and_eq_true, decide_eq_true_eq] at ha
    obtain ⟨⟨hlo, hhi⟩, hmask⟩ := ha
    rw [hbyte, State.homeWrite_hit u part k pa a bytes mask hlo hhi hmask]
  · rw [hbyte, ← hubyte]
    exact homeWrite_memByte_kept u part k pa hlen ha (h.imp_left (huplain a).2)
  · have hline : w.1.line (pa / 128) = (v.completeAt part (.mem pa k q false)).1.line (pa / 128) := by rw [hw, noteSigs_frame]; rfl
    rw [hline, ← hvline]
    exact State.line_modLine_self v (pa / 128) fun r => r.written w.2
  · have hnoted : StoreFrame s u := .of_noted hu
    exact ((hnoted.trans (.of_home hv)).trans (.modLine v _ _)).trans (.of_sigs (noteSigs_frame ..))

end Sys2Proof.Machine

namespace Sys2Proof.Machine
open Sys2Proof

/-! ### The operation at the home of local memory -/

theorem LineUse.memByte {s u : State} (h : LineUse s u) (a : Nat) : u.memByte a = s.memByte a := by rw [h.rest]; rfl

theorem LineUse.homeTime {s u : State} (h : LineUse s u) (pa : Nat) : u.homeTime pa = s.homeTime pa := by rw [h.rest]; rfl

theorem LineUse.llast {s u : State} (h : LineUse s u) (l : Nat) : (u.line l).llast = (s.line l).llast := by rw [h.lines]

theorem LineUse.writes {s u : State} (h : LineUse s u) (l : Nat) : (u.line l).writes = (s.line l).writes := by rw [h.lines]

theorem LineUse.poisoned {s u : State} (h : LineUse s u) (pa n : Nat) : u.poisoned pa n = s.poisoned pa n := by rw [h.rest]; rfl

theorem LineUse.homeReaches {s u : State} (h : LineUse s u) (c : CoreRef) {pa k q : Nat} :
    u.homeReaches c (.mem pa k q false) = s.homeReaches c (.mem pa k q false) := by rw [h.rest]; rfl

/-- What no write at a home changes: threads, groups, what core-contexts hold, and what a core has under way. -/
structure SameRunning (s u : State) : Prop where
  threads : u.threads = s.threads
  groups  : u.groups = s.groups
  holds   : u.holds = s.holds
  mop     : ∀ c seq, (u.core c).mop? seq = (s.core c).mop? seq

theorem SameRunning.trans {s u v : State} (h : SameRunning s u) (k : SameRunning u v) : SameRunning s v where
  threads := k.threads.trans h.threads
  groups := k.groups.trans h.groups
  holds := k.holds.trans h.holds
  mop c seq := (k.mop c seq).trans (h.mop c seq)

theorem LineUse.sameRunning {s u : State} (h : LineUse s u) : SameRunning s u where
  threads := by rw [h.rest]
  groups := by rw [h.rest]
  holds := by rw [h.rest]
  mop c seq := by rw [h.core]

theorem StoreFrame.sameRunning {s u : State} (h : StoreFrame s u) : SameRunning s u where
  threads := by rw [h]
  groups := by rw [h]
  holds := by rw [h]
  mop c seq := by rw [show u.core c = s.core c by rw [h]; rfl]

theorem followL1_sameRunning (s : State) (c : CoreRef) (m : MOp) (w : DWord) : SameRunning s (s.followL1 c m w) where
  threads := rfl
  groups := rfl
  holds := rfl
  mop d seq := by
    unfold State.followL1 State.modCore
    rw [State.core_setCore]
    split
    · next h => subst h; split <;> rfl
    · rfl

theorem sameThreads_of_threads {s u : State} (h : u.threads = s.threads) : SameThreads s u := fun t => by
  have ht : u.thread? t = s.thread? t := by rw [State.thread?, h]; rfl
  exact ⟨by rw [ht], fun x hx _ => by rw [ht, hx]⟩

theorem Core.mop?_seq {k : Core} {seq : Nat} {m : MOp} (h : k.mop? seq = some m) : m.seq = seq := by simpa using List.find?_some h

/-- The number of an operation under way is kept, so that it stands where it stood. -/
theorem mop?_modMop_self {s : State} {c : CoreRef} {seq : Nat} {m : MOp} {f : MOp → MOp} (h : (s.core c).mop? seq = some m)
    (hf : ∀ o, (f o).seq = o.seq) : ((s.modMop c seq f).core c).mop? seq = some (f m) := by
  have hseq := Core.mop?_seq h
  have hfind : (s.core c).mops.find? (fun o => o.seq == seq) = some m := h
  have hkeep : ((fun o : MOp => o.seq == seq) ∘ fun o => if o.seq = seq then f o else o) = fun o => o.seq == seq := by
    funext o
    simp only [Function.comp_apply]
    split
    · rw [hf]
    · rfl
  unfold State.modMop Core.mop?
  rw [State.core_modCore_self]
  simp only [List.find?_map, hkeep]
  rw [hfind, Option.map_some, if_pos hseq]

/-- The state in which an operation's answer stands: the own L1 has followed the write. -/
def State.homeAnswered (s : State) (c : CoreRef) (m : MOp) (w : DWord) (old : List Byte) : State :=
  (s.followL1 c m w).modMop c m.seq fun m => { m with ans := .done w old }

theorem homeAnswered_memByte (s : State) (c : CoreRef) (m : MOp) (w : DWord) (old : List Byte) (a : Nat) :
    (s.homeAnswered c m w old).memByte a = s.memByte a := rfl

theorem homeAnswered_line (s : State) (c : CoreRef) (m : MOp) (w : DWord) (old : List Byte) (l : Nat) :
    (s.homeAnswered c m w old).line l = s.line l := rfl

theorem homeAnswered_mop? {s : State} {c : CoreRef} {m : MOp} (w : DWord) (old : List Byte) (h : (s.core c).mop? m.seq = some m) :
    ((s.homeAnswered c m w old).core c).mop? m.seq = some { m with ans := .done w old } :=
  mop?_modMop_self (((followL1_sameRunning s c m w).mop c m.seq).trans h) fun _ => rfl

theorem exec_storePerformedAtHome_mem {s : State} {c : CoreRef} {seq : Nat} {m : MOp} {pa k q : Nat} (ev : Bool) (hm : (s.core c).mop? seq = some m)
    (hkind : m.kind.writes = true) (hans : m.ans = .pending) (hold : (s.core c).olderWrite m = false) (hloc : m.loc = .mem pa k q false) :
    exec (.storePerformedAtHome c seq ev) s = .next (s.performMem c m ev) := by
  have hguard : (!m.kind.writes || m.ans != .pending || (s.core c).olderWrite m) = false := by rw [hkind, hans, hold]; rfl
  change execStorePerformedAtHome c seq ev s = _
  unfold execStorePerformedAtHome
  simp only [hm, hguard, hloc, Bool.false_eq_true, if_false]

/-- The state in which the home performs a write: the line has left the L2 first, or not. -/
def State.evicted (s : State) (ev : Bool) (l : Nat) : State := if ev then s.l2Drop l else s

theorem evicted_use (s : State) (ev : Bool) (l : Nat) : LineUse s (s.evicted ev l) := by
  cases ev
  · exact .refl s
  · exact l2Drop_use s l

/-- A line that has just left the L2 has no scope record that refuses (R237). -/
theorem evicted_scopeRefuses {s : State} {m : MOp} {ev : Bool} {pa k q : Nat} (hloc : m.loc = .mem pa k q false)
    (h : ev = true ∨ s.scopeRefuses m = false) : (s.evicted ev (pa / 128)).scopeRefuses m = false := by
  cases ev with
  | false => exact h.resolve_left Bool.false_ne_true
  | true =>
    have hscope : ((s.l2Drop (pa / 128)).line (pa / 128)).scope = .none := by
      unfold State.l2Drop
      dsimp only
      split
      · rw [State.line_modPool, State.line_modLine_self]
      · rw [State.line_modLine_self]
    unfold State.scopeRefuses
    split
    · rw [hloc]
      show LineRec.refuses ((s.l2Drop (pa / 128)).line (pa / 128)) _ _ _ = false
      unfold LineRec.refuses
      rw [hscope]
    · rfl

/-! ### What `State.performMem` does for local memory -/

section
variable {s : State} {c : CoreRef} {m : MOp} {ev : Bool} {pa k q : Nat}

theorem performMem_refused (hreach : s.homeReaches c m.loc = true) (hrefuse : s.scopeRefuses m = true) :
    s.performMem c m false = s.modMop c m.seq fun m => { m with ans := .refused } := by
  unfold State.performMem
  simp only [hreach, hrefuse, Bool.not_true, Bool.false_eq_true, if_false, if_true]

variable (hloc : m.loc = .mem pa k q false) (hreach : s.homeReaches c m.loc = true) (hrefuse : ev = true ∨ s.scopeRefuses m = false)
include hloc hreach hrefuse

/-- A store or an atomic that the home of local memory takes up needs room for its line first. -/
theorem performMem_local :
    let s0 := s.evicted ev (pa / 128)
    let x := m.thr.ctxRef
    let u := s0.l2Ready x m.loc 0 false
    let v := (homeUse s0 m false).homeBytes m.thr.part m.loc m.size
    s.performMem c m ev =
      if m.kind = .atomic then
        if s0.poisoned pa m.size && !m.instr.isRed then s0.modMop c m.seq fun m => { m with ans := .failed }
        else if !u.2 then u.1
        else match atomicNew m.instr (bytesWords m.data) (leNat v.2) with
          | some n =>
            let w := (v.1.noteScope m).homeStore m.thr.part m.loc (leBytes n m.size) (List.replicate m.size true)
            w.1.homeAnswered c m w.2 v.2
          | none => (v.1.noteScope m).homeAnswered c m ((v.1.noteScope m).line (m.loc.lineNo m.thr.part)).carried v.2
      else if !u.2 then u.1
      else
        let w := ((homeUse s0 m false).noteScope m).homeStore m.thr.part m.loc m.data m.mask
        w.1.homeAnswered c m w.2 [] := by
  have hreach0 : (s.evicted ev (pa / 128)).homeReaches c m.loc = true := by rw [hloc, (evicted_use ..).homeReaches, ← hloc, hreach]
  have hrefuse0 := evicted_scopeRefuses hloc hrefuse
  have hs0 : (if ev then s.l2Drop (m.loc.lineNo m.thr.ctxRef.part) else s) = s.evicted ev (pa / 128) := by rw [hloc]; rfl
  have hpooled : m.loc.pooled = false := by rw [hloc]; rfl
  have hready (mask : List Bool) :
      (s.evicted ev (pa / 128)).storeReady m.thr.ctxRef m.loc mask = (s.evicted ev (pa / 128)).l2Ready m.thr.ctxRef m.loc 0 false := by
    rw [hloc]; rfl
  have hhome : (s.evicted ev (pa / 128)).homeReady m.thr.ctxRef.part m.loc m.size = true := by rw [hloc]; rfl
  have hbad : (s.evicted ev (pa / 128)).homeBad m.thr.ctxRef.part m.loc m.size = (s.evicted ev (pa / 128)).poisoned pa m.size := by
    rw [hloc]; rfl
  unfold State.performMem
  dsimp only
  rw [hs0, hreach0, hrefuse0, hready, hready, hhome, hbad, hpooled, if_neg (by decide), if_neg (by decide),
    if_neg fun h => Bool.false_ne_true h.2.1]
  simp only [Bool.not_true, Bool.false_eq_true, if_false]
  rfl

/-- Without room the access stays unanswered (R241). -/
theorem performMem_store_waits (hkind : m.kind ≠ .atomic) (hroom : homeRoom (s.evicted ev (pa / 128)) m false = false) :
    s.performMem c m ev = ((s.evicted ev (pa / 128)).l2Ready m.thr.ctxRef m.loc 0 false).1 := by
  rw [performMem_local hloc hreach hrefuse, if_neg hkind, if_pos]
  rw [show ((s.evicted ev (pa / 128)).l2Ready m.thr.ctxRef m.loc 0 false).2 = false from hroom]
  rfl

theorem performMem_store_done (hkind : m.kind ≠ .atomic) (hroom : homeRoom (s.evicted ev (pa / 128)) m false = true) :
    let w := ((homeUse (s.evicted ev (pa / 128)) m false).noteScope m).homeStore m.thr.part m.loc m.data m.mask
    s.performMem c m ev = w.1.homeAnswered c m w.2 [] := by
  rw [performMem_local hloc hreach hrefuse, if_neg hkind, if_neg]
  rw [show ((s.evicted ev (pa / 128)).l2Ready m.thr.ctxRef m.loc 0 false).2 = true from hroom]
  decide

theorem performMem_atomic_done (hkind : m.kind = .atomic) (hpois : s.poisoned pa m.size = false)
    (hroom : homeRoom (s.evicted ev (pa / 128)) m false = true) :
    let v := (homeUse (s.evicted ev (pa / 128)) m false).homeBytes m.thr.part m.loc m.size
    s.performMem c m ev = match atomicNew m.instr (bytesWords m.data) (leNat v.2) with
      | some n =>
        let w := (v.1.noteScope m).homeStore m.thr.part m.loc (leBytes n m.size) (List.replicate m.size true)
        w.1.homeAnswered c m w.2 v.2
      | none => (v.1.noteScope m).homeAnswered c m ((v.1.noteScope m).line (m.loc.lineNo m.thr.part)).carried v.2 := by
  have hpois0 : (s.evicted ev (pa / 128)).poisoned pa m.size = false := by rw [(evicted_use ..).poisoned, hpois]
  rw [performMem_local hloc hreach hrefuse, if_pos hkind, hpois0, if_neg (by simp), if_neg]
  rw [show ((s.evicted ev (pa / 128)).l2Ready m.thr.ctxRef m.loc 0 false).2 = true from hroom]
  decide

end

theorem homeUse_use {s : State} {m : MOp} (h : homeRoom s m false = true) : LineUse s (homeUse s m false) :=
  (l2Ready_use s _ _ _ _ h).trans (l2Use_use ..)

/-- The state that serves a write differs from the one before it by what the L2 notes only. -/
theorem served_use {s : State} {m : MOp} {ev : Bool} {l : Nat} (h : homeRoom (s.evicted ev l) m false = true) :
    LineUse s ((homeUse (s.evicted ev l) m false).noteScope m) :=
  ((evicted_use s ev l).trans (homeUse_use h)).trans (noteScope_use ..)

/-- A write that a home performs in a state that differs by L2 notes: the bytes, the line's record, and all that stands (R229, R236). -/
structure PerformedWrite (s v o : State) (c : CoreRef) (m : MOp) (pa k : Nat) (bytes : List Byte) (mask : List Bool) (w : DWord)
    (old : List Byte) : Prop where
  stored : ∀ a, writesByte pa bytes mask a = true → o.memByte a = bytes.getD (a - pa) 0
  kept   : ∀ a, writesByte pa bytes mask a = false →
             (plainAt v m.thr.part k a ∨ ∀ b, b / 64 = a / 64 → writesByte pa bytes mask b = false) → o.memByte a = s.memByte a
  time   : w = dmax (s.homeTime pa) (s.line (pa / 128)).llast
  lwct   : (o.line (pa / 128)).lwct = w
  llast  : (o.line (pa / 128)).llast = (s.line (pa / 128)).llast
  writes : (o.line (pa / 128)).writes = (s.line (pa / 128)).writes + 1
  threads : o.threads = s.threads
  groups : o.groups = s.groups
  holds  : o.holds = s.holds
  mop    : (o.core c).mop? m.seq = some { m with ans := .done w old }

theorem homeStore_performed {s v : State} {c : CoreRef} {m : MOp} {bytes : List Byte} {mask : List Bool} (pa k q : Nat) (old : List Byte)
    (hv : LineUse s v) (hm : (s.core c).mop? m.seq = some m) (hlen : mask.length = bytes.length) :
    let w := v.homeStore m.thr.part (.mem pa k q false) bytes mask
    PerformedWrite s v (w.1.homeAnswered c m w.2 old) c m pa k bytes mask w.2 old := by
  intro w
  obtain ⟨hhit, hkept, htime, hline, hframe⟩ := homeStore_spec v m.thr.part pa k q hlen
  have hrun : SameRunning s w.1 := hv.sameRunning.trans hframe.sameRunning
  exact {
    stored := hhit
    kept := fun a ha h => (hkept a ha h).trans (hv.memByte a)
    time := by rw [htime, hv.homeTime, hv.llast]
    lwct := by rw [homeAnswered_line, hline]; rfl
    llast := by rw [homeAnswered_line, hline, ← hv.llast]; rfl
    writes := by rw [homeAnswered_line, hline, ← hv.writes]; rfl
    threads := hrun.threads
    groups := hrun.groups
    holds := hrun.holds
    mop := homeAnswered_mop? w.2 old ((hrun.mop c m.seq).trans hm) }

/-! ### An atomic's bytes -/

theorem leBytes_length (v n : Nat) : (leBytes v n).length = n := by
  induction n generalizing v with
  | zero => rfl
  | succ n ih => rw [leBytes, List.length_cons, ih]

/-- An atomic writes all of its bytes. -/
theorem writesByte_replicate {pa n a : Nat} {bytes : List Byte} (h : bytes.length = n) :
    writesByte pa bytes (List.replicate n true) a = decide (pa ≤ a ∧ a < pa + n) := by
  unfold writesByte
  rw [h, Bool.decide_and]
  by_cases hin : pa ≤ a ∧ a < pa + n
  · have : a - pa < n := by omega
    simp [hin, this]
  · rw [← Bool.decide_and, decide_eq_false hin, Bool.false_and]

/-- An atomic leaves the bytes beside its own, where it reads its own in plain form: they lie in the same sectors, or in untouched ones. -/
theorem PerformedWrite.beside {s v o : State} {c : CoreRef} {m : MOp} {pa k n : Nat} {bytes : List Byte} {w : DWord} {old : List Byte}
    (h : PerformedWrite s v o c m pa k bytes (List.replicate n true) w old) (hlen : bytes.length = n) (hplain : readsPlain v m.thr.part k pa n)
    {a : Nat} (ha : a < pa ∨ pa + n ≤ a) : o.memByte a = s.memByte a := by
  refine h.kept a ?_ ?_
  · rw [writesByte_replicate hlen, decide_eq_false (by omega)]
  · by_cases hsame : ∃ b, b / 64 = a / 64 ∧ pa ≤ b ∧ b < pa + n
    · obtain ⟨b, hsector, hlo, hhi⟩ := hsame
      have hb := (hplain (b - pa) (by omega)).1
      rw [show pa + (b - pa) = b by omega] at hb
      unfold plainAt at hb ⊢
      rw [← hsector]
      exact .inl hb
    · refine .inr fun b hb => ?_
      rw [writesByte_replicate hlen, decide_eq_false fun hin => hsame ⟨b, hb, hin⟩]

end Sys2Proof.Machine

namespace Sys2Proof.Machine
open Sys2Proof

/-! ### The values that atomics write (R260, R261) -/

theorem aopInt_add {n : Nat} (signed : Bool) (old b : BitVec n) : aopInt .add signed n old.toNat b.toNat = (old + b).toNat :=
  (BitVec.toNat_add ..).symm

theorem aopInt_min {n : Nat} (old b : BitVec n) : aopInt .min false n old.toNat b.toNat = min old.toNat b.toNat := by
  simp only [aopInt, Bool.false_eq_true, if_false]
  split <;> omega

theorem aopInt_max {n : Nat} (old b : BitVec n) : aopInt .max false n old.toNat b.toNat = max old.toNat b.toNat := by
  simp only [aopInt, Bool.false_eq_true, if_false]
  split <;> omega

theorem signExt_toNat {n : Nat} (x : BitVec n) : signExt x.toNat n = x.toInt := by
  rw [signExt_eq_toInt, BitVec.ofNat_toNat, BitVec.setWidth_eq]

theorem aopInt_min_signed {n : Nat} (old b : BitVec n) :
    aopInt .min true n old.toNat b.toNat = (BitVec.ofInt n (min old.toInt b.toInt)).toNat := by
  simp only [aopInt, if_true, signExt_toNat]
  split
  · next h => rw [min_eq_right h.le, BitVec.ofInt_toInt]
  · next h => rw [min_eq_left (not_lt.1 h), BitVec.ofInt_toInt]

theorem aopInt_max_signed {n : Nat} (old b : BitVec n) :
    aopInt .max true n old.toNat b.toNat = (BitVec.ofInt n (max old.toInt b.toInt)).toNat := by
  simp only [aopInt, if_true, signExt_toNat]
  split
  · next h => rw [max_eq_right h.le, BitVec.ofInt_toInt]
  · next h => rw [max_eq_left (not_lt.1 h), BitVec.ofInt_toInt]

theorem aopInt_and {n : Nat} (old b : BitVec n) : aopInt .and false n old.toNat b.toNat = (old &&& b).toNat := (BitVec.toNat_and ..).symm

theorem aopInt_or {n : Nat} (old b : BitVec n) : aopInt .or false n old.toNat b.toNat = (old ||| b).toNat := (BitVec.toNat_or ..).symm

theorem aopInt_xor {n : Nat} (old b : BitVec n) : aopInt .xor false n old.toNat b.toNat = (old ^^^ b).toNat := (BitVec.toNat_xor ..).symm

/-- A counter that has not come to its bound does not run over. -/
theorem aopInt_inc {n : Nat} (old b : BitVec n) :
    aopInt .inc false n old.toNat b.toNat = if b.toNat ≤ old.toNat then 0 else old.toNat + 1 := by
  have hb := b.isLt
  simp only [aopInt, Bool.false_eq_true, if_false, Int.ofNat_le]
  split
  · rfl
  · rw [Nat.mod_eq_of_lt (by omega)]

theorem aopInt_dec {n : Nat} (old b : BitVec n) :
    aopInt .dec false n old.toNat b.toNat = if old = 0 ∨ b.toNat < old.toNat then b.toNat else old.toNat - 1 := by
  have hold := old.isLt
  have hzero : old = 0 ↔ old.toNat = 0 := by rw [← BitVec.toNat_inj]; simp
  simp only [aopInt, Bool.false_eq_true, if_false, Int.ofNat_lt, hzero]
  split
  · rfl
  · rw [show old.toNat + 2 ^ n - 1 = old.toNat - 1 + 2 ^ n by omega, Nat.add_mod_right, Nat.mod_eq_of_lt (by omega)]

/-! ### A store and an atomic at the home -/

/-- A kind of operation that stores is performed on arrival, and is no atomic. -/
theorem writes_of_stores {k : MKind} (h : k = .store ∨ k = .wc ∨ k = .release) : k.writes = true ∧ k ≠ .atomic := by
  rcases h with rfl | rfl | rfl <;> exact ⟨rfl, by decide⟩

section
variable {s : State} {c : CoreRef} {seq : Nat} {ev : Bool} {m : MOp} {pa k q : Nat}
variable (hm : (s.core c).mop? seq = some m) (hans : m.ans = .pending) (hold : (s.core c).olderWrite m = false)
variable (hloc : m.loc = .mem pa k q false) (hreach : s.homeReaches c m.loc = true)
include hm hans hold hloc hreach

theorem exec_store_refused (hkind : m.kind.writes = true) (hrefuse : s.scopeRefuses m = true) :
    exec (.storePerformedAtHome c seq false) s = .next (s.modMop c seq fun m => { m with ans := .refused }) := by
  have hseq := Core.mop?_seq hm
  rw [exec_storePerformedAtHome_mem false hm hkind hans hold hloc, performMem_refused hreach hrefuse, hseq]

variable (hrefuse : ev = true ∨ s.scopeRefuses m = false)
include hrefuse

theorem exec_store_waits (hkind : m.kind = .store ∨ m.kind = .wc ∨ m.kind = .release)
    (hroom : homeRoom (s.evicted ev (pa / 128)) m false = false) :
    exec (.storePerformedAtHome c seq ev) s = .next ((s.evicted ev (pa / 128)).l2Ready m.thr.ctxRef m.loc 0 false).1 := by
  obtain ⟨hwrites, hne⟩ := writes_of_stores hkind
  rw [exec_storePerformedAtHome_mem ev hm hwrites hans hold hloc, performMem_store_waits hloc hreach hrefuse hne hroom]

theorem exec_store_performed (hkind : m.kind = .store ∨ m.kind = .wc ∨ m.kind = .release)
    (hroom : homeRoom (s.evicted ev (pa / 128)) m false = true) (hlen : m.mask.length = m.data.length) :
    ∃ o w, exec (.storePerformedAtHome c seq ev) s = .next o ∧
      PerformedWrite s ((homeUse (s.evicted ev (pa / 128)) m false).noteScope m) o c m pa k m.data m.mask w [] := by
  obtain ⟨hwrites, hne⟩ := writes_of_stores hkind
  have hseq := Core.mop?_seq hm
  refine ⟨_, _, ?_, homeStore_performed pa k q [] (served_use hroom) (by rw [hseq, hm]) hlen⟩
  rw [exec_storePerformedAtHome_mem ev hm hwrites hans hold hloc, performMem_store_done hloc hreach hrefuse hne hroom, hloc]

/-- An atomic whose bytes read in plain form answers with them, and writes what its operation makes of them (R236). -/
theorem exec_atomic_performed (hkind : m.kind = .atomic) (hpois : s.poisoned pa m.size = false) (hpos : 0 < m.size)
    (hroom : homeRoom (s.evicted ev (pa / 128)) m false = true)
    (hplain : readsPlain ((homeUse (s.evicted ev (pa / 128)) m false).noteScope m) m.thr.part k pa m.size) :
    let v := (homeUse (s.evicted ev (pa / 128)) m false).noteScope m
    let old := (List.range m.size).map fun i => s.memByte (pa + i)
    ∃ o w, exec (.storePerformedAtHome c seq ev) s = .next o ∧
      ((∃ n, atomicNew m.instr (bytesWords m.data) (leNat old) = some n ∧
          PerformedWrite s v o c m pa k (leBytes n m.size) (List.replicate m.size true) w old) ∨
        atomicNew m.instr (bytesWords m.data) (leNat old) = none ∧ o = v.homeAnswered c m w old) := by
  intro v old
  have hwrites : m.kind.writes = true := by rw [hkind]; rfl
  have hseq := Core.mop?_seq hm
  have huse : LineUse s v := served_use hroom
  have hread : (homeUse (s.evicted ev (pa / 128)) m false).homeBytes m.thr.part m.loc m.size = (homeUse (s.evicted ev (pa / 128)) m false, old) := by
    have hbyte (a : Nat) : (homeUse (s.evicted ev (pa / 128)) m false).memByte a = s.memByte a :=
      ((evicted_use s ev (pa / 128)).trans (homeUse_use hroom)).memByte a
    rw [hloc, homeBytes_of_readsPlain q hpos ((noteScope_sameKeys ..).readsPlain hplain)]
    simp only [hbyte, old]
  rw [exec_storePerformedAtHome_mem ev hm hwrites hans hold hloc, performMem_atomic_done hloc hreach hrefuse hkind hpois hroom, hread]
  dsimp only
  cases hnew : atomicNew m.instr (bytesWords m.data) (leNat old) with
  | none => exact ⟨_, _, rfl, .inr ⟨rfl, rfl⟩⟩
  | some n =>
    have hdone := homeStore_performed (bytes := leBytes n m.size) (mask := .replicate m.size true) pa k q old huse (by rw [hseq, hm])
      (by rw [List.length_replicate, leBytes_length])
    exact ⟨_, _, by rw [hloc], .inl ⟨n, rfl, hdone⟩⟩

end

/-! ### The obligation -/

/-- Settles O27: a write at a home changes L2 notes, then the masked bytes and the line's record, and the answer stands at its core; what an atomic
writes is its operation on bit vectors. -/
theorem writesPerformedAtHome : Obligations.WritesPerformedAtHome := by
  unfold Obligations.WritesPerformedAtHome
  refine ⟨fun s c seq ev m pa k q hm hkind hans hold hloc hreach => ⟨?_, ?_, ?_⟩,
    fun s c seq ev m pa k q hm hkind hans hold hloc hreach hrefuse hpois hpos _ _ hroom hplain => ?_, fun old b => ?_, fun old b => ?_, ?_⟩
  · rintro rfl hrefuse
    exact exec_store_refused hm hans hold hloc hreach (writes_of_stores hkind).1 hrefuse
  · exact fun hrefuse hroom => exec_store_waits hm hans hold hloc hreach hrefuse hkind hroom
  · intro hrefuse hroom hlen _
    obtain rfl := Core.mop?_seq hm
    obtain ⟨o, w, hexec, h⟩ := exec_store_performed hm hans hold hloc hreach hrefuse hkind hroom hlen
    obtain rfl := h.time
    refine ⟨o, hexec, h.stored, fun a ha hplain => h.kept a ha (hplain.imp_left ?_), h.lwct, h.llast, h.writes,
      sameThreads_of_threads h.threads, h.groups, h.holds, _, h.mop, rfl, rfl⟩
    have hkeys := noteScope_sameKeys (homeUse (s.evicted ev (pa / 128)) m false) m
    unfold plainAt
    rw [hkeys.sectorKey, hkeys.sectorPlain]
    exact id
  · obtain rfl := Core.mop?_seq hm
    have huse : LineUse s ((homeUse (s.evicted ev (pa / 128)) m false).noteScope m) := served_use hroom
    obtain ⟨o, w, hexec, ⟨n, hnew, h⟩ | ⟨hnew, rfl⟩⟩ := exec_atomic_performed hm hans hold hloc hreach hrefuse hkind hpois hpos hroom hplain
    · have hlen := leBytes_length n m.size
      refine ⟨o, hexec, sameThreads_of_threads h.threads, h.groups, h.holds, ⟨_, w, h.mop, rfl⟩, fun v hv => ?_,
        fun hnone => absurd (hnew.symm.trans hnone) nofun⟩
      obtain rfl : n = v := Option.some.inj (hnew.symm.trans hv)
      refine ⟨fun i hi => ?_, fun a ha => h.beside hlen hplain ha⟩
      rw [h.stored _ (by rw [writesByte_replicate hlen, decide_eq_true (by omega)]), Nat.add_sub_cancel_left]
    · have hrun := huse.sameRunning
      exact ⟨_, hexec, sameThreads_of_threads hrun.threads, hrun.groups, hrun.holds,
        ⟨_, w, homeAnswered_mop? w _ ((hrun.mop c m.seq).trans hm), rfl⟩,
        fun v hv => absurd (hnew.symm.trans hv) nofun, fun _ => huse.memByte⟩
  · exact ⟨aopInt_add false .., aopInt_add true .., aopInt_min .., aopInt_max .., aopInt_min_signed .., aopInt_max_signed ..,
      aopInt_and .., aopInt_or .., aopInt_xor .., rfl, aopInt_inc .., aopInt_dec ..⟩
  · exact ⟨aopInt_add false .., rfl, aopInt_max_signed .., aopInt_min ..⟩
  · intros
    rfl

end Sys2Proof.Machine

namespace Sys2Proof.Machine
open Sys2Proof

/-! ## What stops an access before it leaves its thread (O25) -/

/-! ### No window takes the address -/

/-- The SP form of an offset beyond the scratchpad falls in no window (R246). -/
theorem window_localEa_beyond (s : State) (t : TRef) (g : Group) {core n : Nat} {off : Word} (hn : 0 < n) (h : scratchSize ≤ off.toNat) :
    s.window t g (localEa core off) n = .error .badwin := by
  obtain ⟨htop, hmid, hlow⟩ := bitsOf_localEa core off
  have hout : bitsOf (localEa core off).toNat 55 44 ≠ 0 ∨ bitsOf (localEa core off).toNat 31 22 ≠ 0 ∨
      scratchSize < bitsOf (localEa core off).toNat 21 0 + n := by
    rw [hmid, hlow]
    omega
  simp only [State.window, htop]
  exact if_pos hout

section Checks

variable {s : State} {i : Instr} {t : TRef} {x : Thread} {g : Group} {r : Req}

theorem accessRun_error {c : Cause} (hlate : trapsLate i = true → s.unretired t = false) (hw : s.window t g r.ea r.size = .error c) :
    s.accessRun t x g i r = s.precise t x c (pcWord x.pc) r.ea 0 := by
  rw [State.accessRun, if_neg (by simpa using hlate), hw]

/-- An access that its checks let execute, and that no window takes, traps with TADDR its address; of the SP forms (R246) one beyond the scratchpad
traps before its checks of R247, and to the same effect. -/
theorem exec_access_error {c : Cause} (hr : Runs s i t x g) (hi : isAccess i = true) (hslot : s.slotBusy t x = false)
    (hreq : reqOf t.core x i = some r) (hlate : trapsLate i = true → s.unretired t = false) (hw : s.window t g r.ea r.size = .error c) :
    exec i s = .next (s.precise t x c (pcWord x.pc) r.ea 0) := by
  have hrun := accessRun_error (x := x) hlate hw
  have hplain : access s i = .next (s.precise t x c (pcWord x.pc) r.ea 0) := by
    rw [access, issueMem_of_runs hr hslot, hreq, ← hrun]
  have hsp (off : Thread → Word) (hea : r.ea = localEa t.core (off x)) (hn : 0 < r.size) :
      accessSp s i off = .next (s.precise t x c (pcWord x.pc) r.ea 0) := by
    rw [accessSp, issueMem_of_runs hr hslot, hreq]
    dsimp only
    split
    · next hbeyond =>
      rw [hea, window_localEa_beyond s t g hn hbeyond] at hw
      cases hw
      rw [hea]
    · rw [hrun]
  unfold isAccess at hi
  split at hi
  case h_3 | h_4 =>
    cases hreq
    exact hsp _ rfl (Sz.bytes_pos _)
  case h_8 => cases hi
  all_goals exact hplain

/-! ### A check of R247 fails -/

theorem accessRun_misaligned {w : Win} (hlate : trapsLate i = true → s.unretired t = false) (hw : s.window t g r.ea r.size = .ok w)
    (halign : r.ea.toNat % r.size ≠ 0) : s.accessRun t x g i r = s.precise t x .align (pcWord x.pc) r.ea 0 := by
  rw [State.accessRun, if_neg (by simpa using hlate), hw]
  exact if_pos halign

/-- A read of the core's own scratchpad that falls in a dead bank, or on poison. -/
theorem accessRun_badScratch {off : Nat} (hlate : trapsLate i = true → s.unretired t = false) (hw : s.window t g r.ea r.size = .ok (.loc off))
    (halign : r.ea.toNat % r.size = 0) (hread : r.acc.rd = true)
    (hbad : s.scrDead t.ccRef off r.size = true ∨ s.scrPoisoned t.ccRef off r.size = true) :
    s.accessRun t x g i r =
      if s.scrDead t.ccRef off r.size then s.precise t x .deadscr (pcWord x.pc) r.ea 0
      else s.precise t x .mcheck (pcWord x.pc) (BitVec.ofNat 64 off) 0 := by
  rw [State.accessRun, if_neg (by simpa using hlate), hw]
  dsimp only
  rw [if_neg (by simp [halign])]
  by_cases hdead : s.scrDead t.ccRef off r.size = true
  · simp only [hread, hdead, Bool.and_self, if_true]
  · have hpois := hbad.resolve_left hdead
    simp only [hread, hdead, hpois, Bool.and_self, Bool.and_false, Bool.false_eq_true, if_true, if_false]

/-- Loss of .pod ordering comes after the other checks (log 31). -/
theorem accessRun_timelost {w : Win} (hlate : trapsLate i = true → s.unretired t = false) (hw : s.window t g r.ea r.size = .ok w)
    (halign : r.ea.toNat % r.size = 0) (hpod : i.podOrdered = true) (hlost : s.podOk = false)
    (hread : ∀ off, w = .loc off → r.acc.rd = true → s.scrDead t.ccRef off r.size = false ∧ s.scrPoisoned t.ccRef off r.size = false) :
    s.accessRun t x g i r = s.trapHere t x .timelost := by
  have hpodLost : (i.podOrdered && !s.podOk) = true := by simp [hpod, hlost]
  rw [State.accessRun, if_neg (by simpa using hlate), hw]
  dsimp only
  rw [if_neg (by simp [halign])]
  cases w with
  | loc off =>
    dsimp only
    rw [if_neg, if_neg, if_pos hpodLost]
    · simp only [Bool.and_eq_true, not_and, Bool.not_eq_true]
      exact fun h => (hread off rfl h).2
    · simp only [Bool.and_eq_true, not_and, Bool.not_eq_true]
      exact fun h => (hread off rfl h).1
  | gang core off => exact if_pos hpodLost
  | glob va => exact if_pos hpodLost

/-- What an access to memory does once its checks have passed, by what its probe gives (R279, R283, R285). -/
def State.afterProbe (s : State) (t : TRef) (x : Thread) (i : Instr) (r : Req) (va : Nat) : Probe → State
  | .hold => s.holdGroup t
  | .walk => s.startWalk t x i va
  | .park m => s.park t x i r va m
  | .place loc => s.proceed t x i r loc va

theorem accessRun_probe {va : Nat} (hlate : trapsLate i = true → s.unretired t = false) (hw : s.window t g r.ea r.size = .ok (.glob va))
    (halign : r.ea.toNat % r.size = 0) (hpod : i.podOrdered = false) :
    s.accessRun t x g i r = s.afterProbe t x i r va (s.probe t x g i va r.acc) := by
  rw [State.accessRun, if_neg (by simpa using hlate), hw]
  dsimp only
  rw [if_neg (by simp [halign]), if_neg (by simp [hpod])]
  cases s.probe t x g i va r.acc <;> rfl

end Checks

/-! ### An access parks (R285) -/

/-- A fault event changes what its core has sent, and its partition's events. -/
theorem faultEvent_rest (s : State) (c : CtxRef) (core htid va entry : Nat) (nolog : Bool) (kind : Nat) (m : Miss) :
    s.faultEvent c core htid va entry nolog kind m =
      { s with cores := (s.faultEvent c core htid va entry nolog kind m).cores, parts := (s.faultEvent c core htid va entry nolog kind m).parts } := by
  unfold State.faultEvent
  dsimp only
  repeat' split
  all_goals rfl

theorem faultEvent_thread? (s : State) (c : CtxRef) (core htid va entry : Nat) (nolog : Bool) (kind : Nat) (m : Miss) (u : TRef) :
    (s.faultEvent c core htid va entry nolog kind m).thread? u = s.thread? u := by
  rw [faultEvent_rest]
  rfl

theorem faultEvent_holding (s : State) (c : CtxRef) (core htid va entry : Nat) (nolog : Bool) (kind : Nat) (m : Miss) (d : CCRef) :
    (s.faultEvent c core htid va entry nolog kind m).holding d = s.holding d := by
  rw [faultEvent_rest]
  rfl

/-- A thread that may probe has room in its core's operand log (R121). -/
theorem logFull_of_probe_park {s : State} {t : TRef} {x : Thread} {g : Group} {i : Instr} {va : Nat} {acc : Acc} {m : Miss}
    (h : s.probe t x g i va acc = .park m) : s.logFull t = false := by
  cases hfull : s.logFull t with
  | false => rfl
  | true => simp [State.probe, hfull] at h

theorem logUsed_length_lt {s : State} {t : TRef} (h : s.logFull t = false) : (s.logUsed t.part t.core).length < 256 := by
  simp only [State.logFull, Bool.or_eq_false_iff, decide_eq_false_iff_not, not_le] at h
  exact h.2

/-- While a core has fewer than 256 entries in use, a parked instruction takes one that is free (R285). -/
theorem freeEntryIx_spec {s : State} {c : CCRef} (h : (s.logUsed c.part c.core).length < 256) :
    s.freeEntryIx c < 256 ∧ s.freeEntryIx c ∉ s.logUsed c.part c.core := by
  obtain ⟨e, he, hfree⟩ : ∃ e < 256, e ∉ s.logUsed c.part c.core := by
    by_contra hall
    push Not at hall
    have hsub : List.range 256 ⊆ s.logUsed c.part c.core := fun e he => hall e (List.mem_range.1 he)
    have hlen := (List.nodup_range.subperm hsub).length_le
    rw [List.length_range] at hlen
    omega
  unfold State.freeEntryIx
  cases hfind : (List.range 256).find? fun e => !(s.logUsed c.part c.core).contains e with
  | none => exact absurd (List.find?_eq_none.1 hfind e (List.mem_range.2 he)) (by simpa using hfree)
  | some n => exact ⟨List.mem_range.1 (List.mem_of_find?_eq_some hfind), by simpa using List.find?_some hfind⟩

/-- An entry that no context of a core uses is free in each of its logs. -/
theorem olog_get?_of_unused {s : State} {c : CCRef} {e : Nat} (h : e ∉ s.logUsed c.part c.core) : (s.holding c).olog.get? e = none := by
  cases ho : (s.holding c).olog.get? e with
  | none => rfl
  | some o =>
    have hlog := Dict.mem_of_get? ho
    unfold State.holding Dict.getD at hlog
    cases hc : s.holds.get? c with
    | none => simp [hc, Holding.empty] at hlog
    | some y =>
      rw [hc] at hlog
      have hheld : (c, y) ∈ s.holds.filter fun p => p.1.part == c.part && p.1.core == c.core :=
        List.mem_filter.2 ⟨Dict.mem_of_get? hc, by simp⟩
      exact absurd (List.mem_flatMap.2 ⟨_, hheld, List.mem_map_of_mem hlog⟩) h

/-- The entry of the operand log that a parked instruction makes. -/
def State.parkedEntry (s : State) (t : TRef) (x : Thread) (i : Instr) (r : Req) (m : Miss) : OEntry :=
  { ptime := s.coreTime t.coreRef, data := r.data, ea := r.ea, instr := i, word := encode i, pc := x.pc, sub := m.sub,
    ccls := m.cause, stat := .waiting, grp := t.grp, rank := t.rank, htid := x.htid, arm := none }

section Park

variable (s : State) (t : TRef) (x : Thread) (i : Instr) (r : Req) (va : Nat) (m : Miss)

/-- The thread of a parked instruction goes on PARKED behind it (R121). -/
theorem park_thread? : (s.park t x i r va m).thread? t =
    some { x with st := .parked, ph := .none, cur := none, pc := x.pc + 12, gap := i.hints.gap.toNat, yld := i.hints.yld } := by
  rw [State.park, faultEvent_thread?]
  exact State.thread?_setThread_self ..

theorem park_olog : ((s.park t x i r va m).holding t.ccRef).olog =
    (s.holding t.ccRef).olog.set (s.freeEntryIx t.ccRef) (s.parkedEntry t x i r m) := by
  rw [State.park, faultEvent_holding, State.holding_modHolding_self]
  rfl

end Park

/-! ### The statement -/

/-- Settles O25: the checks of R247 in their order, each as `State.accessRun` makes it, and what parking writes. -/
theorem accessChecksAndParks : Obligations.AccessChecksAndParks := by
  intro s t x g i r hr hslot hreq hi hlate
  have hexec {w : Win} (hw : s.window t g r.ea r.size = .ok w) := exec_access hr hi hslot hreq hw
  refine ⟨fun c hw => exec_access_error hr hi hslot hreq hlate hw, fun w hw halign => ?_, fun off hw halign hread hdead => ?_,
    fun off hw halign hread hdead hpois => ?_, fun w hw halign hpod hlost hread => ?_, fun va hw halign hpod => ⟨fun hprobe => ?_, fun hprobe => ?_⟩,
    fun va m hw halign hpod hprobe => ?_⟩
  · rw [hexec hw, accessRun_misaligned hlate hw halign]
    rfl
  · rw [hexec hw, accessRun_badScratch hlate hw halign hread (.inl hdead), if_pos hdead]
    rfl
  · rw [hexec hw, accessRun_badScratch hlate hw halign hread (.inr hpois), if_neg (by simp [hdead])]
    rfl
  · rw [hexec hw, accessRun_timelost hlate hw halign hpod hlost hread]
  · rw [hexec hw, accessRun_probe hlate hw halign hpod, hprobe]
    rfl
  · rw [hexec hw, accessRun_probe hlate hw halign hpod, hprobe]
    rfl
  · obtain ⟨hlt, hfree⟩ := freeEntryIx_spec (c := t.ccRef) (logUsed_length_lt (logFull_of_probe_park hprobe))
    have hpark : exec i s = .next (s.park t x i r va m) := by
      rw [hexec hw, accessRun_probe hlate hw halign hpod, hprobe]
      rfl
    exact ⟨_, s.freeEntryIx t.ccRef, s.parkedEntry t x i r m, hlt, hpark, State.memByte_of_hbm (State.park_hbm ..), park_thread? ..,
      olog_get?_of_unused hfree, by rw [park_olog, Dict.get?_set_self], rfl, rfl, rfl, rfl, rfl, rfl, rfl, rfl, rfl⟩

end Sys2Proof.Machine

namespace Sys2Proof.Machine
open Sys2Proof

/-! ## Windows of an address, and hints on lines (O31) -/

/-! ### Windows (R267, R268) -/

/-- The window of an address stands in its top byte (R221). -/
theorem bitsOf_top (a : DWord) : bitsOf a.toNat 63 56 = a.toNat / 2 ^ 56 := by
  have ha := a.isLt
  rw [bitsOf_eq]
  omega

theorem spClass_eq (core : Nat) (a : DWord) : BitVec.ofNat 32 (spClass core a) =
    if a.toNat < 2 ^ 56 then 0 else if a.toNat / 2 ^ 56 = 0xFC then 1
    else if a.toNat / 2 ^ 56 = 0xFD then (if a.toNat / 2 ^ 32 % 2 ^ 12 = core then 2 else 3)
    else if a.toNat / 2 ^ 56 = 0xFE then 4 else 15 := by
  have hcore : bitsOf a.toNat 43 32 = a.toNat / 2 ^ 32 % 2 ^ 12 := bitsOf_eq ..
  simp only [spClass, bitsOf_top, hcore]
  split
  case h_1 h => exact (if_pos (by omega)).symm
  case h_2 h => exact ((if_neg (by omega)).trans (if_pos h)).symm
  case h_3 h =>
    refine Eq.trans ?_ ((if_neg (by omega)).trans ((if_neg (by omega)).trans (if_pos h))).symm
    split <;> rfl
  case h_4 h => exact ((if_neg (by omega)).trans ((if_neg (by omega)).trans ((if_neg (by omega)).trans (if_pos h)))).symm
  case h_5 h0 h1 h2 h3 => exact ((if_neg fun hlt => h0 (by omega)).trans ((if_neg h1).trans ((if_neg h2).trans (if_neg h3)))).symm

theorem localEa_low (core : Nat) (w : Word) : localEa core (BitVec.ofNat 32 (bitsOf w.toNat 21 0)) =
    BitVec.ofNat 64 (0xFD * 2 ^ 56 + core % 2 ^ 12 * 2 ^ 32 + w.toNat % 2 ^ 22) := by
  rw [localEa, bitsOf_low, BitVec.toNat_ofNat, Nat.mod_eq_of_lt (b := 2 ^ 32) (by omega)]

theorem spcastSp_eq (core grank : Nat) (a : DWord) : spcastSp core grank a =
    if (a.toNat / 2 ^ 56 = 0xFD ∧ a.toNat / 2 ^ 32 % 2 ^ 12 = core) ∨ (a.toNat / 2 ^ 56 = 0xFC ∧ a.toNat / 2 ^ 44 % 2 ^ 12 = grank)
    then BitVec.ofNat 32 (a.toNat % 2 ^ 22) else 0xFFFFFFFF := by
  have hcore : bitsOf a.toNat 43 32 = a.toNat / 2 ^ 32 % 2 ^ 12 := bitsOf_eq ..
  have hrank : bitsOf a.toNat 55 44 = a.toNat / 2 ^ 44 % 2 ^ 12 := bitsOf_eq ..
  simp only [spcastSp, bitsOf_top, hcore, hrank, bitsOf_low]

/-! ### What a hint on a line leaves alone -/

theorem sameThreads_trans {s u v : State} (h : SameThreads s u) (k : SameThreads u v) : SameThreads s v := fun t => by
  obtain ⟨hrec, hsame⟩ := h t
  obtain ⟨krec, ksame⟩ := k t
  exact ⟨krec.trans hrec, fun x hx hph => ksame x (hsame x hx hph) hph⟩

/-- A hint changes no byte of memory, no group, no scratchpad, and of threads no more than what fences note of writebacks (R269, R270). -/
structure HintFrame (s u : State) : Prop where
  memory  : ∀ p, u.memByte p = s.memByte p
  threads : SameThreads s u
  groups  : u.groups = s.groups
  holds   : u.holds = s.holds

theorem HintFrame.trans {s u v : State} (h : HintFrame s u) (k : HintFrame u v) : HintFrame s v where
  memory p := (k.memory p).trans (h.memory p)
  threads := sameThreads_trans h.threads k.threads
  groups := k.groups.trans h.groups
  holds := k.holds.trans h.holds

theorem HintFrame.refl (s : State) : HintFrame s s := ⟨fun _ => rfl, sameThreads_of_threads rfl, rfl, rfl⟩

theorem HintFrame.ite {s u v : State} {c : Prop} [Decidable c] (h : HintFrame s u) (k : HintFrame s v) : HintFrame s (if c then u else v) := by
  split
  · exact h
  · exact k

theorem FetchFrame.hint {s u : State} (h : FetchFrame s u) : HintFrame s u where
  memory := h.memByte
  threads := sameThreads_of_threads (by rw [h.rest])
  groups := by rw [h.rest]
  holds := by rw [h.rest]

theorem OnlyCores.hint {s u : State} (h : OnlyCores s u) : HintFrame s u := by
  have hcores : u = { s with cores := u.cores } := h
  rw [hcores]
  exact ⟨fun _ => rfl, sameThreads_of_threads rfl, rfl, rfl⟩

theorem HintFrame.modPool (s : State) (part line : Nat) (f : PoolLine → PoolLine) : HintFrame s (s.modPool part line f) :=
  ⟨fun _ => rfl, sameThreads_of_threads rfl, rfl, rfl⟩

theorem HintFrame.noteLid (s : State) (part line tag : Nat) : HintFrame s (s.noteLid part line tag) :=
  ⟨fun _ => rfl, sameThreads_of_threads rfl, rfl, rfl⟩

theorem Dict.get?_map_snd {κ α : Type} [DecidableEq κ] (t : Dict κ α) (f : κ × α → α) (k : κ) :
    Dict.get? (t.map fun e => (e.1, f e)) k = (t.get? k).map fun v => f (k, v) := by
  induction t with
  | nil => rfl
  | cons e t ih =>
    obtain ⟨j, v⟩ := e
    simp only [List.map_cons, Dict.get?]
    split
    · next h => rw [h]; rfl
    · exact ih

theorem markWb_ph (line : Nat) (x : Thread) : { markWb line x with ph := .none } = { x with ph := .none } := by
  unfold markWb
  split <;> rfl

theorem markWb_of_no_fence {line : Nat} {x : Thread} (h : ∀ sc seqs wbs nxt, x.ph ≠ .fence sc seqs wbs nxt) : markWb line x = x := by
  unfold markWb
  split
  · next hph => exact absurd hph (h _ _ _ _)
  · rfl

/-- The fences of a partition's threads note that a line has been sent. -/
def State.markSent (s : State) (part line : Nat) : State :=
  { s with threads := s.threads.map fun e => if e.1.part = part then (e.1, markWb line e.2) else e }

theorem State.thread?_markSent (s : State) (part line : Nat) (t : TRef) :
    (s.markSent part line).thread? t = (s.thread? t).map fun x => if t.part = part then markWb line x else x := by
  have hmap : (fun e : TRef × Thread => if e.1.part = part then (e.1, markWb line e.2) else e) =
      fun e => (e.1, if e.1.part = part then markWb line e.2 else e.2) := by
    funext e
    split <;> rfl
  unfold State.markSent State.thread?
  rw [hmap]
  exact Dict.get?_map_snd s.threads (fun e => if e.1.part = part then markWb line e.2 else e.2) t

theorem HintFrame.markSent (s : State) (part line : Nat) : HintFrame s (s.markSent part line) := by
  refine ⟨fun _ => rfl, fun t => ⟨?_, fun x hx hph => ?_⟩, rfl, rfl⟩
  · rw [s.thread?_markSent, Option.map_map]
    congr 1
    funext x
    simp only [Function.comp_apply]
    split
    · exact markWb_ph line x
    · rfl
  · rw [s.thread?_markSent, hx, Option.map_some, markWb_of_no_fence hph, ite_self]

theorem writeBack_hintFrame (s : State) (c : CtxRef) (line : Nat) (sectors : List Nat) : HintFrame s (s.writeBack c line sectors) := by
  unfold State.writeBack
  dsimp only
  split
  · exact .refl s
  · split
    · exact .refl s
    · split
      · exact .refl s
      · have hsent (d cls load thrs tag) : HintFrame s ((s.sendAs d cls line 0 opWR load none thrs).1.noteLid c.part line tag) :=
          (State.sendAs_fetchFrame ..).hint.trans (.noteLid ..)
        exact .ite ((hsent ..).trans (.modPool ..)) (((hsent ..).trans (.modPool ..)).trans (.markSent ..))

theorem sendOp_hintFrame (s : State) (t : TRef) (x : Thread) (i : Instr) (kind : MKind) (r : Req) (loc : Place) :
    HintFrame s (s.sendOp t x i none kind r loc).1 := by
  obtain ⟨m, -, -, -, hsent⟩ := sendOp_spec s t x i kind r loc
  exact OnlyCores.hint hsent.rest

theorem hintPlace_fetchFrame (s : State) (t : TRef) (g : Group) (ea : DWord) : FetchFrame s (s.hintPlace t g ea).1 := by
  unfold State.hintPlace
  split
  · split
    · exact .refl s
    · dsimp only
      split
      all_goals exact State.translate_fetchFrame ..
  · exact .refl s

theorem hintPlace_of_ok {s : State} {t : TRef} {g : Group} {ea : DWord} {va : Nat} {loc : Place} (hw : s.window t g ea 1 = .ok (.glob va))
    (hcut : s.walkCut t.ctxRef t.core va = false) (hloc : (s.translate t.ctxRef t.core va .hint).2 = .ok loc) :
    (s.hintPlace t g ea).2 = some (loc, va) := by
  simp [State.hintPlace, hw, hcut, hloc]

/-! ### The hints (R269, R270) -/

section Hints

variable {s : State} {t : TRef} {x : Thread} {g : Group} {h : Hints}

theorem pref_spec {l2 : Bool} {a : VReg} {b : Option VReg} {off : BitVec 24} (hr : Runs s (.pref h l2 a b off) t x g)
    (hslot : s.slotBusy t x = false) : ∃ u, HintFrame s u ∧ CompletesFrom u s (.pref h l2 a b off) t x {} := by
  have hexec : exec (.pref h l2 a b off) s = _ := issueMem_of_runs hr hslot _
  dsimp only at hexec
  have hplace := (hintPlace_fetchFrame s t g (eaOf x a b off)).hint
  cases hp : (s.hintPlace t g (eaOf x a b off)).2 with
  | none =>
    rw [hp] at hexec
    exact ⟨_, hplace, completesFrom_of_exec hexec⟩
  | some p =>
    rw [hp] at hexec
    exact ⟨_, hplace.trans (.ite (OnlyCores.modCore ..).hint (sendOp_hintFrame ..)), completesFrom_of_exec hexec⟩

theorem cctlWb_spec {a : VReg} {off : BitVec 24} (hr : Runs s (.cctlWb h a off) t x g) (hslot : s.slotBusy t x = false) :
    ∃ u, HintFrame s u ∧ CompletesFrom u s (.cctlWb h a off) t x {} := by
  have hexec : exec (.cctlWb h a off) s = _ := issueMem_of_runs hr hslot _
  refine ⟨_, (hintPlace_fetchFrame s t g (x.rdPair a + off.signExtend 64)).hint.trans ?_, completesFrom_of_exec hexec⟩
  split
  · exact .ite ((HintFrame.modPool ..).trans (writeBack_hintFrame ..)) (.refl _)
  · exact .refl _

/-- CCTL.inv drops the line that its address names from the core's L1, where it names one. -/
theorem cctlInv_spec {a : VReg} {off : BitVec 24} (hr : Runs s (.cctlInv h a off) t x g) (hslot : s.slotBusy t x = false) :
    ∃ u, (∀ p, u.memByte p = s.memByte p) ∧ u.threads = s.threads ∧
      (∀ loc va, (s.hintPlace t g (x.rdPair a + off.signExtend 64)).2 = some (loc, va) →
        ∀ l ∈ (u.core t.coreRef).l1, l.line ≠ loc.lineNo t.part) ∧
      CompletesFrom u s (.cctlInv h a off) t x {} := by
  have hexec : exec (.cctlInv h a off) s = _ := issueMem_of_runs hr hslot _
  dsimp only at hexec
  have hplace := hintPlace_fetchFrame s t g (x.rdPair a + off.signExtend 64)
  have hthreads : (s.hintPlace t g (x.rdPair a + off.signExtend 64)).1.threads = s.threads := by rw [hplace.rest]
  cases hp : (s.hintPlace t g (x.rdPair a + off.signExtend 64)).2 with
  | none =>
    rw [hp] at hexec
    exact ⟨_, hplace.memByte, hthreads, nofun, completesFrom_of_exec hexec⟩
  | some p =>
    obtain ⟨loc, va⟩ := p
    rw [hp] at hexec
    refine ⟨_, ?_, ?_, fun _ _ hloc l hl => ?_, completesFrom_of_exec hexec⟩
    · exact hplace.memByte
    · exact hthreads
    · cases hloc
      rw [State.core_modCore_self] at hl
      simpa using (List.mem_filter.1 hl).2

end Hints

/-! ### The statement -/

/-- Settles O31: the window instructions retire with what the top byte says; a hint retires from a state with the frame of a hint. -/
theorem windowAndHintResults : Obligations.WindowAndHintResults := by
  refine ⟨fun s t x g h d a hr hslot => ?_, fun s t x g h d a hr hslot => ?_, fun s t x g h d a hr hslot => ?_,
    fun s t x g h k a b off hr hslot => ?_, fun s t x g h a off hr hslot => ?_, fun s t x g h a off hr hslot => ?_,
    fun s t x g h hr hslot => completesFrom_of_exec (issueMem_of_runs hr hslot _)⟩
  · have hdone : Completes s (.sptest h d a) t x _ := completesFrom_of_exec (issueMem_of_runs hr hslot _)
    rwa [spClass_eq] at hdone
  · have hdone : Completes s (.spcastGen h d a) t x _ := completesFrom_of_exec (issueMem_of_runs hr hslot _)
    rwa [localEa_low] at hdone
  · have hdone : Completes s (.spcastSp h d a) t x _ := completesFrom_of_exec (issueMem_of_runs hr hslot _)
    rwa [spcastSp_eq] at hdone
  · obtain ⟨u, hu, hdone⟩ := pref_spec hr hslot
    exact ⟨u, hu.memory, hu.threads, hu.groups, hu.holds, hdone⟩
  · obtain ⟨u, hmem, hthreads, hline, hdone⟩ := cctlInv_spec hr hslot
    exact ⟨u, hmem, hthreads, fun va loc hw hcut hloc => hline loc va (hintPlace_of_ok hw hcut hloc), hdone⟩
  · obtain ⟨u, hu, hdone⟩ := cctlWb_spec hr hslot
    exact ⟨u, hu.memory, hu.threads, hu.groups, hu.holds, hdone⟩

end Sys2Proof.Machine
